-- ==== Sys2Proof/Word.lean ====
section
/-! DEFINITION. The word types of the model and their plainest arithmetic: bytes, register words,
finite maps as plain lists, ceiling division and parity. -/

namespace Sys2Proof

/-- One byte. -/
abbrev Byte := BitVec 8

/-- One 64-bit register word (spec/21, R404). -/
abbrev Word := BitVec 64

/-- A finite map as plain data: key and value pairs, keys strictly rising. Keys that are not listed
hold the default value that the reader of the map names. Its operations stand in Machine/Maps.lean. -/
abbrev FMap (α : Type) := List (Nat × α)

/-- ⌈a ÷ b⌉ for b > 0. -/
def ceilDiv (a b : Nat) : Nat := (a + b - 1) / b

/-- Parity of the low `n` bits of `x`: true when an odd number of them is 1. -/
def parityN : Nat → Nat → Bool
  | 0, _ => false
  | n + 1, x => Bool.xor (x % 2 == 1) (parityN n (x / 2))

/-- Bits [lo + len - 1 : lo] of a natural number. -/
def bitsOf (x lo len : Nat) : Nat := x / 2 ^ lo % 2 ^ len

/-- Bit `i` of a natural number. -/
def bitAt (x i : Nat) : Bool := x / 2 ^ i % 2 == 1

/-- Little-endian value of a list of bytes (spec/00, R6). -/
def leNat : List Byte → Nat
  | [] => 0
  | b :: bs => b.toNat + 256 * leNat bs

/-- The `n` little-endian bytes of a natural number (spec/00, R6). -/
def leBytes : Nat → Nat → List Byte
  | 0, _ => []
  | n + 1, x => BitVec.ofNat 8 x :: leBytes n (x / 256)

/-- The signed value of the low `w` bits of `x`. -/
def sNat (w x : Nat) : Int :=
  if 2 ^ (w - 1) ≤ x % 2 ^ w then (x % 2 ^ w : Nat) - (2 ^ w : Nat) else (x % 2 ^ w : Nat)

/-- The low `w` bits of an integer, as a natural number. -/
def iNat (w : Nat) (x : Int) : Nat := (x % (2 ^ w : Nat)).toNat

/-- The Nat 1 or 0 of a Bool. -/
def b2n (b : Bool) : Nat := if b then 1 else 0

end Sys2Proof
end

