-- ==== Sys2Proof/Machine/Types.lean ====
section
/-! DEFINITION. The types of the operands of the commands, and the plain data that both commands and
state hold: identities of units, requesters, images in flash, profiles, bank command words, messages of
the fabric. -/

namespace Sys2Proof

/-- Stacks S0-S8 (spec/00, R11). -/
abbrev StackId := Fin 9
/-- Channels of a stack (spec/05, Table 5-1). -/
abbrev ChanId := Fin 16
/-- Ranks of a channel (spec/05, Table 5-1). -/
abbrev RankId := Fin 4
/-- Banks of a channel, rank × 16 + bank (spec/06, R114). -/
abbrev CBank := Fin 64
/-- Vault cores VC0-VC7 (spec/00, R11). -/
abbrev CoreId := Fin 8
/-- Links L0-L15 (spec/00, R11). -/
abbrev LinkId := Fin 16
/-- Tenants 0-15 (spec/00, Table 0-2). -/
abbrev Tenant := Fin 16
/-- Local addresses (spec/01, R15). -/
abbrev LAddr := BitVec 40
/-- Global addresses: module [47:40] above a local address (spec/01). -/
abbrev GAddr := BitVec 48

/-- Who issues an access to register space or to the sync store (spec/21 R405; spec/12 R236). -/
inductive Agent where
  /-- Control core 0-3. -/
  | cc (i : Fin 4)
  /-- The keeper. -/
  | keeper
  /-- The scalar engine of a vault core. -/
  | se (v : CoreId)
  /-- Virtual function 1-16 of the host, by index 0-15 (its tenant). -/
  | vf (k : Tenant)
  /-- Physical function 0 of the host. -/
  | pf
  deriving DecidableEq, Repr

/-- A queue of vault-core or stream-engine descriptors (spec/10 Table 10-1; spec/14 R272). -/
inductive QUnit where
  /-- Queue 0-23 of a vault core. -/
  | vc (core : CoreId) (q : Fin 24)
  /-- Queue 0-15 of the stream engine. -/
  | ste (q : Fin 16)
  deriving DecidableEq, Repr

/-- What an access does to memory: sizes of 1, 2, 4 and 8 bytes (spec/21 R404; RV64). -/
inductive AccSize where
  | b1 | b2 | b4 | b8
  deriving DecidableEq, Repr

/-- The size in bytes. -/
def AccSize.bytes : AccSize → Nat
  | .b1 => 1
  | .b2 => 2
  | .b4 => 4
  | .b8 => 8

/-- A firmware image of the keeper or the runtime as flash holds it (spec/04 R81). The identity stands
for its bytes; the verdicts of the format checks and the key its signature verifies against stand in
place of the bytes (notes/assumptions/16). -/
structure FwImage where
  /-- Stands for the image's bytes. -/
  id : Nat
  /-- Version, 4 bytes (Table 4-2). -/
  version : Nat
  /-- Security version (spec/20 R387). -/
  secVersion : Nat
  /-- The key of the key store that the signature verifies against, if any. -/
  signer : Option Nat
  /-- Magic, format, lengths and CRCs hold. -/
  wellFormed : Bool
  /-- Product code (Table 4-4, check 3). -/
  product : Nat
  /-- Length in bytes; a slot holds 1 MiB of keeper and 8 MiB of runtime firmware (Table 4-1). -/
  size : Nat
  deriving DecidableEq, Repr

/-- One tenant's settings of profile section 0x0003 (spec/04, Table 4-5). -/
structure TenantCfg where
  enabled : Bool
  /-- Bit n: vault core n is in the tenant's mask. -/
  vcMask : Nat
  /-- First counter and number of counters. -/
  ctrLo : Nat
  ctrN : Nat
  /-- First semaphore and number of semaphores. -/
  semLo : Nat
  semN : Nat
  /-- Stream-slot quota. -/
  slots : Nat
  /-- Local DRAM ranges (first byte, length): the tenant's DRAM regions. -/
  regions : List (Nat × Nat)
  deriving DecidableEq, Repr

/-- One entry of profile section 0x0006 (spec/04, Table 4-5): register block, offset, value, lock. -/
structure Preload where
  block : Nat
  offset : Nat
  value : Word
  lock : Bool
  deriving DecidableEq, Repr

/-- A piecewise-linear gate curve image as bytes (spec/14, Table 14-3). -/
abbrev PwlImage := List Byte

/-- The settings that a profile fixes (spec/04, R76, Table 4-5). -/
structure ProfileCfg where
  /-- DRAM speed bin: 0 12.8, 1 9.6, 2 6.4 Gb/s. -/
  bin : Nat
  /-- Clocks in 25 MHz units: CTL, VC0-VC7, STE. -/
  ctlClk : Nat
  vcClk : List Nat
  steClk : Nat
  /-- Power cap in W. -/
  cap : Nat
  /-- Quiesce time in ms. -/
  tq : Nat
  /-- Removal policy: where stream capsules go (a global address), or none. -/
  removal : Option Nat
  /-- Minimum set: stacks, vault cores, control cores, ports. -/
  minStacks : Nat
  minVc : Nat
  minCc : Nat
  minPorts : Nat
  /-- Software may set GLB_COMPAT.KT3. -/
  allowKt3 : Bool
  /-- Islands 0-37 that the profile leaves unused, as a mask. -/
  unused : Nat
  /-- The sixteen MAP_REGION words. -/
  regions : List Word
  /-- The thirteen select masks, in the order of Table 5-4. -/
  masks : List Word
  /-- Tenants 0-15. -/
  tenants : List TenantCfg
  /-- Fabric topology: 0 gallery, 1 torus, 2 custom (spec/16, R313). -/
  topology : Nat
  /-- Routes to modules 0-255 (MAP_ROUTE words); unlisted ones are 0. -/
  routes : FMap Word
  /-- The allowed-peer list: modules with the digest of their public key, 0 for any genuine device (spec/15, R294). -/
  peers : FMap Nat
  /-- KT3 peers are allowed (128 B flits, R293, R311). -/
  allowKt3Peers : Bool
  /-- Links the profile enables, as a mask. -/
  links : Nat
  /-- The host port is enabled. -/
  hostPort : Bool
  /-- Default curves PWL0-PWL2 (section 0x0005). -/
  pwl : List PwlImage
  /-- Stream registry base (spec/14, R277). -/
  regBase : Nat
  /-- Preload list. -/
  preload : List Preload
  deriving DecidableEq, Repr

/-- One section of a PPI: its entry of the section table (spec/04, R74), and its bytes. -/
structure PpiSect where
  /-- Type, bytes 0-1 of the entry. -/
  typ : Nat
  /-- Reserved, bytes 2-3. -/
  rsv : Nat
  /-- Offset from the image start, bytes 4-7. -/
  off : Nat
  /-- Length, bytes 8-11. -/
  len : Nat
  /-- CRC-32C of the section, bytes 12-15. -/
  crc : Nat
  data : List Byte
  deriving DecidableEq, Repr

/-- A Plomos Profile Image as flash holds it (spec/04, R74, R75): header, section table with its sections, and
signature. The spec gives no byte layout of a section's settings, so `cfg` holds what the sections' bytes say
(notes/assumptions/10); arithmetic on the curve is not modelled, so `signer` holds the key that r and s verify
against (notes/assumptions/16). -/
structure Ppi where
  /-- Stands for the whole image in its digest. -/
  id : Nat
  /-- Header, Table 4-3: magic, format version, section count, total length, profile number, host mode, reserved,
  security version, product code, reserved. -/
  magic : Nat
  fmt : Nat
  count : Nat
  total : Nat
  profNum : Nat
  hostMode : Nat
  rsv0E : Nat
  secVersion : Nat
  product : Nat
  rsv18 : List Byte
  /-- The sections in the order of the section table. -/
  table : List PpiSect
  /-- The signature's halves. -/
  sigR : BitVec 384
  sigS : BitVec 384
  /-- The key its signature verifies against, if any (check 5). -/
  signer : Option Nat
  /-- The settings (check 8). -/
  cfg : ProfileCfg
  deriving DecidableEq, Repr

/-- Types of a PPI's sections. -/
def Ppi.sections (p : Ppi) : List Nat := p.table.map (·.typ)

/-- A training-cache record of one stack (spec/04, R82). -/
structure TrainRec where
  crcOk : Bool
  /-- Stack identity stored. -/
  identity : Nat
  /-- Speed bin it was made at. -/
  bin : Nat
  /-- Stored delays, keyed as the live set. -/
  delays : FMap Nat
  deriving DecidableEq, Repr

/-- The fields of a BAU command word below the opcode (spec/08, Table 8-2). -/
structure BauFields where
  col : BitVec 5
  h : Bool
  x : BitVec 3
  y : BitVec 3
  z : BitVec 3
  fmt : BitVec 3
  l : BitVec 4
  a : Bool
  m : Bool
  linc : Bool
  cnt : BitVec 5
  deriving DecidableEq, Repr

/-- The banks one bank command reaches: a stack, a channel, a compute group and a mask of its sixteen
banks (spec/08, R144). -/
structure BankSel where
  stack : StackId
  chan : ChanId
  group : Fin 4
  banks : BitVec 16
  deriving DecidableEq, Repr

/-- How the helper's measurement of one training step came out (spec/07, R128, R131; spec/22, R427). -/
structure TrainResult where
  /-- Every bit's eye was at least 24 taps wide and, in the array check, no ECC error was found. -/
  pass : Bool
  eyeMin : BitVec 8
  devMax : BitVec 8
  /-- Delays that the helper wrote into the shadow set: lane, write direction, taps. -/
  delays : List (Fin 96 × Bool × BitVec 6)
  deriving DecidableEq, Repr

/-- What a retraining pause measured: per bit lane, direction and centre; the narrowest eye (R133). -/
structure PauseResult where
  centres : List (Fin 96 × Bool × BitVec 6)
  eyeMin : BitVec 8
  deriving DecidableEq, Repr

/-- The operands of a fabric message beside its KIND (spec/16, Table 16-3). `pois` bit i: the 32-byte word
i of the data, counted from the aligned word of the address, is poisoned. -/
structure MsgIn where
  hleft : BitVec 4
  dest : BitVec 8
  src : BitVec 8
  tenant : Tenant
  addr : LAddr
  tag : BitVec 16
  arg : BitVec 40
  data : List Byte
  pois : BitVec 8 := 0
  deriving DecidableEq, Repr

/-- A fabric message: its KIND (spec/16, Table 16-4) and the rest; `inner` holds the message that an
UNREACH returns. -/
structure Msg where
  kind : Nat
  h : MsgIn
  inner : Option (Nat × MsgIn) := none
  deriving DecidableEq, Repr

/-- One flit of a received FEC block after correction: its bytes (spec/15, Tables 15-5 and 15-7), and the poison marks of
its messages in their order, for which the layout has no bits (notes/assumptions/20). -/
structure FlitIn where
  bytes : List Byte
  pois : List (BitVec 8) := []
  deriving DecidableEq, Repr

/-- Peer masks of a sync store (spec/12, Table 12-1): of which module's store, and whether of semaphores or of counters. -/
structure PeerMasks where
  mod : BitVec 8
  sem : Bool
  deriving DecidableEq, Repr

/-- The fields of a flit (spec/15, Tables 15-5 and 15-7). `credit` lists VCs with their cumulative credits: all four, or
VC `CVC` alone in a 128-byte flit. `payload` is the payload units in use, which `FILL` counts. -/
structure Flit where
  type : Nat
  vc : Nat := 0
  seq : Nat := 0
  ack : Nat
  credit : List (Nat × Nat)
  payload : List Byte := []
  deriving DecidableEq, Repr

/-- What a sensor conversion or a mode-word read gives (spec/19, R368, R371). -/
inductive SensorIn where
  /-- A conversion in the slot's unit. -/
  | conv (v : Int)
  /-- Open or shorted diode, or a failed mode-word read. -/
  | bad
  /-- MW4 readings of the four dies of a rank. -/
  | dies (a b c d : BitVec 7)
  deriving DecidableEq, Repr

/-- A function of the host port: 0 is PF 0, k is VF k (spec/17, R330). -/
abbrev HFn := Fin 17

/-- A configuration request of the host (spec/17, R328). -/
inductive CfgOp where
  | read (offset : BitVec 12)
  /-- Base of PF 0 BAR 0 (0) or of VF n BAR 2 (spec/22, Table 22-12). -/
  | bar (n : HFn) (base : Word)
  /-- VF Enable with NumVFs; 0 clears VF Enable. -/
  | vfEnable (num : HFn)
  /-- MSI-X enable of a function. -/
  | msix (fn : HFn) (on : Bool)
  /-- Power state of a function: D3hot, or D0. -/
  | power (fn : HFn) (d3 : Bool)
  deriving DecidableEq, Repr

/-- A window of the host port (spec/17, Table 17-2). -/
inductive Bar where
  | bar0 | bar2 | bar4
  deriving DecidableEq, Repr

/-- A CXL mailbox command (spec/17, Table 17-4). -/
inductive MboxCmd where
  | identify | partition | getTime | setTime (t : Word) | getEvents | clearEvents | poisonList
  | other (opcode : BitVec 16)
  deriving DecidableEq, Repr

/-- A management transport of the keeper (spec/20, Table 20-2). -/
inductive TPort where
  | smbus | i3c | doe
  deriving DecidableEq, Repr

/-- Where a request comes in: its transport, and the instance tag that the response echoes (spec/20, R390). -/
structure Transport where
  port : TPort
  tag : BitVec 8 := 0
  deriving DecidableEq, Repr

/-- A request over SMBus, of instance tag 0. -/
def Transport.smbus : Transport := ⟨.smbus, 0⟩

/-- A request over I3C, of instance tag 0. -/
def Transport.i3c : Transport := ⟨.i3c, 0⟩

/-- A request over DOE, of instance tag 0. -/
def Transport.doe : Transport := ⟨.doe, 0⟩

/-- The content of a firmware update, as far as its checks see it (spec/20, R398). -/
inductive UpdImage where
  | fw (i : FwImage)
  | ppi (p : Ppi)
  /-- A key store, and whether it verifies against the Nezepol root key. -/
  | keys (ks : List (Nat × Nat × Bool)) (rootSigned : Bool)
  deriving DecidableEq, Repr

/-- Result of training a link's lanes: the lanes that passed, in both directions (spec/15, R293). -/
structure LinkTrain where
  lanes : BitVec 8
  deriving DecidableEq, Repr

/-- What a peer offers in CONFIG: module ID, flit sizes and lane rates (spec/15, R293). -/
structure LinkOffer where
  peer : BitVec 8
  offers256 : Bool
  offers128 : Bool
  /-- Rates of 300 and 200 Gb/s. -/
  offers300 : Bool
  offers200 : Bool
  deriving DecidableEq, Repr

/-- What the keeper finds in the peer's AUTH message (spec/15, R294): whether its chain verifies to the Nezepol root and
its signature verifies (notes/assumptions/16), and the SHA-384 digest of its public key. -/
structure AuthMsg where
  chainOk : Bool
  sigOk : Bool
  keyDigest : BitVec 384
  deriving DecidableEq, Repr

/-- A firmware-update component (spec/20, Table 20-7). -/
inductive Component where
  | keeper | runtime | profile (n : Fin 4) | keyStore
  deriving DecidableEq, Repr

end Sys2Proof
end

