-- ==== Sys2Proof/Syntax.lean ====
section
/-! DEFINITION. The commands of the block: one constructor for each row of the opcode table, with the
row's operands. The rows give no bits; an event row carries what the outside decides (levels, measured
values, results of decoding) and nothing that the state already holds. -/

namespace Sys2Proof

/-- A command of the sled (spec/opcode_table.json). Each constructor's own rule of the spec is the one
that the table cites for its row. -/
inductive Instr where
  -- Power, pins and boot (spec/02-04)
  | strapWindowEnd (samples : List (BitVec 11))
  | updLockNDebounced (asserted : Bool)
  | removeReqNDebounced (asserted : Bool)
  | mainRailFault (rail : Fin 7)
  | firstPwrDemandWrite (watts : BitVec 12)
  | runtimeRelease (selfTest : BitVec 38)
  | glbResetWarm (a : Agent)
  | tenantRst (a : Agent) (t : Tenant)
  | coreRst (a : Agent) (core : Fin 16)
  -- Registers and mapping (spec/05, 21, 22)
  | registerWrite (a : Agent) (addr : LAddr) (size : AccSize) (value : Word)
  | unmappedAccess (a : Agent) (addr : GAddr) (write : Bool)
  | glbCompatWrite (a : Agent) (kt3 lock : Bool)
  | mapProbe (a : Agent) (addr : LAddr)
  -- Channels, training and speed (spec/06, 07)
  | requestEnqueue (port : Fin 12) (addr : LAddr) (wr : Option (BitVec 32 × BitVec 256))
  | channelSlotArbitrate (s : StackId) (c : ChanId)
  | urgencyRaise (s : StackId) (c : ChanId) (entry : Fin 64)
  | batchWindowClose (s : StackId) (c : ChanId) (b : CBank)
  | refreshOwedIncrement (s : StackId) (c : ChanId) (b : CBank)
  | caparAlert (s : StackId) (c : ChanId) (r : RankId) (reads : List (Option (BitVec 6)))
  | caparRecovWaitEnd (s : StackId) (c : ChanId)
  | caparReplayWindowEnd (s : StackId) (c : ChanId)
  | trainStepGo (s : StackId) (c : ChanId) (stp : BitVec 3) (r : RankId) (fin : Bool)
  | trainStepDone (s : StackId) (c : ChanId) (res : TrainResult)
  | mcDlyDataWrite (s : StackId) (taps : BitVec 6)
  | retrainPauseDue (s : StackId) (c : ChanId)
  | retrainPauseEnd (s : StackId) (c : ChanId) (res : PauseResult)
  | speedChangeRequest (s : StackId) (bin : BitVec 2)
  | speedChangeStart (s : StackId)
  | pllLockConfirmed (s : StackId)
  | pllLockTimeout (s : StackId)
  -- Bank programs and bank arithmetic (spec/08, 09)
  | bcsQdoor (a : Agent) (s : StackId) (q : Fin 4) (value : Word)
  | bcsProgramStart (s : StackId)
  | bcsOpen (s : StackId) (ahead : Fin 64)
  | bcsClose (s : StackId) (ahead : Fin 64)
  | bcsBau (s : StackId) (ahead : Fin 64)
  | bcsBcw (s : StackId) (ahead : Fin 64) (busErrors : BitVec 32)
  | bcsRead (s : StackId) (ahead : Fin 64)
  | bcsSet (s : StackId)
  | bcsSignal (s : StackId)
  | bcsEnd (s : StackId)
  | bld (b : BankSel) (f : BauFields)
  | bst (b : BankSel) (f : BauFields)
  | bmac (b : BankSel) (f : BauFields)
  | bdot (b : BankSel) (f : BauFields)
  | badd (b : BankSel) (f : BauFields)
  | bmul (b : BankSel) (f : BauFields)
  | bfma (b : BankSel) (f : BauFields)
  | bema (b : BankSel) (f : BauFields)
  | bscale (b : BankSel) (f : BauFields)
  | bcvtDequantise (b : BankSel) (f : BauFields)
  | bcvtNarrow (b : BankSel) (f : BauFields)
  | bmax (b : BankSel) (f : BauFields)
  | bmin (b : BankSel) (f : BauFields)
  | bred (b : BankSel) (f : BauFields)
  | brdacc (b : BankSel) (f : BauFields)
  | bclr (b : BankSel) (f : BauFields)
  | bsel (b : BankSel) (f : BauFields)
  | bcw (b : BankSel) (data : BitVec 256) (poisoned : Bool)
  | bcStagingMove (b : BankSel)
  | patrolScrubTick (s : StackId) (c : ChanId)
  -- Descriptors and engines (spec/10, 13)
  | layQcfgWrite (a : Agent) (core : CoreId) (q : Fin 24) (value : Word)
  | layQtailDoorbell (a : Agent) (core : CoreId) (q : Fin 24) (tail : BitVec 12)
  | layQstatErrClear (a : Agent) (core : CoreId) (q : Fin 24)
  | descriptorFetch (u : QUnit)
  | descriptorStart (u : QUnit)
  | descriptorComplete (u : QUnit) (k : Fin 8)
  | copy (core : CoreId) (q : Fin 16) (k : Fin 8)
  | fill (core : CoreId) (q : Fin 16) (k : Fin 8)
  | reduce (core : CoreId) (q : Fin 16) (k : Fin 8)
  | nop (u : QUnit) (k : Fin 8)
  | gemm (core : CoreId) (q : Fin 4)
  | vop (core : CoreId) (q : Fin 4)
  | layout (core : CoreId) (q : Fin 16) (k : Fin 8)
  | layoutStagingGrant (core : CoreId)
  -- Scalar engine (spec/10, 11)
  | seGo (a : Agent) (core : CoreId) (t : Tenant) (entry : LAddr)
  | seStop (a : Agent) (core : CoreId)
  | seLoad (core : CoreId) (f3 : BitVec 3) (rd : BitVec 5) (addr : Word)
  | seStore (core : CoreId) (f3 : BitVec 3) (addr : Word) (data : Word)
  | scInv (core : CoreId) (addr : Word)
  | scFlush (core : CoreId) (addr : Word)
  | scFlinv (core : CoreId) (addr : Word)
  | scAll (core : CoreId) (imm : BitVec 2)
  | ldv (core : CoreId) (f3 : BitVec 3) (rd : BitVec 5) (addr : Word)
  | sdv (core : CoreId) (f3 : BitVec 3) (addr : Word) (data : Word)
  -- Sync store (spec/12)
  | counterSignal (a : Agent) (m : BitVec 8) (idx : BitVec 14) (wide : Bool) (data : Word)
  | counterAmoadd (a : Agent) (m : BitVec 8) (idx : BitVec 14) (data : Word)
  | counterWait (a : Agent) (m : BitVec 8) (idx : BitVec 14) (target : Word)
  | counterRead (a : Agent) (m : BitVec 8) (idx : BitVec 14) (wide : Bool)
  | semaphoreAdd (a : Agent) (m : BitVec 8) (idx : BitVec 16) (wide : Bool) (data : Word)
  | semaphoreAmoadd (a : Agent) (m : BitVec 8) (idx : BitVec 16) (data : BitVec 32)
  | semaphoreWait (a : Agent) (m : BitVec 8) (idx : BitVec 16) (n : Word)
  | semaphoreTake (a : Agent) (m : BitVec 8) (idx : BitVec 16) (n : Word)
  | semaphoreRead (a : Agent) (m : BitVec 8) (idx : BitVec 16) (wide : Bool)
  | peerMaskRead (a : Agent) (p : PeerMasks) (idx : BitVec 16)
  | peerMaskWrite (a : Agent) (p : PeerMasks) (idx : BitVec 16) (mask : BitVec 16)
  | waitPoll (k : Fin 256)
  | waitTimeout (k : Fin 256)
  | alloc (a : Agent) (sem : Bool) (idx : BitVec 16) (owner : Tenant)
  | setval (a : Agent) (sem : Bool) (idx : BitVec 16)
  | free (a : Agent) (sem : Bool) (idx : BitVec 16)
  | clrlost (a : Agent) (sem : Bool) (idx : BitVec 16)
  | adminIgnoredAction (a : Agent) (sem : Bool) (idx : BitVec 16) (action : Fin 4)
  -- Stream engine (spec/14)
  | sreg (q : Fin 16) (k : Fin 8)
  | step (q : Fin 16) (k : Fin 8)
  | strExport (q : Fin 16) (k : Fin 8)
  | strImport (q : Fin 16) (k : Fin 8)
  | pause (q : Fin 16) (k : Fin 8)
  | pauseResume (q : Fin 16) (k : Fin 8)
  | send (q : Fin 16) (k : Fin 8)
  | pwlLoad (a : Agent) (index : BitVec 4) (addr : LAddr)
  -- Links (spec/15)
  | lnkCtlEnWrite (a : Agent) (l : LinkId) (en : Bool)
  | linkDetectStart (l : LinkId)
  | linkTerminationFound (l : LinkId)
  | linkTrained (l : LinkId) (r : LinkTrain)
  | linkAligned (l : LinkId)
  | linkConfigAgreed (l : LinkId) (o : LinkOffer)
  | linkAuthVerified (l : LinkId) (m : AuthMsg)
  | linkDownRetry (l : LinkId)
  | flitTimeSend (l : LinkId)
  | fecBlockReceive (l : LinkId) (lo hi : List (Fin 1088)) (flits : List (List Byte)) (pois : List (List (BitVec 8)))
  | creditRelease (l : LinkId) (vc : Fin 4)
  | nakRepeatTimeout (l : LinkId)
  | replayAckTimeout (l : LinkId)
  | lnkRetrain (a : Agent) (l : LinkId)
  | laneLockLoss (l : LinkId) (lane : Fin 8)
  | laneErrorWindow (l : LinkId) (lane : Fin 8) (count : BitVec 32)
  | recoverCheckEnd (l : LinkId) (lock : BitVec 8) (errors : List (BitVec 24))
  | recoverTimeout (l : LinkId)
  | linkLockLoss (l : LinkId)
  | autoWidenTick (l : LinkId)
  | autoWidenPass (l : LinkId)
  -- Fabric (spec/16)
  | fabWrite (l : LinkId) (m : MsgIn)
  | fabRead (l : LinkId) (m : MsgIn)
  | fabricReduce (l : LinkId) (m : MsgIn)
  | readData (l : LinkId) (m : MsgIn)
  | writeAck (l : LinkId) (m : MsgIn)
  | fabSignal (l : LinkId) (m : MsgIn)
  | syncOp (l : LinkId) (m : MsgIn)
  | syncResp (l : LinkId) (m : MsgIn)
  | refuse (l : LinkId) (m : MsgIn)
  | unreach (l : LinkId) (m : MsgIn) (kind : BitVec 4) (inner : MsgIn)
  | leave (l : LinkId) (m : MsgIn)
  | reservedKindMessage (l : LinkId) (kind : BitVec 4) (vc : Fin 4) (m : MsgIn)
  | fabricRequestTimeout (tag : BitVec 16)
  | routeChangeSend (m : BitVec 8)
  | routeReturnTimer (m : BitVec 8)
  | moduleGoneTimeout (m : BitVec 8)
  -- Host port (spec/17)
  | hostConfigRequest (fn : HFn) (op : CfgOp)
  | hostMemoryWrite (fn : HFn) (b : Bar) (offset : LAddr) (data : List Byte) (ep : Bool)
  | hostMemoryRead (fn : HFn) (b : Bar) (offset : LAddr) (len : Fin 4097)
  | fetchadd (fn : HFn) (b : Bar) (offset : LAddr) (wide : Bool) (data : Word)
  | swap (fn : HFn) (b : Bar) (offset : LAddr) (wide : Bool) (data : Word)
  | cas (fn : HFn) (b : Bar) (offset : LAddr) (wide : Bool) (compare data : Word)
  | flrVf (k : Tenant)
  | watchArm (k : Tenant) (w : Fin 31) (counter : BitVec 14) (target : BitVec 48) (arm : Bool)
  | watchPoll (k : Tenant) (w : Fin 31)
  | rawDoorbell (k : Tenant) (s : Fin 8) (value : Word)
  | rawDoorbellStatusRead (k : Tenant) (s : Fin 8)
  | cxlMemRequest (hpa : Word) (wr : Option (BitVec 64 × List Byte)) (poison : Bool)
  | cxlMailboxCommand (c : MboxCmd)
  -- Records, sparing and rescue (spec/18)
  | keeperRecordMove (island : Fin 38)
  | spareGo (s : StackId) (r : RankId) (spare : Fin 4)
  | spareEnd (s : StackId)
  | migrationCopyRow (s : StackId) (c : ChanId)
  | migrationRowBreak (s : StackId) (c : ChanId) (b : Fin 16)
  | migrationCutover (s : StackId)
  | spareMapCommit (s : StackId)
  | rescueDmaGo (n : Fin 4) (src dst : LAddr) (len : BitVec 25) (fill sig : Bool)
  | rescueDmaDone (n : Fin 4)
  -- Heat and power (spec/19)
  | sensorSlotRead (i : Fin 100) (v : SensorIn)
  | criticalComparator (i : Fin 36)
  | powerSample (watts : BitVec 12)
  | pausePeriodStart (s : StackId) (c : ChanId)
  | thmLimitWrite (a : Agent) (value : BitVec 24)
  -- The keeper (spec/20)
  | getIdentity (t : Transport)
  | getStatus (t : Transport)
  | readLog (t : Transport) (q : Word)
  | clearFault (t : Transport)
  | locate (t : Transport) (on : Bool)
  | setCap (t : Transport) (watts : BitVec 16)
  | setOverride (t : Transport) (p : BitVec 8)
  | keeperResetWarm (t : Transport)
  | keeperResetTenant (t : Transport) (n : BitVec 8)
  | keeperResetCore (t : Transport) (core : BitVec 8)
  | forceSem (t : Transport) (idx : BitVec 16) (value : BitVec 32)
  | rescueDma (t : Transport) (n : BitVec 8) (src dst : LAddr) (len : BitVec 25) (fill sig : Bool)
  | spareMapRead (t : Transport)
  | spareMapClear (t : Transport) (k : BitVec 8)
  | readReg (t : Transport) (addr : LAddr)
  | rollback (t : Transport) (c : Component)
  | keeperRestart (t : Transport)
  | unknownCommand (t : Transport) (code : BitVec 8)
  | setEndpointId (t : Transport) (eid : BitVec 8)
  | getEndpointId (t : Transport)
  | getMctpVersionSupport (t : Transport)
  | getMessageTypeSupport (t : Transport)
  | getVendorDefinedMsgSupport (t : Transport)
  | getTid (t : Transport)
  | setTid (t : Transport) (tid : BitVec 8)
  | getPldmVersion (t : Transport)
  | getPldmTypes (t : Transport)
  | getPldmCommands (t : Transport) (type : BitVec 6)
  | getPdrRepositoryInfo (t : Transport)
  | getPdr (t : Transport) (handle : BitVec 32)
  | getSensorReading (t : Transport) (id : BitVec 16)
  | getStateSensorReadings (t : Transport) (id : BitVec 16)
  | setEventReceiver (t : Transport) (on : Bool) (eid : BitVec 8)
  | queryDeviceIdentifiers (t : Transport)
  | getFirmwareParameters (t : Transport)
  | requestUpdate (t : Transport)
  | passComponentTable (t : Transport) (c : Component)
  | updateComponent (t : Transport) (c : Component) (size : BitVec 32) (img : UpdImage)
  | requestFirmwareData (t : Transport) (len : Fin 1025)
  | activateFirmware (t : Transport)
  | pldmGetStatus (t : Transport)
  | cancelUpdateComponent (t : Transport)
  | cancelUpdate (t : Transport)
  | getVersion (t : Transport)
  | getCapabilities (t : Transport)
  | negotiateAlgorithms (t : Transport) (ecdsaP384 sha384 : Bool)
  | getDigests (t : Transport)
  | getCertificate (t : Transport) (slot : BitVec 4) (offset len : BitVec 16)
  | challenge (t : Transport) (slot : BitVec 4) (nonce : BitVec 256)
  | getMeasurements (t : Transport) (index : BitVec 8) (nonce : BitVec 256)
  | hostLinkUp (speed : Fin 6) (width : Fin 5) (flit : Bool)
  | tenantResetDone (t : Tenant)
  | coreResetDone (core : Fin 12)
  | columnStep (s : StackId)
  | entdaa (addr : BitVec 7)
  -- Events and commands of every family that carry no operand
  | insertionPrecharge
  | powerOnReset
  | modResetNAssert
  | modResetNDeassert
  | pwrEnAssert
  | pwrEnDeassert
  | perstNAssert
  | perstNDeassert
  | quiesceTqExpire
  | quiesceSafeToRemove
  | inputLowTimeout
  | inputLowRecover
  | inputFall37v
  | inputRise62v
  | inputFall61v
  | mainRailsInRegulation
  | keeperRomStart
  | keeperRailEnable
  | profileSelect
  | readyRaise
  | bootTimeout
  | trainingCacheWrite
  | deadlockScan
  | streamEvictWaitEnd
  | streamQuantumExpire
  | flrPf
  | hostLinkDown
  | heartbeatCheck
  | keeperWatchdog
  | housekeepingRoundEnd
  | powerLoopTick
  | pwrRangeStep
  | pwrRangeResume
  | flashOperationDone
  | keeperTrialCommit
  | smbusAlertResponse
  | mainRailsOff
  | alwaysOnSupplyLost
  | ltssmRecoveryEntry
  | keeperRestartComplete
  deriving DecidableEq, Repr

end Sys2Proof
end

