-- ==== Sys2Proof/Decode.lean ====
section
/-! DEFINITION. The command that a word of the opcode table spells. No row of the table gives bits: the
commands of this block are events, register accesses and messages, not encoded words. -/

namespace Sys2Proof

/-- No row of spec/opcode_table.json gives fields, so no word spells a command. -/
def decodeTableWord (_nbits _w : Nat) : Option Instr := none

end Sys2Proof
end

