-- ==== Sys2Proof/Machine/Sled.lean ====
section
/-! DEFINITION. The state of the sled as plain data, block by block: every register file, queue, buffer,
counter, mode and pin that the spec names. The default value of each field is its value after reset. -/

namespace Sys2Proof

/-- An error record (spec/18, Table 18-1): `tenant` none when `TVALID` is 0. -/
structure Rec where
  code : Nat
  sev : Nat
  island : Nat
  object : Nat := 0
  waiter : Nat := 0
  tenant : Option Nat := none
  ext : Nat := 0
  amod : Nat := 0
  avalid : Bool := false
  aarg : Bool := false
  time : Nat := 0
  arg1 : Nat := 0
  arg2 : Nat := 0
  deriving DecidableEq, Repr

/-- The input stage (spec/03, R46-R48; spec/02, R32). -/
inductive Supply where
  /-- Always-on supply not in regulation. -/
  | unpowered
  /-- Charging the capacitance behind the hot-swap stage (R46). -/
  | precharge
  /-- The stage has opened and the hold-up of R48 runs; true after an overvoltage. -/
  | holdUp (overV : Bool)
  /-- Open after an overvoltage, the hold-up over, waiting for 61.0 V (Table 3-1). -/
  | overV
  /-- Conducting, always-on rails in regulation. -/
  | on
  deriving DecidableEq, Repr

/-- The main rails (spec/03, R49). -/
inductive Rails where
  | off | rising | up | falling
  deriving DecidableEq, Repr

/-- One rail of Table 3-2: off, ramping, in regulation, or discharging. -/
inductive RailLevel where
  | off | ramp | up | discharge
  deriving DecidableEq, Repr

/-- The planned removal (spec/03, Table 3-4). -/
inductive Quiesce where
  | none | draining | expired | safe
  deriving DecidableEq, Repr

/-- The range-change sequence of spec/02, Table 2-7: the held power, whether step 3 has passed, the newest
reading (not output before step 5) and whether a further change is waiting (R43). -/
structure RangeSeq where
  held : Nat
  target : Bool
  switched : Bool := false
  newest : Nat
  again : Option Bool := none
  deriving DecidableEq, Repr

/-- Levels of the output pins (spec/02, Table 2-6). `none`: released. -/
structure Pins where
  faultLow : Bool
  thermLow : Bool
  smbAlertLow : Bool
  ready : Option Bool
  demandUv : Option Nat
  rangeInd : Option Bool
  coolant : Option Nat
  ledPwr : Bool
  ledFault : Bool
  ledLoc : Bool
  /-- PRSNT_N reads low: both short contacts have seated (a passive pin, in every phase). -/
  prsntLow : Bool
  tdo : Option Bool
  smbDat : Option Bool
  i3cSda : Option Bool
  deriving DecidableEq, Repr

/-- Levels of the input pins that no command of the table drives (spec/02, Table 2-5): the test port and the two
management buses. Their levels are those of an idle board (notes/assumptions/5). -/
structure BusPins where
  tck : Bool := false
  tms : Bool := true
  tdi : Bool := true
  trstN : Bool := false
  smbClk : Bool := true
  smbDat : Bool := true
  i3cScl : Bool := true
  i3cSda : Bool := true
  deriving DecidableEq, Repr

/-- Power, pins, straps and resets (spec/02, spec/03). -/
structure Plat where
  pwrEn : Bool := false
  perst : Bool := true
  modReset : Bool := false
  updLock : Bool := true
  removeReq : Bool := false
  /-- The sled is seated: PRSNT_N is joined to GND_LAST (spec/02, Table 2-5). -/
  seated : Bool := true
  bus : BusPins := {}
  supply : Supply := .on
  strap : BitVec 11 := 0
  windows : Nat := 0
  unstable : Bool := false
  unstableMask : BitVec 11 := 0
  sampling : Bool := true
  rails : Rails := .off
  /-- Rails in regulation, counted in the order of Table 3-2: always-on A1-A3, main M1-M7. -/
  aonUp : Nat := 3
  railUp : Nat := 0
  railFault : Bool := false
  inputLow : Bool := false
  /-- The keeper has yet to log the low input (it did not run when the condition came). -/
  lowOwed : Bool := false
  quiesce : Quiesce := .none
  quiesced : Bool := false
  /-- PWR_EN has been deasserted and not asserted since. -/
  cycle : Bool := false
  locate : Bool := false
  ready : Bool := false
  rangeHigh : Option Bool := none
  demand : Option Nat := none
  rangeSeq : Option RangeSeq := none
  coolant : Option Nat := none
  heldPins : Option Pins := none
  resetAt : Nat := 0
  /-- Cores 0-7 VC, 8-11 CC under core reset, and whether GLB_RESET started it. -/
  coreReset : List (Nat × Bool) := []
  /-- Tenants under reset, and whether GLB_RESET started it. -/
  tenantReset : List (Nat × Bool) := []
  deriving DecidableEq, Repr

/-- One island (spec/22, Table 22-2): 0 unused, 1 in reset, 2 running, 3 offline. -/
structure Isl where
  state : Nat := 1
  selftest : Bool := false
  deriving DecidableEq, Repr

/-- The keeper's processor (spec/20, R386; spec/04, R88). -/
inductive KprPhase where
  | rom | running | restarting | recovery
  deriving DecidableEq, Repr

/-- What the keeper knows of one control core's heartbeat (spec/18, R364). -/
structure Hb where
  last : Nat := 0
  since : Nat := 0
  hangs : List Nat := []
  deriving DecidableEq, Repr

/-- One directory copy (spec/04, Table 4-2). -/
structure Dir where
  seq : Nat
  kprSlot : Nat
  rtSlot : Nat
  profCopy : List Nat
  trainGen : Nat
  versions : List Nat
  deriving DecidableEq, Repr

/-- A record of keeper state held as two alternate copies, each with a sequence number (spec/20, R387). -/
structure TwoCopy (α : Type) where
  a : Option (Nat × α) := none
  b : Option (Nat × α) := none
  deriving DecidableEq, Repr

/-- A key of the key store (spec/20, R385): its kind and whether it is marked revoked. -/
structure Key where
  id : Nat
  /-- 0 Nezepol root, 1 firmware signing, 2 profile signing. -/
  kind : Nat
  revoked : Bool
  deriving DecidableEq, Repr

/-- One spare-map entry: stack and rank replaced (spec/18, R358). -/
structure SpareEnt where
  stack : Nat
  rank : Nat
  deriving DecidableEq, Repr

/-- An entry of the event log (spec/20, Table 20-6): `hold` says that it was written on hold-up. -/
structure LogEnt where
  seq : Nat
  boot : Nat
  mod : Nat
  hold : Bool
  record : Rec
  deriving DecidableEq, Repr

/-- The configuration flash (spec/04, Table 4-1; spec/20). -/
structure Flash where
  readable : Bool := true
  /-- The bytes of the two directory copies (Table 4-2); an erased copy has none. -/
  dir0 : List Byte := []
  dir1 : List Byte := []
  /-- Images, profiles and training records by flash byte address (Table 4-1; Machine/FlashMap.lean). -/
  keeper : FMap FwImage := []
  runtime : FMap FwImage := []
  prof : FMap Ppi := []
  train : FMap TrainRec := []
  override : TwoCopy (Option Nat) := {}
  floors : TwoCopy (List Nat) := {}
  /-- Trial records: pending (component, slot) (spec/20, R399). -/
  trial : TwoCopy (FMap Nat) := {}
  spares : TwoCopy (FMap SpareEnt) := {}
  keys : TwoCopy (List Key) := {}
  /-- The event log, in the order of writing, and the next sequence number (R396). -/
  log : List LogEnt := []
  logSeq : Nat := 0
  boot : Nat := 0
  deriving DecidableEq, Repr

/-- A flash operation waiting or running (spec/20, R388): its priority class and what it writes. -/
inductive FlashOp where
  | logEntry (seq : Nat) (r : Rec)
  | updatePiece (comp : Nat) (bytes : Nat)
  deriving DecidableEq, Repr

/-- The MCTP, PLDM, I3C and SPDM sessions of the keeper (spec/20, R389-R395). -/
structure Mgmt where
  eid : Nat := 0
  tid : Nat := 0
  i3cAddr : Option Nat := none
  eventRx : Option Nat := none
  /-- SPDM: 0 nothing yet, 1 versions, 2 capabilities, 3 algorithms negotiated. -/
  spdm : Nat := 0
  deriving DecidableEq, Repr

/-- The firmware-update session (spec/20, R398). -/
structure Session where
  /-- 0 the component table is awaited, 1 components may be updated, 2 an image is being transferred and verified. -/
  phase : Nat := 0
  /-- Components of the accepted table. -/
  comps : List Nat := []
  /-- The component in transfer, its size, its image, and the bytes received and written. -/
  comp : Nat := 0
  size : Nat := 0
  img : Option UpdImage := none
  asked : Nat := 0
  written : Nat := 0
  /-- Components applied, and the key store that waits for its activation. -/
  done : List Nat := []
  staged : Option (List Key) := none
  deriving DecidableEq, Repr

/-- A rescue DMA descriptor that moves (spec/18, Table 18-9). -/
structure Rdma where
  n : Nat
  src : Nat
  dst : Nat
  len : Nat
  fill : Bool
  sig : Bool
  deriving DecidableEq, Repr

/-- The keeper (spec/04, spec/18, spec/19, spec/20). -/
structure Kpr where
  phase : KprPhase := .rom
  slot : Nat := 0
  rtSlot : Nat := 0
  prof : Nat := 0
  copy : Nat := 0
  fallback : Bool := false
  tier : Nat := 0
  fullTrain : Nat := 0
  /-- Newly trained stacks whose records the training cache does not hold yet (R82). -/
  cachePend : Nat := 0
  /-- Stacks initialised since power came, whose banks firmware has yet to fill with zero (spec/07, Table 7-1). -/
  fillPend : Nat := 0
  /-- Keeper slot that the start used (R79). -/
  bootSlot : Nat := 0
  railEnable : Bool := false
  chosen : Bool := false
  /-- Steps 5 to 9 of the boot are complete (spec/04, Table 4-6). -/
  booted : Bool := false
  digProf : Option Nat := none
  digRt : Option Nat := none
  bootAt : Nat := 0
  startedAt : Nat := 0
  outstanding : Nat := 0
  alert : Bool := false
  coll : FMap (List Rec) := []
  /-- Records in SRAM, not yet in the event log, with their sequence numbers (R346, R397). -/
  ring : List (Nat × Rec) := []
  ctlq : List Rec := []
  lost : Nat := 0
  lost4 : Nat := 0
  rate : FMap Nat := []
  hb : FMap Hb := []
  wdtAt : Nat := 0
  runCap : Option Nat := none
  session : Option Session := none
  mgmt : Mgmt := {}
  ops : List FlashOp := []
  /-- Rescue DMA descriptors moving, with the operands that their GO took (spec/18, R361). -/
  rdma : List Rdma := []
  /-- Pending migrations in trigger order: stack, rank, done as fatal (spec/18, R352). -/
  pendingMig : List (Nat × Nat × Bool) := []
  /-- Spares withdrawn from the pool, as a mask (spec/18, R351, R357). -/
  badSpares : Nat := 0
  deriving DecidableEq, Repr

/-- One entry of a channel request queue (spec/06, R109-R113). -/
structure Req where
  port : Nat
  bank : Nat
  row : Nat
  col : Nat
  /-- Byte mask and data of a write; none for a read. -/
  wr : Option (BitVec 32 × BitVec 256)
  at_ : Nat
  u : Nat
  /-- Place in the memory, after redirection. -/
  phys : Nat
  /-- The request belongs to the batch of its bank's open row. -/
  join : Bool := false
  deriving DecidableEq, Repr

/-- Ordinary-row, timing and refresh state of one bank of a channel (spec/06, R107, R114, R127). -/
structure BankT where
  row : Option Nat := none
  /-- Columns of the batch issued, the ACT time, no more may join. -/
  joined : Nat := 0
  actAt : Nat := 0
  closed : Bool := false
  /-- Taken from a bank program: its program rows are closed for a request or a refresh (R108, R116). -/
  taken : Bool := false
  /-- Program rows that the BCS has yet to reopen: bit 0 the even half, bit 1 the odd (R108, R161). -/
  reop : Nat := 0
  /-- Earliest times for the next ACT or refresh and for the next column. -/
  rdyAct : Nat := 0
  rdyCol : Nat := 0
  owed : Nat := 0
  /-- The bank's increments are spaced by the doubled rate (R119), and the time of the next one; none before the first
  since the stagger began (R114). -/
  fast : Bool := false
  next : Option Nat := none
  deriving DecidableEq, Repr

/-- A command of a channel (spec/06, spec/08). -/
inductive ChCmd where
  /-- A mode-word write. -/
  | mode (word value : Nat)
  /-- ACT of a row, precharge, and refresh of a bank. -/
  | act (bank row : Nat)
  | pre (bank : Nat)
  | ref (bank : Nat)
  /-- The column command of a request, with its write data. -/
  | col (r : Req)
  /-- A bank-program command: instruction, group, bank mask, row, half or register, and its data. -/
  | prog (iop group banks arg data : Nat)
  deriving DecidableEq, Repr

/-- An entry of the retry buffer (spec/06, R122): the ranks addressed, the command, and for a read whose data has not
reached its port yet the port, the data and when it arrives. -/
structure RetryEnt where
  ranks : Nat
  cmd : ChCmd
  due : Nat := 0
  out : Option (Nat × BitVec 256 × Bool) := none
  deriving DecidableEq, Repr

/-- An active parity replay (spec/06, Table 6-3). -/
structure Replay where
  rank : Nat
  d : Nat
  attempts : Nat
  /-- 0 MW5 to be read, 1 waiting tPAR_RECOV, 2 replaying, then waiting tPAR_ALERT. -/
  phase : Nat
  /-- Commands that the rank ignored and that have yet to be replayed, oldest first. -/
  todo : List RetryEnt := []
  deriving DecidableEq, Repr

/-- A scrub item: one row of one bank, or one word of the repair list (spec/09, R178). -/
structure ScrubItem where
  bank : Nat
  row : Nat
  col : Option Nat
  deriving DecidableEq, Repr

/-- One DRAM channel (spec/06, spec/07, spec/09). -/
structure Chan where
  q : List Req := []
  clk : Nat := 0
  bank : FMap BankT := []
  /-- Earliest times for the next ACT, write, read by rank, and refresh (R127). -/
  rdyAct : Nat := 0
  rdyWr : Nat := 0
  rdyRdRank : FMap Nat := []
  rdyRef : Nat := 0
  /-- Earliest time of any command: a mode-word write or read, or the wait of a replay, runs (R127). -/
  rdyCmd : Nat := 0
  /-- Earliest time of the next group activate (spec/08, Table 8-5). -/
  rdyOpen : Nat := 0
  /-- The last 32 commands issued, newest first (R122). -/
  retry : List RetryEnt := []
  replay : Option Replay := none
  /-- Speed bin whose values MW0-MW3 hold, and MW5 by rank (spec/06, Table 6-2). -/
  mwBin : Nat := 0
  mw5 : FMap Nat := []
  /-- When the refresh stagger of the channel began (R114). -/
  refAt : Nat := 0
  /-- Ranks out of service on this channel, as a mask (R125). -/
  dead : Nat := 0
  /-- Rank of the retraining pause in progress, rank next in rotation, a pause is due, an extra pause owed,
  consecutive narrow pauses by rank (spec/07, R132, R133). -/
  pause : Option Nat := none
  rot : Nat := 0
  /-- 1: the regular pause is due. -/
  due : Nat := 0
  /-- Rank of the extra pause owed, and whether it is due (R133). -/
  extra : Option Nat := none
  dueX : Bool := false
  narrow : FMap Nat := []
  bcm : Bool := false
  online : Bool := false
  /-- Gone offline (spec/04, R89). -/
  off : Bool := false
  repair : List ScrubItem := []
  deferred : List ScrubItem := []
  curBank : Nat := 0
  curRow : Nat := 0
  /-- End of the thermal pause slots of this pause period (spec/19, R376). -/
  thermal : Nat := 0
  deriving DecidableEq, Repr

/-- A migration of one user rank (spec/18, R350-R357). -/
structure Mig where
  rank : Nat
  spare : Nat
  /-- 1 copy, 2 cutover, 3 done. -/
  state : Nat := 1
  abort : Bool := false
  /-- Watermark per channel and banks of the row already copied. -/
  wm : FMap Nat := []
  part : FMap Nat := []
  /-- When a program row that the copy waits for is broken, by channel × 16 + bank (R354). -/
  waits : FMap Nat := []
  /-- Earliest time of the next copy on each channel: one column read in four command slots (R354). -/
  next : FMap Nat := []
  /-- Unreadable channels (R356), as a mask. -/
  dead : Nat := 0
  committed : Bool := false
  /-- GO = 0 has been written, and takes effect once the map entry is committed (R352). -/
  ending : Bool := false
  deriving DecidableEq, Repr

/-- A speed change held or running (spec/07, R135). -/
structure Speed where
  target : Nat
  /-- 0 held, 1 the PLL relocks. -/
  phase : Nat := 0
  deriving DecidableEq, Repr

/-- One memory controller (spec/06, spec/07, spec/18). -/
structure Mcs where
  bin : Nat := 0
  setB : Bool := false
  speed : Option Speed := none
  lowSince : Option Nat := none
  selfRefresh : Bool := false
  /-- Helper step that runs, and those queued: channel, step, rank. -/
  helper : Option (Nat × Nat × Nat) := none
  helperQ : List (Nat × Nat × Nat) := []
  /-- Steps passed and failed by channel × 4 + rank, as masks of step numbers. -/
  passed : FMap Nat := []
  failed : FMap Nat := []
  /-- Ranks refreshed at the doubled rate, as a mask (R119). -/
  fast : Nat := 0
  /-- Delays by set, channel, rank, lane and direction (R428). -/
  dlyShadow : FMap Nat := []
  dlyLive : FMap Nat := []
  heldDly : List (Nat × Nat) := []
  mig : Option Mig := none
  /-- Channels whose MC_TRAIN_CTL is locked since OWNER was set, as a mask (spec/07, R129). -/
  ownerLock : Nat := 0
  /-- Writes held on unreadable channels, oldest first: physical word, byte mask, data (spec/06, R125; R356). -/
  held : List (Nat × BitVec 32 × BitVec 256) := []
  deriving DecidableEq, Repr

/-- A command in a bank's queue (spec/08, R151). -/
inductive BankCmd where
  /-- A BAU command word: the BCS that issued it, native opcode and fields. -/
  | bau (src : Nat) (op : Nat) (f : BauFields)
  /-- The staged value moves into BC (R152). -/
  | move
  deriving DecidableEq, Repr

/-- The bank arithmetic unit of one bank and its program rows (spec/08, Table 8-1; spec/09, R173). -/
structure BankU where
  v : Vector (BitVec 256) 8 := Vector.replicate 8 0
  a0 : BitVec 512 := 0
  a1 : BitVec 512 := 0
  bc : BitVec 256 := 0
  stg : BitVec 256 := 0
  pv : BitVec 8 := 0
  pa0 : Bool := false
  pa1 : Bool := false
  pbc : Bool := false
  pstg : Bool := false
  stgFull : Bool := false
  /-- Tenant whose program last wrote the registers, and the BCS that holds the program rows. -/
  tenant : Option Nat := none
  own : Nat := 0
  rowE : Option Nat := none
  rowO : Option Nat := none
  q : List BankCmd := []
  step : Nat := 0
  deriving DecidableEq, Repr

/-- Times of a bank's program rows and column steps (spec/08, Table 8-5), even half and odd half. -/
structure BankTm where
  /-- Earliest next column step. -/
  stepAt : Nat := 0
  /-- Earliest step that reads BC. -/
  bcAt : Nat := 0
  /-- Earliest step in the half's open row, its earliest CLOSE, and its earliest next activate. -/
  colE : Nat := 0
  colO : Nat := 0
  preE : Nat := 0
  preO : Nat := 0
  actE : Nat := 0
  actO : Nat := 0
  deriving DecidableEq, Repr

/-- A bank program in a BCS queue (spec/08, R156). -/
structure Prog where
  addr : Nat
  count : Nat
  tenant : Nat
  deriving DecidableEq, Repr

/-- The running bank program (spec/08, R157-R160). -/
structure Run where
  prog : Prog
  q : Nat
  /-- First instruction not yet issued, and later ones issued ahead of it. -/
  pc : Nat := 0
  ahead : List Nat := []
  bcwCh : Nat := 0
  rdCh : Nat := 0
  rdBk : Nat := 0
  /-- Channels for which BAU_POISON has been logged, as a mask (R175). -/
  poisoned : Nat := 0
  deriving DecidableEq, Repr

/-- One bank compute sequencer (spec/08, R156). -/
structure Bcs where
  queues : Vector (List Prog) 4 := Vector.replicate 4 []
  rr : Nat := 0
  run : Option Run := none
  deriving DecidableEq, Repr

/-- A counter of the sync store (spec/12, Table 12-2). `ovf`: SYNC_OVERFLOW logged since the last ALLOC or
SETVAL (R228). -/
structure Ctr where
  value : Nat := 0
  owner : Nat := 0
  valid : Bool := false
  sat : Bool := false
  lost : Bool := false
  mask : Nat := 0
  deriving DecidableEq, Repr

/-- A semaphore of the sync store (spec/12, Table 12-2). -/
structure Sem where
  count : Int := 0
  owner : Nat := 0
  valid : Bool := false
  lost : Bool := false
  mask : Nat := 0
  deriving DecidableEq, Repr

/-- Who waits or signals: the fields of the waiter ID (spec/12, Table 12-7) and the tenant carried
(R236), and the island that its records name. -/
structure Who where
  q : Nat := 0
  kind : Nat
  ix : Nat := 0
  tenant : Option Nat := none
  island : Nat
  /-- Module of the requester's sled; none is this sled. -/
  mod : Option Nat := none
  deriving DecidableEq, Repr

/-- What a wait waits on (spec/12, Table 12-3). -/
inductive WaitKind where
  | counter | semWait | semTake
  deriving DecidableEq, Repr

/-- One hardware wait (spec/12, R232). `mod` names another sled's module for a remote wait (R241), and
`tag` its poll in flight. -/
structure Wait where
  who : Who
  kind : WaitKind
  idx : Nat
  target : Int
  start : Nat
  lastVal : Nat := 0
  mod : Option Nat := none
  tag : Option Nat := none
  deriving DecidableEq, Repr

/-- The deadlock detector's view of one tenant (spec/12, R242). -/
structure Dld where
  progress : Bool := false
  blocked : Nat := 0
  reported : Bool := false
  deriving DecidableEq, Repr

/-- A LAYOUT that its layout unit runs (spec/13): what it read at its start, and how far it has come. -/
structure LuRun where
  /-- The 384 bytes of the tensor descriptor and the lane table (R247, R251); the directory entries of the two sides (R258). -/
  kept : List Byte
  os : Nat := 0
  od : Nat := 0
  /-- The next element, or lane, in write order; every one has been issued. -/
  next : Nat := 0
  fin : Bool := false
  /-- Owner-table entries read: destination side, block, entry, poisoned (R260). -/
  ents : List (Bool × Nat × Nat × Bool) := []
  /-- How many of them had been read when a read went out, by the read's place in issue order. -/
  marks : List (Nat × Nat) := []
  /-- Destination ranges (first byte, length) that R255 leaves undefined, and the free value they take. -/
  undef : List (Nat × Nat) := []
  seed : Nat := 0
  deriving DecidableEq, Repr

/-- A fetched descriptor of a vault core or of the stream engine (spec/10, R186): its queue number, the local
address of its ring entry, its 64 bytes, its stage (0 fetched, 1 started, 2 its operation done), whether its
wait has been satisfied, what it read and kept at its start (the gate curve of spec/14, R270; the tensor
descriptor and lane table of spec/13, R247, R251), and its place in start order. -/
structure Desc where
  id : Nat
  q : Nat
  addr : Nat
  bytes : BitVec 512
  stage : Nat := 0
  ready : Bool := false
  latched : List Byte := []
  /-- Poisoned 32-byte words of what an IMPORT has read from another sled. -/
  lpois : List Nat := []
  order : Nat := 0
  /-- When it started. -/
  startAt : Nat := 0
  /-- The gate curves as they stood when a STEP started (R270). -/
  curves : FMap (List Byte) := []
  /-- An earlier-started descriptor has ended the stream that it names (R275). -/
  orphan : Bool := false
  /-- A LAYOUT's progress, once started. -/
  lu : Option LuRun := none
  /-- Poison has been logged for it (R196, R200, R263, R287). -/
  poisonLogged : Bool := false
  deriving DecidableEq, Repr

/-- One line of a scalar engine's data cache (spec/10, R204): data, dirty mask by byte, poison by 32-byte word. -/
structure Line where
  data : BitVec 512
  dirty : BitVec 64 := 0
  pois : BitVec 2 := 0
  deriving DecidableEq, Repr

/-- One vault core (spec/10, spec/13). -/
structure Vc where
  descs : List Desc := []
  /-- Round-robin places of the ME and the VE (R188). -/
  rrMe : Nat := 0
  rrVe : Nat := 0
  cache : FMap Line := []
  seRun : Bool := false
  seTenant : Nat := 0
  /-- A sync access of the SE is outstanding (R221): no later one issues. -/
  seWait : Bool := false
  /-- Worunson has installed an exception handler for the SE's program (R208). -/
  seHandler : Bool := false
  /-- The descriptor that holds the staging buffer and those that wait for it (R256). -/
  staging : Option Nat := none
  stagingQ : List Nat := []
  deriving DecidableEq, Repr

/-- A registered stream (spec/14, R264-R279). -/
structure Strm where
  tenant : Nat
  kind : Nat
  c : Nat
  n : Nat := 0
  comp : Bool := false
  pin : Bool := false
  pwl : Nat := 0
  home : Nat
  pos : Nat := 0
  /-- Slots held when resident. -/
  slots : List Nat := []
  resident : Bool := false
  paused : Bool := false
  nonfin : Bool := false
  lastStep : Nat := 0
  deriving DecidableEq, Repr

/-- The stream engine (spec/14). -/
structure Ste where
  descs : List Desc := []
  streams : FMap Strm := []
  curves : FMap (List Byte) := []
  /-- Descriptors waiting for an eviction victim (R279). -/
  evictQ : List Nat := []
  /-- Streams whose current operation is ready, the one being served first (R280). -/
  turn : List Nat := []
  stamp : Nat := 0
  deriving DecidableEq, Repr

/-- A data flit sent and kept in the retry buffer (spec/15, R303). -/
structure TxFlit where
  seq : Nat
  vc : Nat
  msgs : List Msg
  /-- Its bytes as first sent: a replay resends them unchanged (R304). -/
  bytes : List Byte
  deriving DecidableEq, Repr

/-- One Meridian link (spec/15). State numbers are those of `LNK_STATUS.STATE` (spec/22, Table 22-9). -/
structure Lnk where
  state : Nat := 0
  narrow : Bool := false
  half : Bool := false
  slow : Bool := false
  flit128 : Bool := false
  auth : Bool := false
  peer : Nat := 0
  lock : BitVec 8 := 0
  /-- This sled's nonce in AUTH, what has come of the peer's AUTH message, and how much of its own has been sent (R294). -/
  nonce : Nat := 0
  authIn : List Byte := []
  authOut : Nat := 0
  /-- The next DETECT waits 10 s (R295). -/
  authWait : Bool := false
  expect : Nat := 0
  lastAck : Nat := 4095
  /-- A NAK is owed, and one is outstanding (R303). -/
  nakOwed : Bool := false
  nakOut : Bool := false
  nextSeq : Nat := 0
  retry : List TxFlit := []
  /-- Flits of the retry buffer still to be resent (R304). -/
  replay : List TxFlit := []
  nakSeq : Option Nat := none
  fails : Nat := 0
  /-- Flits sent per VC, cumulative credits received, cumulative credits released (R300, R301). -/
  sent : Vector Nat 4 := Vector.replicate 4 0
  got : Vector Nat 4 := Vector.replicate 4 0
  released : Vector Nat 4 := Vector.replicate 4 0
  /-- Receive buffer in SEQ order: VC and messages of each flit (R300, R305). -/
  rx : List (Nat × List Msg) := []
  tx : Vector (List Msg) 4 := Vector.replicate 4 []
  /-- Flit times in which a VC had data and credit and was not served (R302). -/
  starve : Vector Nat 4 := Vector.replicate 4 0
  /-- VC whose credits the next 128-byte flit carries (R311). -/
  cvc : Nat := 0
  /-- Times of recent RECOVERs that resumed at full width (R306). -/
  recovers : List Nat := []
  /-- The idle half retrains in the background, and the RECOVER in progress is to restore 8 lanes (R308). -/
  widening : Bool := false
  widen : Bool := false
  deriving DecidableEq, Repr

/-- What an answer to a fabric request is for (spec/16, R321). -/
inductive Cont where
  /-- A write of a descriptor, completing with its acknowledgement. -/
  | descWrite (id : Nat)
  /-- A read of a descriptor whose data go to a global address. -/
  | descRead (id : Nat) (dst : Nat) (len : Nat)
  /-- The signal of a completed descriptor. -/
  | descSignal (id : Nat) (who : Who)
  /-- A load of a scalar engine into a register. -/
  | seLoad (core : Nat) (rd : Nat) (f3 : Nat)
  | seStore (core : Nat)
  /-- A posted signal or add of a core. -/
  | posted (who : Who)
  /-- An AMO or load of a core: the value goes back to it. -/
  | value (who : Who)
  /-- A poll of a remote wait. -/
  | poll
  deriving DecidableEq, Repr

/-- One request outstanding on the fabric (spec/16, R317, R322). -/
structure Outst where
  dest : Nat
  msg : Msg
  at_ : Nat
  cont : Cont
  /-- Bytes of a read still to arrive, and the pieces that have, by offset. -/
  rem : Nat := 0
  buf : FMap (List (Byte × Bool)) := []
  /-- Place in issue order, and for a read of a descriptor whether it has been answered whole and waits for the reads
  before it (spec/10, R194). -/
  seq : Nat := 0
  whole : Bool := false
  /-- The first link that it was sent on (R320). -/
  link : Nat := 0
  deriving DecidableEq, Repr

/-- The fabric layer (spec/16). -/
structure Fab where
  out : FMap Outst := []
  nextTag : Nat := 0
  /-- Destinations now reached by the alternate route, and the wait before the return, in µs (R324). -/
  onAlt : List Nat := []
  backoff : FMap Nat := []
  /-- Messages waiting until every earlier request to their destination is answered (R320). -/
  held : FMap (List (Nat × Outst)) := []
  gone : List Nat := []
  deriving DecidableEq, Repr

/-- A counter watch of a virtual function (spec/17, Table 17-3). -/
structure Watch where
  counter : Nat := 0
  target : Nat := 0
  arm : Bool := false
  fired : Bool := false
  err : Bool := false
  deriving DecidableEq, Repr

/-- One MSI-X table entry (spec/17, R327, R337). -/
structure Msix where
  addr : Nat := 0
  data : Nat := 0
  masked : Bool := true
  pending : Bool := false
  deriving DecidableEq, Repr

/-- The host port (spec/17). -/
structure Hst where
  up : Bool := false
  speed : Nat := 0
  width : Nat := 0
  flit : Bool := false
  /-- Configuration Request Retry Status until step 9 or watch-only (R328). -/
  retry : Bool := true
  vfEn : Nat := 0
  msixOn : Nat := 0
  /-- Functions in D3hot, as a mask (R327). -/
  d3 : Nat := 0
  msix : FMap Msix := []
  watch : FMap Watch := []
  /-- Raw doorbell QFULL marks by VF × 8 + stack (R340). -/
  qfull : List Nat := []
  /-- HDM decoder 0 as its registers hold it: host base, size, control (R338; notes/assumptions/37). -/
  hdmBase : Nat := 0
  hdmSize : Nat := 0
  hdmCtl : Nat := 0
  /-- CXL timestamp as last set, and when (Table 17-4). -/
  stamp : Option (Nat × Nat) := none
  /-- Errors reported to the host by function (Table 17-6), as a mask: 0 unsupported request, 1 completer abort,
  2 poisoned write received, 3 internal error. -/
  aer : FMap Nat := []
  deriving DecidableEq, Repr

/-- One housekeeping slot (spec/19, R368-R371). -/
structure Sensor where
  reading : Nat := 0
  broken : Bool := false
  stale : Bool := false
  validRun : Nat := 0
  staleRun : Nat := 0
  deriving DecidableEq, Repr

/-- Heat and power (spec/19). -/
structure Thm where
  round : Nat := 0
  slot : Nat := 0
  firstRound : Bool := false
  sensor : FMap Sensor := []
  eng : FMap Nat := []
  pause : FMap Nat := []
  step : Nat := 0
  rises : Nat := 0
  samples : List Nat := []
  pavg : Nat := 0
  crit : Bool := false
  /-- THERM_ALERT_N is low for a critical shutdown, until a round finds no slot at its threshold (R33). -/
  critAlert : Bool := false
  /-- The next rail enable waits until everything has cooled (R384). -/
  critHold : Bool := false
  lowFlow : Nat := 0
  /-- Conditions of R382 that hold, as a mask: inlet, flow, outlet. -/
  cool : Nat := 0
  /-- Slots at or above their throttle and critical thresholds at the last round's end, as masks. -/
  warn : Nat := 0
  fatal : Nat := 0
  deriving DecidableEq, Repr

/-- What leaves the sled or goes back to a requester, oldest first (notes/assumptions/4). -/
inductive Out where
  /-- A value returned to a requester, named by its waiter ID. -/
  | value (who : Nat) (v : Nat)
  /-- Read data of a channel request to its port. -/
  | data (port : Nat) (d : BitVec 256) (pois : Bool)
  /-- An MSI-X write: function, vector, address, data. -/
  | msix (fn vec addr data : Nat)
  /-- A flit: link, bytes, and the poison marks of its messages (notes/assumptions/20). -/
  | flit (l : Nat) (bytes : List Byte) (pois : List (BitVec 8))
  /-- A completion: function, status (0 successful, 1 Unsupported Request, 2 Request Retry Status,
  4 Completer Abort), EP, data. -/
  | cpl (fn status : Nat) (ep : Bool) (d : List Byte)
  /-- A management response: transport and instance tag, protocol, command, completion code, body. -/
  | resp (t : Transport) (proto cmd code : Nat) (body : List Byte)
  /-- A message the keeper sends of its own: kind and argument. -/
  | event (kind arg : Nat)
  deriving DecidableEq, Repr

/-- A register write that waits at the crossing into an MC island whose clock stands (spec/07, R140). -/
structure RegWait where
  stack : Nat
  agent : Agent
  addr : Nat
  bytes : Nat
  value : Nat
  deriving DecidableEq, Repr

/-- The whole sled beside the queue of commands. -/
structure Sled where
  now : Nat := 0
  free : Nat := 0
  seq : Nat := 0
  plat : Plat := {}
  isl : FMap Isl := [(0, { state := 2, selftest := false })]
  ccRunning : BitVec 4 := 0
  ccOffline : BitVec 4 := 0
  /-- The 8 MiB control memory of the CTL island: the runtime image loaded into it (spec/04, Table 4-6, step 5). -/
  ctlMem : Option FwImage := none
  /-- The scratchpads and the stream state SRAM wait for their clearing of step 6 (spec/04, R443). -/
  clearing : Bool := true
  cpu : FMap Word := []
  regs : FMap Word := []
  locked : List Nat := []
  mem : List Host.Cell := []
  ecc : FMap Nat := []
  kpr : Kpr := {}
  fl : Flash := {}
  prof : Option Ppi := none
  chan : FMap Chan := []
  mcs : FMap Mcs := []
  speedQ : List Nat := []
  bank : FMap BankU := []
  btm : FMap BankTm := []
  bcs : FMap Bcs := []
  xing : List RegWait := []
  vc : FMap Vc := []
  ctr : FMap Ctr := []
  sem : FMap Sem := []
  waits : List Wait := []
  dld : FMap Dld := []
  ste : Ste := {}
  lnk : FMap Lnk := []
  fab : Fab := {}
  hst : Hst := {}
  thm : Thm := {}
  outs : List Out := []
  /-- The model's own: an access of the command that runs has to wait (`liftHold`; notes/assumptions/41). -/
  stall : Bool := false
  deriving DecidableEq, Repr

end Sys2Proof
end

