-- ==== Sys2Proof/Machine/Maps.lean ====
section
/-! DEFINITION. Finite maps as sorted lists of keys and values, and byte memories over them: the one
place where entries are looked up, inserted and removed. -/

namespace Sys2Proof.Machine

variable {α : Type}

/-- The value listed for key `k`, or `d`. -/
def fget (m : FMap α) (d : α) (k : Nat) : α :=
  match m with
  | [] => d
  | (a, v) :: m => if a = k then v else fget m d k

/-- The value listed for key `k`, if any. -/
def ffind (m : FMap α) (k : Nat) : Option α :=
  match m with
  | [] => none
  | (a, v) :: m => if a = k then some v else ffind m k

/-- List value `v` for key `k`, in key order. -/
def fput (m : FMap α) (k : Nat) (v : α) : FMap α :=
  match m with
  | [] => [(k, v)]
  | (a, w) :: m =>
    if k < a then (k, v) :: (a, w) :: m
    else if k = a then (k, v) :: m
    else (a, w) :: fput m k v

/-- Remove key `k`. -/
def ferase (m : FMap α) (k : Nat) : FMap α :=
  match m with
  | [] => []
  | (a, w) :: m => if a = k then ferase m k else (a, w) :: ferase m k

/-- Set key `k` to `v` in a map whose unlisted keys hold `d`: listed only when it differs. -/
def fset [DecidableEq α] (m : FMap α) (d : α) (k : Nat) (v : α) : FMap α :=
  if v = d then ferase m k else fput m k v

/-- The map without the entries that `p` names. -/
def fdrop (m : FMap α) (p : Nat → α → Bool) : FMap α :=
  m.filter fun kv => !p kv.1 kv.2

/-- Keys strictly rising from `lo` on and no value equal to `d`: the one canonical form. -/
def fwfFrom [DecidableEq α] (d : α) (lo : Nat) (m : FMap α) : Bool :=
  match m with
  | [] => true
  | (a, v) :: m => decide (lo ≤ a) && decide (v ≠ d) && fwfFrom d (a + 1) m

/-- The canonical form of a map with default `d`. -/
def fwf [DecidableEq α] (d : α) (m : FMap α) : Bool := fwfFrom d 0 m

/-- The canonical form of the memory: an unlisted byte reads 0 (notes/assumptions/6). -/
def Memory.wf (m : List Host.Cell) : Bool := fwf (0 : Byte) m

/-- One byte of memory; an unlisted one reads 0. -/
def memGet (m : List Host.Cell) (a : Nat) : Byte := fget m (0 : Byte) a

/-- Set one byte of memory. -/
def memSet (m : List Host.Cell) (a : Nat) (v : Byte) : List Host.Cell := fset m (0 : Byte) a v

/-- `n` bytes from address `a` upward. -/
def memRead (m : List Host.Cell) (a : Nat) : Nat → List Byte
  | 0 => []
  | n + 1 => memGet m a :: memRead m (a + 1) n

/-- Store bytes from address `a` upward. -/
def memWrite (m : List Host.Cell) (a : Nat) : List Byte → List Host.Cell
  | [] => m
  | b :: bs => memWrite (memSet m a b) (a + 1) bs

/-- The i-th element of a list of naturals, 0 beyond its end. -/
def nth (l : List Nat) (i : Nat) : Nat := l.getD i 0

/-- Bit `i` of a mask set to `b`. -/
def setBit (m i : Nat) (b : Bool) : Nat :=
  if bitAt m i = b then m else if b then m + 2 ^ i else m - 2 ^ i

/-- Replace bits [lo + len - 1 : lo] of `x` by `v`. -/
def setBits (x lo len v : Nat) : Nat :=
  x - bitsOf x lo len * 2 ^ lo + v % 2 ^ len * 2 ^ lo

/-- How many of the low `n` bits of a mask are 1. -/
def popcount : Nat → Nat → Nat
  | 0, _ => 0
  | n + 1, x => x % 2 + popcount n (x / 2)

/-- The indices below `n` whose bit of the mask is 1, rising. -/
def maskList (n mask : Nat) : List Nat := (List.range n).filter (bitAt mask)

end Sys2Proof.Machine
end

