-- ==== Sys2Proof/Machine/Flags.lean ====
section
/-! DEFINITION. The arithmetic of the number formats: exact values with signed zeros, infinities and NaN,
decoding and rounding of each format, and the special-value rules that every unit shares (spec/01 R19-R22,
R442; spec/08 R150). -/

namespace Sys2Proof.Machine

open Sys2Proof

/-- A value of a floating-point format, or an exact intermediate result: ±m × 2^e. -/
inductive FVal where
  | nan
  | inf (neg : Bool)
  | fin (neg : Bool) (m : Nat) (e : Int)
  deriving DecidableEq, Repr

/-- A binary format: exponent and mantissa bits, and whether it has infinities. -/
structure Fmt where
  eb : Nat
  mb : Nat
  hasInf : Bool
  deriving DecidableEq, Repr

def fp32 : Fmt := { eb := 8, mb := 23, hasInf := true }
def bf16 : Fmt := { eb := 8, mb := 7, hasInf := true }
def fp16 : Fmt := { eb := 5, mb := 10, hasInf := true }
def e5m2 : Fmt := { eb := 5, mb := 2, hasInf := true }
/-- FP8 E4M3 has no infinity; its all-ones code is NaN (spec/01, R22, R442). -/
def e4m3 : Fmt := { eb := 4, mb := 3, hasInf := false }

def Fmt.bias (f : Fmt) : Nat := 2 ^ (f.eb - 1) - 1
def Fmt.width (f : Fmt) : Nat := f.eb + f.mb + 1
/-- Bytes of an element. -/
def Fmt.bytes (f : Fmt) : Nat := f.width / 8

/-- The one NaN that a unit writes (spec/01, R442): positive, quiet, no payload. -/
def Fmt.qnan (f : Fmt) : Nat :=
  if f.hasInf then (2 ^ f.eb - 1) * 2 ^ f.mb + 2 ^ (f.mb - 1) else 2 ^ (f.eb + f.mb) - 1

/-- The value of the bits of a format. -/
def decodeF (f : Fmt) (x : Nat) : FVal :=
  let m := bitsOf x 0 f.mb
  let e := bitsOf x f.mb f.eb
  let neg := bitAt x (f.eb + f.mb)
  if f.hasInf && e = 2 ^ f.eb - 1 then (if m = 0 then .inf neg else .nan)
  else if !f.hasInf && e = 2 ^ f.eb - 1 && m = 2 ^ f.mb - 1 then .nan
  else if e = 0 then .fin neg m (1 - (f.bias : Int) - f.mb)
  else .fin neg (m + 2 ^ f.mb) ((e : Int) - f.bias - f.mb)

/-- n ÷ 2^k to nearest, ties to even. -/
def rneShift (n k : Nat) : Nat :=
  let q := n / 2 ^ k
  let r := n % 2 ^ k
  if 2 * r < 2 ^ k then q
  else if 2 ^ k < 2 * r then q + 1
  else if q % 2 = 0 then q else q + 1

/-- Round a value to a format, to nearest with ties to even, keeping subnormals; a result too large is an
infinity, or the largest finite value of a format without one (spec/01, R22). -/
def encodeF (f : Fmt) : FVal → Nat
  | .nan => f.qnan
  | .inf neg =>
    b2n neg * 2 ^ (f.eb + f.mb) +
      (if f.hasInf then (2 ^ f.eb - 1) * 2 ^ f.mb else 2 ^ (f.eb + f.mb) - 2)
  | .fin neg m e =>
    let sgn := b2n neg * 2 ^ (f.eb + f.mb)
    if m = 0 then sgn else
    let top : Int := e + Nat.log2 m
    let q : Int := max top (1 - (f.bias : Int)) - f.mb
    let n := if q ≤ e then m * 2 ^ (e - q).toNat else rneShift m (q - e).toNat
    -- n counts quanta of 2^q; a carry into the next binade keeps the sum of fields right
    let field : Nat := (q + f.mb + (f.bias : Int)).toNat
    let bits := if n < 2 ^ f.mb then n else (field - 1) * 2 ^ f.mb + n
    let most := if f.hasInf then (2 ^ f.eb - 1) * 2 ^ f.mb else 2 ^ (f.eb + f.mb) - 2
    sgn + min bits most

/-- Rounded to a format and read back. -/
def roundF (f : Fmt) (v : FVal) : FVal := decodeF f (encodeF f v)

/-- Change of sign. -/
def FVal.neg : FVal → FVal
  | .nan => .nan
  | .inf n => .inf !n
  | .fin n m e => .fin (!n) m e

/-- The exact product (spec/01, R442: an infinity times a zero is NaN). -/
def FVal.mul : FVal → FVal → FVal
  | .nan, _ => .nan
  | _, .nan => .nan
  | .inf a, .inf b => .inf (Bool.xor a b)
  | .inf a, .fin b m _ => if m = 0 then .nan else .inf (Bool.xor a b)
  | .fin a m _, .inf b => if m = 0 then .nan else .inf (Bool.xor a b)
  | .fin a m e, .fin b n g => .fin (Bool.xor a b) (m * n) (e + g)

/-- The integer of a finite value counted in units of 2^q, for q at most its exponent. -/
def scaled (neg : Bool) (m : Nat) (e q : Int) : Int :=
  let x : Int := (m * 2 ^ (e - q).toNat : Nat)
  if neg then -x else x

/-- The exact sum (spec/01, R442: infinities of opposite sign give NaN). A zero sum is +0 unless both
operands are negative (notes/assumptions/18). -/
def FVal.add : FVal → FVal → FVal
  | .nan, _ => .nan
  | _, .nan => .nan
  | .inf a, .inf b => if a = b then .inf a else .nan
  | .inf a, .fin .. => .inf a
  | .fin .., .inf b => .inf b
  | .fin a m e, .fin b n g =>
    let q := min e g
    let x := scaled a m e q + scaled b n g q
    if x = 0 then .fin (a && b) 0 q
    else .fin (x < 0) x.natAbs q

/-- a − b, exactly. -/
def FVal.sub (a b : FVal) : FVal := a.add b.neg

/-- The exact sum of a list, first to last. -/
def sumF : List FVal → FVal
  | [] => .fin false 0 0
  | x :: l => l.foldl FVal.add x

/-- a < b for values other than NaN, with −0 below +0 (spec/08, R150). -/
def FVal.lt : FVal → FVal → Bool
  | .nan, _ => false
  | _, .nan => false
  | .inf a, .inf b => a && !b
  | .inf a, .fin .. => a
  | .fin .., .inf b => !b
  | .fin a m e, .fin b n g =>
    let q := min e g
    let x := scaled a m e q
    let y := scaled b n g q
    x < y || (x = y && a && !b)

/-- maximumNumber: the other input where one is NaN (spec/08, R150). -/
def FVal.maxNum (a b : FVal) : FVal :=
  match a, b with
  | .nan, b => b
  | a, .nan => a
  | a, b => if a.lt b then b else a

/-- minimumNumber. -/
def FVal.minNum (a b : FVal) : FVal :=
  match a, b with
  | .nan, b => b
  | a, .nan => a
  | a, b => if b.lt a then b else a

/-- An integer as an exact value. -/
def FVal.ofInt (x : Int) : FVal := .fin (x < 0) x.natAbs 0

/-- Rounded to an integer of `w` bits, to nearest with ties to even, saturating; NaN gives 0 (spec/10, R201). -/
def FVal.toIntSat (w : Nat) : FVal → Int
  | .nan => 0
  | .inf neg => if neg then -(2 ^ (w - 1)) else 2 ^ (w - 1) - 1
  | .fin neg m e =>
    let n : Int := if 0 ≤ e then (m * 2 ^ e.toNat : Nat) else (rneShift m (-e).toNat : Nat)
    let x := if neg then -n else n
    max (-(2 ^ (w - 1))) (min (2 ^ (w - 1) - 1) x)

/-- Whether a value is NaN or infinite. -/
def FVal.nonFinite : FVal → Bool
  | .fin .. => false
  | _ => true

/-- FP4 E2M1, without a shared scale (spec/08, R142). -/
def decodeFp4 (x : Nat) : FVal :=
  let e := bitsOf x 1 2
  let m := x % 2
  let neg := bitAt x 3
  if e = 0 then .fin neg m (-1) else .fin neg (m + 2) ((e : Int) - 2)

/-- An E8M0 shared scale; 0xFF is NaN (spec/10, R198). -/
def decodeE8m0 (x : Nat) : FVal := if x = 255 then .nan else .fin false 1 ((x : Int) - 127)

/-- The `i`-th lane of `w` bits of a word. -/
def laneOf (w x i : Nat) : Nat := bitsOf x (w * i) w

/-- A word from its lanes of `w` bits, lane 0 first. -/
def packLanes (w : Nat) : List Nat → Nat
  | [] => 0
  | x :: l => x % 2 ^ w + 2 ^ w * packLanes w l

end Sys2Proof.Machine
end

