-- ==== Sys2Proof/Config.lean ====
section
/-! DEFINITION. What the spec leaves open and the model leaves free: opaque constants with no body, so
that no proof can see a value of them. Each is named in notes/assumptions. -/

namespace Sys2Proof.Config

/-- Free values by number: the model applies it to the counter `Sled.free` (notes/assumptions/3). -/
opaque freeValue : Nat → Nat

/-- Result of a transcendental VOP on an ordinary FP32 input: operation code, operand bits
(spec/10, Table 10-9 bounds the error and fixes no value; notes/assumptions/11). -/
opaque transcendental : Nat → BitVec 32 → BitVec 32

/-- Where ROWSUM splits a run of `n` elements into two: the fixed pairwise order of spec/10,
Table 10-9, which the spec does not give (notes/assumptions/12). -/
opaque rowsumSplit : Nat → Nat

/-- Whether C enters an accumulating GEMM before the first partial sum (true) or after the last
(spec/10, R198 does not say; notes/assumptions/13). -/
opaque gemmAccFirst : Bool

/-- One byte of a result that the spec calls undefined, by address and free number
(spec/10 R195, spec/11 R211, spec/13 R255; notes/assumptions/14). -/
opaque undefinedByte : Nat → Nat → BitVec 8

/-- The 16-byte serial number of the sled (spec/20, R391 gives no value; notes/assumptions/15). -/
opaque serial : Nat

/-- The SHA-384 digest of an image, as the keeper computes it (spec/04, R84): a function of the image's
identity only (notes/assumptions/16). -/
opaque digest : Nat → Nat

/-- The SHA-384 digest of the keeper ROM (spec/20, Table 20-5; notes/assumptions/16). -/
opaque romDigest : Nat

/-- The SHA-384 digest of a key store, by its keys: identity, kind, revoked (spec/20, Table 20-5;
notes/assumptions/16). -/
opaque keysDigest : List (Nat × Nat × Bool) → Nat

/-- The bytes of a protocol response body whose content a published standard fixes and this spec does
not (spec/20, R389, R394, R395; notes/assumptions/17): by command code. -/
opaque protocolBody : Nat → List (BitVec 8)

/-- The identity that the firmware reads from stack `n` (spec/04, R82 gives no value; notes/assumptions/15). -/
opaque stackId : Nat → Nat

/-- A signature by the device key over a message digest (spec/20, R385, R395; notes/assumptions/16). -/
opaque deviceSign : Nat → Nat

/-- Where a DRAM address of a hashed region goes while a select mask breaks the rules of R98: by the masks and the address
(spec/05, R98 leaves the mapping undefined; notes/assumptions/14). -/
opaque brokenMap : List Nat → Nat → Nat

/-- The SHA-384 digest of a message in link authentication (spec/15, R294; notes/assumptions/16). -/
opaque sha384 : List (BitVec 8) → Nat

/-- What THM_PWR.P_AVG reads for a mean above the 2,047 W that its 11 bits hold, which the spec does not state
(spec/22, Table 22-10). Free value: notes/assumptions/33. -/
opaque powerOver : Nat → Nat

end Sys2Proof.Config
end

