-- ==== Sys2Proof/Machine/State.lean ====
section
/-! DEFINITION. The state of the block: the sled and the queue of waiting commands; the reasons a step can
stop; and the state right after the power-on reset. -/

namespace Sys2Proof.Machine

/-- The state: everything the spec gives the sled, and the commands that wait, first in, first out. -/
structure State where
  sled : Sled
  pending : List Instr
  deriving DecidableEq, Repr

/-- Faults that stop the block. The spec gives every command an effect, so there is none: an error of the
sled is a record in its state (spec/18). -/
inductive Fault : Type
  deriving DecidableEq, Repr

/-- Refusals of a command. -/
inductive Refusal where
  /-- Raised by an arm of `exec` whose command has no meaning in the model yet. Safe. -/
  | notModelled (mnemonic : String)
  deriving DecidableEq, Repr

/-- The machine right after the power-on reset (spec/03, R61; spec/22): each field at the value that its
structure declares, with no command waiting. Values the spec does not give: notes/assumptions/5 to 10. -/
def State.reset : State := { sled := {}, pending := [] }

end Sys2Proof.Machine
end

