-- ==== Sys2Proof/Machine/Ops.lean ====
section
/-! DEFINITION. The named operations over the sled that the commands share: register file, trouble
counters, error records and alerts, interrupts to the host, islands, address translation, and memory
with its ECC and poison. -/

namespace Sys2Proof.Machine

open Sys2Proof

/-- A command's effect on the sled, as an outcome: the block goes on, and the queue is not touched. -/
def lift (f : Sled → Sled) (s : State) : Host.Outcome State Fault Refusal :=
  .next { s with sled := f s.sled }

/-- A command's effect where it may have to wait: an access that cannot proceed now (`heldRead`, `heldWrite`) sets
`stall`, and the command then does not take place yet; it can be sent again (notes/assumptions/41). -/
def liftHold (f : Sled → Sled) (s : State) : Host.Outcome State Fault Refusal :=
  if (f s.sled).stall = s.sled.stall then .next { s with sled := f s.sled } else .next s

/-- The effect `f` where the condition holds in the state; else the event does not occur
(notes/assumptions/1). -/
def whenS (c : Sled → Bool) (f : Sled → Sled) (s : Sled) : Sled := if c s then f s else s

/-! ## Time (notes/assumptions/2) -/

/-- Units of `now` in one nanosecond. -/
def ns : Nat := 48
/-- Units in one microsecond. -/
def us : Nat := 48000
/-- Units in one millisecond. -/
def ms : Nat := 48000000

/-! ## Register space (spec/21, R404; spec/22) -/

/-- Offset in register space of a register of block `blk`. -/
def regKey (blk off : Nat) : Nat := blk * 0x100000 + off

/-- Register blocks (spec/21, Table 21-1). -/
def bGLB : Nat := 0x000
def bISL : Nat := 0x001
def bMAP : Nat := 0x002
def bMC (n : Nat) : Nat := 0x010 + n
def bBCS (n : Nat) : Nat := 0x020 + n
def bSYN : Nat := 0x030
def bLAY (n : Nat) : Nat := 0x040 + n
def bSTE : Nat := 0x050
def bLNK (n : Nat) : Nat := 0x060 + n
def bTHM : Nat := 0x070
def bKPR : Nat := 0x080
def bHST : Nat := 0x090

/-- Reset value of a register by block and offset (spec/22, Tables 22-1 to 22-12); most are 0. -/
def resetVal (blk off : Nat) : Word :=
  if blk = 0x000 then (if off = 0 then 0x00014B540004#64 else 0)
  else if blk = 0x002 then
    if 0x80 ≤ off ∧ off < 0xA0 then 0x100#64 <<< ((off - 0x80) / 8)
    else if 0xA0 ≤ off ∧ off < 0xB8 then 0x1000#64 <<< ((off - 0xA0) / 8)
    else if 0xB8 ≤ off ∧ off < 0xD8 then 0x8000#64 <<< ((off - 0xB8) / 8)
    else if 0xD8 ≤ off ∧ off < 0xE8 then 0x80000#64 <<< ((off - 0xD8) / 8)
    else if off = 0x108 then 0x8000000000000000#64
    else 0
  else if 0x010 ≤ blk ∧ blk ≤ 0x018 then
    if 0x10 ≤ off ∧ off < 0x50 then 0x7D0#64
    else if off = 0x50 then 0x1F4#64
    else if off = 0x58 then 0x3E8#64
    else if off = 0x60 then 0x5DC#64
    else if off = 0x310 then 1#64
    else 0
  else if 0x020 ≤ blk ∧ blk ≤ 0x028 then (if off = 0x28 then 0x30#64 else 0)
  else if blk = 0x030 then
    if off = 0x10 then 0x40#64
    else if off = 0x18 then 0x30064#64
    else if 0x100 ≤ off ∧ off ≤ 0x180 then 0xF4240#64
    else 0
  else if blk = 0x050 then (if off = 0x210 then 0x100#64 else 0)
  else if 0x060 ≤ blk ∧ blk ≤ 0x06F then
    if off = 0 then 4#64 else if off = 0x10 then 0x40000#64 else 0
  else if blk = 0x070 then (if off = 0x400 then 0x6E6064#64 else 0)
  else if blk = 0x080 then (if off = 0 then 1#64 else 0)
  else 0

/-- Stored value of a register. -/
def rGet (s : Sled) (blk off : Nat) : Nat := (fget s.regs (resetVal blk off) (regKey blk off)).toNat

/-- Set the stored value of a register. -/
def rSet (blk off v : Nat) (s : Sled) : Sled :=
  { s with regs := fset s.regs (resetVal blk off) (regKey blk off) (BitVec.ofNat 64 v) }

/-- One field of a stored register. -/
def rField (s : Sled) (blk off lo len : Nat) : Nat := bitsOf (rGet s blk off) lo len

/-- Set one field of a stored register. -/
def rSetField (blk off lo len v : Nat) (s : Sled) : Sled :=
  rSet blk off (setBits (rGet s blk off) lo len v) s

/-- A preload entry has locked the register's RW, LK and SH fields (spec/21, R411). -/
def lockedReg (s : Sled) (blk off : Nat) : Bool := s.locked.contains (regKey blk off)

/-- An ignored write to a locked field sets GLB_STATUS.LOCKED_WR (spec/21, R411). -/
def lockHit (s : Sled) : Sled := rSetField bGLB 0x28 0 1 1 s

/-- A software write of an RW field: ignored where the register is locked. -/
def swField (blk off lo len v : Nat) (s : Sled) : Sled :=
  if lockedReg s blk off then lockHit s else rSetField blk off lo len v s

/-- KT3 mode is in effect (spec/21, R414). -/
def kt3 (s : Sled) : Bool := s.plat.strap.getLsbD 10 || bitAt (rGet s bGLB 0x20) 0

/-- The module ID (spec/02, R38). -/
def moduleId (s : Sled) : Nat := bitsOf s.plat.strap.toNat 0 8

/-- A trouble counter counts `n` events, saturating (spec/18, R367; spec/21, R416). -/
def bumpN (blk off n : Nat) (s : Sled) : Sled :=
  rSet blk off (min (rGet s blk off + n) (if kt3 s then 0xFFFF else 0xFFFFFFFF)) s

/-- A trouble counter counts one event. -/
def bump (blk off : Nat) (s : Sled) : Sled := bumpN blk off 1 s

/-- Trouble counter `k` of channel `c` of stack `st` (spec/22, Table 22-4). -/
def bumpMc (st c k : Nat) : Sled → Sled := bump (bMC st) (0x1000 + 0x80 * c + 8 * k)

/-! ## Islands (spec/18, Table 18-1; spec/22, R425) -/

def iCTL : Nat := 1
def iVC (n : Nat) : Nat := 2 + n
def iMC (n : Nat) : Nat := 10 + n
def iL (n : Nat) : Nat := 19 + n
def iHST : Nat := 35
def iSTE : Nat := 36
def iNOC : Nat := 37

/-- Island `i`: 0 unused, 1 in reset, 2 running, 3 offline. -/
def islState (s : Sled) (i : Nat) : Nat := (fget s.isl {} i).state

/-- Whether island `i` runs. -/
def islRuns (s : Sled) (i : Nat) : Bool := islState s i = 2

/-- Put island `i` in state `st`. -/
def setIsl (i st : Nat) (s : Sled) : Sled :=
  { s with isl := fset s.isl {} i { fget s.isl {} i with state := st } }

/-! ## What leaves the sled, and interrupts (spec/17, R337) -/

/-- Append to what leaves the sled. -/
def emit (o : Out) (s : Sled) : Sled := { s with outs := s.outs ++ [o] }

/-- The MSI-X entry of function `fn`, vector `vec`. -/
def msixKey (fn vec : Nat) : Nat := fn * 32 + vec

/-- Send vector `vec` of function `fn`, or set its pending bit where it is masked (spec/17, R337). -/
def msixSend (fn vec : Nat) (s : Sled) : Sled :=
  if !(islRuns s iHST && s.hst.up) then s else
  let e := fget s.hst.msix {} (msixKey fn vec)
  if bitAt s.hst.msixOn fn && !e.masked then emit (.msix fn vec e.addr e.data) s
  else { s with hst := { s.hst with msix := fset s.hst.msix {} (msixKey fn vec) { e with pending := true } } }

/-- Set bit `b` of `HST_VF_EVENT` of tenant `t`'s virtual function and signal vector 0 (R337). -/
def vfEvent (t b : Nat) (s : Sled) : Sled :=
  if !islRuns s iHST then s else
  let off := 0x100 + 8 * (t + 1)
  let v := rGet s bHST off
  if bitAt v b then s
  else msixSend (t + 1) 0 (rSet bHST off (setBit v b true) s)

/-! ## Error records (spec/18) -/

/-- Severity of a code (spec/18, Table 18-5). -/
def sevOf (code : Nat) : Nat :=
  if code ∈ [0x1004, 0x3009, 0x300A, 0x7002, 0x7003, 0x7005, 0x9006, 0x900A, 0xA006, 0xA008] then 0
  else if code ∈ [0x3002, 0x3006, 0x3008, 0x4007, 0x5002, 0x5007] then 1
  else if code ∈ [0x3003, 0x3004, 0x3005, 0x300B, 0x300D, 0x5001, 0x5003, 0x5004, 0x5005, 0x5006, 0x500C,
      0x7001, 0x7006, 0x7010, 0x7013, 0x8003, 0x9001, 0x9002, 0x9003, 0x9004, 0x9005, 0x9008, 0xA001,
      0xA002, 0xA003, 0xA007, 0xB005] then 3
  else if code ∈ [0x300C, 0x7004, 0x7011, 0x7012, 0x9007, 0x9009] then 4
  else 2

/-- A record of a code from an island, with its severity. -/
def mkRec (code island : Nat) : Rec := { code := code, sev := sevOf code, island := island }

/-- Put an address into argument 1 (`aarg` false) or 2 of a record (R345). -/
def recAddr (aarg : Bool) (addr mod : Nat) (r : Rec) : Rec :=
  let r := { r with ext := addr % 256, amod := mod, avalid := true, aarg := aarg }
  if aarg then { r with arg2 := bitsOf addr 8 32 } else { r with arg1 := bitsOf addr 8 32 }

/-- An alert of the keeper becomes pending (spec/20, R393). -/
def alertOn (s : Sled) : Sled := { s with kpr := { s.kpr with alert := true } }

/-- The keeper sends a PlatformEventMessage to the event receiver, if one is set (spec/20, R394): kind 1 a
threshold crossing of a sensor, 2 a tier change, 3 quiesce begun. -/
def platEvent (kind arg : Nat) (s : Sled) : Sled :=
  if s.kpr.mgmt.eventRx.isSome then emit (.event kind arg) s else s

/-- A record with its time of logging (spec/18, R344). -/
def recStamp (s : Sled) (r : Rec) : Rec := { r with time := (s.now - s.plat.resetAt) / ns }

/-- A record of severity 4 is outstanding, whether it is lost or not (spec/18, R347). -/
def recCount (r : Rec) (s : Sled) : Sled :=
  if r.sev = 4 then { s with kpr := { s.kpr with outstanding := s.kpr.outstanding + 1 } } else s

/-- A record enters its island's place of the collector (spec/18, R346). -/
def recEnter (r : Rec) (s : Sled) : Sled :=
  { s with kpr := { s.kpr with coll := fset s.kpr.coll [] r.island (fget s.kpr.coll [] r.island ++ [r]) } }

/-- A record of severity 3 or 4 raises a keeper alert (spec/20, R393). -/
def recAlert (r : Rec) (s : Sled) : Sled := if 3 ≤ r.sev then alertOn s else s

/-- A record that names a tenant sets that tenant's event bit 3 (spec/17, R337). -/
def recTell (r : Rec) (s : Sled) : Sled :=
  match r.tenant with
  | some t => vfEvent t 3 s
  | none => s

/-- A record is dropped from a full buffer and counted (spec/18, R346). -/
def dropRec (r : Rec) (s : Sled) : Sled :=
  bump bKPR 0x100 { s with kpr := { s.kpr with
    lost := s.kpr.lost + 1
    lost4 := s.kpr.lost4 + (if r.sev = 4 then 1 else 0) } }

/-- A record enters the collector where its island's place has room, or is dropped (spec/18, R346). -/
def recPlace (r : Rec) (s : Sled) : Sled :=
  if (fget s.kpr.coll [] r.island).length < 16 then recTell r (recAlert r (recEnter r s)) else dropRec r s

/-- Log a record (spec/18, R344, R346, R347): it is outstanding at severity 4, and enters the collector or is
dropped. -/
def logRec (r : Rec) (s : Sled) : Sled := recPlace (recStamp s r) (recCount r s)

/-- Log a record at most once per unit and period (spec/18, R444): `key` names the unit within the code. -/
def logLimited (period key : Nat) (r : Rec) (s : Sled) : Sled :=
  let k := r.code * 2 ^ 40 + key
  match ffind s.kpr.rate k with
  | some t =>
    if s.now < t + period then s
    else logRec r { s with kpr := { s.kpr with rate := fput s.kpr.rate k s.now } }
  | none => logRec r { s with kpr := { s.kpr with rate := fput s.kpr.rate k s.now } }

/-- The 32 bytes of a record (spec/18, Table 18-1). -/
def recBytes (r : Rec) : List Byte :=
  leBytes 2 r.code ++ leBytes 1 r.sev ++ leBytes 1 r.island ++ leBytes 4 r.object ++ leBytes 4 r.waiter ++
  leBytes 1 ((r.tenant.getD 0) + (if r.tenant.isSome then 16 else 0)) ++ leBytes 1 r.ext ++
  leBytes 1 r.amod ++ leBytes 1 (b2n r.avalid + 2 * b2n r.aarg) ++ leBytes 8 r.time ++
  leBytes 4 r.arg1 ++ leBytes 4 r.arg2

/-! ## Who acts (spec/12, Table 12-7, R236) -/

/-- A control core, keeper, scalar engine or host function as requester. -/
def whoAgent (s : Sled) : Agent → Who
  | .cc i => { kind := 4, ix := i.val, island := iCTL }
  | .keeper => { kind := 8, island := 0 }
  | .se v => { kind := 3, ix := v.val, tenant := some (fget s.vc {} v.val).seTenant, island := iVC v.val }
  | .vf k => { kind := 7, ix := k.val, tenant := some k.val, island := iHST }
  | .pf => { kind := 7, island := iHST, tenant := some 0 }

/-- Tenant of a descriptor queue: `LAY_QCFG_q.TENANT` (spec/10) or `STE_QCFG_q.TENANT` (spec/22, R433). -/
def qTenant (s : Sled) : QUnit → Nat
  | .vc c q => rField s (bLAY c.val) (0x20 * q.val) 32 4
  | .ste q => rField s bSTE (0x20 * q.val) 48 4

/-- A descriptor queue as requester: engine DE, ME or VE by its number, or the stream engine. -/
def whoQueue (s : Sled) (u : QUnit) : Who :=
  match u with
  | .vc c q =>
    { q := q.val, kind := if q.val < 16 then 0 else if q.val < 20 then 1 else 2, ix := c.val
      tenant := some (qTenant s u), island := iVC c.val }
  | .ste q => { q := q.val, kind := 6, tenant := some (qTenant s u), island := iSTE }

/-- The waiter ID (spec/12, Table 12-7). -/
def waiterId (s : Sled) (w : Who) : Nat :=
  w.q % 256 + w.kind * 256 + w.ix % 16 * 4096 + w.mod.getD (moduleId s) * 65536

/-- A record that names a requester as waiter and its tenant. -/
def recWho (s : Sled) (code : Nat) (w : Who) : Rec :=
  { mkRec code w.island with waiter := waiterId s w, tenant := w.tenant }

/-! ## The profile in force -/

/-- Settings of the started profile for tenant `t`. -/
def tenantCfg (s : Sled) (t : Nat) : Option TenantCfg :=
  match s.prof with
  | some p => p.cfg.tenants[t]?
  | none => none

/-- Whether [a, a + len) lies in one of the tenant's DRAM regions (spec/04, Table 4-5). -/
def inRegions (s : Sled) (t a len : Nat) : Bool :=
  match tenantCfg s t with
  | some c => c.regions.any fun r => r.1 ≤ a && a + len ≤ r.1 + r.2
  | none => false

/-- Mask of the tenant's vault cores. -/
def vcMask (s : Sled) (t : Nat) : Nat :=
  match tenantCfg s t with
  | some c => c.vcMask
  | none => 0

/-- Scratchpad that holds a local address, if any (spec/01, Table 1-1). -/
def scratchOf (a : Nat) : Option Nat :=
  if 0x8000000000 ≤ a ∧ a < 0x800C000000 then some ((a - 0x8000000000) / 0x1800000) else none

/-- End of the tenant's range that holds local address `a`: one of its DRAM regions, or the scratchpad of a
vault core of its mask (spec/08, R157; spec/10, R190). -/
def reachEnd (s : Sled) (t a : Nat) : Option Nat :=
  if a < 0x8000000000 then
    match tenantCfg s t with
    | some c => (c.regions.find? fun r => r.1 ≤ a && a < r.1 + r.2).map fun r => r.1 + r.2
    | none => none
  else match scratchOf a with
    | some v => if bitAt (vcMask s t) v then some (0x8000000000 + (v + 1) * 0x1800000) else none
    | none => none

/-- Whether [a, a + len) lies wholly within the tenant's reach. -/
def tenantReach (s : Sled) (t a len : Nat) : Bool := go 32 a
where
  /-- Walk the tenant's ranges. -/
  go : Nat → Nat → Bool
    | 0, _ => false
    | fuel + 1, x =>
      match reachEnd s t x with
      | some e => a + len ≤ e || go fuel e
      | none => false

/-! ## Address translation (spec/05) -/

/-- Coordinates of a DRAM byte (spec/05, Table 5-1). -/
structure Coord where
  stack : Nat
  chan : Nat
  rank : Nat
  bank : Nat
  row : Nat
  col : Nat
  byte : Nat
  deriving DecidableEq, Repr

/-- The bank's ordinal: user banks as spec/05, R91 states; the banks of S8 follow them. -/
def Coord.ordinal (c : Coord) : Nat := ((c.stack * 16 + c.chan) * 4 + c.rank) * 16 + c.bank

/-- The place of a DRAM byte in the memory: bank ordinal, row, column, byte. -/
def Coord.phys (c : Coord) : Nat := c.ordinal * 2 ^ 26 + c.row * 1024 + c.col * 32 + c.byte

/-- The coordinates of a place in the memory. -/
def coordOf (p : Nat) : Coord :=
  { stack := p / 2 ^ 36, chan := bitsOf p 32 4, rank := bitsOf p 30 2, bank := bitsOf p 26 4
    row := bitsOf p 10 16, col := bitsOf p 5 5, byte := bitsOf p 0 5 }

/-- A mapping region, from its register (spec/05, Table 5-2). -/
structure Region where
  valid : Bool
  local_ : Bool
  sizeLog2 : Nat
  base : Nat
  rowBase : Nat
  deriving DecidableEq, Repr

/-- Region `n`. -/
def regionOfWord (w : Nat) : Region :=
  { valid := bitAt w 0, local_ := bitAt w 1, sizeLog2 := bitsOf w 4 4, base := bitsOf w 16 10
    rowBase := bitsOf w 32 10 }

/-- Rows of the band. -/
def Region.rows (r : Region) : Nat := 2 ^ (r.sizeLog2 + 6)
/-- First row. -/
def Region.row0 (r : Region) : Nat := r.rowBase * 64
/-- First local address. -/
def Region.addr0 (r : Region) : Nat := r.base * 2 ^ 29
/-- Bytes of the region. -/
def Region.size (r : Region) : Nat := r.rows * 2 ^ 23

/-- A well-formed region (spec/05, R94). -/
def Region.ok (r : Region) : Bool :=
  r.sizeLog2 ≤ 10 && r.base % 2 ^ r.sizeLog2 = 0 && r.rowBase % 2 ^ r.sizeLog2 = 0

/-- Whether the region is valid and holds local address `a`. -/
def Region.holds (r : Region) (a : Nat) : Bool := r.valid && r.addr0 ≤ a && a < r.addr0 + r.size

/-- Region `n` as its register stands. -/
def region (s : Sled) (n : Nat) : Region := regionOfWord (rGet s bMAP (8 * n))

/-- The pivot bits of the thirteen select masks in the order of spec/05, Table 5-4. -/
def pivots : List Nat := [8, 9, 10, 11, 12, 13, 14, 15, 16, 17, 18, 19, 20]

/-- The fixed masks of KT3 mode (spec/21, Table 21-5). -/
def kt3Masks : List Nat :=
  [0x800100, 0x1000200, 0x2000400, 0x4000800, 0x8001000, 0x10002000, 0x20004000,
   0x40008000, 0x80010000, 0x100020000, 0x200040000, 0x400080000, 0x800100000]

/-- The masks in force (spec/05, R97, R103): channel 0-3, stack 0-2, bank 0-3, rank 0-1. -/
def masks (s : Sled) : List Nat :=
  if kt3 s then kt3Masks
  else (List.range 13).map fun i => bitsOf (rGet s bMAP (0x80 + 8 * i)) 0 40

/-- Select bits lo to lo + n - 1 of the mask order, as a number: parities of the address under each mask. -/
def selects (ms : List Nat) (a lo n : Nat) : Nat :=
  (List.range n).foldl (fun acc i => acc + b2n (parityN 40 (a &&& nth ms (lo + i))) * 2 ^ i) 0

/-- The mask with pivot bit `p` obeys R98: of the pivot bits only its own is 1, and bits [7:0] and 39 are 0. -/
def maskOk (p m : Nat) : Bool := m &&& 0x80001FFFFF = 2 ^ p

/-- Every mask obeys R98. -/
def masksOk (ms : List Nat) : Bool := (List.range 13).all fun i => maskOk (nth pivots i) (nth ms i)

/-- The mapping of a hashed region while a mask breaks R98: undefined, within the rows of the region
(notes/assumptions/14). -/
def xlateBroken (ms : List Nat) (r : Region) (a : Nat) : Coord :=
  let v := Config.brokenMap ms a
  { stack := bitsOf v 10 3, chan := bitsOf v 6 4, rank := bitsOf v 4 2, bank := bitsOf v 0 4
    row := r.row0 + bitsOf v 18 16 % r.rows, col := bitsOf v 13 5, byte := bitsOf a 0 5 }

/-- Coordinates of local address `a` in region `r` (spec/05, R97, R100). -/
def xlate (ms : List Nat) (r : Region) (a : Nat) : Coord :=
  let o := a - r.addr0
  if r.local_ then
    let slice := r.rows * 1024
    let ord := o / slice
    { stack := bitsOf ord 10 3, chan := bitsOf ord 6 4, rank := bitsOf ord 4 2, bank := bitsOf ord 0 4
      row := r.row0 + o % slice / 1024, col := bitsOf o 5 5, byte := bitsOf o 0 5 }
  else if !masksOk ms then xlateBroken ms r a
  else
    { stack := selects ms a 4 3, chan := selects ms a 0 4, rank := selects ms a 11 2, bank := selects ms a 7 4
      row := r.row0 + bitsOf o 23 16, col := bitsOf a 5 3 + 8 * bitsOf a 21 2, byte := bitsOf a 0 5 }

/-- The local address of coordinates in region `r` (spec/05, R101). -/
def xlateInv (ms : List Nat) (r : Region) (c : Coord) : Nat :=
  if r.local_ then
    r.addr0 + c.ordinal * (r.rows * 1024) + (c.row - r.row0) * 1024 + c.col * 32 + c.byte
  else if !masksOk ms then r.addr0 + Config.brokenMap ms c.phys % r.size
  else
    let a := r.addr0 ||| ((c.row - r.row0) * 2 ^ 23)
    let a := a ||| ((c.col / 8) * 2 ^ 21) ||| ((c.col % 8) * 32) ||| c.byte
    let sel := selBits c
    (List.range 13).foldl (fun a i =>
      let p := nth pivots i
      let par := parityN 40 ((a &&& nth ms i) - (if bitAt (a &&& nth ms i) p then 2 ^ p else 0))
      a ||| (b2n (Bool.xor (bitAt sel i) par) * 2 ^ p)) a
where
  /-- The thirteen select bits of coordinates, in mask order. -/
  selBits (c : Coord) : Nat := c.chan + c.stack * 2 ^ 4 + c.bank * 2 ^ 7 + c.rank * 2 ^ 11

/-- Numbers of the valid regions that hold an address. -/
def regionsHolding (s : Sled) (a : Nat) : List Nat := (List.range 16).filter fun n => (region s n).holds a

/-- Channel `c` of stack `st`. -/
def chanKey (st c : Nat) : Nat := st * 16 + c

/-- The channel's state. -/
def getChan (s : Sled) (st c : Nat) : Chan := fget s.chan {} (chanKey st c)

/-- Change one channel. -/
def updChan (st c : Nat) (f : Chan → Chan) (s : Sled) : Sled :=
  { s with chan := fset s.chan {} (chanKey st c) (f (getChan s st c)) }

/-- Change one memory controller. -/
def updMcs (st : Nat) (f : Mcs → Mcs) (s : Sled) : Sled :=
  { s with mcs := fset s.mcs {} st (f (fget s.mcs {} st)) }

/-- User coordinates and region of a local address, or none where it is unmapped (spec/05, R92, R96). A channel that has
not been trained yet is unmapped like an offline one: R96 names only offline channels, and what an access to an
untrained one does is the model's choice (DESIGN CHOICE, notes/assumptions/24). -/
def translate (s : Sled) (a : Nat) : Option (Coord × Nat) :=
  if a ≥ 2 ^ 39 then none else
  match regionsHolding s a with
  | [n] =>
    if (region s n).ok then
      let c := xlate (masks s) (region s n) a
      if (getChan s c.stack c.chan).online then some (c, n) else none
    else none
  | _ => none

/-- Spare-map entry `k` (spec/22, Table 22-11). -/
def spareEnt (s : Sled) (k : Nat) : Option SpareEnt :=
  let v := rGet s bKPR (8 + 8 * k)
  if bitAt v 0 then some { stack := bitsOf v 1 3, rank := bitsOf v 4 2 } else none

/-- The migration of a source rank that has been cut over and whose map entry is not yet written. -/
def cutOver (s : Sled) (st r : Nat) : Option Nat :=
  match (fget s.mcs {} st).mig with
  | some m => if m.rank = r ∧ m.state = 3 then some m.spare else none
  | none => none

/-- The rank that serves a user rank: itself, or a spare of S8 (spec/05, R93; spec/18, R355, R358). -/
def redirect (s : Sled) (st r : Nat) : Nat × Nat :=
  let viaMap := (List.range 4).find? fun k => spareEnt s k = some { stack := st, rank := r }
  let (st1, r1) := match viaMap with
    | some k => (8, k)
    | none => (st, r)
  match cutOver s st1 r1 with
  | some k => (8, k)
  | none => (st1, r1)

/-- Coordinates after redirection. -/
def Coord.redirected (s : Sled) (c : Coord) : Coord :=
  let (st, r) := redirect s c.stack c.rank
  { c with stack := st, rank := r }

/-- The place in the memory of a local address of DRAM, a scratchpad or the stream state SRAM; none where
the address is unmapped or its island does not run (spec/01 R15; spec/03 R71; spec/05 R96). -/
def placeOf (s : Sled) (a : Nat) : Option Nat :=
  if a < 2 ^ 39 then
    match translate s a with
    | some (c, _) => if islRuns s (iMC c.stack) then some (c.redirected s).phys else none
    | none => none
  else match scratchOf a with
    | some v => if islRuns s (iVC v) then some (2 ^ 40 + a) else none
    | none =>
      if 0x8200000000 ≤ a ∧ a < 0x8204000000 then
        if islRuns s iSTE then some (2 ^ 40 + a) else none
      else none

/-! ## ECC and poison (spec/09) -/

/-- What an aligned 32-byte word holds beside its data. -/
def eClean : Nat := 0
def eSingle : Nat := 1
def eFresh : Nat := 2
def ePoison : Nat := 3

/-- State of the word at place `p`. -/
def eccAt (s : Sled) (p : Nat) : Nat := fget s.ecc 0 (p / 32)

/-- The bytes of a poisoned word (spec/09, R172): 0x7FC0 throughout. -/
def poisonBytes : List Byte := leBytes 32 (0x7FC07FC07FC07FC0 * (2 ^ 192 + 2 ^ 128 + 2 ^ 64 + 1))

/-- Make the word at place `p` poisoned. -/
def poisonAt (p : Nat) (s : Sled) : Sled :=
  { s with mem := memWrite s.mem (p / 32 * 32) poisonBytes, ecc := fset s.ecc 0 (p / 32) ePoison }

/-- A DRAM object ID (spec/18, Table 18-2). -/
def dramObj (c : Coord) : Nat := c.bank + c.rank * 16 + c.chan * 64 + c.stack * 1024 + c.row * 2 ^ 14

/-- A record about a DRAM word. -/
def recDram (code : Nat) (c : Coord) : Rec :=
  { mkRec code (iMC c.stack) with object := dramObj c, ext := c.col }

/-! ### Spares (spec/18, R350, R351) -/

/-- Rank `r` of channel `c` of a stack has passed training: steps 1 to 5, or verification (spec/07, R130, R131). -/
def trained (s : Sled) (st c r : Nat) : Bool :=
  let m := fget (fget s.mcs {} st).passed 0 (c * 4 + r)
  bitAt m 6 || (m &&& 0x3E) = 0x3E

/-- A migration into spare `k`, if one has been started. -/
def migInto (s : Sled) (k : Nat) : Option (Nat × Mig) :=
  (List.range 9).findSome? fun st =>
    match (fget s.mcs {} st).mig with
    | some m => if m.spare = k then some (st, m) else none
    | none => none

/-- Spare rank `k` is available: it has passed training, is not withdrawn and replaces no rank (R351). -/
def spareFree (s : Sled) (k : Nat) : Bool :=
  !bitAt s.kpr.badSpares k && (List.range 16).all (fun c => trained s 8 c k) &&
  (spareEnt s k).isNone && (migInto s k).isNone

/-- A rank of a stack is replaced already, or its migration is running or pending. -/
def spareTaken (s : Sled) (st r : Nat) : Bool :=
  s.kpr.pendingMig.any (fun p => p.1 = st && p.2.1 = r) ||
  (match (fget s.mcs {} st).mig with
   | some m => m.rank = r && !m.abort
   | none => false) ||
  (List.range 4).any (fun k => spareEnt s k = some { stack := st, rank := r })

/-- A spare rank fails: the migration into it stops with ABORT and restarts on another spare ahead of the
pending ones, and the spare leaves the pool (R351, R357). -/
def spareFails (k : Nat) (s : Sled) : Sled :=
  let s := { s with kpr := { s.kpr with badSpares := setBit s.kpr.badSpares k true } }
  match migInto s k with
  | some (st, m) =>
    if m.state < 3 ∧ !m.abort then
      let s := rSetField (bMC st) 0x308 7 1 1 (updMcs st (fun c => { c with mig := some { m with abort := true } }) s)
      let s := { s with kpr := { s.kpr with pendingMig := (st, m.rank, true) :: s.kpr.pendingMig } }
      logRec (mkRec 0x300D (iMC st)) s
    else s
  | none => s

/-- Spare rank `r` serves in place of another rank: its map entry is set or its migration is done. -/
def spareServes (s : Sled) (r : Nat) : Bool :=
  (spareEnt s r).isSome ||
  (match migInto s r with
   | some (_, m) => m.state = 3 && !m.abort
   | none => false)

/-- A trigger of R350 for a rank. It is noted in trigger order where a spare is available; else
DRAM_SPARE_NONE is logged (R359). Answers whether the rank is left without a spare. Whether a spare is available is
judged when the trigger comes: in boot training, before S8 has passed on all its channels, none is (R131 does not say when;
DESIGN CHOICE, notes/assumptions/24). -/
def spareTrigger (st r : Nat) (fatal : Bool) (s : Sled) : Bool × Sled :=
  if st = 8 ∧ !spareServes s r then
    (false, if fatal then spareFails r s else s)
  else if spareTaken s st r then (false, s)
  else if s.kpr.pendingMig.length < ((List.range 4).filter (spareFree s)).length then
    (false, { s with kpr := { s.kpr with pendingMig := s.kpr.pendingMig ++ [(st, r, fatal)] } })
  else (true, logRec (mkRec 0x300B (iMC st)) s)

/-- The sparing threshold: a written 0 takes effect as 1 (spec/22, Table 22-4). -/
def ueThr (s : Sled) (st : Nat) : Nat := max 1 (rField s (bMC st) 0x310 0 8)

/-- Count a fresh uncorrectable word of a rank, capture it, log DRAM_UE, and trigger sparing at the
threshold (spec/09, R175, R447; spec/18, R350; spec/22, Table 22-4). -/
def freshUe (c : Coord) (s : Sled) : Sled :=
  let off := 0x400 + 8 * c.rank
  let cnt := min 255 (rField s (bMC c.stack) off 40 8 + 1)
  let s := rSet (bMC c.stack) off (dramObj c + c.col * 2 ^ 32 + cnt * 2 ^ 40 + 2 ^ 48) s
  let s := logRec (recDram 0x3001 c) s
  if ueThr s c.stack ≤ cnt then (spareTrigger c.stack c.rank false s).2 else s

/-- Whether channel `c` of a rank cannot be read: out of service, or lost in its migration (R125, R356). -/
def unreadable (s : Sled) (st c r : Nat) : Bool :=
  bitAt (getChan s st c).dead r ||
  (match (fget s.mcs {} st).mig with
   | some m => m.rank = r && m.state < 3 && bitAt m.dead c
   | none => false)

/-- Island of an SRAM word at place `w`: its vault core, or the stream engine. -/
def sramIsland (w : Nat) : Nat :=
  match scratchOf (w - 2 ^ 40) with
  | some v => iVC v
  | none => iSTE

/-- A fresh uncorrectable word of an SRAM has become poison: ENG_POISON is logged (spec/10, R203; the stream state SRAM
likewise, notes/assumptions/14). -/
def sramUe (w : Nat) (s : Sled) : Sled := logRec (mkRec 0xB004 (sramIsland w)) s

/-- What a read of the whole word at place `p` meets (spec/09, R446, R447; spec/10, R203): its bytes and whether it is
poisoned. On an unreadable channel that is poison. A fresh uncorrectable word is rewritten as poison and logged, and
counted where it is DRAM's; a single-bit error of an SRAM is rewritten corrected. -/
def readRaw (p : Nat) (s : Sled) : (List Byte × Bool) × Sled :=
  let w := p / 32 * 32
  if w < 2 ^ 40 ∧ unreadable s (coordOf w).stack (coordOf w).chan (coordOf w).rank then
    ((poisonBytes, true), s)
  else if eccAt s w = ePoison then ((poisonBytes, true), s)
  else if eccAt s w = eFresh then
    ((poisonBytes, true), if w < 2 ^ 40 then freshUe (coordOf w) (poisonAt w s) else sramUe w (poisonAt w s))
  else if eccAt s w = eSingle ∧ 2 ^ 40 ≤ w then
    ((memRead s.mem w 32, false), { s with ecc := fset s.ecc 0 (w / 32) eClean })
  else ((memRead s.mem w 32, false), s)

/-- Channel `c` of a rank is out of service, and no migration of the rank has begun yet (spec/06, R125). -/
def rankHeld (s : Sled) (st c r : Nat) : Bool :=
  bitAt (getChan s st c).dead r &&
  (match (fget s.mcs {} st).mig with
   | some m => !(m.rank = r && m.state < 3 && !m.abort)
   | none => true)

/-- A read of the word at place `w` has to wait: its stack changes speed (spec/07, R137), its rank waits to be spared
(spec/06, R125), or it lies in an SRAM that has not been cleared since the start (spec/04, R443). -/
def heldRead (s : Sled) (w : Nat) : Bool :=
  if w < 2 ^ 40 then
    (fget s.mcs {} (coordOf w).stack).selfRefresh || rankHeld s (coordOf w).stack (coordOf w).chan (coordOf w).rank
  else s.clearing

/-- The access of the running command has to wait. -/
def setStall (s : Sled) : Sled := { s with stall := true }

/-- Read the whole word at place `p`, where the access can proceed now. -/
def readWord (p : Nat) (s : Sled) : (List Byte × Bool) × Sled :=
  if heldRead s (p / 32 * 32) then ((poisonBytes, true), setStall s) else readRaw p s

/-- Merge bytes into a word by mask. -/
def mergeBytes : Nat → List Byte → List Byte → List Byte
  | _, [], _ => []
  | _, os, [] => os
  | m, o :: os, n :: ns => (if m % 2 = 1 then n else o) :: mergeBytes (m / 2) os ns

/-- Store into one stored word: whole or by mask (spec/09, R446, Table 9-4). -/
def storeWord (p mask : Nat) (d : List Byte) (s : Sled) : Sled :=
  let w := p / 32 * 32
  if mask = 2 ^ 32 - 1 then
    { s with mem := memWrite s.mem w d, ecc := fset s.ecc 0 (w / 32) eClean }
  else
    match readRaw w s with
    | ((_, true), s) => s
    | ((old, false), s) =>
      { s with mem := memWrite s.mem w (mergeBytes mask old d), ecc := fset s.ecc 0 (w / 32) eClean }

/-- Where a write of the word at place `p` also goes while its rank migrates (spec/18, R353). -/
def mirrorOf (s : Sled) (p : Nat) : Option Nat :=
  let c := coordOf p
  match (fget s.mcs {} c.stack).mig with
  | some m =>
    if m.rank = c.rank ∧ m.state < 3 ∧ !m.abort ∧
        (c.row < fget m.wm 0 c.chan ∨ (c.row = fget m.wm 0 c.chan ∧ bitAt (fget m.part 0 c.chan) c.bank)) then
      some { c with stack := 8, rank := m.spare }.phys
    else none
  | none => none

/-- A write of the word at place `w` has to wait: as a read, or for the copy on an unreadable channel (spec/18, R356). -/
def heldWrite (s : Sled) (w : Nat) : Bool :=
  if w < 2 ^ 40 then
    (fget s.mcs {} (coordOf w).stack).selfRefresh ||
    (unreadable s (coordOf w).stack (coordOf w).chan (coordOf w).rank && (mirrorOf s w).isNone)
  else s.clearing

/-- Write one word by mask at its place, and at its mirror during a migration. On an unreadable channel
the write below the watermark goes to the spare, and any other is held (spec/18, R353, R356). -/
def writeRaw (p mask : Nat) (d : List Byte) (s : Sled) : Sled :=
  let w := p / 32 * 32
  if w < 2 ^ 40 then
    let c := coordOf w
    let dead := unreadable s c.stack c.chan c.rank
    match mirrorOf s w with
    | some q => storeWord q mask d (if dead then s else storeWord w mask d s)
    | none =>
      if dead then
        updMcs c.stack (fun m =>
          { m with held := m.held ++ [(w, BitVec.ofNat 32 mask, BitVec.ofNat 256 (leNat d))] }) s
      else storeWord w mask d s
  else storeWord w mask d s

/-- Write one word by mask, where the access can proceed now. -/
def writeWord (p mask : Nat) (d : List Byte) (s : Sled) : Sled :=
  if heldWrite s (p / 32 * 32) then setStall s else writeRaw p mask d s

/-- Write one word as poison, at its place and its mirror. -/
def poisonRaw (p : Nat) (s : Sled) : Sled :=
  match (if p < 2 ^ 40 then mirrorOf s p else none) with
  | some q => poisonAt q (poisonAt p s)
  | none => poisonAt p s

/-- Write one word as poison, where the access can proceed now. -/
def writePoison (p : Nat) (s : Sled) : Sled :=
  if heldWrite s (p / 32 * 32) then setStall s else poisonRaw p s

/-- An access to an unmapped address is logged, once per requester per 1 ms, from the island that
spec/21, R410 names. -/
def logUnmapped (w : Who) (addr island : Nat) (s : Sled) : Sled :=
  let r := { recWho s 0xB006 w with island := island }
  logLimited ms (waiterId s w) (recAddr false addr (moduleId s) r) s

/-- Island that owns a local address outside register space, where it runs; else NOC (R410). -/
def ownerIsland (s : Sled) (a : Nat) : Nat :=
  let i := match scratchOf a with
    | some v => iVC v
    | none => if 0x8200000000 ≤ a ∧ a < 0x8204000000 then iSTE else iNOC
  if islRuns s i then i else iNOC

/-- Read `n` bytes from local address `a` on: each 32-byte word on its own (spec/05, R104). Answers the
bytes, the poison of each byte, and whether every word was mapped; an unmapped word reads 0. -/
def readBytes : Nat → Nat → Nat → Sled → (List (Byte × Bool) × Bool) × Sled
  | 0, _, _, s => (([], true), s)
  | fuel + 1, a, n, s =>
    if n = 0 then (([], true), s) else
    let k := min (32 - a % 32) n
    let ((part, ok), s) := match placeOf s a with
      | some p =>
        let ((w, po), s) := readWord p s
        (((w.drop (a % 32)).take k |>.map fun b => (b, po), true), s)
      | none => ((List.replicate k ((0 : Byte), false), false), s)
    let ((rest, ok2), s) := readBytes fuel (a + k) (n - k) s
    ((part ++ rest, ok && ok2), s)

/-- Read `n` bytes from a local address. -/
def readLocal (a n : Nat) (s : Sled) : (List (Byte × Bool) × Bool) × Sled := readBytes n a n s

/-- Write bytes from local address `a` on, word by word; unmapped words are ignored. A word that receives
a byte marked poisoned is written poisoned (spec/09, R446; spec/13, R263). -/
def writeBytes : Nat → Nat → List (Byte × Bool) → Sled → Sled
  | 0, _, _, s => s
  | fuel + 1, a, l, s =>
    if l.isEmpty then s else
    let k := min (32 - a % 32) l.length
    let part := l.take k
    let s := match placeOf s a with
      | some p =>
        if part.any (·.2) then writePoison p s
        else
          let mask := (2 ^ k - 1) * 2 ^ (a % 32)
          writeWord p mask (List.replicate (a % 32) 0 ++ part.map (·.1) ++
            List.replicate (32 - a % 32 - k) 0) s
      | none => s
    writeBytes fuel (a + k) (l.drop k) s

/-- Write bytes from a local address on. -/
def writeLocal (a : Nat) (l : List (Byte × Bool)) (s : Sled) : Sled := writeBytes l.length a l s

/-- Bytes without poison. -/
def cleanBytes (l : List Byte) : List (Byte × Bool) := l.map fun b => (b, false)

/-- Any of the bytes is poisoned. -/
def anyPoison (l : List (Byte × Bool)) : Bool := l.any (·.2)

/-- Every 32-byte word of [a, a + n) is mapped. -/
def allMapped (s : Sled) (a n : Nat) : Bool :=
  (List.range ((a + n + 31) / 32 - a / 32)).all fun i => (placeOf s ((a / 32 + i) * 32)).isSome

/-- An access of `w` to [a, a + n) meets an unmapped word: logged (spec/05, R96; spec/21, R410). -/
def logHole (w : Who) (a n : Nat) (s : Sled) : Sled :=
  match (List.range ((a + n + 31) / 32 - a / 32)).find? fun i => (placeOf s ((a / 32 + i) * 32)).isNone with
  | some i => logUnmapped w (max a ((a / 32 + i) * 32)) (ownerIsland s (max a ((a / 32 + i) * 32))) s
  | none => s

/-- A requester reads or writes bytes of this sled; a hole is logged. -/
def readFor (w : Who) (a n : Nat) (s : Sled) : (List (Byte × Bool) × Bool) × Sled := readLocal a n (logHole w a n s)
def writeFor (w : Who) (a : Nat) (l : List (Byte × Bool)) (s : Sled) : Sled :=
  writeLocal a l (logHole w a l.length s)

/-- The next free value (notes/assumptions/3). -/
def nextFree (s : Sled) : Nat × Sled := (Config.freeValue s.free, { s with free := s.free + 1 })

/-- Progress of a tenant for the deadlock detector (spec/12, R242). -/
def progress (t : Nat) (s : Sled) : Sled :=
  { s with dld := fset s.dld {} t { fget s.dld {} t with progress := true } }

/-! ## Output pins (spec/02, Table 2-6) -/

/-- Throttle threshold of a housekeeping slot, none for slots without one (spec/19, Table 19-2, R374). -/
def throttleAt (s : Sled) (i : Nat) : Option Nat :=
  if i < 36 then some (rField s bTHM 0x400 0 8)
  else if i < 72 then some (rField s bTHM 0x400 8 8)
  else if i = 72 then some 46
  else if 87 ≤ i ∧ i ≤ 90 then some (rField s bTHM 0x400 16 8)
  else none

/-- A slot's sensor. -/
def sensor (s : Sled) (i : Nat) : Sensor := fget s.thm.sensor {} i

/-- A sensor reads at or above its throttle threshold, or is broken (spec/19, R372). -/
def hotSlot (s : Sled) (i : Nat) : Bool :=
  (sensor s i).broken ||
  (match throttleAt s i with
   | some t => t ≤ (sensor s i).reading
   | none => false)

/-- Every sensor has been read once since reset. -/
def sensorsRead (s : Sled) : Bool := s.thm.firstRound

/-- FAULT_N is asserted: a severity-4 record is outstanding, the sled is in watch-only, or the keeper is in
its recovery state (spec/02, Table 2-6; spec/04, R88; spec/18, R347). -/
def faultOn (s : Sled) : Bool :=
  0 < s.kpr.outstanding || s.kpr.tier = 1 || s.kpr.phase = .recovery || s.thm.crit

/-- The always-on supply is in regulation. -/
def powered (s : Sled) : Bool :=
  match s.plat.supply with
  | .on => true
  | .holdUp _ => true
  | _ => false

/-- The always-on island is out of reset: powered, MOD_RESET_N deasserted, and the strap sampling that follows the reset
done. Table 3-3, step 4, has every output released during the sampling, where Table 2-6 drives READY low from the
release of the reset on; the model follows Table 3-3 (DESIGN CHOICE, notes/assumptions/40). -/
def aonOut (s : Sled) : Bool := powered s && !s.plat.modReset && !s.plat.sampling

/-- Every output released (spec/02, Table 2-6, Unpowered and In reset). PRSNT_N is passive: it shows the seating of both
short contacts in every phase. -/
def releasedPins (s : Sled) : Pins :=
  { faultLow := false, thermLow := false, smbAlertLow := false, ready := none, demandUv := none
    rangeInd := none, coolant := none, ledPwr := false, ledFault := false, ledLoc := false
    prsntLow := s.plat.seated, tdo := none, smbDat := none, i3cSda := none }

/-- The output pins, from the state (spec/02, Table 2-6). SMB_DAT and I3C_SDA are driven only during transfers, which
begin and end within a command; TDO is driven only while the tap controller shifts, and TRST_N holds it reset. -/
def livePins (s : Sled) : Pins :=
  if aonOut s then
    { releasedPins s with
      faultLow := faultOn s
      thermLow := sensorsRead s && (s.thm.critAlert || (List.range 100).any (hotSlot s))
      smbAlertLow := s.kpr.alert
      ready := some s.plat.ready
      demandUv := s.plat.demand.map fun p =>
        if s.plat.rangeHigh = some true then 100000 + min p 2000 * 800 else 100000 + min p 1000 * 1600
      rangeInd := s.plat.rangeHigh
      coolant := s.plat.coolant
      ledPwr := s.plat.rails = .up
      ledFault := faultOn s
      ledLoc := s.plat.locate || s.plat.quiesce = .safe }
  else releasedPins s

/-- The output pins: held at their last values while the keeper restarts (spec/20, R386), but for what hardware drives;
a reset releases them whatever the keeper does (spec/02, R34). -/
def outPins (s : Sled) : Pins :=
  match s.plat.heldPins with
  | some h => if aonOut s then { h with ready := (livePins s).ready, ledPwr := (livePins s).ledPwr } else livePins s
  | none => livePins s

end Sys2Proof.Machine
end

