-- ==== Sys2Proof/Machine/Sync.lean ====
section
/-! DEFINITION. The sync store: its slots, the checks on who may act, and every operation on counters and
semaphores; hardware waits; and the faulting and starting of descriptors, which waits decide (spec/12,
spec/10 R186-R191). -/

namespace Sys2Proof.Machine

open Sys2Proof

/-! ## Objects (spec/12, R222-R224) -/

/-- What a counter holds when nothing is listed for it: not valid, or a rescue-page counter (R224). -/
def ctrDef (i : Nat) : Ctr := if 16320 ≤ i then { valid := true } else {}

/-- What a semaphore holds when nothing is listed for it; 65,280 holds 1 (R224). -/
def semDef (i : Nat) : Sem :=
  if i = 65280 then { valid := true, count := 1 } else if 65280 < i then { valid := true } else {}

def getCtr (s : Sled) (i : Nat) : Ctr := fget s.ctr (ctrDef i) i
def getSem (s : Sled) (i : Nat) : Sem := fget s.sem (semDef i) i

def setCtr (i : Nat) (c : Ctr) (s : Sled) : Sled := { s with ctr := fset s.ctr (ctrDef i) i c }
def setSem (i : Nat) (c : Sem) (s : Sled) : Sled := { s with sem := fset s.sem (semDef i) i c }

/-- The largest counter value. -/
def ctrTop : Nat := 2 ^ 48 - 1

/-- The 64 bits of a counter slot (spec/12, Table 12-2). -/
def ctrSlot (c : Ctr) : Nat :=
  c.value + c.owner * 2 ^ 48 + b2n c.valid * 2 ^ 52 + b2n c.sat * 2 ^ 53 + b2n c.lost * 2 ^ 54

/-- The 64 bits of a semaphore slot (spec/12, Table 12-2). -/
def semSlot (c : Sem) : Nat :=
  iNat 32 c.count + c.owner * 2 ^ 32 + b2n c.valid * 2 ^ 36 + b2n c.lost * 2 ^ 38

/-- A slot that an AMO returns as failed: bit 63 is 1 (R227, R234). -/
def failed (slot : Nat) : Nat := slot % 2 ^ 63 + 2 ^ 63

/-- Objects of the rescue page belong to no tenant (R224). -/
def rescueObj (sem : Bool) (i : Nat) : Bool := if sem then 65280 ≤ i else 16320 ≤ i

/-- Owner, peer mask, VALID and LOST of an object. -/
def objHead (s : Sled) (sem : Bool) (i : Nat) : Nat × Nat × Bool × Bool :=
  if sem then ((getSem s i).owner, (getSem s i).mask, (getSem s i).valid, (getSem s i).lost)
  else ((getCtr s i).owner, (getCtr s i).mask, (getCtr s i).valid, (getCtr s i).lost)

/-- Why an operation of a requester on an object is turned away, if it is (R227, R236-R239): first an invalid
object, then ownership, then a lost owner. Control cores and the keeper pass. -/
def objCheck (s : Sled) (w : Who) (sem : Bool) (i : Nat) : Option Nat :=
  match w.tenant with
  | none => none
  | some t =>
    let (owner, mask, valid, lost) := objHead s sem i
    if !valid then some 0x1008
    else if rescueObj sem i || (t ≠ owner && !bitAt mask t) then some 0x1002
    else if lost then some 0x1003
    else none

/-- The object ID of a sync record (spec/12, Table 12-7). -/
def syncObj (s : Sled) (kind i : Nat) : Nat := i % 65536 + kind * 65536 + moduleId s * 2 ^ 24

/-- The record of a sync operation on an object of module `m` (R235): `kind` is 0 a counter, 1 a semaphore, 2 the peer mask
of a counter, 3 that of a semaphore. A record about a rescue-page object names no tenant (R224). -/
def syncRec (s : Sled) (m code : Nat) (w : Who) (kind i a1 a2 : Nat) : Rec :=
  let r := { recWho s code w with object := i % 65536 + min kind 2 * 65536 + m * 2 ^ 24
                                  arg1 := a1 % 2 ^ 32, arg2 := a2 % 2 ^ 32 }
  if rescueObj (kind % 2 = 1) i then { r with tenant := none } else r

/-- Log a refused, blocked or failed sync operation on an object of module `m` and count it (R227, R235,
R238, R246). -/
def logSyncAt (m code : Nat) (w : Who) (kind i a1 a2 : Nat) (s : Sled) : Sled :=
  let r := syncRec s m code w kind i a1 a2
  let s := if code = 0x1001 then bump bSYN 0x300 s
    else if code = 0x1002 then bump bSYN 0x308 s
    else if code = 0x1008 then bump bSYN 0x320 s
    else s
  logRec r s

/-- As `logSyncAt` for an object of this sled. -/
def logSync (code : Nat) (w : Who) (kind i a1 a2 : Nat) (s : Sled) : Sled :=
  logSyncAt (moduleId s) code w kind i a1 a2 s

/-- Every tenant with a wait on the object has made progress (R242). -/
def objProgress (kind : Nat) (i : Nat) (s : Sled) : Sled :=
  s.waits.foldl (fun s w =>
    if w.idx = i && w.mod = none && (if w.kind = .counter then 0 else 1) = kind then
      match w.who.tenant with
      | some t => progress t s
      | none => s
    else s) s

/-- A signal on a counter that may act: the value grows, saturating (R228). -/
def ctrAdd (w : Who) (i inc : Nat) (s : Sled) : Sled :=
  let c := getCtr s i
  let s := objProgress 0 i s
  if c.value + inc ≤ ctrTop then setCtr i { c with value := c.value + inc } s
  else
    let s := setCtr i { c with value := ctrTop, sat := true } s
    if c.sat then bump bSYN 0x310 s
    else logSync 0x1006 w 0 i inc 0 s

/-- A signal: checked, then applied. Answers the slot before the add, or the code it was turned away with,
which has been logged (R228, R238). -/
def ctrSignal (w : Who) (i inc : Nat) (s : Sled) : Option Nat × Sled :=
  if inc = 0 ∨ 2 ^ 32 ≤ inc then (some 0x1008, logSync 0x1008 w 0 i inc 0 s)
  else match objCheck s w false i with
    | some code => (some code, logSync code w 0 i inc 0 s)
    | none => (none, ctrAdd w i inc s)

/-- An add to a semaphore: checked, then applied unless it leaves the range (R230). -/
def semAdd (w : Who) (i : Nat) (x : Int) (s : Sled) : Option Nat × Sled :=
  if x = 0 then (some 0x1008, logSync 0x1008 w 1 i 0 0 s)
  else match objCheck s w true i with
    | some code => (some code, logSync code w 1 i (iNat 32 x) 0 s)
    | none =>
      let c := getSem s i
      if c.count + x > 2 ^ 31 - 1 then (some 0x1006, logSync 0x1006 w 1 i (iNat 32 x) 0 s)
      else if c.count + x < -(2 ^ 31) then (some 0x1005, logSync 0x1005 w 1 i (iNat 32 x) 0 s)
      else (none, setSem i { c with count := c.count + x } (objProgress 1 i s))

/-- Whether a semaphore operand of 64 bits is the copy of its low half (R227). -/
def semOperandOk (x : Nat) : Bool :=
  bitsOf x 32 32 = 0 || (bitsOf x 32 32 = 2 ^ 32 - 1 && bitAt x 31)

/-- Whether a wait's condition holds, from the object (R217, R228): every target is met on a saturated
counter. -/
def waitMet (s : Sled) (k : WaitKind) (i : Nat) (target : Int) : Bool :=
  match k with
  | .counter => (getCtr s i).sat || decide (target ≤ (getCtr s i).value)
  | .semWait | .semTake => decide (target ≤ (getSem s i).count)

/-- The slot that a wait reads. -/
def waitSlot (s : Sled) (k : WaitKind) (i : Nat) : Nat :=
  match k with
  | .counter => ctrSlot (getCtr s i)
  | .semWait | .semTake => semSlot (getSem s i)

end Sys2Proof.Machine

namespace Sys2Proof

/-- Object-ID kind of a wait. -/
def WaitKind.obj : WaitKind → Nat
  | .counter => 0
  | .semWait | .semTake => 1

end Sys2Proof

namespace Sys2Proof.Machine

/-- A satisfied take subtracts N in the same step (R225). -/
def takeSem (k : WaitKind) (i : Nat) (n : Int) (s : Sled) : Sled :=
  match k with
  | .semTake =>
    let c := getSem s i
    setSem i { c with count := c.count - n } (objProgress 1 i s)
  | _ => s

/-! ## Descriptor queues: faults and starts (spec/10, R186, R191) -/

/-- A descriptor queue's unit: 0-7 a vault core, 8 the stream engine. -/
def descs (s : Sled) (u : Nat) : List Desc := if u = 8 then s.ste.descs else (fget s.vc {} u).descs

/-- Replace a unit's descriptors. -/
def setDescs (u : Nat) (l : List Desc) (s : Sled) : Sled :=
  if u = 8 then { s with ste := { s.ste with descs := l } }
  else { s with vc := fset s.vc {} u { fget s.vc {} u with descs := l } }

/-- Register block of a unit's queues. -/
def qBlk (u : Nat) : Nat := if u = 8 then bSTE else bLAY u

/-- Entries of a ring: 2^SIZE_LOG2, other values than 2-12 taking effect as 2 (spec/10, Table 10-1). -/
def qEntries (s : Sled) (u q : Nat) : Nat :=
  let sz := if u = 8 then rField s bSTE (0x20 * q) 40 4 else rField s (bLAY u) (0x20 * q) 25 4
  2 ^ (if 2 ≤ sz ∧ sz ≤ 12 then sz else 2)

/-- Local address of a ring's first entry: a scratchpad offset of the own core, or any address (R272). -/
def qBase (s : Sled) (u q : Nat) : Nat :=
  if u = 8 then rField s bSTE (0x20 * q) 6 34 * 64
  else 0x8000000000 + u * 0x1800000 + rField s (bLAY u) (0x20 * q) 6 19 * 64

/-- Tenant of queue `q` of a unit. -/
def qTen (s : Sled) (u q : Nat) : Nat :=
  if u = 8 then rField s bSTE (0x20 * q) 48 4 else rField s (bLAY u) (0x20 * q) 32 4

/-- A unit's queue as requester. -/
def whoQ (s : Sled) (u q : Nat) : Who :=
  if u = 8 then { q := q, kind := 6, tenant := some (qTen s u q), island := iSTE }
  else
    { q := q, kind := if q < 16 then 0 else if q < 20 then 1 else 2, ix := u
      tenant := some (qTen s u q), island := iVC u }

/-- A field of a descriptor: `len` bytes at byte offset `off` (spec/10, Table 10-2). -/
def dField (d : Desc) (off len : Nat) : Nat := bitsOf d.bytes.toNat (8 * off) (8 * len)

end Sys2Proof.Machine

namespace Sys2Proof

/-- Operation code. -/
def Desc.opc (d : Desc) : Nat := Machine.dField d 0 1
/-- FLAGS. -/
def Desc.flags (d : Desc) : Nat := Machine.dField d 1 1
/-- FMT. -/
def Desc.fmt (d : Desc) : Nat := Machine.dField d 2 1
/-- Whether the descriptor waits on a counter. -/
def Desc.waits (d : Desc) : Bool := bitAt d.flags 1
/-- The counter awaited. -/
def Desc.waitId (d : Desc) : Nat := bitsOf (Machine.dField d 4 2) 0 14
/-- The value awaited. -/
def Desc.waitVal (d : Desc) : Nat := bitsOf (Machine.dField d 8 8) 0 48

/-- The unit of a queue name. -/
def QUnit.unit : QUnit → Nat
  | .vc c _ => c.val
  | .ste _ => 8

/-- The queue number of a queue name. -/
def QUnit.num : QUnit → Nat
  | .vc _ q => q.val
  | .ste q => q.val

end Sys2Proof

namespace Sys2Proof.Machine

/-- A descriptor's queue stops (R191): ERR is set, HEAD points past the faulting descriptor, descriptors of
the queue that have not started go back to the ring, and the record names the queue and the
descriptor. `a2` is argument 2. -/
def descFault (u : Nat) (d : Desc) (code a2 : Nat) (s : Sled) : Sled :=
  let q := d.q
  let keep := (descs s u).filter fun e => e.id ≠ d.id && (e.q ≠ q || e.stage ≠ 0 || e.id < d.id)
  let last := keep.foldl (fun a e => if e.q = q && d.id < e.id then max a e.id else a) d.id
  let lastAddr := match (descs s u).find? fun e => e.id = last with
    | some e => e.addr
    | none => d.addr
  let idx := (lastAddr - qBase s u q) / 64
  let s := setDescs u keep s
  let s := rSetField (qBlk u) (0x10 + 0x20 * q) 0 12 ((idx + 1) % qEntries s u q) s
  let s := rSetField (qBlk u) (0x10 + 0x20 * q) 16 1 1 s
  let s := { s with waits := s.waits.filter fun w => w.who ≠ whoQ s u q || w.mod ≠ none }
  let s := if u < 8 then
      { s with vc := fset s.vc {} u { fget s.vc {} u with
          staging := if (fget s.vc {} u).staging = some d.id then none else (fget s.vc {} u).staging
          stagingQ := (fget s.vc {} u).stagingQ.filter (· ≠ d.id) } }
    else { s with ste := { s.ste with evictQ := s.ste.evictQ.filter (· ≠ d.id) } }
  let r := recWho s code (whoQ s u q)
  let r := if u = 8 then { recAddr false d.addr (moduleId s) r with arg2 := a2 }
    else { r with arg1 := d.addr - 0x8000000000 - u * 0x1800000, arg2 := a2 }
  let r := if u = 8 && 0x6000 ≤ code && code < 0x7000 then { r with object := bitsOf (dField d 0x18 4) 0 20 } else r
  logRec r s

/-- A queue stops because its descriptor's wait or signal failed: as R191, with the sync record in place of
the descriptor's own (R234, R238). -/
def descStop (u : Nat) (d : Desc) (s : Sled) : Sled :=
  let q := d.q
  let keep := (descs s u).filter fun e => e.id ≠ d.id && (e.q ≠ q || e.stage ≠ 0 || e.id < d.id)
  let idx := (d.addr - qBase s u q) / 64
  let s := setDescs u keep s
  let s := if keep.any fun e => e.q = q && d.id < e.id then s
    else rSetField (qBlk u) (0x10 + 0x20 * q) 0 12 ((idx + 1) % qEntries s u q) s
  let s := { s with waits := s.waits.filter fun w => w.who ≠ whoQ s u q || w.mod ≠ none }
  rSetField (qBlk u) (0x10 + 0x20 * q) 16 1 1 s

/-- A descriptor starts: its place in start order, and for a STEP the gate curves as they stand (spec/14, R270). -/
def startDesc (u : Nat) (d : Desc) (s : Sled) : Sled :=
  let d' := { d with stage := 1, order := s.seq, startAt := s.now
                     curves := if u = 8 ∧ d.opc = 0x61 then s.ste.curves else [] }
  setDescs u ((descs s u).map fun e => if e.id = d.id then d' else e) { s with seq := s.seq + 1 }

/-- The descriptor of a queue whose start is due: the first not started (R187). -/
def headDesc (s : Sled) (u q : Nat) : Option Desc := (descs s u).find? fun d => d.q = q && d.stage = 0

/-! ## Waits (spec/12, R232-R234) -/

/-- A scalar engine's outstanding access ends: its program goes on (spec/11, R221). -/
def wakeSe (w : Who) (s : Sled) : Sled :=
  if w.kind = 3 then { s with vc := fset s.vc {} w.ix { fget s.vc {} w.ix with seWait := false } } else s

/-- Whether a requester is a descriptor queue. -/
def isQueue (w : Who) : Bool := w.kind ≤ 2 || w.kind = 6

/-- The value of a load that was turned away: 0 for a blocked one (R238) and, in the same way, for one of a lost object
(R239); no rule gives the value of a refused one (R227), which is free (notes/assumptions/25). -/
def loadFail (code : Nat) (s : Sled) : Nat × Sled := if code = 0x1008 then nextFree s else (0, s)

/-- A value goes back to a requester that waited for it. -/
def returnVal (w : Who) (v : Nat) (s : Sled) : Sled := wakeSe w (emit (.value (waiterId s w) v) s)

/-- A failed wait: one record, and what its waiter sees (R234, Tables 12-5 and 12-6). -/
def failWait (w : Wait) (code : Nat) (s : Sled) : Sled :=
  let s := { s with waits := s.waits.filter (· ≠ w) }
  let s := logSyncAt (w.mod.getD (moduleId s)) code w.who w.kind.obj w.idx (iNat 32 w.target) w.lastVal s
  if !isQueue w.who then returnVal w.who (failed w.lastVal) s
  else
    let u := if w.who.kind = 6 then 8 else w.who.ix
    match headDesc s u w.who.q with
    | some d => descStop u d s
    | none => s

/-- A satisfied wait: the take, and the waiter goes on; a descriptor may then start. -/
def meetWait (w : Wait) (s : Sled) : Sled :=
  let slot := waitSlot s w.kind w.idx
  let before := iNat 32 (getSem s w.idx).count
  let s := takeSem w.kind w.idx w.target s
  let s := { s with waits := s.waits.filter (· ≠ w) }
  if !isQueue w.who then returnVal w.who (if w.kind = .semTake then before else slot) s
  else
    let u := if w.who.kind = 6 then 8 else w.who.ix
    match headDesc s u w.who.q with
    | some d => setDescs u ((descs s u).map fun e => if e.id = d.id then { e with ready := true } else e) s
    | none => s

/-- One poll of a local wait: it fails on a check, is met, or remembers what it read. -/
def pollWait (w : Wait) (s : Sled) : Sled :=
  match objCheck s w.who (w.kind.obj = 1) w.idx with
  | some code =>
    -- The slot read goes back with the failure, but of a blocked object nothing is read (R234, R238).
    let w' := if code = 0x1002 then w else { w with lastVal := waitSlot s w.kind w.idx }
    -- An object found invalid while the wait was pending was freed: its owner is lost (R226, Table 12-6).
    failWait w' (if code = 0x1008 ∧ w.start < s.now then 0x1003 else code)
      { s with waits := s.waits.map fun x => if x = w then w' else x }
  | none =>
    if waitMet s w.kind w.idx w.target then meetWait w s
    else
      let v := waitSlot s w.kind w.idx
      { s with waits := s.waits.map fun x => if x = w then { w with lastVal := v } else x }

/-- A local wait begins with a poll (R232). -/
def beginWait (who : Who) (k : WaitKind) (i : Nat) (target : Int) (s : Sled) : Sled :=
  let w : Wait := { who := who, kind := k, idx := i, target := target, start := s.now }
  pollWait w { s with waits := s.waits ++ [w] }

/-- Waits of other parties on objects of a kind that `p` names fail (R226, R239). -/
def failWaits (p : Wait → Bool) (code : Nat) (s : Sled) : Sled :=
  (s.waits.filter p).foldl (fun s w => failWait w code s) s

/-- An administrative action on one object (spec/12, Table 12-4): 1 ALLOC, 2 SETVAL, 3 FREE, 4 CLRLOST. -/
def adminAct (action : Nat) (sem : Bool) (i owner : Nat) (s : Sled) : Sled :=
  let v := bitsOf (rGet s bSYN 8) 0 48
  if action = 1 then
    if sem then setSem i { count := sNat 32 v, owner := owner, valid := true } s
    else setCtr i { value := v, owner := owner, valid := true } s
  else if action = 2 then
    if sem then setSem i { getSem s i with count := sNat 32 v } s
    else setCtr i { getCtr s i with value := v, sat := false } s
  else if action = 3 then
    let s := if sem then setSem i { getSem s i with valid := false } s
      else setCtr i { getCtr s i with valid := false } s
    failWaits (fun w => w.mod = none && w.idx = i && w.kind.obj = b2n sem) 0x1003 s
  else
    if sem then setSem i { getSem s i with lost := false } s
    else setCtr i { getCtr s i with lost := false } s

/-- Force a semaphore to a value and notify (spec/18, R362). -/
def forceSemOp (i : Nat) (v : Int) (s : Sled) : Sled :=
  let c := getSem s i
  let s := setSem i { c with count := v } s
  let resc := rescueObj true i
  let r := { mkRec 0xA006 0 with object := syncObj s 1 i, tenant := if resc then none else some c.owner
                                 arg1 := iNat 32 c.count, arg2 := iNat 32 v }
  let s := logRec r s
  if resc then s
  else (maskList 16 c.mask).foldl (fun s t => vfEvent t 3 s) (vfEvent c.owner 3 s)

end Sys2Proof.Machine
end

