-- ==== Sys2Proof/Machine/Fabric.lean ====
section
/-! DEFINITION. The cavern fabric (spec/16): routes, requests and their answers, forwarding, the effect of
each message at its destination, and rerouting. The meanings of the message commands stand at the end. -/

namespace Sys2Proof.Machine

open Sys2Proof

/-- Link `l`. -/
def getLnk (s : Sled) (l : Nat) : Lnk := fget s.lnk {} l

/-- Change link `l`. -/
def updLnk (l : Nat) (f : Lnk → Lnk) (s : Sled) : Sled :=
  { s with lnk := fset s.lnk {} l (f (getLnk s l)) }

/-- Whether link `l` carries data: ACTIVE, or RECOVER, in which data flits wait (spec/15, R292). -/
def linkLive (s : Sled) (l : Nat) : Bool := (getLnk s l).state = 6 || (getLnk s l).state = 7

/-- VC of a message kind: 0 request, 1 response, 2 sync, 3 management (spec/16, Table 16-4). -/
def vcOfKind (k : Nat) : Nat :=
  if k ∈ [1, 2, 3] then 0 else if k ∈ [6, 7, 8] then 2 else if k = 0xB then 3 else 1

/-- Whether a message may be sent twice (spec/16, Table 16-4): not REDUCE, SIGNAL, nor a SYNC_OP other
than a load. -/
def idempotent (m : Msg) : Bool :=
  m.kind ≠ 3 && m.kind ≠ 6 && !(m.kind = 7 && 2 ≤ bitsOf m.h.arg.toNat 0 4 && bitsOf m.h.arg.toNat 0 4 ≠ 7)

/-- A request or sync message, which R320 orders. -/
def orderedKind (k : Nat) : Bool := k ∈ [1, 2, 3, 6, 7]

/-- Route to a module (spec/16, Table 16-2). -/
structure Route where
  pri : Nat
  rsp : Nat
  alt : Nat
  distP : Nat
  distA : Nat
  pValid : Bool
  aValid : Bool
  narrow : Bool
  deriving DecidableEq, Repr

def routeTo (s : Sled) (n : Nat) : Route :=
  let w := rGet s bMAP (0x800 + 8 * n)
  { pri := bitsOf w 0 4, rsp := bitsOf w 4 4, alt := bitsOf w 8 4, distP := bitsOf w 12 4
    distA := bitsOf w 16 4, pValid := bitAt w 20, aValid := bitAt w 21, narrow := bitAt w 22 }

/-- Nezepol's default entry for module `n` in the gallery topology (R315), of module `id` in a cavern of the galleries that
`present` names. -/
def galleryRoute (present : Nat → Bool) (id n : Nat) : Route :=
  let (g, s) := (id / 16, id % 16)
  let (h, b) := (n / 16, n % 16)
  let mk (pri dp alt da : Nat) (a : Bool) : Route :=
    { pri := pri, rsp := pri, alt := alt, distP := dp, distA := da, pValid := true, aValid := a, narrow := false }
  if h = g then
    let j := (b + 1) % 16
    mk b 1 (if j = s then (b + 2) % 16 else j) 2 true
  else
    let pri := if s = h then s else h
    let dp := (if s = h then 0 else 1) + 1 + (if b = g then 0 else 1)
    if s ≠ g ∧ s ≠ h ∧ present s then mk pri dp s (3 + if b = s then 0 else 1) true
    else
      match ((List.range 15).map fun i => (s + 1 + i) % 16).find? fun j => j ≠ g && j ≠ h && present j with
      | some j => mk pri dp j (4 + if b = j then 0 else 1) true
      | none => mk pri dp 0 0 false

/-- Steps from `id` to `n` in the +1 direction along dimension `d` of the torus, modulo 4. -/
def torusStep (id n d : Nat) : Nat := (bitsOf n (2 * d) 2 + 4 - bitsOf id (2 * d) 2) % 4

/-- Nezepol's default entry in the torus (R315): the lowest dimension first, the shorter way, two steps in the +1 direction.
The rule names no alternate. -/
def torusRoute (id n : Nat) : Route :=
  let dist := ((List.range 4).map fun d => min (torusStep id n d) (4 - torusStep id n d)).sum
  match (List.range 4).find? fun d => torusStep id n d ≠ 0 with
  | some d =>
    let l := 4 * d + if torusStep id n d = 3 then 2 else 0
    { pri := l, rsp := l + 1, alt := 0, distP := dist, distA := 0, pValid := true, aValid := false, narrow := false }
  | none => { pri := 0, rsp := 0, alt := 0, distP := 0, distA := 0, pValid := false, aValid := false, narrow := false }

/-- Put a message into link `l`'s transmit queue of its VC. -/
def pushTx (l : Nat) (m : Msg) (s : Sled) : Sled :=
  let vc := Fin.ofNat 4 (vcOfKind m.kind)
  updLnk l (fun k => { k with tx := k.tx.set vc (k.tx[vc] ++ [m]) }) s

/-- A message with its hop budget. -/
def withHops (m : Msg) (n : Nat) : Msg := { m with h := { m.h with hleft := BitVec.ofNat 4 n } }

/-- Bytes of data a message toward module `n` may carry (spec/16, R317). -/
def msgLimit (s : Sled) (n : Nat) : Nat := if (routeTo s n).narrow then 80 else 208

/-! ## What a failed or answered request does (spec/16, R322) -/

/-- Set x`rd` of a core (SE 0-7, control core 8-11); x0 stays 0. -/
def setX (core rd v : Nat) (s : Sled) : Sled :=
  if rd = 0 then s else { s with cpu := fset s.cpu 0 (core * 32 + rd) (BitVec.ofNat 64 v) }

/-- An exception of the scalar engine of core `c` (spec/10, R208): a handler that Worunson has installed takes it, and the
program goes on there; else the engine stops. -/
def seFault (c cause tval : Nat) (s : Sled) : Sled :=
  let v := fget s.vc {} c
  if v.seHandler then { s with vc := fset s.vc {} c { v with seWait := false } }
  else
  let s := { s with vc := fset s.vc {} c { v with seRun := false, seWait := false } }
  let s := rSet (bLAY c) 0x400 (rGet s (bLAY c) 0x400 ||| 0xC) s
  let s := rSet (bLAY c) 0x408 (cause + tval % 2 ^ 40 * 2 ^ 24) s
  { s with waits := s.waits.filter fun w => !(w.who.kind = 3 && w.who.ix = c && w.who.mod = none) }

/-- Find the descriptor with an identity: its unit and itself. -/
def findDesc (s : Sled) (id : Nat) : Option (Nat × Desc) :=
  (List.range 9).findSome? fun u => ((descs s u).find? fun d => d.id = id).map fun d => (u, d)

/-- Remove a descriptor. -/
def dropDesc (u id : Nat) (s : Sled) : Sled := setDescs u ((descs s u).filter fun d => d.id ≠ id) s

/-- The descriptor that an outstanding request belongs to. -/
def contDesc : Cont → Option Nat
  | .descWrite id => some id
  | .descRead id _ _ => some id
  | .descSignal id _ => some id
  | _ => none

/-- Every request outstanding or held, with its TAG. -/
def allOut (s : Sled) : List (Nat × Outst) := s.fab.out ++ s.fab.held.flatMap (·.2)

/-- Requests of a descriptor still outstanding or held. -/
def descOut (s : Sled) (id : Nat) : Bool :=
  (allOut s).any fun o => contDesc o.2.cont = some id

/-- A read of descriptor `id`. -/
def isRead (id : Nat) (c : Cont) : Bool :=
  match c with
  | .descRead i _ _ => i = id
  | _ => false

/-- Insert a request by its place in issue order. -/
def insOut (o : Nat × Outst) : List (Nat × Outst) → List (Nat × Outst)
  | [] => [o]
  | p :: l => if o.2.seq < p.2.seq then o :: p :: l else p :: insOut o l

/-- The reads of a descriptor that have not yet had their effect, in issue order. -/
def readsOf (s : Sled) (id : Nat) : List (Nat × Outst) :=
  ((allOut s).filter fun o => isRead id o.2.cont).foldl (fun l o => insOut o l) []

/-- A descriptor has reads that have not yet had their effect. -/
def hasReads (s : Sled) (id : Nat) : Bool := !(readsOf s id).isEmpty

/-- Bytes of this sled take their place behind the reads of a descriptor: an entry answered already, under a number that is
no TAG. -/
def queueLocal (id dst : Nat) (l : List (Byte × Bool)) (s : Sled) : Sled :=
  let o : Outst := { dest := moduleId s, msg := { kind := 2, h := { hleft := 0, dest := 0, src := 0, tenant := 0, addr := 0, tag := 0, arg := 0, data := [] } }
                     at_ := s.now, cont := .descRead id dst l.length, buf := [(0, l)], seq := s.seq, whole := true }
  { s with seq := s.seq + 1, fab := { s.fab with out := fput s.fab.out (65536 + s.seq) o } }

/-- Forget every outstanding request of a descriptor. -/
def forgetDesc (id : Nat) (s : Sled) : Sled :=
  { s with fab := { s.fab with
      out := s.fab.out.filter fun o => contDesc o.2.cont ≠ some id
      held := (s.fab.held.map fun h => (h.1, h.2.filter fun o => contDesc o.2.cont ≠ some id)).filter
        fun h => !h.2.isEmpty } }

/-- The object at an offset of a sync store: its kind as `syncRec` numbers it, and its index (spec/12, Table 12-1). -/
def storeObj (off : Nat) : Nat × Nat :=
  if off < 0x40000 then (0, off % 0x20000 / 8)
  else if off < 0x1C0000 then (1, (off - 0x40000) % 0x80000 / 8)
  else if off < 0x1C8000 then (2, (off - 0x1C0000) / 2)
  else (3, (off - 0x1C8000) / 2 % 65536)

/-- Record of a remote sync operation or poll that failed (spec/12, R235, R241). -/
def remoteRec (s : Sled) (code : Nat) (w : Who) (o : Outst) (a1 a2 : Nat) : Rec :=
  let (kind, i) := storeObj (o.msg.h.addr.toNat - 0x8100000000)
  syncRec s o.dest code w kind i a1 a2

/-- Log a remote sync operation that failed, with the increment or addend it carried. -/
def logRemoteSync (code : Nat) (w : Who) (o : Outst) (s : Sled) : Sled :=
  let x := if o.msg.kind = 6 then o.msg.h.arg.toNat else leNat (o.msg.h.data.take 4)
  logRec (remoteRec s code w o x 0) s

/-- A request fails or is refused with a code (spec/16, R322; spec/12, R241). -/
def contFail (code : Nat) (o : Outst) (s : Sled) : Sled :=
  let code' := if o.dest ∈ s.fab.gone then 0x1003 else code
  match o.cont with
  | .descWrite id | .descRead id _ _ =>
    match findDesc s id with
    | some (u, d) =>
      let s := forgetDesc id s
      if u < 8 && d.opc = 3 then descFault u d 0x2006 o.dest s else descFault u d code 0 s
    | none => s
  | .descSignal id w =>
    let s := logRemoteSync code' w o (forgetDesc id s)
    match findDesc s id with
    | some (u, d) => descStop u d s
    | none => s
  | .seLoad c rd _ =>
    let w := whoAgent s (.se (Fin.ofNat 8 c))
    -- a load of another sled's sync store ends as one of this sled's (spec/12, R238); any other access faults (spec/16, R322)
    if o.msg.kind = 7 then
      let (v, s) := loadFail code' (logRemoteSync code' w o s)
      wakeSe w (setX c rd v s)
    else seFault c 5 o.msg.h.addr.toNat (logRec (recWho s code w) s)
  | .seStore c => seFault c 7 o.msg.h.addr.toNat (logRec (recWho s code (whoAgent s (.se (Fin.ofNat 8 c)))) s)
  | .posted w => wakeSe w (logRemoteSync code' w o s)
  | .value w =>
    -- an AMO fails, its bits but bit 63 free (spec/12, R234)
    let s := logRemoteSync code' w o s
    if bitsOf o.msg.h.arg.toNat 0 4 ∈ [0, 1, 7] then
      let (v, s) := loadFail code' s
      returnVal w v s
    else
      let (v, s) := nextFree s
      returnVal w (failed v) s
  | .poll =>
    match s.waits.find? fun w => w.tag = some o.msg.h.tag.toNat with
    | some w =>
      let s := { s with waits := s.waits.filter (· ≠ w) }
      let s := logRec (remoteRec s code' w.who o (iNat 32 w.target) w.lastVal) s
      let s := if code' = 0x1001 then bump bSYN 0x300 s else s
      returnVal w.who (failed w.lastVal) s
    | none => s

/-- Requests to a module that have not been answered. -/
def outTo (s : Sled) (dest : Nat) : List (Nat × Outst) := s.fab.out.filter fun o => o.2.dest = dest && !o.2.whole

/-- Take a request off the outstanding and held ones. -/
def closeTag (tag : Nat) (s : Sled) : Sled :=
  { s with fab := { s.fab with
      out := ferase s.fab.out tag
      held := (s.fab.held.map fun h => (h.1, h.2.filter fun o => o.1 ≠ tag)).filter fun h => !h.2.isEmpty } }

/-- Send an outstanding request on a link with a hop budget. -/
def sendVia (l hops tag : Nat) (o : Outst) (s : Sled) : Sled :=
  pushTx l (withHops o.msg hops) { s with fab := { s.fab with out := fput s.fab.out tag { o with link := l } } }

/-- A request to a module may leave on link `l` now: none to it waits, and every unanswered one went out on this link
(spec/16, R320). -/
def mayLeave (s : Sled) (dest l : Nat) : Bool :=
  (fget s.fab.held [] dest).isEmpty && (outTo s dest).all fun o => o.2.link = l

/-- A request waits behind the earlier ones to its destination (R320). -/
def holdReq (tag : Nat) (o : Outst) (s : Sled) : Sled :=
  { s with fab := { s.fab with held := fput s.fab.held o.dest (fget s.fab.held [] o.dest ++ [(tag, o)]) } }

/-- Send a request on a link, at once or after the earlier ones. -/
def sendOrHold (l hops tag : Nat) (o : Outst) (s : Sled) : Sled :=
  if mayLeave s o.dest l then sendVia l hops tag o s else holdReq tag o s

/-- Move a request to the alternate route (spec/16, R324): at once when no earlier request on another link is unanswered,
else it waits (R320); without an alternate that is ACTIVE it fails. -/
def reroute (tag : Nat) (o : Outst) (s : Sled) : Sled :=
  let r := routeTo s o.dest
  let s := closeTag tag s
  if !(r.aValid && (getLnk s r.alt).state = 6) then contFail 0x5008 o s
  else
    sendOrHold r.alt r.distA tag o { s with fab := { s.fab with
      onAlt := if o.dest ∈ s.fab.onAlt then s.fab.onAlt else s.fab.onAlt ++ [o.dest] } }

/-- Send a request on the route now active for its destination (R319, R324). -/
def sendActive (tag : Nat) (o : Outst) (s : Sled) : Sled :=
  let r := routeTo s o.dest
  if o.dest ∈ s.fab.onAlt then
    if linkLive s r.alt then sendOrHold r.alt r.distA tag o s else contFail 0x5008 o s
  else if linkLive s r.pri then sendOrHold r.pri r.distP tag o s
  else reroute tag o s

/-- A TAG that no outstanding or held request bears (spec/16, Table 16-3). -/
def freshTag (s : Sled) : Nat :=
  let used := s.fab.out.map (·.1) ++ s.fab.held.flatMap fun h => h.2.map (·.1)
  (((List.range (used.length + 1)).map fun i => (s.fab.nextTag + i) % 65536).find? fun t => !used.contains t).getD 0

/-- Issue a request to another module (spec/16, R316, R319-R321, R325). -/
def issue (dest kind tenant addr arg : Nat) (data : List Byte) (pois : Nat) (cont : Cont) (rem : Nat)
    (s : Sled) : Sled :=
  let tag := freshTag s
  let h : MsgIn := { hleft := 0, dest := BitVec.ofNat 8 dest, src := BitVec.ofNat 8 (moduleId s)
                     tenant := Fin.ofNat 16 tenant, addr := BitVec.ofNat 40 addr, tag := BitVec.ofNat 16 tag
                     arg := BitVec.ofNat 40 arg, data := data, pois := BitVec.ofNat 8 pois }
  let o : Outst := { dest := dest, msg := { kind := kind, h := h }, at_ := s.now, cont := cont, rem := rem, seq := s.seq }
  let s := { s with seq := s.seq + 1 }
  if dest ∈ s.fab.gone ∨ !(routeTo s dest).pValid then contFail 0x5008 o s
  else sendActive tag o { s with fab := { s.fab with nextTag := (tag + 1) % 65536 } }

/-- The poison mask of a message's data: bit i for the 32-byte word i from the address's word on. -/
def poisMask (addr : Nat) (part : List (Byte × Bool)) : Nat :=
  (List.range 8).foldl (fun m i =>
    if ((part.drop (32 * i - addr % 32)).take (32 - (if i = 0 then addr % 32 else 0))).any (·.2)
    then m + 2 ^ i else m) 0

/-- Whether the issuer of a request still goes on with what it does: no request of it has failed. -/
def contLive (s : Sled) (c : Cont) : Bool :=
  match c with
  | .seStore k => (fget s.vc {} k).seRun
  | c => match contDesc c with
    | some id => (findDesc s id).isSome
    | none => true

/-- Write bytes to another module as WRITE messages of at most the limit; argument [7:0] is the byte count
(notes/assumptions/20). -/
def issueWrites : Nat → Nat → Nat → Nat → List (Byte × Bool) → Cont → Sled → Sled
  | 0, _, _, _, _, _, s => s
  | fuel + 1, dest, tenant, addr, l, cont, s =>
    if l.isEmpty ∨ !contLive s cont then s else
    let k := min l.length (msgLimit s dest)
    let part := l.take k
    let pois := poisMask addr part
    let s := issue dest 1 tenant addr k (part.map (·.1) ++ List.replicate ((16 - k % 16) % 16) 0) pois cont 0 s
    issueWrites fuel dest tenant (addr + k) (l.drop k) cont s

/-- Read bytes from another module as READ messages of at most 4 KiB whose data go to `dst` (spec/16, R321). -/
def issueReads : Nat → Nat → Nat → Nat → Nat → Nat → Nat → Sled → Sled
  | 0, _, _, _, _, _, _, s => s
  | fuel + 1, dest, tenant, addr, n, dst, id, s =>
    if n = 0 ∨ !contLive s (.descRead id dst n) then s else
    let k := min n 4096
    let s := issue dest 2 tenant addr k [] 0 (.descRead id dst k) k s
    issueReads fuel dest tenant (addr + k) (n - k) (dst + k) id s

/-- Write bytes to a global address for a descriptor: locally at once, or as messages (spec/05, R92). -/
def writeGlobal (id tenant g : Nat) (l : List (Byte × Bool)) (s : Sled) : Sled :=
  if g / 2 ^ 40 = moduleId s then writeLocal (g % 2 ^ 40) l s
  else issueWrites l.length (g / 2 ^ 40) tenant (g % 2 ^ 40) l (.descWrite id) s

/-- A load's value from its bytes: sign- or zero-extended by funct3 (RV64 loads). -/
def loadVal (f3 v : Nat) : Nat :=
  let w := 8 * 2 ^ (f3 % 4)
  if f3 < 4 then iNat 64 (sNat w v) else v % 2 ^ w

/-- ENG_POISON, once per descriptor (spec/10, R196, R200). -/
def logPoison (u id : Nat) (s : Sled) : Sled :=
  match (descs s u).find? fun d => d.id = id with
  | some d =>
    if d.poisonLogged then s
    else
      let s := setDescs u ((descs s u).map fun e => if e.id = id then { e with poisonLogged := true } else e) s
      logRec (recWho s 0xB004 (whoQ s u d.q)) s
  | none => s

/-- Elements of a byte list, each of `w` bytes. -/
def elems : Nat → Nat → List (Byte × Bool) → List (Nat × Bool)
  | 0, _, _ => []
  | fuel + 1, w, l =>
    if l.length < w ∨ w = 0 then [] else
    (leNat ((l.take w).map (·.1)), (l.take w).any (·.2)) :: elems fuel w (l.drop w)

/-- Add elements into memory (spec/16, R323; spec/10, R195, R196): each rounded once; an element whose
source or destination word is poisoned leaves its destination word poisoned. Answers whether poison was
met. -/
def reduceLocal (f : Fmt) (a : Nat) (src : List (Byte × Bool)) (s : Sled) : Bool × Sled :=
  let ((old, _), s) := readLocal a src.length s
  let w := f.bytes
  let sums := ((elems src.length w old).zip (elems src.length w src)).map fun ((x, px), (y, py)) =>
    (encodeF f ((decodeF f x).add (decodeF f y)), px || py)
  let out := sums.flatMap fun (v, p) => (leBytes w v).map fun b => (b, p)
  (sums.any (·.2), writeLocal a out s)

/-- REDUCE messages to another module: whole elements, argument bit 0 the format and [15:8] the byte count
(spec/16, Table 16-4; notes/assumptions/20). -/
def issueReduces : Nat → Fmt → Nat → Nat → Nat → List (Byte × Bool) → Cont → Sled → Sled
  | 0, _, _, _, _, _, _, s => s
  | fuel + 1, f, dest, tenant, addr, l, cont, s =>
    if l.isEmpty ∨ !contLive s cont then s else
    let k := min l.length (msgLimit s dest / f.bytes * f.bytes)
    if k = 0 then s else
    let part := l.take k
    let s := issue dest 3 tenant addr (b2n (f.bytes = 4) + k * 256)
      (part.map (·.1) ++ List.replicate ((16 - k % 16) % 16) 0) (poisMask addr part) cont 0 s
    issueReduces fuel f dest tenant (addr + k) (l.drop k) cont s

/-- Add elements at a global address for a descriptor (spec/10, R195). Poison is logged once per descriptor; of poison at
the destination the acknowledgement tells (notes/assumptions/20). -/
def reduceGlobal (u : Nat) (d : Desc) (g : Nat) (l : List (Byte × Bool)) (s : Sled) : Sled :=
  let f := if d.fmt % 16 = 0 then bf16 else fp32
  if g / 2 ^ 40 = moduleId s then
    let (p, s) := reduceLocal f (g % 2 ^ 40) l s
    if p then logPoison u d.id s else s
  else
    let s := if anyPoison l then logPoison u d.id s else s
    issueReduces l.length f (g / 2 ^ 40) (qTen s u d.q) (g % 2 ^ 40) l (.descWrite d.id) s

/-- Keep bytes that an IMPORT has read at offset `off` of its capsule (spec/14, R285). -/
def keepRead (u : Nat) (d : Desc) (off : Nat) (l : List (Byte × Bool)) (s : Sled) : Sled :=
  let old := d.latched ++ List.replicate (off + l.length - d.latched.length) 0
  let e := { d with
    latched := old.take off ++ l.map (·.1) ++ old.drop (off + l.length)
    lpois := d.lpois ++ (l.zipIdx.filter fun b => b.1.2 && b.2 % 32 = 0).map fun b => (off + b.2) / 32 }
  setDescs u ((descs s u).map fun x => if x.id = d.id then e else x) s

/-- Bytes whose value the spec calls undefined take a free value each; `at_` is the first byte's address. -/
def markUndefined (p : Nat → Bool) (at_ n : Nat) (l : List (Byte × Bool)) : List (Byte × Bool) :=
  l.zipIdx.map fun (b, i) => if p i then (Config.undefinedByte (at_ + i) n, b.2) else b

/-- The bytes of a LAYOUT for destination `dst`, those that R255 leaves undefined free (spec/13). -/
def luMark (d : Desc) (dst : Nat) (l : List (Byte × Bool)) : List (Byte × Bool) :=
  match d.lu with
  | some r => markUndefined (fun i => r.undef.any fun x => x.1 ≤ dst + i && dst + i < x.1 + x.2) dst r.seed l
  | none => l

/-- Bytes that a descriptor has read reach their destination: added, kept by an IMPORT, or written (spec/10, R195, R196;
spec/13, R263; spec/14, R285). Bytes moved are the tenant's progress (spec/12, R242). -/
def landBytes (u : Nat) (d : Desc) (dst : Nat) (l : List (Byte × Bool)) (s : Sled) : Sled :=
  let s := if u < 8 then progress (qTen s u d.q) s else s
  if d.opc = 4 then reduceGlobal u d dst l s
  else if d.opc = 0x63 then keepRead u d dst l s
  else
    let s := writeGlobal d.id (qTen s u d.q) dst (luMark d dst l) s
    if d.opc = 3 && anyPoison l then logPoison u d.id s else s

/-- A request's answer arrives whole: its issuer goes on (spec/16, R321; spec/12, R241). -/
def contDone (o : Outst) (m : MsgIn) (s : Sled) : Sled :=
  match o.cont with
  | .descSignal id _ =>
    match findDesc s id with
    | some (u, _) => dropDesc u id s
    | none => s
  | .descWrite id =>
    match findDesc s id with
    | some (u, d) => if d.opc = 4 && bitAt m.arg.toNat 0 then logPoison u id s else s
    | none => s
  | .descRead id dst _ =>
    match findDesc s id with
    | some (u, d) => landBytes u d dst (o.buf.flatMap (·.2)) s
    | none => s
  | .seLoad c rd f3 =>
    if m.pois ≠ 0 then
      seFault c 5 o.msg.h.addr.toNat (logRec (recWho s 0xB004 (whoAgent s (.se (Fin.ofNat 8 c)))) s)
    else
      let s := setX c rd (loadVal f3 (leNat m.data)) s
      { s with vc := fset s.vc {} c { fget s.vc {} c with seWait := false } }
  | .seStore c => { s with vc := fset s.vc {} c { fget s.vc {} c with seWait := false } }
  | .posted w => wakeSe w s
  | .value w => returnVal w (leNat (m.data.take 8)) s
  | .poll =>
    match s.waits.find? fun w => w.tag = some o.msg.h.tag.toNat with
    | some w =>
      let v := leNat (m.data.take 8)
      let met := match w.kind with
        | .counter => bitAt v 53 || decide (w.target ≤ (v % 2 ^ 48 : Nat))
        | .semWait | .semTake => decide (w.target ≤ sNat 32 v)
      if met then
        let s := { s with waits := s.waits.filter (· ≠ w) }
        returnVal w.who v s
      else { s with waits := s.waits.map fun x => if x = w then { w with tag := none, lastVal := v } else x }
    | none => s

/-- Destination of a read, and its end. -/
def landAt (o : Nat × Outst) : Nat :=
  match o.2.cont with
  | .descRead _ dst _ => dst
  | _ => 0
def landEnd (o : Nat × Outst) : Nat :=
  match o.2.cont with
  | .descRead _ dst n => dst + n
  | _ => 0

/-- The reads at the front of a list that together fill destination words: contiguous ones, up to the end of a word. -/
def landGroup : List (Nat × Outst) → List (Nat × Outst)
  | [] => []
  | [o] => [o]
  | o :: p :: l => if landEnd o % 32 ≠ 0 ∧ landAt p = landEnd o then o :: landGroup (p :: l) else [o]

/-- A LAYOUT has not issued all of its elements. -/
def luOpen (d : Desc) : Bool :=
  match d.lu with
  | some r => !r.fin
  | none => false

/-- Whether what a descriptor has read must still wait: a staged move of another sled's bytes reads all of them first
(spec/13, R254). -/
def landHeld (s : Sled) (u : Nat) (d : Desc) : Bool :=
  u < 8 && (fget s.vc {} u).staging = some d.id && (luOpen d || (readsOf s d.id).any fun o => !o.2.whole)

/-- The reads of a descriptor that have been answered have their effect in issue order (spec/10, R194), those that fill one
destination word together at once (spec/13, R263): `all` where no further one follows. -/
def landOrdered (id : Nat) (all : Bool) : Nat → Sled → Sled
  | 0, s => s
  | fuel + 1, s =>
    match findDesc s id with
    | none => s
    | some (u, d) =>
      let rs := readsOf s id
      let g := if d.opc = 1 ∨ d.opc = 3 then landGroup rs else rs.take 1
      match g with
      | [] => s
      | o :: _ =>
        let last := g.getLastD o
        let more : Bool := !all && luOpen d && g.length = rs.length && landEnd last % 32 ≠ 0
        if (landHeld s u d && !all) || more || g.any fun o => !o.2.whole then s
        else
          let s := g.foldl (fun s o => closeTag o.1 s) s
          landOrdered id all fuel (landBytes u d (landAt o) (g.flatMap fun o => o.2.buf.flatMap (·.2)) s)

/-- A response takes the outstanding request with its TAG, if any and unanswered (spec/16, R317). -/
def answer (m : MsgIn) (s : Sled) : Option Outst := (ffind s.fab.out m.tag.toNat).filter fun o => !o.whole

/-! ## Answers of this sled (spec/16, R321) -/

/-- Answer a message's source on the response route, or on the alternate where that is the live one. -/
def respond (kind : Nat) (m : MsgIn) (arg : Nat) (data : List Byte) (pois : Nat)
    (inner : Option (Nat × MsgIn)) (s : Sled) : Sled :=
  let dest := m.src.toNat
  let r := routeTo s dest
  let h : MsgIn := { hleft := 0, dest := m.src, src := BitVec.ofNat 8 (moduleId s), tenant := m.tenant
                     addr := 0, tag := m.tag, arg := BitVec.ofNat 40 arg, data := data
                     pois := BitVec.ofNat 8 pois }
  let msg : Msg := { kind := kind, h := h, inner := inner }
  if !r.pValid then s
  else if linkLive s r.rsp && !(dest ∈ s.fab.onAlt) then pushTx r.rsp (withHops msg r.distP) s
  else if r.aValid && linkLive s r.alt then pushTx r.alt (withHops msg r.distA) s
  else s

/-- REFUSE with a code. -/
def refuseMsg (code : Nat) (m : MsgIn) (s : Sled) : Sled := respond 9 m code [] 0 none s

/-- Return a message to its source in an UNREACH (spec/16, R316, R319, R324). An UNREACH or LEAVE itself
is not returned. -/
def unreachMsg (possibly : Bool) (kind : Nat) (m : MsgIn) (s : Sled) : Sled :=
  if kind = 0xA ∨ kind = 0xB then s else respond 0xA m (b2n possibly) [] 0 (some (kind, m)) s

/-- A fabric request as requester: kind 9, entering through link `l` (spec/12, Table 12-7). -/
def whoFabric (l : Nat) (m : MsgIn) : Who :=
  { kind := 9, tenant := some m.tenant.val, island := iL l, mod := some m.src.toNat }

/-- READ_DATA messages of a read's bytes: argument [15:0] offset, [31:16] byte count (notes/assumptions/20). -/
def readAnswers : Nat → MsgIn → Nat → List (Byte × Bool) → Sled → Sled
  | 0, _, _, _, s => s
  | fuel + 1, m, off, l, s =>
    if l.isEmpty then s else
    let a := m.addr.toNat + off
    let k := min l.length (msgLimit s m.src.toNat)
    let part := l.take k
    let pois := poisMask a part
    let s := respond 4 m (off + k * 65536) (part.map (·.1) ++ List.replicate ((16 - k % 16) % 16) 0) pois none s
    readAnswers fuel m (off + k) (l.drop k) s

/-- The poison marks of a message's bytes. -/
def msgBytes (m : MsgIn) (n : Nat) : List (Byte × Bool) :=
  (m.data.take n).zipIdx.map fun (b, i) => (b, bitAt m.pois.toNat ((m.addr.toNat % 32 + i) / 32))

/-! ## A sync-store access by its address (spec/12, Table 12-3) -/

/-- Access types of a SYNC_OP, its argument [3:0] (notes/assumptions/20): 0 load 4 B, 1 load 8 B, 2 store 4 B,
3 store 8 B, 4 AMOADD.D, 5 AMOADD.W, 6 AMOSWAP.D, 7 load 2 B, 8 store 2 B. Performs the access for a
requester: the value, or the code it was turned away with (logged). A wait window gets one check, a take
window one attempt. -/
def syncAccess (w : Who) (off acc x : Nat) (s : Sled) : (Nat ⊕ Nat) × Sled :=
  let bad (kind i a1 : Nat) : (Nat ⊕ Nat) × Sled := (.inr 0x1008, logSync 0x1008 w kind i a1 0 s)
  let blocked (sem : Bool) (i : Nat) (k : Sled → (Nat ⊕ Nat) × Sled) : (Nat ⊕ Nat) × Sled :=
    match objCheck s w sem i with
    | some code => (.inr code, logSync code w (b2n sem) i x 0 s)
    | none => k s
  if off < 0x20000 then
    let i := off / 8
    if acc = 0 then blocked false i fun s => (.inl (ctrSlot (getCtr s i) / 2 ^ (8 * (off % 8)) % 2 ^ 32), s)
    else if acc = 1 then blocked false i fun s => (.inl (ctrSlot (getCtr s i)), s)
    else if acc = 2 ∨ acc = 3 ∨ acc = 4 then
      let slot := ctrSlot (getCtr s i)
      match ctrSignal w i (if acc = 2 then x % 2 ^ 32 else x) s with
      | (none, s) => (.inl slot, s)
      | (some c, s) => (.inr c, s)
    else bad 0 i x
  else if off < 0x40000 then
    let i := (off - 0x20000) / 8
    if acc = 6 ∧ x < 2 ^ 48 then blocked false i fun s => (.inl (ctrSlot (getCtr s i)), s)
    else bad 0 i x
  else if off < 0xC0000 then
    let i := (off - 0x40000) / 8
    if acc = 0 then blocked true i fun s => (.inl (semSlot (getSem s i) / 2 ^ (8 * (off % 8)) % 2 ^ 32), s)
    else if acc = 1 then blocked true i fun s => (.inl (semSlot (getSem s i)), s)
    else if acc = 2 ∨ acc = 5 ∨ (acc = 3 ∧ semOperandOk x) then
      let before := iNat 32 (getSem s i).count
      match semAdd w i (sNat 32 x) s with
      | (none, s) => (.inl before, s)
      | (some c, s) => (.inr c, s)
    else bad 1 i x
  else if off < 0x140000 then
    let i := (off - 0xC0000) / 8
    if acc = 6 ∧ semOperandOk x then blocked true i fun s => (.inl (semSlot (getSem s i)), s)
    else bad 1 i x
  else if off < 0x1C0000 then
    let i := (off - 0x140000) / 8
    if acc = 6 ∧ 1 ≤ x ∧ x ≤ 0x7FFFFFFF then
      blocked true i fun s =>
        let c := getSem s i
        (.inl (iNat 32 c.count), if (x : Int) ≤ c.count then takeSem .semTake i x s else s)
    else bad 1 i x
  else if off < 0x1E8000 then
    let sem := 0x1C8000 ≤ off
    let i := if sem then (off - 0x1C8000) / 2 else (off - 0x1C0000) / 2
    if acc = 7 then
      match objCheck s w sem i with
      | some code => (.inr code, logSync code w (2 + b2n sem) i 0 0 s)
      | none => (.inl (if sem then (getSem s i).mask else (getCtr s i).mask), s)
    else if acc = 8 ∧ w.tenant = none then
      (.inl 0, if sem then setSem i { getSem s i with mask := x % 65536 } s
        else setCtr i { getCtr s i with mask := x % 65536 } s)
    else (.inr 0x1008, logSync 0x1008 w (2 + b2n sem) i x 0 s)
  else (.inl 0, logUnmapped w (0x8100000000 + off) iNOC s)

/-! ## Forwarding and receiving (spec/16, R318-R319) -/

/-- A forwarder's part (R316, R319): the hop budget falls, and the message goes on the primary of its
destination, or back to its source. -/
def forward (l kind : Nat) (m : MsgIn) (inner : Option (Nat × MsgIn)) (s : Sled) : Sled :=
  let r := routeTo s m.dest.toNat
  let bad (s : Sled) : Sled := unreachMsg false kind m (logRec { mkRec 0x500A (iL l) with
    object := l + (getLnk s l).peer * 256, tenant := some m.tenant.val } s)
  if !r.pValid then bad s
  else if m.hleft.toNat - 1 < r.distP then bad s
  else
    let out := if vcOfKind kind = 1 ∨ vcOfKind kind = 3 then r.rsp else r.pri
    if linkLive s out then
      pushTx out { kind := kind, h := { m with hleft := m.hleft - 1 }, inner := inner } s
    else unreachMsg false kind m s

/-- A message has arrived on link `l`: its source is present (R325); it is forwarded, or `f` acts. -/
def arrive (l : LinkId) (kind : Nat) (m : MsgIn) (f : Sled → Sled) (s : Sled) : Sled :=
  if !linkLive s l.val then s else
  let s := { s with fab := { s.fab with gone := s.fab.gone.filter (· ≠ m.src.toNat) } }
  if m.dest.toNat = moduleId s then f s else forward l.val kind m none s

/-- The carried tenant may reach [addr, addr + n) as data (R321). -/
def fabReach (s : Sled) (m : MsgIn) (n : Nat) : Bool :=
  tenantReach s m.tenant.val m.addr.toNat n && allMapped s m.addr.toNat n

/-- WRITE at its destination. -/
def fxFabWriteHere (m : MsgIn) (s : Sled) : Sled :=
  let n := if bitsOf m.arg.toNat 0 8 = 0 then m.data.length else min m.data.length (bitsOf m.arg.toNat 0 8)
  if fabReach s m n then
    let s := writeLocal m.addr.toNat (msgBytes m n) s
    let s := if m.addr.toNat < 2 ^ 39 then progress m.tenant.val s else s
    respond 5 m 0 [] 0 none s
  else refuseMsg 0x500B m s

/-- WRITE (R321). -/
def fxFabWrite (l : LinkId) (m : MsgIn) (s : Sled) : Sled := arrive l 1 m (fxFabWriteHere m) s

/-- READ of up to 4 KiB (R321). -/
def fxFabRead (l : LinkId) (m : MsgIn) (s : Sled) : Sled :=
  arrive l 2 m (fun s =>
    let n := m.arg.toNat
    if 1 ≤ n ∧ n ≤ 4096 ∧ fabReach s m n then
      let ((d, _), s) := readLocal m.addr.toNat n s
      readAnswers n m 0 d s
    else refuseMsg 0x500B m s) s

/-- REDUCE (R323): elements are added at the receiving link island. Poison is for the source to log, once per descriptor
(spec/10, R196): argument bit 0 of the acknowledgement tells of it (notes/assumptions/20). -/
def fxFabricReduce (l : LinkId) (m : MsgIn) (s : Sled) : Sled :=
  arrive l 3 m (fun s =>
    let f := if bitAt m.arg.toNat 0 then fp32 else bf16
    let cnt := bitsOf m.arg.toNat 8 8
    let n := if cnt = 0 then m.data.length else min m.data.length cnt
    if fabReach s m n ∧ m.addr.toNat % f.bytes = 0 ∧ n % f.bytes = 0 then
      let (p, s) := reduceLocal f m.addr.toNat (msgBytes m n) s
      let s := if m.addr.toNat < 2 ^ 39 then progress m.tenant.val s else s
      respond 5 m (b2n p) [] 0 none s
    else refuseMsg 0x500B m s) s

/-- A message to a module is acknowledged; on the primary route that resets the wait before a return to it (R324). -/
def ackPrimary (dest : Nat) (s : Sled) : Sled :=
  if dest ∈ s.fab.onAlt then s else { s with fab := { s.fab with backoff := ferase s.fab.backoff dest } }

/-- READ_DATA (R317, R321): its bytes reach the requester; the last of them completes the read. -/
def fxReadData (l : LinkId) (m : MsgIn) (s : Sled) : Sled :=
  arrive l 4 m (fun s =>
    match answer m s with
    | none => s
    | some o =>
      let off := bitsOf m.arg.toNat 0 16
      let n := min (bitsOf m.arg.toNat 16 16) m.data.length
      let l := msgBytes { m with addr := o.msg.h.addr + BitVec.ofNat 40 off } n
      let tag := m.tag.toNat
      let s := ackPrimary o.dest s
      let put (o : Outst) : Sled := { s with fab := { s.fab with out := fput s.fab.out tag o } }
      let fresh := (ffind o.buf off).isNone
      let o := { o with rem := if fresh then o.rem - n else o.rem, buf := fput o.buf off l }
      if 0 < o.rem then put o
      else match o.cont with
        | .descRead id _ _ => landOrdered id false ((allOut s).length + 1) (put { o with whole := true })
        | _ => contDone o m (closeTag tag s)) s

/-- WRITE_ACK (R321). -/
def fxWriteAck (l : LinkId) (m : MsgIn) (s : Sled) : Sled :=
  arrive l 5 m (fun s =>
    match answer m s with
    | none => s
    | some o => contDone o m (closeTag m.tag.toNat (ackPrimary o.dest s))) s

/-- SIGNAL: the counter at the slot address; the increment in argument [31:0] (R241; notes/assumptions/20). -/
def fxFabSignal (l : LinkId) (m : MsgIn) (s : Sled) : Sled :=
  arrive l 6 m (fun s =>
    let off := m.addr.toNat - 0x8100000000
    if 0x8100000000 ≤ m.addr.toNat ∧ off < 0x20000 ∧ off % 8 = 0 then
      match ctrSignal (whoFabric l.val m) (off / 8) (m.arg.toNat % 2 ^ 32) s with
      | (none, s) => respond 8 m 0 [] 0 none s
      | (some code, s) => refuseMsg code m s
    else refuseMsg 0x500B m s) s

/-- SYNC_OP: any other access of spec/12, Table 12-3 (R241). -/
def fxSyncOp (l : LinkId) (m : MsgIn) (s : Sled) : Sled :=
  arrive l 7 m (fun s =>
    if 0x8100000000 ≤ m.addr.toNat ∧ m.addr.toNat < 0x8100200000 then
      match syncAccess (whoFabric l.val m) (m.addr.toNat - 0x8100000000) (bitsOf m.arg.toNat 0 4)
          (leNat (m.data.take 8)) s with
      | (.inl v, s) => respond 8 m 0 (leBytes 16 v) 0 none s
      | (.inr code, s) => refuseMsg code m s
    else refuseMsg 0x500B m s) s

/-- SYNC_RESP (R241). -/
def fxSyncResp (l : LinkId) (m : MsgIn) (s : Sled) : Sled :=
  arrive l 8 m (fun s =>
    match answer m s with
    | none => s
    | some o => contDone o m (closeTag m.tag.toNat (ackPrimary o.dest s))) s

/-- REFUSE: the request fails with the carried code (R322). -/
def fxRefuse (l : LinkId) (m : MsgIn) (s : Sled) : Sled :=
  arrive l 9 m (fun s =>
    match answer m s with
    | none => s
    | some o => contFail (bitsOf m.arg.toNat 0 16) o (closeTag m.tag.toNat (ackPrimary o.dest s))) s

/-- UNREACH (R324): the source resends the returned message on its alternate, or fails it. -/
def fxUnreach (l : LinkId) (m : MsgIn) (kind : Nat) (inner : MsgIn) (s : Sled) : Sled :=
  if !linkLive s l.val then s else
  let s := { s with fab := { s.fab with gone := s.fab.gone.filter (· ≠ m.src.toNat) } }
  if m.dest.toNat ≠ moduleId s then forward l.val 0xA m (some (kind, inner)) s
  else
    let dest := inner.dest.toNat
    let r := routeTo s dest
    -- a response of this sled: resent on the alternate, as a response is idempotent
    if kind ∈ [4, 5, 8, 9] then
      if r.aValid && (getLnk s r.alt).state = 6 then
        pushTx r.alt (withHops { kind := kind, h := inner } r.distA) s
      else s
    else match ffind s.fab.out inner.tag.toNat with
      | none => s
      | some o =>
        if bitAt m.arg.toNat 0 && !idempotent o.msg then
          contFail 0x5009 o (closeTag inner.tag.toNat s)
        else
          -- the return to a primary that stayed ACTIVE is tried again after 1 ms, doubling to 100 ms
          let back := fget s.fab.backoff 0 dest
          let s := if dest ∈ s.fab.onAlt then s
            else { s with fab := { s.fab with
              backoff := fput s.fab.backoff dest (if back = 0 then 1000 else min 100000 (2 * back)) } }
          reroute inner.tag.toNat o s

/-- Module `n` is declared gone (R325, R60): logged; pending remote waits fail as lost, and other requests
to it as undeliverable. -/
def moduleGone (isl n : Nat) (s : Sled) : Sled :=
  if n ∈ s.fab.gone then s else
  let s := logRec { mkRec 0x500C isl with object := n * 256, arg1 := n } s
  let s := { s with fab := { s.fab with gone := s.fab.gone ++ [n] } }
  let outs := outTo s n ++ fget s.fab.held [] n
  let s := { s with fab := { s.fab with out := s.fab.out.filter fun o => o.2.dest ≠ n || o.2.whole
                                        held := ferase s.fab.held n } }
  let s := outs.foldl (fun s o => contFail 0x5008 o.2 s) s
  (s.waits.filter fun w => w.mod = some n).foldl (fun s w =>
    let s := { s with waits := s.waits.filter (· ≠ w) }
    let s := logRec (syncRec s n 0x1003 w.who w.kind.obj w.idx (iNat 32 w.target) w.lastVal) s
    returnVal w.who (failed w.lastVal) s) s

/-- LEAVE (R325). -/
def fxLeave (l : LinkId) (m : MsgIn) (s : Sled) : Sled :=
  arrive l 0xB m (fun s => moduleGone (iL l.val) m.src.toNat s) s

/-- A message of a reserved KIND (R318): logged, and refused where it came as a request or sync message. -/
def fxReservedKindMessage (l : LinkId) (kind : Nat) (vc : Fin 4) (m : MsgIn) (s : Sled) : Sled :=
  if !linkLive s l.val ∨ !(kind = 0 ∨ 0xC ≤ kind) then s else
  let s := { s with fab := { s.fab with gone := s.fab.gone.filter (· ≠ m.src.toNat) } }
  let s := logLimited ms l.val { mkRec 0x5006 (iL l.val) with
    object := l.val + (getLnk s l.val).peer * 256 } s
  if vc.val = 0 ∨ vc.val = 2 then refuseMsg 0x500B m s else s

/-- One message that leaves a link's receive buffer for the NOC (spec/15, R300, R305). -/
def deliver (l : LinkId) (vc : Fin 4) (m : Msg) (s : Sled) : Sled :=
  match m.kind with
  | 1 => fxFabWrite l m.h s
  | 2 => fxFabRead l m.h s
  | 3 => fxFabricReduce l m.h s
  | 4 => fxReadData l m.h s
  | 5 => fxWriteAck l m.h s
  | 6 => fxFabSignal l m.h s
  | 7 => fxSyncOp l m.h s
  | 8 => fxSyncResp l m.h s
  | 9 => fxRefuse l m.h s
  | 10 => match m.inner with
    | some (k, h) => fxUnreach l m.h k h s
    | none => s
  | 11 => fxLeave l m.h s
  | k => fxReservedKindMessage l k vc m.h s

/-- A message that a link returned when it went DOWN (R324): resent by its source if idempotent, else
failed as possibly delivered; a forwarder returns it to its source. -/
def linkReturned (m : Msg) (s : Sled) : Sled :=
  if m.h.src.toNat ≠ moduleId s then unreachMsg true m.kind m.h s
  else if orderedKind m.kind then
    match ffind s.fab.out m.h.tag.toNat with
    | none => s
    | some o =>
      if idempotent m then reroute m.h.tag.toNat o s else contFail 0x5009 o (closeTag m.h.tag.toNat s)
  else
    let r := routeTo s m.h.dest.toNat
    if r.aValid && (getLnk s r.alt).state = 6 then pushTx r.alt (withHops m r.distA) s else s

/-- A message not yet sent on a link that went DOWN: its source resends it; a forwarder returns it, not
marked possibly delivered (R324). -/
def linkUnsent (m : Msg) (s : Sled) : Sled :=
  if m.h.src.toNat ≠ moduleId s then unreachMsg false m.kind m.h s
  else if orderedKind m.kind then
    match ffind s.fab.out m.h.tag.toNat with
    | none => s
    | some o => reroute m.h.tag.toNat o s
  else
    let r := routeTo s m.h.dest.toNat
    if r.aValid && (getLnk s r.alt).state = 6 then pushTx r.alt (withHops m r.distA) s else s

/-- A request unanswered for 10 ms fails (R322). -/
def fxFabricRequestTimeout (tag : BitVec 16) (s : Sled) : Sled :=
  match ffind s.fab.out tag.toNat with
  | some o => if o.whole then s else contFail (if idempotent o.msg then 0x5008 else 0x5009) o (closeTag tag.toNat s)
  | none =>
    match (s.fab.held.flatMap (·.2)).find? fun o => o.1 = tag.toNat with
    | some o => contFail (if idempotent o.2.msg then 0x5008 else 0x5009) o.2 (closeTag tag.toNat s)
    | none => s

/-- Once every earlier request to module `n` is answered, the messages held for it leave on the link now
active for it (R320). -/
def fxRouteChangeSend (n : BitVec 8) (s : Sled) : Sled :=
  let h := fget s.fab.held [] n.toNat
  if h.isEmpty ∨ !(outTo s n.toNat).isEmpty then s else
  h.foldl (fun s o => sendActive o.1 o.2 s) { s with fab := { s.fab with held := ferase s.fab.held n.toNat } }

/-- The source returns to its primary link to module `n` (R324). -/
def fxRouteReturnTimer (n : BitVec 8) (s : Sled) : Sled :=
  if n.toNat ∈ s.fab.onAlt ∧ (getLnk s (routeTo s n.toNat).pri).state = 6 then
    { s with fab := { s.fab with onAlt := s.fab.onAlt.filter (· ≠ n.toNat) } }
  else s

/-- For 100 ms no message to module `n` was delivered by either route (R325). -/
def fxModuleGoneTimeout (n : BitVec 8) (s : Sled) : Sled :=
  if n.toNat = moduleId s ∨ !(routeTo s n.toNat).pValid then s
  else moduleGone (iL (routeTo s n.toNat).pri) n.toNat s

/-! ## The meanings -/

def execFabWrite (l : LinkId) (m : MsgIn) (s : State) := liftHold (fxFabWrite l m) s
def execFabRead (l : LinkId) (m : MsgIn) (s : State) := liftHold (fxFabRead l m) s
def execFabricReduce (l : LinkId) (m : MsgIn) (s : State) := liftHold (fxFabricReduce l m) s
def execReadData (l : LinkId) (m : MsgIn) (s : State) := liftHold (fxReadData l m) s
def execWriteAck (l : LinkId) (m : MsgIn) (s : State) := liftHold (fxWriteAck l m) s
def execFabSignal (l : LinkId) (m : MsgIn) (s : State) := lift (fxFabSignal l m) s
def execSyncOp (l : LinkId) (m : MsgIn) (s : State) := lift (fxSyncOp l m) s
def execSyncResp (l : LinkId) (m : MsgIn) (s : State) := liftHold (fxSyncResp l m) s
def execRefuse (l : LinkId) (m : MsgIn) (s : State) := lift (fxRefuse l m) s
def execUnreach (l : LinkId) (m : MsgIn) (kind : BitVec 4) (inner : MsgIn) (s : State) :=
  lift (fxUnreach l m kind.toNat inner) s
def execLeave (l : LinkId) (m : MsgIn) (s : State) := lift (fxLeave l m) s
def execReservedKindMessage (l : LinkId) (kind : BitVec 4) (vc : Fin 4) (m : MsgIn) (s : State) :=
  lift (fxReservedKindMessage l kind.toNat vc m) s
def execFabricRequestTimeout (tag : BitVec 16) (s : State) := lift (fxFabricRequestTimeout tag) s
def execRouteChangeSend (m : BitVec 8) (s : State) := lift (fxRouteChangeSend m) s
def execRouteReturnTimer (m : BitVec 8) (s : State) := lift (fxRouteReturnTimer m) s
def execModuleGoneTimeout (m : BitVec 8) (s : State) := lift (fxModuleGoneTimeout m) s

end Sys2Proof.Machine
end

