-- ==== Sys2Proof/Machine/Agents.lean ====
section
/-! DEFINITION. The agents that issue accesses: when one can act, and what it reaches in register space
(spec/11 R221; spec/21 R405, R410). -/

namespace Sys2Proof.Machine

open Sys2Proof

/-- Whether a control core has an access outstanding, sent or held for a change of route (spec/11, R219, R221): it issues no
later one. -/
def ccBusy (s : Sled) (i : Nat) : Bool :=
  s.waits.any (fun w => w.who.kind = 4 && w.who.ix = i && w.who.mod = none) ||
  (allOut s).any (fun o => match o.2.cont with
    | .posted w => w.kind = 4 && w.ix = i
    | .value w => w.kind = 4 && w.ix = i
    | _ => false)

/-- Whether an agent can issue an access now: it runs and waits for none (spec/11, R221); a function of the host only
in compute service, a VF only for an enabled tenant (spec/17, R328, R330). -/
def canAct (s : Sled) : Agent → Bool
  | .cc i => islRuns s iCTL && s.ccRunning.getLsbD i.val && !ccBusy s i.val
  | .keeper => s.kpr.phase = .running
  | .se v => islRuns s (iVC v.val) && (fget s.vc {} v.val).seRun && !(fget s.vc {} v.val).seWait
  | .vf k => islRuns s iHST && s.hst.up && !s.hst.retry && s.kpr.tier = 2 && bitAt s.hst.vfEn k.val &&
      (tenantCfg s k.val).any (·.enabled)
  | .pf => islRuns s iHST && s.hst.up

/-- The agents that reach the sync store: all but PF 0, which has no tenant window on it. -/
def canSync (s : Sled) (a : Agent) : Bool :=
  canAct s a && (match a with
    | .pf => false
    | _ => true)

/-- Only a scalar engine or a control core accesses another sled's sync store (R241). -/
def canRemote : Agent → Bool
  | .cc _ | .se _ => true
  | _ => false

/-- Mark a scalar engine as waiting for its access. -/
def stallSe (w : Who) (s : Sled) : Sled :=
  if w.kind = 3 then { s with vc := fset s.vc {} w.ix { fget s.vc {} w.ix with seWait := true } } else s

/-- The island of a register block (spec/03, Table 3-7), none for an index absent from Table 21-1. -/
def blkIsland (blk : Nat) : Option Nat :=
  if blk = bGLB ∨ blk = bISL ∨ blk = bTHM ∨ blk = bKPR then some 0
  else if blk = bMAP ∨ blk = bSYN then some iNOC
  else if 0x010 ≤ blk ∧ blk ≤ 0x018 then some (iMC (blk - 0x010))
  else if 0x020 ≤ blk ∧ blk ≤ 0x028 then some (iMC (blk - 0x020))
  else if 0x040 ≤ blk ∧ blk ≤ 0x047 then some (iVC (blk - 0x040))
  else if blk = bSTE then some iSTE
  else if 0x060 ≤ blk ∧ blk ≤ 0x06F then some (iL (blk - 0x060))
  else if blk = bHST then some iHST
  else none

/-- Whether an agent reaches a register block (spec/21, R405). -/
def blkReach (a : Agent) (blk : Nat) : Bool :=
  match a with
  | .cc _ | .keeper => true
  | .se v => blk = bLAY v.val
  | .vf _ | .pf => false

/-- Local address of a register. -/
def regAddr (blk off : Nat) : Nat := 0xF000000000 + regKey blk off

/-- The island that owns a register lets accesses at it: it runs, and a link's island follows R71 while EN of its LNK_CTL is
0, but for LNK_CTL itself, the one way to set EN (spec/15, R291; notes/assumptions/36). -/
def regOpen (s : Sled) (blk off : Nat) : Bool :=
  match blkIsland blk with
  | some i => islRuns s i && !(0x060 ≤ blk && blk ≤ 0x06F && off / 8 ≠ 0 && rField s blk 0 0 1 = 0)
  | none => false

/-- An access to an unmapped register address is logged from the island that owns it where that island
runs, else from NOC (spec/21, R410). -/
def unmappedReg (a : Agent) (blk off : Nat) (s : Sled) : Sled :=
  let isl := match blkIsland blk with
    | some i => if regOpen s blk off then i else iNOC
    | none => iNOC
  logUnmapped (whoAgent s a) (regAddr blk off) isl s

/-- The registers of an MC island whose clock stands, in a speed change of its stack: accesses wait at the crossing into it
(spec/07, R136, R140). -/
def crossHeld (s : Sled) (blk : Nat) : Bool :=
  let waits (st : Nat) : Bool := match (fget s.mcs {} st).speed with
    | some v => v.phase = 1
    | none => false
  (0x010 ≤ blk && blk ≤ 0x018 && waits (blk - 0x010)) || (0x020 ≤ blk && blk ≤ 0x028 && waits (blk - 0x020))

/-- A register access by an agent: `f` acts where the agent can act, reaches the block, and its island runs;
else the access is one to an unmapped address (spec/21, R405, R410; spec/03, R71). It waits while the island's clock
stands. -/
def regAccess (a : Agent) (blk off : Nat) (f : Sled → Sled) (s : Sled) : Sled :=
  if !canAct s a then s
  else if blkReach a blk && regOpen s blk off then (if crossHeld s blk then setStall s else f s)
  else unmappedReg a blk off s

end Sys2Proof.Machine
end

