-- ==== Sys2Proof/Machine/Transcend.lean ====
section
/-! DEFINITION. The transcendental operations of the vector engine (spec/10, R201, Table 10-9): the exact results in
fixed point to 2^-256, and the error that the spec allows around them. -/

namespace Sys2Proof.Machine

open Sys2Proof

/-- Fraction bits of the fixed-point values below: they err by far less than any ulp of FP32. -/
def fxBits : Nat := 256

/-- 1 and ln 2 in fixed point, and 2√(2 ÷ π). -/
def fxOne : Int := 2 ^ fxBits
def fxLn2 : Int := 80260960185991308862233904206310070533990667611589946606122867505419956976171
def fxGeluC : Int := 184777440531124450200008084702946902002096553526136051377145485731653605029050

/-- Product in fixed point. -/
def fxMul (a b : Int) : Int := a * b / fxOne

/-- A finite FP32 value in fixed point, exactly. -/
def fxOf (neg : Bool) (m : Nat) (e : Int) : Int := scaled neg m e (-(fxBits : Int))

/-- e^r for 0 ≤ r < ln 2: its series, from the term `n` down. -/
def fxSeries (r : Int) : Nat → Int
  | 0 => fxOne
  | n + 1 => fxOne + go (n + 1) 1 r
where
  /-- Terms k, k + 1, …: `t` is the term k. -/
  go : Nat → Int → Int → Int
    | 0, _, _ => 0
    | f + 1, k, t => t + go f (k + 1) (fxMul t r / (k + 1))

/-- e^y: a value of [1, 2) in fixed point, and the power of two that multiplies it. -/
def fxExp (y : Int) : Int × Int := (fxSeries (y % fxLn2) 60, y / fxLn2)

/-- e^y as a value; beyond any FP32 value the nearest of these bounds stands for it. -/
def expV (y : Int) : FVal :=
  if 256 * fxOne < y then .fin false 1 512
  else if y < -(256 * fxOne) then .fin false 1 (-512)
  else
    let (m, k) := fxExp y
    .fin false m.natAbs (k - fxBits)

/-- 1 ÷ (1 + e^-y). -/
def sigmoidV (y : Int) : FVal :=
  if y < -(512 * fxOne) then .fin false 1 (-700)
  else if 512 * fxOne < y then .fin false 1 0
  else
    let (m, k) := fxExp (-(y.natAbs : Int))
    let t := m / 2 ^ (-k).toNat
    if 0 ≤ y then .fin false (fxOne * fxOne / (fxOne + t)).natAbs (-(fxBits : Int))
    else .fin false (m * fxOne / (fxOne + t)).natAbs (k - fxBits)

/-- tanh of a value that is not negative. -/
def tanhV (neg : Bool) (y : Int) : FVal :=
  if 64 * fxOne < y then .fin neg 1 0
  else
    let (m, k) := fxExp (2 * y)
    let t := m * 2 ^ k.toNat
    .fin neg ((t - fxOne) * fxOne / (t + fxOne)).natAbs (-(fxBits : Int))

/-- The whole part of √n, bit by bit from 2^(f-1) down. -/
def isqrt (n : Nat) : Nat → Nat → Nat
  | 0, r => r
  | f + 1, r => isqrt n f (if (r + 2 ^ f) * (r + 2 ^ f) ≤ n then r + 2 ^ f else r)

/-- 1 ÷ √(m × 2^e). -/
def rsqrtV (m : Nat) (e : Int) : FVal :=
  let (m, e) := if e % 2 = 0 then (m, e) else (2 * m, e - 1)
  .fin false (isqrt (2 ^ (2 * fxBits) / m) (fxBits + 1) 0) (-(e / 2) - fxBits)

/-- The result of an operation of the transcendental class on a finite value, none where it is no number: the reciprocal
of 0, and the reciprocal root of a value that is not positive. GELU is the tanh form. -/
def transExact (op : Nat) (neg : Bool) (m : Nat) (e : Int) : Option FVal :=
  let x := fxOf neg m e
  let v : FVal := .fin neg m e
  if op = 0x10 then some (expV x)
  else if op = 0x11 then if m = 0 then none else some (.fin neg (2 ^ (2 * fxBits) / m) (-e - 2 * fxBits))
  else if op = 0x12 then if m = 0 ∨ neg then none else some (rsqrtV m e)
  else if op = 0x13 then some (tanhV neg (x.natAbs : Int))
  else if op = 0x14 then some (sigmoidV x)
  else if op = 0x15 then some (v.mul (sigmoidV x))
  else
    let y := if 64 * fxOne < (x.natAbs : Int) then 64 * x
      else fxMul fxGeluC (x + fxMul (fxMul x x) x * 44715 / 1000000)
    some (v.mul (sigmoidV y))

/-- `c` lies within `b` ulp of FP32 of the finite value `r`. -/
def withinUlp (b : Nat) (r c : FVal) : Bool :=
  match r, c.sub r with
  | .fin _ m e, .fin _ d g =>
    let q : Int := max (e + Nat.log2 m) (-126) - 23
    let l := min g q
    decide (d * 2 ^ (g - l).toNat ≤ b * 2 ^ (q - l).toNat)
  | _, _ => false

/-- Ulps of FP32 that an operation may err by (Table 10-9). -/
def transBound (op : Nat) : Nat := if op ≤ 0x12 then 2 else 4

/-- The FP32 result of a transcendental operation: a free value within the allowed error of the exact result. Where the
free value lies outside it, the exact result rounded stands in its place, so that every result allowed is a result of the
model and none other. On an operand without a stated result (an infinity, the reciprocal of 0, the reciprocal root of a
value that is not positive) the free value is not bounded; a NaN gives NaN (spec/01, R442; notes/assumptions/11). -/
def transcend (op : Nat) (a : FVal) : FVal :=
  let c := decodeF fp32 (Config.transcendental op (BitVec.ofNat 32 (encodeF fp32 a))).toNat
  match a with
  | .nan => .nan
  | .inf _ => c
  | .fin neg m e =>
    match transExact op neg m e with
    | none => c
    | some r => if withinUlp (transBound op) r c then c else roundF fp32 r

end Sys2Proof.Machine
end

