-- ==== Sys2Proof/Machine/Engines.lean ====
section
/-! DEFINITION. The DMA, matrix and vector engines of a vault core (spec/10): the checks of a descriptor, and
what each operation writes. -/

namespace Sys2Proof.Machine

open Sys2Proof

/-! ## Checks at fetch (R190) -/

/-- Bytes [lo, lo + len) of a descriptor are 0. -/
def zeroAt (d : Desc) (lo len : Nat) : Bool := dField d lo len = 0

/-- The common header's reserved fields and limits (Table 10-2). SIG_MOD is 0 unless SIG_REMOTE is 1; SIG_INC
is an increment where SIG_EN is 1 (notes/assumptions/21). `fl` masks the operation's own flags [7:4]. -/
def headerOk (d : Desc) (fl : Nat) : Bool :=
  (d.flags / 16) &&& (15 - fl) = 0 &&
  bitsOf (dField d 4 2) 14 2 = 0 && bitsOf (dField d 6 2) 14 2 = 0 && bitsOf (dField d 8 8) 48 16 = 0 &&
  zeroAt d 0x12 6 && (bitAt d.flags 3 || dField d 3 1 = 0) && (!bitAt d.flags 2 || dField d 0x10 2 ≠ 0)

/-- Operations that the engine of queue `q` of a vault core serves (Table 10-3). -/
def vcOps (q : Nat) : List Nat :=
  if q < 16 then [0x01, 0x02, 0x03, 0x04, 0x0F] else if q < 20 then [0x20, 0x0F] else [0x40, 0x0F]

/-- LEN and ROWS of a DMA descriptor (R194). -/
def dmaLimits (d : Desc) : Bool :=
  1 ≤ dField d 0x28 4 && 1 ≤ dField d 0x2C 4 && dField d 0x2C 4 ≤ 1048576 && dField d 0x20 8 < 2 ^ 48

/-- Bits of an element of a GEMM format; 0 for no format (R197). -/
def gemmBits (c : Nat) : Nat :=
  if c = 0 then 16 else if c = 1 ∨ c = 2 ∨ c = 5 then 8 else if c = 6 then 4 else 0

/-- Bytes of an element of a VOP format; 0 for no format (R201). -/
def vopBytes (c : Nat) : Nat :=
  if c = 0 ∨ c = 3 then 2 else if c = 1 ∨ c = 2 ∨ c = 5 then 1 else if c = 4 ∨ c = 7 then 4 else 0

/-- Operations of Table 10-9. -/
def vopCodes : List Nat :=
  [0x01, 0x02, 0x03, 0x04, 0x05, 0x06, 0x07, 0x10, 0x11, 0x12, 0x13, 0x14, 0x15, 0x16, 0x20, 0x21, 0x30, 0x31, 0x32]

/-- Limits of a GEMM (Table 10-7). -/
def gemmLimits (d : Desc) : Bool :=
  let m := dField d 0x2C 2
  let n := dField d 0x2E 2
  let k := dField d 0x30 4
  let mx := d.fmt % 16 = 6 || d.fmt / 16 = 6
  1 ≤ m && m ≤ 4096 && 1 ≤ n && n ≤ 4096 && 1 ≤ k && k ≤ 65536 && (!mx || k % 32 = 0) &&
  ([0x34, 0x38, 0x3C].all fun o => dField d o 4 ≤ 0x1800000 && dField d o 4 % 32 = 0) &&
  ([0x18, 0x1C, 0x20].all fun o => dField d o 4 % 32 = 0) &&
  ([0x24, 0x28].all fun o => if mx then dField d o 4 % 32 = 0 else dField d o 4 = 0)

/-- Whether a GEMM's pair of formats is accepted (R197). -/
def gemmFmtOk (a b : Nat) : Bool :=
  gemmBits a ≠ 0 && gemmBits b ≠ 0 && (a = b || (a = 1 && b = 2) || (a = 2 && b = 1))

/-- The checks of a vault-core descriptor at fetch (R190): 0, or the code it is rejected with. -/
def checkVc (q : Nat) (d : Desc) : Nat :=
  if !(vcOps q).contains d.opc then 0xB001
  else if d.opc = 0x01 then
    if headerOk d 0 && d.fmt = 0 && dmaLimits d && dField d 0x18 8 < 2 ^ 48 then 0 else 0xB001
  else if d.opc = 0x02 then
    if headerOk d 0 && d.fmt = 0 && dmaLimits d && zeroAt d 0x30 8 then 0 else 0xB001
  else if d.opc = 0x04 then
    if !(headerOk d 0 && d.fmt < 16 && dmaLimits d && dField d 0x18 8 < 2 ^ 48) then 0xB001
    else if 2 ≤ d.fmt then 0xB002
    else if dField d 0x28 4 % (if d.fmt = 0 then 2 else 4) = 0 then 0 else 0xB001
  else if d.opc = 0x03 then
    if headerOk d 0 && d.fmt = 0 && zeroAt d 0x20 32 && dField d 0x18 8 < 2 ^ 40 && dField d 0x18 8 % 64 = 0 then 0
    else 0xB001
  else if d.opc = 0x0F then
    if headerOk d 0 && d.fmt = 0 && zeroAt d 0x18 40 then 0 else 0xB001
  else if d.opc = 0x20 then
    if !(headerOk d 7 && gemmLimits d) then 0xB001
    else if gemmFmtOk (d.fmt % 16) (d.fmt / 16) then 0 else 0xB002
  else
    let c := dField d 0x28 4
    let r := dField d 0x2C 4
    let op := dField d 0x3C 1
    if !(headerOk d 3 && zeroAt d 0x3D 3 && 1 ≤ c && c ≤ 65536 && 1 ≤ r && r ≤ 65536 && vopCodes.contains op) then
      0xB001
    else if vopBytes (d.fmt % 16) = 0 ∨ vopBytes (d.fmt / 16) = 0 then 0xB002
    else if 0x30 ≤ op ∧ d.fmt % 16 ≠ 5 ∧ d.fmt % 16 ≠ 7 then 0xB002
    else 0

/-! ## Shared by the operations -/

/-- A descriptor's operation is done: what remains is its outstanding requests and its signal (R186). -/
def opDone (u id : Nat) (s : Sled) : Sled :=
  setDescs u ((descs s u).map fun e => if e.id = id then { e with stage := 2 } else e) s

/-- The started descriptors of a queue, in start order of the ring. -/
def started (s : Sled) (u q : Nat) : List Desc := (descs s u).filter fun d => d.q = q && d.stage ≠ 0

/-- The operation `op` of the k-th started descriptor of a queue acts, once. -/
def onStarted (u q k op : Nat) (f : Desc → Sled → Sled) (s : Sled) : Sled :=
  let isl := if u = 8 then iSTE else iVC u
  match (started s u q)[k]? with
  | some d => if islRuns s isl && d.stage = 1 && d.opc = op then f d s else s
  | none => s

/-- The operation `op` that the ME or VE runs from a queue acts, once (R187). -/
def onEngine (u q op : Nat) (f : Desc → Sled → Sled) (s : Sled) : Sled :=
  match (started s u q).find? fun d => d.stage = 1 && d.opc = op with
  | some d => if islRuns s (iVC u) then f d s else s
  | none => s

/-- A range of this sled that the tenant's DE may reach (R190, Table 10-4). -/
def reachOk (s : Sled) (t a len : Nat) : Bool :=
  a + len ≤ 2 ^ 40 && tenantReach s t a len && allMapped s a len

/-- A row of a DMA descriptor at global address `g`: within 48 bits, within one module, and reachable where
the module is this sled (R190). -/
def rowOk (s : Sled) (t g len : Nat) : Bool :=
  g < 2 ^ 48 && g % 2 ^ 40 + len ≤ 2 ^ 40 && (g / 2 ^ 40 ≠ moduleId s || reachOk s t (g % 2 ^ 40) len)

/-- Row address: base plus index times stride, modulo 2^64 (notes/assumptions/21). -/
def rowAddr (base stride r : Nat) : Nat := (base + r * stride) % 2 ^ 64

/-- Run rows r, r + 1, … (R194): each answers whether it could run; the first that could not faults the
descriptor with ENG_ADDR_FAULT, earlier rows standing (R191). A descriptor that a failed request has
already faulted stops too. -/
def runRows (u : Nat) (d : Desc) (row : Nat → Sled → Bool × Sled) : Nat → Nat → Sled → Sled
  | 0, _, s => opDone u d.id s
  | n + 1, r, s =>
    match row r s with
    | (false, s) => descFault u d 0xB003 0 s
    | (true, s) =>
      if (descs s u).any fun e => e.id = d.id then runRows u d row n (r + 1) s else s

/-- Whether address `x` lies in a set of rows. -/
def inRows (base stride len rows x : Nat) : Bool :=
  (List.range rows).any fun r => rowAddr base stride r ≤ x && x < rowAddr base stride r + len

/-! ## DMA operations (R194-R196) -/

/-- One row's bytes, read on this sled, reach its destination; behind the rows before it that are still being read from
another sled (R194). Bytes moved are the tenant's progress (spec/12, R242). -/
def landRow (core : Nat) (d : Desc) (dst : Nat) (l : List (Byte × Bool)) (s : Sled) : Sled :=
  let t := qTen s core d.q
  if hasReads s d.id then queueLocal d.id dst l s
  else if d.opc = 4 then reduceGlobal core d dst l (progress t s)
  else writeGlobal d.id t dst l (progress t s)

/-- COPY (R195): rows move unchanged, poison with them. Bytes of rows that overlap are undefined. -/
def fxCopy (core q k : Nat) (s : Sled) : Sled :=
  onStarted core q k 0x01 (fun d s =>
    let t := qTen s core q
    let len := dField d 0x28 4
    let rows := dField d 0x2C 4
    let src := dField d 0x18 8
    let dst := dField d 0x20 8
    let ss := dField d 0x30 8
    let ds := dField d 0x38 8
    let n := s.free
    let s := { s with free := s.free + 1 }
    runRows core d (fun r s =>
      let a := rowAddr src ss r
      let b := rowAddr dst ds r
      if !(rowOk s t a len && rowOk s t b len) then (false, s)
      else if a / 2 ^ 40 = moduleId s then
        let ((bytes, _), s) := readLocal (a % 2 ^ 40) len s
        let bytes := markUndefined (fun i => inRows dst ds len rows (a + i) || inRows src ss len rows (b + i)) b n bytes
        (true, landRow core d b bytes s)
      else (true, issueReads len (a / 2 ^ 40) t (a % 2 ^ 40) len b d.id s)) rows 0 s) s

/-- FILL (R194): the 8-byte pattern, repeated from byte 0 of each row. -/
def fxFill (core q k : Nat) (s : Sled) : Sled :=
  onStarted core q k 0x02 (fun d s =>
    let t := qTen s core q
    let len := dField d 0x28 4
    let pat := leBytes 8 (dField d 0x18 8)
    runRows core d (fun r s =>
      let b := rowAddr (dField d 0x20 8) (dField d 0x38 8) r
      if !rowOk s t b len then (false, s)
      else (true, landRow core d b ((List.range len).map fun i => (pat.getD (i % 8) 0, false)) s))
      (dField d 0x2C 4) 0 s) s

/-- REDUCE (R195, R196): source elements are added into the destination's, here by the DE, on another sled at
its link ingress. -/
def fxReduce (core q k : Nat) (s : Sled) : Sled :=
  onStarted core q k 0x04 (fun d s =>
    let t := qTen s core q
    let len := dField d 0x28 4
    runRows core d (fun r s =>
      let a := rowAddr (dField d 0x18 8) (dField d 0x30 8) r
      let b := rowAddr (dField d 0x20 8) (dField d 0x38 8) r
      if !(rowOk s t a len && rowOk s t b len) then (false, s)
      else if a / 2 ^ 40 = moduleId s then
        let ((bytes, _), s) := readLocal (a % 2 ^ 40) len s
        (true, landRow core d b bytes s)
      else (true, issueReads len (a / 2 ^ 40) t (a % 2 ^ 40) len b d.id s))
      (dField d 0x2C 4) 0 s) s

/-- NOP: its wait and its signal, and nothing else (R189). -/
def fxNop (u : QUnit) (k : Nat) (s : Sled) : Sled :=
  onStarted u.unit u.num k 0x0F (fun d s => opDone u.unit d.id s) s

/-! ## The scratchpad as an engine sees it (R192, R203) -/

/-- Bytes of a scratchpad. -/
def scratchSize : Nat := 0x1800000

/-- Local address of an offset in a core's own scratchpad. -/
def scratchAddr (core off : Nat) : Nat := 0x8000000000 + core * scratchSize + off

/-- Rows of `len` bytes at stride `ld` from an offset lie inside the scratchpad. -/
def rowsInside (off ld len rows : Nat) : Bool := off + (rows - 1) * ld + len ≤ scratchSize

/-- Read rows of a core's scratchpad, each as bytes with their poison. -/
def readRows (core off ld len : Nat) : Nat → Sled → List (List (Byte × Bool)) × Sled
  | 0, s => ([], s)
  | n + 1, s =>
    let ((row, _), s) := readLocal (scratchAddr core off) len s
    let (rest, s) := readRows core (off + ld) ld len n s
    (row :: rest, s)

/-- Write rows to a core's scratchpad. -/
def writeRows (core off ld : Nat) : List (List (Byte × Bool)) → Sled → Sled
  | [], s => s
  | row :: rest, s => writeRows core (off + ld) ld rest (writeLocal (scratchAddr core off) row s)

/-- Element `i` of `bits` bits of a row of bytes: its bits and its poison. -/
def rowElem (bits : Nat) (row : List (Byte × Bool)) (i : Nat) : Nat × Bool :=
  let lo := i * bits / 8
  let n := (bits + 7) / 8
  let part := (row.drop lo).take n
  (bitsOf (leNat (part.map (·.1))) (i * bits % 8) bits, part.any (·.2))

/-! ## GEMM (R197-R200) -/

/-- An element's value in a GEMM format; 6 is FP4 E2M1 without its scale. -/
def gemmVal (c x : Nat) : FVal :=
  if c = 0 then decodeF bf16 x else if c = 1 then decodeF e4m3 x else if c = 2 then decodeF e5m2 x
  else if c = 5 then .ofInt (sNat 8 x) else decodeFp4 x

/-- K steps per rounding (R198). -/
def kc (c : Nat) : Nat := if c = 0 then 1 else if c = 6 then 4 else 2

/-- Sum of exact products, one rounding per group of `g` steps (R198). -/
def gemmSum (g : Nat) : Nat → FVal → List FVal → FVal
  | 0, acc, _ => acc
  | fuel + 1, acc, l =>
    if l.isEmpty then acc else
    gemmSum g fuel (roundF fp32 ((l.take g).foldl FVal.add acc)) (l.drop g)

/-- The shapes of a GEMM's operands, from its descriptor. -/
structure GemmDims where
  m : Nat
  n : Nat
  k : Nat
  fa : Nat
  fb : Nat
  ta : Bool
  tb : Bool
  acc : Bool
  deriving DecidableEq, Repr

def gemmDims (d : Desc) : GemmDims :=
  { m := dField d 0x2C 2, n := dField d 0x2E 2, k := dField d 0x30 4, fa := d.fmt % 16, fb := d.fmt / 16
    ta := bitAt d.flags 5, tb := bitAt d.flags 6, acc := bitAt d.flags 4 }

/-- Rows and bytes per row of A and of B as they are stored. -/
def gemmStored (g : GemmDims) (isB : Bool) : Nat × Nat :=
  let (r, c, f, t) := if isB then (g.k, g.n, g.fb, g.tb) else (g.m, g.k, g.fa, g.ta)
  let (r, c) := if t then (c, r) else (r, c)
  (r, (c * gemmBits f + 7) / 8)

/-- Operand element (i, l) of A, or (l, j) of B with `isB`: its value with its MXFP4 scale, and its poison.
Scale blocks lie row by row of A and column by column of B (notes/assumptions/21). -/
def gemmElem (g : GemmDims) (isB : Bool) (rows : List (List (Byte × Bool))) (sc : List (Byte × Bool))
    (outer l : Nat) : FVal × Bool :=
  let (f, t) := if isB then (g.fb, !g.tb) else (g.fa, g.ta)
  let (r, c) := if t then (l, outer) else (outer, l)
  let (x, p) := rowElem (gemmBits f) (rows.getD r []) c
  if f = 6 then
    let (b, ps) := sc.getD (outer * (g.k / 32) + l / 32) (0, false)
    ((decodeE8m0 b.toNat).mul (gemmVal f x), p || ps)
  else (gemmVal f x, p)

/-- One element of C (R198): `old` its former bits where the GEMM accumulates. -/
def gemmOut (g : GemmDims) (as bs : List FVal) (old : Nat) : Nat :=
  let prods := (as.zip bs).map fun (a, b) => a.mul b
  if g.fa = 5 then
    let x := prods.foldl (fun (acc : Int) p => acc + p.toIntSat 32) (if g.acc then sNat 32 old else 0)
    iNat 32 x
  else
    let zero : FVal := .fin false 0 0
    let c := decodeF fp32 old
    encodeF fp32 <|
      if !g.acc then gemmSum (kc g.fa) g.k zero prods
      else if Config.gemmAccFirst then gemmSum (kc g.fa) g.k c prods
      else roundF fp32 ((gemmSum (kc g.fa) g.k zero prods).add c)

/-- GEMM (R197-R200): tiles of 128 × 128 that read poison are written poisoned. Bytes of C whose operands or
place overlap are undefined (spec/11, R211). -/
def fxGemm (core q : Nat) (s : Sled) : Sled :=
  onEngine core (16 + q) 0x20 (fun d s =>
    let g := gemmDims d
    let (ra, la) := gemmStored g false
    let (rb, lb) := gemmStored g true
    let oa := dField d 0x18 4
    let ob := dField d 0x1C 4
    let oc := dField d 0x20 4
    let osa := dField d 0x24 4
    let osb := dField d 0x28 4
    let lda := dField d 0x34 4
    let ldb := dField d 0x38 4
    let ldc := dField d 0x3C 4
    let mx := g.fa = 6
    let nsa := if mx then g.m * (g.k / 32) else 0
    let nsb := if mx then g.n * (g.k / 32) else 0
    if !(rowsInside oa lda la ra && rowsInside ob ldb lb rb && rowsInside oc ldc (4 * g.n) g.m &&
        osa + nsa ≤ scratchSize && osb + nsb ≤ scratchSize) then descFault core d 0xB003 0 s
    else
      let (rowsA, s) := readRows core oa lda la ra s
      let (rowsB, s) := readRows core ob ldb lb rb s
      let (rowsC, s) := readRows core oc ldc (4 * g.n) g.m s
      let ((sa, _), s) := readLocal (scratchAddr core osa) nsa s
      let ((sb, _), s) := readLocal (scratchAddr core osb) nsb s
      let aEl := (List.range g.m).map fun i => (List.range g.k).map fun l => gemmElem g false rowsA sa i l
      let bEl := (List.range g.n).map fun j => (List.range g.k).map fun l => gemmElem g true rowsB sb j l
      let cPo (i j : Nat) : Bool := g.acc && (rowElem 32 (rowsC.getD i []) j).2
      let tile (ti tj : Nat) : Bool :=
        ((aEl.drop (128 * ti)).take 128).any (fun r => r.any (·.2)) ||
        ((bEl.drop (128 * tj)).take 128).any (fun r => r.any (·.2)) ||
        (List.range 128).any (fun x => (List.range 128).any fun y =>
          128 * ti + x < g.m && 128 * tj + y < g.n && cPo (128 * ti + x) (128 * tj + y))
      let tiles := (List.range ((g.m + 127) / 128)).map fun ti =>
        (List.range ((g.n + 127) / 128)).map fun tj => tile ti tj
      let n := s.free
      let s := { s with free := s.free + 1 }
      -- overlap of C with A or B
      let inC (x : Nat) : Bool := inRows oc ldc (4 * g.n) g.m x
      let badRow (off ld len r : Nat) : Bool := (List.range len).any fun x => inC (off + r * ld + x)
      let badA := (List.range ra).map fun r => badRow oa lda la r
      let badB := (List.range rb).map fun r => badRow ob ldb lb r
      let anyA := badA.any id
      let anyB := badB.any id
      let inAB (x : Nat) : Bool := inRows oa lda la ra x || inRows ob ldb lb rb x
      let out := (List.range g.m).map fun i => (List.range g.n).flatMap fun j =>
        let v := gemmOut g ((aEl.getD i []).map (·.1)) ((bEl.getD j []).map (·.1)) (rowElem 32 (rowsC.getD i []) j).1
        let p := (tiles.getD (i / 128) []).getD (j / 128) false
        let at_ := oc + i * ldc + 4 * j
        let bad := (if g.ta then anyA else badA.getD i false) || (if g.tb then badB.getD j false else anyB)
        markUndefined (fun x => bad || inAB (at_ + x)) (scratchAddr core at_) n ((leBytes 4 v).map fun b => (b, p))
      let s := writeRows core oc ldc out s
      let s := if tiles.any (fun r => r.any id) then logPoison core d.id s else s
      opDone core d.id s) s

/-! ## VOP (R201, R202) -/

/-- An element's exact value in a VOP format (R201). -/
def vopVal (c x : Nat) : FVal :=
  if c = 0 then decodeF bf16 x else if c = 1 then decodeF e4m3 x else if c = 2 then decodeF e5m2 x
  else if c = 3 then decodeF fp16 x else if c = 4 then decodeF fp32 x
  else if c = 5 then .ofInt (sNat 8 x) else .ofInt (sNat 32 x)

/-- The bits of a result in the output format (R201, R22). -/
def vopEncode (c : Nat) (v : FVal) : Nat :=
  if c = 0 then encodeF bf16 v else if c = 1 then encodeF e4m3 v else if c = 2 then encodeF e5m2 v
  else if c = 3 then encodeF fp16 v else if c = 4 then encodeF fp32 v
  else if c = 5 then iNat 8 (v.toIntSat 8) else iNat 32 (v.toIntSat 32)

/-- The integer of an integer element. -/
def intOf (v : FVal) : Int := v.toIntSat 32

/-- INT32 arithmetic, wrapping. -/
def wrap32 (x : Int) : FVal := .ofInt (sNat 32 (iNat 32 x))

/-- ROWSUM's fixed pairwise order (Table 10-9): a run splits where the free split says, and each sum is rounded
once; integer runs sum exactly. -/
def pairSum (isInt : Bool) : Nat → List FVal → FVal
  | 0, _ => .fin false 0 0
  | fuel + 1, l =>
    match l with
    | [] => .fin false 0 0
    | [x] => x
    | l =>
      let k := 1 + Config.rowsumSplit l.length % (l.length - 1)
      let r := (pairSum isInt fuel (l.take k)).add (pairSum isInt fuel (l.drop k))
      if isInt then r else roundF fp32 r

/-- One elementwise result before narrowing (Table 10-9). `n` numbers the free value of a shift that the spec
does not state. -/
def vopElem (op : Nat) (isInt : Bool) (n : Nat) (a b c : FVal) : FVal :=
  let fin32 (v : FVal) : FVal := if isInt then v else roundF fp32 v
  if op = 0x01 then fin32 (a.add b)
  else if op = 0x02 then fin32 (a.sub b)
  else if op = 0x03 then fin32 (a.mul b)
  else if op = 0x04 then a.maxNum b
  else if op = 0x05 then a.minNum b
  else if op = 0x06 then fin32 ((a.mul b).add c)
  else if op = 0x07 then a
  else if 0x10 ≤ op ∧ op ≤ 0x16 then transcend op a
  else if op = 0x30 then wrap32 (intOf a + intOf b)
  else if op = 0x31 then wrap32 (intOf a * intOf b)
  else if 0 ≤ intOf b ∧ intOf b ≤ 31 then .ofInt (intOf a / 2 ^ (intOf b).toNat)
  else .ofInt (sNat 32 (Config.freeValue n))

/-- Sources that an operation reads: 1, 2 or 3. -/
def vopArity (op : Nat) : Nat :=
  if op = 0x06 then 3 else if op ≤ 0x05 ∨ 0x30 ≤ op then 2 else 1

/-- VOP (R201, R202): an output word computed from a poisoned input is written poisoned. Where D overlaps a source at
another position, the output computed from the overlapping bytes and the overlapping bytes of D are undefined; the position
of a row operation's output is its row (spec/11, R211). -/
def fxVop (core q : Nat) (s : Sled) : Sled :=
  onEngine core (20 + q) 0x40 (fun d s =>
    let op := dField d 0x3C 1
    let cols := dField d 0x28 4
    let rows := dField d 0x2C 4
    let fi := d.fmt % 16
    let fo := d.fmt / 16
    let wi := vopBytes fi
    let wo := vopBytes fo
    let isInt := fi = 5 || fi = 7
    let red := op = 0x20 || op = 0x21
    let oc := if red then 1 else cols
    let b2 := bitAt d.flags 4
    let b3 := bitAt d.flags 5
    let srcs := ([(dField d 0x18 4, dField d 0x30 4, false), (dField d 0x1C 4, dField d 0x34 4, b2),
      (dField d 0x20 4, dField d 0x34 4, b3)] : List (Nat × Nat × Bool)).take (vopArity op)
    let od := dField d 0x24 4
    let ldd := dField d 0x38 4
    if !((srcs.all fun (o, ld, one) => rowsInside o ld (cols * wi) (if one then 1 else rows)) &&
        rowsInside od ldd (oc * wo) rows) then descFault core d 0xB003 0 s
    else
      let (data, s) := srcs.foldl (fun (acc, s) (o, ld, one) =>
        let (r, s) := readRows core o ld (cols * wi) (if one then 1 else rows) s
        (acc ++ [r], s)) (([] : List (List (List (Byte × Bool)))), s)
      let el (k r c : Nat) : Nat × Bool :=
        let rs := data.getD k []
        let one := (srcs.getD k (0, 0, false)).2.2
        rowElem (8 * wi) (rs.getD (if one then 0 else r) []) c
      let val (k r c : Nat) : FVal := vopVal fi (el k r c).1
      let pois (r c : Nat) : Bool := (List.range srcs.length).any fun k => (el k r c).2
      let n := s.free
      let s := { s with free := s.free + 1 + rows * cols }
      -- a byte of D, or of a source, at another position than (r, c)
      let otherD (r c x : Nat) : Bool := (List.range rows).any fun r2 =>
        let b := od + r2 * ldd
        b ≤ x && x < b + oc * wo && !(r2 = r && (red || (x - b) / wo = c))
      let otherS (r c x : Nat) : Bool := srcs.any fun (o, ld, one) => (List.range rows).any fun r2 =>
        let b := o + (if one then 0 else r2 * ld)
        b ≤ x && x < b + cols * wi && !(r2 = r && (red || (x - b) / wi = c))
      let undef (r c : Nat) : Bool := srcs.any fun (o, ld, one) =>
        let a := o + (if one then 0 else r * ld) + c * wi
        (List.range wi).any fun i => otherD r c (a + i)
      let out := (List.range rows).map fun r => (List.range oc).flatMap fun c =>
        let (v, p, u) :=
          if red then
            let l := (List.range cols).map fun c => val 0 r c
            let v := if op = 0x20 then pairSum isInt cols l
              else match l with
                | [] => .fin false 0 0
                | x :: l => l.foldl FVal.maxNum x
            (v, (List.range cols).any (pois r), (List.range cols).any (undef r))
          else (vopElem op isInt (n + 1 + r * cols + c) (val 0 r c) (val 1 r c) (val 2 r c), pois r c, undef r c)
        let at_ := od + r * ldd + c * wo
        markUndefined (fun x => u || otherS r c (at_ + x)) (scratchAddr core at_) n ((leBytes wo (vopEncode fo v)).map fun b => (b, p))
      let s := writeRows core od ldd out s
      let s := if out.any anyPoison then logPoison core d.id s else s
      opDone core d.id s) s

/-! ## The meanings -/

def execCopy (core : CoreId) (q : Fin 16) (k : Fin 8) (s : State) := liftHold (fxCopy core.val q.val k.val) s
def execFill (core : CoreId) (q : Fin 16) (k : Fin 8) (s : State) := liftHold (fxFill core.val q.val k.val) s
def execReduce (core : CoreId) (q : Fin 16) (k : Fin 8) (s : State) := liftHold (fxReduce core.val q.val k.val) s
def execNop (u : QUnit) (k : Fin 8) (s : State) := lift (fxNop u k.val) s
def execGemm (core : CoreId) (q : Fin 4) (s : State) := liftHold (fxGemm core.val q.val) s
def execVop (core : CoreId) (q : Fin 4) (s : State) := liftHold (fxVop core.val q.val) s

end Sys2Proof.Machine
end

