-- ==== Sys2Proof/Machine/Layout.lean ====
section
/-! DEFINITION. The layout unit (spec/13): tensor descriptors and their checks, addresses of elements on each
kind of side, custom lane tables, owner tables, the staging buffer, and the move. -/

namespace Sys2Proof.Machine

open Sys2Proof

/-! ## The tensor descriptor (R247, R248) -/

/-- One side block (Table 13-2), for the first NDIM axes. -/
structure Side where
  mode : Nat
  space : Nat
  table : Nat
  base : Nat
  stride : List Nat
  origin : List Nat
  porigin : List Nat
  pshape : List Nat
  /-- Reserved fields, and fields of axes at or above NDIM, are 0. -/
  clean : Bool
  deriving DecidableEq, Repr

/-- A tensor descriptor (Table 13-1). -/
structure Tensor where
  ndim : Nat
  esize : Nat
  custom : Bool
  ccount : Nat
  perm : List Nat
  ctable : Nat
  ext : List Nat
  src : Side
  dst : Side
  /-- Reserved fields, and fields of axes at or above NDIM, are 0. -/
  clean : Bool
  deriving DecidableEq, Repr

/-- `n` bytes at byte `off` of a little-endian value. -/
def tf (x off n : Nat) : Nat := bitsOf x (8 * off) (8 * n)

/-- Six fields of `w` bytes from byte `off` on. -/
def six (x off w : Nat) : List Nat := (List.range 6).map fun i => tf x (off + w * i) w

/-- A side block at byte `o` of a tensor descriptor. -/
def sideAt (x o nd : Nat) : Side :=
  let st := six x (o + 0x10) 8
  let og := six x (o + 0x40) 4
  let po := six x (o + 0x58) 4
  let ps := six x (o + 0x70) 4
  let gl := tf x o 1 = 2
  { mode := tf x o 1, space := tf x (o + 1) 1, table := tf x (o + 2) 1, base := tf x (o + 8) 8
    stride := st.take nd, origin := og.take nd, porigin := po.take nd, pshape := ps.take nd
    clean := tf x (o + 3) 5 = 0 && tf x (o + 0x88) 8 = 0 &&
      (gl || (st.all (· < 2 ^ 40) && (st.drop nd).all (· = 0))) &&
      (og.drop nd).all (· = 0) && (po.drop nd).all (· = 0) && (ps.drop nd).all (· = 0) }

/-- A tensor descriptor from the little-endian value of its 384 bytes. -/
def tensorOf (x : Nat) : Tensor :=
  let nd := tf x 0 1
  let ext := six x 0x10 4
  let pm := tf x 4 4
  { ndim := nd, esize := 2 ^ tf x 1 1, custom := bitAt (tf x 2 1) 0, ccount := tf x 3 1
    perm := (List.range nd).map fun d => bitsOf pm (3 * d) 3
    ctable := tf x 8 8, ext := ext.take nd, src := sideAt x 0x40 nd, dst := sideAt x 0xD0 nd
    clean := tf x 2 1 < 2 && tf x 1 1 ≤ 3 && pm < 2 ^ (3 * nd) && (ext.drop nd).all (· = 0) &&
      tf x 0x28 24 = 0 && tf x 0x160 32 = 0 }

/-- Extents along the destination's axes: EXT[d] along axis PERM(d). -/
def Tensor.dext (t : Tensor) : List Nat :=
  (List.range t.ndim).map fun a =>
    match (t.perm.zip t.ext).find? fun p => p.1 = a with
    | some p => p.2
    | none => 0

/-! ## Owner tables (R258, R259) -/

/-- A directory entry (Table 13-4). -/
structure OwnerTab where
  tbase : Nat
  nblk : Nat
  tenant : Nat
  valid : Bool
  ndim : Nat
  esize : Nat
  shape : List Nat
  bshape : List Nat
  clean : Bool
  deriving DecidableEq, Repr

/-- A directory entry from its 64 bytes. -/
def ownerTabOf (x : Nat) : OwnerTab :=
  let nd := tf x 0xD 1
  { tbase := tf x 0 8, nblk := tf x 8 4, tenant := bitsOf (tf x 0xC 1) 0 4, valid := bitAt (tf x 0xC 1) 7
    ndim := nd, esize := 2 ^ tf x 0xE 1, shape := (six x 0x10 4).take nd, bshape := (six x 0x28 4).take nd
    clean := bitsOf (tf x 0xC 1) 4 3 = 0 && tf x 0xF 1 = 0 && tf x 0xE 1 ≤ 3 && tf x 0 8 < 2 ^ 40 && tf x 0 8 % 8 = 0 &&
      (six x 0x28 4).all (1 ≤ ·) }

/-- Blocks along each axis. -/
def OwnerTab.grid (o : OwnerTab) : List Nat := (o.shape.zip o.bshape).map fun (a, b) => ceilDiv a b

/-- Product of a list. -/
def prodN (l : List Nat) : Nat := l.foldl (· * ·) 1

/-- An entry that R249 and R258 accept for a tensor of tenant `t`. -/
def OwnerTab.ok (o : OwnerTab) (t : Nat) (x : Tensor) : Bool :=
  o.valid && o.clean && o.tenant = t && o.ndim = x.ndim && o.esize = x.esize &&
  1 ≤ o.nblk && o.nblk ≤ 65536 && o.bshape.all (1 ≤ ·) && prodN o.grid = o.nblk

/-- Read the directory entry of a global side's table: its value, and whether its words were mapped and whether one is
poisoned. Another side has none, which reads as an entry of zeros. -/
def readOwnerTab (core : Nat) (w : Who) (sd : Side) (s : Sled) : (Nat × Bool × Bool) × Sled :=
  if sd.mode ≠ 2 then ((0, true, false), s)
  else
    let ((bytes, ok), s) := readFor w (rField s (bLAY core) 0x410 6 34 * 64 + 64 * sd.table) 64 s
    ((leNat (bytes.map (·.1)), ok, anyPoison bytes), s)

/-! ## Checks at start (R249-R251) -/

/-- Checks of one side: fields, strides, tables (R249). -/
def sideOk (x : Tensor) (sd : Side) (isDst : Bool) (ot : OwnerTab × Bool) (tenant : Nat) : Bool :=
  let ext := if isDst then x.dext else x.ext
  sd.clean && sd.mode ≤ 2 && sd.space ≤ 1 &&
  (if sd.mode = 2 then
    sd.space = 0 && sd.base = 0 && ot.2 && ot.1.ok tenant x &&
    ((sd.origin.zip ext).zip ot.1.shape).all (fun p => p.1.1 + p.1.2 ≤ p.2) &&
    sd.porigin.all (· = 0) && sd.pshape.all (· = 0)
  else
    sd.table = 0 && sd.base < (if sd.space = 1 then 2 ^ 39 else 2 ^ 48) && nth sd.stride 0 = x.esize &&
    (!isDst || sd.stride.all (· ≠ 0)) &&
    (sd.mode = 1 || (sd.porigin.all (· = 0) && sd.pshape.all (· = 0))))

/-- A tensor descriptor that R249 accepts. -/
def tensorOk (x : Tensor) (os od : OwnerTab × Bool) (tenant : Nat) : Bool :=
  1 ≤ x.ndim && x.ndim ≤ 6 && x.clean && x.ext.all (1 ≤ ·) &&
  (List.range x.ndim).all (fun a => x.perm.contains a) &&
  (if x.custom then
    1 ≤ x.ccount && x.ccount ≤ 16 && x.ctable % 64 = 0 && nth x.perm 0 = 0 && x.src.mode = 0 && x.dst.mode = 0
   else x.ccount = 0 && x.ctable = 0) &&
  sideOk x x.src false os tenant && sideOk x x.dst true od tenant

/-- Byte address of a logical index on a plain or local-piece side (R248); below 0 only where no element is present. -/
def sideAddr (sd : Side) (ix : List Nat) : Int :=
  ((ix.zip sd.porigin).zip sd.stride).foldl (fun a p => a + ((p.1.1 : Int) - p.1.2) * p.2) (sd.base : Int)

/-- Alignment of the innermost runs of one side (R250). -/
def sideAligned (x : Tensor) (sd : Side) (ext : List Nat) (ot : OwnerTab) : Bool :=
  if sd.mode = 2 then nth ot.bshape 0 * x.esize % 64 = 0 && nth sd.origin 0 * x.esize % 64 = 0
  else
    sideAddr sd sd.origin % 64 = 0 && (sd.stride.drop 1).all (· % 64 = 0) && nth ext 0 * x.esize % 64 = 0 &&
    (sd.mode ≠ 1 ||
      (((nth sd.origin 0 : Int) - nth sd.porigin 0) * x.esize % 64 = 0 && nth sd.pshape 0 * x.esize % 64 = 0))

/-- A custom table's entry (R251): bit 6 clear, and no source lane named twice. -/
def customEntryOk (e : List Nat) : Bool :=
  e.all (fun b => !bitAt b 6) && ((e.filter fun b => !bitAt b 7).map fun b => b % 64).Nodup

/-- First byte and end of a plain or local-piece side's extent (R254). -/
def sideExtent (x : Tensor) (sd : Side) (ext : List Nat) : Int × Int :=
  let lo := sideAddr sd sd.origin
  (lo, lo + (((ext.zip sd.stride).foldl (fun a p => a + (p.1 - 1) * p.2) 0) + x.esize : Nat))

/-- The bytes that a staged move reads first: the intersection of the extents where R254 compares them. -/
def overlap (x : Tensor) : Int × Int :=
  if x.src.mode = 2 ∨ x.dst.mode = 2 ∨ x.src.space = 1 ∨ x.dst.space = 1 ∨
      x.src.base / 2 ^ 40 ≠ x.dst.base / 2 ^ 40 then (0, 0)
  else
    let (a, b) := sideExtent x x.src x.ext
    let (c, d) := sideExtent x x.dst x.dext
    if max a c < min b d then (max a c, min b d) else (0, 0)

/-- Whether the move needs the staging buffer (R254). -/
def staged (x : Tensor) : Bool := (overlap x).1 < (overlap x).2

/-! ## Where an element lies (R248, R253, R259, R261) -/

/-- The local address of a bank-space address, by the region whose band holds its row (R253). -/
def bankSpace (s : Sled) (b : Nat) : Option Nat :=
  let c := coordOf b
  match (List.range 16).find? fun n =>
    let r := region s n
    r.valid && r.ok && r.row0 ≤ c.row && c.row < r.row0 + r.rows with
  | some n => some (xlateInv (masks s) (region s n) c)
  | none => none

/-- Whether an element is present on a side (R261). -/
def present (sd : Side) (ix : List Nat) : Bool :=
  sd.mode ≠ 1 || ((ix.zip sd.porigin).zip sd.pshape).all fun p => p.1.2 ≤ p.1.1 && p.1.1 < p.1.2 + p.2

/-- Block that holds a logical index of a global tensor, axis 0 fastest (R258). -/
def blockOf (ot : OwnerTab) (ix : List Nat) : Nat :=
  ((ix.zip ot.bshape).zip ot.grid).foldr (fun (p : (Nat × Nat) × Nat) acc => p.1.1 / p.1.2 + p.2 * acc) 0

/-- Address of an element on a global side from the owner-table entry `e` of its block, or the code of the fault
(R250, R253, R259, R260). With one axis, layout code 0x01 has no second axis to exchange. -/
def inBlock (x : Tensor) (sd : Side) (isDst : Bool) (ot : OwnerTab) (ix : List Nat) (e : Nat) (s : Sled) : Nat ⊕ Nat :=
  let code := bitsOf e 48 8
  let swap : Bool := code = 1 && 2 ≤ x.ndim
  if !bitAt e 56 || 3 ≤ code || bitsOf e 58 6 ≠ 0 || (isDst && bitAt e 57) then .inr 0x2005
  else if bitsOf e 0 40 % 64 ≠ 0 ∨
      (swap ∧ (nth ot.bshape 1 * x.esize % 64 ≠ 0 ∨ nth sd.origin 1 * x.esize % 64 ≠ 0)) then .inr 0x2001
  else
    let ins := (ix.zip ot.bshape).map fun (p : Nat × Nat) => p.1 % p.2
    let (ins, bs) := if swap then
        (nth ins 1 :: nth ins 0 :: ins.drop 2, nth ot.bshape 1 :: nth ot.bshape 0 :: ot.bshape.drop 2)
      else (ins, ot.bshape)
    let off := (ins.zip bs).foldr (fun (p : Nat × Nat) acc => p.1 + p.2 * acc) 0 * x.esize
    if code = 2 then
      match bankSpace s (bitsOf e 0 40 + off) with
      | some l => .inl (bitsOf e 40 8 * 2 ^ 40 + l)
      | none => .inr 0xB003
    else .inl (bitsOf e 40 8 * 2 ^ 40 + bitsOf e 0 40 + off)

/-- Global address of a present element: or the code of the fault met on the way. `entry` gives the owner-table entry of a
block, and whether it is poisoned. -/
def locate (x : Tensor) (sd : Side) (isDst : Bool) (ot : OwnerTab) (entry : Nat → Nat × Bool) (ix : List Nat) (s : Sled) :
    Nat ⊕ Nat :=
  if sd.mode = 2 then
    let (e, p) := entry (blockOf ot ix)
    if p then .inr 0xB004 else inBlock x sd isDst ot ix e s
  else
    let a := (sideAddr sd ix).toNat
    if sd.space = 0 then .inl a
    else match bankSpace s a with
      | some l => .inl (moduleId s * 2 ^ 40 + l)
      | none => .inr 0xB003

/-- Logical index of the i-th element in destination order, axis 0 fastest, along extents. -/
def mixed : List Nat → Nat → List Nat
  | [], _ => []
  | e :: es, i => i % e :: mixed es (i / e)

/-- Logical indices of the i-th element on the source and on the destination (R248). -/
def elemIx (x : Tensor) (i : Nat) : List Nat × List Nat :=
  let y := mixed x.dext i
  let k := x.perm.map fun p => nth y p
  ((x.src.origin.zip k).map fun p => p.1 + p.2, (x.dst.origin.zip y).map fun p => p.1 + p.2)

/-! ## Units of a move: elements, or the lanes of a custom table (R251) -/

/-- What one unit of a move takes: bytes at an address, zeros, or the bytes of a lane beyond the last byte of the move, which
have no value. -/
inductive From where
  | at_ (a : Nat)
  | zero
  | none_
  deriving DecidableEq, Repr

/-- A unit's place: where its bytes come from and go to. -/
structure Piece where
  src : From
  dst : Nat
  len : Nat
  deriving DecidableEq, Repr

/-- Units of a move: elements, or with a custom table lanes of 4 bytes. -/
def unitCount (x : Tensor) : Nat := if x.custom then prodN x.ext * x.esize / 4 else prodN x.ext

/-- The elements whose owner-table entries unit `i` needs, on the source and on the destination; none where an element is not
present (R261). -/
def unitIx (x : Tensor) (i : Nat) : Option (List Nat × List Nat) :=
  let (sx, dx) := elemIx x i
  if present x.src sx && present x.dst dx then some (sx, dx) else none

/-- Where unit `i` lies: none where it is skipped, or the code of the fault at which the move stops. A row of another tenant or
beyond reach faults as it is met (R190, R253). A custom table's sides are plain; a beat is read whole, so a lane's own source
must be within reach too. -/
def unitAt (tenant : Nat) (x : Tensor) (os od : OwnerTab) (tab : List (List Nat)) (entry : Bool → Nat → Nat × Bool)
    (i : Nat) (s : Sled) : Nat ⊕ Option Piece :=
  let ok (a n : Nat) : Bool := rowOk s tenant a n
  if x.custom then
    let place (sd : Side) (b : Nat) (dst : Bool) : Nat :=
      let ix := elemIx x (b / x.esize)
      (sideAddr sd (if dst then ix.2 else ix.1)).toNat + b % x.esize
    let at_ (sd : Side) (dst : Bool) (b : Nat) : Nat ⊕ Nat :=
      if sd.space = 0 then .inl (place sd b dst)
      else match bankSpace s (place sd b dst) with
        | some l => .inl (moduleId s * 2 ^ 40 + l)
        | none => .inr 0xB003
    let lane := nth (tab.getD (i / 64 % tab.length) []) (i % 64)
    let from_ := i / 64 * 256 + lane % 64 * 4
    match at_ x.dst true (4 * i), at_ x.src false (4 * i), at_ x.src false from_ with
    | .inl b, .inl own, src =>
      if !(ok b 4 && ok own 4) then .inl 0xB003
      else if bitAt lane 7 then .inr (some { src := .zero, dst := b, len := 4 })
      else if prodN x.ext * x.esize ≤ from_ then .inr (some { src := .none_, dst := b, len := 4 })
      else match src with
        | .inl a => if ok a 4 then .inr (some { src := .at_ a, dst := b, len := 4 }) else .inl 0xB003
        | .inr c => .inl c
    | .inr c, _, _ => .inl c
    | _, .inr c, _ => .inl c
  else match unitIx x i with
    | none => .inr none
    | some (sx, dx) =>
      match locate x x.src false os (entry false) sx s, locate x x.dst true od (entry true) dx s with
      | .inl a, .inl b =>
        if ok a x.esize && ok b x.esize then .inr (some { src := .at_ a, dst := b, len := x.esize }) else .inl 0xB003
      | .inr c, _ => .inl c
      | _, .inr c => .inl c

/-! ## A LAYOUT in progress -/

end Sys2Proof.Machine

namespace Sys2Proof

/-- The tensor descriptor that a LAYOUT read at its start. -/
def LuRun.tensor (r : LuRun) : Machine.Tensor := Machine.tensorOf (leNat (r.kept.take 384))

end Sys2Proof

namespace Sys2Proof.Machine

/-- A list of bytes in rows of 64. -/
def rows64 : Nat → List Byte → List (List Nat)
  | 0, _ => []
  | n + 1, l => (l.take 64).map (·.toNat) :: rows64 n (l.drop 64)

/-- What the loop of a move works on: the tensor, its tables, and what is staged. -/
structure LuCtx where
  core : Nat
  tenant : Nat
  x : Tensor
  os : OwnerTab
  od : OwnerTab
  tab : List (List Nat)
  /-- Local bytes staged, unit by unit; every unit of another sled's staged move waits (R254). -/
  stage : List (Option (List (Byte × Bool)))
  wait : Bool
  deriving DecidableEq, Repr

/-- The owner-table entry that a LAYOUT has read of a block. -/
def entOf (r : LuRun) (isDst : Bool) (blk : Nat) : Nat × Bool :=
  match r.ents.find? fun e => e.1 = isDst ∧ e.2.1 = blk with
  | some e => e.2.2
  | none => (0, false)

/-- An owner-table entry as it stands. -/
def entNow (s : Sled) (ot : OwnerTab) (blk : Nat) : Nat × Bool :=
  let b := (readLocal (ot.tbase + 8 * blk) 8 s).1.1
  (leNat (b.map (·.1)), anyPoison b)

/-- The descriptor's progress is kept. -/
def setLu (core id : Nat) (r : LuRun) (s : Sled) : Sled :=
  setDescs core ((descs s core).map fun e => if e.id = id then { e with lu := some r } else e) s

/-- The descriptor is still there: no request of it has failed. -/
def luHere (s : Sled) (core id : Nat) : Bool := (descs s core).any fun e => e.id = id

/-- Read requests of the layout unit that are outstanding (R262). -/
def luReads (s : Sled) (core : Nat) : Nat :=
  ((descs s core).filter fun e => e.opc = 3).foldl (fun n e => n + ((readsOf s e.id).filter fun o => !o.2.whole).length) 0

/-- Owner-table entries read ahead of the oldest read outstanding (R260). -/
def luAhead (s : Sled) (id : Nat) (r : LuRun) : Nat :=
  match (readsOf s id).find? fun o => !o.2.whole with
  | some o =>
    match r.marks.find? fun m => m.1 = o.2.seq with
    | some m => r.ents.length - m.2
    | none => 0
  | none => 0

/-- Read the entry of a global side's block where it has not been read; none where 16 entries have been read ahead. -/
def luEntry (id : Nat) (w : Who) (sd : Side) (isDst : Bool) (ot : OwnerTab) (ix : List Nat) (r : LuRun) (s : Sled) :
    Option (LuRun × Sled) :=
  let blk := blockOf ot ix
  if sd.mode ≠ 2 ∨ (r.ents.any fun e => e.1 = isDst ∧ e.2.1 = blk) = true then some (r, s)
  else if 16 ≤ luAhead s id r then none
  else
    let ((b, _), s) := readFor w (ot.tbase + 8 * blk) 8 s
    some ({ r with ents := r.ents ++ [(isDst, blk, leNat (b.map (·.1)), anyPoison b)] }, s)

/-- The entries that unit `i` needs are read. -/
def luEntries (c : LuCtx) (id : Nat) (w : Who) (i : Nat) (r : LuRun) (s : Sled) : Option (LuRun × Sled) :=
  match (if c.x.custom then none else unitIx c.x i) with
  | none => some (r, s)
  | some (sx, dx) =>
    match luEntry id w c.x.src false c.os sx r s with
    | none => none
    | some (r, s) => luEntry id w c.x.dst true c.od dx r s

/-- A destination run: its first address and its bytes. -/
abbrev LuOut := Nat × List (Byte × Bool)

/-- A run of bytes to read from another sled: source, destination, bytes, and the first unit. -/
structure LuIn where
  src : Nat
  dst : Nat
  len : Nat
  unit : Nat
  deriving DecidableEq, Repr

/-- A run of bytes of this sled goes to its destination, behind the reads before it; `late` where it has to wait for what
follows it. -/
def luWrite (c : LuCtx) (d : Desc) (late : Bool) (o : LuOut) (s : Sled) : Sled :=
  if o.2.isEmpty then s
  else if late || c.wait || hasReads s d.id then queueLocal d.id o.1 o.2 s
  else writeGlobal d.id c.tenant o.1 o.2 (progress c.tenant s)

/-- A run is read from another sled by one request of at most 4 KiB. -/
def luRead (c : LuCtx) (d : Desc) (o : LuIn) (r : LuRun) (s : Sled) : LuRun × Sled :=
  ({ r with marks := r.marks ++ [(s.seq, r.ents.length)] },
   issue (o.src / 2 ^ 40) 2 c.tenant (o.src % 2 ^ 40) o.len [] 0 (.descRead d.id o.dst o.len) o.len s)

/-- The LAYOUT waits at unit `i` until the layout unit goes on with it. -/
def luPause (c : LuCtx) (d : Desc) (i : Nat) (r : LuRun) (s : Sled) : Sled :=
  if luHere s c.core d.id then setLu c.core d.id { r with next := i } s else s

/-- Argument 2 of a LAYOUT's record: the tensor descriptor's offset in the own scratchpad, or its local address
(R263). -/
def tdArg (core a : Nat) : Nat :=
  if scratchOf a = some core then a - 0x8000000000 - core * scratchSize else a % 2 ^ 32

/-- The move ends, at a fault or whole: what has been read takes effect. -/
def luLand (c : LuCtx) (d : Desc) (r : LuRun) (all : Bool) (s : Sled) : Sled :=
  landOrdered d.id all ((allOut s).length + 1) (luPause c d r.next r s)

/-- A fault at unit `i`: blocks before it stay moved (R191, R260), so it waits for their data. -/
def luFault (c : LuCtx) (d : Desc) (code i : Nat) (r : LuRun) (s : Sled) : Sled :=
  if (readsOf s d.id).any fun o => !o.2.whole then luPause c d i r s
  else
    let s := luLand c d r true s
    match (descs s c.core).find? fun e => e.id = d.id with
    | some e => descFault c.core e code (tdArg c.core (dField d 0x18 8)) s
    | none => s

/-- Move units in write order: `n` are left. A run of this sled's bytes is written as a whole, and a run of another sled's
bytes read by one request; at most one of the two is being gathered. The move pauses where 64 reads are outstanding
(R262) or 16 entries have been read ahead (R260), and ends where a request fails. -/
def luGo (c : LuCtx) (d : Desc) : Nat → LuOut → Option LuIn → LuRun → Sled → Sled
  | 0, out, inp, r, s =>
    match inp with
    | some o =>
      if 64 ≤ luReads s c.core then luPause c d o.unit r s
      else
        let (r, s) := luRead c d o r s
        luEnd r s
    | none => luEnd r (luWrite c d false out s)
  | n + 1, out, inp, r, s =>
    let i := unitCount c.x - (n + 1)
    if !luHere s c.core d.id then s
    else
      let stop (r : LuRun) (s : Sled) (f : Nat → LuRun → Sled → Sled) : Sled :=
        match inp with
        | some o =>
          if 64 ≤ luReads s c.core then luPause c d o.unit r s
          else
            let (r, s) := luRead c d o r s
            f i r s
        | none => f i r (luWrite c d false out s)
      match luEntries c d.id (whoQ s c.core d.q) i r s with
      | none => stop r s (luPause c d)
      | some (r, s) =>
        match unitAt c.tenant c.x c.os c.od c.tab (entOf r) i s with
        | .inl code => stop r s (luFault c d code)
        | .inr none => luGo c d n out inp r s
        | .inr (some p) =>
          let remote : Bool := match p.src with
            | .at_ a => a / 2 ^ 40 != moduleId s
            | _ => false
          if remote then
            let a := match p.src with
              | .at_ a => a
              | _ => 0
            let new : LuIn := { src := a, dst := p.dst, len := p.len, unit := i }
            match inp with
            | some o =>
              if a = o.src + o.len ∧ p.dst = o.dst + o.len ∧ o.len + p.len ≤ 4096 then
                luGo c d n out (some { o with len := o.len + p.len }) r s
              else if 64 ≤ luReads s c.core then luPause c d o.unit r s
              else
                let (r, s) := luRead c d o r s
                luGo c d n (0, []) (some new) r s
            | none =>
              let late : Bool := (out.1 + out.2.length) % 32 ≠ 0 && p.dst = out.1 + out.2.length
              luGo c d n (0, []) (some new) r (luWrite c d late out s)
          else
            let gather (r : LuRun) (s : Sled) : Sled :=
              let (bytes, s) := match c.stage.getD i none, p.src with
                | some b, _ => (b, s)
                | none, .at_ a =>
                  let ((b, _), s) := readLocal (a % 2 ^ 40) p.len s
                  (b, s)
                | none, .zero => (List.replicate p.len ((0 : Byte), false), s)
                | none, .none_ => ((List.range p.len).map fun k => (Config.undefinedByte (p.dst + k) r.seed, false), s)
              let s := if anyPoison bytes then logPoison c.core d.id s else s
              let bytes := luMark { d with lu := some r } p.dst bytes
              if out.2.isEmpty then luGo c d n (p.dst, bytes) none r s
              else if p.dst = out.1 + out.2.length then luGo c d n (out.1, out.2 ++ bytes) none r s
              else luGo c d n (p.dst, bytes) none r (luWrite c d false out s)
            match inp with
            | some o =>
              if 64 ≤ luReads s c.core then luPause c d o.unit r s
              else
                let (r, s) := luRead c d o r s
                gather r s
            | none => gather r s
where
  /-- Every unit has been issued. -/
  luEnd (r : LuRun) (s : Sled) : Sled :=
    if luHere s c.core d.id then
      opDone c.core d.id (luLand c d { r with next := unitCount c.x, fin := true } false s)
    else s

/-- The source bytes of a local move that lie where source and destination intersect, unit by unit (R254). -/
def luStage (c : LuCtx) : Nat → Nat → Sled → List (Option (List (Byte × Bool))) × Sled
  | 0, _, s => ([], s)
  | n + 1, i, s =>
    match unitAt c.tenant c.x c.os c.od c.tab (fun _ _ => (0, false)) i s with
    | .inl _ => ([], s)
    | .inr p =>
      let (b, s) := match p with
        | some { src := .at_ a, len := n, .. } =>
          if (overlap c.x).1 ≤ a ∧ (a : Int) < (overlap c.x).2 then
            let ((b, _), s) := readLocal (a % 2 ^ 40) n s
            (some b, s)
          else (none, s)
        | _ => (none, s)
      let (l, s) := luStage c n (i + 1) s
      (b :: l, s)

/-- The pieces of a move as its tables stand, up to the fault that ends it. -/
def luPieces (c : LuCtx) (s : Sled) : Nat → Nat → List Piece
  | 0, _ => []
  | n + 1, i =>
    match unitAt c.tenant c.x c.os c.od c.tab (fun isDst => entNow s (if isDst then c.od else c.os)) i s with
    | .inl _ => []
    | .inr none => luPieces c s n (i + 1)
    | .inr (some p) => p :: luPieces c s n (i + 1)

/-- Destination ranges of the bytes that lie on both sides of a move for which R255 forbids it. -/
def luUndef (c : LuCtx) (s : Sled) : List (Nat × Nat) :=
  if c.x.src.mode ≠ 2 ∧ c.x.dst.mode ≠ 2 ∧ c.x.src.space = 0 ∧ c.x.dst.space = 0 then []
  else
    let l := luPieces c s (unitCount c.x) 0
    let hits (p q : Piece) : Bool := match p.src with
      | .at_ a => a < q.dst + q.len && q.dst < a + p.len
      | _ => false
    (l.filter fun p => l.any fun q => hits p q || hits q p).map fun p => (p.dst, p.len)

/-- The context of a LAYOUT's move. -/
def luCtx (core : Nat) (d : Desc) (r : LuRun) (s : Sled) : LuCtx :=
  let x := r.tensor
  { core := core, tenant := qTen s core d.q, x := x, os := ownerTabOf r.os, od := ownerTabOf r.od
    tab := rows64 x.ccount (r.kept.drop 384), stage := [], wait := staged x && x.src.base / 2 ^ 40 ≠ moduleId s }

/-- A LAYOUT that has passed its checks begins its move: its bytes are staged where R254 asks it. -/
def luBegin (core : Nat) (d : Desc) (r : LuRun) (s : Sled) : Sled :=
  let c := luCtx core d r s
  let r := { r with seed := s.free, undef := luUndef c s }
  let s := { s with free := s.free + 1 }
  let (st, s) := if staged c.x && !c.wait then luStage c (unitCount c.x) 0 s else ([], s)
  luGo { c with stage := st } d (unitCount c.x) (0, []) none r s

/-- A LAYOUT whose move has begun goes on where it paused. -/
def luResume (core : Nat) (d : Desc) (r : LuRun) (s : Sled) : Sled :=
  let c := luCtx core d r s
  luGo c d (unitCount c.x - r.next) (0, []) none r s

/-- What a LAYOUT finds at its start: the code that it faults with, or what it has read (R249-R254). A poisoned word of
what it reads then faults with ENG_POISON, as a ring entry does (notes/assumptions/21). -/
def layoutStart (core : Nat) (d : Desc) (s : Sled) : (Nat ⊕ LuRun) × Sled :=
  let t := qTen s core d.q
  let w := whoQ s core d.q
  let a := dField d 0x18 8
  if !reachOk s t a 384 then (.inl 0xB003, s)
  else
    let ((td, _), s) := readLocal a 384 s
    if anyPoison td then (.inl 0xB004, s)
    else
      let bytes := td.map (·.1)
      let x := tensorOf (leNat bytes)
      let ((os, sok, sp), s) := readOwnerTab core w x.src s
      let ((od, dok, dp), s) := readOwnerTab core w x.dst s
      if sp || dp then (.inl 0xB004, s)
      else if !tensorOk x (ownerTabOf os, sok) (ownerTabOf od, dok) t then (.inl 0x2003, s)
      else if !(sideAligned x x.src x.ext (ownerTabOf os) && sideAligned x x.dst x.dext (ownerTabOf od)) then
        (.inl 0x2001, s)
      else if x.custom && scratchSize < x.ctable + 64 * x.ccount then (.inl 0xB003, s)
      else
        let (tab, s) := readRows core x.ctable 64 64 x.ccount s
        if tab.any anyPoison then (.inl 0xB004, s)
        else if !tab.all (fun e => customEntryOk (e.map fun b => b.1.toNat)) then (.inl 0x2004, s)
        else if 4 * 2 ^ 20 < (overlap x).2 - (overlap x).1 then (.inl 0x2002, s)
        else (.inr { kept := bytes ++ tab.flatMap fun e => e.map (·.1), os := os, od := od }, s)

/-- Hold a core's staging buffer for a descriptor. -/
def holdStaging (core : Nat) (id : Nat) (s : Sled) : Sled :=
  { s with vc := fset s.vc {} core { fget s.vc {} core with staging := some id } }

/-- Insert a descriptor among the waiters for the staging buffer, in start order (R256). -/
def insWaiter (core : Nat) (s : Sled) (d : Desc) : List Nat → List Nat
  | [] => [d.id]
  | i :: l =>
    let o := match (descs s core).find? fun e => e.id = i with
      | some e => e.order
      | none => 0
    if d.order < o then d.id :: i :: l else i :: insWaiter core s d l

/-- LAYOUT (R247-R263): started, or gone on with where it paused; a move that needs staging waits while another holds the
buffer (R256). -/
def fxLayout (core q k : Nat) (s : Sled) : Sled :=
  onStarted core q k 0x03 (fun d s =>
    let v := fget s.vc {} core
    if v.stagingQ.contains d.id then s
    else match d.lu with
      | some r => luResume core d r s
      | none =>
        match layoutStart core d s with
        | (.inl code, s) => descFault core d code (tdArg core (dField d 0x18 8)) s
        | (.inr r, s) =>
          if !staged r.tensor then luBegin core d r s
          else if v.staging = none ∧ v.stagingQ = [] then luBegin core d r (holdStaging core d.id s)
          else
            let s := setLu core d.id r s
            let v := fget s.vc {} core
            { s with vc := fset s.vc {} core { v with stagingQ := insWaiter core s d v.stagingQ } }) s

/-- LAYOUT_STAGING_GRANT (R256): the buffer is free, and the first waiter stages, from the tensor descriptor and lane table
it read at its start (R247, R251). -/
def fxLayoutStagingGrant (core : Nat) (s : Sled) : Sled :=
  let v := fget s.vc {} core
  match v.staging, v.stagingQ with
  | none, id :: rest =>
    let s := { s with vc := fset s.vc {} core { v with stagingQ := rest } }
    match (descs s core).find? fun e => e.id = id with
    | none => s
    | some d =>
      match d.lu with
      | some r => luBegin core d r (holdStaging core id s)
      | none => s
  | _, _ => s

/-! ## The meanings -/

def execLayout (core : CoreId) (q : Fin 16) (k : Fin 8) (s : State) := liftHold (fxLayout core.val q.val k.val) s
def execLayoutStagingGrant (core : CoreId) (s : State) := liftHold (fxLayoutStagingGrant core.val) s

end Sys2Proof.Machine
end

