-- ==== Sys2Proof/Machine/FlashMap.lean ====
section
/-! DEFINITION. The configuration flash: its layout by byte address (spec/04, R72), the directory copies as bytes (R73),
records kept as two copies (spec/20, R387), and the trials of switched components (spec/20, R399). -/

namespace Sys2Proof

/-- The copy of higher sequence number of a record kept as two copies (spec/20, R387; spec/04, R73). -/
def TwoCopy.cur {α : Type} (t : TwoCopy α) : Option α :=
  match t.a, t.b with
  | some x, some y => some (if x.1 < y.1 then y.2 else x.2)
  | some x, none => some x.2
  | none, some y => some y.2
  | none, none => none

/-- Write a record: the copy not in use takes it with the next sequence number. -/
def TwoCopy.write {α : Type} (v : α) (t : TwoCopy α) : TwoCopy α :=
  match t.a, t.b with
  | some x, some y => if x.1 < y.1 then { t with a := some (y.1 + 1, v) } else { t with b := some (x.1 + 1, v) }
  | some x, none => { t with b := some (x.1 + 1, v) }
  | none, some y => { t with a := some (y.1 + 1, v) }
  | none, none => { t with a := some (1, v) }

end Sys2Proof

namespace Sys2Proof.Machine

open Sys2Proof

/-! ## CRC-32C -/

/-- Eight shifts of the reflected Castagnoli polynomial. -/
def crcShift : Nat → Nat → Nat
  | 0, c => c
  | n + 1, c => crcShift n (if c % 2 = 1 then (c / 2) ^^^ 0x82F63B78 else c / 2)

/-- CRC-32C of a byte string. -/
def crc32c (l : List Byte) : Nat :=
  (l.foldl (fun c b => crcShift 8 (c ^^^ b.toNat)) 0xFFFFFFFF) ^^^ 0xFFFFFFFF

/-! ## Layout (R72) -/

/-- The areas of Table 4-1: first byte and size. The last is reserved and stays erased. -/
def flashAreas : List (Nat × Nat) :=
  [(0x0000000, 0x8000), (0x0008000, 0x8000), (0x0010000, 0x10000), (0x0100000, 0x100000), (0x0200000, 0x100000),
   (0x1000000, 0x800000), (0x1800000, 0x800000), (0x2000000, 0x400000), (0x2400000, 0x400000), (0x2800000, 0x400000),
   (0x2C00000, 0x400000), (0x3000000, 0x1000000), (0x4000000, 0x2000000), (0x6000000, 0x2000000)]

/-- Flash byte addresses of the objects of Table 4-1: slots 0 (A) and 1 (B), copies 0 (A) and 1 (B), generations. -/
def keeperAt (slot : Nat) : Nat := 0x100000 * (1 + slot % 2)
def runtimeAt (slot : Nat) : Nat := 0x1000000 + slot % 2 * 0x800000
def profAt (n copy : Nat) : Nat := 0x2000000 + n % 4 * 0x400000 + copy % 2 * 0x200000
def trainAt (gen st : Nat) : Nat := 0x3000000 + gen % 2 * 0x800000 + st * 0x80000

/-- Entry of the event log with sequence number `n`: its sector, past the sector's header (spec/20, R397). -/
def logAt (n : Nat) : Nat := 0x4000000 + n / 1023 % 512 * 0x10000 + 64 + n % 1023 * 64

/-- Bytes that a component's slot or copy holds (Table 4-1; Table 20-1 for the key store). -/
def slotSize (comp : Nat) : Nat :=
  if comp = 1 then 0x100000 else if comp = 2 then 0x800000 else if comp = 0x20 then 0x4000 else 0x200000

/-! ## Directory (R73) -/

/-- The fields of a directory copy before its CRC (Table 4-2). -/
def dirBody (d : Dir) : List Byte :=
  leBytes 4 0x4E5A4449 ++ leBytes 4 d.seq ++ leBytes 1 d.kprSlot ++ leBytes 1 d.rtSlot ++
  (List.range 4).flatMap (fun i => leBytes 1 (nth d.profCopy i)) ++ leBytes 2 d.trainGen ++
  (List.range 4).flatMap (fun i => leBytes 4 (nth d.versions i)) ++ List.replicate 28 0

/-- The 64 bytes of a directory copy. -/
def dirBytes (d : Dir) : List Byte := dirBody d ++ leBytes 4 (crc32c (dirBody d))

/-- Field of `n` bytes at offset `off` of a byte string, little-endian. -/
def byteField (l : List Byte) (off n : Nat) : Nat := leNat ((l.drop off).take n)

/-- The fields of a directory copy. -/
def dirFields (l : List Byte) : Dir :=
  { seq := byteField l 4 4, kprSlot := byteField l 8 1, rtSlot := byteField l 9 1
    profCopy := (List.range 4).map fun i => byteField l (0x0A + i) 1
    trainGen := byteField l 0x0E 2
    versions := (List.range 4).map fun i => byteField l (0x10 + 4 * i) 4 }

/-- A copy is valid when its magic matches and its CRC-32C is correct. -/
def dirValid (l : List Byte) : Bool :=
  l.length = 64 && byteField l 0 4 = 0x4E5A4449 && byteField l 0x3C 4 = crc32c (l.take 0x3C)

/-- A directory copy, where it is valid. -/
def dirParse (l : List Byte) : Option Dir := if dirValid l then some (dirFields l) else none

/-- The valid directory copy of higher sequence number, if any. -/
def dirCur (s : Sled) : Option Dir :=
  match dirParse s.fl.dir0, dirParse s.fl.dir1 with
  | some x, some y => some (if x.seq < y.seq then y else x)
  | some x, none => some x
  | none, some y => some y
  | none, none => none

/-- What the keeper proceeds with: slot A and copy A everywhere where no copy is valid. -/
def dirOf (s : Sled) : Dir :=
  (dirCur s).getD { seq := 0, kprSlot := 0, rtSlot := 0, profCopy := [0, 0, 0, 0], trainGen := 0, versions := [] }

/-- A changed directory goes into the other copy, with the next sequence number. -/
def dirWrite (f : Dir → Dir) (s : Sled) : Sled :=
  let d := dirBytes { f (dirOf s) with seq := (dirOf s).seq + 1 }
  let in0 : Bool := match dirParse s.fl.dir0, dirParse s.fl.dir1 with
    | some x, some y => decide (y.seq ≤ x.seq)
    | some _, none => true
    | none, _ => false
  if in0 then { s with fl := { s.fl with dir1 := d } } else { s with fl := { s.fl with dir0 := d } }

/-! ## Trials (spec/20, R399) -/

/-- Component codes of trial records: 1 keeper, 2 runtime, 0x10 + n profile n (Table 20-7); 0x1001: the keeper's trial
slot has been started. -/
def trials (s : Sled) : FMap Nat := s.fl.trial.cur.getD []

def setTrials (m : FMap Nat) (s : Sled) : Sled := { s with fl := { s.fl with trial := s.fl.trial.write m } }

/-- The component in use as its trial names it: a switched slot or copy not yet committed. -/
def onTrial (s : Sled) (comp used : Nat) : Bool := ffind (trials s) comp = some used

/-- The directory names slot or copy `x` for a component. -/
def dirSet (comp x : Nat) (d : Dir) : Dir :=
  if comp = 1 then { d with kprSlot := x }
  else if comp = 2 then { d with rtSlot := x }
  else { d with profCopy := d.profCopy.set (comp - 0x10) x }

/-- Slot or copy that the directory names for a component. -/
def dirGet (s : Sled) (comp : Nat) : Nat :=
  if comp = 1 then (dirOf s).kprSlot
  else if comp = 2 then (dirOf s).rtSlot
  else nth (dirOf s).profCopy (comp - 0x10)

/-- A trial fails: the directory switches back, and KPR_ROLLBACK is logged. -/
def trialFail (comp used : Nat) (s : Sled) : Sled :=
  if !onTrial s comp used then s
  else
    let s := setTrials (ferase (ferase (trials s) comp) (if comp = 1 then 0x1001 else comp)) s
    logRec (mkRec 0xA003 0) (dirWrite (dirSet comp (1 - used)) s)

/-- A start that ends in watch-only fails the trials of the profile copy and the runtime slot that it used (R399). -/
def startTrialsFail (s : Sled) : Sled :=
  let s := if s.kpr.digProf.isSome then trialFail (0x10 + s.kpr.prof) s.kpr.copy s else s
  if s.kpr.digRt.isSome then trialFail 2 s.kpr.rtSlot s else s

end Sys2Proof.Machine
end

