-- ==== Sys2Proof/Machine/Streams.lean ====
section
/-! DEFINITION. The recurrent stream engine (spec/14): gate curves, bodies and slots, steps, capsules, and the
operations of its descriptors. -/

namespace Sys2Proof.Machine

open Sys2Proof

/-! ## Gate curves (R268-R271) -/

/-- FP32 word `i` of a byte string. -/
def f32At (l : List Byte) (off : Nat) : FVal := decodeF fp32 (leNat ((l.drop off).take 4))

/-- A valid curve image (R268). -/
def pwlValid (l : List Byte) : Bool :=
  l.length = 224 &&
  f32At l 0 = .fin true 8388608 (-20) && f32At l 64 = .fin false 8388608 (-20) &&
  (List.range 16).all (fun i => match (f32At l (4 * i + 4)).sub (f32At l (4 * i)) with
    | .fin false m _ => m ≠ 0
    | _ => false) &&
  (List.range 53).all (fun i => !(f32At l (4 * i)).nonFinite) &&
  leNat ((l.drop 0xD4).take 8) = 0 && leNat ((l.drop 0xDC).take 4) = crc32c (l.take 0xDC)

/-- The curve's value (R269): product and sum exact, rounded once. -/
def pwlEval (l : List Byte) (u : FVal) : FVal :=
  let line (off : Nat) : FVal := roundF fp32 (((f32At l off).mul u).add (f32At l (off + 4)))
  let ge (off : Nat) : Bool := !u.lt (f32At l off) || u = .fin true 0 (-149) && f32At l off = .fin false 0 (-149)
  if u = .nan then .nan
  else if !ge 0 then line 0xC4
  else if ge 64 then line 0xCC
  else
    match ((List.range 16).reverse).find? fun i => ge (4 * i) with
    | some i => line (0x44 + 8 * i)
    | none => line 0xC4

/-- n ÷ d as an FP32 bit pattern, rounded once to nearest, ties to even. -/
def ratF32 (n : Int) (d : Nat) : Nat :=
  let a := n.natAbs * 2 ^ 200
  encodeF fp32 (.fin (n < 0) (a / d * 2 + (if a % d = 0 then 0 else 1)) (-201))

/-- Breakpoints of the default curves in halves (R271). -/
def pwlHalves : List Int := [-16, -8, -6, -5, -4, -3, -2, -1, 0, 1, 2, 3, 4, 5, 6, 8, 16]

/-- Values of the default curves for u ≥ 0, in units of 10^-7 (Table 14-3). -/
def pwlTable (k : Nat) : List Int :=
  if k = 0 then [5000000, 6224593, 7310586, 8175745, 8807971, 9241418, 9525741, 9820138, 9996646]
  else if k = 1 then [0, 4621172, 7615942, 9051483, 9640276, 9866143, 9950548, 9993293, 9999998]
  else [6931472, 9740770, 13132617, 17014133, 21269280, 25789293, 30485874, 40181499, 80003355]

/-- Value at breakpoint `i`, in units of 10^-7: for u < 0 by symmetry (R271). -/
def pwlAt (k i : Nat) : Int :=
  if 8 ≤ i then (pwlTable k).getD (i - 8) 0
  else
    let f := (pwlTable k).getD (8 - i) 0
    if k = 0 then 10000000 - f else if k = 1 then -f
    else f + pwlHalves.getD i 0 * 5000000

/-- Default curve image `k` (R271, Table 14-2). -/
def pwlDefault (k : Nat) : List Byte :=
  let h (i : Nat) : Int := pwlHalves.getD i 0
  let us := (List.range 17).flatMap fun i => leBytes 4 (ratF32 (h i) 2)
  let seg := (List.range 16).flatMap fun i =>
    let dy := pwlAt k (i + 1) - pwlAt k i
    let dx := h (i + 1) - h i
    -- slope dy/10^7 ÷ dx/2; intercept f − slope × u
    leBytes 4 (ratF32 (2 * dy) (10000000 * dx.toNat)) ++
      leBytes 4 (ratF32 (pwlAt k i * dx - dy * h i) (10000000 * dx.toNat))
  let outer := (if k = 0 then [0, 0, 0, 1] else if k = 1 then [0, -1, 0, 1] else [0, 0, 1, 0] : List Int).flatMap
    fun x => leBytes 4 (ratF32 x 1)
  let body := us ++ seg ++ outer ++ List.replicate 8 0
  body ++ leBytes 4 (crc32c body)

/-- Load curve `i` from an image, if it is valid (R270). -/
def loadCurve (i : Nat) (img : List Byte) (s : Sled) : Sled :=
  if pwlValid img then { s with ste := { s.ste with curves := fput s.ste.curves i img } } else s

/-! ## Bodies (R264, R277, R283) -/

/-- State words and parameter words per channel (Table 14-1). -/
def kindWords (kind n : Nat) : Nat × Nat :=
  if kind = 0 then (1, 1) else if kind = 1 then (1, 2) else if kind = 2 then (2, 3)
  else if kind = 3 then (n - 1, n) else (1, 2)

/-- Arrays of the state area: each state word once, or as hi and lo. -/
def stateArrays (t : Strm) : Nat := (kindWords t.kind t.n).1 * (if t.comp then 2 else 1)

/-- Bytes of the body (R277). -/
def bodyLen (t : Strm) : Nat := 4 * t.c * (stateArrays t + (kindWords t.kind t.n).2)

/-- Slots of the body (R277). -/
def bodySlots (t : Strm) : Nat := ceilDiv (bodyLen t) 16384

/-- Local address of a slot. -/
def slotAddr (i : Nat) : Nat := 0x8200000000 + i * 16384

/-- Read a resident body from its slots. -/
def readSlots : List Nat → Nat → Sled → List (Byte × Bool) × Sled
  | [], _, s => ([], s)
  | i :: l, n, s =>
    let k := min n 16384
    let ((b, _), s) := readLocal (slotAddr i) k s
    let (rest, s) := readSlots l (n - k) s
    (b ++ rest, s)

/-- Write a resident body into its slots. -/
def writeSlots : List Nat → List (Byte × Bool) → Sled → Sled
  | [], _, s => s
  | i :: l, b, s => writeSlots l (b.drop 16384) (writeLocal (slotAddr i) (b.take 16384) s)

/-- Read a stream's body where it lies, for requester `w`: from its slots, or from HOME, which is counted (R289). -/
def readBody (w : Who) (t : Strm) (s : Sled) : List (Byte × Bool) × Sled :=
  if t.resident then readSlots t.slots (bodyLen t) s
  else
    let ((b, _), s) := readFor w t.home (bodyLen t) s
    (b, bump bSTE 0x400 s)

/-- Put a stream's entry. -/
def putStrm (id : Nat) (t : Strm) (s : Sled) : Sled :=
  { s with ste := { s.ste with streams := fput s.ste.streams id t } }

/-- Stream named by a descriptor. -/
def dStream (d : Desc) : Nat := bitsOf (dField d 0x18 4) 0 20

/-- A started operation on stream `id` that has not taken effect: STEP, EXPORT, PAUSE or SEND. -/
def opOn (id : Nat) (d : Desc) : Bool := d.stage = 1 && d.opc ∈ [0x61, 0x62, 0x64, 0x65] && dStream d = id

/-- End a stream: its slots are free, and operations on it that have started no longer have a stream, whoever is registered
under its ID later (R275). -/
def endStrm (id : Nat) (s : Sled) : Sled :=
  { s with ste := { s.ste with
      streams := ferase s.ste.streams id
      descs := s.ste.descs.map fun d => if opOn id d then { d with orphan := true } else d } }

/-! ## Slots and residence (R278, R279) -/

/-- Slots that tenant `t` holds. -/
def slotsUsed (s : Sled) (t : Nat) : Nat :=
  s.ste.streams.foldl (fun a p => if p.2.tenant = t && p.2.resident then a + p.2.slots.length else a) 0

/-- Slot quota of tenant `t`. -/
def slotQuota (s : Sled) (t : Nat) : Nat := rField s bSTE (0x300 + 8 * t) 0 13

/-- The lowest `n` free slots (notes/assumptions/22). -/
def freeSlots (s : Sled) (n : Nat) : List Nat :=
  let used := s.ste.streams.flatMap fun p => if p.2.resident then p.2.slots else []
  ((List.range 4096).filter fun i => !used.contains i).take n

/-- Whether an operation on a stream, other than descriptor `me`, has started and not completed. -/
def strmBusy (s : Sled) (id me : Nat) : Bool :=
  s.ste.descs.any fun d => d.id ≠ me && d.stage ≠ 0 && d.opc ≠ 0x0F && dStream d = id

/-- Write the body of a resident stream to its HOME and free its slots (R279). -/
def evict (w : Who) (id : Nat) (s : Sled) : Sled :=
  match ffind s.ste.streams id with
  | some t =>
    let (b, s) := readBody w t s
    bump bSTE 0x408 (putStrm id { t with resident := false, slots := [] } (writeFor w t.home b s))
  | none => s

/-- Eviction order: paused streams first, then the least recently stepped (R279). -/
def evictBefore (a b : Nat × Strm) : Bool :=
  if a.2.paused = b.2.paused then a.2.lastStep ≤ b.2.lastStep else a.2.paused

/-- Insert by eviction order. -/
def evictInsert (x : Nat × Strm) : List (Nat × Strm) → List (Nat × Strm)
  | [] => [x]
  | y :: l => if evictBefore x y then x :: y :: l else y :: evictInsert x l

/-- The tenant's resident unpinned streams that are idle, or not, in eviction order. -/
def victims (s : Sled) (t me : Nat) (busy : Bool) : List (Nat × Strm) :=
  (s.ste.streams.filter fun p => p.2.tenant = t && p.2.resident && !p.2.pin && strmBusy s p.1 me = busy).foldl
    (fun l x => evictInsert x l) []

/-- Evict victims until `need` slots lie within the quota. -/
def evictUntil (w : Who) (t need : Nat) : List (Nat × Strm) → Sled → Sled
  | [], s => s
  | v :: l, s =>
    if slotsUsed s t + need ≤ slotQuota s t then s else evictUntil w t need l (evict w v.1 s)

/-- Slots held by a list of streams. -/
def slotSum (l : List (Nat × Strm)) : Nat := l.foldl (fun a p => a + p.2.slots.length) 0

/-- Whether `need` slots can be obtained for tenant `t`: 0 now (evicting idle streams), 1 once busy ones are
idle, 2 not, for pinned streams alone keep the quota short (R279). -/
def slotVerdict (s : Sled) (t me need : Nat) : Nat :=
  let have_ := slotsUsed s t + need
  let q := slotQuota s t
  let idle := slotSum (victims s t me false)
  let busy := slotSum (victims s t me true)
  if have_ ≤ q + idle then 0 else if have_ ≤ q + idle + busy then 1 else 2

/-- Bring a swapped-out stream in: its body is read from HOME (R279). -/
def swapIn (w : Who) (id : Nat) (t : Strm) (s : Sled) : Sled :=
  let (b, s) := readBody w t s
  let slots := freeSlots s (bodySlots t)
  putStrm id { t with resident := true, slots := slots } (writeSlots slots b s)

/-! ## Order and residence of an operation (R275, R279) -/

/-- The cycle of the engine's clock in which a descriptor started (spec/01, Table 1-3). -/
def startCycle (s : Sled) (d : Desc) : Nat :=
  d.startAt * (match s.prof with
    | some p => p.cfg.steClk
    | none => 60) / (40 * ns)

/-- Whether descriptor `e` comes before `d`: in order of start, and of those that start in one cycle from different queues the
lower queue first (R275). -/
def startsBefore (s : Sled) (e d : Desc) : Bool :=
  if startCycle s e = startCycle s d ∧ e.q ≠ d.q then e.q < d.q else e.order < d.order

/-- Whether an earlier-started operation on the same stream has not completed (R275). -/
def earlierOp (s : Sled) (d : Desc) : Bool :=
  s.ste.descs.any fun e => e.id ≠ d.id && e.stage ≠ 0 && startsBefore s e d &&
    e.opc ∈ [0x61, 0x62, 0x64, 0x65] && dStream e = dStream d

/-- The registered stream that a descriptor names, if the queue's tenant registered it and no earlier-started descriptor has
ended the stream that it named (R275). -/
def strmOf (s : Sled) (d : Desc) : Option Strm :=
  if d.orphan then none
  else match ffind s.ste.streams (dStream d) with
    | some t => if t.tenant = qTen s 8 d.q then some t else none
    | none => none

/-- Run an operation on its stream, first bringing the stream in (R275, R279); an operation that has to wait for
a victim is queued and counted once. `bar` is the code with which it faults before anything changes, 0 for none (R276). -/
def onStream (d : Desc) (resident : Bool) (bar : Strm → Sled → Nat) (f : Strm → Sled → Sled) (s : Sled) : Sled :=
  if earlierOp s d then s else
  match strmOf s d with
  | none => descFault 8 d 0x6001 0 s
  | some t =>
    if bar t s ≠ 0 then descFault 8 d (bar t s) 0 s
    else if t.resident || !resident then f t s
    else
      let w := whoQ s 8 d.q
      let v := slotVerdict s t.tenant d.id (bodySlots t)
      if v = 2 then descFault 8 d 0x6003 0 s
      else
        let s := evictUntil w t.tenant (bodySlots t) (victims s t.tenant d.id false) s
        if v = 1 then
          if s.ste.evictQ.contains d.id then s
          else bump bSTE 0x410 { s with ste := { s.ste with evictQ := s.ste.evictQ ++ [d.id] } }
        else
          let s := { s with ste := { s.ste with evictQ := s.ste.evictQ.filter (· ≠ d.id) } }
          let s := swapIn w (dStream d) t s
          match strmOf s d with
          | some t => f t s
          | none => s

/-- Register a stream with its body (R274): resident where slots can be had, else its body goes to HOME. -/
def register (d : Desc) (id : Nat) (t : Strm) (body : List (Byte × Bool)) (s : Sled) : Sled :=
  let need := bodySlots t
  let s := { s with ste := { s.ste with stamp := s.ste.stamp + 1 } }
  let t := { t with lastStep := s.ste.stamp }
  if slotVerdict s t.tenant d.id need = 0 then
    let s := evictUntil (whoQ s 8 d.q) t.tenant need (victims s t.tenant d.id false) s
    let slots := freeSlots s need
    putStrm id { t with resident := true, slots := slots } (writeSlots slots body s)
  else putStrm id t (writeFor (whoQ s 8 d.q) t.home body s)

/-! ## SREG (R274) -/

/-- The stream that an SREG describes. -/
def sregStrm (s : Sled) (d : Desc) : Strm :=
  let fl := dField d 0x1F 1
  { tenant := qTen s 8 d.q, kind := dField d 0x1E 1, c := dField d 0x1C 2, n := bitsOf fl 4 4 + 1
    comp := bitAt fl 0, pin := bitAt fl 1, pwl := dField d 0x30 1, home := dField d 0x20 8 }

/-- Why a new stream cannot be registered: its ID is in use, its curve is invalid, or its slots exceed the
quota (R270, R274). -/
def registerBar (s : Sled) (id : Nat) (t : Strm) : Nat :=
  if (ffind s.ste.streams id).isSome then 0x6001
  else if t.kind = 4 && (ffind s.ste.curves t.pwl).isNone then 0x6006
  else if slotQuota s t.tenant < bodySlots t then 0x6003
  else 0

/-- HOME lies in the tenant's DRAM regions and has room for the body (R274). -/
def homeOk (s : Sled) (t : Strm) : Bool := t.home + bodyLen t ≤ 2 ^ 39 && reachOk s t.tenant t.home (bodyLen t)

/-- SREG (R274). -/
def fxSreg (q k : Nat) (s : Sled) : Sled :=
  onStarted 8 q k 0x60 (fun d s =>
    let t := sregStrm s d
    let init := dField d 0x28 8
    let z := bitAt (dField d 0x1F 1) 2
    let skip := if z then 4 * t.c * stateArrays t else 0
    if !(homeOk s t && reachOk s t.tenant (init + skip) (bodyLen t - skip)) then descFault 8 d 0xB003 0 s
    else
      let bar := registerBar s (dStream d) t
      if bar ≠ 0 then descFault 8 d bar 0 s
      else
        let ((b, _), s) := readLocal (init + skip) (bodyLen t - skip) s
        opDone 8 d.id (register d (dStream d) t (List.replicate skip ((0 : Byte), false) ++ b) s)) s

/-! ## STEP (R264-R267, R281, R287) -/

/-- One FP32 word of an area of arrays: array `a`, channel `ch`. -/
def areaWord (c : Nat) (l : List (Byte × Bool)) (a ch : Nat) : FVal × Bool :=
  let p := (l.drop (4 * (c * a + ch))).take 4
  (decodeF fp32 (leNat (p.map (·.1))), p.any (·.2))

/-- Clamp to [0, 1]; NaN stays. -/
def clamp01 (v : FVal) : FVal :=
  let one : FVal := .ofInt 1
  match v with
  | .nan => .nan
  | v => if v.lt (.fin false 0 0) then .fin false 0 0 else if one.lt v then one else v

/-- The new value of an updated state word: rounded once, or as hi and lo (R265, R266). -/
def storeState (comp : Bool) (v : FVal) : List FVal :=
  let hi := roundF fp32 v
  if comp then [hi, roundF fp32 (v.sub hi)] else [hi]

/-- Update one channel (Table 14-1): parameters, state arrays (hi, lo pairs with COMP), input, gate: the new
state arrays and the output before narrowing. -/
def stepChannel (t : Strm) (curve : List Byte) (p st : List FVal) (x g : FVal) : List FVal × FVal :=
  let one : FVal := .ofInt 1
  let pr (i : Nat) : FVal := p.getD i .nan
  let h (i : Nat) : FVal :=
    if t.comp then (st.getD (2 * i) .nan).add (st.getD (2 * i + 1) .nan) else st.getD i .nan
  let out (l : List FVal) : FVal := if t.comp then (l.getD 0 .nan).add (l.getD 1 .nan) else l.getD 0 .nan
  if t.kind = 0 then
    let n := storeState t.comp (((pr 0).mul (h 0)).add ((one.sub (pr 0)).mul x))
    (n, out n)
  else if t.kind = 1 then
    let n := storeState t.comp (((pr 0).mul (h 0)).add ((pr 1).mul x))
    (n, out n)
  else if t.kind = 2 then
    let n := storeState t.comp ((((pr 0).mul (h 0)).add ((pr 1).mul (h 1))).add ((pr 2).mul x))
    (n ++ st.take (if t.comp then 2 else 1), out n)
  else if t.kind = 3 then
    let xs := x :: st
    (xs.take (t.n - 1), roundF fp32 (sumF ((p.zip xs).map fun (a, b) => a.mul b)))
  else
    let u := roundF fp32 (((pr 0).mul g).add (pr 1))
    let a := clamp01 (pwlEval curve u)
    let n := storeState t.comp ((a.mul (h 0)).add ((one.sub a).mul x))
    (n, out n)

/-- A STEP input element (R273). -/
def stepIn (f x : Nat) : FVal :=
  if f = 0 then decodeF bf16 x else if f = 1 then decodeF e4m3 x else if f = 2 then decodeF e5m2 x
  else decodeF fp16 x

/-- Bytes of a STEP input element. -/
def stepInBytes (f : Nat) : Nat := if f = 1 ∨ f = 2 then 1 else 2

/-- A STEP output format. -/
def stepOut (f : Nat) : Fmt := if f = 0 then bf16 else if f = 3 then fp16 else fp32

/-- One position for every channel: state arrays as lists of channels with their poison, the input rows. A
poisoned state word covers 8 channels (R287). Answers the new states and the outputs. -/
def stepPosition (t : Strm) (curve : List Byte) (ps : List (List FVal × Bool)) (st : List (List FVal × Bool))
    (xs gs : List (FVal × Bool)) : List (List FVal × Bool) × List (FVal × Bool) :=
  let rows := (List.range t.c).map fun ch =>
    let (p, pp) := ps.getD ch ([], false)
    let (h, hp) := st.getD ch ([], false)
    let (x, xp) := xs.getD ch (.nan, false)
    let (g, gp) := gs.getD ch (.fin false 0 0, false)
    let (n, y) := stepChannel t curve p h x g
    (n, y, pp || hp || xp || gp)
  let spread := (List.range (t.c / 8)).map fun i => ((rows.drop (8 * i)).take 8).any fun r => r.2.2
  (rows.zipIdx.map fun (r, ch) => (r.1, spread.getD (ch / 8) false), rows.map fun r => (r.2.1, r.2.2))

/-- What a STEP has met: a poisoned output, and a state word that is not finite after some position (R267). -/
structure StepMet where
  poison : Bool := false
  bad : Bool := false
  deriving DecidableEq, Repr

/-- Positions one after another: each reads its input rows, updates, and writes its output row. -/
def stepRun (t : Strm) (d : Desc) (ps : List (List FVal × Bool)) :
    Nat → Nat → List (List FVal × Bool) → StepMet → Sled → List (List FVal × Bool) × StepMet × Sled
  | 0, _, st, m, s => (st, m, s)
  | n + 1, i, st, m, s =>
    let fi := d.fmt % 16
    let w := stepInBytes fi
    let ldx := dField d 0x38 4
    let row (base : Nat) (s : Sled) : List (FVal × Bool) × Sled :=
      let ((b, _), s) := readLocal (base + i * ldx) (t.c * w) s
      ((List.range t.c).map fun ch =>
        let (x, p) := rowElem (8 * w) b ch
        (stepIn fi x, p), s)
    let (xs, s) := row (dField d 0x20 8) s
    let (gs, s) := if t.kind = 4 then row (dField d 0x28 8) s else ([], s)
    let (st, ys) := stepPosition t (fget d.curves [] t.pwl) ps st xs gs
    let f := stepOut (d.fmt / 16)
    let s := if bitAt d.flags 4 then s
      else writeLocal (dField d 0x30 8 + i * dField d 0x3C 4)
        (ys.flatMap fun (y, p) => (leBytes f.bytes (encodeF f y)).map fun b => (b, p)) s
    stepRun t d ps n (i + 1) st
      { poison := m.poison || ys.any (·.2), bad := m.bad || st.any fun r => r.1.any FVal.nonFinite } s

/-- Rows of a STEP are within reach (R190). -/
def stepReach (s : Sled) (t : Strm) (d : Desc) : Bool :=
  let w := t.c * stepInBytes (d.fmt % 16)
  let y := t.c * (stepOut (d.fmt / 16)).bytes
  (List.range (dField d 0x1C 4)).all fun i =>
    reachOk s t.tenant (dField d 0x20 8 + i * dField d 0x38 4) w &&
    (t.kind ≠ 4 || reachOk s t.tenant (dField d 0x28 8 + i * dField d 0x38 4) w) &&
    (bitAt d.flags 4 || reachOk s t.tenant (dField d 0x30 8 + i * dField d 0x3C 4) y)

/-- Why a STEP that starts faults before it changes anything: its stream is paused (R276), its curve is invalid (R270), or a
row is beyond reach (R190). -/
def stepBar (d : Desc) (t : Strm) (s : Sled) : Nat :=
  if t.paused then 0x6004
  else if t.kind = 4 && !pwlValid (fget d.curves [] t.pwl) then 0x6006
  else if !stepReach s t d then 0xB003
  else 0

/-- STEP's effect on its stream. -/
def stepEffect (d : Desc) (t : Strm) (s : Sled) : Sled :=
  let (b, s) := readBody (whoQ s 8 d.q) t s
  let na := stateArrays t
  let np := (kindWords t.kind t.n).2
  let words (lo n : Nat) : List (List FVal × Bool) := (List.range t.c).map fun ch =>
    let l := (List.range n).map fun a => areaWord t.c b (lo + a) ch
    (l.map (·.1), l.any (·.2))
  let (st, m, s) := stepRun t d (words na np) (dField d 0x1C 4) 0 (words 0 na) {} s
  let area := (List.range na).flatMap fun a => st.flatMap fun (h, p) =>
    (leBytes 4 (encodeF fp32 (h.getD a .nan))).map fun x => (x, p)
  let s := writeSlots t.slots (area ++ b.drop (4 * t.c * na)) s
  let s := if m.bad && !t.nonfin then
      bump bSTE 0x418 (logRec { recWho s 0x6005 (whoQ s 8 d.q) with object := dStream d } s)
    else s
  let s := if m.poison then logPoison 8 d.id s else s
  let s := { s with ste := { s.ste with stamp := s.ste.stamp + 1 } }
  let s := putStrm (dStream d)
    { t with pos := t.pos + dField d 0x1C 4, nonfin := t.nonfin || m.bad, lastStep := s.ste.stamp } s
  opDone 8 d.id (progress t.tenant s)

/-- STEP (R281). -/
def fxStep (q k : Nat) (s : Sled) : Sled :=
  onStarted 8 q k 0x61 (fun d s => onStream d true (stepBar d) (stepEffect d) s) s

/-! ## Capsules (R282-R286) -/

/-- The capsule's flag byte (Table 14-5). -/
def capFlags (t : Strm) : Nat := b2n t.comp + 2 * b2n t.pin + (if t.kind = 3 then (t.n - 1) * 16 else 0)

/-- The digest of a curve: its CRC (Table 14-2). -/
def curveDigest (s : Sled) (i : Nat) : Nat := leNat (((fget s.ste.curves [] i).drop 0xDC).take 4)

/-- The capsule's header (Table 14-5). -/
def capHeader (s : Sled) (id ver : Nat) (t : Strm) : List Byte :=
  leBytes 4 0x53435A4E ++ leBytes 2 ver ++ leBytes 1 t.kind ++ leBytes 1 (capFlags t) ++ leBytes 2 t.c ++
  leBytes 1 (if t.kind = 4 then t.pwl else 0) ++ leBytes 1 0 ++ leBytes 4 (bodyLen t) ++ leBytes 8 t.pos ++
  leBytes 4 id ++ leBytes 1 (moduleId s) ++ leBytes 1 t.tenant ++ leBytes 2 0 ++
  leBytes 4 (if t.kind = 4 then curveDigest s t.pwl else 0) ++ List.replicate 28 0

/-- The limits of version 0x0001 (R286). -/
def v1Ok (t : Strm) : Bool := t.kind ∈ [0, 1, 4] && !t.comp && t.c ≤ 8192 && (t.kind ≠ 4 || t.pwl ≤ 2)

/-- A capsule of a stream, with the poison of its words. -/
def capsule (w : Who) (id ver : Nat) (t : Strm) (s : Sled) : List (Byte × Bool) × Sled :=
  let (b, s) := readBody w t s
  let h := cleanBytes (capHeader s id ver t)
  let all := h ++ b
  (all ++ cleanBytes (leBytes 4 (crc32c (all.map (·.1)))), s)

/-- No code bars an operation before its stream is brought in. -/
def noBar (_ : Strm) (_ : Sled) : Nat := 0

/-- EXPORT's effect (R284). -/
def exportEffect (d : Desc) (t : Strm) (s : Sled) : Sled :=
  let v1 := bitAt d.flags 5
  let dst := dField d 0x20 8
  let n := 68 + bodyLen t
  if dField d 0x28 4 < n ∨ (v1 && !v1Ok t) then descFault 8 d 0x6002 0 s
  else if !rowOk s t.tenant dst n then descFault 8 d 0xB003 0 s
  else
    let (c, s) := capsule (whoQ s 8 d.q) (dStream d) (if v1 then 1 else 2) t s
    let s := writeGlobal d.id t.tenant dst c s
    opDone 8 d.id (if bitAt d.flags 4 then endStrm (dStream d) s else s)

/-- EXPORT (R284). -/
def fxStrExport (q k : Nat) (s : Sled) : Sled :=
  onStarted 8 q k 0x62 (fun d s => onStream d true noBar (exportEffect d) s) s

/-- The stream that a capsule's header describes (Table 14-5). -/
def capStrm (h : List Byte) (t home : Nat) (pin : Bool) : Strm :=
  let b (o n : Nat) : Nat := leNat ((h.drop o).take n)
  let fl := b 7 1
  { tenant := t, kind := b 6 1, c := b 8 2, n := bitsOf fl 4 4 + 1, comp := bitAt fl 0, pin := pin
    pwl := b 0xA 1, home := home, pos := b 0x10 8 }

/-- Shapes that Table 14-1 and R264 allow. -/
def shapeOk (t : Strm) : Bool :=
  t.kind ≤ 4 && 32 ≤ t.c && t.c ≤ 16384 && t.c % 32 = 0 &&
  (if t.kind = 3 then 2 ≤ t.n && t.n ≤ 16 && !t.comp else t.n = 1)

/-- The checks of Table 14-6: 0, or the reason of the first that fails. -/
def capReason (s : Sled) (l : List Byte) (t : Strm) : Nat :=
  let b (o n : Nat) : Nat := leNat ((l.drop o).take n)
  let len := b 0xC 4
  if b 0 4 ≠ 0x53435A4E ∨ !(b 4 2 = 1 ∨ b 4 2 = 2) then 1
  else if crc32c (l.take (64 + len)) ≠ b (64 + len) 4 then 2
  else if !(shapeOk t && bodyLen t = len && bitsOf (b 7 1) 2 2 = 0 && b 0xB 1 = 0 && b 0x1E 2 = 0 && b 0x24 28 = 0 &&
      (t.kind = 4 || (b 0xA 1 = 0 && b 0x20 4 = 0))) then 3
  else if b 4 2 = 1 && !v1Ok t then 4
  else if t.kind = 4 && !((ffind s.ste.curves t.pwl).isSome && curveDigest s t.pwl = b 0x20 4) then 5
  else 0

/-- IMPORT with the whole capsule read (R285). -/
def importEffect (d : Desc) (l : List (Byte × Bool)) (s : Sled) : Sled :=
  let bytes := l.map (·.1)
  let t := capStrm bytes (qTen s 8 d.q) (dField d 0x28 8) (bitAt (dField d 0x30 1) 1)
  let r := capReason s bytes t
  if r ≠ 0 then descFault 8 d 0x6002 r (bump bSTE 0x420 s)
  else if !homeOk s t then descFault 8 d 0xB003 0 s
  else
    let bar := registerBar s (dStream d) t
    if bar ≠ 0 then descFault 8 d bar 0 s
    else opDone 8 d.id (register d (dStream d) t ((l.drop 64).take (bodyLen t)) s)

/-- The first check of Table 14-6, on the capsule's header: magic and version. -/
def capStart (h : List Byte) : Bool :=
  leNat (h.take 4) = 0x53435A4E && (leNat ((h.drop 4).take 2) = 1 || leNat ((h.drop 4).take 2) = 2)

/-- IMPORT (R285). A capsule of this sled is read whole; one of another sled is read by messages, first its
header, then the rest, and the command acts again when they have arrived. -/
def fxStrImport (q k : Nat) (s : Sled) : Sled :=
  onStarted 8 q k 0x63 (fun d s =>
    let src := dField d 0x20 8
    let t := qTen s 8 d.q
    let lenOf (h : List Byte) : Nat := leNat ((h.drop 0xC).take 4)
    if src / 2 ^ 40 = moduleId s then
      if !rowOk s t src 68 then descFault 8 d 0xB003 0 s
      else
        let ((h, _), s) := readLocal (src % 2 ^ 40) 64 s
        let n := 68 + lenOf (h.map (·.1))
        if !capStart (h.map (·.1)) then descFault 8 d 0x6002 1 (bump bSTE 0x420 s)
        else if !rowOk s t src n then descFault 8 d 0xB003 0 s
        else
          let ((l, _), s) := readLocal (src % 2 ^ 40) n s
          importEffect d l s
    else if descOut s d.id then s
    else if d.latched.length < 64 then
      if !rowOk s t src 68 then descFault 8 d 0xB003 0 s
      else issueReads 64 (src / 2 ^ 40) t (src % 2 ^ 40) 64 0 d.id s
    else
      let n := 68 + lenOf d.latched
      if !capStart d.latched then descFault 8 d 0x6002 1 (bump bSTE 0x420 s)
      else if !rowOk s t src n then descFault 8 d 0xB003 0 s
      else if d.latched.length < n then
        issueReads n (src / 2 ^ 40) t (src % 2 ^ 40 + 64) (n - 64) 64 d.id s
      else importEffect d (d.latched.zipIdx.map fun (b, i) => (b, d.lpois.contains (i / 32))) s) s

/-! ## PAUSE and SEND (R276) -/

/-- PAUSE without or with the resume flag. -/
def pauseEffect (resume : Bool) (d : Desc) (t : Strm) (s : Sled) : Sled :=
  opDone 8 d.id (putStrm (dStream d) { t with paused := !resume } s)

/-- PAUSE (R276). -/
def fxPause (q k : Nat) (s : Sled) : Sled :=
  onStarted 8 q k 0x64 (fun d s =>
    if bitAt d.flags 4 then s else onStream d true noBar (pauseEffect false d) s) s

/-- PAUSE with the resume flag (R276). -/
def fxPauseResume (q k : Nat) (s : Sled) : Sled :=
  onStarted 8 q k 0x64 (fun d s =>
    if bitAt d.flags 4 then onStream d true noBar (pauseEffect true d) s else s) s

/-- SEND (R276): with SAVE the body is first written to HOME. -/
def sendEffect (d : Desc) (t : Strm) (s : Sled) : Sled :=
  let s := if bitAt d.flags 4 && t.resident then
      let (b, s) := readBody (whoQ s 8 d.q) t s
      writeFor (whoQ s 8 d.q) t.home b s
    else s
  opDone 8 d.id (endStrm (dStream d) s)

/-- SEND (R276). -/
def fxSend (q k : Nat) (s : Sled) : Sled :=
  onStarted 8 q k 0x65 (fun d s => onStream d false noBar (sendEffect d) s) s

/-- STREAM_EVICT_WAIT_END (R279): the oldest waiting operation proceeds if its victims are idle now. -/
def fxStreamEvictWaitEnd (s : Sled) : Sled :=
  match s.ste.evictQ with
  | [] => s
  | id :: _ =>
    match s.ste.descs.find? fun d => d.id = id with
    | none => { s with ste := { s.ste with evictQ := s.ste.evictQ.tail } }
    | some d =>
      if d.opc = 0x61 then onStream d true (stepBar d) (stepEffect d) s
      else if d.opc = 0x62 then onStream d true noBar (exportEffect d) s
      else onStream d true noBar (pauseEffect (bitAt d.flags 4) d) s

/-- STREAM_QUANTUM_EXPIRE (R280): the datapath passes to the next stream whose operation is ready. It changes no
result. -/
def fxStreamQuantumExpire (s : Sled) : Sled :=
  let ready := (s.ste.descs.filter fun d => d.stage = 1 && d.opc = 0x61 && !s.ste.evictQ.contains d.id).map dStream
  let old := s.ste.turn.filter ready.contains
  let all := old ++ (ready.filter fun i => !old.contains i).dedup
  { s with ste := { s.ste with turn := match all with
    | [] => []
    | i :: l => l ++ [i] } }

/-! ## PWL_LOAD (R270, R424) -/

/-- A write of STE_PWL_CTL with GO: the image is read and checked, and loaded if it is valid. -/
def pwlGo (w : Who) (i addr : Nat) (s : Sled) : Sled :=
  let s := swField bSTE 0x200 0 4 i (swField bSTE 0x200 6 34 (addr / 64) s)
  let i := rField s bSTE 0x200 0 4
  let ((b, ok), s) := readFor w (rField s bSTE 0x200 6 34 * 64) 224 s
  let img := b.map (·.1)
  if ok && !anyPoison b && pwlValid img then loadCurve i img s
  else logRec { recWho s 0x6006 w with island := iSTE } s

/-- PWL_LOAD. -/
def fxPwlLoad (a : Agent) (i addr : Nat) (s : Sled) : Sled :=
  regAccess a bSTE 0x200 (pwlGo (whoAgent s a) i addr) s

/-! ## Checks at fetch (R190, R273) -/

/-- Stream IDs have 20 bits (R273). -/
def idOk (d : Desc) : Bool := dField d 0x18 4 < 2 ^ 20

/-- The checks of a stream-engine descriptor at fetch: 0, or its code. -/
def checkSte (d : Desc) : Nat :=
  let al (o n : Nat) : Bool := dField d o n % 32 = 0
  if d.opc = 0x0F then
    if headerOk d 0 && d.fmt = 0 && zeroAt d 0x18 40 then 0 else 0xB001
  else if d.opc = 0x60 then
    let fl := dField d 0x1F 1
    let t : Strm := { tenant := 0, kind := dField d 0x1E 1, c := dField d 0x1C 2, n := bitsOf fl 4 4 + 1
                      comp := bitAt fl 0, home := 0 }
    if headerOk d 0 && d.fmt = 0 && idOk d && !bitAt fl 3 && shapeOk t && al 0x20 8 && al 0x28 8 &&
      dField d 0x30 1 < 16 && zeroAt d 0x31 15 then 0 else 0xB001
  else if d.opc = 0x61 then
    if !(headerOk d 1 && idOk d && 1 ≤ dField d 0x1C 4 && dField d 0x1C 4 ≤ 65536 && al 0x20 8 && al 0x28 8 &&
      al 0x30 8 && al 0x38 4 && al 0x3C 4) then 0xB001
    else if d.fmt % 16 ≤ 3 && d.fmt / 16 ∈ [0, 3, 4] then 0 else 0xB002
  else if d.opc = 0x62 then
    if headerOk d 3 && d.fmt = 0 && idOk d && zeroAt d 0x1C 4 && dField d 0x20 8 % 64 = 0 &&
      dField d 0x20 8 < 2 ^ 48 && zeroAt d 0x2C 20 then 0 else 0xB001
  else if d.opc = 0x63 then
    if headerOk d 0 && d.fmt = 0 && idOk d && zeroAt d 0x1C 4 && al 0x20 8 && dField d 0x20 8 < 2 ^ 48 &&
      al 0x28 8 && zeroAt d 0x31 15 then 0 else 0xB001
  else if d.opc = 0x64 ∨ d.opc = 0x65 then
    if headerOk d 1 && d.fmt = 0 && idOk d && zeroAt d 0x1C 36 then 0 else 0xB001
  else 0xB001

/-! ## The meanings -/

def execSreg (q : Fin 16) (k : Fin 8) (s : State) := liftHold (fxSreg q.val k.val) s
def execStep (q : Fin 16) (k : Fin 8) (s : State) := liftHold (fxStep q.val k.val) s
def execStreamEvictWaitEnd (s : State) := liftHold fxStreamEvictWaitEnd s
def execStreamQuantumExpire (s : State) := lift fxStreamQuantumExpire s
def execStrExport (q : Fin 16) (k : Fin 8) (s : State) := liftHold (fxStrExport q.val k.val) s
def execStrImport (q : Fin 16) (k : Fin 8) (s : State) := liftHold (fxStrImport q.val k.val) s
def execPause (q : Fin 16) (k : Fin 8) (s : State) := liftHold (fxPause q.val k.val) s
def execPauseResume (q : Fin 16) (k : Fin 8) (s : State) := liftHold (fxPauseResume q.val k.val) s
def execSend (q : Fin 16) (k : Fin 8) (s : State) := liftHold (fxSend q.val k.val) s
def execPwlLoad (a : Agent) (index : BitVec 4) (addr : LAddr) (s : State) :=
  liftHold (fxPwlLoad a index.toNat addr.toNat) s

end Sys2Proof.Machine
end

