-- ==== Sys2Proof/Machine/SyncCmds.lean ====
section
/-! DEFINITION. The commands of the sync store (spec/12): operations by an agent of this sled on a local
or remote object, polls and timeouts of waits, administration, and the deadlock detector. -/

namespace Sys2Proof.Machine

open Sys2Proof

/-- A local sync-store access by an agent that can act, or an access to an island in reset (spec/03, R71). -/
def onStore (a : Agent) (off : Nat) (f : Who → Sled → Sled) (s : Sled) : Sled :=
  let w := whoAgent s a
  if islRuns s iNOC then f w s else logUnmapped w (0x8100000000 + off) iNOC s

/-- Send a sync operation to module `m` (R241): tenant 0 stands for none (notes/assumptions/20). -/
def sendSync (m : Nat) (w : Who) (kind off acc arg : Nat) (x : Nat) (cont : Cont) (s : Sled) : Sled :=
  issue m kind (w.tenant.getD 0) (0x8100000000 + off) (if kind = 6 then arg else acc)
    (if kind = 6 then [] else leBytes 16 x) 0 cont 0 (stallSe w s)

/-- An agent's access to an object of module `m`: `here` on this sled; on another, refused locally where
`bad` (R241), else sent. -/
def syncCmd (a : Agent) (m off kind i x : Nat) (bad : Bool) (here : Who → Sled → Sled)
    (badValue : Bool) (there : Who → Sled → Sled) (s : Sled) : Sled :=
  if !canSync s a then s
  else if m = moduleId s then onStore a off here s
  else if !canRemote a then s
  else
    let w := whoAgent s a
    if bad then
      let s := logSyncAt m 0x1008 w kind i x 0 s
      if badValue then
        let (v, s) := nextFree s
        returnVal w (failed v) s
      else s
    else there w s

/-- COUNTER_SIGNAL (R228). -/
def fxCounterSignal (a : Agent) (m i : Nat) (wide : Bool) (data : Nat) (s : Sled) : Sled :=
  let x := if wide then data else data % 2 ^ 32
  syncCmd a m (8 * i) 0 i x (x = 0 || 2 ^ 32 ≤ x) (fun w s => (ctrSignal w i x s).2) false
    (fun w s => sendSync m w 6 (8 * i) 0 x 0 (.posted w) s) s

/-- What an AMO returns when it was turned away: the slot it read, with bit 63 (R227, R234); a blocked one reads nothing of
it (R238). -/
def amoFail (code slot : Nat) : Nat := if code = 0x1002 then failed 0 else failed slot

/-- COUNTER_AMOADD (R225). -/
def fxCounterAmoadd (a : Agent) (m i x : Nat) (s : Sled) : Sled :=
  syncCmd a m (8 * i) 0 i x (x = 0 || 2 ^ 32 ≤ x)
    (fun w s =>
      let slot := ctrSlot (getCtr s i)
      match ctrSignal w i x s with
      | (none, s) => returnVal w slot s
      | (some code, s) => returnVal w (amoFail code slot) s)
    true (fun w s => sendSync m w 7 (8 * i) 4 0 x (.value w) s) s

/-- Address of the window a remote wait polls. -/
def waitWindow (k : WaitKind) (i : Nat) : Nat :=
  match k with
  | .counter => 0x20000 + 8 * i
  | .semWait => 0xC0000 + 8 * i
  | .semTake => 0x140000 + 8 * i

/-- One poll of a remote wait: at most one is in flight (R241). -/
def pollRemote (w : Wait) (m : Nat) (s : Sled) : Sled :=
  if w.tag ≠ none then s else
  let tag := freshTag s
  let s := { s with waits := s.waits.map fun x => if x = w then { w with tag := some tag } else x }
  sendSync m w.who 7 (waitWindow w.kind w.idx) 6 0 (iNat 64 w.target) .poll s

/-- Begin a hardware wait of a core (R232). -/
def coreWait (a : Agent) (m : Nat) (k : WaitKind) (i x : Nat) (bad : Bool) (target : Int) (s : Sled) : Sled :=
  match a with
  | .cc _ | .se _ | .keeper =>
    syncCmd a m (waitWindow k i) k.obj i x bad
      (fun w s =>
        if bad then
          let slot := waitSlot s k i
          returnVal w (failed slot) (logSync 0x1008 w k.obj i x 0 s)
        else beginWait w k i target (stallSe w s))
      true
      (fun w s =>
        let wt : Wait := { who := w, kind := k, idx := i, target := target, start := s.now, mod := some m }
        pollRemote wt m { stallSe w s with waits := s.waits ++ [wt] }) s
  | _ => s

/-- COUNTER_WAIT (R225): the operand's bits above 47 are reserved. -/
def fxCounterWait (a : Agent) (m i x : Nat) (s : Sled) : Sled :=
  coreWait a m .counter i x (2 ^ 48 ≤ x) x s

/-- A local load of a slot. -/
def loadSlot (w : Who) (sem : Bool) (i v : Nat) (s : Sled) : Sled :=
  match objCheck s w sem i with
  | some code =>
    let (x, s) := loadFail code (logSync code w (b2n sem) i 0 0 s)
    returnVal w x s
  | none => returnVal w v s

/-- COUNTER_READ (R225). -/
def fxCounterRead (a : Agent) (m i : Nat) (wide : Bool) (s : Sled) : Sled :=
  syncCmd a m (8 * i) 0 i 0 false
    (fun w s => loadSlot w false i (ctrSlot (getCtr s i) % (if wide then 2 ^ 64 else 2 ^ 32)) s)
    false (fun w s => sendSync m w 7 (8 * i) (b2n wide) 0 0 (.value w) s) s

/-- SEMAPHORE_ADD (R230). -/
def fxSemaphoreAdd (a : Agent) (m i : Nat) (wide : Bool) (x : Nat) (s : Sled) : Sled :=
  let bad := (wide && !semOperandOk x) || x % 2 ^ 32 = 0
  syncCmd a m (0x40000 + 8 * i) 1 i x bad
    (fun w s => if bad then logSync 0x1008 w 1 i x 0 s else (semAdd w i (sNat 32 x) s).2)
    false
    (fun w s => sendSync m w 7 (0x40000 + 8 * i) (if wide then 3 else 2) 0 x (.posted w) s) s

/-- SEMAPHORE_AMOADD (R225): COUNT before the add. -/
def fxSemaphoreAmoadd (a : Agent) (m i x : Nat) (s : Sled) : Sled :=
  syncCmd a m (0x40000 + 8 * i) 1 i x (x = 0)
    (fun w s =>
      let c := getSem s i
      match semAdd w i (sNat 32 x) s with
      | (none, s) => returnVal w (iNat 32 c.count) s
      | (some code, s) => returnVal w (amoFail code (semSlot c)) s)
    true (fun w s => sendSync m w 7 (0x40000 + 8 * i) 5 0 x (.value w) s) s

/-- SEMAPHORE_WAIT (R225). -/
def fxSemaphoreWait (a : Agent) (m i x : Nat) (s : Sled) : Sled :=
  coreWait a m .semWait i x (!semOperandOk x) (sNat 32 x) s

/-- SEMAPHORE_TAKE (R225, R227). -/
def fxSemaphoreTake (a : Agent) (m i x : Nat) (s : Sled) : Sled :=
  coreWait a m .semTake i x (x = 0 || 0x7FFFFFFF < x) (sNat 32 x) s

/-- SEMAPHORE_READ (R225). -/
def fxSemaphoreRead (a : Agent) (m i : Nat) (wide : Bool) (s : Sled) : Sled :=
  syncCmd a m (0x40000 + 8 * i) 1 i 0 false
    (fun w s => loadSlot w true i (semSlot (getSem s i) % (if wide then 2 ^ 64 else 2 ^ 32)) s)
    false (fun w s => sendSync m w 7 (0x40000 + 8 * i) (b2n wide) 0 0 (.value w) s) s

/-- Offset of a peer mask (Table 12-1). -/
def maskOff (sem : Bool) (i : Nat) : Nat := if sem then 0x1C8000 + 2 * i else 0x1C0000 + 2 * i

/-- PEER_MASK_READ (R237, R241): of an object of module `m`. -/
def fxPeerMaskRead (a : Agent) (m : Nat) (sem : Bool) (i : Nat) (s : Sled) : Sled :=
  if !sem ∧ 16384 ≤ i then s else
  syncCmd a m (maskOff sem i) (2 + b2n sem) i 0 false (fun w s =>
    match objCheck s w sem i with
    | some code =>
      let (x, s) := loadFail code (logSync code w (2 + b2n sem) i 0 0 s)
      returnVal w x s
    | none => returnVal w (if sem then (getSem s i).mask else (getCtr s i).mask) s)
    false (fun w s => sendSync m w 7 (maskOff sem i) 7 0 0 (.value w) s) s

/-- PEER_MASK_WRITE (R225, R227, R241): by control cores and the keeper; a tenant's is refused. A write to another module
carries a tenant as every request does (R236), and is refused there. -/
def fxPeerMaskWrite (a : Agent) (m : Nat) (sem : Bool) (i mask : Nat) (s : Sled) : Sled :=
  if !sem ∧ 16384 ≤ i then s else
  syncCmd a m (maskOff sem i) (2 + b2n sem) i mask false (fun w s =>
    if w.tenant ≠ none then logSync 0x1008 w (2 + b2n sem) i mask 0 s
    else if sem then setSem i { getSem s i with mask := mask } s
    else setCtr i { getCtr s i with mask := mask } s)
    false (fun w s => sendSync m w 7 (maskOff sem i) 8 0 mask (.posted w) s) s

/-- WAIT_POLL (R232, R241): wait `k` of those pending reads its object again. -/
def fxWaitPoll (k : Nat) (s : Sled) : Sled :=
  match s.waits[k]? with
  | none => s
  | some w =>
    match w.mod with
    | some m => pollRemote w m s
    | none => pollWait w s

/-- WAIT_TIMEOUT (R233): a condition met at this poll satisfies the wait; else it fails. -/
def fxWaitTimeout (k : Nat) (s : Sled) : Sled :=
  match s.waits[k]? with
  | none => s
  | some w =>
    if w.mod = none ∧ objCheck s w.who (w.kind.obj = 1) w.idx = none ∧ waitMet s w.kind w.idx w.target then
      meetWait w s
    else failWait w 0x1001 s

/-- A write of SYN_ADMIN_CMD (R226): `action` 1-4 acts on an object that exists; else SYNC_BAD_OP. Only
control cores and the keeper reach it. -/
def adminWrite (a : Agent) (sem : Bool) (i action owner : Nat) (s : Sled) : Sled :=
  if !canAct s a then s else
  let w := whoAgent s a
  match a with
  | .cc _ | .keeper =>
    if !islRuns s iNOC then logUnmapped w 0xF003000000 iNOC s
    else if action = 0 ∨ 5 ≤ action ∨ (!sem ∧ 16384 ≤ i) then logSync 0x1008 w (b2n sem) i 0 0 s
    else adminAct action sem i owner s
  | _ => logUnmapped w 0xF003000000 iNOC s

def fxAlloc (a : Agent) (sem : Bool) (i owner : Nat) (s : Sled) : Sled := adminWrite a sem i 1 owner s
def fxSetval (a : Agent) (sem : Bool) (i : Nat) (s : Sled) : Sled := adminWrite a sem i 2 0 s
def fxFree (a : Agent) (sem : Bool) (i : Nat) (s : Sled) : Sled := adminWrite a sem i 3 0 s
def fxClrlost (a : Agent) (sem : Bool) (i : Nat) (s : Sled) : Sled := adminWrite a sem i 4 0 s

/-- An action of 0 or 5 to 7: the operand 0-3 stands for 0, 5, 6, 7 (Table 12-4). -/
def fxAdminIgnoredAction (a : Agent) (sem : Bool) (i : Nat) (action : Fin 4) (s : Sled) : Sled :=
  adminWrite a sem i (if action = 0 then 0 else 4 + action.val) 0 s

/-! ## The deadlock detector (R242) -/

/-- Descriptors in a queue's ring: (TAIL − HEAD) mod entries (spec/10, R182). -/
def ringCount (s : Sled) (u q : Nat) : Nat :=
  let n := qEntries s u q
  (rField s (qBlk u) (0x08 + 0x20 * q) 0 12 + n - rField s (qBlk u) (0x10 + 0x20 * q) 0 12 % n) % n

/-- Queues of a unit. -/
def nQueues (u : Nat) : Nat := if u = 8 then 16 else 24

/-- Whether a queue holds a descriptor: in its ring or in its engine. -/
def queueHolds (s : Sled) (u q : Nat) : Bool :=
  (rField s (qBlk u) (0x20 * q) (if u = 8 then 56 else 40) 1 = 1 && ringCount s u q ≠ 0) ||
  (descs s u).any fun d => d.q = q

/-- Whether every descriptor queue of tenant `t` that holds a descriptor waits. -/
def queuesWait (s : Sled) (t : Nat) : Bool :=
  (List.range 9).all fun u => (List.range (nQueues u)).all fun q =>
    qTen s u q ≠ t || !queueHolds s u q || s.waits.any fun w => w.who = whoQ s u q

/-- One scan of one tenant. -/
def scanTenant (t : Nat) (s : Sled) : Sled :=
  let d := fget s.dld {} t
  let ws := s.waits.filter fun w => w.who.tenant = some t && w.who.mod = none
  let set (d : Dld) (s : Sled) : Sled := { s with dld := fset s.dld {} t d }
  if d.progress then set { progress := false, blocked := 0, reported := false } s
  else
    match ws with
    | [] => set { d with blocked := 0 } s
    | w :: _ =>
      if !queuesWait s t then set { d with blocked := 0 } s
      else
        let n := d.blocked + 1
        if d.reported || n < max 1 (rField s bSYN 0x18 16 4) then set { d with blocked := n } s
        else
          let first := ws.foldl (fun a b => if b.start < a.start then b else a) w
          let r := { recWho s 0x1004 first.who with
            island := iCTL, tenant := if rescueObj (first.kind.obj = 1) first.idx then none else some t
            object := first.idx + first.kind.obj * 65536 + first.mod.getD (moduleId s) * 2 ^ 24
            arg1 := (ws.filter fun w => isQueue w.who).length, arg2 := first.lastVal % 2 ^ 32 }
          logRec r (bump bSYN 0x318 (set { d with blocked := n, reported := true } s))

/-- DEADLOCK_SCAN (R242). -/
def fxDeadlockScan (s : Sled) : Sled :=
  if !islRuns s iCTL then s
  else (List.range 16).foldl (fun s t => scanTenant t s) s

/-! ## The meanings -/

def execCounterSignal (a : Agent) (m : BitVec 8) (idx : BitVec 14) (wide : Bool) (data : Word) (s : State) :=
  lift (fxCounterSignal a m.toNat idx.toNat wide data.toNat) s
def execCounterAmoadd (a : Agent) (m : BitVec 8) (idx : BitVec 14) (data : Word) (s : State) :=
  lift (fxCounterAmoadd a m.toNat idx.toNat data.toNat) s
def execCounterWait (a : Agent) (m : BitVec 8) (idx : BitVec 14) (target : Word) (s : State) :=
  lift (fxCounterWait a m.toNat idx.toNat target.toNat) s
def execCounterRead (a : Agent) (m : BitVec 8) (idx : BitVec 14) (wide : Bool) (s : State) :=
  lift (fxCounterRead a m.toNat idx.toNat wide) s
def execSemaphoreAdd (a : Agent) (m : BitVec 8) (idx : BitVec 16) (wide : Bool) (data : Word) (s : State) :=
  lift (fxSemaphoreAdd a m.toNat idx.toNat wide data.toNat) s
def execSemaphoreAmoadd (a : Agent) (m : BitVec 8) (idx : BitVec 16) (data : BitVec 32) (s : State) :=
  lift (fxSemaphoreAmoadd a m.toNat idx.toNat data.toNat) s
def execSemaphoreWait (a : Agent) (m : BitVec 8) (idx : BitVec 16) (n : Word) (s : State) :=
  lift (fxSemaphoreWait a m.toNat idx.toNat n.toNat) s
def execSemaphoreTake (a : Agent) (m : BitVec 8) (idx : BitVec 16) (n : Word) (s : State) :=
  lift (fxSemaphoreTake a m.toNat idx.toNat n.toNat) s
def execSemaphoreRead (a : Agent) (m : BitVec 8) (idx : BitVec 16) (wide : Bool) (s : State) :=
  lift (fxSemaphoreRead a m.toNat idx.toNat wide) s
def execPeerMaskRead (a : Agent) (p : PeerMasks) (idx : BitVec 16) (s : State) :=
  lift (fxPeerMaskRead a p.mod.toNat p.sem idx.toNat) s
def execPeerMaskWrite (a : Agent) (p : PeerMasks) (idx : BitVec 16) (mask : BitVec 16) (s : State) :=
  lift (fxPeerMaskWrite a p.mod.toNat p.sem idx.toNat mask.toNat) s
def execWaitPoll (k : Fin 256) (s : State) := lift (fxWaitPoll k.val) s
def execWaitTimeout (k : Fin 256) (s : State) := lift (fxWaitTimeout k.val) s
def execAlloc (a : Agent) (sem : Bool) (idx : BitVec 16) (owner : Tenant) (s : State) :=
  lift (fxAlloc a sem idx.toNat owner.val) s
def execSetval (a : Agent) (sem : Bool) (idx : BitVec 16) (s : State) := lift (fxSetval a sem idx.toNat) s
def execFree (a : Agent) (sem : Bool) (idx : BitVec 16) (s : State) := lift (fxFree a sem idx.toNat) s
def execClrlost (a : Agent) (sem : Bool) (idx : BitVec 16) (s : State) := lift (fxClrlost a sem idx.toNat) s
def execAdminIgnoredAction (a : Agent) (sem : Bool) (idx : BitVec 16) (action : Fin 4) (s : State) :=
  lift (fxAdminIgnoredAction a sem idx.toNat action) s
def execDeadlockScan (s : State) := lift fxDeadlockScan s

end Sys2Proof.Machine
end

