-- ==== Sys2Proof/Machine/Descs.lean ====
section
/-! DEFINITION. Descriptor queues of the vault cores and the stream engine: their registers, and the fetch,
start and completion of a descriptor (spec/10 R181-R191; spec/14 R272); the start and stop of a scalar-engine
program (spec/22 R432). -/

namespace Sys2Proof.Machine

open Sys2Proof

/-! ## Queue registers (Table 10-1; spec/22, Table 22-8) -/

/-- Bit of EN in a queue's configuration register. -/
def enBit (u : Nat) : Nat := if u = 8 then 56 else 40

/-- Writable fields of a queue's configuration register, as (first bit, length). -/
def qcfgFields (u : Nat) : List (Nat × Nat) :=
  if u = 8 then [(6, 34), (40, 4), (48, 4), (56, 1)] else [(6, 19), (25, 4), (32, 4), (40, 1), (41, 1)]

/-- A value with only the listed fields. -/
def onlyFields (fs : List (Nat × Nat)) (v : Nat) : Nat :=
  fs.foldl (fun a f => a + bitsOf v f.1 f.2 * 2 ^ f.1) 0

/-- A written SIZE_LOG2 outside 2-12 takes effect as 2, and reads so (spec/21, R445). -/
def fixSize (u v : Nat) : Nat :=
  let lo := if u = 8 then 40 else 25
  let z := bitsOf v lo 4
  if 2 ≤ z ∧ z ≤ 12 then v else setBits v lo 4 2

/-- A write of a queue's configuration (R181): ignored while EN is 1, unless it clears EN. A vault-core ring
that does not lie wholly inside the scratchpad is not enabled: ERR is set and the fault logged. -/
def qcfgWrite (u q v : Nat) (s : Sled) : Sled :=
  let off := 0x20 * q
  let v := fixSize u (onlyFields (qcfgFields u) v)
  let en := bitAt v (enBit u)
  if lockedReg s (qBlk u) off then lockHit s
  else if rField s (qBlk u) off (enBit u) 1 = 1 && en then s
  else
    let s' := rSet (qBlk u) off v s
    if u < 8 && en && scratchSize < rField s' (qBlk u) off 6 19 * 64 + 64 * qEntries s' u q then
      logRec (recWho s' 0xB001 (whoQ s' u q))
        (rSetField (qBlk u) (0x10 + off) 16 1 1 (rSetField (qBlk u) off (enBit u) 1 0 s'))
    else s'

/-- A write of a queue's TAIL (R183): earlier writes of the agent have been accepted before it. Once quiesce has begun
the work queues accept no new descriptors (spec/03, R56): the model takes them to be every descriptor queue, the vault
cores' and the stream engine's, and the program queues of the BCS (`bcsEnqueue`); the rule does not list them
(DESIGN CHOICE, notes/assumptions/29). -/
def tailWrite (u q v : Nat) (s : Sled) : Sled :=
  if s.plat.quiesce ≠ .none then s else swField (qBlk u) (0x08 + 0x20 * q) 0 12 v s

/-- Writing 1 to a queue's ERR clears it (R191). -/
def errClear (u q : Nat) (s : Sled) : Sled := rSetField (qBlk u) (0x10 + 0x20 * q) 16 1 0 s

/-- LAY_QCFG_WRITE (R181, R184). -/
def fxLayQcfgWrite (a : Agent) (core q v : Nat) (s : Sled) : Sled :=
  regAccess a (bLAY core) (0x20 * q) (qcfgWrite core q v) s

/-- LAY_QTAIL_DOORBELL (R183). -/
def fxLayQtailDoorbell (a : Agent) (core q tail : Nat) (s : Sled) : Sled :=
  regAccess a (bLAY core) (0x08 + 0x20 * q) (tailWrite core q tail) s

/-- LAY_QSTAT_ERR_CLEAR (R191). -/
def fxLayQstatErrClear (a : Agent) (core q : Nat) (s : Sled) : Sled :=
  regAccess a (bLAY core) (0x10 + 0x20 * q) (errClear core q) s

/-! ## Fetch (R182, R184, R190) -/

/-- Whether a queue has faulted. -/
def qErr (s : Sled) (u q : Nat) : Bool := rField s (qBlk u) (0x10 + 0x20 * q) 16 1 = 1

/-- Whether a unit's island runs. -/
def unitRuns (s : Sled) (u : Nat) : Bool := islRuns s (if u = 8 then iSTE else iVC u)

/-- The checks of a descriptor at fetch, by unit. -/
def checkDesc (u q : Nat) (d : Desc) : Nat := if u = 8 then checkSte d else checkVc q d

/-- Fetch of the entry at HEAD: HEAD advances, and the descriptor is checked (R182, R190). A queue whose tenant
the core's mask excludes is not fetched from: ERR is set and the fault logged (R184). -/
def fetchQ (u q : Nat) (s : Sled) : Sled :=
  if !unitRuns s u || rField s (qBlk u) (0x20 * q) (enBit u) 1 = 0 || qErr s u q || ringCount s u q = 0 then s
  else if u < 8 && !bitAt (vcMask s (qTen s u q)) u then
    logRec (recWho s 0xB001 (whoQ s u q)) (rSetField (qBlk u) (0x10 + 0x20 * q) 16 1 1 s)
  else
    let n := qEntries s u q
    let head := rField s (qBlk u) (0x10 + 0x20 * q) 0 12 % n
    let addr := qBase s u q + 64 * head
    let ((b, ok), s) := readLocal addr 64 s
    let d : Desc := { id := s.seq, q := q, addr := addr, bytes := BitVec.ofNat 512 (leNat (b.map (·.1))) }
    let s := setDescs u (descs s u ++ [d]) { s with seq := s.seq + 1 }
    let s := rSetField (qBlk u) (0x10 + 0x20 * q) 0 12 ((head + 1) % n) s
    let code := if !ok then 0xB003 else if anyPoison b then 0xB004 else checkDesc u q d
    -- a LAYOUT's record names its tensor descriptor (spec/13, R263)
    if code = 0 then s else descFault u d code (if u < 8 ∧ d.opc = 3 then tdArg u (dField d 0x18 8) else 0) s

/-- DESCRIPTOR_FETCH. -/
def fxDescriptorFetch (u : QUnit) (s : Sled) : Sled := fetchQ u.unit u.num s

/-! ## Start (R186-R188) -/

/-- First queue and number of queues of the engine that serves queue `q` of a vault core: DE, ME, VE. -/
def engineQs (q : Nat) : Nat × Nat := if q < 16 then (0, 16) else if q < 20 then (16, 4) else (20, 4)

/-- Whether the descriptor at a queue's head could start but for its engine's capacity: its fence has cleared
and its wait, if any, is satisfied (R186). -/
def startable (s : Sled) (u : Nat) (d : Desc) : Bool :=
  !qErr s u d.q && (!d.waits || d.ready) &&
  (!bitAt d.flags 0 || !(descs s u).any fun e => e.q = d.q && e.id < d.id)

/-- The ME or VE takes its next descriptor in round-robin order over its queues (R188). -/
def rrNext (s : Sled) (u base rr : Nat) : Option Nat :=
  ((List.range 4).map fun i => base + (rr + 1 + i) % 4).find? fun q =>
    match headDesc s u q with
    | some d => startable s u d
    | none => false

/-- Whether the engine has room for the descriptor (R187, R188; spec/14, R275). The ME and the VE run one descriptor at a
time, a NOP like any other. -/
def engineRoom (s : Sled) (u : Nat) (d : Desc) : Bool :=
  let flying (p : Desc → Bool) : Nat := ((descs s u).filter fun e => e.stage ≠ 0 && p e).length
  if u = 8 then flying (fun e => e.q = d.q) < 8 && flying (fun _ => true) < 64
  else if d.q < 16 then flying (fun e => e.q = d.q) < 4 && flying (fun e => e.q < 16) < 32
  else
    let (base, _) := engineQs d.q
    let rr := if base = 16 then (fget s.vc {} u).rrMe else (fget s.vc {} u).rrVe
    flying (fun e => base ≤ e.q && e.q < base + 4) = 0 && rrNext s u base rr = some d.q

/-- A descriptor starts; the ME and VE note the queue served. -/
def doStart (u : Nat) (d : Desc) (s : Sled) : Sled :=
  let s := startDesc u d s
  if u = 8 ∨ d.q < 16 then s
  else
    let v := fget s.vc {} u
    { s with vc := fset s.vc {} u (if d.q < 20 then { v with rrMe := d.q - 16 } else { v with rrVe := d.q - 20 }) }

/-- The head descriptor of a queue begins its wait, or starts (R186, R232). -/
def startQ (u q : Nat) (s : Sled) : Sled :=
  match headDesc s u q with
  | none => s
  | some d =>
    if !unitRuns s u || qErr s u q || (bitAt d.flags 0 && (descs s u).any fun e => e.q = q && e.id < d.id) then s
    else
      let s := if d.waits && !d.ready && !s.waits.any (fun w => w.who = whoQ s u q) then
          beginWait (whoQ s u q) .counter d.waitId d.waitVal s
        else s
      match headDesc s u q with
      | none => s
      | some e => if e.id = d.id && startable s u e && engineRoom s u e then doStart u e s else s

/-- DESCRIPTOR_START. -/
def fxDescriptorStart (u : QUnit) (s : Sled) : Sled := startQ u.unit u.num s

/-! ## Completion (R186) -/

/-- A completed descriptor leaves, and releases the staging buffer it held (spec/13, R256). -/
def releaseStaging (u id : Nat) (s : Sled) : Sled :=
  if u < 8 && (fget s.vc {} u).staging = some id then
    { s with vc := fset s.vc {} u { fget s.vc {} u with staging := none } }
  else s

/-- The signal of a completed descriptor (R186, R241): a refused or blocked one stops the queue. -/
def signalDesc (u : Nat) (d : Desc) (s : Sled) : Sled :=
  let w := whoQ s u d.q
  let i := bitsOf (dField d 6 2) 0 14
  let inc := dField d 0x10 2
  if !bitAt d.flags 2 then dropDesc u d.id s
  else if bitAt d.flags 3 && dField d 3 1 ≠ moduleId s then
    issue (dField d 3 1) 6 (qTen s u d.q) (0x8100000000 + 8 * i) inc [] 0 (.descSignal d.id w) 0 s
  else
    match ctrSignal w i inc s with
    | (none, s) => dropDesc u d.id s
    | (some _, s) => descStop u d s

/-- DESCRIPTOR_COMPLETE: the operation is done and every write has been accepted. -/
def fxDescriptorComplete (u : QUnit) (k : Nat) (s : Sled) : Sled :=
  match (started s u.unit u.num)[k]? with
  | some d =>
    if unitRuns s u.unit && islRuns s iNOC && d.stage = 2 && !descOut s d.id then
      signalDesc u.unit d (releaseStaging u.unit d.id s)
    else s
  | none => s

/-! ## The scalar engine's program (spec/22, R432; spec/10, R208) -/

/-- A write of LAY_SE_CTL with GO: ignored while a program runs; an odd ENTRY does not start. The operand
fields of the write are taken (spec/22, R424). -/
def seGoOp (core t entry : Nat) (s : Sled) : Sled :=
  let off := 0x400
  let s := swField (bLAY core) off 24 40 entry (swField (bLAY core) off 8 4 t s)
  let t := rField s (bLAY core) off 8 4
  let entry := rField s (bLAY core) off 24 40
  if (fget s.vc {} core).seRun then s
  else if entry % 2 = 1 then
    rSet (bLAY core) 0x408 (entry * 2 ^ 24) (rSet (bLAY core) off (rGet s (bLAY core) off ||| 0xC) s)
  else { s with vc := fset s.vc {} core { fget s.vc {} core with seRun := true, seTenant := t, seWait := false } }

/-- The program ends its outstanding accesses (R432): waits end without a record, and no answer reaches it. -/
def seDrop (core : Nat) (s : Sled) : Sled :=
  let mine (w : Who) : Bool := w.kind = 3 && w.ix = core && w.mod = none
  { s with
    waits := s.waits.filter fun w => !mine w.who
    fab := { s.fab with out := s.fab.out.filter fun o => match o.2.cont with
      | .seLoad c _ _ => c ≠ core
      | .value w => !mine w
      | _ => true } }

/-- A write of LAY_SE_CTL with STOP: the program ends at the next instruction boundary; the cache stays. -/
def seStopOp (core : Nat) (s : Sled) : Sled :=
  let v := fget s.vc {} core
  if !v.seRun then s
  else
    let s := { s with vc := fset s.vc {} core { v with seRun := false, seWait := false } }
    rSet (bLAY core) 0x400 (rGet s (bLAY core) 0x400 ||| 0x4) (seDrop core s)

/-- SE_GO. -/
def fxSeGo (a : Agent) (core t entry : Nat) (s : Sled) : Sled :=
  regAccess a (bLAY core) 0x400 (seGoOp core t entry) s

/-- SE_STOP. -/
def fxSeStop (a : Agent) (core : Nat) (s : Sled) : Sled :=
  regAccess a (bLAY core) 0x400 (seStopOp core) s

/-! ## The meanings -/

def execLayQcfgWrite (a : Agent) (core : CoreId) (q : Fin 24) (value : Word) (s : State) :=
  lift (fxLayQcfgWrite a core.val q.val value.toNat) s
def execLayQtailDoorbell (a : Agent) (core : CoreId) (q : Fin 24) (tail : BitVec 12) (s : State) :=
  lift (fxLayQtailDoorbell a core.val q.val tail.toNat) s
def execLayQstatErrClear (a : Agent) (core : CoreId) (q : Fin 24) (s : State) :=
  lift (fxLayQstatErrClear a core.val q.val) s
def execDescriptorFetch (u : QUnit) (s : State) := liftHold (fxDescriptorFetch u) s
def execDescriptorStart (u : QUnit) (s : State) := lift (fxDescriptorStart u) s
def execDescriptorComplete (u : QUnit) (k : Fin 8) (s : State) := lift (fxDescriptorComplete u k.val) s
def execSeGo (a : Agent) (core : CoreId) (t : Tenant) (entry : LAddr) (s : State) :=
  lift (fxSeGo a core.val t.val entry.toNat) s
def execSeStop (a : Agent) (core : CoreId) (s : State) := lift (fxSeStop a core.val) s

end Sys2Proof.Machine
end

