-- ==== Sys2Proof/Machine/Operands.lean ====
section
/-! DEFINITION. The operand forms of bank programs: the BAU command word and the BCS instruction, each read
and written (spec/08 Tables 8-2, 8-4, 8-6, 8-7; spec/21 Table 21-6). -/

namespace Sys2Proof.Machine

open Sys2Proof

/-! ## The BAU command word (spec/08, R147) -/

/-- Native opcodes (Table 8-4). -/
def opBLD : Nat := 0x01
def opBST : Nat := 0x02
def opBMAC : Nat := 0x03
def opBDOT : Nat := 0x04
def opBADD : Nat := 0x05
def opBMUL : Nat := 0x06
def opBFMA : Nat := 0x07
def opBEMA : Nat := 0x08
def opBSCALE : Nat := 0x09
def opBCVT : Nat := 0x0A
def opBMAX : Nat := 0x0B
def opBMIN : Nat := 0x0C
def opBRED : Nat := 0x0D
def opBRDACC : Nat := 0x0E
def opBCLR : Nat := 0x0F
def opBSEL : Nat := 0x10
def opBCW : Nat := 0x20

/-- Opcode in KT3 mode and native opcode of each operation (spec/21, Table 21-6). -/
def kt3Ops : List (Nat × Nat) :=
  [(0x08, opBLD), (0x09, opBST), (0x0C, opBRDACC), (0x0D, opBCLR), (0x0E, opBCW), (0x10, opBMAC),
   (0x11, opBDOT), (0x12, opBEMA), (0x13, opBSCALE), (0x14, opBMAX), (0x15, opBMIN), (0x16, opBRED),
   (0x18, opBADD), (0x19, opBMUL), (0x1A, opBFMA), (0x1B, opBSEL), (0x20, opBCVT)]

/-- The operation that an OP field names, as its native opcode, in the mode in effect (R149, R418). -/
def opOf (kt : Bool) (code : Nat) : Option Nat :=
  if kt then (kt3Ops.find? fun e => e.1 = code).map (·.2)
  else if (1 ≤ code ∧ code ≤ 0x10) ∨ code = 0x20 then some code else none

/-- The OP field of an operation in the mode in effect. -/
def codeOf (kt : Bool) (op : Nat) : Nat :=
  if kt then ((kt3Ops.find? fun e => e.2 = op).map (·.1)).getD 0 else op

/-- The fields of a command word above OP (Table 8-2). -/
def bauFields (w : Nat) : BauFields :=
  { col := BitVec.ofNat 5 (bitsOf w 6 5), h := bitAt w 11, x := BitVec.ofNat 3 (bitsOf w 12 3)
    y := BitVec.ofNat 3 (bitsOf w 15 3), z := BitVec.ofNat 3 (bitsOf w 18 3)
    fmt := BitVec.ofNat 3 (bitsOf w 21 3), l := BitVec.ofNat 4 (bitsOf w 24 4), a := bitAt w 28
    m := bitAt w 29, linc := bitAt w 30, cnt := BitVec.ofNat 5 (bitsOf w 31 5) }

/-- The command word of an OP code and fields (Table 8-2). -/
def bauWord (code : Nat) (f : BauFields) : Nat :=
  code + 2 ^ 6 * (f.col.toNat + 2 ^ 5 * (b2n f.h + 2 * (f.x.toNat + 2 ^ 3 * (f.y.toNat + 2 ^ 3 * (f.z.toNat +
  2 ^ 3 * (f.fmt.toNat + 2 ^ 3 * (f.l.toNat + 2 ^ 4 * (b2n f.a + 2 * (b2n f.m + 2 * (b2n f.linc +
  2 * f.cnt.toNat))))))))))

/-- The reserved bits [39:36] of a command word. -/
def bauRsv (w : Nat) : Nat := bitsOf w 36 4

/-! ## The BCS instruction (spec/08, R157) -/

/-- The fields of a BCS instruction (Table 8-6). `rsv` holds the reserved bits [7:4] and [31:26]. -/
structure BcsInstr where
  iop : Nat
  chmask : Nat
  group : Nat
  banks : Nat
  arg : Nat
  data : Nat
  rsv : Nat := 0
  deriving DecidableEq, Repr

/-- The instruction of 128 bits. -/
def bcsDecode (x : Nat) : BcsInstr :=
  { iop := bitsOf x 0 4, chmask := bitsOf x 8 16, group := bitsOf x 24 2, banks := bitsOf x 32 16
    arg := bitsOf x 48 16, data := bitsOf x 64 64, rsv := bitsOf x 4 4 + 16 * bitsOf x 26 6 }

/-- The 128 bits of an instruction. -/
def bcsEncode (i : BcsInstr) : Nat :=
  i.iop + 2 ^ 4 * (i.rsv % 16 + 2 ^ 4 * (i.chmask + 2 ^ 16 * (i.group + 2 ^ 2 * (i.rsv / 16 + 2 ^ 6 *
  (i.banks + 2 ^ 16 * (i.arg + 2 ^ 16 * i.data))))))

/-- Instruction codes (Table 8-7). -/
def iopOPEN : Nat := 1
def iopCLOSE : Nat := 2
def iopBAU : Nat := 3
def iopBCW : Nat := 4
def iopREAD : Nat := 5
def iopSET : Nat := 6
def iopSIGNAL : Nat := 7
def iopEND : Nat := 8

/-- An instruction that R157 does not fault for its own bits: a listed IOP, reserved fields 0, and no reserved
value of READ's or SET's argument (notes/assumptions/23). -/
def BcsInstr.ok (i : BcsInstr) : Bool :=
  1 ≤ i.iop && i.iop ≤ 8 && i.rsv = 0 && (i.iop ≠ iopREAD || i.arg % 4 < 2) && (i.iop ≠ iopSET || i.arg % 4 < 3)

/-- SET, SIGNAL and END are ordered after every earlier and before every later instruction (R158). -/
def BcsInstr.barrier (i : BcsInstr) : Bool := 6 ≤ i.iop

/-- Banks of a channel that a group's bank mask names, as rank and bank (R144). -/
def groupBanks (group banks : Nat) : List (Nat × Nat) :=
  (maskList 16 banks).map fun j => (j / 4, 4 * group + j % 4)

end Sys2Proof.Machine
end

