-- ==== Sys2Proof/Machine/Bank.lean ====
section
/-! DEFINITION. The bank arithmetic units (spec/08 R141-R154; spec/09 R163-R176): the checks of a command,
one column step of each operation with its ECC and poison, the bank's command queue and BC staging. -/

namespace Sys2Proof.Machine

open Sys2Proof

/-! ## Timing (spec/06, Table 6-5; spec/08, Table 8-5) -/

/-- One command slot of 4 UI at a speed bin, in units of `now`: 0.3125, 0.4167 and 0.625 ns. -/
def slotLen (bin : Nat) : Nat := if bin = 0 then 15 else if bin = 1 then 20 else 30

def tRCD : Nat := 15 * ns
def tRP : Nat := 15 * ns
def tRAS : Nat := 30 * ns
def tRRD : Nat := 120
def tCCDL : Nat := 120
def tRL : Nat := 20 * ns
def tWL : Nat := 10 * ns
def tRTP : Nat := 5 * ns
def tWR : Nat := 15 * ns
def tWTR : Nat := 5 * ns
def tRTW : Nat := 600
def tRFCpb : Nat := 130 * ns
def tRREFD : Nat := 5 * ns
def tMOD : Nat := 10 * ns
def tMRR : Nat := 5 * ns
def tParAlert : Nat := 420
def tParRecov : Nat := 20 * ns
/-- The batch window of R107. -/
def tBatch : Nat := 64 * ns
/-- tREFI_B at the normal and at the doubled rate (R119). -/
def tREFI (fast : Bool) : Nat := if fast then 1950 * ns else 3900 * ns

/-- One column step at a speed bin: 2, 2.667 and 4 ns. -/
def tCCDB (bin : Nat) : Nat := if bin = 0 then 96 else if bin = 1 then 128 else 192
def tBMOD : Nat := 10 * ns
def tRRDB : Nat := 10 * ns
def tRCDB : Nat := 15 * ns
def tRTPB : Nat := 5 * ns
def tWRB : Nat := 15 * ns
def tRPB : Nat := 15 * ns
def tBCW : Nat := 600

/-- Bin of a stack. -/
def binOf (s : Sled) (st : Nat) : Nat := (fget s.mcs {} st).bin

/-! ## Banks -/

/-- Key of the bank that serves bank `b` of a rank: the rank itself or its spare (spec/05, R93). -/
def bankKey (s : Sled) (st c r b : Nat) : Nat :=
  let (st, r) := redirect s st r
  ((st * 16 + c) * 4 + r) * 16 + b

/-- Stack, channel, rank and bank of a key. -/
def keyStack (k : Nat) : Nat := k / 1024
def keyChan (k : Nat) : Nat := k / 64 % 16
def keyRank (k : Nat) : Nat := k / 16 % 4
def keyBank (k : Nat) : Nat := k % 16
/-- Bank number 0-63 within its channel (spec/06, R114). -/
def keyCBank (k : Nat) : Nat := k % 64

def getBank (s : Sled) (k : Nat) : BankU := fget s.bank {} k
def setBank (k : Nat) (b : BankU) (s : Sled) : Sled := { s with bank := fset s.bank {} k b }

/-- Times of a bank's program rows and column steps. -/
def getTm (s : Sled) (k : Nat) : BankTm := fget s.btm {} k
def setTm (k : Nat) (m : BankTm) (s : Sled) : Sled := { s with btm := fset s.btm {} k m }

/-- Timing and refresh state of a bank of a channel. -/
def getBt (ch : Chan) (b : Nat) : BankT := fget ch.bank {} b

/-- The time of a channel: its newest command slot, or the clock. -/
def chTime (s : Sled) (st c : Nat) : Nat := max (getChan s st c).clk s.now

/-- The time of a channel's next command slot. -/
def nextSlot (s : Sled) (st c : Nat) : Nat := max ((getChan s st c).clk + slotLen (binOf s st)) s.now

/-- Change a bank's timing and refresh state. -/
def updBt (st c b : Nat) (f : BankT → BankT) : Sled → Sled :=
  updChan st c fun ch => { ch with bank := fset ch.bank {} b (f (getBt ch b)) }

/-- A bank holds a program row (spec/08, R145). -/
def inWindow (b : BankU) : Bool := b.rowE.isSome || b.rowO.isSome

/-- The keys of the banks that a selection names. -/
def selKeys (s : Sled) (st c group banks : Nat) : List Nat :=
  (groupBanks group banks).map fun rb => bankKey s st c rb.1 rb.2

/-- A bank takes no command and no column step: its rank is out of service or unreadable on its channel (R125, R356),
its stack is in a speed change (R136), or the bank is taken for a request or refresh and its rows are not yet open
again (R108, R116, R161). -/
def bankHeld (s : Sled) (k : Nat) : Bool :=
  let st := keyStack k
  let bt := getBt (getChan s st (keyChan k)) (keyCBank k)
  (fget s.mcs {} st).selfRefresh || unreadable s st (keyChan k) (keyRank k) || bt.taken || bt.reop ≠ 0 ||
  !islRuns s (iMC st)

/-- A channel is in a thermal pause slot (spec/19, R376). -/
def inPauseSlot (s : Sled) (st c : Nat) : Bool := chTime s st c < (getChan s st c).thermal

/-- A bank makes no column step: it is held, or its channel is in a thermal pause slot (R161). -/
def bankStopped (s : Sled) (k : Nat) : Bool := bankHeld s k || inPauseSlot s (keyStack k) (keyChan k)

/-- A channel of a stack lets a bank-program command issue now: no parity replay, retraining pause, thermal
pause slot or speed change (R112, R136). -/
def chanFree (s : Sled) (st c : Nat) : Bool :=
  let ch := getChan s st c
  ch.replay.isNone && ch.pause.isNone && !inPauseSlot s st c && !(fget s.mcs {} st).selfRefresh

/-! ## Command slots and the retry buffer (spec/06, R106, R122) -/

/-- A command enters the retry buffer of a channel. -/
def pushRetry (st c : Nat) (e : RetryEnt) : Sled → Sled :=
  updChan st c fun ch => { ch with retry := (e :: ch.retry).take 32 }

/-- Commands take `n` slots of a channel from its next one on, after a wait of `pre`. -/
def useSlots (st c pre n : Nat) (s : Sled) : Sled :=
  updChan st c (fun ch => { ch with clk := nextSlot s st c + pre + (n - 1) * slotLen (binOf s st) }) s

/-- Channels on which a command for banks `keys` of stack `st` travels, as stack × 16 + channel: those it names, and
those of S8 where a bank is replaced by a spare (spec/05, R93). -/
def cmdChans (st : Nat) (chs keys : List Nat) : List Nat :=
  (chs.map fun c => chanKey st c) ++ ((keys.map fun k => k / 64).filter fun p => p / 16 ≠ st).eraseDups

/-- Ranks of a channel that a command for banks `keys` addresses, as a mask. -/
def rankMask (p : Nat) (keys : List Nat) : Nat :=
  keys.foldl (fun m k => if k / 64 = p then setBit m (keyRank k) true else m) 0

/-- Before the first bank-compute command on a channel MW8.BCM becomes 1 on its ranks (R143). -/
def enterBcm (p : Nat) (s : Sled) : Sled :=
  if (getChan s (p / 16) (p % 16)).bcm then s
  else
    let s := useSlots (p / 16) (p % 16) 0 1 s
    let s := pushRetry (p / 16) (p % 16) { ranks := 15, cmd := .mode 8 1 } s
    updChan (p / 16) (p % 16) (fun ch => { ch with bcm := true, clk := ch.clk + tBMOD }) s

/-- A bank-program command takes its slots and enters the retry buffer of every channel it travels on. -/
def cmdIssue (st : Nat) (chs keys : List Nat) (n : Nat) (cmd : ChCmd) (s : Sled) : Sled :=
  (cmdChans st chs keys).foldl (fun s p =>
    pushRetry (p / 16) (p % 16) { ranks := rankMask p keys, cmd := cmd } (useSlots (p / 16) (p % 16) 0 n (enterBcm p s))) s

/-- Read data that is due by time `t` reaches its port, in the order of issue. -/
def landReads (st c t : Nat) (s : Sled) : Sled :=
  let ch := getChan s st c
  let ready (e : RetryEnt) : Bool := e.out.isSome && e.due ≤ t
  if !ch.retry.any ready then s
  else
    let s := ch.retry.reverse.foldl (fun s e =>
      match e.out with
      | some (p, d, po) => if e.due ≤ t then emit (.data p d po) s else s
      | none => s) s
    updChan st c (fun ch => { ch with retry := ch.retry.map fun e => if ready e then { e with out := none } else e }) s

/-- Every read in flight on a channel completes. -/
def landAll (st c : Nat) (s : Sled) : Sled :=
  landReads st c (((getChan s st c).retry.map (·.due)).foldl max 0) s

/-! ## Checks of a command (R148) -/

/-- The format is allowed for the operation (Table 8-4). -/
def bauFmtOk (op : Nat) (f : BauFields) : Bool :=
  let c := f.fmt.toNat
  if op = opBLD ∨ op = opBST then c ≤ 4
  else if op = opBMAC ∨ op = opBMAX ∨ op = opBMIN then c ≤ 2
  else if op = opBDOT then c ≤ 3
  else if op = opBCVT then (if f.z = 0 then 1 ≤ c && c ≤ 4 else c ≤ 2)
  else c = 0

/-- Z holds a value that the operation defines. -/
def bauZOk (op : Nat) (f : BauFields) : Bool :=
  let z := f.z.toNat
  if op = opBADD ∨ op = opBMUL ∨ op = opBFMA ∨ op = opBSEL then true
  else if op = opBCVT then z ≤ 1
  else if op = opBRED then z ≤ 2
  else if op = opBCLR then z ≤ 3
  else z = 0

/-- The command addresses a column (R148). -/
def bauColumn (op : Nat) (f : BauFields) : Bool :=
  op = opBLD || op = opBST ||
  (!f.m && (op = opBMAC || op = opBDOT || op = opBEMA || op = opBMAX || op = opBMIN || (op = opBCVT && f.z = 0)))

/-- FP8 formats. -/
def isFp8 (f : BauFields) : Bool := f.fmt = 1 || f.fmt = 2

/-- The checks of a command that concern no bank. -/
def bauStatic (op : Nat) (f : BauFields) : Bool :=
  bauFmtOk op f && bauZOk op f &&
  !((op = opBMAC || op = opBMAX || op = opBMIN) && isFp8 f && f.a) &&
  !(bauColumn op f && 31 < f.col.toNat + f.cnt.toNat) &&
  !((op = opBLD || op = opBST) && f.m)

/-- The open program row of the half that a command names. -/
def bauRow (b : BankU) (f : BauFields) : Option Nat := if f.h then b.rowO else b.rowE

/-- A command is valid for the named banks (R148): the operation is not BCW, the checks hold, BRDACC names one
bank of a channel, and a column command finds its row open in each. -/
def bauValid (s : Sled) (keys : List Nat) (op : Nat) (f : BauFields) : Bool :=
  op ≠ opBCW && bauStatic op f && (op ≠ opBRDACC || keys.length ≤ 1) &&
  (!bauColumn op f || keys.all fun k => (bauRow (getBank s k) f).isSome)

/-! ## Arithmetic (R149, R150) -/

/-- Element `e` of a word in a format code of Table 8-3. -/
def bauElem (fmt w e : Nat) : FVal :=
  if fmt = 0 then decodeF bf16 (laneOf 16 w e)
  else if fmt = 1 then decodeF e4m3 (laneOf 8 w e)
  else if fmt = 2 then decodeF e5m2 (laneOf 8 w e)
  else if fmt = 3 then FVal.ofInt (sNat 4 (laneOf 4 w e))
  else decodeFp4 (laneOf 4 w e)

/-- Elements of a word of 256 bits in a format. -/
def bauCount (fmt : Nat) : Nat := if fmt = 0 then 16 else if fmt ≤ 2 then 32 else 64

/-- The lane of repeat `i`. -/
def bauLane (f : BauFields) (i : Nat) : Nat := if f.linc then (f.l.toNat + i) % 16 else f.l.toNat

/-- V register, accumulator and their flags. -/
def getV (b : BankU) (x : BitVec 3) : Nat := (b.v[x.toNat]'x.isLt).toNat
def getPV (b : BankU) (x : BitVec 3) : Bool := b.pv.getLsbD x.toNat
def getA (b : BankU) (a : Bool) : Nat := if a then b.a1.toNat else b.a0.toNat
def getPA (b : BankU) (a : Bool) : Bool := if a then b.pa1 else b.pa0
def setV (x : BitVec 3) (w : Nat) (p : Bool) (b : BankU) : BankU :=
  { b with v := b.v.set x.toNat (BitVec.ofNat 256 w) x.isLt
           pv := BitVec.ofNat 8 (setBit b.pv.toNat x.toNat p) }
def setA (a : Bool) (w : Nat) (p : Bool) (b : BankU) : BankU :=
  if a then { b with a1 := BitVec.ofNat 512 w, pa1 := p } else { b with a0 := BitVec.ofNat 512 w, pa0 := p }

/-- FP32 lane `i` of an accumulator. -/
def accLane (b : BankU) (a : Bool) (i : Nat) : FVal := decodeF fp32 (laneOf 32 (getA b a) i)

/-- Sixteen lanes of an accumulator from a function of the lane. -/
def accOf (g : Nat → FVal) : Nat := packLanes 32 ((List.range 16).map fun i => encodeF fp32 (g i))

/-- Sixteen BF16 lanes of a register from a function of the lane. -/
def vecOf (g : Nat → FVal) : Nat := packLanes 16 ((List.range 16).map fun i => encodeF bf16 (g i))

/-- Set accumulator lane `i` alone. -/
def setLane (w i v : Nat) : Nat := setBits w (32 * i) 32 v

/-- A format of results. -/
def bauFmt (c : Nat) : Fmt := if c = 0 then bf16 else if c = 1 then e4m3 else e5m2

/-- An accumulation with function `g` of lane and element value: one accumulator for BF16, both for FP8
(Table 8-4). `pb` is the flag that the operation adds (Table 9-2). -/
def bauAcc (f : BauFields) (w : Nat) (pb : Bool) (g : FVal → FVal → FVal) (b : BankU) : BankU :=
  let one (a : Bool) (off : Nat) (b : BankU) : BankU :=
    setA a (accOf fun i => g (accLane b a i) (bauElem f.fmt.toNat w (off + i))) (getPA b a || pb) b
  if isFp8 f then one true 16 (one false 0 b) else one f.a 0 b

/-- One repeat of a command on registers: operand word `w`, poisoned or not, at lane `lane` (Tables 8-4, 9-2).
BST and BRDACC change no register. -/
def bauApply (op : Nat) (f : BauFields) (lane w : Nat) (po : Bool) (b : BankU) : BankU :=
  let fmt := f.fmt.toNat
  let bcl := decodeF bf16 (laneOf 16 b.bc.toNat lane)
  let y i := decodeF bf16 (laneOf 16 (getV b f.y) i)
  let z i := decodeF bf16 (laneOf 16 (getV b f.z) i)
  let x i := decodeF bf16 (laneOf 16 (getV b f.x) i)
  if op = opBLD then setV f.x w po b
  else if op = opBMAC then bauAcc f w (po || b.pbc) (fun acc e => acc.add (e.mul bcl)) b
  else if op = opBMAX then bauAcc f w po (fun acc e => acc.maxNum e) b
  else if op = opBMIN then bauAcc f w po (fun acc e => acc.minNum e) b
  else if op = opBDOT then
    let dot := sumF ((List.range (bauCount fmt)).map fun e => (bauElem fmt w e).mul (bauElem fmt b.bc.toNat e))
    setA f.a (setLane (getA b f.a) lane (encodeF fp32 ((accLane b f.a lane).add dot)))
      (getPA b f.a || po || b.pbc) b
  else if op = opBADD then setV f.x (vecOf fun i => (y i).add (z i)) (getPV b f.y || getPV b f.z) b
  else if op = opBMUL then setV f.x (vecOf fun i => (y i).mul (z i)) (getPV b f.y || getPV b f.z) b
  else if op = opBFMA then
    setV f.x (vecOf fun i => ((y i).mul (z i)).add (x i)) (getPV b f.x || getPV b f.y || getPV b f.z) b
  else if op = opBEMA then
    setA f.a (accOf fun i => (bcl.mul (accLane b f.a i)).add
        (((FVal.ofInt 1).sub bcl).mul (bauElem 0 w i)))
      (getPA b f.a || po || b.pbc) b
  else if op = opBSCALE then
    setA f.a (accOf fun i => (accLane b f.a i).mul (y i)) (getPA b f.a || getPV b f.y) b
  else if op = opBCVT then
    if f.z = 0 then
      if isFp8 f then setV f.x (vecOf fun i => bauElem fmt w (16 * (lane % 2) + i)) po b
      else
        let q := lane % 4
        let sc := decodeF bf16 (laneOf 16 (getV b 7) (2 * (4 * b2n f.a + lane / 4) + q / 2))
        setV f.x (vecOf fun i => (bauElem fmt w (16 * q + i)).mul sc) (po || getPV b 7) b
    else if fmt = 0 then setV f.x (vecOf fun i => accLane b f.a i) (getPA b f.a) b
    else
      let half := packLanes 8 ((List.range 16).map fun i => encodeF (bauFmt fmt) (accLane b f.a i))
      setV f.x (setBits (getV b f.x) (128 * (lane % 2)) 128 half) (getPV b f.x || getPA b f.a) b
  else if op = opBRED then
    let l := (List.range 16).map fun i => accLane b f.a i
    let r := if f.z = 0 then sumF l
      else if f.z = 1 then l.tail.foldl FVal.maxNum (l.headD .nan) else l.tail.foldl FVal.minNum (l.headD .nan)
    setA (!f.a) (setLane (getA b (!f.a)) lane (encodeF fp32 r)) (getPA b (!f.a) || getPA b f.a) b
  else if op = opBCLR then
    if f.z = 0 then setA f.a 0 false b
    else if f.z = 1 then setA f.a (accOf fun _ => .inf true) false b
    else if f.z = 2 then setV f.x 0 false b
    else { b with bc := 0, pbc := false }
  else if op = opBSEL then
    let sel (i : Nat) : Bool := match decodeF bf16 (laneOf 16 b.bc.toNat i) with
      | .fin _ m _ => decide (m ≠ 0)
      | _ => true
    setV f.x (vecOf fun i => if sel i then y i else z i) (getPV b f.y || getPV b f.z || b.pbc) b
  else b

/-! ## Columns, ECC and poison (spec/09, R170-R175) -/

/-- A coordinate enters the channel's repair list, or is dropped and counted (R178, R179). -/
def addRepair (st c : Nat) (it : ScrubItem) (s : Sled) : Sled :=
  let ch := getChan s st c
  if 16 ≤ ch.repair.length then bumpMc st c 9 s
  else if ch.repair.contains it then s
  else updChan st c (fun ch => { ch with repair := ch.repair ++ [it] }) s

/-- A BAU reads the column word at place `p`: corrected where one bit is wrong, poisoned where it is poisoned or
freshly uncorrectable; the stored word is unchanged (R170, R175). -/
def readOperand (p : Nat) (s : Sled) : (Nat × Bool) × Sled :=
  let c := coordOf p
  let w := leNat (memRead s.mem (p / 32 * 32) 32)
  let it : ScrubItem := { bank := c.rank * 16 + c.bank, row := c.row, col := some c.col }
  let e := eccAt s p
  if e = ePoison then ((leNat poisonBytes, true), bump (bBCS c.stack) (0x1008 + 0x10 * c.chan) s)
  else if e = eFresh then ((leNat poisonBytes, true), addRepair c.stack c.chan it (freshUe c s))
  else if e = eSingle then
    let s := bump (bBCS c.stack) (0x1000 + 0x10 * c.chan) (addRepair c.stack c.chan it s)
    ((w, false), logLimited ms (chanKey c.stack c.chan) (mkRec 0x4007 (iMC c.stack)) s)
  else ((w, false), s)

/-- A bank program's queue as requester (spec/12, Table 12-7). -/
def whoBcs (st : Nat) (r : Run) : Who :=
  { q := r.q, kind := 5, ix := st, tenant := some r.prog.tenant, island := iMC st }

/-- The running program of a stack. -/
def getRun (s : Sled) (st : Nat) : Option Run := (fget s.bcs {} st).run

/-- Replace the running program. -/
def setRun (st : Nat) (r : Option Run) (s : Sled) : Sled :=
  { s with bcs := fset s.bcs {} st { fget s.bcs {} st with run := r } }

/-- The program of stack `src` writes poison out on channel `c` for the first time: one record per program
and channel, naming the first destination (R175). -/
def logBauPoison (src c addr : Nat) (s : Sled) : Sled :=
  match getRun s src with
  | some r =>
    if bitAt r.poisoned c then s
    else
      let s := setRun src (some { r with poisoned := setBit r.poisoned c true }) s
      logRec (recAddr false addr (moduleId s) (recWho s 0x4001 (whoBcs src r))) s
  | none => s

/-- The region whose band holds a row, among valid and well-formed ones. -/
def rowRegion (s : Sled) (row : Nat) : Option Nat :=
  (List.range 16).find? fun n =>
    let r := region s n
    r.valid && r.ok && r.row0 ≤ row && row < r.row0 + r.rows

/-- User coordinates of a place: a spare's stand for the rank that it replaces. -/
def userCoord (s : Sled) (c : Coord) : Coord :=
  if c.stack = 8 then
    match spareEnt s c.rank with
    | some e => { c with stack := e.stack, rank := e.rank }
    | none => c
  else c

/-- Local address of a place, by the map of its row's region; 0 where no region holds the row. -/
def addrOfPlace (s : Sled) (p : Nat) : Nat :=
  match rowRegion s (coordOf p).row with
  | some n => xlateInv (masks s) (region s n) (userCoord s (coordOf p))
  | none => 0

/-- The words that BRDACC drives on the data bus, poisoned where the register is flagged (R153, R174). -/
def brdWords (b : BankU) (f : BauFields) : List (BitVec 256 × Bool) :=
  let word (w : Nat) (p : Bool) : BitVec 256 × Bool := (BitVec.ofNat 256 (if p then leNat poisonBytes else w), p)
  if f.m then [word (getV b f.x) (getPV b f.x)]
  else [word (getA b f.a % 2 ^ 256) (getPA b f.a), word (getA b f.a / 2 ^ 256) (getPA b f.a)]

/-- Repeat `i` of a command in bank `k` (R149). -/
def bauStep (src k op : Nat) (f : BauFields) (i : Nat) (s : Sled) : Sled :=
  let b := getBank s k
  let place := k * 2 ^ 26 + (bauRow b f).getD 0 * 1024 + (f.col.toNat + i) * 32
  if op = opBST then
    if getPV b f.x then logBauPoison src (keyChan k) (addrOfPlace s place) (poisonRaw place s)
    else writeRaw place (2 ^ 32 - 1) (leBytes 32 (getV b f.x)) s
  else if op = opBRDACC then
    (brdWords b f).foldl (fun s w => emit (.data 12 w.1 w.2) s) s
  else
    let ((w, po), s) :=
      if bauColumn op f then readOperand place s else ((getV b f.y, getPV b f.y), s)
    setBank k (bauApply op f (bauLane f i) w po (getBank s k)) s

/-! ## The bank's command queue (R151, R152) -/

/-- The operation reads BC (Table 8-4). -/
def readsBc (op : Nat) : Bool := op = opBMAC || op = opBDOT || op = opBEMA || op = opBSEL

/-- The time that one step takes: at tCCD_B after the step before, in its row from tRCD_B after its activate, and with
tBCW met for BC; it puts off the CLOSE of its half by tRTP_B or tWR_B (Table 8-5). -/
def stepTime (k op : Nat) (f : BauFields) (s : Sled) : Sled :=
  let m := getTm s k
  let t := max m.stepAt (chTime s (keyStack k) (keyChan k))
  let t := if bauColumn op f then max t (if f.h then m.colO else m.colE) else t
  let t := if readsBc op then max t m.bcAt else t
  let pre := if bauColumn op f then t + (if op = opBST then tWRB else tRTPB) else 0
  setTm k { m with
    stepAt := t + tCCDB (binOf s (keyStack k))
    preE := if f.h then m.preE else max m.preE pre
    preO := if f.h then max m.preO pre else m.preO } s

/-- A bank program of stack `src` makes progress for its tenant (spec/12, R242). -/
def progProgress (src : Nat) (s : Sled) : Sled :=
  match getRun s src with
  | some r => progress r.prog.tenant s
  | none => s

/-- The bank's next action: a BC move, which takes no column step, or one repeat of its command. -/
def bankStep (k : Nat) (s : Sled) : Sled :=
  let b := getBank s k
  match b.q with
  | [] => s
  | .move :: q => setBank k { b with q := q, bc := b.stg, pbc := b.pstg, stg := 0, pstg := false, stgFull := false } s
  | .bau src op f :: q =>
    let s := progProgress src (stepTime k op f (bauStep src k op f b.step s))
    let b := getBank s k
    setBank k (if b.step < f.cnt.toNat then { b with step := b.step + 1 } else { b with q := q, step := 0 }) s

/-- The bank's commands run to the end: at most 8 of at most 32 repeats. -/
def bankDrain (k : Nat) (s : Sled) : Sled := go 256 s
where
  /-- Run while a command is left. -/
  go : Nat → Sled → Sled
    | 0, s => s
    | n + 1, s => if (getBank s k).q.isEmpty then s else go n (bankStep k s)

/-- BC moves at the front of the queue, then one column step. -/
def bankColumn (k : Nat) (s : Sled) : Sled := bankStep k (moves 8 s)
where
  /-- Leading moves. -/
  moves : Nat → Sled → Sled
    | 0, s => s
    | n + 1, s => if (getBank s k).q.head? = some .move then moves n (bankStep k s) else s

/-- A bank takes a command at the end of its queue. -/
def bankPush (k : Nat) (c : BankCmd) (s : Sled) : Sled :=
  let b := getBank s k
  setBank k { b with q := b.q ++ [c] } s

/-- A BC load reaches the bank: staging takes it, and its move takes its place in command order (R152). -/
def bankBcw (k : Nat) (d : BitVec 256) (po : Bool) (s : Sled) : Sled :=
  let b := getBank s k
  setTm k { getTm s k with bcAt := chTime s (keyStack k) (keyChan k) + tBCW }
    (setBank k { b with stg := d, pstg := po, stgFull := true, q := b.q ++ [.move] } s)

/-- Every named bank can take one more command now (R151). -/
def bankRoom (s : Sled) (keys : List Nat) : Bool :=
  keys.all fun k => !bankHeld s k && (getBank s k).q.length < 8

/-- A program row has been closed or is open: the BCS no longer has to reopen it. -/
def clearReop (half k : Nat) (s : Sled) : Sled :=
  let bt := getBt (getChan s (keyStack k) (keyChan k)) (keyCBank k)
  if bt.reop = 0 then s
  else updBt (keyStack k) (keyChan k) (keyCBank k) (fun x => { x with reop := setBit x.reop half false }) s

/-- Close one half of a bank once its steps are over; it takes its next activate tRP_B later. -/
def closeHalf (half k : Nat) (s : Sled) : Sled :=
  let b := getBank s k
  let m := getTm s k
  let t := max (chTime s (keyStack k) (keyChan k)) (max m.stepAt (if half = 0 then m.preE else m.preO)) + tRPB
  clearReop half k (setBank k (if half = 0 then { b with rowE := none } else { b with rowO := none })
    (setTm k (if half = 0 then { m with actE := t } else { m with actO := t }) s))

/-- The halves of a bank that hold a program row, as a mask. -/
def openHalves (b : BankU) : Nat := b2n b.rowE.isSome + 2 * b2n b.rowO.isSome

/-- The program rows of a bank have been closed under the program: the BCS has to reopen them (R161). -/
def mustReopen (k : Nat) (s : Sled) : Sled :=
  if openHalves (getBank s k) = 0 then s
  else updBt (keyStack k) (keyChan k) (keyCBank k) (fun x => { x with reop := openHalves (getBank s k) }) s

/-- Registers, staging and flags are cleared (R154, R61). -/
def bankClear (b : BankU) : BankU := { own := b.own, rowE := b.rowE, rowO := b.rowO, q := b.q, step := b.step }

/-! ## The commands -/

/-- The keys of a selection operand. -/
def selOf (s : Sled) (b : BankSel) : List Nat := selKeys s b.stack.val b.chan.val b.group.val b.banks.toNat

/-- A BAU operation on the banks of a selection: issued where it is valid and the banks take it, and run to
its end after their earlier commands (R148, R151). -/
def bauRun (op : Nat) (b : BankSel) (f : BauFields) (s : Sled) : Sled :=
  let keys := selOf s b
  if keys.all (fun k => !bankStopped s k) && chanFree s b.stack.val b.chan.val && bauValid s keys op f then
    let s := cmdIssue b.stack.val [b.chan.val] keys 2
      (.prog iopBAU b.group.val b.banks.toNat op (bauWord op f)) s
    keys.foldl (fun s k => bankDrain k (bankPush k (.bau b.stack.val op f) (bankDrain k s))) s
  else s

def fxBld (b : BankSel) (f : BauFields) : Sled → Sled := bauRun opBLD b f
def fxBst (b : BankSel) (f : BauFields) : Sled → Sled := bauRun opBST b f
def fxBmac (b : BankSel) (f : BauFields) : Sled → Sled := bauRun opBMAC b f
def fxBdot (b : BankSel) (f : BauFields) : Sled → Sled := bauRun opBDOT b f
def fxBadd (b : BankSel) (f : BauFields) : Sled → Sled := bauRun opBADD b f
def fxBmul (b : BankSel) (f : BauFields) : Sled → Sled := bauRun opBMUL b f
def fxBfma (b : BankSel) (f : BauFields) : Sled → Sled := bauRun opBFMA b f
def fxBema (b : BankSel) (f : BauFields) : Sled → Sled := bauRun opBEMA b f
def fxBscale (b : BankSel) (f : BauFields) : Sled → Sled := bauRun opBSCALE b f
/-- BCVT with Z = 0: the row's own form, whatever Z the operand holds. -/
def fxBcvtDequantise (b : BankSel) (f : BauFields) : Sled → Sled := bauRun opBCVT b { f with z := 0 }
/-- BCVT with Z = 1. -/
def fxBcvtNarrow (b : BankSel) (f : BauFields) : Sled → Sled := bauRun opBCVT b { f with z := 1 }
def fxBmax (b : BankSel) (f : BauFields) : Sled → Sled := bauRun opBMAX b f
def fxBmin (b : BankSel) (f : BauFields) : Sled → Sled := bauRun opBMIN b f
def fxBred (b : BankSel) (f : BauFields) : Sled → Sled := bauRun opBRED b f
def fxBrdacc (b : BankSel) (f : BauFields) : Sled → Sled := bauRun opBRDACC b f
def fxBclr (b : BankSel) (f : BauFields) : Sled → Sled := bauRun opBCLR b f
def fxBsel (b : BankSel) (f : BauFields) : Sled → Sled := bauRun opBSEL b f

/-- BCW: the banks' BC staging takes the data, unless a staged value still waits (R152). -/
def fxBcw (b : BankSel) (d : BitVec 256) (po : Bool) (s : Sled) : Sled :=
  let keys := selOf s b
  if bankRoom s keys && chanFree s b.stack.val b.chan.val && keys.all (fun k => !(getBank s k).stgFull) then
    keys.foldl (fun s k => bankBcw k d po s)
      (cmdIssue b.stack.val [b.chan.val] keys 1 (.prog iopBCW b.group.val b.banks.toNat 0 d.toNat) s)
  else s

/-- BC_STAGING_MOVE: each named bank that has reached its BCW moves the staged value into BC (R152). -/
def fxBcStagingMove (b : BankSel) (s : Sled) : Sled :=
  (selOf s b).foldl (fun s k =>
    if !bankHeld s k && (getBank s k).q.head? = some .move then bankStep k s else s) s

/-- COLUMN_STEP: one column step in every bank of the stack that has a command and is not held (R151); a thermal
pause slot holds every bank of its channel (R161, R376). -/
def fxColumnStep (st : Nat) (s : Sled) : Sled :=
  let keys := (s.bank.map (·.1)).filter fun k => keyStack k = st && !bankStopped s k
  keys.foldl (fun s k => bankColumn k s) s

def execBld (b : BankSel) (f : BauFields) (s : State) := lift (fxBld b f) s
def execBst (b : BankSel) (f : BauFields) (s : State) := lift (fxBst b f) s
def execBmac (b : BankSel) (f : BauFields) (s : State) := lift (fxBmac b f) s
def execBdot (b : BankSel) (f : BauFields) (s : State) := lift (fxBdot b f) s
def execBadd (b : BankSel) (f : BauFields) (s : State) := lift (fxBadd b f) s
def execBmul (b : BankSel) (f : BauFields) (s : State) := lift (fxBmul b f) s
def execBfma (b : BankSel) (f : BauFields) (s : State) := lift (fxBfma b f) s
def execBema (b : BankSel) (f : BauFields) (s : State) := lift (fxBema b f) s
def execBscale (b : BankSel) (f : BauFields) (s : State) := lift (fxBscale b f) s
def execBcvtDequantise (b : BankSel) (f : BauFields) (s : State) := lift (fxBcvtDequantise b f) s
def execBcvtNarrow (b : BankSel) (f : BauFields) (s : State) := lift (fxBcvtNarrow b f) s
def execBmax (b : BankSel) (f : BauFields) (s : State) := lift (fxBmax b f) s
def execBmin (b : BankSel) (f : BauFields) (s : State) := lift (fxBmin b f) s
def execBred (b : BankSel) (f : BauFields) (s : State) := lift (fxBred b f) s
def execBrdacc (b : BankSel) (f : BauFields) (s : State) := lift (fxBrdacc b f) s
def execBclr (b : BankSel) (f : BauFields) (s : State) := lift (fxBclr b f) s
def execBsel (b : BankSel) (f : BauFields) (s : State) := lift (fxBsel b f) s
def execBcw (b : BankSel) (data : BitVec 256) (poisoned : Bool) (s : State) := lift (fxBcw b data poisoned) s
def execBcStagingMove (b : BankSel) (s : State) := lift (fxBcStagingMove b) s
def execColumnStep (st : StackId) (s : State) := lift (fxColumnStep st.val) s

end Sys2Proof.Machine
end

