-- ==== Sys2Proof/Machine/Tier.lean ====
section
/-! DEFINITION. What ends work and takes units away: the end of a bank program, the tenant reset and the core
reset, units that go offline, and the fall to the watch-only tier (spec/03 R61; spec/04 R87-R90; spec/08
R160; spec/12 R239; spec/14 R288; spec/18 R359). -/

namespace Sys2Proof.Machine

open Sys2Proof

/-! ## The end of a bank program (spec/08, R160) -/

/-- Keys of the banks that may hold commands or rows of a stack's program: its own and the spares'. -/
def progKeys (s : Sled) (st : Nat) : List Nat :=
  (s.bank.map (·.1)).filter fun k => keyStack k = st || keyStack k = 8

/-- Issued commands complete. -/
def progDrain (st : Nat) (s : Sled) : Sled := (progKeys s st).foldl (fun s k => bankDrain k s) s

/-- Some bank with commands waiting is held, so they cannot complete now. -/
def progHeld (s : Sled) (st : Nat) : Bool :=
  (progKeys s st).any fun k => bankStopped s k && !(getBank s k).q.isEmpty

/-- MW8.BCM returns to 0 on a channel of a stack (R143). -/
def leaveBcm (st c : Nat) (s : Sled) : Sled :=
  if !(getChan s st c).bcm then s
  else
    let s := pushRetry st c { ranks := 15, cmd := .mode 8 0 } (useSlots st c 0 1 s)
    updChan st c (fun ch => { ch with bcm := false, rdyCmd := ch.clk + tBMOD }) s

/-- The rows of the program close, and MW8.BCM returns to 0 where no program row remains open (R143). -/
def progClose (st : Nat) (s : Sled) : Sled :=
  let s := (progKeys s st).foldl (fun s k =>
    if (getBank s k).own ≠ st then s
    else
      let s := if (getBank s k).rowE.isSome then closeHalf 0 k s else s
      if (getBank s k).rowO.isSome then closeHalf 1 k s else s) s
  let s := (List.range 16).foldl (fun s c => leaveBcm st c s) s
  (List.range 16).foldl (fun s c =>
    if s.bank.any fun p => keyStack p.1 = 8 && keyChan p.1 = c && inWindow p.2 then s
    else leaveBcm 8 c s) s

/-- The running program ends: its issued commands complete and its rows close. -/
def progEnd (st : Nat) (s : Sled) : Sled := setRun st none (progClose st (progDrain st s))

/-! ## Tenant reset (spec/03, R61; spec/12, R239; spec/14, R288) -/

/-- A descriptor queue of a tenant empties: what was fetched is dropped and HEAD takes TAIL's place. -/
def dropQueue (u q : Nat) (s : Sled) : Sled :=
  let mine := (descs s u).filter fun d => d.q = q
  let s := mine.foldl (fun s d => forgetDesc d.id s) s
  let s := setDescs u ((descs s u).filter fun d => d.q ≠ q) s
  let gone (id : Nat) : Bool := mine.any fun d => d.id = id
  let s := if u < 8 then
      let v := fget s.vc {} u
      { s with vc := fset s.vc {} u { v with staging := v.staging.filter (!gone ·), stagingQ := v.stagingQ.filter (!gone ·) } }
    else { s with ste := { s.ste with evictQ := s.ste.evictQ.filter (!gone ·) } }
  rSetField (qBlk u) (0x10 + 0x20 * q) 0 12 (rField s (qBlk u) (0x08 + 0x20 * q) 0 12) s

/-- Objects that a tenant owns outside the rescue page carry LOST from now on (R239). -/
def loseObjects (t : Nat) (s : Sled) : Sled :=
  { s with
    ctr := s.ctr.map fun p => if p.2.valid && p.2.owner = t && !rescueObj false p.1 then (p.1, { p.2 with lost := true }) else p
    sem := s.sem.map fun p => if p.2.valid && p.2.owner = t && !rescueObj true p.1 then (p.1, { p.2 with lost := true }) else p }

/-- A wait on an object of this sled that is lost. -/
def waitLost (s : Sled) (w : Wait) : Bool :=
  w.mod = none &&
  (match w.kind with
   | .counter => (getCtr s w.idx).lost
   | _ => (getSem s w.idx).lost)

/-- The work of a tenant reset: its queues, scalar-engine and bank programs, streams and waits end without a
record; its objects are lost and other tenants' waits on them fail. -/
def tenantEnd (t : Nat) (s : Sled) : Sled :=
  let s := (List.range 9).foldl (fun s u =>
    (List.range (if u = 8 then 16 else 24)).foldl (fun s q => if qTen s u q = t then dropQueue u q s else s) s) s
  let s := (List.range 8).foldl (fun s c =>
    if (fget s.vc {} c).seRun && (fget s.vc {} c).seTenant = t then seStopOp c s else s) s
  let s := { s with waits := s.waits.filter fun w => w.who.tenant ≠ some t || w.who.mod.isSome }
  let s := (List.range 9).foldl (fun s st =>
    let b := fget s.bcs {} st
    let s := { s with bcs := fset s.bcs {} st { b with queues := b.queues.map fun l => l.filter (·.tenant ≠ t) } }
    match getRun s st with
    | some r => if r.prog.tenant = t then progEnd st s else s
    | none => s) s
  let s := { s with ste := { s.ste with
    streams := fdrop s.ste.streams fun _ x => x.tenant = t
    turn := s.ste.turn.filter fun id => !(s.ste.streams.any fun p => p.1 = id && p.2.tenant = t) } }
  let s := loseObjects t s
  let s := { s with dld := fset s.dld {} t {} }
  failWaits (fun w => waitLost s w && w.who.tenant.isSome) 0x1003 s

/-- A tenant reset begins (R61, R63): dropped where one of that tenant is in progress, or a wider reset that keeps the
main rails down. `byReg` says that GLB_RESET started it. -/
def tenantResetBegin (t : Nat) (byReg : Bool) (s : Sled) : Sled :=
  if s.plat.tenantReset.any (·.1 = t) || s.plat.rails ≠ .up then s
  else tenantEnd t { s with plat := { s.plat with tenantReset := s.plat.tenantReset ++ [(t, byReg)] } }

/-! ## Core reset (spec/03, R61) -/

/-- Restore the registers of block `blk` to their reset values, but for those that `keep` names. -/
def restoreBlk (blk : Nat) (keep : Nat → Bool) (s : Sled) : Sled :=
  { s with regs := fdrop s.regs fun k _ => k / 0x100000 = blk && !keep (k % 0x100000) }

/-- The requests and waits of a control core end. -/
def ccDrop (i : Nat) (s : Sled) : Sled :=
  let mine (w : Who) : Bool := w.kind = 4 && w.ix = i && w.mod = none
  { s with
    waits := s.waits.filter fun w => !mine w.who
    fab := { s.fab with out := s.fab.out.filter fun o => match o.2.cont with
      | .value w => !mine w
      | _ => true } }

/-- General registers of a core: 0-7 scalar engines, 8-11 control cores, return to their reset value. -/
def clearX (core : Nat) (s : Sled) : Sled := { s with cpu := fdrop s.cpu fun k _ => k / 32 = core }

/-- The logic of a vault core returns to its reset state; its scratchpad is kept. LK fields and preload-locked
registers keep their values (spec/22, R421): `s.locked` names them. -/
def vcClear (n : Nat) (s : Sled) : Sled :=
  let s := (descs s n).foldl (fun s d => forgetDesc d.id s) s
  let s := seDrop n s
  let s := { s with
    waits := s.waits.filter fun w => !(w.who.kind ≤ 3 && w.who.ix = n && w.who.mod = none)
    vc := ferase s.vc n }
  clearX n (restoreBlk (bLAY n) (fun off => s.locked.contains (regKey (bLAY n) off)) s)

/-- A core reset begins (R61): a vault core's island goes into reset, or a control core stops. One already
in progress is not begun again, and 12-15 name no core (spec/22, R424). -/
def coreResetBegin (core : Nat) (byReg : Bool) (s : Sled) : Sled :=
  if 12 ≤ core || s.plat.coreReset.any (·.1 = core) then s
  else if core < 8 then
    if !islRuns s (iVC core) then s
    else setIsl (iVC core) 1 (vcClear core { s with plat := { s.plat with coreReset := s.plat.coreReset ++ [(core, byReg)] } })
  else
    if !s.ccRunning.getLsbD (core - 8) then s
    else
      let s := clearX core (ccDrop (core - 8) s)
      { s with ccRunning := BitVec.ofNat 4 (setBit s.ccRunning.toNat (core - 8) false)
               plat := { s.plat with coreReset := s.plat.coreReset ++ [(core, byReg)] } }

/-! ## Service tiers (spec/04, R87-R90) -/

/-- Units of the compute set that are usable: stacks, vault cores, control cores, ports (R87). -/
def usableStacks (s : Sled) : Nat :=
  ((List.range 8).filter fun st => islRuns s (iMC st) && (List.range 16).any fun c => (getChan s st c).online).length
def usableVc (s : Sled) : Nat := ((List.range 8).filter fun n => islRuns s (iVC n) || s.plat.coreReset.any (·.1 = n)).length
def usableCc (s : Sled) : Nat := 4 - popcount 4 s.ccOffline.toNat
def usablePorts (s : Sled) : Nat :=
  match s.prof with
  | none => 0
  | some p =>
    ((List.range 16).filter fun l => bitAt p.cfg.links l && (fget s.isl {} (iL l)).selftest && islState s (iL l) ≠ 3).length +
    b2n (p.cfg.hostPort && (fget s.isl {} iHST).selftest && islState s iHST ≠ 3)

/-- The compute set is complete (R87, Table 4-5). -/
def computeSet (s : Sled) : Bool :=
  match s.prof with
  | none => false
  | some p =>
    max 1 p.cfg.minStacks ≤ usableStacks s && max 1 p.cfg.minVc ≤ usableVc s &&
    max 1 p.cfg.minCc ≤ usableCc s && max 1 p.cfg.minPorts ≤ usablePorts s

/-- The sled enters watch-only (R88, R90): logged with its cause; from compute service READY falls and every
tenant task ends by tenant reset. A start that ends so fails its trials (spec/20, R399). The spec names no cause codes
beyond "the cause code": the model gives the code of the record that the failure itself logs, and CFG_UNIT_OFFLINE
0x9008 for an incomplete compute set (DESIGN CHOICE, notes/assumptions/39). -/
def watchOnly (cause : Nat) (s : Sled) : Sled :=
  if s.kpr.tier = 1 then s
  else
    let was := s.kpr.tier
    let s := startTrialsFail s
    let s := logRec { mkRec 0x9007 0 with arg1 := cause }
      { s with kpr := { s.kpr with tier := 1 }, plat := { s.plat with ready := false }
               hst := { s.hst with retry := false } }
    let s := platEvent 2 2 (alertOn s)
    if was = 2 then
      let s := { s with hst := { s.hst with aer := fset s.hst.aer 0 0 (setBit (fget s.hst.aer 0 0) 3 true) } }
      let s := (List.range 16).foldl (fun s t => vfEvent t 2 s) s
      (List.range 16).foldl (fun s t => tenantResetBegin t false s) s
    else s

/-- Every vault core that a tenant's mask names is offline. -/
def coresGone (s : Sled) (t : Nat) : Bool :=
  vcMask s t % 256 ≠ 0 && (maskList 8 (vcMask s t)).all fun n => islState s (iVC n) = 3

/-- Tenants of a vault core that has gone offline whose mask names only offline cores receive a tenant reset (R89). -/
def strandedReset (core : Nat) (s : Sled) : Sled :=
  (List.range 16).foldl (fun s t =>
    if bitAt (vcMask s t) core && coresGone s t then tenantResetBegin t false s else s) s

/-- A unit has gone offline: logged, and the sled falls to watch-only where the compute set is no longer complete, in
service or at a start that has no control core left to complete it (Table 4-7). -/
def unitGone (island : Nat) (s : Sled) : Sled :=
  let s := logRec (mkRec 0x9008 island) s
  let s := if 2 ≤ island ∧ island < 10 then strandedReset (island - 2) s else s
  if (s.kpr.tier = 2 || usableCc s = 0) && !computeSet s then watchOnly 0x9008 s else s

/-- The requester behind a channel port (spec/06, Table 6-1). -/
def portWho (p : Nat) : Who :=
  if p < 8 then { kind := 0, ix := p, island := iVC p }
  else if p = 8 then { kind := 6, island := iSTE }
  else if p = 9 then { kind := 9, island := iNOC }
  else if p = 10 then { kind := 7, island := iHST }
  else { kind := 8, island := 0 }

/-- A channel goes offline for a lost rank (R89, R359): DRAM_RANK_LOST is logged for it, and its held requests
complete as accesses to an unmapped address. -/
def chanOffline (st c r : Nat) (s : Sled) : Sled :=
  if (getChan s st c).off then s
  else
    let s := landAll st c s
    let held := (getChan s st c).q
    let s := updChan st c (fun ch => { ch with online := false, off := true, q := [] }) s
    let s := logRec { mkRec 0x300C (iMC st) with object := r * 16 + c * 64 + st * 1024 } s
    let s := held.foldl (fun s q =>
      let a := addrOfPlace s q.phys
      let s := logUnmapped (portWho q.port) a iNOC s
      match q.wr with
      | none => emit (.data q.port 0 false) s
      | some _ => s) s
    unitGone (iMC st) s

/-- A rank fails on a channel for good (R125, R131, R133): it is spared, or without a spare the channel goes
offline (R359). -/
def rankFatal (st c r : Nat) (s : Sled) : Sled :=
  match spareTrigger st r true s with
  | (true, s) => chanOffline st c r s
  | (false, s) => s

/-- A control core goes offline (R88, R89). -/
def ccGone (i : Nat) (s : Sled) : Sled :=
  unitGone iCTL { s with ccOffline := BitVec.ofNat 4 (setBit s.ccOffline.toNat i true)
                         ccRunning := BitVec.ofNat 4 (setBit s.ccRunning.toNat i false) }

end Sys2Proof.Machine
end

