-- ==== Sys2Proof/Machine/Slots.lean ====
section
/-! DEFINITION. What a command slot of a DRAM channel can issue (spec/06): requests and their urgency, the readiness of
commands, and the choice among the requests of one urgency. -/

namespace Sys2Proof.Machine

open Sys2Proof

/-! ## Requests (R107-R113) -/

/-- Reserved entries of a port (R109). -/
def portRes (p : Nat) : Nat := if p = 11 then 8 else 2

/-- A channel's queue has an entry for a port: a reserved one, or one of the 34 shared (R109). -/
def queueRoom (q : List Req) (p : Nat) : Bool :=
  let used (p : Nat) : Nat := (q.filter (·.port = p)).length
  let shared := ((List.range 12).map fun p => used p - portRes p).foldl (· + ·) 0
  used p < portRes p || shared < 34

/-- Bytes a request touches. -/
def Req.bytes (r : Req) : Nat :=
  match r.wr with
  | some (m, _) => m.toNat
  | none => 2 ^ 32 - 1

/-- Two requests touch a byte in common of one bank and row (R113). -/
def reqOverlap (a b : Req) : Bool :=
  a.bank = b.bank && a.row = b.row && a.col = b.col && (Req.bytes a &&& Req.bytes b) ≠ 0

/-- An older request takes the urgency of a younger one that it overlaps (R113). -/
def inherit_ : List Req → List Req
  | [] => []
  | r :: l =>
    let l := inherit_ l
    { r with u := l.foldl (fun u x => if reqOverlap r x then max u x.u else u) r.u } :: l

/-- Controller clocks of two slots in a time, rounded down (R106, R111). -/
def clocksIn (bin t : Nat) : Nat := t / (2 * slotLen bin)

/-- The urgency that a request of port `p` has at an age, by its port's target (R110, R111): its thresholds lie at half,
three quarters and all of T in controller clocks. -/
def urgencyOf (s : Sled) (st p age : Nat) : Nat :=
  if p = 11 then 3
  else
    let tgt := clocksIn (binOf s st) (max 100 (min 60000 (rField s (bMC st) (0x10 + 8 * p) 0 16)) * ns)
    let a := clocksIn (binOf s st) age
    if 2 * a < tgt then 0 else if 4 * a < 3 * tgt then 1 else if a < tgt then 2 else 3

/-- A request at time `t`: its urgency has risen with its age and never falls (R111). -/
def Req.aged (s : Sled) (st t : Nat) (r : Req) : Req := { r with u := max r.u (urgencyOf s st r.port (t - r.at_)) }

/-- The queue of a channel at time `t`: every urgency re-evaluated, and inherited (R111, R113). -/
def agedQ (s : Sled) (st c t : Nat) : List Req := inherit_ ((getChan s st c).q.map (Req.aged s st t))

/-- A request may join the batch of its bank's open row (R107). -/
def mayJoin (ch : Chan) (bank row at_ : Nat) : Bool :=
  let bt := getBt ch bank
  bt.row = some row && !bt.closed && !bt.taken && at_ ≤ bt.actAt + tBatch &&
  bt.joined + (ch.q.filter fun r => r.bank = bank && r.join).length < 8

/-! ## Arbitration (R112) -/

/-- What a channel can issue in a slot. -/
inductive SlotAct where
  /-- REFpb to a bank; forced, or opportunistic. -/
  | ref (b : Nat) (forced : Bool)
  /-- The program rows of a bank are closed for a request (true) or a refresh. -/
  | take (b : Nat) (urgent : Bool)
  /-- ACT for, or the column of, the request at a place of the queue. -/
  | act (i : Nat)
  | col (i : Nat)
  /-- ACT of a program row that the BCS reopens (R108, R161). -/
  | reopen (b : Nat)
  /-- The slot goes to the bank program. -/
  | program
  | idle
  deriving DecidableEq, Repr

/-- Key of a bank of a channel. -/
def chanBankKey (st c b : Nat) : Nat := chanKey st c * 64 + b

/-- The bank is compute-open (R145). -/
def computeOpen (s : Sled) (st c b : Nat) : Bool := inWindow (getBank s (chanBankKey st c b))

/-- The bank's rank takes commands on this channel (R125). -/
def rankOn (s : Sled) (st c b : Nat) : Bool := !unreadable s st c (b / 16)

/-- Halves of a bank whose program rows are open now, as a mask: none in a bank that is taken, and not those that the
BCS has yet to reopen. -/
def rowsOpen (s : Sled) (st c b : Nat) : Nat :=
  let bt := getBt (getChan s st c) b
  if bt.taken then 0 else openHalves (getBank s (chanBankKey st c b)) &&& (3 - bt.reop % 4)

/-- The bank has no row open and takes an ACT or a refresh at time `t`: precharge and refresh are over. -/
def bankIdle (s : Sled) (st c b t : Nat) : Bool :=
  let bt := getBt (getChan s st c) b
  let m := getTm s (chanBankKey st c b)
  bt.row.isNone && bt.rdyAct ≤ t && m.actE ≤ t && m.actO ≤ t && rowsOpen s st c b = 0 && rankOn s st c b

/-- A bank must be refreshed before anything else (R116, R118). -/
def mustRefresh (ch : Chan) (b : Nat) : Bool :=
  let o := (getBt ch b).owed
  o = 8 || ((ch.due ≠ 0 || ch.dueX) && 6 < o)

/-- The bank of highest debt among those that `p` names, lowest ordinal first. -/
def mostOwed (ch : Chan) (p : Nat → Bool) : Option Nat :=
  ((List.range 64).filter p).foldl (fun best b =>
    match best with
    | none => some b
    | some a => if (getBt ch a).owed < (getBt ch b).owed then some b else best) none

/-- The column of the request at place `i` meets its timing at `t` (R107, R113). -/
def colReady (s : Sled) (st c t i : Nat) (r : Req) : Bool :=
  let ch := getChan s st c
  let bt := getBt ch r.bank
  r.join && bt.row = some r.row && bt.rdyCol ≤ t && rankOn s st c r.bank &&
  (if r.wr.isSome then ch.rdyWr ≤ t else fget ch.rdyRdRank 0 (r.bank / 16) ≤ t) &&
  !(ch.q.take i).any fun x => reqOverlap x r

/-- The ACT for a request meets its timing at `t` (R108, R116). -/
def actReady (s : Sled) (st c t : Nat) (r : Req) : Bool :=
  let ch := getChan s st c
  bankIdle s st c r.bank t && ch.rdyAct ≤ t && !mustRefresh ch r.bank &&
  (!computeOpen s st c r.bank || r.u = 3)

/-- An urgency-3 request targets a bank in which the program's rows are open (R108). -/
def takeReady (s : Sled) (st c : Nat) (r : Req) : Bool :=
  r.u = 3 && rowsOpen s st c r.bank ≠ 0 && !mustRefresh (getChan s st c) r.bank && rankOn s st c r.bank

/-- The request of urgency `u` to serve: row hits first, then the oldest, then the lower port (R112). -/
def pickReq (s : Sled) (st c t u : Nat) : SlotAct :=
  let q := (getChan s st c).q
  let best (p : Nat → Req → Bool) : Option Nat :=
    (List.range q.length).foldl (fun a i =>
      match q[i]? with
      | none => a
      | some r =>
        if r.u ≠ u || !p i r then a
        else match a.bind fun j => q[j]? with
          | none => some i
          | some x => if r.at_ < x.at_ ∨ (r.at_ = x.at_ ∧ r.port < x.port) then some i else a) none
  match best fun i r => colReady s st c t i r with
  | some i => .col i
  | none =>
    match best fun _ r => actReady s st c t r || takeReady s st c r with
    | some i =>
      match q[i]? with
      | some r => if actReady s st c t r then .act i else .take r.bank true
      | none => .idle
    | none => .idle

/-- A bank is eligible for opportunistic refresh (R115). -/
def eligible (s : Sled) (st c t b : Nat) : Bool :=
  let ch := getChan s st c
  1 ≤ (getBt ch b).owed && bankIdle s st c b t && !computeOpen s st c b && ch.rdyRef ≤ t &&
  !ch.q.any fun r => r.bank = b

/-- The forced refresh that comes first in a slot (R112, order 1; R116, R118): where the bank's program rows are open they
are closed for it. -/
def forcedAct (s : Sled) (st c t : Nat) : SlotAct :=
  let ch := getChan s st c
  let ready (b : Nat) : Bool := bankIdle s st c b t && ch.rdyRef ≤ t
  match mostOwed ch fun b => mustRefresh ch b && (ready b || rowsOpen s st c b ≠ 0 && rankOn s st c b) with
  | some b => if ready b then .ref b true else .take b false
  | none => .idle

/-- The first of two choices that issues. -/
def SlotAct.orElse_ (a b : SlotAct) : SlotAct := if a = .idle then b else a

/-- What comes before a bank program in a slot (R112, orders 1 and 2). -/
def firstAct (s : Sled) (st c t : Nat) : SlotAct := (forcedAct s st c t).orElse_ (pickReq s st c t 3)

/-- A bank whose program rows the BCS can reopen in the slot at `t` (R108, R115, R161), the lowest first. -/
def reopenAct (s : Sled) (st c t : Nat) : SlotAct :=
  let ch := getChan s st c
  if !chanFree s st c || t < ch.rdyOpen then .idle
  else
    match (List.range 64).find? fun b =>
      (getBt ch b).reop ≠ 0 && !(getBt ch b).taken && bankIdleFor s st c b t && !mustRefresh ch b with
    | some b => .reopen b
    | none => .idle
where
  /-- No ordinary row is open and the bank's last precharge or refresh is over. -/
  bankIdleFor (s : Sled) (st c b t : Nat) : Bool :=
    let bt := getBt (getChan s st c) b
    let m := getTm s (chanBankKey st c b)
    bt.row.isNone && bt.rdyAct ≤ t && m.actE ≤ t && m.actO ≤ t && rankOn s st c b

/-- The next slot of a channel may carry a bank-program command: no replay, pause or thermal pause slot, no mode word on
its way, and nothing of orders 1 and 2 (R112). -/
def progSlot (s : Sled) (st c : Nat) : Bool :=
  chanFree s st c && (getChan s st c).rdyCmd ≤ nextSlot s st c && firstAct s st c (nextSlot s st c) = .idle

end Sys2Proof.Machine
end

