-- ==== Sys2Proof/Machine/Bcs.lean ====
section
/-! DEFINITION. The bank compute sequencers: their queues and registers, the start of a program, and each
instruction's effect, order checks and faults (spec/08 R143-R160; spec/09 R163-R176). An instruction acts in
one step on every channel of its CHMASK, and takes its command slots there (notes/assumptions/23). -/

namespace Sys2Proof.Machine

open Sys2Proof

/-- Set bits of BCS_STATUS (spec/22, Table 22-5). -/
def bcsFlag (st bit : Nat) (s : Sled) : Sled := rSetField (bBCS st) 0x20 bit 1 1 s

/-- A program is enqueued, or dropped at a full queue (R156). -/
def bcsEnqueue (st q : Nat) (p : Prog) (s : Sled) : Sled :=
  let b := fget s.bcs {} st
  let l := b.queues.toList.getD q []
  if s.plat.quiesce ≠ .none then s
  else if 16 ≤ l.length then
    let w : Who := { q := q, kind := 5, ix := st, tenant := some p.tenant, island := iMC st }
    logRec (recWho s 0x4006 w) (bcsFlag st 0 s)
  else { s with bcs := fset s.bcs {} st { b with queues := b.queues.setIfInBounds q (l ++ [p]) } }

/-- The program that a doorbell value names (R156). -/
def progOf (v : Nat) : Prog := { addr := bitsOf v 4 36 * 16, count := bitsOf v 40 16 + 1, tenant := bitsOf v 56 4 }

/-- Host mode of the started profile (spec/04, Table 4-3). -/
def hostMode (s : Sled) : Nat :=
  match s.prof with
  | some p => p.hostMode
  | none => 0

/-- BCS_QDOOR: a register access; queue 3 belongs to the raw doorbells in host mode 2 (spec/22, R429). -/
def fxBcsQdoor (a : Agent) (st q v : Nat) (s : Sled) : Sled :=
  regAccess a (bBCS st) (8 * q)
    (fun s => if q = 3 ∧ hostMode s = 2 then unmappedReg a (bBCS st) (8 * q) s else bcsEnqueue st q (progOf v) s) s

/-- BCS_PROGRAM_START: the next program of the non-empty queues in round-robin order (R156). The spec does not say which
queue the order begins with: after reset the model tries queue 1 first (DESIGN CHOICE, notes/assumptions/23). -/
def fxBcsProgramStart (st : Nat) (s : Sled) : Sled :=
  let b := fget s.bcs {} st
  if !islRuns s (iMC st) || (fget s.mcs {} st).selfRefresh || b.run.isSome then s
  else
    match ((List.range 4).map fun i => (b.rr + 1 + i) % 4).find? fun q => !(b.queues.toList.getD q []).isEmpty with
    | none => s
    | some q =>
      match b.queues.toList.getD q [] with
      | [] => s
      | p :: l =>
        let b := { b with queues := b.queues.setIfInBounds q l, rr := q, run := some { prog := p, q := q } }
        { s with bcs := fset s.bcs {} st b }

/-! ## Fetch, order and faults -/

/-- The bytes of instruction `i` as memory holds them, where they can be fetched: mapped, within the tenant's
reach, neither poisoned nor uncorrectable (R157). -/
def instrAt (s : Sled) (p : Prog) (i : Nat) : Option BcsInstr :=
  let a := p.addr + 16 * i
  if !tenantReach s p.tenant a 16 then none
  else
    match placeOf s a with
    | none => none
    | some pl =>
      if eccAt s pl = ePoison || eccAt s pl = eFresh || (pl < 2 ^ 40 && unreadable s (coordOf pl).stack (coordOf pl).chan (coordOf pl).rank)
      then none
      else some (bcsDecode (leNat (memRead s.mem pl 16)))

/-- The fetch of instruction `i` has to wait: for its stack's change of speed, a rank that is being spared, or the
clearing of an SRAM. -/
def fetchHeld (s : Sled) (p : Prog) (i : Nat) : Bool :=
  match placeOf s (p.addr + 16 * i) with
  | some pl => heldRead s (pl / 32 * 32)
  | none => false

/-- A program ends with a fault (R160): its issued commands complete, its rows close, and the record names
the queue, the program address and the instruction index. -/
def progFault (st code i : Nat) (s : Sled) : Sled :=
  match getRun s st with
  | none => s
  | some r =>
    let s := bcsFlag st 4 (progEnd st s)
    logRec { recAddr false r.prog.addr (moduleId s) (recWho s code (whoBcs st r)) with arg2 := i } s

/-- Reading an instruction word with a fresh uncorrectable error makes it poison and logs it (R447). -/
def fetchTouch (p : Prog) (i : Nat) (s : Sled) : Sled := (readLocal (p.addr + 16 * i) 16 s).2

/-- Instructions from the first not issued up to `j` that have not issued. -/
def unissued (r : Run) (j : Nat) : List Nat :=
  ((List.range (j - r.pc)).map (· + r.pc)).filter fun i => !r.ahead.contains i

/-- Instruction `j` may issue before those that precede it: none of them is a barrier, unfetchable or of its
group, and it is no barrier itself (R158). -/
def mayPass (s : Sled) (r : Run) (j : Nat) (x : BcsInstr) : Bool :=
  (unissued r j).isEmpty ||
  (!x.barrier && (unissued r j).all fun i =>
    match instrAt s r.prog i with
    | some y => y.ok && !y.barrier && y.group ≠ x.group
    | none => false)

/-- Instruction `j` has issued. -/
def issued (st j : Nat) (s : Sled) : Sled :=
  match getRun s st with
  | none => s
  | some r =>
    let ah := if r.ahead.contains j then r.ahead else j :: r.ahead
    let pc := advance 65 r.pc ah
    setRun st (some { r with pc := pc, ahead := ah.filter (pc ≤ ·) }) s
where
  /-- First index from `pc` on that has not issued. -/
  advance : Nat → Nat → List Nat → Nat
    | 0, pc, _ => pc
    | n + 1, pc, ah => if ah.contains pc then advance n (pc + 1) ah else pc

/-- Channels that a mask names. -/
def chans (mask : Nat) : List Nat := maskList 16 mask

/-- Keys of every bank that an instruction names, in channel and bit order. -/
def instrKeys (s : Sled) (st : Nat) (x : BcsInstr) : List Nat :=
  (chans x.chmask).flatMap fun c => selKeys s st c x.group x.banks

/-- A fault waits until no bank with commands of the program is held, so that its issued commands complete (R160). -/
def faultOut (st code i : Nat) (s : Sled) : Sled := if progHeld s st then s else progFault st code i s

/-- The event of instruction kind `iop` at `ahead` places after the first not issued: a bad instruction that is
next faults the program; else `f` acts where the instruction is of that kind, has not issued, and the order
of R158 lets it issue. A program is suspended while its stack changes speed (spec/07, R136). -/
def onInstr (st iop ahead : Nat) (f : Nat → BcsInstr → Run → Sled → Sled) (s : Sled) : Sled :=
  match getRun s st with
  | none => s
  | some r =>
    let j := r.pc + ahead
    if !islRuns s (iMC st) || (fget s.mcs {} st).selfRefresh || r.prog.count ≤ j || r.ahead.contains j ||
        fetchHeld s r.prog j then s
    else
      match instrAt s r.prog j with
      | none => if ahead = 0 && !progHeld s st then progFault st 0x4004 j (fetchTouch r.prog j s) else s
      | some x =>
        if !x.ok then (if ahead = 0 then faultOut st 0x4004 j s else s)
        else if x.iop = iop && mayPass s r j x then f j x r s
        else s

/-- An instruction of MC8's program names a rank of S8 that has taken over no failed rank (spec/01, R14; the rule names
OPEN, and the model treats the others alike: notes/assumptions/23). -/
def strayRank (s : Sled) (st : Nat) (x : BcsInstr) : Bool :=
  st = 8 && (groupBanks x.group x.banks).any fun rb => !spareServes s rb.1

/-- The channels of an instruction's commands give their next slots to the program (spec/06, R112). -/
def slotsFree (s : Sled) (st : Nat) (x : BcsInstr) : Bool :=
  (cmdChans st (chans x.chmask) (instrKeys s st x)).all fun p => progSlot s (p / 16) (p % 16)

/-- A bank instruction that names no bank or no channel issues nothing; any other acts by `f` where its
channels and banks are free (R157). -/
def onBanks (st iop ahead : Nat) (f : Nat → BcsInstr → Run → List Nat → Sled → Sled) (s : Sled) : Sled :=
  onInstr st iop ahead (fun j x r s =>
    if x.chmask = 0 ∨ x.banks = 0 then issued st j s
    else if strayRank s st x then faultOut st 0x4004 j s
    else
      let keys := instrKeys s st x
      if slotsFree s st x && keys.all (fun k => !bankHeld s k) then f j x r keys s else s) s

/-! ## The instructions (Table 8-7) -/

/-- Banks of channel `c` in the window of a stack's program after an OPEN of `keys` (R145). -/
def windowAfter (s : Sled) (keys : List Nat) (st c : Nat) : Nat :=
  (s.bank.filter fun p => p.2.own = st && keyChan p.1 = c && inWindow p.2).length +
  (keys.filter fun k => keyChan k = c && !inWindow (getBank s k)).length

/-- BCS_WINDOW.LIMIT in effect (R145). -/
def windowLimit (s : Sled) (st : Nat) : Nat := max 1 (min 48 (rField s (bBCS st) 0x28 0 6))

/-- The band of region `n` holds a row. A region that is valid and malformed has the band of its fields too. -/
def inBand (s : Sled) (n row : Nat) : Bool :=
  (region s n).valid && (region s n).row0 ≤ row && row < (region s n).row0 + (region s n).rows

/-- A row that the program's tenant may open: it lies in a band, and every band that holds it is that of a well-formed
region inside the tenant's DRAM regions (R166). -/
def rowAllowed (s : Sled) (t row : Nat) : Bool :=
  (List.range 16).any (inBand s · row) &&
  (List.range 16).all fun n =>
    !inBand s n row || ((region s n).ok && tenantReach s t (region s n).addr0 (region s n).size)

/-- Every named bank takes a group activate of a row in its channel's next slot: precharge, refresh and tRRD_B are over,
and no forced refresh is due (R115, R116, R155). -/
def openReady (s : Sled) (row : Nat) (keys : List Nat) : Bool :=
  keys.all fun k =>
    let ch := getChan s (keyStack k) (keyChan k)
    let t := nextSlot s (keyStack k) (keyChan k)
    let bt := getBt ch (keyCBank k)
    bt.rdyAct ≤ t && (if row % 2 = 0 then (getTm s k).actE else (getTm s k).actO) ≤ t && !mustRefresh ch (keyCBank k) &&
    ch.rdyOpen ≤ t

/-- Open a row in a bank: registers last written for another tenant are cleared first (R154); its first column step comes
tRCD_B later. -/
def openRow (st t row k : Nat) (s : Sled) : Sled :=
  let b := getBank s k
  let b := if b.tenant.isSome && b.tenant ≠ some t then bankClear b else b
  let b := { b with own := st, tenant := some t }
  let m := getTm s k
  let at_ := chTime s (keyStack k) (keyChan k) + tRCDB
  setBank k (if row % 2 = 0 then { b with rowE := some row } else { b with rowO := some row })
    (setTm k (if row % 2 = 0 then { m with colE := at_ } else { m with colO := at_ }) s)

/-- The channels of a group activate take no other for tRRD_B, and no ACT for tRRD. -/
def openGap (ps : List Nat) (s : Sled) : Sled :=
  ps.foldl (fun s p => updChan (p / 16) (p % 16) (fun ch =>
    { ch with rdyOpen := ch.clk + tRRDB, rdyAct := max ch.rdyAct (ch.clk + tRRD) }) s) s

/-- BCS_OPEN (R144-R146, R166; spec/01, R14). -/
def fxBcsOpen (st ahead : Nat) (s : Sled) : Sled :=
  onBanks st iopOPEN ahead (fun j x r keys s =>
    let row := x.arg
    let t := r.prog.tenant
    if keys.any fun k => (getBt (getChan s (keyStack k) (keyChan k)) (keyCBank k)).row.isSome then s
    else if !rowAllowed s t row || keys.any fun k => (if row % 2 = 0 then (getBank s k).rowE else (getBank s k).rowO).isSome then
      faultOut st 0x4004 j s
    else if (chans x.chmask).any fun c => windowLimit s st < windowAfter s keys st c then
      -- An earlier CLOSE on these channels that has not issued yet may still make room (R146).
      let wait := (unissued r j).any fun i =>
        match instrAt s r.prog i with
        | some y => y.iop = iopCLOSE && (y.chmask &&& x.chmask) ≠ 0
        | none => false
      if wait then s else faultOut st 0x4002 j s
    else if !openReady s row keys then s
    else
      let s := cmdIssue st (chans x.chmask) keys 1 (.prog iopOPEN x.group x.banks row 0) s
      issued st j (openGap (cmdChans st (chans x.chmask) keys) (keys.foldl (fun s k => openRow st t row k s) s))) s

/-- BCS_CLOSE: after the banks' earlier commands. -/
def fxBcsClose (st ahead : Nat) (s : Sled) : Sled :=
  onBanks st iopCLOSE ahead (fun j x _ keys s =>
    issued st j (keys.foldl (fun s k => closeHalf (x.arg % 2) k (bankDrain k s))
      (cmdIssue st (chans x.chmask) keys 1 (.prog iopCLOSE x.group x.banks (x.arg % 2) 0) s))) s

/-- The registers are written by a program of tenant `t` from here on (R154). -/
def bankTenant (t k : Nat) (s : Sled) : Sled := setBank k { getBank s k with tenant := some t } s

/-- BCS_BAU: the command word is checked, and issued where every named bank has room (R148, R151). -/
def fxBcsBau (st ahead : Nat) (s : Sled) : Sled :=
  onBanks st iopBAU ahead (fun j x r keys s =>
    let w := bitsOf x.data 0 40
    let f := bauFields w
    match opOf (kt3 s) (bitsOf w 0 6) with
    | none => faultOut st 0x4003 j s
    | some op =>
      let ok := bauRsv w = 0 && (chans x.chmask).all fun c => bauValid s (selKeys s st c x.group x.banks) op f
      if !ok then faultOut st 0x4003 j s
      else if !bankRoom s keys then s
      else
        let writes := op ≠ opBST && op ≠ opBRDACC
        issued st j (keys.foldl (fun s k =>
          bankPush k (.bau st op f) (if writes then bankTenant r.prog.tenant k s else s))
          (cmdIssue st (chans x.chmask) keys 2 (.prog iopBAU x.group x.banks op w) s))) s

/-- Whether the program may use [a, a + n): mapped and within its tenant's reach (R157). -/
def progReach (s : Sled) (t a n : Nat) : Bool := tenantReach s t a n && allMapped s a n

/-- Uncorrectable transfers on the data bus of channel `c` during a BCW, two bits a channel: 0 none, 1 the first, else
both (R176). -/
def busErr (e c : Nat) : Nat := bitsOf e (2 * c) 2

/-- BCS_BCW: each channel's source goes to the staging of its named banks; a transfer that fails is issued once more
(R152, R176). -/
def fxBcsBcw (st ahead busErrors : Nat) (s : Sled) : Sled :=
  onBanks st iopBCW ahead (fun j x r keys s =>
    let src (c : Nat) : Nat := bitsOf x.data 0 40 + c * r.bcwCh
    if (chans x.chmask).any fun c => !progReach s r.prog.tenant (src c) 32 then faultOut st 0x4004 j s
    else if !(bankRoom s keys && keys.all fun k => !(getBank s k).stgFull) then s
    else
      let cmd : ChCmd := .prog iopBCW x.group x.banks 0 (bitsOf x.data 0 40)
      let s := cmdIssue st (chans x.chmask) keys 1 cmd s
      issued st j ((chans x.chmask).foldl (fun s c =>
        let mine := selKeys s st c x.group x.banks
        let s := if busErr busErrors c = 0 then s else cmdIssue st [c] mine 1 cmd s
        let ((l, _), s) := readLocal (src c) 32 s
        let po := anyPoison l || 2 ≤ busErr busErrors c
        mine.foldl (fun s k =>
          bankBcw k (BitVec.ofNat 256 (leNat (l.map (·.1)))) po (bankTenant r.prog.tenant k s)) s) s)) s

/-- BCS_READ: the banks' earlier commands run, and each accumulator goes to its destination (R153, R174). -/
def fxBcsRead (st ahead : Nat) (s : Sled) : Sled :=
  onBanks st iopREAD ahead (fun j x r keys s =>
    let dst (c b : Nat) : Nat := bitsOf x.data 0 40 + c * r.rdCh + b * r.rdBk
    let bits := maskList 16 x.banks
    if (chans x.chmask).any fun c => bits.any fun b => !progReach s r.prog.tenant (dst c b) 64 then
      faultOut st 0x4004 j s
    else if keys.any (bankStopped s) then s
    else
      issued st j ((chans x.chmask).foldl (fun s c => bits.foldl (fun s b =>
        let k := bankKey s st c (b / 4) (4 * x.group + b % 4)
        let s := bankDrain k (cmdIssue st [c] [k] 2 (.prog iopREAD x.group (2 ^ b) x.arg (dst c b)) s)
        let a := x.arg % 2 = 1
        let po := getPA (getBank s k) a
        let s := if po then logBauPoison st c (dst c b) s else s
        let words := if po then poisonBytes ++ poisonBytes else leBytes 64 (getA (getBank s k) a)
        writeLocal (dst c b) (words.map fun y => (y, po)) s) s) s)) s

/-- BCS_SET: one stride of the program. -/
def fxBcsSet (st : Nat) (s : Sled) : Sled :=
  onInstr st iopSET 0 (fun j x r s =>
    let v := bitsOf x.data 0 40
    let r := if x.arg % 4 = 0 then { r with bcwCh := v } else if x.arg % 4 = 1 then { r with rdCh := v }
      else { r with rdBk := v }
    issued st j (setRun st (some r) s)) s

/-- BCS_SIGNAL: after every earlier instruction has completed (R159). -/
def fxBcsSignal (st : Nat) (s : Sled) : Sled :=
  onInstr st iopSIGNAL 0 (fun j x r s =>
    if progHeld s st || !islRuns s iNOC then s
    else
      let s := progDrain st s
      match ctrSignal (whoBcs st r) (bitsOf x.data 0 14) x.arg s with
      | (none, s) => issued st j s
      | (some _, s) => progFault st 0x4004 j s) s

/-- BCS_END: the program ends at END, or where its count runs out (R157). -/
def fxBcsEnd (st : Nat) (s : Sled) : Sled :=
  match getRun s st with
  | none => s
  | some r =>
    if r.prog.count ≤ r.pc then (if progHeld s st || !islRuns s (iMC st) || (fget s.mcs {} st).selfRefresh then s else progEnd st s)
    else onInstr st iopEND 0 (fun _ _ _ s => if progHeld s st then s else progEnd st s) s

/-- The program's next instruction is a bank command that a slot of this channel would carry (spec/06, R112). -/
def bcsWants (s : Sled) (st c : Nat) : Bool :=
  match getRun s st with
  | none => false
  | some r =>
    r.pc < r.prog.count && !fetchHeld s r.prog r.pc &&
    (match instrAt s r.prog r.pc with
     | some x => x.ok && !x.barrier && bitAt x.chmask c && x.banks ≠ 0 && slotsFree s st x &&
        (instrKeys s st x).all fun k => !bankHeld s k && (getBank s k).q.length < 8
     | none => false)

/-- The program's next bank instruction issues (R112, order 3). -/
def bcsNext (st : Nat) (s : Sled) : Sled :=
  match getRun s st with
  | none => s
  | some r =>
    match instrAt s r.prog r.pc with
    | none => s
    | some x =>
      if x.iop = iopOPEN then fxBcsOpen st 0 s
      else if x.iop = iopCLOSE then fxBcsClose st 0 s
      else if x.iop = iopBAU then fxBcsBau st 0 s
      else if x.iop = iopBCW then fxBcsBcw st 0 0 s
      else if x.iop = iopREAD then fxBcsRead st 0 s
      else s

def execBcsQdoor (a : Agent) (st : StackId) (q : Fin 4) (value : Word) (s : State) :=
  liftHold (fxBcsQdoor a st.val q.val value.toNat) s
def execBcsProgramStart (st : StackId) (s : State) := lift (fxBcsProgramStart st.val) s
def execBcsOpen (st : StackId) (ahead : Fin 64) (s : State) := lift (fxBcsOpen st.val ahead.val) s
def execBcsClose (st : StackId) (ahead : Fin 64) (s : State) := lift (fxBcsClose st.val ahead.val) s
def execBcsBau (st : StackId) (ahead : Fin 64) (s : State) := lift (fxBcsBau st.val ahead.val) s
def execBcsBcw (st : StackId) (ahead : Fin 64) (busErrors : BitVec 32) (s : State) :=
  liftHold (fxBcsBcw st.val ahead.val busErrors.toNat) s
def execBcsRead (st : StackId) (ahead : Fin 64) (s : State) := liftHold (fxBcsRead st.val ahead.val) s
def execBcsSet (st : StackId) (s : State) := lift (fxBcsSet st.val) s
def execBcsSignal (st : StackId) (s : State) := lift (fxBcsSignal st.val) s
def execBcsEnd (st : StackId) (s : State) := lift (fxBcsEnd st.val) s

end Sys2Proof.Machine
end

