-- ==== Sys2Proof/Machine/Flits.lean ====
section
/-! DEFINITION. The bytes on a Meridian link: messages in a payload (spec/16, R317), flits (spec/15, R298, R311), the
symbols of a FEC block (R297), and what control flits carry (R293, R294). -/

namespace Sys2Proof.Machine

open Sys2Proof

/-! ## Messages (spec/16, R317) -/

/-- Bytes up to a whole payload unit of 16. -/
def padUnit (l : List Byte) : List Byte := l ++ List.replicate ((16 - l.length % 16) % 16) 0

/-- A message's header (spec/16, Table 16-3), with its data length in units. -/
def msgHead (kind : Nat) (m : MsgIn) (units : Nat) : List Byte :=
  leBytes 16 (kind % 16 + 2 ^ 4 * m.hleft.toNat + 2 ^ 8 * m.dest.toNat + 2 ^ 16 * m.src.toNat + 2 ^ 24 * m.tenant.val +
    2 ^ 28 * (units % 16) + 2 ^ 32 * m.addr.toNat + 2 ^ 72 * m.tag.toNat + 2 ^ 88 * m.arg.toNat)

/-- A message's bytes; an UNREACH holds the whole returned message as its data (spec/16, Table 16-4). -/
def msgWire (m : Msg) : List Byte :=
  match m.inner with
  | some (k, h) =>
    let body := msgHead k h (ceilDiv h.data.length 16) ++ padUnit h.data
    msgHead m.kind m.h (body.length / 16) ++ body
  | none => msgHead m.kind m.h (ceilDiv m.h.data.length 16) ++ padUnit m.h.data

/-- Read one message at the start of `l`: its KIND, header and data, and what follows; none where `l` ends within it. -/
def headRead (l : List Byte) (pois : BitVec 8) : Option ((Nat × MsgIn) × List Byte) :=
  let x := leNat (l.take 16)
  let n := 16 * bitsOf x 28 4
  if l.length < 16 + n then none
  else
    some ((bitsOf x 0 4,
      { hleft := BitVec.ofNat 4 (bitsOf x 4 4), dest := BitVec.ofNat 8 (bitsOf x 8 8), src := BitVec.ofNat 8 (bitsOf x 16 8)
        tenant := Fin.ofNat 16 (bitsOf x 24 4), addr := BitVec.ofNat 40 (bitsOf x 32 40)
        tag := BitVec.ofNat 16 (bitsOf x 72 16), arg := BitVec.ofNat 40 (bitsOf x 88 40)
        data := (l.drop 16).take n, pois := pois }), l.drop (16 + n))

/-- The messages of a payload, with their poison marks in order. A payload that ends within a message ends before it. -/
def msgsRead : Nat → List Byte → List (BitVec 8) → List Msg
  | 0, _, _ => []
  | fuel + 1, l, pois =>
    if l.isEmpty then [] else
    match headRead l (pois.headD 0) with
    | none => []
    | some ((k, h), rest) =>
      let m : Msg := if k = 0xA then
          match headRead h.data (pois.headD 0) with
          | some (i, _) => { kind := k, h := { h with data := [], pois := 0 }, inner := some i }
          | none => { kind := k, h := h }
        else { kind := k, h := h }
      m :: msgsRead fuel rest pois.tail

/-- A message's poison marks. -/
def msgPois (m : Msg) : BitVec 8 :=
  match m.inner with
  | some (_, h) => h.pois
  | none => m.h.pois

/-- Payload units of 16 bytes that a message takes (R317). -/
def msgUnits (m : Msg) : Nat := (msgWire m).length / 16

/-! ## Flits (R298, R311) -/

/-- Modulus of sequence numbers and credits (R303, R311). -/
def flitMod (narrow : Bool) : Nat := if narrow then 1024 else 4096

/-- Payload units of a flit. -/
def flitUnits (narrow : Bool) : Nat := if narrow then 7 else 15

/-- A flit's bytes before its CRC-32C (Tables 15-5 and 15-7). -/
def flitBody (narrow : Bool) (f : Flit) : List Byte :=
  let pay := padUnit f.payload
  let units := pay.length / 16
  let fill := pay ++ List.replicate (16 * flitUnits narrow - pay.length) 0
  leBytes 1 (f.type % 16 + 16 * (f.vc % 4)) ++
  if narrow then
    let c := f.credit.headD (0, 0)
    leBytes 4 (f.seq % 2 ^ 10 + 2 ^ 10 * (f.ack % 2 ^ 10) + 2 ^ 20 * (c.1 % 4) + 2 ^ 22 * (c.2 % 2 ^ 10)) ++
    leBytes 3 units ++ fill ++ leBytes 4 0
  else
    leBytes 2 (f.seq % 2 ^ 12) ++ leBytes 2 (f.ack % 2 ^ 12) ++
    leBytes 6 (f.credit.foldl (fun x c => x + 2 ^ (12 * c.1) * (c.2 % 2 ^ 12)) 0) ++ leBytes 1 units ++ fill

/-- A flit's bytes. -/
def flitBytes (narrow : Bool) (f : Flit) : List Byte :=
  let b := flitBody narrow f
  b ++ leBytes 4 (crc32c b)

/-- Read a flit; none where its length or its CRC-32C is wrong. Reserved bits are not looked at. -/
def flitRead (narrow : Bool) (b : List Byte) : Option Flit :=
  let n := if narrow then 124 else 252
  if b.length ≠ n + 4 ∨ byteField b n 4 ≠ crc32c (b.take n) then none
  else
    let x := byteField b 0 1
    if narrow then
      let y := byteField b 1 4
      some { type := bitsOf x 0 4, vc := bitsOf x 4 2, seq := bitsOf y 0 10, ack := bitsOf y 10 10
             credit := [(bitsOf y 20 2, bitsOf y 22 10)], payload := (b.drop 8).take (16 * bitsOf (byteField b 5 3) 0 3) }
    else
      let y := byteField b 5 6
      some { type := bitsOf x 0 4, vc := bitsOf x 4 2, seq := bitsOf (byteField b 1 2) 0 12
             ack := bitsOf (byteField b 3 2) 0 12, credit := (List.range 4).map fun v => (v, bitsOf y (12 * v) 12)
             payload := (b.drop 12).take (16 * bitsOf (byteField b 11 1) 0 4) }

/-- The messages of a data flit. -/
def flitMsgs (f : Flit) (pois : List (BitVec 8)) : List Msg := msgsRead 15 f.payload pois

/-! ## FEC blocks (R297) -/

/-- Codeword of the symbol sent at place `k` of a block, on a link `w` lanes wide. -/
def fecCodeword (w k : Nat) : Nat := (k / w + k) % 4

/-- Lane that sends the symbol at place `k`, by the link's width and half. -/
def fecLane (narrow half : Bool) (k : Nat) : Nat := if narrow then 4 * b2n half + k % 4 else k % 8

/-- Lanes in use. -/
def laneCount (narrow : Bool) : Nat := if narrow then 4 else 8

/-- Places in the block of the symbols in error. `lo` and `hi` number the symbols that lanes 0-3 and lanes 4-7 carry, in the
order in which they come; a half that is not in use carries none. -/
def fecPlaces (narrow half : Bool) (lo hi : List (Fin 1088)) : List Nat :=
  if narrow then (if half then hi else lo).map (·.val)
  else
    let wide (h : Nat) (l : List (Fin 1088)) : List Nat :=
      (l.filter fun p => p.val < 544).map fun p => p.val / 4 * 8 + 4 * h + p.val % 4
    wide 0 lo ++ wide 1 hi

/-- Symbols in error of codeword `j`. -/
def fecErrs (w : Nat) (errs : List Nat) (j : Nat) : List Nat := errs.filter fun k => fecCodeword w k = j

/-- A codeword has errors and at most eight: it is corrected. -/
def fecFixed (w : Nat) (errs : List Nat) (j : Nat) : Bool :=
  1 ≤ (fecErrs w errs j).length && (fecErrs w errs j).length ≤ 8

/-- Every codeword of a block can be corrected. -/
def fecOk (w : Nat) (errs : List Nat) : Bool := (List.range 4).all fun j => (fecErrs w errs j).length ≤ 8

/-- Symbols that the corrected codewords of a block give back, by place. -/
def fecSymbols (w : Nat) (errs : List Nat) : List Nat := errs.filter fun k => fecFixed w errs (fecCodeword w k)

/-! ## Control flits (R293, R294, R306; the places of their contents: notes/assumptions/36) -/

/-- CONFIG: flit sizes (bit 0: 256 bytes, bit 1: 128), lane rates (bit 0: 300 Gb/s, bit 1: 200), module ID. -/
def ctlConfig (sizes rates id : Nat) : List Byte := leBytes 1 1 ++ leBytes 1 sizes ++ leBytes 1 rates ++ leBytes 1 id

/-- Bytes of the AUTH message that one control flit takes, which fit both flit sizes. -/
def authPiece : Nat := 108

/-- AUTH: a piece of the message, with its offset and length. -/
def ctlAuth (off : Nat) (l : List Byte) : List Byte := leBytes 1 2 ++ leBytes 2 off ++ leBytes 1 l.length ++ l

/-- RECOVER. -/
def ctlRecover : List Byte := leBytes 1 3

/-- What the keeper sends of itself first: module ID, link number, nonce and certificate chain (R294, step 1). -/
def authHello (id l nonce : Nat) : List Byte :=
  leBytes 1 id ++ leBytes 1 l ++ leBytes 32 nonce ++ Config.protocolBody 0x882

/-- The message that the device key signs: both nonces, module IDs and link numbers, the flit size and the lane rate
(R294, step 2), this side's first. -/
def authSigned (id l nonce : Nat) (peer : List Byte) (narrow slow : Bool) : List Byte :=
  leBytes 32 nonce ++ (peer.drop 2).take 32 ++ leBytes 1 id ++ peer.take 1 ++ leBytes 1 l ++ (peer.drop 1).take 1 ++
  leBytes 2 (if narrow then 128 else 256) ++ leBytes 2 (if slow then 200 else 300)

end Sys2Proof.Machine
end

