-- ==== Sys2Proof/Machine/Channels.lean ====
section
/-! DEFINITION. The DRAM channels (spec/06): request queues, urgency, the arbitration of a command slot, batches,
refresh and its debt, command parity and its replay; and patrol scrub (spec/09 R178, R179). -/

namespace Sys2Proof.Machine

open Sys2Proof

/-! ## Requests (R107-R113) -/

/-- The data of a column command at its rank: a read gives its word, a write stores (spec/09, R446, R447). -/
def doData (r : Req) (s : Sled) : Option (BitVec 256 × Bool) × Sled :=
  match r.wr with
  | none =>
    let ((d, po), s) := readRaw r.phys s
    (some (BitVec.ofNat 256 (leNat d), po), s)
  | some (m, d) => (none, if m = 0 then s else writeRaw r.phys m.toNat (leBytes 32 d.toNat) s)

/-- A request completes at once: a read answers its port. -/
def answerReq (r : Req) (s : Sled) : Sled :=
  match doData r s with
  | (some (d, po), s) => emit (.data r.port d po) s
  | (none, s) => s

/-- A request to an unmapped address, or to a memory controller in reset (spec/03, R71; spec/05, R96): logged, a write is
ignored and a read answers 0. -/
def refuseReq (port addr : Nat) (wr : Option (BitVec 32 × BitVec 256)) (s : Sled) : Sled :=
  let s := logUnmapped (portWho port) addr iNOC s
  if wr.isNone then emit (.data port 0 false) s else s

/-- REQUEST_ENQUEUE (R109): a translated request takes an entry; without room its port is back-pressured. On a channel
that a migration has found unreadable it completes at once, or its write is held (spec/18, R356). -/
def fxRequestEnqueue (port addr : Nat) (wr : Option (BitVec 32 × BitVec 256)) (s : Sled) : Sled :=
  if !islRuns s iNOC then s else
  match translate s addr with
  | none => refuseReq port addr wr s
  | some (c, _) =>
    let c := c.redirected s
    let ch := getChan s c.stack c.chan
    if !islRuns s (iMC c.stack) then refuseReq port addr wr s
    else if !queueRoom ch.q port then s
    else
      let at_ := chTime s c.stack c.chan
      let b := c.rank * 16 + c.bank
      let r : Req := { port := port, bank := b, row := c.row, col := c.col, wr := wr, at_ := at_
                       u := if port = 11 then 3 else 0, phys := c.phys / 32 * 32, join := mayJoin ch b c.row at_ }
      if unreadable s c.stack c.chan c.rank && !rankHeld s c.stack c.chan c.rank then answerReq r s
      else updChan c.stack c.chan (fun ch => { ch with q := inherit_ (ch.q ++ [r]) }) s

/-- URGENCY_RAISE (R111, R113): a request's urgency follows its age. -/
def fxUrgencyRaise (st c entry : Nat) (s : Sled) : Sled :=
  match (getChan s st c).q[entry]? with
  | some r => updChan st c (fun ch => { ch with q := inherit_ (ch.q.set entry (Req.aged s st (chTime s st c) r)) }) s
  | none => s

/-- BATCH_WINDOW_CLOSE (R107). -/
def fxBatchWindowClose (st c b : Nat) (s : Sled) : Sled :=
  if (getBt (getChan s st c) b).row.isSome then updBt st c b (fun t => { t with closed := true }) s else s

/-! ## Arbitration (R112) -/

/-- What issues in the slot at time `t` (R112). -/
def arbitrate (s : Sled) (st c t : Nat) : SlotAct :=
  let ch := getChan s st c
  let opportune : SlotAct :=
    match mostOwed ch (eligible s st c t) with
    | some b => .ref b false
    | none => .idle
  let o := SlotAct.orElse_
  if t < ch.rdyCmd then .idle
  else
    o (firstAct s st c t) (o (reopenAct s st c t) (o (if bcsWants s st c then .program else .idle)
      (o (pickReq s st c t 2) (o opportune (o (pickReq s st c t 1) (pickReq s st c t 0))))))

/-- The rows of a bank's program that are not open now are to be reopened (R108, R116, R161). -/
def giveBack (s : Sled) (st c b : Nat) (x : BankT) : BankT :=
  if computeOpen s st c b then { x with taken := false, reop := openHalves (getBank s (chanBankKey st c b)) } else x

/-- REFpb to a bank (R114, R116). -/
def doRefresh (st c b t : Nat) (forced : Bool) (s : Sled) : Sled :=
  let s := pushRetry st c { ranks := 2 ^ (b / 16), cmd := .ref b } s
  let s := updBt st c b (fun x => giveBack s st c b { x with owed := x.owed - 1, rdyAct := t + tRFCpb }) s
  let s := updChan st c (fun ch => { ch with rdyRef := t + tRREFD }) s
  if forced then bumpMc st c 2 s else s

/-- The program rows of a bank close at the next column boundary (R108, R161): each row broken for a request is counted. -/
def doTake (st c b t : Nat) (urgent : Bool) (s : Sled) : Sled :=
  let m := getTm s (chanBankKey st c b)
  let n := rowsOpen s st c b
  let at_ := max t (max m.stepAt (max m.preE m.preO))
  let s := pushRetry st c { ranks := 2 ^ (b / 16), cmd := .pre b } s
  let s := updBt st c b (fun x => { x with taken := true, reop := 0, rdyAct := at_ + tRP }) s
  if urgent then bumpN (bMC st) (0x1000 + 0x80 * c + 8 * 5) (n % 2 + n / 2) s else s

/-- The BCS reopens one program row of a bank: its first column step comes tRCD_B later (R108, R161). -/
def doReopen (st c b t : Nat) (s : Sled) : Sled :=
  let k := chanBankKey st c b
  let even := bitAt (getBt (getChan s st c) b).reop 0
  let row := ((if even then (getBank s k).rowE else (getBank s k).rowO).getD 0)
  let s := pushRetry st c { ranks := 2 ^ (b / 16), cmd := .act b row } s
  let s := updBt st c b (fun x => { x with reop := setBit x.reop (if even then 0 else 1) false }) s
  let m := getTm s k
  let s := setTm k (if even then { m with colE := t + tRCDB } else { m with colO := t + tRCDB }) s
  updChan st c (fun ch => { ch with rdyOpen := t + tRRDB, rdyAct := max ch.rdyAct (t + tRRD) }) s

/-- Mark the members of a new batch: the request at place `i`, and the oldest others of its row up to eight;
a bank taken from a program serves a batch of one (R107, R108). A request that reached the queue more than 64 ns before
the ACT joins as well: R107 says within 64 ns of the ACT, and the model reads the bound as one on later arrivals
(DESIGN CHOICE, notes/assumptions/24). -/
def markBatch (alone : Bool) (i : Nat) (r : Req) : Nat → Nat → List Req → List Req
  | _, _, [] => []
  | _, 0, l => l
  | j, room + 1, x :: l =>
    if j = i then { x with join := true } :: markBatch alone i r (j + 1) (room + 1) l
    else if !alone && x.bank = r.bank && x.row = r.row && (i < j || 0 < room) then
      { x with join := true } :: markBatch alone i r (j + 1) room l
    else x :: markBatch alone i r (j + 1) (room + 1) l

/-- ACT for the request at place `i`. -/
def doAct (st c i t : Nat) (s : Sled) : Sled :=
  match (getChan s st c).q[i]? with
  | none => s
  | some r =>
    let alone := computeOpen s st c r.bank
    let s := pushRetry st c { ranks := 2 ^ (r.bank / 16), cmd := .act r.bank r.row } s
    let s := updBt st c r.bank (fun x =>
      { x with row := some r.row, joined := 0, actAt := t, closed := false, rdyCol := t + tRCD }) s
    updChan st c (fun ch => { ch with
      rdyAct := t + tRRD, rdyOpen := max ch.rdyOpen (t + tRRD), q := markBatch alone i r 0 8 ch.q }) s

/-- The column command of the request at place `i`, with auto-precharge where R107 asks for it. A read's data reaches
its port once RL and the burst have passed (R106, R127). -/
def doCol (st c i t : Nat) (s : Sled) : Sled :=
  match (getChan s st c).q[i]? with
  | none => s
  | some r =>
    let ch := getChan s st c
    let bt := getBt ch r.bank
    let rest := ch.q.eraseIdx i
    let ap := bt.joined + 1 = 8 || !rest.any (fun x => x.bank = r.bank && x.row = r.row) || bt.closed ||
      bt.actAt + tBatch < t || rest.any (fun x => x.u = 3 && x.bank = r.bank && x.row ≠ r.row) ||
      computeOpen s st c r.bank
    let wrEnd := t + tWL + slotLen (binOf s st)
    let pre := max (bt.actAt + tRAS) (if r.wr.isSome then wrEnd + tWR else t + tRTP)
    let s := updChan st c (fun ch => { ch with
      q := if ap then rest.map fun x => if x.bank = r.bank then { x with join := false } else x else rest
      rdyWr := if r.wr.isSome then ch.rdyWr else max ch.rdyWr (t + tRTW)
      rdyRdRank := if r.wr.isSome then fset ch.rdyRdRank 0 (r.bank / 16) (wrEnd + tWTR) else ch.rdyRdRank }) s
    let s := updBt st c r.bank (fun x =>
      if ap then giveBack s st c r.bank { x with row := none, joined := 0, closed := false, rdyAct := pre + tRP }
      else { x with joined := x.joined + 1, rdyCol := t + tCCDL }) s
    let s := if r.u = 3 ∧ r.port ≠ 11 then bumpMc st c 4 s else s
    let (d, s) := doData r s
    pushRetry st c { ranks := 2 ^ (r.bank / 16), cmd := .col r, due := t + tRL + slotLen (binOf s st)
                     out := d.map fun d => (r.port, d.1, d.2) } s

/-- How long a replayed command keeps the channel, so that every timing parameter is met before the next one. -/
def replayGap : ChCmd → Nat
  | .mode _ _ => tMOD
  | .act _ _ => tRCD
  | .pre _ => tRP
  | .ref _ => tRFCpb
  | .col _ => tCCDL
  | .prog _ _ _ _ _ => tRCDB

/-- One ignored command is issued again, to the alerting rank alone (Table 6-3, step 5). A read reads its word again;
what else the command does stands from its first issue (notes/assumptions/24). After the last one the rank has
tPAR_ALERT to report. -/
def replayOne (st c t : Nat) (r : Replay) (s : Sled) : Sled :=
  match r.todo with
  | [] => s
  | e :: rest =>
    let (d, s) : Option (BitVec 256 × Bool) × Sled := match e.cmd, e.out with
      | .col q, some _ => doData q s
      | _, _ => (none, s)
    let s := pushRetry st c { e with ranks := 2 ^ r.rank, due := t + tRL + slotLen (binOf s st)
                                     out := d.bind fun d => e.out.map fun o => (o.1, d.1, d.2) } s
    updChan st c (fun ch => { ch with
      replay := some { r with todo := rest }
      rdyCmd := t + max (replayGap e.cmd) (if rest.isEmpty then tParAlert else 0) }) s

/-- Some channel of a stack is in a retraining pause (R128). -/
def stackPauses (s : Sled) (st : Nat) : Bool := (List.range 16).any fun d => (getChan s st d).pause.isSome

/-- A pause that is due can start: no replay, no speed change of the stack, its helper free of other pauses and of
training steps, and every bank owes at most 6 refreshes; an extra pause comes after the regular ones that are due (R118,
R128, R132, R133). -/
def pauseReady (s : Sled) (st c : Nat) : Bool :=
  let ch := getChan s st c
  (ch.due ≠ 0 || (ch.dueX && (List.range 16).all fun d => (getChan s st d).due = 0)) && ch.replay.isNone &&
  ch.pause.isNone && !(fget s.mcs {} st).selfRefresh && (fget s.mcs {} st).helper.isNone && !stackPauses s st &&
  (List.range 64).all fun b => (getBt ch b).owed ≤ 6

/-- The pause starts: the regular one measures the rank next in rotation, the extra one the rank measured
before (R132, R133). -/
def pauseStart (st c : Nat) : Sled → Sled :=
  updChan st c fun ch =>
    if ch.due ≠ 0 then { ch with pause := some ch.rot, rot := (ch.rot + 1) % 4, due := 0 }
    else { ch with pause := some (ch.extra.getD 0), dueX := false, extra := none }

/-- The slot at time `t` has begun. -/
def slotTick (st c t : Nat) : Sled → Sled := updChan st c fun ch => { ch with clk := t }

/-- The slot at time `t` goes to the bank program's next instruction, if it can issue. -/
def doProgram (st c t : Nat) (s : Sled) : Sled :=
  let u := bcsNext st s
  if u.stall = s.stall ∧ t ≤ (getChan u st c).clk then u else slotTick st c t s

/-- CHANNEL_SLOT_ARBITRATE (R112): one slot passes on the channel, and at most one command issues. -/
def fxChannelSlotArbitrate (st c : Nat) (s : Sled) : Sled :=
  if !islRuns s (iMC st) || (fget s.mcs {} st).selfRefresh then s
  else
    let t := nextSlot s st c
    let s := landReads st c t s
    match (getChan s st c).replay with
    | some r => if r.phase = 2 ∧ (getChan s st c).rdyCmd ≤ t then replayOne st c t r (slotTick st c t s) else slotTick st c t s
    | none =>
      if (getChan s st c).pause.isSome then slotTick st c t s
      else if pauseReady s st c then pauseStart st c (slotTick st c t s)
      else
        let s := updChan st c (fun ch => { ch with q := agedQ s st c t }) s
        match arbitrate s st c t with
        | .ref b f => doRefresh st c b t f (slotTick st c t s)
        | .take b u => doTake st c b t u (slotTick st c t s)
        | .act i => doAct st c i t (slotTick st c t s)
        | .col i => doCol st c i t (slotTick st c t s)
        | .reopen b => doReopen st c b t (slotTick st c t s)
        | .program => doProgram st c t s
        | .idle => slotTick st c t s

/-! ## Refresh debt (R114, R117, R119, R120) -/

/-- When the next increment of a bank falls due: bank `b` of the 64 at offset b × tREFI_B ÷ 64 of the interval (R114). -/
def refreshDue (s : Sled) (st c b : Nat) : Nat :=
  let ch := getChan s st c
  let bt := getBt ch b
  bt.next.getD (ch.refAt + b * tREFI bt.fast / 64)

/-- REFRESH_OWED_INCREMENT: a bank's increment, once it is due; one that would exceed 8 is lost, counted and logged.
From this increment on the bank follows its rank's rate, and the next one comes tREFI_B after it (R119). -/
def fxRefreshOwedIncrement (st c b : Nat) (s : Sled) : Sled :=
  if !islRuns s (iMC st) || (fget s.mcs {} st).selfRefresh || chTime s st c < refreshDue s st c b then s
  else
    let fast := bitAt (fget s.mcs {} st).fast (b / 16)
    let o := (getBt (getChan s st c) b).owed
    let at_ := refreshDue s st c b + tREFI fast
    let s := updBt st c b (fun x => { x with owed := min 8 (x.owed + 1), fast := fast, next := some at_ }) s
    if o < 8 then s
    else
      logLimited ms (chanBankKey st c b)
        { mkRec 0x3004 (iMC st) with object := b % 16 + b / 16 * 16 + c * 64 + st * 1024 } (bumpMc st c 3 s)

/-- Every owed count is 0 and the stagger begins anew, as self-refresh is left (R114, R120). -/
def refreshAnew (st c : Nat) (s : Sled) : Sled :=
  updChan st c (fun ch => { ch with
    refAt := chTime s st c
    bank := (ch.bank.map fun b => (b.1, { b.2 with owed := 0, next := none })).filter fun b => b.2 ≠ {} }) s

/-! ## Command parity (R121-R125) -/

/-- MW5 of a rank (Table 6-2), and a change of it. -/
def mw5 (ch : Chan) (r : Nat) : Nat := fget ch.mw5 0 r
def mw5Set (st c r : Nat) (f : Nat → Nat) : Sled → Sled :=
  updChan st c fun ch => { ch with mw5 := fset ch.mw5 0 r (f (mw5 ch r)) }

/-- Buffered commands addressed to a rank. -/
def buffered (ch : Chan) (r : Nat) : Nat := (ch.retry.filter fun e => bitAt e.ranks r).length

/-- The newest `n` entries addressed to a rank, newest first, and the buffer without them. -/
def splitIgnored (r : Nat) : Nat → List RetryEnt → List RetryEnt × List RetryEnt
  | 0, l => ([], l)
  | _, [] => ([], [])
  | n + 1, e :: l =>
    if bitAt e.ranks r then
      let (a, b) := splitIgnored r n l
      (e :: a, b)
    else
      let (a, b) := splitIgnored r (n + 1) l
      (a, e :: b)

/-- Requests of a rank that the channel cannot reach any more complete as a migration lets them (spec/18, R356): reads
with poison, writes by the watermark. -/
def resolveDead (st c r : Nat) (s : Sled) : Sled :=
  let mine := (getChan s st c).q.filter fun q => q.bank / 16 = r
  let s := updChan st c (fun ch => { ch with q := ch.q.filter fun q => q.bank / 16 ≠ r }) s
  mine.foldl (fun s q => answerReq q s) s

/-- Requests whose column commands a rank ignored, or may have, oldest first: they are held again (R125). -/
def takenBack (ch : Chan) (r : Nat) (todo : List RetryEnt) : List Req :=
  ((ch.retry.reverse.filter fun e => bitAt e.ranks r && e.out.isSome) ++ todo).filterMap fun e =>
    match e.cmd with
    | .col q => some { q with join := false }
    | _ => none

/-- A channel of a rank under migration becomes unreadable: the copy goes on under R356 from its watermark (spec/18,
R357). -/
def migLoses (st c r : Nat) (s : Sled) : Sled :=
  match (fget s.mcs {} st).mig with
  | some m =>
    if m.rank = r ∧ m.state < 3 ∧ !m.abort then
      let s := updMcs st (fun x => { x with mig := some { m with dead := setBit m.dead c true } }) s
      resolveDead st c r (logRec { mkRec 0x300C (iMC st) with object := r * 16 + c * 64 + st * 1024 } s)
    else s
  | none => s

/-- An attempt fails: counted; the fourth takes the rank out of service on the channel, and what it had not executed is
held (R123, R125). Answers whether another attempt follows. -/
def attemptFails (st c : Nat) (s : Sled) : Bool × Sled :=
  match (getChan s st c).replay with
  | none => (false, s)
  | some r =>
    let s := bumpMc st c 1 s
    if r.attempts + 1 < 4 then
      (true, updChan st c (fun ch => { ch with replay := some { r with attempts := r.attempts + 1, phase := 0 } }) s)
    else
      let s := updChan st c (fun ch => { ch with
        replay := none, dead := setBit ch.dead r.rank true
        q := takenBack ch r.rank r.todo ++ ch.q
        retry := ch.retry.map fun e => if bitAt e.ranks r.rank then { e with out := none } else e }) s
      let s := logRec { mkRec 0x3003 (iMC st) with object := r.rank * 16 + c * 64 + st * 1024 } s
      (false, migLoses st c r.rank (rankFatal st c r.rank s))

/-- Steps 2 to 4 with the outcomes of the MW5 reads in turn: none, or a DISCARD that exceeds the buffered
commands, fails the attempt; another gives the commands to replay, and is followed by the alert's clearing and the wait of
step 4. Commands that an attempt before had yet to replay come after those it replayed. A read with no outcome listed
failed (notes/assumptions/24). -/
def readDiscard (st c : Nat) : Nat → List (Option (BitVec 6)) → Sled → Sled
  | 0, _, s => s
  | n + 1, reads, s =>
    match (getChan s st c).replay with
    | none => s
    | some r =>
      let d : Nat := match reads.head? with
        | some (some d) => d.toNat
        | _ => 64
      let s := if d < 64 then mw5Set st c r.rank (fun w => setBits w 2 6 d) s else s
      if d ≤ buffered (getChan s st c) r.rank then
        let (a, b) := splitIgnored r.rank d (getChan s st c).retry
        let s := mw5Set st c r.rank (fun w => setBit w 1 false) s
        updChan st c (fun ch => { ch with
          replay := some { r with phase := 1, d := d, todo := a.reverse ++ r.todo }
          retry := b, rdyCmd := chTime s st c + tMRR + tParRecov }) s
      else
        match attemptFails st c s with
        | (true, s) => readDiscard st c n reads.tail s
        | (false, s) => s

/-- CAPAR_ALERT (R121, R123): a rank that checks parity raises its alert. Without a replay it starts one, else the attempt
in progress fails. A pause that has started is not interrupted, so an alert comes before or after it (notes/assumptions/24). -/
def fxCaparAlert (st c r : Nat) (reads : List (Option (BitVec 6))) (s : Sled) : Sled :=
  let ch := getChan s st c
  if !islRuns s (iMC st) || bitAt ch.dead r || !bitAt (mw5 ch r) 0 || ch.pause.isSome then s
  else
    let s := mw5Set st c r (fun w => setBit w 1 true) s
    if ch.replay.isNone then
      let s := bumpMc st c 0 s
      let s := updChan st c (fun ch => { ch with replay := some { rank := r, d := 0, attempts := 0, phase := 0 } }) s
      readDiscard st c 4 reads s
    else
      match attemptFails st c s with
      | (true, s) => readDiscard st c 4 reads s
      | (false, s) => s

/-- CAPAR_RECOV_WAIT_END: once tPAR_RECOV has passed, the commands that the rank ignored are replayed in the channel's
next slots (step 5). -/
def fxCaparRecovWaitEnd (st c : Nat) (s : Sled) : Sled :=
  match (getChan s st c).replay with
  | some r =>
    if r.phase = 1 ∧ (getChan s st c).rdyCmd ≤ chTime s st c then
      updChan st c (fun ch => { ch with replay := some { r with phase := 2 } }) s
    else s
  | none => s

/-- CAPAR_REPLAY_WINDOW_END: with every command replayed and tPAR_ALERT over the replay succeeds, and is logged after
failed attempts (R123, R124). -/
def fxCaparReplayWindowEnd (st c : Nat) (s : Sled) : Sled :=
  match (getChan s st c).replay with
  | some r =>
    if r.phase ≠ 2 ∨ r.todo ≠ [] ∨ chTime s st c < (getChan s st c).rdyCmd then s
    else
      let s := updChan st c (fun ch => { ch with replay := none }) s
      if r.attempts = 0 then s
      else logLimited ms (chanKey st c)
        { mkRec 0x3002 (iMC st) with arg1 := r.attempts } s
  | none => s

/-! ## Patrol scrub (spec/09, R178, R179) -/

/-- The place of column 0 of a row of a channel's bank, on the spare where its rank is replaced. -/
def rowPlace (s : Sled) (st c b row : Nat) : Nat := bankKey s st c (b / 16) (b % 16) * 2 ^ 26 + row * 1024

/-- One word: a single-bit error is rewritten corrected, a fresh uncorrectable one as poison; poison stays. -/
def scrubWord (st c p : Nat) (s : Sled) : Sled :=
  if eccAt s p = eSingle then
    let s := bumpMc st c 6 { s with ecc := fset s.ecc 0 (p / 32) eClean }
    logLimited ms (chanKey st c) (mkRec 0x3008 (iMC st)) s
  else if eccAt s p = eFresh then bumpMc st c 7 (freshUe (coordOf p) (poisonRaw p s))
  else s

/-- The bank that an item stands in, on the spare where its rank is replaced. -/
def itemKey (s : Sled) (st c : Nat) (it : ScrubItem) : Nat := bankKey s st c (it.bank / 16) (it.bank % 16)

/-- The P11 requests of an item take an entry, urgency 3, and the slots of an ACT and of one read and rewrite for each
word on the channel that serves it (R178). -/
def scrubSlots (k n : Nat) (it : ScrubItem) (s : Sled) : Sled :=
  let st := keyStack k
  let c := keyChan k
  let s := useSlots st c 0 (1 + 2 * n) s
  let r (col : Nat) : Req := { port := 11, bank := keyCBank k, row := it.row, col := col, wr := none, at_ := s.now, u := 3
                               phys := k * 2 ^ 26 + it.row * 1024 + col * 32 }
  let cols := match it.col with
    | some x => [x]
    | none => List.range 32
  updChan st c (fun ch => { ch with retry :=
    ((cols.reverse.map fun x => { ranks := 2 ^ keyRank k, cmd := .col (r x) }) ++
      { ranks := 2 ^ keyRank k, cmd := .act (keyCBank k) it.row } :: ch.retry).take 32 }) s

/-- One item: the words of its row, or its one word. -/
def scrubItem (st c : Nat) (it : ScrubItem) (s : Sled) : Sled :=
  let p := rowPlace s st c it.bank it.row
  let n := if it.col.isSome then 1 else 32
  let s := scrubSlots (itemKey s st c it) n it s
  match it.col with
  | some k => scrubWord st c (p + k * 32) s
  | none => (List.range 32).foldl (fun s k => scrubWord st c (p + k * 32) s) s

/-- The item's bank holds a program row. -/
def itemBusy (s : Sled) (st c : Nat) (it : ScrubItem) : Bool :=
  inWindow (getBank s (itemKey s st c it))

/-- Scrub skips a rank that cannot be read, unless a spare serves in its place, and the source of a running migration
(spec/18, R354). -/
def scrubSkips (s : Sled) (st c : Nat) (it : ScrubItem) : Bool :=
  let k := itemKey s st c it
  unreadable s (keyStack k) (keyChan k) (keyRank k) ||
  (match (fget s.mcs {} st).mig with
   | some m => m.rank = it.bank / 16 && m.state < 3 && !m.abort
   | none => false)

/-- An item is scrubbed, skipped, or waits in the deferred list; true where it is dealt with. -/
def scrubOne (st c : Nat) (it : ScrubItem) (s : Sled) : Bool × Sled :=
  if scrubSkips s st c it then (true, s)
  else if !itemBusy s st c it then (true, scrubItem st c it s)
  else if (getChan s st c).deferred.length < 4 then
    (true, updChan st c (fun ch => { ch with deferred := ch.deferred ++ [it] }) s)
  else (false, s)

/-- The scrubber can issue on a channel: no replay and no retraining pause, and P11 has an entry (R109, R112, R178). -/
def scrubReady (s : Sled) (st c : Nat) : Bool :=
  let ch := getChan s st c
  islRuns s (iMC st) && !(fget s.mcs {} st).selfRefresh && ch.replay.isNone && ch.pause.isNone && queueRoom ch.q 11

/-- PATROL_SCRUB_TICK: the deferred list is retried, then the repair list, then the row at the cursor; the
cursor stalls while the deferred list is full. -/
def fxPatrolScrubTick (st c : Nat) (s : Sled) : Sled :=
  if !scrubReady s st c then s
  else
    let old := (getChan s st c).deferred
    let s := updChan st c (fun ch => { ch with deferred := [] }) s
    let s := old.foldl (fun s it => (scrubOne st c it s).2) s
    let rep := (getChan s st c).repair
    let s := updChan st c (fun ch => { ch with repair := [] }) s
    let s := rep.foldl (fun s it =>
      match scrubOne st c it s with
      | (true, s) => s
      | (false, s) => updChan st c (fun ch => { ch with repair := ch.repair ++ [it] }) s) s
    let ch := getChan s st c
    if 4 ≤ ch.deferred.length then bumpMc st c 8 s
    else
      let s := (scrubOne st c { bank := ch.curBank, row := ch.curRow, col := none } s).2
      updChan st c (fun ch => if ch.curBank = 63 then { ch with curBank := 0, curRow := (ch.curRow + 1) % 65536 }
        else { ch with curBank := ch.curBank + 1 }) s

def execRequestEnqueue (port : Fin 12) (addr : LAddr) (wr : Option (BitVec 32 × BitVec 256)) (s : State) :=
  lift (fxRequestEnqueue port.val addr.toNat wr) s
def execChannelSlotArbitrate (st : StackId) (c : ChanId) (s : State) := lift (fxChannelSlotArbitrate st.val c.val) s
def execUrgencyRaise (st : StackId) (c : ChanId) (entry : Fin 64) (s : State) :=
  lift (fxUrgencyRaise st.val c.val entry.val) s
def execBatchWindowClose (st : StackId) (c : ChanId) (b : CBank) (s : State) :=
  lift (fxBatchWindowClose st.val c.val b.val) s
def execRefreshOwedIncrement (st : StackId) (c : ChanId) (b : CBank) (s : State) :=
  lift (fxRefreshOwedIncrement st.val c.val b.val) s
def execCaparAlert (st : StackId) (c : ChanId) (r : RankId) (reads : List (Option (BitVec 6))) (s : State) :=
  lift (fxCaparAlert st.val c.val r.val reads) s
def execCaparRecovWaitEnd (st : StackId) (c : ChanId) (s : State) := lift (fxCaparRecovWaitEnd st.val c.val) s
def execCaparReplayWindowEnd (st : StackId) (c : ChanId) (s : State) := lift (fxCaparReplayWindowEnd st.val c.val) s
def execPatrolScrubTick (st : StackId) (c : ChanId) (s : State) := lift (fxPatrolScrubTick st.val c.val) s

end Sys2Proof.Machine
end

