-- ==== Sys2Proof/Machine/Training.lean ====
section
/-! DEFINITION. Interface training, the delay sets, retraining pauses and the change of speed (spec/07; spec/22
R427, R428). -/

namespace Sys2Proof.Machine

open Sys2Proof

/-! ## Delays (R129, R428) -/

/-- Key of a delay: timing set, channel, rank, lane, direction (ignored for CA lanes 72-95). -/
def dlyKey (set ch rank lane dir : Nat) : Nat :=
  (((set * 16 + ch) * 4 + rank) * 128 + lane) * 2 + (if 72 ≤ lane then 0 else dir)

/-- The timing set that is live. -/
def liveSet (m : Mcs) : Nat := b2n m.setB

/-- The delays of a channel in a timing set. -/
def ofChan (set ch : Nat) (k : Nat) : Bool := k / 1024 = set * 16 + ch

/-- The controller copies a channel's whole shadow set into its live set (R129). -/
def copyShadow (set ch : Nat) (m : Mcs) : Mcs :=
  let old := fdrop m.dlyLive fun k _ => ofChan set ch k
  { m with dlyLive := (m.dlyShadow.filter fun p => ofChan set ch p.1).foldl (fun l p => fset l 0 p.1 p.2) old }

/-- Delays that the helper writes for a rank of a channel. -/
def writeShadow (set ch rank : Nat) (l : List (Fin 96 × Bool × BitVec 6)) (m : Mcs) : Mcs :=
  { m with dlyShadow := l.foldl (fun d x => fset d 0 (dlyKey set ch rank x.1.val (b2n x.2.1)) x.2.2.toNat) m.dlyShadow }

/-- Offset of MC_TRAIN_CTL_c. -/
def offTrain (c : Nat) : Nat := 0x100 + 8 * c

/-- OWNER of a channel: hardware owns the delay sets (R129). -/
def ownerHw (s : Sled) (st c : Nat) : Bool := rField s (bMC st) (offTrain c) 11 1 = 1

/-- OWNER of a channel becomes 1, and locks MC_TRAIN_CTL until a reset that restarts the profile (R129; spec/21, R411). -/
def ownerSet (st c : Nat) (s : Sled) : Sled :=
  updMcs st (fun m => { m with ownerLock := setBit m.ownerLock c true }) (rSetField (bMC st) (offTrain c) 11 1 1 s)

/-- MC_DLY_DATA_WRITE (R428). -/
def dlyWrite (st taps : Nat) (s : Sled) : Sled :=
  let sel := rGet s (bMC st) 0x200
  let c := bitsOf sel 0 4
  let lane := bitsOf sel 6 7
  let m := fget s.mcs {} st
  let k := dlyKey 0 c (bitsOf sel 4 2) lane (bitsOf sel 13 1)
  if lockedReg s (bMC st) 0x208 then lockHit s
  else if ownerHw s st c || bitAt sel 14 || 96 ≤ lane then s
  else
    match m.helper with
    | some (h, _) =>
      if h = c then updMcs st (fun m => { m with heldDly := m.heldDly ++ [(k, taps)] }) s
      else updMcs st (fun m => { m with dlyShadow := fset m.dlyShadow 0 k taps }) s
    | none => updMcs st (fun m => { m with dlyShadow := fset m.dlyShadow 0 k taps }) s

/-- The row's write comes from firmware, in an island that runs. -/
def fxMcDlyDataWrite (st taps : Nat) (s : Sled) : Sled :=
  if !islRuns s (iMC st) then s else if crossHeld s (bMC st) then setStall s else dlyWrite st taps s

/-! ## The training helper (R128, R131) -/

/-- Queue a step in ascending channel order. -/
def queueStep (x : Nat × Nat × Nat) : List (Nat × Nat × Nat) → List (Nat × Nat × Nat)
  | [] => [x]
  | y :: l => if x.1 < y.1 then x :: y :: l else y :: queueStep x l

/-- The helper is free: it takes the next queued step. -/
def nextStep (m : Mcs) : Mcs :=
  match m.helper, m.helperQ with
  | none, x :: l => { m with helper := some x, helperQ := l }
  | _, _ => m

/-- The helper of a stack takes its next queued step, once no retraining pause of the stack holds it (R128). -/
def helperNext (st : Nat) (s : Sled) : Sled := if stackPauses s st then s else updMcs st nextStep s

/-- A GO of MC_TRAIN_CTL_c (R128, R428): ignored, with PASS cleared, while hardware owns the channel or for STEP 0 or
7; ignored while a step of the channel runs or is queued (spec/21, R413). -/
def trainGo (st c stp rank : Nat) (s : Sled) : Sled :=
  let m := fget s.mcs {} st
  if ownerHw s st c ∨ stp = 0 ∨ stp = 7 then rSetField (bMC st) (offTrain c) 12 1 0 s
  else if m.helper.any (fun x => x.1 = c) || m.helperQ.any (fun x => x.1 = c) then s
  else helperNext st (updMcs st (fun m => { m with helperQ := queueStep (c, stp, rank) m.helperQ }) s)

/-- TRAIN_STEP_GO: the operand fields of the write are taken with the trigger (spec/22, R424). -/
def fxTrainStepGo (st c stp rank : Nat) (fin : Bool) (s : Sled) : Sled :=
  if !islRuns s (iMC st) then s
  else if crossHeld s (bMC st) then setStall s
  else
    let s := swField (bMC st) (offTrain c) 0 3 stp (swField (bMC st) (offTrain c) 4 2 rank
      (swField (bMC st) (offTrain c) 10 1 (b2n fin) s))
    trainGo st c (rField s (bMC st) (offTrain c) 0 3) (rField s (bMC st) (offTrain c) 4 2) s

/-- A channel of a stack is usable: some rank has passed training on it (R131; spec/04, R87). -/
def chanUsable (s : Sled) (st c : Nat) : Bool := (List.range 4).any fun r => trained s st c r

/-- The training of a channel is complete: it is usable, and no user rank has a step to come (R131). -/
def chanTrained (s : Sled) (st c : Nat) : Bool :=
  chanUsable s st c && (st = 8 || (List.range 4).all fun r => trained s st c r || spareTaken s st r)

/-- A channel that is usable comes online, unless it has gone offline. -/
def chanUp (st c : Nat) (s : Sled) : Sled :=
  if (getChan s st c).off then s else updChan st c (fun ch => { ch with online := true }) s

/-- Training or retraining of a rank failed on a channel (R131, R133): logged, and the rank is spared, or the
channel goes offline. The record names the MC island of the stack as its source: the spec gives no island for a record
that firmware logs, and 0x3005 is written as the failure's, 0x9006 as the boot's (DESIGN CHOICE, notes/assumptions/24). -/
def trainFail (st c r : Nat) (s : Sled) : Sled :=
  rankFatal st c r (logRec { mkRec 0x3005 (iMC st) with object := r * 16 + c * 64 + st * 1024 } s)

/-- TRAIN_STEP_DONE (R128-R131): the step reports, writes the shadow set, and copies it to live where FINAL is
set; held delay writes are applied; the next queued step starts. A failed verification sends the channel to
full training (R130). -/
def fxTrainStepDone (st c : Nat) (res : TrainResult) (s : Sled) : Sled :=
  let m := fget s.mcs {} st
  match m.helper with
  | some (h, stp, rank) =>
    if h ≠ c ∨ !islRuns s (iMC st) then s
    else
      let pass := res.pass && (stp = 5 || 24 ≤ res.eyeMin.toNat)
      let off := offTrain c
      let set := liveSet m
      let s := rSetField (bMC st) off 12 1 (b2n pass) s
      let s := rSetField (bMC st) off 16 8 res.eyeMin.toNat s
      let s := rSetField (bMC st) off 24 8 res.devMax.toNat s
      let s := updMcs st (writeShadow set c rank res.delays) s
      let s := if rField s (bMC st) off 10 1 = 1 then updMcs st (copyShadow set c) s else s
      let s := updMcs st (fun m =>
        let k := c * 4 + rank
        { m with
          dlyShadow := m.heldDly.foldl (fun d x => if ofChan 0 c x.1 then fset d 0 x.1 x.2 else d) m.dlyShadow
          heldDly := m.heldDly.filter fun x => !ofChan 0 c x.1
          helper := none
          passed := fset m.passed 0 k (setBit (fget m.passed 0 k) stp pass)
          failed := fset m.failed 0 k (setBit (fget m.failed 0 k) stp (!pass)) }) s
      let s := helperNext st s
      let s := if pass then s
        else if stp = 6 then
          logRec (mkRec 0x9006 iCTL) { s with kpr := { s.kpr with fullTrain := setBit s.kpr.fullTrain st true } }
        else trainFail st c rank s
      if chanTrained s st c then chanUp st c s else s
  | none => s

/-! ## Retraining pauses (R132, R133) -/

/-- RETRAIN_PAUSE_DUE: a boundary of the stack's stagger grid: the pause of an armed channel falls due, the extra ones
that channels of the stack owe fall due after it (R133), and it starts once R118 lets it. -/
def fxRetrainPauseDue (st c : Nat) (s : Sled) : Sled :=
  if !islRuns s (iMC st) || !ownerHw s st c then s
  else
    let s := (List.range 16).foldl (fun s d =>
      if (getChan s st d).extra.isSome then updChan st d (fun ch => { ch with dueX := true }) s else s) s
    let s := updChan st c (fun ch => { ch with due := 1 }) s
    if pauseReady s st c then pauseStart st c s else s

/-- A shadow delay moves toward a measured centre by at most 2 taps. -/
def toward (x centre : Nat) : Nat := if x < centre then min centre (x + 2) else max centre (x - 2)

/-- |a − b|. -/
def dist (a b : Nat) : Nat := (a - b) + (b - a)

/-- RETRAIN_PAUSE_END (R133). CA lanes are not measured in a pause. -/
def fxRetrainPauseEnd (st c : Nat) (res : PauseResult) (s : Sled) : Sled :=
  match (getChan s st c).pause with
  | none => s
  | some rank =>
    let m := fget s.mcs {} st
    let set := liveSet m
    let cs := (res.centres.filter fun x => x.1.val < 72).map fun x =>
      (dlyKey set c rank x.1.val (b2n x.2.1), x.2.2.toNat)
    let dev := cs.foldl (fun a x => max a (dist (fget m.dlyLive 0 x.1) x.2)) 0
    let s := updMcs st (fun m => copyShadow set c { m with
      dlyShadow := cs.foldl (fun d x => fset d 0 x.1 (toward (fget d 0 x.1) x.2)) m.dlyShadow }) s
    let s := rSetField (bMC st) (offTrain c) 24 8 dev s
    let s := updChan st c (fun ch => { ch with pause := none, extra := if 8 < dev then some rank else ch.extra }) s
    let s := if 8 < dev then logRec (mkRec 0x3006 (iMC st)) s else s
    let s := helperNext st s
    let n := if res.eyeMin.toNat < 16 then fget (getChan s st c).narrow 0 rank + 1 else 0
    let s := updChan st c (fun ch => { ch with narrow := fset ch.narrow 0 rank (if n = 3 then 0 else n) }) s
    if n = 3 then
      let k := c * 4 + rank
      trainFail st c rank (updMcs st (fun m => { m with passed := fset m.passed 0 k 0 }) s)
    else s

/-! ## Speed change (R134-R140) -/

/-- The started profile's speed bin. -/
def profBin (s : Sled) : Nat :=
  match s.prof with
  | some p => p.cfg.bin
  | none => 0

/-- Pin rate of a bin, in units of 3.2 Gb/s. -/
def binRate (bin : Nat) : Nat := if bin = 0 then 4 else if bin = 1 then 3 else 2

/-- round(a ÷ b), ties to even. -/
def divRne (a b : Nat) : Nat :=
  if 2 * (a % b) < b then a / b else if b < 2 * (a % b) then a / b + 1 else if a / b % 2 = 0 then a / b else a / b + 1

/-- A GO of MC_SPEED_CTL (R134, R135): a bin above the profile's is ignored with ERR; a GO while the stack's own
change is queued or running is ignored with ERR (spec/21, R413). -/
def speedGo (st bin : Nat) (s : Sled) : Sled :=
  let t := min bin 2
  if t < profBin s ∨ (fget s.mcs {} st).speed.isSome then rSetField (bMC st) 0x300 4 1 1 s
  else { updMcs st (fun m => { m with speed := some { target := t } }) s with speedQ := s.speedQ ++ [st] }

/-- SPEED_CHANGE_REQUEST: BIN and GO in one write. -/
def fxSpeedChangeRequest (st bin : Nat) (s : Sled) : Sled :=
  if !islRuns s (iMC st) then s
  else if crossHeld s (bMC st) then setStall s
  else
    let s := swField (bMC st) 0x300 0 2 (min bin 2) s
    speedGo st (rField s (bMC st) 0x300 0 2) s

/-- A migration from the stack, or into S8 for stack 8, is running (spec/18, R357). -/
def migRuns (s : Sled) (st : Nat) : Bool :=
  (List.range 9).any fun x =>
    match (fget s.mcs {} x).mig with
    | some m => (x = st || st = 8) && m.state < 3 && !m.abort
    | none => false

/-- Steps 1 and 2 on a channel (Table 7-2): columns in flight complete and every open row is closed; the BCS reopens its
rows at step 8. -/
def chanSleeps (st c : Nat) (s : Sled) : Sled :=
  let s := updChan st c (fun ch => { ch with
    q := ch.q.map fun r => { r with join := false }
    bank := (ch.bank.map fun b =>
      (b.1, { b.2 with row := none, joined := 0, closed := false, taken := false })).filter fun b => b.2 ≠ {} }) (landAll st c s)
  (List.range 64).foldl (fun s b => mustReopen (chanBankKey st c b) s) s

/-- SPEED_CHANGE_START (R135, R136, steps 1-4): the oldest held change starts once no replay, pause or migration is
active; rows close, the ranks are in self-refresh and the PLL relocks. -/
def fxSpeedChangeStart (st : Nat) (s : Sled) : Sled :=
  match (fget s.mcs {} st).speed with
  | none => s
  | some v =>
    if s.speedQ.head? ≠ some st ∨ v.phase ≠ 0 ∨ !islRuns s (iMC st) ∨ migRuns s st ∨
        (List.range 16).any (fun c => (getChan s st c).replay.isSome || (getChan s st c).pause.isSome) then s
    else
      let s := (List.range 16).foldl (fun s c => chanSleeps st c s) s
      updMcs st (fun m => { m with speed := some { v with phase := 1 }, selfRefresh := true }) s

/-- The mode-word writes of step 7, and MW8 where programs had their rows open (step 8). -/
def modeWrites (st c : Nat) (s : Sled) : Sled :=
  let bin := binOf s st
  let s := (List.range 4).foldl (fun s w => pushRetry st c { ranks := 15, cmd := .mode w bin } s) s
  let bcm := (getChan s st c).bcm
  let s := if bcm then pushRetry st c { ranks := 15, cmd := .mode 8 1 } s else s
  updChan st c (fun ch => { ch with
    mwBin := bin, rdyCmd := chTime s st c + 4 * tMOD + (if bcm then tBMOD else 0) }) s

/-- The change ends (steps 6-9): self-refresh is left with every owed count 0 (R120), the mode words are written for the
bin that is live, and the next held change may start. -/
def speedEnd (st : Nat) (s : Sled) : Sled :=
  let s := updMcs st (fun m => { m with speed := none, selfRefresh := false }) s
  let s := (List.range 16).foldl (fun s c => modeWrites st c (refreshAnew st c s)) s
  { s with speedQ := s.speedQ.filter (· ≠ st) }

/-- The PLL of a stack locks (R134, R136, R139): set A with its delays for the profile's bin, else set B with delays
converted from set A; a return after more than 1 s owes one pause on every channel. -/
def pllConfirmed (st : Nat) (s : Sled) : Sled :=
  match (fget s.mcs {} st).speed with
  | none => s
  | some v =>
    if v.phase ≠ 1 then s
    else
      let prof := profBin s
      let m := fget s.mcs {} st
      let long := match m.lowSince with
        | some t => decide (1000 * ms < s.now - t)
        | none => false
      let s := updMcs st (fun m =>
        if v.target = prof then
          (List.range 16).foldl (fun m c => copyShadow 0 c m) { m with bin := v.target, setB := false, lowSince := none }
        else
          let conv := (m.dlyLive.filter fun p => p.1 < 16384).map fun p =>
            (p.1 + 16384, min 63 (divRne (p.2 * binRate v.target) (binRate prof)))
          let load (l : FMap Nat) : FMap Nat :=
            conv.foldl (fun l p => fset l 0 p.1 p.2) (fdrop l fun k _ => 16384 ≤ k)
          { m with bin := v.target, setB := true, dlyShadow := load m.dlyShadow, dlyLive := load m.dlyLive
                   lowSince := if m.lowSince.isSome then m.lowSince else some s.now }) s
      let s := speedEnd st s
      if v.target = prof && long then
        (List.range 16).foldl (fun s c => if ownerHw s st c then updChan st c (fun ch => { ch with due := 1 }) s else s) s
      else s

/-- The PLL of a stack does not lock (R138): the former rate and sets stay, DRAM_SPEED_FAIL is logged and ERR is set. -/
def pllTimeout (st : Nat) (s : Sled) : Sled :=
  match (fget s.mcs {} st).speed with
  | none => s
  | some v =>
    if v.phase ≠ 1 then s
    else logRec (mkRec 0x3007 (iMC st)) (rSetField (bMC st) 0x300 4 1 1 (speedEnd st s))

def execTrainStepGo (st : StackId) (c : ChanId) (stp : BitVec 3) (r : RankId) (fin : Bool) (s : State) :=
  liftHold (fxTrainStepGo st.val c.val stp.toNat r.val fin) s
def execTrainStepDone (st : StackId) (c : ChanId) (res : TrainResult) (s : State) :=
  lift (fxTrainStepDone st.val c.val res) s
def execMcDlyDataWrite (st : StackId) (taps : BitVec 6) (s : State) := liftHold (fxMcDlyDataWrite st.val taps.toNat) s
def execRetrainPauseDue (st : StackId) (c : ChanId) (s : State) := lift (fxRetrainPauseDue st.val c.val) s
def execRetrainPauseEnd (st : StackId) (c : ChanId) (res : PauseResult) (s : State) :=
  lift (fxRetrainPauseEnd st.val c.val res) s
def execSpeedChangeRequest (st : StackId) (bin : BitVec 2) (s : State) :=
  liftHold (fxSpeedChangeRequest st.val bin.toNat) s
def execSpeedChangeStart (st : StackId) (s : State) := lift (fxSpeedChangeStart st.val) s

end Sys2Proof.Machine
end

