-- ==== Sys2Proof/Machine/Records.lean ====
section
/-! DEFINITION. The way of an error record from the collector to the keeper's ring, the CTL record queue and the
event log (spec/18 R346; spec/20 R387, R396, R397), and the restart of the keeper (R386). -/

namespace Sys2Proof.Machine

open Sys2Proof

/-- Once space has returned, the records dropped are reported in one KPR_REC_LOST (R346). -/
def reportLost (s : Sled) : Sled :=
  if s.kpr.lost = 0 ∨ 16 ≤ (fget s.kpr.coll [] 0).length then s
  else
    let r := { mkRec 0xA007 0 with arg1 := s.kpr.lost, arg2 := s.kpr.lost4 }
    logRec r { s with kpr := { s.kpr with lost := 0, lost4 := 0 } }

/-- A record is dropped from the CTL record queue alone: counted, but the event log has it (R346). -/
def dropCtl (s : Sled) : Sled := bump bKPR 0x100 { s with kpr := { s.kpr with lost := s.kpr.lost + 1 } }

/-- KEEPER_RECORD_MOVE (R346, R396): the oldest record of an island leaves the collector for the ring, from which
it is written to the event log, and one of severity 2 or above also for the CTL record queue. -/
def fxKeeperRecordMove (i : Nat) (s : Sled) : Sled :=
  match fget s.kpr.coll [] i with
  | [] => s
  | r :: rest =>
    if s.kpr.phase ≠ .running then s
    else
      let s := { s with kpr := { s.kpr with coll := fset s.kpr.coll [] i rest } }
      if 1024 ≤ s.kpr.ring.length then dropRec r s
      else
        let n := s.fl.logSeq
        let s := { s with
          fl := { s.fl with logSeq := n + 1 }
          kpr := { s.kpr with ring := s.kpr.ring ++ [(n, r)], ops := s.kpr.ops ++ [.logEntry n r] } }
        if r.sev < 2 then reportLost s
        else if 256 ≤ s.kpr.ctlq.length then dropCtl s
        else reportLost { s with kpr := { s.kpr with ctlq := s.kpr.ctlq ++ [r] } }

/-- Entries of one sector of the event log, and its sectors (spec/20, R397). -/
def logSector : Nat := 1023
def logSectors : Nat := 512

/-- One entry is written to the event log (R396, R397): past the first slot of a sector, the following sector is
erased, and with it the oldest entries. -/
def logPut (e : LogEnt) (s : Sled) : Sled :=
  let n := e.seq
  let wrap : Bool := n % logSector = 1 ∧ logSectors - 1 ≤ n / logSector
  let old := if wrap then s.fl.log.filter (fun x => (n / logSector - (logSectors - 2)) * logSector ≤ x.seq) else s.fl.log
  let s := { s with fl := { s.fl with log := old ++ [e] } }
  if wrap then logRec (mkRec 0xA008 0) s else s

/-- A log entry of the ring reaches the event log and leaves the ring. -/
def logWrite (n : Nat) (r : Rec) (s : Sled) : Sled :=
  logPut { seq := n, boot := s.fl.boot, mod := moduleId s, hold := false, record := r }
    { s with kpr := { s.kpr with ring := s.kpr.ring.filter fun x => x.1 ≠ n } }

/-- The keeper commits one record to the erased slot at once (spec/03, R48, R53). -/
def holdCommit (r : Rec) (s : Sled) : Sled :=
  if s.kpr.phase ≠ .running then s
  else
    let r := { r with time := (s.now - s.plat.resetAt) / ns }
    let n := s.fl.logSeq
    let s := logPut { seq := n, boot := s.fl.boot, mod := moduleId s, hold := true, record := r } { s with fl := { s.fl with logSeq := n + 1 } }
    if 3 ≤ r.sev then alertOn s else s

/-- The keeper restarts (R386): sideband outputs hold; sessions and its queue of flash operations other than log
entries end; rescue DMA goes on (R365); the heartbeat watch opens a fresh window. -/
def keeperRestartBegin (s : Sled) : Sled :=
  if s.kpr.phase ≠ .running ∧ s.kpr.phase ≠ .recovery then s
  else
    { s with
      plat := { s.plat with heldPins := some (outPins s) }
      kpr := { s.kpr with
        phase := .restarting
        session := none
        mgmt := {}
        hb := s.kpr.hb.map fun h => (h.1, { h.2 with since := s.now })
        ops := s.kpr.ops.filter fun o => match o with
          | .updatePiece _ _ => false
          | _ => true } }

def execKeeperRecordMove (i : Fin 38) (s : State) := lift (fxKeeperRecordMove i.val) s

end Sys2Proof.Machine
end

