-- ==== Sys2Proof/Machine/Sparing.lean ====
section
/-! DEFINITION. Rank sparing (spec/18 R350-R359), the rescue DMA descriptors (R361), the heartbeat watch (R364) and
the keeper's watchdog (R365). -/

namespace Sys2Proof.Machine

open Sys2Proof

/-! ## Start and end of a migration (R352) -/

/-- Offset of MC_SPARE_CTL. -/
def offSpare : Nat := 0x308

/-- Migrations that run: copy or cutover, not aborted. -/
def migsRun (s : Sled) : Nat :=
  ((List.range 9).filter fun st => match (fget s.mcs {} st).mig with
    | some m => m.state < 3 && !m.abort
    | none => false).length

/-- Channels of a rank that cannot be read, as a mask: out of service, or failed in training (R356). -/
def deadMask (s : Sled) (st r : Nat) : Nat :=
  (List.range 16).foldl (fun m c =>
    if bitAt (getChan s st c).dead r || !trained s st c r then m + 2 ^ c else m) 0

/-- A write of GO = 1 (R352): ignored while STATE is not 0, while four migrations run, and for a spare that is not
available (notes/assumptions/24). One DRAM_RANK_LOST is logged for each unreadable channel, and the requests that waited
there complete (R356). -/
def spareGo (st r k : Nat) (s : Sled) : Sled :=
  if lockedReg s (bMC st) offSpare then lockHit s
  else if (fget s.mcs {} st).mig.isSome ∨ 4 ≤ migsRun s ∨ !spareFree s k ∨ (st = 8 ∧ r = k) then s
  else
    let dead := deadMask s st r
    let s := rSetField (bMC st) offSpare 0 5 (r + 4 * k + 16) s
    let s := updMcs st (fun m => { m with mig := some { rank := r, spare := k, dead := dead } }) s
    let s := { s with kpr := { s.kpr with
      pendingMig := s.kpr.pendingMig.filter fun p => !(p.1 = st && p.2.1 = r) } }
    (maskList 16 dead).foldl (fun s c =>
      resolveDead st c r (logRec { mkRec 0x300C (iMC st) with object := r * 16 + c * 64 + st * 1024 } s)) s

/-- SPARE_GO: the driver's write with its DRAM_SPARE_START record (R352, step 2). -/
def fxSpareGo (st r k : Nat) (s : Sled) : Sled :=
  if !islRuns s (iMC st) || !islRuns s (iMC 8) then s
  else if crossHeld s (bMC st) then setStall s
  else
    let t := spareGo st r k s
    if (fget s.mcs {} st).mig.isNone && (fget t.mcs {} st).mig.isSome then
      logRec { mkRec 0x3009 (iMC st) with arg1 := k } t
    else t

/-- A migration of a stack ends: STATE returns to 0. -/
def migEnd (st : Nat) (s : Sled) : Sled :=
  rSetField (bMC st) offSpare 4 1 0 (updMcs st (fun x => { x with mig := none }) s)

/-- A write of GO = 0: an aborted migration ends; a done one ends once its map entry is committed, and until then the
write waits for the commit (R352). -/
def spareGo0 (st : Nat) (s : Sled) : Sled :=
  if lockedReg s (bMC st) offSpare then lockHit s else
  match (fget s.mcs {} st).mig with
  | none => s
  | some m =>
    if m.abort || (m.state = 3 && m.committed) then
      migEnd st s
    else if m.state = 3 then updMcs st (fun x => { x with mig := some { m with ending := true } }) s
    else s

/-- SPARE_END: the driver's write of GO = 0, with DRAM_SPARE_DONE for a migration that is done (R352, step 4). -/
def fxSpareEnd (st : Nat) (s : Sled) : Sled :=
  if !islRuns s (iMC st) then s
  else if crossHeld s (bMC st) then setStall s
  else
    let done : Bool := match (fget s.mcs {} st).mig with
      | some m => m.state = 3 && !m.abort && !m.ending
      | none => false
    let s := spareGo0 st s
    if done then logRec (mkRec 0x300A (iMC st)) s else s

/-! ## Copy (R354, R356) -/

/-- Key of a bank of a rank of a stack, as it stands in the memory. -/
def rankBank (st c r b : Nat) : Nat := ((st * 16 + c) * 4 + r) * 16 + b

/-- One word is copied: a single-bit error is corrected, a fresh uncorrectable word is written as poison and
logged, poison is copied unchanged; on an unreadable channel every word is written as poison. -/
def copyWord (dead : Bool) (src dst : Nat) (s : Sled) : Sled :=
  if dead then poisonAt dst s
  else if eccAt s src = ePoison then poisonAt dst s
  else if eccAt s src = eFresh then freshUe (coordOf src) (poisonAt dst s)
  else storeWord dst (2 ^ 32 - 1) (memRead s.mem src 32) s

/-- Writes held for a bank-row on an unreadable channel go to the spare once it has been copied (R353, R356). -/
def flushHeld (st : Nat) (p : Coord → Bool) (s : Sled) : Sled :=
  let mine := (fget s.mcs {} st).held.filter fun h => p (coordOf h.1)
  let s := updMcs st (fun m => { m with held := m.held.filter fun h => !p (coordOf h.1) }) s
  mine.foldl (fun s h => writeRaw h.1 h.2.1.toNat (leBytes 32 h.2.2.toNat) s) s

/-- Copy the row at the watermark of channel `c` in the banks that `p` names and that are not yet copied. With all
sixteen banks copied the watermark rises, and with every channel complete STATE becomes 2 (R354, R355). -/
def copyBanks (st c : Nat) (p : Nat → Bool) (s : Sled) : Sled :=
  match (fget s.mcs {} st).mig with
  | none => s
  | some m =>
    let row := fget m.wm 0 c
    let dead := bitAt m.dead c
    let at_ := chTime s st c
    let todo := (List.range 16).filter fun b => !bitAt (fget m.part 0 c) b && p b
    let s := todo.foldl (fun s b =>
      let src := rankBank st c m.rank b * 2 ^ 26 + row * 1024
      let dst := rankBank 8 c m.spare b * 2 ^ 26 + row * 1024
      (List.range 32).foldl (fun s k => copyWord dead (src + 32 * k) (dst + 32 * k) s) s) s
    let part := todo.foldl (fun x b => setBit x b true) (fget m.part 0 c)
    let all := part = 2 ^ 16 - 1
    let s := updMcs st (fun x => { x with mig := x.mig.map fun g =>
      { g with wm := if all then fset g.wm 0 c (row + 1) else g.wm
               part := fset g.part 0 c (if all then 0 else part)
               waits := todo.foldl (fun w b => fset w 0 (c * 16 + b) 0) g.waits
               next := fset g.next 0 c (at_ + todo.length * 128 * slotLen (binOf s st)) } }) s
    let s := flushHeld st (fun d => d.chan = c && d.rank = m.rank && d.row = row && todo.contains d.bank) s
    updMcs st (fun x => { x with mig := x.mig.map fun g =>
      if g.state = 1 ∧ (List.range 16).all (fun c => fget g.wm 0 c = 65536) then { g with state := 2 } else g }) s

/-- Channel `c` of stack `st` takes a command of the copy: no replay and no retraining pause (spec/06, R112). -/
def copyIssues (s : Sled) (st c : Nat) : Bool := (getChan s st c).replay.isNone && (getChan s st c).pause.isNone

/-- The copy of a stack's migration can go on in channel `c`: its next read may issue, for which P11 has an entry; on an
unreadable channel it reads nothing (R354, R356). -/
def copyRuns (s : Sled) (st c : Nat) : Bool :=
  islRuns s (iMC st) && islRuns s (iMC 8) && !(fget s.mcs {} st).selfRefresh && !(fget s.mcs {} 8).selfRefresh &&
  (match (fget s.mcs {} st).mig with
   | some m => m.state = 1 && !m.abort && fget m.wm 0 c < 65536 && fget m.next 0 c ≤ chTime s st c && copyIssues s 8 c &&
       (bitAt m.dead c || (copyIssues s st c && queueRoom (getChan s st c).q 11))
   | none => false)

/-- The bank `b` of the source on channel `c` holds a program row and can be read. -/
def copyWaits (s : Sled) (st c b : Nat) : Bool :=
  match (fget s.mcs {} st).mig with
  | some m => !bitAt m.dead c && inWindow (getBank s (rankBank st c m.rank b))
  | none => false

/-- The banks of the row at the watermark of channel `c` that are not copied yet. -/
def uncopied (s : Sled) (st c b : Nat) : Bool :=
  match (fget s.mcs {} st).mig with
  | some m => !bitAt (fget m.part 0 c) b
  | none => false

/-- The copy first waits for bank `b`: its program row is broken 8 × tREFI_B later (R354). -/
def noteWait (st c b : Nat) (s : Sled) : Sled :=
  if !copyWaits s st c b || !uncopied s st c b then s
  else
    let k := c * 16 + b
    let note (fast : Nat) (m : Mig) : Mig :=
      if fget m.waits 0 k ≠ 0 then m
      else { m with waits := fset m.waits 0 k (chTime s st c + 8 * tREFI (bitAt fast m.rank)) }
    updMcs st (fun x => { x with mig := x.mig.map (note x.fast) }) s

/-- MIGRATION_COPY_ROW: banks that hold a program row wait for it to close (R354). -/
def fxMigrationCopyRow (st c : Nat) (s : Sled) : Sled :=
  if copyRuns s st c then
    let s := (List.range 16).foldl (fun s b => noteWait st c b s) s
    copyBanks st c (fun b => !copyWaits s st c b) s
  else s

/-- The copy has waited long enough for bank `b` (R354). -/
def waitOver (s : Sled) (st c b : Nat) : Bool :=
  match (fget s.mcs {} st).mig with
  | some m => fget m.waits 0 (c * 16 + b) ≠ 0 && fget m.waits 0 (c * 16 + b) ≤ chTime s st c
  | none => false

/-- Key of bank `b` of the source of a stack's migration. -/
def sourceBank (s : Sled) (st c b : Nat) : Nat :=
  match (fget s.mcs {} st).mig with
  | some m => rankBank st c m.rank b
  | none => 0

/-- MIGRATION_ROW_BREAK: the program row of a bank is broken, the bank-row copied and the row reopened (R354, R161). -/
def fxMigrationRowBreak (st c b : Nat) (s : Sled) : Sled :=
  if copyRuns s st c && copyWaits s st c b && uncopied s st c b && waitOver s st c b then
    mustReopen (sourceBank s st c b) (bumpMc st c 10 (copyBanks st c (fun x => x = b) s))
  else s

/-! ## Cutover (R355, R356) -/

/-- Registers cleared and poison-flagged, BC staging included; the rows and the commands that wait stay. -/
def bankFlag (b : BankU) : BankU :=
  { bankClear b with pv := 255, pa0 := true, pa1 := true, pbc := true, pstg := true, stgFull := b.stgFull
                     tenant := b.tenant }

/-- Requests queued for a source bank go to the same bank of the spare. -/
def moveReqs (st c r k : Nat) (s : Sled) : Sled :=
  let mine (q : Req) : Bool := q.bank / 16 = r
  let go (q : Req) : Req :=
    { q with bank := k * 16 + q.bank % 16, join := false
             phys := { coordOf q.phys with stack := 8, rank := k }.phys }
  let moved := ((getChan s st c).q.filter mine).map go
  let s := updChan st c (fun ch => { ch with
    q := ch.q.filter fun q => !mine q
    bank := (ch.bank.map fun b => if b.1 / 16 = r then
      (b.1, { b.2 with row := none, joined := 0, closed := false, taken := false, reop := 0 }) else b).filter fun b => b.2 ≠ {} }) s
  updChan 8 c (fun ch => { ch with q := ch.q ++ moved }) s

/-- One channel cuts over: each bank's registers, rows and commands move to the spare, where the rows are reopened. -/
def cutChannel (st c : Nat) (m : Mig) (s : Sled) : Sled :=
  let s := (List.range 16).foldl (fun s b =>
    let src := rankBank st c m.rank b
    let dst := rankBank 8 c m.spare b
    let x := getBank s src
    let x := if bitAt m.dead c then bankFlag x else x
    mustReopen dst (setTm dst (getTm s src) (setTm src {} (setBank dst x (setBank src {} s))))) s
  let bcm := (getChan s st c).bcm
  let open_ := (List.range 16).any fun b => inWindow (getBank s (rankBank 8 c m.spare b))
  let s := if bcm && open_ then updChan 8 c (fun ch => { ch with bcm := true }) s else s
  moveReqs st c m.rank m.spare s

/-- MIGRATION_CUTOVER: STATE becomes 3, and the counter of the spare advances (R355). -/
def fxMigrationCutover (st : Nat) (s : Sled) : Sled :=
  match (fget s.mcs {} st).mig with
  | none => s
  | some m =>
    if m.state ≠ 2 ∨ m.abort ∨ !islRuns s (iMC st) ∨ !islRuns s (iMC 8) then s
    else
      let s := flushHeld st (fun d => d.rank = m.rank) s
      let s := (List.range 16).foldl (fun s c => cutChannel st c m s) s
      let s := updMcs st (fun x => { x with mig := x.mig.map fun g => { g with state := 3 } }) s
      ctrAdd { kind := 8, island := iMC st } (16328 + m.spare) 1 s

/-! ## The spare map (R351, R358) -/

/-- Set or clear a spare-map entry's register. -/
def setSpareReg (k : Nat) (e : Option SpareEnt) : Sled → Sled :=
  rSet bKPR (8 + 8 * k) (match e with
    | some e => 1 + e.stack * 2 + e.rank * 16
    | none => 0)

/-- The map as the registers hold it. -/
def spareMap (s : Sled) : FMap SpareEnt :=
  (List.range 4).filterMap fun k => (spareEnt s k).map fun e => (k, e)

/-- SPARE_MAP_COMMIT: the keeper writes the map entry of a migration that is done and commits the map to flash. A
spare that was itself the source hands on the rank it replaced and leaves the pool (R351, R352, R358). -/
def fxSpareMapCommit (st : Nat) (s : Sled) : Sled :=
  match (fget s.mcs {} st).mig with
  | none => s
  | some m =>
    if m.state ≠ 3 ∨ m.abort ∨ m.committed ∨ s.kpr.phase ≠ .running then s
    else
      let s := if st = 8 then
          let e := spareEnt s m.rank
          let s := setSpareReg m.spare e (setSpareReg m.rank none s)
          { s with kpr := { s.kpr with badSpares := setBit s.kpr.badSpares m.rank true } }
        else setSpareReg m.spare (some { stack := st, rank := m.rank }) s
      let s := { s with fl := { s.fl with spares := s.fl.spares.write (spareMap s) } }
      let s := updMcs st (fun x => { x with mig := x.mig.map fun g => { g with committed := true } }) s
      if m.ending then migEnd st s else s

/-! ## Rescue DMA (R361) -/

/-- Offset of KPR_RDMA_SRC_n; DST follows at +8 and CTL at +16. -/
def offRdma (n : Nat) : Nat := 0x40 + 0x18 * n

/-- GO of KPR_RDMA_CTL_n with the operands stored (spec/22, R436): ignored while the descriptor moves; a length above
16 MiB sets ERR. -/
def rdmaGo (n : Nat) (s : Sled) : Sled :=
  if s.kpr.rdma.any (·.n = n) then s
  else
    let ctl := rGet s bKPR (offRdma n + 16)
    let len := bitsOf ctl 0 25
    if 2 ^ 24 < len then rSetField bKPR (offRdma n + 16) 37 1 1 s
    else
      let d : Rdma := { n := n, src := bitsOf (rGet s bKPR (offRdma n)) 0 40, dst := bitsOf (rGet s bKPR (offRdma n + 8)) 0 40
                        len := len, fill := bitAt ctl 33, sig := bitAt ctl 34 }
      { s with kpr := { s.kpr with rdma := s.kpr.rdma ++ [d] } }

/-- RESCUE_DMA_GO: the keeper's write of one descriptor. A length of 0 takes effect as 1. -/
def fxRescueDmaGo (n src dst len : Nat) (fill sig : Bool) (s : Sled) : Sled :=
  if s.kpr.phase ≠ .running ∨ !islRuns s iNOC then s
  else
    let o := offRdma n
    let s := swField bKPR (o + 8) 0 40 dst (swField bKPR o 0 40 src s)
    let s := swField bKPR (o + 16) 0 25 (max 1 len) s
    let s := swField bKPR (o + 16) 33 1 (b2n fill) s
    rdmaGo n (swField bKPR (o + 16) 34 1 (b2n sig) s)

/-- The rescue mover as requester: the keeper's, from the NOC island. -/
def whoRdma (n : Nat) : Who := { q := n, kind := 8, island := iNOC }

/-- An address of the sync store. -/
def isSync (a : Nat) : Bool := 0x8100000000 ≤ a && a < 0x81001E8000

/-- First byte of [a, a + len) outside the mover's reach: DRAM, the scratchpads, the stream state SRAM, and the sync
store in whole slots (R361). -/
def rdmaBad (s : Sled) (a : Nat) : Nat → Option Nat
  | 0 => none
  | n + 1 =>
    match rdmaBad s a n with
    | some x => some x
    | none =>
      let x := a + n
      if (placeOf s x).isSome then none
      else if isSync x ∧ islRuns s iNOC ∧ (n ≠ 0 ∨ a % 8 = 0) then none
      else some x

/-- Read bytes for the mover: memory words as they are, and the sync store slot by slot. -/
def rdmaRead (n : Nat) : Nat → Nat → Nat → Sled → List (Byte × Bool) × Sled
  | 0, _, _, s => ([], s)
  | fuel + 1, a, len, s =>
    if len = 0 then ([], s)
    else if isSync a then
      let (v, s) := syncAccess (whoRdma n) (a - 0x8100000000) 1 0 s
      let x := match v with
        | .inl x => x
        | .inr _ => 0
      let (l, s) := rdmaRead n fuel (a + 8) (len - min 8 len) s
      ((cleanBytes (leBytes 8 x)).take len ++ l, s)
    else
      let k := min (32 - a % 32) len
      let ((l, _), s) := readLocal a k s
      let (rest, s) := rdmaRead n fuel (a + k) (len - k) s
      (l ++ rest, s)

/-- Write bytes for the mover. -/
def rdmaWrite (n : Nat) : Nat → Nat → List (Byte × Bool) → Sled → Sled
  | 0, _, _, s => s
  | fuel + 1, a, l, s =>
    if l.isEmpty then s
    else if isSync a then
      let x := leNat ((l.take 8).map (·.1))
      rdmaWrite n fuel (a + 8) (l.drop 8) (syncAccess (whoRdma n) (a - 0x8100000000) 3 x s).2
    else
      let k := min (32 - a % 32) l.length
      rdmaWrite n fuel (a + k) (l.drop k) (writeLocal a (l.take k) s)

/-- The descriptor moves in 4 KiB blocks up to its end, or to the first block with an address out of reach, which
it answers (notes/assumptions/24). -/
def rdmaMove (d : Rdma) : Nat → Nat → Sled → Option Nat × Sled
  | 0, _, s => (none, s)
  | fuel + 1, pos, s =>
    if d.len ≤ pos then (none, s)
    else
      let k := min 4096 (d.len - pos)
      match (if d.fill then none else rdmaBad s (d.src + pos) k), rdmaBad s (d.dst + pos) k with
      | some x, _ => (some x, s)
      | none, some x => (some x, s)
      | none, none =>
        let (l, s) := if d.fill then (List.replicate k ((0 : Byte), false), s)
          else rdmaRead d.n (k + 1) (d.src + pos) k s
        rdmaMove d fuel (pos + 4096) (rdmaWrite d.n (k + 1) (d.dst + pos) l s)

/-- RESCUE_DMA_DONE. -/
def fxRescueDmaDone (n : Nat) (s : Sled) : Sled :=
  match s.kpr.rdma.find? (·.n = n) with
  | none => s
  | some d =>
    if !islRuns s iNOC then s
    else
      let s := { s with kpr := { s.kpr with rdma := s.kpr.rdma.filter (·.n ≠ n) } }
      match rdmaMove d 4097 0 s with
      | (some x, s) =>
        let s := rSetField bKPR (offRdma n + 16) 37 1 1 s
        logRec (recAddr false x (moduleId s) (recWho s 0xA005 (whoRdma n))) s
      | (none, s) =>
        let s := bump bKPR 0x110 (rSetField bKPR (offRdma n + 16) 36 1 1 s)
        if d.sig then ctrAdd (whoRdma n) (16320 + n) 1 s else s

/-! ## Heartbeats and the watchdog (R364, R365) -/

/-- The cause of the most recent reset (spec/03, R65): kind, trigger and core. -/
def setCause (kind trigger id : Nat) : Sled → Sled := rSet bKPR 0 (kind + trigger * 16 + id * 256)

/-- A control core's heartbeat watch opens with a fresh window. -/
def hbStart (i : Nat) (s : Sled) : Sled :=
  let h := fget s.kpr.hb {} i
  { s with kpr := { s.kpr with hb := fput s.kpr.hb i { h with last := (getCtr s (16324 + i)).value, since := s.now } } }

/-- A core hangs (R364): the driver lock that it holds is forced free, and it is reset; at the third hang in 10 s it
goes offline (spec/04, R88). -/
def coreHangs (i : Nat) (s : Sled) : Sled :=
  let s := bump bKPR 0x108 (logRec (recWho s 0xB005 (whoAgent s (.cc (Fin.ofNat 4 i)))) s)
  let s := if (getSem s 65281).count = i + 1 then forceSemOp 65280 1 (forceSemOp 65281 0 s) else s
  let h := fget s.kpr.hb {} i
  let hangs := s.now :: h.hangs.filter fun t => s.now ≤ t + 10000 * ms
  let s := { s with kpr := { s.kpr with hb := fput s.kpr.hb i { h with since := s.now, hangs := hangs } } }
  if 3 ≤ hangs.length then clearX (8 + i) (ccGone i (ccDrop i s))
  else setCause 6 3 (8 + i) (coreResetBegin (8 + i) false s)

/-- The heartbeat of one started control core. -/
def heartbeat (i : Nat) (s : Sled) : Sled :=
  if !s.ccRunning.getLsbD i then s
  else
    let h := fget s.kpr.hb {} i
    let v := (getCtr s (16324 + i)).value
    if v ≠ h.last then { s with kpr := { s.kpr with hb := fput s.kpr.hb i { h with last := v, since := s.now } } }
    else if h.since + 200 * ms ≤ s.now then coreHangs i s
    else s

/-- HEARTBEAT_CHECK. -/
def fxHeartbeatCheck (s : Sled) : Sled :=
  if s.kpr.phase = .running ∧ islRuns s iNOC ∧ islRuns s iCTL then (List.range 4).foldl (fun s i => heartbeat i s) s
  else s

/-- KEEPER_WATCHDOG: the keeper has not serviced it for 1 s (R365). -/
def fxKeeperWatchdog (s : Sled) : Sled :=
  if s.kpr.phase ≠ .running ∨ s.now < s.kpr.wdtAt + 1000 * ms then s else keeperRestartBegin (logRec (mkRec 0xA001 0) s)

def execSpareGo (st : StackId) (r : RankId) (spare : Fin 4) (s : State) := liftHold (fxSpareGo st.val r.val spare.val) s
def execSpareEnd (st : StackId) (s : State) := liftHold (fxSpareEnd st.val) s
def execMigrationCopyRow (st : StackId) (c : ChanId) (s : State) := lift (fxMigrationCopyRow st.val c.val) s
def execMigrationRowBreak (st : StackId) (c : ChanId) (b : Fin 16) (s : State) :=
  lift (fxMigrationRowBreak st.val c.val b.val) s
def execMigrationCutover (st : StackId) (s : State) := lift (fxMigrationCutover st.val) s
def execSpareMapCommit (st : StackId) (s : State) := lift (fxSpareMapCommit st.val) s
def execRescueDmaGo (n : Fin 4) (src dst : LAddr) (len : BitVec 25) (fill sig : Bool) (s : State) :=
  lift (fxRescueDmaGo n.val src.toNat dst.toNat len.toNat fill sig) s
def execRescueDmaDone (n : Fin 4) (s : State) := liftHold (fxRescueDmaDone n.val) s
def execHeartbeatCheck (s : State) := lift fxHeartbeatCheck s
def execKeeperWatchdog (s : State) := lift fxKeeperWatchdog s

end Sys2Proof.Machine
end

