-- ==== Sys2Proof/Machine/Resets.lean ====
section
/-! DEFINITION. The resets and the power-down of the main rails (spec/03 R49-R53, R61-R65; spec/04 R86; spec/22
R421): what each clears and keeps. -/

namespace Sys2Proof.Machine

open Sys2Proof

/-! ## Registers (spec/22, R421) -/

/-- A trouble-counter register. -/
def isCnt (blk off : Nat) : Bool :=
  if (0x010 ≤ blk && blk ≤ 0x018) || (0x020 ≤ blk && blk ≤ 0x028) then 0x1000 ≤ off
  else if blk = bSYN then 0x300 ≤ off
  else if blk = bSTE then 0x400 ≤ off
  else if 0x060 ≤ blk && blk ≤ 0x06F then 0x100 ≤ off
  else if blk = bTHM then 0x500 ≤ off
  else if blk = bKPR then 0x100 ≤ off
  else if blk = bHST then 0x200 ≤ off
  else false

/-- A register of LK fields with a LOCK bit [63], beside GLB_COMPAT. -/
def isLk (blk off : Nat) : Bool :=
  (blk = bMAP && (off < 0xE8 || 0x800 ≤ off)) ||
  (blk = bSTE && (off = 0x208 || (0x300 ≤ off && off < 0x380)))

/-- MC_TRAIN_CTL of some channel. -/
def isTrain (blk off : Nat) : Bool := 0x010 ≤ blk && blk ≤ 0x018 && 0x100 ≤ off && off < 0x180

/-- A register of the AON island. -/
def isAon (blk : Nat) : Bool := blk = bGLB || blk = bISL || blk = bTHM || blk = bKPR

/-- Block and offset of a listed register. -/
def keyBlk (k : Nat) : Nat := k / 0x100000
def keyOff (k : Nat) : Nat := k % 0x100000

/-- Registers across a PWR_EN cycle: AON keeps its own but for GLB_COMPAT and locked ones; trouble counters stay;
everything else returns to its reset value, and every lock clears. -/
def cycleRegs (s : Sled) : Sled :=
  { s with
    regs := fdrop s.regs fun k _ => !isCnt (keyBlk k) (keyOff k) &&
      (!isAon (keyBlk k) || s.locked.contains k || k = regKey bGLB 0x20)
    locked := [] }

/-- What a register holds after a warm reset: LK and preload-locked registers keep their values with the lock
clear, MC_TRAIN_CTL keeps OWNER, and with a preload lock its other fields too (spec/21, R411). -/
def warmVal (s : Sled) (k v : Nat) : Nat :=
  let blk := keyBlk k
  let off := keyOff k
  if isAon blk || blk = bHST || isCnt blk off then v
  else if isLk blk off then v % 2 ^ 63
  else if s.locked.contains k && !isTrain blk off then v
  else if isTrain blk off then v &&& (if s.locked.contains k then 0xC37 else 0x800)
  else (resetVal blk off).toNat

/-- Registers across a warm reset. -/
def warmRegs (s : Sled) : Sled :=
  { s.regs.foldl (fun t kv => rSet (keyBlk kv.1) (keyOff kv.1) (warmVal s kv.1 kv.2.toNat) t) s with locked := [] }

/-- Registers of a block across a narrower reset: trouble counters, LK and locked registers stay. -/
def narrowRegs (blk : Nat) (s : Sled) : Sled :=
  restoreBlk blk (fun off => isCnt blk off || isLk blk off || s.locked.contains (regKey blk off)) s

/-! ## Power -/

/-- Every island but AON loses its state (R53): DRAM, SRAM and engine state with it. -/
def mainLost (s : Sled) : Sled :=
  cycleRegs { s with
    isl := s.isl.filter fun p => p.1 = 0
    ccRunning := 0, ccOffline := 0, ctlMem := none, clearing := true, cpu := [], mem := [], ecc := []
    chan := [], mcs := [], speedQ := [], bank := [], btm := [], xing := [], bcs := [], vc := []
    ctr := [], sem := [], waits := [], dld := [], ste := {}, lnk := [], fab := {}
    hst := { retry := s.hst.retry }
    kpr := { s.kpr with ctlq := [], hb := [], rdma := [], pendingMig := [], badSpares := 0, fullTrain := 0, cachePend := 0, fillPend := 0, booted := false }
    plat := { s.plat with coreReset := [], tenantReset := [] } }

/-- The main rails power down in the reverse order (R49): READY falls, and what they supply loses its state. -/
def railsDown (s : Sled) : Sled :=
  if s.plat.rails = .up ∨ s.plat.rails = .rising then
    let s := mainLost { s with plat := { s.plat with rails := .falling, ready := false } }
    if s.kpr.tier = 2 then { s with kpr := { s.kpr with tier := 0 } } else s
  else { s with plat := { s.plat with ready := false } }

/-- The sled as the always-on power-on reset leaves it: flash, the input pins and what has left the sled stay. -/
def freshSled (s : Sled) : Sled :=
  { now := s.now, free := s.free, seq := s.seq, outs := s.outs, fl := s.fl
    thm := { critHold := s.thm.critHold }
    plat := { pwrEn := s.plat.pwrEn, perst := s.plat.perst, modReset := s.plat.modReset, updLock := s.plat.updLock
              removeReq := s.plat.removeReq, seated := s.plat.seated, bus := s.plat.bus, supply := s.plat.supply
              resetAt := s.now } }

/-- The main rail sequence starts where PWR_EN and the keeper's rail enable allow it (R51) and no fault holds it
off (R50). -/
def railsStart (s : Sled) : Sled :=
  if s.plat.pwrEn && s.kpr.railEnable && !s.plat.railFault && s.plat.quiesce = .none && s.plat.rails = .off then
    { s with plat := { s.plat with rails := .rising } }
  else s

/-! ## Host reset (R61) -/

/-- The HST island returns to its reset state. -/
def hostReset (s : Sled) : Sled :=
  narrowRegs bHST { s with hst := { retry := s.hst.retry } }

/-! ## Warm reset (R61, R64, R86) -/

/-- The started profile copy and runtime slot match their digests of R84; else the code to log. -/
def digestBad (s : Sled) : Option Nat :=
  let p := (ffind s.fl.prof (profAt s.kpr.prof s.kpr.copy)).map fun p => Config.digest p.id
  let r := (ffind s.fl.runtime (runtimeAt s.kpr.rtSlot)).map fun r => Config.digest r.id
  if p ≠ s.kpr.digProf then some 0x9003
  else if s.kpr.digRt.isSome && r ≠ s.kpr.digRt then some 0x9005
  else none

/-- A migration that a warm reset interrupts restarts from WM = 0 (spec/18, R357). -/
def warmMig (m : Option Mig) : Option Mig :=
  m.map fun g => if g.state < 3 ∧ !g.abort then { g with state := 1, wm := [], part := [], waits := [] } else g

/-- What the memory controllers had accepted before a reset completes (R71): reads in flight, and queued requests. Writes
that wait for the copy of an unreadable channel stay held (spec/18, R356). -/
def acceptedDone (s : Sled) : Sled :=
  s.chan.foldl (fun s (p : Nat × Chan) =>
    (getChan s (p.1 / 16) (p.1 % 16)).q.foldl (fun s q => answerReq q s) (landAll (p.1 / 16) (p.1 % 16) s)) s

/-- Register writes that wait at a crossing have not been accepted: they are dropped and logged (R71). -/
def crossingsLost (s : Sled) : Sled :=
  s.xing.foldl (fun s x => unmappedReg x.agent ((x.addr - 0xF000000000) / 0x100000) (x.addr % 0x100000) s) { s with xing := [] }

/-- What a channel keeps across a warm reset: its time, the ranks out of service, its service state and the mode words that
the DRAM holds in self-refresh. -/
def warmChan (ch : Chan) : Chan :=
  { clk := ch.clk, dead := ch.dead, online := ch.online, off := ch.off, thermal := ch.thermal, mwBin := ch.mwBin, mw5 := ch.mw5 }

/-- The state of every island but AON and HST is cleared; DRAM is held in self-refresh, and trained delays stay. -/
def warmClear (s : Sled) : Sled :=
  let s := warmRegs (crossingsLost (acceptedDone s))
  let s := { s with
    isl := s.isl.map fun (p : Nat × Isl) => if p.1 = 0 ∨ p.1 = iHST ∨ p.2.state = 0 then p else (p.1, { p.2 with state := 2 })
    ccRunning := 0, ccOffline := 0, clearing := true, cpu := []
    chan := s.chan.map fun (p : Nat × Chan) => (p.1, warmChan p.2)
    mcs := s.mcs.map fun (p : Nat × Mcs) => (p.1, { p.2 with
      speed := none, selfRefresh := true, helper := none, helperQ := [], heldDly := [], ownerLock := 0, mig := warmMig p.2.mig })
    speedQ := [], bank := [], btm := [], bcs := [], vc := [], ctr := [], sem := [], waits := [], dld := [], ste := {}
    lnk := [], fab := {}
    kpr := { s.kpr with ctlq := [], hb := [], rdma := [], outstanding := 0, booted := false, bootAt := s.now }
    plat := { s.plat with coreReset := [], tenantReset := [] } }
  let s := { s with chan := s.chan.filter fun (p : Nat × Chan) => decide (p.2 ≠ ({} : Chan)) }
  let s := (List.range 9).foldl (fun s st =>
    if (fget s.mcs {} st).selfRefresh then s else updMcs st (fun m => { m with selfRefresh := true }) s) s
  (List.range 9).foldl (fun s st =>
    match (fget s.mcs {} st).mig with
    | some m => rSetField (bMC st) offSpare 0 5 (m.rank + 4 * m.spare + 16) s
    | none => s) s

/-- A warm reset (R61): absorbs narrower resets in progress (R63); its cause is recorded; steps 5 to 9 of the boot
follow, unless a digest no longer matches (R86). -/
def warmReset (trigger : Nat) (s : Sled) : Sled :=
  if s.plat.rails ≠ .up ∨ s.prof.isNone then s
  else
    let bad := digestBad s
    let s := setCause 4 trigger 0 (warmClear s)
    match bad with
    | none => s
    | some code =>
      let a1 := if code = 0x9003 then s.kpr.prof else s.kpr.rtSlot
      watchOnly code (logRec { mkRec code 0 with arg1 := a1, arg2 := 9 } s)

/-- A write of GLB_RESET.WARM (spec/22, R424). -/
def fxGlbResetWarm (a : Agent) (s : Sled) : Sled := regAccess a bGLB 0x18 (warmReset 1) s

/-- A tenant or core reset that GLB_RESET started is in progress. -/
def glbBusy (s : Sled) : Bool := s.plat.tenantReset.any (·.2) || s.plat.coreReset.any (·.2)

/-- A write of GLB_RESET.TENANT_RST, ignored while BUSY (R424, R413). -/
def glbTenant (t : Nat) (s : Sled) : Sled := if glbBusy s then s else tenantResetBegin t true s

/-- A write of GLB_RESET.CORE_RST. -/
def glbCore (core : Nat) (s : Sled) : Sled :=
  if glbBusy s then s
  else
    let t := coreResetBegin core true s
    if t.plat.coreReset = s.plat.coreReset then s else setCause 6 1 core t

/-- Store an operand field of GLB_RESET. -/
def glbField (lo v : Nat) (s : Sled) : Sled :=
  swField bGLB 0x18 lo 4 v s

/-- TENANT_RST. -/
def fxTenantRst (a : Agent) (t : Nat) (s : Sled) : Sled :=
  regAccess a bGLB 0x18 (fun s => let s := glbField 4 t s; glbTenant (rField s bGLB 0x18 4 4) s) s

/-- CORE_RST. -/
def fxCoreRst (a : Agent) (core : Nat) (s : Sled) : Sled :=
  regAccess a bGLB 0x18 (fun s => let s := glbField 12 core s; glbCore (rField s bGLB 0x18 12 4) s) s

/-- TENANT_RESET_DONE (R61, R63; spec/17, R337): waits while a core of the tenant's mask is under core reset. -/
def fxTenantResetDone (t : Nat) (s : Sled) : Sled :=
  if !s.plat.tenantReset.any (·.1 = t) || s.plat.coreReset.any (fun c => c.1 < 8 && bitAt (vcMask s t) c.1) then s
  else vfEvent t 0 { s with plat := { s.plat with tenantReset := s.plat.tenantReset.filter fun x => x.1 ≠ t } }

/-- CORE_RESET_DONE: the core leaves reset; a control core runs again with a fresh heartbeat window. -/
def fxCoreResetDone (core : Nat) (s : Sled) : Sled :=
  if !s.plat.coreReset.any (·.1 = core) then s
  else
    let s := { s with plat := { s.plat with coreReset := s.plat.coreReset.filter fun x => x.1 ≠ core } }
    if core < 8 then setIsl (iVC core) 2 s
    else
      let i := core - 8
      if s.ccOffline.getLsbD i then s
      else hbStart i { s with ccRunning := BitVec.ofNat 4 (setBit s.ccRunning.toNat i true) }

def execGlbResetWarm (a : Agent) (s : State) := lift (fxGlbResetWarm a) s
def execTenantRst (a : Agent) (t : Tenant) (s : State) := lift (fxTenantRst a t.val) s
def execCoreRst (a : Agent) (core : Fin 16) (s : State) := lift (fxCoreRst a core.val) s
def execTenantResetDone (t : Tenant) (s : State) := lift (fxTenantResetDone t.val) s
def execCoreResetDone (core : Fin 12) (s : State) := lift (fxCoreResetDone core.val) s

end Sys2Proof.Machine
end

