-- ==== Sys2Proof/Machine/Store.lean ====
section
/-! DEFINITION. What the keeper keeps in flash (spec/04 R72-R85; spec/20 R387, R398-R401): the directory, images and
their checks, trials, floors and the override; and the power cap in effect (spec/19 R377; spec/02 R42, R43). -/

namespace Sys2Proof.Machine

open Sys2Proof

/-! ## Images (R75, R81) -/

/-- Floors for keeper, runtime and profiles. -/
def floorOf (s : Sled) (i : Nat) : Nat := nth (s.fl.floors.cur.getD []) i

/-- A key of a kind that is not marked revoked is in the key store. -/
def keyGood (s : Sled) (id : Option Nat) (kind : Nat) : Bool :=
  match id with
  | some k => (s.fl.keys.cur.getD []).any fun x => x.id = k && x.kind = kind && !x.revoked
  | none => false

/-- A keeper (0) or runtime (1) image passes the checks of Table 4-4 but for the profile number (R81; spec/20, R398):
its form and length, the product code, the signature and the floor. -/
def imageOk (s : Sled) (kind : Nat) (i : FwImage) : Bool :=
  i.wellFormed && i.size ≤ slotSize (kind + 1) && i.product = 0x4B540004 && keyGood s i.signer 1 &&
  floorOf s kind ≤ i.secVersion

/-- Disjoint ranges (first, length). -/
def disjointR (a b : Nat × Nat) : Bool := a.2 = 0 || b.2 = 0 || a.1 + a.2 ≤ b.1 || b.1 + b.2 ≤ a.1

/-- Every two elements satisfy a relation. -/
def pairsAll {α : Type} (r : α → α → Bool) : List α → Bool
  | [] => true
  | x :: l => l.all (r x) && pairsAll r l

/-- A mapping section passes (spec/05, R95). -/
def mappingOk (c : ProfileCfg) : Bool :=
  let rs := (c.regions.map fun w => regionOfWord w.toNat).filter (·.valid)
  c.regions.length = 16 && c.masks.length = 13 && rs.all (·.ok) &&
  pairsAll (fun a b => disjointR (a.addr0, a.size) (b.addr0, b.size) && disjointR (a.row0, a.rows) (b.row0, b.rows)) rs &&
  (List.range 13).all fun i => maskOk (nth pivots i) (bitsOf (nth (c.masks.map (·.toNat)) i) 0 40)

/-- Tenants' ranges are disjoint and outside the rescue page. -/
def tenantsOk (c : ProfileCfg) : Bool :=
  c.tenants.length ≤ 16 &&
  pairsAll (fun a b => disjointR (a.ctrLo, a.ctrN) (b.ctrLo, b.ctrN) && disjointR (a.semLo, a.semN) (b.semLo, b.semN) &&
    a.regions.all fun x => b.regions.all fun y => disjointR x y) c.tenants &&
  c.tenants.all fun t => t.ctrLo + t.ctrN ≤ 16320 && t.semLo + t.semN ≤ 65280 && t.vcMask < 256

/-- A fabric section passes (spec/16, R315). -/
def fabricOk (c : ProfileCfg) : Bool :=
  c.topology ≤ 2 && c.routes.all fun r =>
    let w := r.2.toNat
    !bitAt w 20 ||
      (bitAt c.links (bitsOf w 0 4) && bitAt c.links (bitsOf w 4 4) && 1 ≤ bitsOf w 12 4 && bitsOf w 12 4 ≤ 8 &&
       (!bitAt w 21 || (bitAt c.links (bitsOf w 8 4) && bitsOf w 8 4 ≠ bitsOf w 0 4 && 1 ≤ bitsOf w 16 4 &&
         bitsOf w 16 4 ≤ 8)))

/-- The minimum set is at or above the fixed minimum of R87. -/
def minimumOk (c : ProfileCfg) : Bool := 1 ≤ c.minStacks && 1 ≤ c.minVc && 1 ≤ c.minCc && 1 ≤ c.minPorts

/-- 32 MiB from `base` on lie outside every tenant's DRAM regions (spec/14, R277). -/
def registryFree (c : ProfileCfg) (base : Nat) : Bool :=
  c.tenants.all fun t => t.regions.all fun r => disjointR (base, 2 ^ 25) r

/-- Where firmware places the stream registry: the base that the profile's settings name, or, where that meets a
tenant's region, the first end of a region, in 64 KiB steps, that meets none (R277 says only that it lies outside all
of them; DESIGN CHOICE, notes/assumptions/22). -/
def registryBase (c : ProfileCfg) : Nat :=
  let ends := c.tenants.flatMap fun t => t.regions.map fun r => ceilDiv (r.1 + r.2) 0x10000 * 0x10000
  ((bitsOf c.regBase 16 24 * 2 ^ 16 :: ends).find? (registryFree c)).getD 0

/-- Every value lies within the limits of Table 4-5 (check 8). -/
def limitsOk (p : Ppi) : Bool :=
  let c := p.cfg
  p.hostMode ≤ 2 &&
  c.bin ≤ 2 && 16 ≤ c.ctlClk && c.ctlClk ≤ 48 && c.vcClk.length = 8 && (c.vcClk.all fun k => 16 ≤ k && k ≤ 72) &&
  16 ≤ c.steClk && c.steClk ≤ 60 && 400 ≤ c.cap && c.cap ≤ 1450 && 100 ≤ c.tq && c.tq ≤ 60000 &&
  minimumOk c && mappingOk c && tenantsOk c && fabricOk c &&
  (!p.sections.contains 5 || (c.pwl.length ≤ 16 && c.pwl.all pwlValid)) &&
  c.tenants.foldl (fun n t => n + t.slots) 0 ≤ 4096 &&
  (!p.sections.contains 6 || c.preload.all fun e => e.block < 4096 && e.offset < 0x100000)

/-- Check 2: the section count, the total length of at most 2 MiB, and every section inside the image with its
CRC-32C. -/
def sectionsOk (p : Ppi) : Bool :=
  1 ≤ p.count && p.count ≤ 16 && p.table.length = p.count && p.total ≤ 2 ^ 21 &&
  p.table.all fun x => x.len = x.data.length && x.off + x.len ≤ p.total && x.crc = crc32c x.data

/-- The bytes of a PPI's header (Table 4-3). -/
def ppiHeader (p : Ppi) : List Byte :=
  leBytes 4 p.magic ++ leBytes 2 p.fmt ++ leBytes 2 p.count ++ leBytes 4 p.total ++ leBytes 1 p.profNum ++
  leBytes 1 p.hostMode ++ leBytes 2 p.rsv0E ++ leBytes 4 p.secVersion ++ leBytes 4 p.product ++ p.rsv18

/-- One entry of the section table (R74). -/
def ppiEntry (x : PpiSect) : List Byte :=
  leBytes 2 x.typ ++ leBytes 2 x.rsv ++ leBytes 4 x.off ++ leBytes 4 x.len ++ leBytes 4 x.crc

/-- The signature: r and then s, each 48 bytes big-endian (R74). -/
def ppiSignature (p : Ppi) : List Byte := (leBytes 48 p.sigR.toNat).reverse ++ (leBytes 48 p.sigS.toNat).reverse

/-- The first check of Table 4-4 that a PPI read from profile slot `n` fails. -/
def ppiCheck (s : Sled) (n : Nat) (p : Ppi) : Option Nat :=
  if p.magic ≠ 0x4950504E ∨ p.fmt ≠ 1 then some 1
  else if !sectionsOk p then some 2
  else if p.product ≠ 0x4B540004 then some 3
  else if p.profNum ≠ n then some 4
  else if !keyGood s p.signer 2 then some 5
  else if p.secVersion < floorOf s 2 then some 6
  else if [1, 2, 3, 4].any (fun t => (p.sections.filter (· = t)).length ≠ 1) then some 7
  else if !limitsOk p then some 8
  else none

/-! ## Trials (spec/20, R399) -/

/-- A trial commits: it is cleared, and the component's floor rises to the image's security version. -/
def trialCommit (comp used sec : Nat) (s : Sled) : Sled :=
  if !onTrial s comp used then s
  else
    let i := if comp = 1 then 0 else if comp = 2 then 1 else 2
    let fs := (List.range 3).map fun k => if k = i then max (floorOf s i) sec else floorOf s k
    let s := setTrials (ferase (ferase (trials s) comp) (if comp = 1 then 0x1001 else comp)) s
    { s with fl := { s.fl with floors := s.fl.floors.write fs } }

/-! ## Power cap and range (spec/19, R377; spec/02, R42, R43) -/

/-- The cap in effect, in W; 0 before a profile is chosen. -/
def capOf (s : Sled) : Nat :=
  match s.prof with
  | none => 0
  | some p =>
    let c := match s.kpr.runCap with
      | some r => min p.cfg.cap r
      | none => p.cfg.cap
    if s.plat.inputLow then min 1000 c else c

/-- The range that the cap asks for: true for 0-2,000 W; watch-only has 0-1,000 W. -/
def rangeWant (s : Sled) : Bool := 1000 < capOf s && s.kpr.tier ≠ 1

/-- The keeper starts a range change where the cap asks for the other range; one wanted during a sequence follows
it (R43). -/
def rangeCheck (s : Sled) : Sled :=
  match s.plat.rangeHigh, s.plat.demand with
  | some r, some d =>
    match s.plat.rangeSeq with
    | some q =>
      { s with plat := { s.plat with rangeSeq := some { q with
          again := if rangeWant s = q.target then none else some (rangeWant s) } } }
    | none =>
      if rangeWant s = r then s
      else { s with plat := { s.plat with rangeSeq := some { held := d, target := rangeWant s, newest := d } } }
  | _, _ => s

end Sys2Proof.Machine
end

