-- ==== Sys2Proof/Machine/Links.lean ====
section
/-! DEFINITION. The Meridian links (spec/15): bring-up and authentication, flits, credits, retry, recovery and
lane degrade, and the loss of a link. The meanings of the link commands stand at the end. -/

namespace Sys2Proof.Machine

open Sys2Proof

/-- A record about link `l`: its number and its peer's module ID as object (spec/18, Table 18-2). -/
def recLink (s : Sled) (code l : Nat) : Rec :=
  { mkRec code (iL l) with object := l + (getLnk s l).peer * 256 }

/-- Count in trouble counter `k` of link `l` (spec/22, Table 22-9). -/
def bumpLink (l k n : Nat) : Sled → Sled := bumpN (bLNK l) (0x100 + 8 * k) n

/-- Put link `l` into a state. -/
def setLink (l st : Nat) : Sled → Sled := updLnk l fun k => { k with state := st }

/-- Modulus of sequence numbers and credits (spec/15, R303, R311). -/
def seqMod (k : Lnk) : Nat := flitMod k.flit128

/-- How far `v` lies ahead of `held`: none where it is not ahead (R299, R311). -/
def aheadBy (k : Lnk) (v held : Nat) : Option Nat :=
  let d := (v + seqMod k - held % seqMod k) % seqMod k
  if 1 ≤ d ∧ d < seqMod k / 2 then some d else none

/-- Receive buffer places of a VC (R300): 384 for request and response, 128 for sync and management. -/
def allotment (vc : Nat) : Nat := if vc < 2 then 384 else 128

/-! ## Loss of a link (R309) -/

/-- What a link held leaves it: its receive buffer is discarded; unacknowledged flits and messages not yet sent
go back to the fabric layer (R309, R324). -/
def linkEmpty (l : Nat) (s : Sled) : Sled :=
  let k := getLnk s l
  let s := updLnk l (fun k => { k with
    rx := [], retry := [], replay := [], nakSeq := none, fails := 0, nakOwed := false, nakOut := false
    tx := Vector.replicate 4 [], starve := Vector.replicate 4 0, widening := false, widen := false, auth := false }) s
  let s := (k.retry.flatMap (·.msgs)).foldl (fun s m => linkReturned m s) s
  k.tx.toList.reverse.flatten.foldl (fun s m => linkUnsent m s) s

/-- Link `l` enters DOWN (R309). -/
def linkDown (l : Nat) (s : Sled) : Sled :=
  let s := logRec { recLink s 0x5001 l with arg1 := (getLnk s l).peer } s
  linkEmpty l (setLink l 8 (bumpLink l 6 1 s))

/-- A protocol error: logged, and the link enters DOWN (R309). -/
def linkProtocol (l : Nat) (s : Sled) : Sled := linkDown l (logRec (recLink s 0x5006 l) s)

/-! ## Bring-up (R292-R295) -/

/-- The link is to run: EN is set and the profile enables it (Table 15-2). -/
def linkOn (s : Sled) (l : Nat) : Bool :=
  islRuns s (iL l) && rField s (bLNK l) 0 0 1 = 1 &&
  (match s.prof with
   | some p => bitAt p.cfg.links l
   | none => false)

/-- `LNK_CTL.EN` takes a value; at 0 the transmitters are at electrical idle and the link is DISABLED (R291). -/
def linkEnable (l : Nat) (en : Bool) (s : Sled) : Sled :=
  let s := swField (bLNK l) 0 0 1 (b2n en) s
  if rField s (bLNK l) 0 0 1 = 1 then s else linkEmpty l (setLink l 0 s)

/-- LNK_CTL_EN_WRITE (R291). -/
def fxLnkCtlEnWrite (a : Agent) (l : Nat) (en : Bool) (s : Sled) : Sled := regAccess a (bLNK l) 0 (linkEnable l en) s

/-- A link event that occurs in state `st` only. -/
def inState (l st : Nat) (f : Sled → Sled) : Sled → Sled :=
  whenS (fun s => linkOn s l && (getLnk s l).state = st) f

/-- LINK_DETECT_START (R293). -/
def fxLinkDetectStart (l : Nat) : Sled → Sled := inState l 0 (updLnk l fun k => { k with state := 1, lock := 0 })

/-- LINK_TERMINATION_FOUND (Table 15-3, step 2). -/
def fxLinkTerminationFound (l : Nat) : Sled → Sled := inState l 1 (setLink l 2)

/-- All lanes of half `h` (0 lanes 0-3, 1 lanes 4-7) are in the mask. -/
def wholeHalf (lanes h : Nat) : Bool := bitsOf lanes (4 * h) 4 = 15

/-- LINK_TRAINED: all lanes, or one whole half, or LNK_TRAIN_FAIL (R293). -/
def fxLinkTrained (l : Nat) (r : LinkTrain) : Sled → Sled := inState l 2 fun s =>
  let lo := wholeHalf r.lanes.toNat 0
  let hi := wholeHalf r.lanes.toNat 1
  let s := updLnk l (fun k => { k with lock := r.lanes }) s
  if lo || hi then
    updLnk l (fun k => { k with state := 3, narrow := !(lo && hi), half := hi && !lo }) s
  else linkDown l (logRec (recLink s 0x5005 l) s)


/-- The peer that Table 16-1 expects on link `l`: all that pass (spec/16, R313). -/
def peerFits (s : Sled) (c : ProfileCfg) (l p : Nat) : Bool :=
  let id := moduleId s
  let g := id / 16
  let sl := id % 16
  if c.topology = 0 then
    if l ≠ sl then p = g * 16 + l
    else if sl ≠ g then p = sl * 16 + g
    else p / 16 = p % 16
  else if c.topology = 1 then
    let d := l / 4
    let x := bitsOf id (2 * d) 2
    p = setBits id (2 * d) 2 (if l % 4 < 2 then x + 1 else x + 3)
  else (ffind c.peers p).isSome

/-- Flit sizes and lane rates that this sled offers: 256 bytes, 128 bytes, 300 and 200 Gb/s (R293). -/
def ownOffer (s : Sled) : LinkOffer :=
  let allowed : Bool := match s.prof with
    | some p => p.cfg.allowKt3Peers
    | none => false
  { peer := BitVec.ofNat 8 (moduleId s), offers256 := !kt3 s, offers128 := kt3 s || allowed
    offers300 := true, offers200 := true }

/-- LINK_ALIGNED (Table 15-3, step 4). The control flits of CONFIG are of the largest size this sled offers
(notes/assumptions/36). -/
def fxLinkAligned (l : Nat) : Sled → Sled := inState l 3 fun s =>
  updLnk l (fun k => { k with state := 4, flit128 := !(ownOffer s).offers256 }) s

/-- The largest flit size both sides offer: true for 128 bytes; none where there is no common one (R293). -/
def commonFlit (s : Sled) (o : LinkOffer) : Option Bool :=
  if (ownOffer s).offers256 && o.offers256 then some false
  else if (ownOffer s).offers128 && o.offers128 then some true
  else none

/-- The highest lane rate both sides offer: true for 200 Gb/s; none where there is no common one (R293). -/
def commonRate (s : Sled) (o : LinkOffer) : Option Bool :=
  if (ownOffer s).offers300 && o.offers300 then some false
  else if (ownOffer s).offers200 && o.offers200 then some true
  else none

/-- LINK_CONFIG_AGREED: flit size, lane rate and module IDs (R293; spec/16, R313). The link goes on to AUTH, with a fresh
nonce (R294). -/
def fxLinkConfigAgreed (l : Nat) (o : LinkOffer) : Sled → Sled := inState l 4 fun s =>
  let s := updLnk l (fun k => { k with peer := o.peer.toNat }) s
  match s.prof with
  | none => s
  | some p =>
    match commonFlit s o, commonRate s o with
    | some narrow, some slow =>
      if o.peer.toNat = moduleId s ∨ !peerFits s p.cfg l o.peer.toNat then linkProtocol l s
      else
        let (n, s) := nextFree s
        updLnk l (fun k => { k with
          state := 5, flit128 := narrow, slow := slow, nonce := n % 2 ^ 256, authIn := [], authOut := 0 }) s
    | _, _ => linkProtocol l s

/-- A link enters ACTIVE from AUTH: sequence numbers and credits start anew (R301, R303), and its peer is present
to the fabric (spec/16, R325). -/
def linkActive (l : Nat) (s : Sled) : Sled :=
  let peer := (getLnk s l).peer
  let s := updLnk l (fun k => { k with
    state := 6, auth := true, expect := 0, lastAck := seqMod k - 1, nakOwed := false, nakOut := false
    nextSeq := 0, retry := [], replay := [], nakSeq := none, fails := 0
    sent := Vector.replicate 4 0, got := Vector.replicate 4 0, released := Vector.replicate 4 0
    rx := [], tx := Vector.replicate 4 [], starve := Vector.replicate 4 0, cvc := 0, recovers := [] }) s
  { s with fab := { s.fab with gone := s.fab.gone.filter (· ≠ peer) } }

/-- The allowed-peer list names module `n` with key digest 0, any genuine device, or with this digest (R294). -/
def peerListed (s : Sled) (n : Nat) (digest : BitVec 384) : Bool :=
  match s.prof.bind fun p => ffind p.cfg.peers n with
  | some d => d = 0 || d = digest.toNat
  | none => false

/-- LINK_AUTH_VERIFIED: the four checks of R294; a failure is counted and logged (R295). -/
def fxLinkAuthVerified (l : Nat) (m : AuthMsg) : Sled → Sled := inState l 5 fun s =>
  if s.kpr.phase ≠ .running then s else
  let peer := (getLnk s l).peer
  if m.chainOk && m.sigOk && peerListed s peer m.keyDigest then linkActive l s
  else
    let s := logLimited (60000 * ms) l { recLink s 0x5004 l with arg1 := peer } (bumpLink l 7 1 s)
    updLnk l (fun k => { k with authWait := true }) (linkDown l s)

/-- LINK_DOWN_RETRY (R310). -/
def fxLinkDownRetry (l : Nat) : Sled → Sled :=
  inState l 8 (updLnk l fun k => { k with state := 1, lock := 0, authWait := false })

/-! ## RECOVER (R304, R306) -/

/-- An ACTIVE link enters RECOVER: a NAK or replay in progress is dropped (R307). -/
def linkRecover (l : Nat) (s : Sled) : Sled :=
  if (getLnk s l).state ≠ 6 then s else
  let s := logRec (recLink s 0x5007 l) (bumpLink l 4 1 s)
  updLnk l (fun k => { k with state := 7, nakOwed := false, nakOut := false, replay := [], nakSeq := none, fails := 0 }) s

/-- The sender replays from the oldest unacknowledged flit; each replay counts (R304). -/
def replayAll (l : Nat) (s : Sled) : Sled :=
  let k := getLnk s l
  if k.retry.isEmpty then s else bumpLink l 3 1 (updLnk l (fun k => { k with replay := k.retry }) s)

/-- The link resumes from RECOVER on all lanes (`w` none) or on a half. -/
def linkResume (l : Nat) (w : Option Bool) (s : Sled) : Sled :=
  replayAll l (updLnk l (fun k => { k with
    state := 6, narrow := w.isSome, half := w.getD false, widening := false, widen := false }) s)

/-- Lanes that the check finds healthy: locked, with at most THR ÷ 100 errors (R306). -/
def healthyLanes (s : Sled) (l : Nat) (lock : Nat) (errors : List Nat) : Nat :=
  (List.range 8).foldl (fun m i =>
    if bitAt lock i && nth errors i ≤ rField s (bLNK l) 0x10 0 24 / 100 then m + 2 ^ i else m) 0

/-- RECOVER_CHECK_END (R306). -/
def fxRecoverCheckEnd (l : Nat) (lock : BitVec 8) (errors : List Nat) : Sled → Sled := inState l 7 fun s =>
  let k := getLnk s l
  let good := healthyLanes s l lock.toNat errors
  let lo := wholeHalf good 0
  let hi := wholeHalf good 1
  let s := updLnk l (fun k => { k with lock := lock }) s
  if !lo && !hi then linkDown l s
  else if k.narrow && !(k.widen && lo && hi) then
    -- on 4 lanes: the half in use where it is whole, else the other
    if (if k.half then hi else lo) then linkResume l (some k.half) s
    else linkResume l (some (!k.half)) (logRec { recLink s 0x5003 l with arg1 := 255 - good } s)
  else if lo && hi then
    let times := (k.recovers.filter fun t => s.now < t + 1000 * ms) ++ [s.now]
    if 3 ≤ times.length then linkDown l s
    else updLnk l (fun k => { k with recovers := times }) (linkResume l none s)
  else
    let s := bumpLink l 5 1 (logRec { recLink s 0x5003 l with arg1 := 255 - good } s)
    linkResume l (some hi) s

/-- RECOVER_TIMEOUT (R306). -/
def fxRecoverTimeout (l : Nat) : Sled → Sled := inState l 7 (linkDown l)

/-- A write of 1 to `LNK_CTL.RETRAIN` (R306; spec/22, Table 22-9). -/
def linkRetrain (l : Nat) (s : Sled) : Sled := if linkOn s l then linkRecover l s else s

/-- LNK_RETRAIN. -/
def fxLnkRetrain (a : Agent) (l : Nat) (s : Sled) : Sled := regAccess a (bLNK l) 0 (linkRetrain l) s

/-- Lane `i` carries the link. -/
def laneUsed (k : Lnk) (i : Nat) : Bool := !k.narrow || (k.half = decide (4 ≤ i))

/-- LANE_LOCK_LOSS (R307). -/
def fxLaneLockLoss (l i : Nat) : Sled → Sled := inState l 6 fun s =>
  let used := laneUsed (getLnk s l) i
  let s := updLnk l (fun k => { k with lock := k.lock &&& ~~~((1 : BitVec 8) <<< i) }) s
  if used then linkRecover l s else s

/-- LANE_ERROR_WINDOW: more than THR corrected symbols of a lane in 1 ms (R307). -/
def fxLaneErrorWindow (l i count : Nat) : Sled → Sled := inState l 6 fun s =>
  if laneUsed (getLnk s l) i && rField s (bLNK l) 0x10 0 24 < count then linkRecover l s else s

/-- LINK_LOCK_LOSS: every lane has lost lock (R309). -/
def fxLinkLockLoss (l : Nat) (s : Sled) : Sled :=
  let st := (getLnk s l).state
  if linkOn s l && 3 ≤ st && st ≤ 7 then linkDown l (updLnk l (fun k => { k with lock := 0 }) s) else s

/-- AUTO_WIDEN_TICK: the idle half retrains in the background (R308). -/
def fxAutoWidenTick (l : Nat) : Sled → Sled := inState l 6 fun s =>
  if (getLnk s l).narrow && rField s (bLNK l) 0 2 1 = 1 then updLnk l (fun k => { k with widening := true }) s else s

/-- AUTO_WIDEN_PASS: the idle half has passed its check, and a RECOVER is to restore 8 lanes (R308). -/
def fxAutoWidenPass (l : Nat) : Sled → Sled := inState l 6 fun s =>
  let k := getLnk s l
  if k.narrow && k.widening && rField s (bLNK l) 0 2 1 = 1 then
    linkRecover l (updLnk l (fun k => { k with widen := true, widening := false }) s)
  else s

/-! ## Sending (R300-R304, R311) -/

/-- The CREDIT field: each VC's released count; one VC's in a 128-byte flit (Tables 15-5, 15-7). -/
def creditField (k : Lnk) : List (Nat × Nat) :=
  if k.flit128 then [(k.cvc, (k.released.toList.getD k.cvc 0) % 1024)]
  else k.released.toList.zipIdx.map fun p => (p.2, p.1 % 4096)

/-- The next 128-byte flit carries the next VC's credits (R311). -/
def stepCvc (k : Lnk) : Lnk := { k with cvc := if k.flit128 then (k.cvc + 1) % 4 else k.cvc }

/-- A flit as it leaves now, with the acknowledgement and credits of the moment (R298). -/
def flitNow (k : Lnk) (type vc seq : Nat) (payload : List Byte) : List Byte :=
  flitBytes k.flit128 { type := type, vc := vc, seq := seq, ack := k.lastAck, credit := creditField k, payload := payload }

/-- A flit that is not sequenced leaves. -/
def sendFlit (l type vc seq : Nat) (payload : List Byte) (s : Sled) : Sled :=
  updLnk l stepCvc (emit (.flit l (flitNow (getLnk s l) type vc seq payload) []) s)

/-- Credits that the sender holds for a VC (R300, R301). -/
def creditsOf (k : Lnk) (v : Fin 4) : Nat := allotment v.val - (k.sent[v] - k.got[v])

/-- The hop budget lets a message go: more than 16 × (HLEFT − 1) credits are held (spec/16, R319). -/
def budgetOk (k : Lnk) (v : Fin 4) (m : Msg) : Bool := 16 * (m.h.hleft.toNat - 1) < creditsOf k v

/-- Source and destination, within which messages keep their order (spec/16, R320). -/
def flowOf (m : Msg) : Nat × Nat := (m.h.src.toNat, m.h.dest.toNat)

/-- The messages of a queue that the next flit takes, and those left: whole messages in order, as far as `room` units go.
A message that its hop budget holds, or that no flit of the link could hold, stays, with the later ones of its flow
`held` (notes/assumptions/36). -/
def packMsgs (k : Lnk) (v : Fin 4) : Nat → List (Nat × Nat) → List Msg → List Msg × List Msg
  | _, _, [] => ([], [])
  | room, held, m :: ms =>
    if flowOf m ∈ held ∨ !budgetOk k v m ∨ flitUnits k.flit128 < msgUnits m then
      let r := packMsgs k v room (flowOf m :: held) ms
      (r.1, m :: r.2)
    else if msgUnits m ≤ room then
      let r := packMsgs k v (room - msgUnits m) held ms
      (m :: r.1, r.2)
    else ([], m :: ms)

/-- The messages of a VC's next flit, and those left in its queue. -/
def nextFlit (k : Lnk) (v : Fin 4) : List Msg × List Msg := packMsgs k v (flitUnits k.flit128) [] k.tx[v]

/-- VCs with data that their credit lets go, in the order management, sync, response, request (R302). -/
def readyVcs (k : Lnk) : List (Fin 4) :=
  ([3, 2, 1, 0] : List (Fin 4)).filter fun v => 0 < creditsOf k v && !(nextFlit k v).1.isEmpty

/-- The VC that this flit time serves (R302): in priority order, but a VC that would otherwise miss its one flit
in 16 flit times goes first. -/
def pickVc (k : Lnk) : Option (Fin 4) :=
  let r := readyVcs k
  let left (v : Fin 4) : Nat := 16 - k.starve[v]
  let low := r.filter (· ≠ 3)
  let due := [1, 2, 3].any fun j => j ≤ (low.filter fun v => left v ≤ j).length
  if due then
    (low.filter fun v => low.all fun w => left v ≤ left w).head?
  else r.head?

/-- A new data flit of a VC leaves and is kept for retry, as it was sent (R300, R303, R304). -/
def sendData (l : Nat) (v : Fin 4) (s : Sled) : Sled :=
  let k := getLnk s l
  let (msgs, left) := nextFlit k v
  let r := readyVcs k
  let f : TxFlit := { seq := k.nextSeq, vc := v.val, msgs := msgs
                      bytes := flitNow k 1 v.val k.nextSeq (msgs.flatMap msgWire) }
  updLnk l (fun k => stepCvc { k with
    nextSeq := (k.nextSeq + 1) % seqMod k
    retry := k.retry ++ [f]
    sent := k.sent.set v (k.sent[v] + 1)
    tx := k.tx.set v left
    starve := Vector.ofFn fun w => if w ∈ r ∧ w ≠ v then k.starve[w] + 1 else 0 })
    (emit (.flit l f.bytes (msgs.map msgPois)) s)

/-- Flits that may be unacknowledged (R303, R311). -/
def retryDepth (k : Lnk) : Nat := if k.flit128 then 511 else 512

/-- The AUTH message of link `l`, as far as it can be sent: the signature follows once the peer's part has come
(R294, steps 1 and 2). -/
def authOwn (s : Sled) (l : Nat) : List Byte :=
  let k := getLnk s l
  let id := moduleId s
  authHello id l k.nonce ++
  if k.authIn.length < 34 then []
  else leBytes 96 (Config.deviceSign (Config.sha384 (authSigned id l k.nonce k.authIn k.flit128 k.slow)))

/-- The next piece of the AUTH message; after the last the first again, since control flits are not replayed. -/
def sendAuth (l : Nat) (s : Sled) : Sled :=
  let own := authOwn s l
  let at_ := (getLnk s l).authOut
  let piece := (own.drop at_).take authPiece
  updLnk l (fun k => { k with authOut := if at_ + authPiece < own.length then at_ + authPiece else 0 })
    (sendFlit l 3 3 0 (ctlAuth at_ piece) s)

/-- The control flit of CONFIG: what this sled offers (R293). -/
def sendConfig (l : Nat) (s : Sled) : Sled :=
  let o := ownOffer s
  sendFlit l 3 3 0 (ctlConfig (b2n o.offers256 + 2 * b2n o.offers128) (b2n o.offers300 + 2 * b2n o.offers200) o.peer.toNat) s

/-- FLIT_TIME_SEND: one flit leaves an ACTIVE link: a NAK that is owed, a replay, new data, or an idle flit; in
CONFIG, AUTH and RECOVER control flits go (R291, R293, R294, R298-R306). -/
def fxFlitTimeSend (l : Nat) (s : Sled) : Sled :=
  let k := getLnk s l
  if !linkOn s l then s
  else if k.state = 6 then
    if k.nakOwed then
      updLnk l (fun k => { k with nakOwed := false, nakOut := true }) (sendFlit l 2 0 k.expect [] s)
    else match k.replay with
      | f :: rest => updLnk l (fun k => { k with replay := rest }) (emit (.flit l f.bytes (f.msgs.map msgPois)) s)
      | [] =>
        if k.retry.length < retryDepth k then
          match pickVc k with
          | some v => sendData l v s
          | none => sendFlit l 0 0 0 [] s
        else sendFlit l 0 0 0 [] s
  else if k.state = 4 then sendConfig l s
  else if k.state = 5 then sendAuth l s
  else if k.state = 7 then sendFlit l 3 3 0 ctlRecover s
  else s

/-! ## Receiving (R297-R305) -/

/-- An acknowledgement: every flit it covers leaves the retry buffer; one outside the unacknowledged window is a
protocol error (R299, R303, R309). -/
def recvAck (l ack : Nat) (s : Sled) : Sled :=
  let k := getLnk s l
  let held := k.nextSeq + 2 * seqMod k - k.retry.length - 1
  match aheadBy k ack held with
  | none => s
  | some d =>
    if k.retry.length < d then linkProtocol l s
    else
      let gone := (k.retry.take d).map (·.seq)
      updLnk l (fun k => { k with
        retry := k.retry.drop d
        replay := k.replay.filter fun f => !gone.contains f.seq
        nakSeq := none, fails := 0 }) s

/-- A cumulative credit count of a VC; an advance beyond the allotment is a protocol error (R299, R301). -/
def recvCredit (l : Nat) (v : Fin 4) (c : Nat) (s : Sled) : Sled :=
  let k := getLnk s l
  match aheadBy k c k.got[v] with
  | none => s
  | some d =>
    if k.sent[v] < k.got[v] + d then linkProtocol l s
    else updLnk l (fun k => { k with got := k.got.set v (k.got[v] + d) }) s

/-- A flit is lost: one NAK goes, unless one is outstanding (R303). -/
def flitLost (l : Nat) (s : Sled) : Sled :=
  updLnk l (fun k => if k.state = 6 ∧ !k.nakOut then { k with nakOwed := true } else k) s

/-- A data flit: accepted in sequence, discarded, or discarded with a NAK (R303). A NAK that is owed for an earlier loss
still goes. -/
def recvData (l seq vc : Nat) (msgs : List Msg) (s : Sled) : Sled :=
  let k := getLnk s l
  if seq = k.expect then
    if allotment vc ≤ (k.rx.filter fun e => e.1 = vc).length then linkProtocol l s
    else updLnk l (fun k => { k with
      expect := (k.expect + 1) % seqMod k, lastAck := seq, rx := k.rx ++ [(vc, msgs)], nakOut := false }) s
  else if (aheadBy k seq k.expect).isSome then flitLost l s
  else s

/-- A NAK: replay from the SEQ it names; the fourth consecutive failure enters RECOVER (R304). -/
def recvNak (l seq : Nat) (s : Sled) : Sled :=
  let k := getLnk s l
  if k.state ≠ 6 then s else
  let again := k.nakSeq = some seq
  let s := if again then logLimited ms l (recLink s 0x5002 l) s else s
  if again ∧ 3 ≤ k.fails then linkRecover l s
  else
    let r := k.retry.dropWhile fun f => f.seq ≠ seq
    if r.isEmpty then s
    else bumpLink l 3 1 (updLnk l (fun k => { k with
      replay := r, nakSeq := some seq, fails := if again then k.fails + 1 else 0 }) s)

/-- A piece of the peer's AUTH message takes its place behind those before it (R294). -/
def recvAuth (l : Nat) (p : List Byte) (s : Sled) : Sled :=
  let off := byteField p 1 2
  let piece := (p.drop 4).take (byteField p 3 1)
  updLnk l (fun k =>
    if off ≤ k.authIn.length then { k with authIn := k.authIn.take off ++ piece ++ k.authIn.drop (off + piece.length) }
    else k) s

/-- A control flit: AUTH on a link in AUTH; on an ACTIVE link one of RECOVER says that the peer is there (R306;
notes/assumptions/36). What CONFIG brings is the operand of LINK_CONFIG_AGREED. -/
def recvControl (l : Nat) (p : List Byte) (s : Sled) : Sled :=
  let st := (getLnk s l).state
  if byteField p 0 1 = 2 ∧ st = 5 then recvAuth l p s
  else if byteField p 0 1 = 3 then linkRecover l s
  else s

/-- A flit whose CRC passes, of any type (R298, R299, R309). Data and NAK act on a link that is ACTIVE or in RECOVER. -/
def recvGood (l : Nat) (f : Flit) (pois : List (BitVec 8)) (s : Sled) : Sled :=
  let s := if linkLive s l then recvAck l f.ack s else s
  let s := f.credit.foldl (fun s c => if linkLive s l then recvCredit l (Fin.ofNat 4 c.1) c.2 s else s) s
  if (getLnk s l).state < 4 ∨ 7 < (getLnk s l).state ∨ f.type = 0 then s
  else if f.type = 3 then recvControl l f.payload s
  else if 3 < f.type then linkProtocol l s
  else if !linkLive s l then s
  else if f.type = 1 then recvData l (f.seq % seqMod (getLnk s l)) f.vc (flitMsgs f pois) s
  else recvNak l (f.seq % seqMod (getLnk s l)) s

/-- One flit of a block: lost where its CRC fails. -/
def recvFlit (l : Nat) (f : FlitIn) (s : Sled) : Sled :=
  let k := getLnk s l
  if !(linkOn s l && 4 ≤ k.state && k.state ≤ 7) then s
  else match flitRead k.flit128 f.bytes with
    | none => flitLost l (bumpLink l 2 1 s)
    | some x => recvGood l x f.pois s

/-- The flits of a block: bytes and poison marks. -/
def blockFlits (flits : List (List Byte)) (pois : List (List (BitVec 8))) : List FlitIn :=
  flits.zipIdx.map fun f => { bytes := f.1, pois := pois.getD f.2 [] }

/-- FEC_BLOCK_RECEIVE: a block of five flits, or ten of 128 bytes, on a link whose blocks are locked (R297, R311). `lo` and
`hi` list the symbols in error on the lanes of each half. Codewords that are corrected count, and their symbols by lane
(R312); a block with a codeword that cannot be corrected is lost. -/
def fxFecBlockReceive (l : Nat) (lo hi : List (Fin 1088)) (flits : List FlitIn) (s : Sled) : Sled :=
  let k := getLnk s l
  let w := laneCount k.narrow
  let errs := fecPlaces k.narrow k.half lo hi
  if !(linkOn s l && 4 ≤ k.state && k.state ≤ 7) then s
  else
    let s := bumpLink l 0 ((List.range 4).filter (fecFixed w errs)).length s
    let s := (List.range 8).foldl (fun s i =>
      bumpLink l (8 + i) ((fecSymbols w errs).filter fun x => fecLane k.narrow k.half x = i).length s) s
    if fecOk w errs then flits.foldl (fun s f => recvFlit l f s) s
    else flitLost l (bumpLink l 1 1 s)

/-- CREDIT_RELEASE: the oldest flit's messages leave the receive buffer for the NOC, and a credit of its VC is
released (R300, R305). -/
def fxCreditRelease (l : LinkId) (vc : Fin 4) (s : Sled) : Sled :=
  let k := getLnk s l.val
  if !linkLive s l.val then s else
  match k.rx with
  | (v, msgs) :: rest =>
    if v ≠ vc.val then s
    else
      let s := updLnk l.val (fun k => { k with rx := rest, released := k.released.set vc (k.released[vc] + 1) }) s
      msgs.foldl (fun s m => deliver l vc m s) s
  | [] => s

/-- NAK_REPEAT_TIMEOUT (R303). -/
def fxNakRepeatTimeout (l : Nat) : Sled → Sled :=
  inState l 6 (updLnk l fun k => if k.nakOut then { k with nakOwed := true } else k)

/-- REPLAY_ACK_TIMEOUT (R304). -/
def fxReplayAckTimeout (l : Nat) : Sled → Sled := inState l 6 (replayAll l)

/-! ## The meanings -/

def execLnkCtlEnWrite (a : Agent) (l : LinkId) (en : Bool) (s : State) := lift (fxLnkCtlEnWrite a l.val en) s
def execLinkDetectStart (l : LinkId) (s : State) := lift (fxLinkDetectStart l.val) s
def execLinkTerminationFound (l : LinkId) (s : State) := lift (fxLinkTerminationFound l.val) s
def execLinkTrained (l : LinkId) (r : LinkTrain) (s : State) := lift (fxLinkTrained l.val r) s
def execLinkAligned (l : LinkId) (s : State) := lift (fxLinkAligned l.val) s
def execLinkConfigAgreed (l : LinkId) (o : LinkOffer) (s : State) := lift (fxLinkConfigAgreed l.val o) s
def execLinkAuthVerified (l : LinkId) (m : AuthMsg) (s : State) := lift (fxLinkAuthVerified l.val m) s
def execLinkDownRetry (l : LinkId) (s : State) := lift (fxLinkDownRetry l.val) s
def execFlitTimeSend (l : LinkId) (s : State) := lift (fxFlitTimeSend l.val) s
def execFecBlockReceive (l : LinkId) (lo hi : List (Fin 1088)) (flits : List (List Byte)) (pois : List (List (BitVec 8)))
    (s : State) := lift (fxFecBlockReceive l.val lo hi (blockFlits flits pois)) s
def execCreditRelease (l : LinkId) (vc : Fin 4) (s : State) := liftHold (fxCreditRelease l vc) s
def execNakRepeatTimeout (l : LinkId) (s : State) := lift (fxNakRepeatTimeout l.val) s
def execReplayAckTimeout (l : LinkId) (s : State) := lift (fxReplayAckTimeout l.val) s
def execLnkRetrain (a : Agent) (l : LinkId) (s : State) := lift (fxLnkRetrain a l.val) s
def execLaneLockLoss (l : LinkId) (lane : Fin 8) (s : State) := lift (fxLaneLockLoss l.val lane.val) s
def execLaneErrorWindow (l : LinkId) (lane : Fin 8) (count : BitVec 32) (s : State) :=
  lift (fxLaneErrorWindow l.val lane.val count.toNat) s
def execRecoverCheckEnd (l : LinkId) (lock : BitVec 8) (errors : List (BitVec 24)) (s : State) :=
  lift (fxRecoverCheckEnd l.val lock (errors.map (·.toNat))) s
def execRecoverTimeout (l : LinkId) (s : State) := lift (fxRecoverTimeout l.val) s
def execLinkLockLoss (l : LinkId) (s : State) := lift (fxLinkLockLoss l.val) s
def execAutoWidenTick (l : LinkId) (s : State) := lift (fxAutoWidenTick l.val) s
def execAutoWidenPass (l : LinkId) (s : State) := lift (fxAutoWidenPass l.val) s

end Sys2Proof.Machine
end

