-- ==== Sys2Proof/Machine/Heat.lean ====
section
/-! DEFINITION. Heat and power governance (spec/19; spec/02 R43; spec/06 R119): the housekeeping round, broken
sensors, the engine and pause ladders, power capping and the critical shutdown. The meanings stand at the end. -/

namespace Sys2Proof.Machine

open Sys2Proof

/-! ## Thresholds (Table 19-2) -/

/-- Critical threshold of a slot. -/
def critAt (i : Nat) : Option Nat :=
  if i < 36 then some 112
  else if i < 72 then some 105
  else if i = 72 then some 55
  else if 87 ≤ i ∧ i ≤ 90 then some 125
  else none

/-- Release value of a slot: it follows the throttle threshold at the offset of Table 19-2 (R374). -/
def releaseAt (s : Sled) (i : Nat) : Nat :=
  (throttleAt s i).getD 0 - (if i < 36 then 4 else if i = 72 then 2 else 5)

/-- Each reading of a unit is at or below its release value. -/
def coolSlot (s : Sled) (i : Nat) : Bool := !(sensor s i).broken && (sensor s i).reading ≤ releaseAt s i

/-- Slots that hold a temperature (Table 19-1). -/
def isTemp (i : Nat) : Bool := i < 74 || (87 ≤ i && i ≤ 92)

/-! ## Levels (R375, R376, R379) -/

/-- Effective pause level of a stack. -/
def effPause (s : Sled) (st : Nat) : Nat := max (fget s.thm.pause 0 st) (min 8 s.thm.step)

/-- Effective engine level: 0-7 VC0-VC7, 8 CTL, 9 STE. -/
def effEng (s : Sled) (j : Nat) : Nat := max (fget s.thm.eng 0 j) (s.thm.step - 8)

/-- Island of an engine level. -/
def engIsland (j : Nat) : Nat := if j < 8 then iVC j else if j = 8 then iCTL else iSTE

/-- A change of levels: units whose effective level leaves 0 are logged; engines are counted too (R375, R376). -/
def withLevels (f : Sled → Sled) (s : Sled) : Sled :=
  let t := f s
  let t := (List.range 10).foldl (fun u j =>
    if effEng s j = 0 ∧ 0 < effEng t j then bump bTHM 0x508 (logRec (mkRec 0x7002 (engIsland j)) u) else u) t
  (List.range 9).foldl (fun u st =>
    if effPause s st = 0 ∧ 0 < effPause t st then logRec (mkRec 0x7003 (iMC st)) u else u) t

/-- Set the power step; PWR_CAP_HIT where it leaves 0 (R378). -/
def setStep (n : Nat) (s : Sled) : Sled :=
  let s' := withLevels (fun s => { s with thm := { s.thm with step := n } }) s
  if s.thm.step = 0 ∧ 0 < n then logRec (mkRec 0x7005 0) s' else s'

/-! ## Critical shutdown (R383) -/

/-- A critical shutdown for a slot (Table 19-4). It starts once until the profile is started again. -/
def critShutdown (i : Nat) (s : Sled) : Sled :=
  if s.thm.crit ∨ s.thm.critHold then s else
  let reading := (sensor s i).reading
  let s := bump bTHM 0x510 s
  let s := (List.range 16).foldl (fun s l =>
    if linkOn s l && 1 ≤ (getLnk s l).state && (getLnk s l).state ≤ 7 then linkDown l s else s) s
  let s := railsDown s
  let s := { s with
    thm := { s.thm with crit := true, critAlert := true, critHold := true }
    kpr := { s.kpr with railEnable := false }
    plat := { s.plat with
      coolant := some 100
      heldPins := s.plat.heldPins.map fun h =>
        { h with faultLow := true, thermLow := true, ledFault := true, coolant := some 100 } } }
  watchOnly 0x7004 (logRec { mkRec 0x7004 0 with arg1 := i, arg2 := reading } s)

/-! ## Sensors (R368-R372) -/

/-- The always-on island is powered and out of reset. -/
def aonRuns (s : Sled) : Bool := s.plat.supply = .on && !s.plat.modReset

/-- What a reading of slot `i` comes to: none where the slot takes no such result, some none for a broken one. -/
def slotValue (i : Nat) : SensorIn → Option (Option Nat)
  | .conv v =>
    if 36 ≤ i ∧ i < 72 then none
    else if 97 ≤ i then some (some 0)
    else if isTemp i then
      if v < -20 ∨ 150 < v then some none else some (some v.toNat)
    else some (some (min 255 v.toNat))
  | .bad => if 97 ≤ i then some (some 0) else some none
  | .dies a b c d =>
    if 36 ≤ i ∧ i < 72 then
      let l := [a.toNat, b.toNat, c.toNat, d.toNat]
      if l.contains 127 then some none else some (some (l.foldl max 0))
    else none

/-- Stack and rank of a DRAM slot. -/
def dramSlot (i : Nat) : Option (Nat × Nat) :=
  if 36 ≤ i ∧ i < 72 then some ((i - 36) / 4, (i - 36) % 4) else none

/-- A rank's refresh runs at the doubled rate or not (spec/06, R119; spec/21, R416). -/
def setFast (i : Nat) (on : Bool) (s : Sled) : Sled :=
  match dramSlot i with
  | some (st, r) => updMcs st (fun m => { m with fast := setBit m.fast r on }) s
  | none => s

/-- Change one slot's sensor. -/
def updSensor (i : Nat) (f : Sensor → Sensor) (s : Sled) : Sled :=
  { s with thm := { s.thm with sensor := fset s.thm.sensor {} i (f (sensor s i)) } }

/-- A sensor is broken: it reads 127, and the transition is logged and counted (R371). -/
def sensorBreaks (i : Nat) (s : Sled) : Sled :=
  let was := (sensor s i).broken
  let s := setFast i true (updSensor i (fun x => { x with reading := 127, broken := true, validRun := 0 }) s)
  if was then s else bump bTHM 0x500 (logRec (mkRec 0x7001 0) s)

/-- A valid reading: a broken sensor is valid again after two (R371). A reading at its critical threshold shuts the
sled down (R372, R383). -/
def sensorReads (i v : Nat) (s : Sled) : Sled :=
  let s := updSensor i (fun x =>
    if x.broken ∧ x.validRun = 0 then { x with validRun := 1, stale := false, staleRun := 0 }
    else { reading := v, broken := false }) s
  let (up, down) := if kt3 s then (90, 87) else (85, 82)
  let s := if up < v then setFast i true s else if v ≤ down ∧ !(sensor s i).broken then setFast i false s else s
  match critAt i with
  | some t => if !(sensor s i).broken && t ≤ v then critShutdown i s else s
  | none => s

/-- A DRAM slot that cannot be read keeps its value; after four such rounds it is broken (R369). -/
def sensorStale (i : Nat) (s : Sled) : Sled :=
  let s := updSensor i (fun x => { x with stale := true, staleRun := x.staleRun + 1 }) s
  if 4 ≤ (sensor s i).staleRun then sensorBreaks i s else s

/-- No die of the stack can be read now: it is in self-refresh, or every channel is offline, in a parity replay or in
a retraining pause (R369). -/
def diesHidden (s : Sled) (st : Nat) : Bool :=
  (fget s.mcs {} st).selfRefresh ||
  (List.range 16).all fun c => (getChan s st c).off || (getChan s st c).replay.isSome || (getChan s st c).pause.isSome

/-- The next slot of the round. -/
def sensorNext (s : Sled) : Sled := { s with thm := { s.thm with slot := s.thm.slot + 1 } }

/-- SENSOR_SLOT_READ (R368-R371): the slot that is next in the round. -/
def fxSensorSlotRead (i : Nat) (v : SensorIn) (s : Sled) : Sled :=
  if !aonRuns s ∨ s.thm.slot ≠ i then s
  else match slotValue i v with
    | none => s
    | some r =>
      let s := sensorNext s
      let act (s : Sled) : Sled := match r with
        | some x => sensorReads i x s
        | none => sensorBreaks i (updSensor i (fun x => { x with stale := false, staleRun := 0 }) s)
      match dramSlot i with
      | some (st, _) =>
        if !islRuns s (iMC st) then s
        else if diesHidden s st then sensorStale i s
        else act s
      | none => act s

/-! ## The end of a round (R373-R376, R382; spec/20, R394) -/

/-- A level after a round: up where a slot is hot, down where every slot is cool. -/
def stepLevel (s : Sled) (slots : List Nat) (l : Nat) : Nat :=
  if slots.any (hotSlot s) then min 8 (l + 1)
  else if slots.all (coolSlot s) then l - 1
  else l

/-- Slots of an engine level's island. -/
def engSlots (j : Nat) : List Nat := if j < 8 then [2 * j, 2 * j + 1] else [j + 8]

/-- Slots of a stack's pause level. -/
def pauseSlots (st : Nat) : List Nat := (18 + st) :: (List.range 4).map fun j => 36 + 4 * st + j

/-- Every level steps. -/
def stepLevels (s : Sled) : Sled :=
  { s with thm := { s.thm with
      eng := (List.range 10).foldl (fun m j => fset m 0 j (stepLevel s (engSlots j) (fget s.thm.eng 0 j))) s.thm.eng
      pause := (List.range 9).foldl (fun m st => fset m 0 st (stepLevel s (pauseSlots st) (fget s.thm.pause 0 st)))
        s.thm.pause } }

/-- COOLANT_PWM duty in % (R382, R384). -/
def coolantDuty (s : Sled) : Nat :=
  if s.thm.crit || (List.range 100).any (hotSlot s) then 100
  else
    let t := ((List.range 72).map fun i => (sensor s i).reading).foldl max 0
    min 100 (20 + 4 * (t - 70))

/-- The conditions of R382: inlet above 45 °C until it has fallen to 44, flow below 1.5 L/min in two rounds, outlet more
than 25 °C above the inlet. -/
def coolConds (s : Sled) (low : Nat) : Nat :=
  let inlet := sensor s 72
  let outlet := sensor s 73
  b2n (hotSlot s 72 || (bitAt s.thm.cool 0 && !coolSlot s 72)) + 2 * b2n (2 ≤ low) +
  4 * b2n (!inlet.broken && !outlet.broken && inlet.reading + 25 < outlet.reading)

/-- The coolant conditions are judged; each that begins is logged. -/
def coolRound (s : Sled) : Sled :=
  let low := if (sensor s 74).reading < 15 then s.thm.lowFlow + 1 else 0
  let now := coolConds s low
  let s' := { s with thm := { s.thm with lowFlow := min 2 low, cool := now } }
  (List.range 3).foldl (fun u k =>
    if bitAt now k && !bitAt s.thm.cool k then logRec (mkRec 0x7006 0) u else u) s'

/-- Slots that have crossed their throttle or critical threshold since the last round are reported. -/
def crossings (s : Sled) : Sled :=
  let mask (p : Nat → Bool) : Nat := (List.range 100).foldl (fun m i => if p i then m + 2 ^ i else m) 0
  let warn := mask (hotSlot s)
  let fatal := mask fun i => !(sensor s i).broken && (critAt i).any fun t => t ≤ (sensor s i).reading
  let s' := { s with thm := { s.thm with warn := warn, fatal := fatal } }
  (List.range 100).foldl (fun u i =>
    if bitAt warn i ≠ bitAt s.thm.warn i ∨ bitAt fatal i ≠ bitAt s.thm.fatal i then platEvent 1 i u else u) s'

/-- HOUSEKEEPING_ROUND_END: levels, coolant and threshold crossings; the keeper's part waits while it does not run. -/
def fxHousekeepingRoundEnd (s : Sled) : Sled :=
  if !aonRuns s ∨ s.thm.slot ≠ 100 then s
  else
    let still := s.thm.critAlert && (List.range 100).any (hotSlot s)
    let s := { s with thm := { s.thm with slot := 0, round := s.thm.round + 1, firstRound := true, critAlert := still } }
    if s.kpr.phase ≠ .running then s
    else
      let s := coolRound (withLevels stepLevels s)
      crossings { s with plat := { s.plat with coolant := some (coolantDuty s) } }

/-- CRITICAL_COMPARATOR (R370). -/
def fxCriticalComparator (i : Nat) (s : Sled) : Sled := if aonRuns s then critShutdown i s else s

/-! ## Power (R377-R381; spec/02, R43) -/

/-- Mean of a list. -/
def mean (l : List Nat) : Nat := l.foldl (· + ·) 0 / l.length

/-- POWER_SAMPLE: the mean of the last ten samples above 1,800 W sets the power step to 16 (R378, R380). -/
def fxPowerSample (watts : Nat) (s : Sled) : Sled :=
  if !aonRuns s then s
  else
    let s := { s with thm := { s.thm with samples := (watts :: s.thm.samples).take 100 } }
    let l := s.thm.samples.take 10
    if l.length = 10 ∧ 18000 < l.foldl (· + ·) 0 then setStep 16 s else s

/-- Slots whose heat the power loop relieves: NOC, HST, links, AON and the converters (Table 19-2). -/
def loopSlots : List Nat := [27, 28, 29, 30, 31, 32, 33, 34, 35, 87, 88, 89, 90]

/-- The power step after a loop period, and how many consecutive periods rose (R378, R382). -/
def nextStep16 (s : Sled) (p : Nat) : Nat × Nat :=
  let cap := capOf s
  if s.prof.isNone then (s.thm.step, 0)
  else if cap < p || loopSlots.any (hotSlot s) || s.thm.cool ≠ 0 then
    (min 16 (s.thm.step + (if 10 ≤ s.thm.rises then 4 else 1)), s.thm.rises + 1)
  else if 100 * p < 95 * cap && loopSlots.all (fun i => !(sensor s i).broken && (sensor s i).reading < releaseAt s i) then
    (s.thm.step - 1, 0)
  else (s.thm.step, 0)

/-- POWER_LOOP_TICK: P_avg, the power step, and PWR_DEMAND, which a range change suspends (R378, R381; spec/02, R43). -/
def fxPowerLoopTick (s : Sled) : Sled :=
  if !aonRuns s ∨ s.kpr.phase ≠ .running then s
  else
    let p := if s.thm.samples.isEmpty then 0 else mean s.thm.samples
    let (n, rises) := nextStep16 s p
    let s := setStep n { s with thm := { s.thm with pavg := p, rises := rises } }
    let plat := match s.plat.demand, s.plat.rangeSeq with
      | some _, some q => { s.plat with rangeSeq := some { q with newest := p } }
      | some _, none => { s.plat with demand := some p }
      | none, _ => s.plat
    rangeCheck { s with plat := plat }

/-- PWR_RANGE_STEP: step 3 of Table 2-7; the held power is output in the new range. -/
def fxPwrRangeStep (s : Sled) : Sled :=
  match s.plat.rangeSeq with
  | some q =>
    if q.switched ∨ s.kpr.phase ≠ .running then s
    else { s with plat := { s.plat with
      rangeHigh := some q.target, demand := some q.held, rangeSeq := some { q with switched := true } } }
  | none => s

/-- PWR_RANGE_RESUME: step 5; a change asked for meanwhile then starts (R43). -/
def fxPwrRangeResume (s : Sled) : Sled :=
  match s.plat.rangeSeq with
  | some q =>
    if !q.switched ∨ s.kpr.phase ≠ .running then s
    else rangeCheck { s with plat := { s.plat with demand := some q.newest, rangeSeq := none } }
  | none => s

/-- PAUSE_PERIOD_START: the thermal pause slots of a channel's period (R376). -/
def fxPausePeriodStart (st c : Nat) (s : Sled) : Sled :=
  if !islRuns s (iMC st) then s
  else updChan st c (fun ch => { ch with thermal := s.now + effPause s st * 100 * ns }) s

/-! ## THM_LIMIT (R374) -/

/-- A written threshold as it takes effect. -/
def limitVal (d v : Nat) : Nat := max (d - 20) (min d v)

/-- A value written to THM_LIMIT. -/
def thmLimit (v : Nat) (s : Sled) : Sled :=
  if lockedReg s bTHM 0x400 then lockHit s else
  rSet bTHM 0x400 (limitVal 100 (bitsOf v 0 8) + 2 ^ 8 * limitVal 96 (bitsOf v 8 8) +
    2 ^ 16 * limitVal 110 (bitsOf v 16 8)) s

/-- THM_LIMIT_WRITE. -/
def fxThmLimitWrite (a : Agent) (v : Nat) (s : Sled) : Sled :=
  regAccess a bTHM 0x400 (thmLimit v) s

/-! ## The meanings -/

def execSensorSlotRead (i : Fin 100) (v : SensorIn) (s : State) := lift (fxSensorSlotRead i.val v) s
def execHousekeepingRoundEnd (s : State) := lift fxHousekeepingRoundEnd s
def execCriticalComparator (i : Fin 36) (s : State) := lift (fxCriticalComparator i.val) s
def execPowerSample (watts : BitVec 12) (s : State) := lift (fxPowerSample watts.toNat) s
def execPowerLoopTick (s : State) := lift fxPowerLoopTick s
def execPwrRangeStep (s : State) := lift fxPwrRangeStep s
def execPwrRangeResume (s : State) := lift fxPwrRangeResume s
def execPausePeriodStart (st : StackId) (c : ChanId) (s : State) := lift (fxPausePeriodStart st.val c.val) s
def execThmLimitWrite (a : Agent) (value : BitVec 24) (s : State) := lift (fxThmLimitWrite a value.toNat) s

end Sys2Proof.Machine
end

