-- ==== Sys2Proof/Machine/Platform.lean ====
section
/-! DEFINITION. Power, pins, straps and the start of the sled up to the release of the control cores (spec/02 R31-R37,
R42; spec/03 R46-R56, R61; spec/04 R77-R83). -/

namespace Sys2Proof.Machine

open Sys2Proof

/-! ## Input and always-on supply (spec/03, R46-R48, R54) -/

/-- INSERTION_PRECHARGE: the input rises through 38.5 V. A rise during the hold-up of R48 starts the precharge too: the
stage had opened at 37.0 V and the sled was unpowered from then on, so it starts as from power-on (Table 3-1;
notes/assumptions/29). -/
def fxInsertionPrecharge (s : Sled) : Sled :=
  if s.plat.supply = .unpowered then { s with plat := { s.plat with supply := .precharge } }
  else if s.plat.supply = .holdUp false then
    let t := freshSled s
    { t with isl := [], plat := { t.plat with supply := .precharge, aonUp := 0 } }
  else s

/-- The next always-on rail of Table 3-2, A1 to A3, comes into regulation. -/
def aonRise (s : Sled) : Sled := if s.plat.aonUp < 3 then { s with plat := { s.plat with aonUp := s.plat.aonUp + 1 } } else s

/-- POWER_ON_RESET (R61): the always-on rails come into regulation, every island is reset, and strap sampling
starts. -/
def fxPowerOnReset (s : Sled) : Sled :=
  if s.plat.supply ≠ .precharge then s
  else
    let t := freshSled s
    let t := aonRise (aonRise (aonRise { t with plat := { t.plat with supply := .on, aonUp := 0 } }))
    if s.plat.modReset then { t with isl := [] } else t

/-- The hot-swap stage opens: the main rails fall, and the keeper commits a record on hold-up (R47, R48). -/
def stageOpens (overV : Bool) (code : Nat) (s : Sled) : Sled :=
  if s.plat.supply = .on then
    let s := railsDown { s with plat := { s.plat with supply := .holdUp overV } }
    let s := { s with plat := { s.plat with rails := .off, railUp := 0 } }
    let s := if code = 0x7011 ∧ s.kpr.phase = .running then
        { s with kpr := { s.kpr with outstanding := s.kpr.outstanding + 1 } }
      else s
    holdCommit (mkRec code 0) s
  else if s.plat.supply = .precharge then
    { s with plat := { s.plat with supply := if overV then .overV else .unpowered } }
  else s

def fxInputFall37v : Sled → Sled := stageOpens false 0x7010
def fxInputRise62v : Sled → Sled := stageOpens true 0x7011

/-- ALWAYS_ON_SUPPLY_LOST: the hold-up ends; nothing but flash keeps its state. -/
def fxAlwaysOnSupplyLost (s : Sled) : Sled :=
  match s.plat.supply with
  | .holdUp o =>
    let t := freshSled s
    { t with isl := [], plat := { t.plat with supply := if o then .overV else .unpowered, aonUp := 0 } }
  | _ => s

/-- INPUT_FALL_61V: the stage recloses after an overvoltage, and the sled starts as from power-on. -/
def fxInputFall61v (s : Sled) : Sled :=
  if s.plat.supply = .overV ∨ s.plat.supply = .holdUp true then
    let t := freshSled s
    { t with isl := [], plat := { t.plat with supply := .precharge, aonUp := 0 } }
  else s

/-- INPUT_LOW_TIMEOUT (R47): hardware sees the condition at any time, and the cap in effect is limited to 1,000 W. The
keeper makes the log entry: at once, or when it runs. -/
def fxInputLowTimeout (s : Sled) : Sled :=
  if s.plat.supply ≠ .on ∨ s.plat.inputLow then s
  else if s.kpr.phase ≠ .running then { s with plat := { s.plat with inputLow := true, lowOwed := true } }
  else rangeCheck { logRec (mkRec 0x7010 0) s with plat := { (logRec (mkRec 0x7010 0) s).plat with inputLow := true } }

/-- INPUT_LOW_RECOVER: the limit lifts. -/
def fxInputLowRecover (s : Sled) : Sled :=
  if s.plat.inputLow then rangeCheck { s with plat := { s.plat with inputLow := false } } else s

/-! ## Module reset, PWR_EN and PERST_N (R35, R51, R53, R61) -/

/-- MOD_RESET_N_ASSERT: as power-on, but for KPR_RESET_CAUSE; the main rails go off. The always-on rails are in
regulation during the hold-up of R48 too. What the input stage has measured stays. -/
def fxModResetNAssert (s : Sled) : Sled :=
  let alive : Bool := match s.plat.supply with
    | .on => true
    | .holdUp _ => true
    | _ => false
  if !alive ∨ s.plat.modReset then { s with plat := { s.plat with modReset := true } }
  else
    let t := freshSled s
    let rails := if s.plat.rails = .up ∨ s.plat.rails = .rising then .falling else s.plat.rails
    setCause 2 0 0 { t with isl := [], plat := { t.plat with
      modReset := true, rails := rails, railUp := s.plat.railUp, inputLow := s.plat.inputLow } }

/-- MOD_RESET_N_DEASSERT: strap sampling starts. -/
def fxModResetNDeassert (s : Sled) : Sled :=
  if !s.plat.modReset then s
  else
    let s := { s with plat := { s.plat with modReset := false } }
    if s.plat.supply ≠ .on then s
    else { s with isl := fput s.isl 0 { state := 2 }
                  plat := { s.plat with sampling := true, windows := 0, resetAt := s.now } }

/-- An unstable module-ID or LEGACY_SEL strap puts a start into watch-only (spec/02, R37). The strap latches are kept
across a PWR_EN cycle (Table 3-6), so the start that follows one is in watch-only again while the latch says so
(DEDUCED, notes/assumptions/40: R90 names the cycle as a way back to service and does not speak of the straps). -/
def strapTier (s : Sled) : Sled :=
  if !s.plat.unstable ∨ s.plat.unstableMask &&& 0x4FF#11 = 0 then s else watchOnly 0x9001 s

/-- PWR_EN_ASSERT: after a deassertion it completes a PWR_EN cycle, which restarts the profile (R61, R64, R65). The
boot timer counts from it, since it delays the boot (R80, R83; spec/17, R328). -/
def fxPwrEnAssert (s : Sled) : Sled :=
  if s.plat.pwrEn then s
  else
    let s := { s with plat := { s.plat with pwrEn := true }, kpr := { s.kpr with bootAt := s.now } }
    if !s.plat.cycle then railsStart s
    else
      let s := if s.kpr.tier = 1 then alertOn s else s
      let s := { s with
        plat := { s.plat with cycle := false, railFault := false, quiesced := false, quiesce := .none }
        kpr := { s.kpr with tier := 0, chosen := false, booted := false, fallback := false, outstanding := 0
                            digProf := none, digRt := none, bootSlot := s.kpr.slot }
        thm := { s.thm with crit := false }
        hst := { s.hst with retry := true } }
      strapTier (railsStart (setCause 3 0 0 s))

/-- PWR_EN_DEASSERT (R53). -/
def fxPwrEnDeassert (s : Sled) : Sled :=
  if !s.plat.pwrEn then s
  else
    let t := railsDown { s with plat := { s.plat with pwrEn := false, cycle := true } }
    if s.plat.quiesced then t else holdCommit (mkRec 0x7013 0) t

/-- PERST_N_ASSERT: a host reset (R61). -/
def fxPerstNAssert (s : Sled) : Sled :=
  let s := { s with plat := { s.plat with perst := true } }
  if islRuns s iHST then setIsl iHST 1 (hostReset s) else s

/-- PERST_N_DEASSERT: the HST island leaves reset once the main rails are in regulation. -/
def fxPerstNDeassert (s : Sled) : Sled :=
  let s := { s with plat := { s.plat with perst := false } }
  if s.plat.rails = .up ∧ islState s iHST = 1 then setIsl iHST 2 s else s

/-! ## Main rails (R49-R51) -/

/-- Level of main rail M(k + 1) (Table 3-2): the rails before the count are in regulation, and while the sequence
runs the next one ramps, or the last one discharges. -/
def railLevel (p : Plat) (k : Nat) : RailLevel :=
  if k < p.railUp then (if p.rails = .falling ∧ k + 1 = p.railUp then .discharge else .up)
  else if p.rails = .rising ∧ k = p.railUp then .ramp
  else .off

/-- The next main rail in the order of Table 3-2 reaches regulation, and the one after it starts (R49). -/
def railRise (s : Sled) : Sled :=
  if s.plat.rails = .rising ∧ s.plat.railUp < 7 then { s with plat := { s.plat with railUp := s.plat.railUp + 1 } } else s

/-- The last main rail that is up has discharged, and the one before it follows: the reverse order (R49). -/
def railFall (s : Sled) : Sled :=
  if s.plat.rails = .falling then { s with plat := { s.plat with railUp := s.plat.railUp - 1 } } else s

/-- Seven times a step of a rail sequence. -/
def seven (f : Sled → Sled) (s : Sled) : Sled := (List.range 7).foldl (fun s _ => f s) s

/-- MAIN_RAILS_IN_REGULATION: the rails have come up one after another; the islands leave reset, but for those the
profile leaves unused and HST under PERST_N. -/
def fxMainRailsInRegulation (s : Sled) : Sled :=
  if s.plat.rails ≠ .rising then s
  else
    let s := seven railRise { s with plat := { s.plat with railUp := 0 } }
    let s := { s with plat := { s.plat with rails := .up } }
    (List.range 37).foldl (fun s i =>
      let i := i + 1
      if islState s i = 0 ∨ (i = iHST ∧ s.plat.perst) then s else setIsl i 2 s) s

/-- MAIN_RAIL_FAULT (R50). A rail can leave its tolerance once it has been in regulation: while the sequence runs, the
rails up to the one that fails have. -/
def fxMainRailFault (rail : Nat) (s : Sled) : Sled :=
  if s.plat.rails ≠ .up ∧ s.plat.rails ≠ .rising then s
  else
    let s := if s.plat.rails = .rising then { s with plat := { s.plat with railUp := max s.plat.railUp (rail + 1) } } else s
    let s := logRec { mkRec 0x7012 0 with arg1 := rail + 1 } (railsDown s)
    watchOnly 0x7012 { s with plat := { s.plat with railFault := true } }

/-- MAIN_RAILS_OFF: the rails have discharged in the reverse order, and the power-down completes. -/
def fxMainRailsOff (s : Sled) : Sled :=
  if s.plat.rails = .falling then
    let s := seven railFall s
    railsStart { s with plat := { s.plat with rails := .off, railUp := 0 } }
  else s

/-! ## Straps (spec/02, R35, R37) -/

/-- Where KT3 mode comes into effect, every trouble counter above 0xFFFF becomes 0xFFFF (spec/21, R417). -/
def kt3Clamp (s : Sled) : Sled :=
  if !kt3 s then s
  else s.regs.foldl (fun t kv =>
    if isCnt (keyBlk kv.1) (keyOff kv.1) && decide (0xFFFF < kv.2.toNat) then
      rSet (keyBlk kv.1) (keyOff kv.1) 0xFFFF t else t) s

/-- STRAP_WINDOW_END: straps that agree in all samples are latched; after a third unstable window the unstable bits
hold a free value (notes/assumptions/3). -/
def fxStrapWindowEnd (samples : List (BitVec 11)) (s : Sled) : Sled :=
  match samples with
  | [] => s
  | x :: rest =>
    if !s.plat.sampling ∨ s.plat.supply ≠ .on ∨ s.plat.modReset then s
    else
      let diff := rest.foldl (fun d y => d ||| (x ^^^ y)) 0
      let w := s.plat.windows + 1
      if diff = 0 then
        kt3Clamp { s with plat := { s.plat with strap := x, windows := w, sampling := false, unstable := false, unstableMask := 0 } }
      else if w < 3 then { s with plat := { s.plat with windows := w } }
      else
        let (v, s) := nextFree s
        let strap := (x &&& ~~~diff) ||| (BitVec.ofNat 11 v &&& diff)
        kt3Clamp { s with plat := { s.plat with strap := strap, windows := w, sampling := false, unstable := true, unstableMask := diff } }

/-! ## Debounced inputs and quiesce (spec/02, R31; spec/03, R55, R56) -/

/-- An update session ends unfinished: its pieces are dropped and KPR_UPDATE_FAIL is logged (spec/20, R400). -/
def sessionFails (s : Sled) : Sled :=
  match s.kpr.session with
  | none => s
  | some _ =>
    logRec (mkRec 0xA002 0) { s with kpr := { s.kpr with
      session := none
      ops := s.kpr.ops.filter fun o => match o with
        | .updatePiece _ _ => false
        | _ => true } }

/-- UPD_LOCK_N_DEBOUNCED: an assertion ends an update (R31, R400). -/
def fxUpdLockNDebounced (asserted : Bool) (s : Sled) : Sled :=
  let s := { s with plat := { s.plat with updLock := asserted } }
  if asserted then sessionFails s else s

/-- Quiesce begins (Table 3-4, step 2) while REMOVE_REQ_N is asserted and the keeper runs. -/
def quiesceBegin (s : Sled) : Sled :=
  if !s.plat.removeReq ∨ s.plat.quiesce ≠ .none ∨ s.kpr.phase ≠ .running then s
  else
    let s := alertOn { s with plat := { s.plat with quiesce := .draining, ready := false } }
    platEvent 3 0 ((List.range 16).foldl (fun s t => vfEvent t 1 s) s)

/-- REMOVE_REQ_N_DEBOUNCED: an assertion begins quiesce. The input is followed continuously (spec/02, R31): one that
comes while the keeper does not run is acted on when the keeper runs (`keeperRuns`). -/
def fxRemoveReqNDebounced (asserted : Bool) (s : Sled) : Sled :=
  quiesceBegin { s with plat := { s.plat with removeReq := asserted } }

/-- A tenant still has a running task: descriptors fetched, ring entries or programs waiting, a scalar engine or bank
program running, or waits. -/
def tenantBusy (s : Sled) (t : Nat) : Bool :=
  (List.range 9).any (fun u => (descs s u).any fun d => qTen s u d.q = t) ||
  queuesBusy 9 ||
  (List.range 8).any (fun c => (fget s.vc {} c).seRun && (fget s.vc {} c).seTenant = t) ||
  (List.range 9).any (fun st => (fget s.bcs {} st).queues.toList.any (fun l => l.any (·.tenant = t)) ||
    (match getRun s st with
     | some r => r.prog.tenant = t
     | none => false)) ||
  s.waits.any fun w => w.who.tenant = some t
where
  /-- Some enabled queue of the tenant holds ring entries. -/
  queuesBusy : Nat → Bool
    | 0 => false
    | u + 1 => (List.range (nQueues u)).any (fun q => qTen s u q = t && ringCount s u q ≠ 0) || queuesBusy u

/-- The main rails go off once every flash write of a quiesce has completed: the event log's and the training cache's
(Table 3-4, steps 6 and 7). -/
def quiescePower (s : Sled) : Sled :=
  if s.plat.quiesce = .expired ∧ s.kpr.ops = [] ∧ s.kpr.ring = [] ∧ s.kpr.coll = [] ∧
      (s.kpr.cachePend = 0 ∨ !s.kpr.booted) then railsDown s
  else s

/-- QUIESCE_SAFE_TO_REMOVE (R55). -/
def fxQuiesceSafeToRemove (s : Sled) : Sled :=
  if s.plat.quiesce = .expired ∧ s.plat.rails = .off ∧ s.kpr.ops = [] ∧ s.kpr.phase = .running then
    alertOn { s with plat := { s.plat with quiesce := .safe, quiesced := true } }
  else s

/-! ## The keeper's start (spec/04, R80, R88) -/

/-- The highest sequence number of the log, plus one (spec/20, R397). -/
def logNext (l : List LogEnt) : Nat := l.foldl (fun n e => max n (e.seq + 1)) 0

/-- The keeper ROM's choice of a slot: the directory's, or the other (Table 4-6, step 1). -/
def keeperSlot (s : Sled) : Option Nat :=
  let a := (dirOf s).kprSlot
  let ok (k : Nat) : Bool := match ffind s.fl.keeper (keeperAt k) with
    | some i => imageOk s 0 i
    | none => false
  if ok a then some a else if ok (1 - a) then some (1 - a) else none

/-- The ROM switches a keeper trial back that has been started before (spec/20, R399), and marks one it starts. -/
def keeperTrial (s : Sled) : Sled :=
  if onTrial s 1 (dirOf s).kprSlot then
    if (ffind (trials s) 0x1001).isSome then trialFail 1 (dirOf s).kprSlot s
    else setTrials (fput (trials s) 0x1001 1) s
  else s

/-- KPR_SPARE_MAP is reloaded from keeper state (spec/18, R358; spec/22, R421). -/
def loadSpareMap (s : Sled) : Sled :=
  let m := s.fl.spares.cur.getD []
  (List.range 4).foldl (fun s k => setSpareReg k (ffind m k) s) s

/-- The keeper's image runs: it finds the newest log entry, logs a low input that came while it did not run, and
follows REMOVE_REQ_N. -/
def keeperRuns (slot : Nat) (s : Sled) : Sled :=
  let s := { s with
    fl := { s.fl with logSeq := max (logNext s.fl.log) (s.kpr.ring.foldl (fun n (x : Nat × Rec) => max n (x.1 + 1)) 0) }
    kpr := { s.kpr with phase := .running, slot := slot, startedAt := s.now, wdtAt := s.now }
    plat := { s.plat with heldPins := none } }
  let s := if s.plat.lowOwed then logRec (mkRec 0x7010 0) { s with plat := { s.plat with lowOwed := false } } else s
  quiesceBegin s

/-- The keeper ROM finds no image that it may start: its recovery state (R88). COOLANT_PWM is driven at 100 % there as
in every start (spec/02, Table 2-6). -/
def keeperRecovers (s : Sled) : Sled :=
  { s with kpr := { s.kpr with phase := .recovery }, plat := { s.plat with coolant := some 100 } }

/-- KEEPER_ROM_START. -/
def fxKeeperRomStart (s : Sled) : Sled :=
  if s.kpr.phase ≠ .rom ∨ s.plat.supply ≠ .on ∨ s.plat.modReset ∨ s.plat.sampling then s
  else if !s.fl.readable then keeperRecovers s
  else
    let s := keeperTrial s
    match keeperSlot s with
    | none => keeperRecovers s
    | some k =>
      let s := loadSpareMap (keeperRuns k { s with
        fl := { s.fl with boot := s.fl.boot + 1 }
        kpr := { s.kpr with bootAt := max s.kpr.bootAt s.plat.resetAt, bootSlot := k }
        plat := { s.plat with coolant := some 100 } })
      let s := if (dirCur s).isNone then logRec (mkRec 0x9002 0) s else s
      if !s.plat.unstable then s else strapTier (logRec (mkRec 0x9001 0) s)

/-- Every sensor that counts is at least 10 °C below its critical threshold (spec/19, R384). -/
def cooled (s : Sled) : Bool :=
  s.thm.firstRound && (List.range 36).all (fun i => (sensor s i).reading ≤ 102) &&
  ((sensor s 72).broken || (sensor s 72).reading ≤ 45) &&
  [87, 88, 89, 90].all fun i => (sensor s i).broken || (sensor s i).reading ≤ 115

/-- KEEPER_RAIL_ENABLE (spec/03, R51; spec/19, R384). -/
def fxKeeperRailEnable (s : Sled) : Sled :=
  if s.kpr.phase ≠ .running ∨ s.kpr.railEnable ∨ (s.thm.critHold ∧ !cooled s) then s
  else railsStart { s with kpr := { s.kpr with railEnable := true }, thm := { s.thm with critHold := false } }

/-! ## Profile (R75-R79) -/

/-- The PPI of profile `n`: the copy the directory names, and the first check it fails (reason 1 where nothing is
there). -/
def readPpi (s : Sled) (n : Nat) : Nat × Except Nat Ppi :=
  let c := nth (dirOf s).profCopy n
  match ffind s.fl.prof (profAt n c) with
  | none => (c, .error 1)
  | some p =>
    match ppiCheck s n p with
    | some r => (c, .error r)
    | none => (c, .ok p)

/-- A profile is started from its PPI: digest, unused islands and unknown sections. -/
def startProfile (n c : Nat) (p : Ppi) (s : Sled) : Sled :=
  let s := { s with
    prof := some p
    kpr := { s.kpr with prof := n, copy := c, chosen := true, digProf := some (Config.digest p.id) } }
  let s := (p.sections.filter fun t => t = 0 ∨ 6 < t).foldl (fun s t => logRec { mkRec 0x900A 0 with arg1 := t } s) s
  (maskList 38 p.cfg.unused).foldl (fun s i => if i = 0 then s else setIsl i 0 s) s

/-- A PPI that fails its checks: logged, and its trial ends (R75; spec/20, R399). -/
def ppiBad (n c reason : Nat) (s : Sled) : Sled :=
  trialFail (0x10 + n) c (logRec { mkRec 0x9003 0 with arg1 := n, arg2 := reason } s)

/-- The next-boot override, taken and cleared at every start (R77). -/
def takeOverride (s : Sled) : Sled :=
  match s.fl.override.cur with
  | some (some _) => { s with fl := { s.fl with override := s.fl.override.write none } }
  | _ => s

/-- The profile that a start takes: the override's, or the latched PROF_SEL, or 0 where a bit of it is unstable
(R77; spec/02, R37). -/
def profileWanted (s : Sled) : Nat :=
  match s.fl.override.cur with
  | some (some n) => n
  | _ => if s.plat.unstable ∧ s.plat.unstableMask &&& 0x300#11 ≠ 0 then 0 else bitsOf s.plat.strap.toNat 8 2

/-- PROFILE_SELECT (R77, R78). A start that is in watch-only already clears the override and starts no profile. The
fallback is logged once profile 0 has verified, as the worked case of spec/04 does; R78 does not say whether
CFG_PROFILE_FALLBACK is logged where profile 0 fails too, and the model then logs none (DESIGN CHOICE,
notes/assumptions/39). -/
def fxProfileSelect (s : Sled) : Sled :=
  if s.kpr.phase ≠ .running ∨ s.kpr.chosen ∨ s.plat.sampling then s
  else
    let n := profileWanted s
    let s := takeOverride s
    if s.kpr.tier = 1 then { s with kpr := { s.kpr with chosen := true } }
    else match readPpi s n with
    | (c, .ok p) => startProfile n c p s
    | (c, .error r) =>
      let s := ppiBad n c r s
      if n = 0 then watchOnly 0x9003 { s with kpr := { s.kpr with chosen := true } }
      else
        match readPpi s 0 with
        | (c, .ok p) =>
          let s := logRec { mkRec 0x9004 0 with arg1 := n } s
          startProfile 0 c p { s with kpr := { s.kpr with fallback := true } }
        | (c, .error r) => watchOnly 0x9003 (ppiBad 0 c r { s with kpr := { s.kpr with chosen := true } })

/-- FIRST_PWR_DEMAND_WRITE (spec/02, R42). -/
def fxFirstPwrDemandWrite (watts : Nat) (s : Sled) : Sled :=
  if s.kpr.phase ≠ .running ∨ s.plat.demand.isSome ∨ (!s.kpr.chosen ∧ s.kpr.tier ≠ 1) then s
  else { s with plat := { s.plat with rangeHigh := some (rangeWant s), demand := some watts } }

/-! ## Runtime (R81, R443) -/

/-- The runtime slot to run: the directory's, or the other where it is invalid, which is logged. R81 names a record for
the active slot; the model logs one for the other slot too where it is tried and invalid (DESIGN CHOICE,
notes/assumptions/39). -/
def runtimeSlot (s : Sled) : Option Nat × Sled :=
  let a := (dirOf s).rtSlot
  let ok (k : Nat) : Bool := match ffind s.fl.runtime (runtimeAt k) with
    | some i => imageOk s 1 i
    | none => false
  if ok a then (some a, s)
  else
    let s := logRec { mkRec 0x9005 0 with arg1 := a } s
    if ok (1 - a) then (some (1 - a), s) else (none, logRec { mkRec 0x9005 0 with arg1 := 1 - a } s)

/-- Scratchpads and the stream state SRAM hold zero with valid check bits (R443). -/
def clearSrams (s : Sled) : Sled :=
  { s with clearing := false, mem := fdrop s.mem fun k _ => 2 ^ 40 ≤ k, ecc := fdrop s.ecc fun k _ => 2 ^ 40 ≤ k * 32 }

/-- The self-test of island `i` (Table 4-6, step 6): a vault core, link, host port or other island that fails goes
offline with its island; an MC island's channels and the control cores go offline in an island that runs (R89). -/
def selfTest (mask : Nat) (s : Sled) (i : Nat) : Sled :=
  if i = 0 ∨ islState s i = 0 then s
  else
    let ok := bitAt mask i
    let s := { s with isl := fset s.isl {} i { fget s.isl {} i with selftest := ok } }
    if ok then s
    else if i = iCTL then (List.range 4).foldl (fun s c => ccGone c s) s
    else if 10 ≤ i ∧ i ≤ 18 then
      let s := (List.range 16).foldl (fun s c =>
        logRec { mkRec 0x9008 i with object := c * 64 + (i - 10) * 1024 }
          (updChan (i - 10) c (fun ch => { ch with off := true, online := false }) s)) s
      if s.kpr.tier = 2 && !computeSet s then watchOnly 0x9008 s else s
    else unitGone i (setIsl i 3 s)

/-- The cached training record of a stack that R82 accepts. -/
def cacheRec (s : Sled) (st : Nat) : Option TrainRec :=
  let gen := bitsOf (dirOf s).trainGen st 1
  match ffind s.fl.train (trainAt gen st), s.prof with
  | some r, some p => if r.crcOk && r.identity = Config.stackId st && r.bin = p.cfg.bin then some r else none
  | _, _ => none

/-- A stack's DRAM initialisation: the profile's bin in its mode words, command parity on (spec/07, Table 7-1, step 1;
spec/06, R121), its zero fill to come, and the cached delays in the shadow set, or CFG_TRAIN_CACHE_MISS
(R82; spec/07, R130). -/
def stackInit (s : Sled) (st : Nat) : Sled :=
  if !islRuns s (iMC st) then s
  else
    let s := updMcs st (fun m => { m with bin := profBin s }) s
    let s := (List.range 16).foldl (fun s c => updChan st c (fun ch => { ch with
      mwBin := profBin s, mw5 := (List.range 4).foldl (fun w r => fset w 0 r 1) ch.mw5, refAt := chTime s st c }) s) s
    let s := { s with kpr := { s.kpr with fillPend := setBit s.kpr.fillPend st true } }
    match cacheRec s st with
    | some r => updMcs st (fun m => { m with dlyShadow := r.delays }) s
    | none => logRec (mkRec 0x9006 iCTL) { s with kpr := { s.kpr with
      fullTrain := setBit s.kpr.fullTrain st true, cachePend := setBit s.kpr.cachePend st true } }

/-- Step 5: the image of slot `k` stands in the control memory, and its digest is recorded (R84). -/
def loadRuntime (k : Nat) (s : Sled) : Sled :=
  let i := ffind s.fl.runtime (runtimeAt k)
  { s with ctlMem := i, kpr := { s.kpr with rtSlot := k, digRt := i.map fun i => Config.digest i.id } }

/-- A stack leaves the self-refresh of a warm reset at the profile's bin, with set A and its delays live (R86;
notes/assumptions/24). -/
def stackWakes (s : Sled) (st : Nat) : Sled :=
  let s := updMcs st (fun m => { m with selfRefresh := false, bin := profBin s, setB := false, lowSince := none }) s
  (List.range 16).foldl (fun s c => modeWrites st c (refreshAnew st c s)) s

/-- Steps 5 and 6 on slot `k`: the image is loaded, the units are tested, the SRAMs cleared, and the control cores
released. A start that this leaves in watch-only goes no further. -/
def releaseCores (warm : Bool) (tests k : Nat) (s : Sled) : Sled :=
  let s := (List.range 38).foldl (selfTest tests) (clearSrams (loadRuntime k s))
  if s.kpr.tier = 1 then s
  else
    let s := { s with ccRunning := s.ccOffline ^^^ 15#4 }
    let s := (List.range 4).foldl (fun s i => hbStart i s) s
    if warm then
      (List.range 9).foldl stackWakes s
    else (List.range 9).foldl stackInit (loadSpareMap s)

/-- RUNTIME_RELEASE: steps 5 and 6 of Table 4-6, after the first write of step 4. At a warm start the started slot runs
again, the delays of before are kept, and DRAM leaves self-refresh (R86). -/
def fxRuntimeRelease (tests : Nat) (s : Sled) : Sled :=
  if s.kpr.phase ≠ .running ∨ s.plat.rails ≠ .up ∨ s.prof.isNone ∨ !s.kpr.chosen ∨ s.kpr.tier = 1 ∨ s.kpr.booted ∨
      s.ccRunning ≠ 0 ∨ s.plat.demand.isNone then s
  else if s.kpr.digRt.isSome then releaseCores true tests s.kpr.rtSlot s
  else
    match runtimeSlot s with
    | (none, s) => watchOnly 0x9005 (trialFail 2 (dirOf s).rtSlot s)
    | (some k, s) => releaseCores false tests k s

/-- BOOT_TIMEOUT (R83), 60 s after the boot's reference event or the PWR_EN that came later (R80): the control cores
halt, those under core reset too. -/
def fxBootTimeout (s : Sled) : Sled :=
  if s.kpr.phase ≠ .running ∨ s.kpr.booted ∨ s.kpr.tier = 1 ∨ !s.plat.pwrEn ∨ s.now < s.kpr.bootAt + 60000 * ms then s
  else watchOnly 0x9009 (logRec (mkRec 0x9009 0) { s with
    ccRunning := 0
    plat := { s.plat with coreReset := s.plat.coreReset.filter fun c => c.1 < 8 } })

/-- A stack's delays of set A, as a training record. -/
def trainRecOf (s : Sled) (st : Nat) : TrainRec :=
  { crcOk := true, identity := Config.stackId st, bin := profBin s
    delays := (fget s.mcs {} st).dlyLive.filter fun p => p.1 < 16384 }

/-- TRAINING_CACHE_WRITE (R82): after READY each newly trained record goes into its inactive generation, and the
directory's bit switches. A quiesce waits for it (spec/03, Table 3-4, step 6). -/
def fxTrainingCacheWrite (s : Sled) : Sled :=
  if s.kpr.phase ≠ .running ∨ !s.kpr.booted ∨ s.kpr.cachePend = 0 then s
  else
    let sts := maskList 9 s.kpr.cachePend
    let gen := (dirOf s).trainGen
    let t := sts.foldl (fun t st =>
      { t with fl := { t.fl with train := fput t.fl.train (trainAt (1 - bitsOf gen st 1) st) (trainRecOf s st) } }) s
    let t := dirWrite (fun d => { d with trainGen := sts.foldl (fun g st => setBit g st (bitsOf gen st 1 = 0)) gen }) t
    quiescePower { t with kpr := { t.kpr with cachePend := 0 } }

def execInsertionPrecharge (s : State) := lift fxInsertionPrecharge s
def execPowerOnReset (s : State) := lift fxPowerOnReset s
def execStrapWindowEnd (samples : List (BitVec 11)) (s : State) := lift (fxStrapWindowEnd samples) s
def execModResetNAssert (s : State) := lift fxModResetNAssert s
def execModResetNDeassert (s : State) := lift fxModResetNDeassert s
def execPwrEnAssert (s : State) := lift fxPwrEnAssert s
def execPwrEnDeassert (s : State) := lift fxPwrEnDeassert s
def execPerstNAssert (s : State) := lift fxPerstNAssert s
def execPerstNDeassert (s : State) := lift fxPerstNDeassert s
def execUpdLockNDebounced (asserted : Bool) (s : State) := lift (fxUpdLockNDebounced asserted) s
def execRemoveReqNDebounced (asserted : Bool) (s : State) := lift (fxRemoveReqNDebounced asserted) s
def execQuiesceSafeToRemove (s : State) := lift fxQuiesceSafeToRemove s
def execInputLowTimeout (s : State) := lift fxInputLowTimeout s
def execInputLowRecover (s : State) := lift fxInputLowRecover s
def execInputFall37v (s : State) := lift fxInputFall37v s
def execInputRise62v (s : State) := lift fxInputRise62v s
def execInputFall61v (s : State) := lift fxInputFall61v s
def execMainRailsInRegulation (s : State) := lift fxMainRailsInRegulation s
def execMainRailFault (rail : Fin 7) (s : State) := lift (fxMainRailFault rail.val) s
def execMainRailsOff (s : State) := lift fxMainRailsOff s
def execAlwaysOnSupplyLost (s : State) := lift fxAlwaysOnSupplyLost s
def execKeeperRomStart (s : State) := lift fxKeeperRomStart s
def execKeeperRailEnable (s : State) := lift fxKeeperRailEnable s
def execProfileSelect (s : State) := lift fxProfileSelect s
def execFirstPwrDemandWrite (watts : BitVec 12) (s : State) := lift (fxFirstPwrDemandWrite watts.toNat) s
def execRuntimeRelease (selfTest : BitVec 38) (s : State) := lift (fxRuntimeRelease selfTest.toNat) s
def execBootTimeout (s : State) := lift fxBootTimeout s
def execTrainingCacheWrite (s : State) := lift fxTrainingCacheWrite s

end Sys2Proof.Machine
end

