-- ==== Sys2Proof/Machine/RegFile.lean ====
section
/-! DEFINITION. The register file as software sees it (spec/21 R407-R411; spec/22): the fields of every listed
register with their access classes, and the value a read returns, computed where hardware drives it. -/

namespace Sys2Proof.Machine

open Sys2Proof

/-- Access classes of fields that a write changes in the stored register (spec/21, Table 21-2). `sp`: the field's own
rule acts on the write (a trigger, a doorbell, a shadow, a queue register). -/
inductive FClass where
  | rw | lk | w1c | cnt | sp
  deriving DecidableEq, Repr

/-- A field: first bit, length, class. -/
structure Fld where
  lo : Nat
  len : Nat
  cls : FClass
  deriving DecidableEq, Repr

/-- The index of an offset in a run of `n` registers from `base`, `stride` apart. -/
def idxIn (off base stride n : Nat) : Option Nat :=
  if base ≤ off ∧ off < base + stride * n ∧ (off - base) % stride = 0 then some ((off - base) / stride) else none

/-- Whether an offset lies in such a run. -/
def inRun (off base stride n : Nat) : Bool := (idxIn off base stride n).isSome

def rw (lo len : Nat) : Fld := ⟨lo, len, .rw⟩
def lk (lo len : Nat) : Fld := ⟨lo, len, .lk⟩
def w1c (lo : Nat) : Fld := ⟨lo, 1, .w1c⟩
def cnt32 : List Fld := [⟨0, 32, .cnt⟩]
def sp (lo len : Nat) : Fld := ⟨lo, len, .sp⟩

/-- Fields of the memory-controller registers (Table 22-4). -/
def mcFields (off : Nat) : Option (List Fld) :=
  if off = 0 then some []
  else if inRun off 0x10 8 11 then some [rw 0 16]
  else if inRun off 0x100 8 16 then some [rw 0 3, rw 4 2, rw 10 1, lk 11 1, sp 8 1]
  else if off = 0x200 then some [rw 0 15]
  else if off = 0x208 then some [sp 0 6]
  else if off = 0x300 then some [rw 0 2, sp 2 1, w1c 4]
  else if off = 0x308 then some [sp 0 5, w1c 7]
  else if off = 0x310 then some [rw 0 8]
  else if inRun off 0x400 8 4 then some [w1c 48]
  else if 0x1000 ≤ off ∧ off < 0x1800 ∧ inRun (off % 0x80) 0 8 11 then some cnt32
  else none

/-- Fields of the sync-store registers (Table 22-6). -/
def synFields (off : Nat) : Option (List Fld) :=
  if off = 0 then some [sp 0 28]
  else if off = 8 then some [rw 0 48]
  else if off = 0x10 then some [rw 0 12]
  else if off = 0x18 then some [rw 0 14, rw 16 4]
  else if inRun off 0x100 8 17 then some [rw 0 26]
  else if inRun off 0x200 8 16 then some []
  else if inRun off 0x300 8 5 then some cnt32
  else none

/-- Fields of the vault-core registers (Table 22-7). -/
def layFields (off : Nat) : Option (List Fld) :=
  if inRun off 0 0x20 24 ∨ inRun off 8 0x20 24 then some [sp 0 64]
  else if inRun off 0x10 0x20 24 then some [w1c 16]
  else if off = 0x400 then some [w1c 2, w1c 3, rw 8 4, rw 24 40, sp 0 1, sp 4 1]
  else if off = 0x408 then some []
  else if off = 0x410 then some [rw 6 34]
  else if off = 0x418 then some []
  else none

/-- Fields of the stream-engine registers (Table 22-8). -/
def steFields (off : Nat) : Option (List Fld) :=
  if inRun off 0 0x20 16 ∨ inRun off 8 0x20 16 then some [sp 0 64]
  else if inRun off 0x10 0x20 16 then some [w1c 16]
  else if off = 0x200 then some [rw 0 4, rw 6 34, sp 4 1]
  else if off = 0x208 then some [lk 16 24, lk 63 1]
  else if off = 0x210 then some [rw 0 13]
  else if inRun off 0x300 8 16 then some [lk 0 13, lk 63 1]
  else if inRun off 0x400 8 5 then some cnt32
  else none

/-- Fields of the keeper's registers, which the keeper alone writes (Table 22-11, R436). -/
def kprFields (off : Nat) : Option (List Fld) :=
  if inRun off 0 8 5 then some []
  else if inRun off 0x40 0x18 4 ∨ inRun off 0x48 0x18 4 then some [rw 0 40]
  else if inRun off 0x50 0x18 4 then some [rw 0 25, rw 33 1, rw 34 1, w1c 36, w1c 37, sp 32 1]
  else if inRun off 0x100 8 3 then some cnt32
  else none

/-- The written fields of a register; none where spec/22 lists no register at the offset (R420). -/
def regFields (blk off : Nat) : Option (List Fld) :=
  if blk = bGLB then
    if off = 0 ∨ off = 8 ∨ off = 0x10 then some []
    else if off = 0x18 then some [rw 4 4, rw 12 4, sp 0 2, sp 8 1]
    else if off = 0x20 then some [sp 0 64]
    else if off = 0x28 then some [w1c 0]
    else none
  else if blk = bISL then if inRun off 0 8 38 then some [] else none
  else if blk = bMAP then
    if inRun off 0 8 16 then some [lk 0 2, lk 4 4, lk 16 10, lk 32 10, lk 63 1]
    else if inRun off 0x80 8 13 then some [lk 0 40, lk 63 1]
    else if off = 0x100 then some [rw 0 40]
    else if off = 0x108 then some []
    else if inRun off 0x800 8 256 then some [lk 0 23, lk 63 1]
    else none
  else if 0x010 ≤ blk ∧ blk ≤ 0x018 then mcFields off
  else if 0x020 ≤ blk ∧ blk ≤ 0x028 then
    if inRun off 0 8 4 then some [sp 0 60]
    else if off = 0x20 then some [w1c 0, w1c 4]
    else if off = 0x28 then some [rw 0 6]
    else if inRun off 0x1000 8 32 then some cnt32
    else none
  else if blk = bSYN then synFields off
  else if 0x040 ≤ blk ∧ blk ≤ 0x047 then layFields off
  else if blk = bSTE then steFields off
  else if 0x060 ≤ blk ∧ blk ≤ 0x06F then
    if off = 0 then some [rw 2 1, sp 0 2]
    else if off = 8 then some []
    else if off = 0x10 then some [rw 0 24]
    else if inRun off 0x100 8 16 then some cnt32
    else none
  else if blk = bTHM then
    if inRun off 0 8 100 then some []
    else if off = 0x400 then some [sp 0 24]
    else if inRun off 0x408 8 4 then some []
    else if inRun off 0x500 8 3 then some cnt32
    else none
  else if blk = bKPR then kprFields off
  else if blk = bHST then
    if inRun off 0 8 18 then some []
    else if inRun off 0x108 8 16 then some [⟨0, 4, .w1c⟩]
    else if inRun off 0x200 8 5 then some cnt32
    else none
  else none

/-! ## Values that hardware drives -/

/-- GLB_BOOT_STATUS (Table 22-1). -/
def bootStatus (s : Sled) : Nat :=
  s.kpr.prof + 4 * b2n s.kpr.fallback + 8 * s.kpr.bootSlot + 16 * s.kpr.rtSlot + 32 * s.kpr.tier +
  2 ^ 16 * s.kpr.fullTrain

/-- GLB_COMPAT (spec/21, R414). -/
def compatVal (s : Sled) : Nat :=
  let pin := s.plat.strap.getLsbD 10
  let allow : Bool := match s.prof with
    | some p => p.cfg.allowKt3
    | none => false
  b2n (kt3 s) + 2 * b2n pin + 4 * b2n allow + 8 * b2n (kt3 s) + 2 ^ 63 * rField s bGLB 0x20 63 1

/-- Clock of an island before division, in 25 MHz units (spec/01, Table 1-3; the profile's where it sets one). -/
def clockOf (s : Sled) (i : Nat) : Nat :=
  if i = 0 then 8
  else if 10 ≤ i ∧ i ≤ 18 then 16 * binRate (fget s.mcs {} (i - 10)).bin
  else if 19 ≤ i ∧ i ≤ 34 then 48
  else if i = iHST then 40
  else if i = iNOC then 80
  else match s.prof with
    | some p =>
      if i = iCTL then p.cfg.ctlClk else if i = iSTE then p.cfg.steClk else nth p.cfg.vcClk (i - 2)
    | none => if i = iCTL then 48 else if i = iSTE then 60 else 72

/-- The throttle divisor of an engine level: 0 ÷1, 1 ÷2, 2 ÷4 (spec/19, Table 19-3). -/
def divisorOf (l : Nat) : Nat := if l < 4 then 0 else if l < 6 then 1 else 2

/-- Engine level that throttles an island, if any. -/
def throttleOf (i : Nat) : Option Nat :=
  if i = iCTL then some 8 else if i = iSTE then some 9 else if 2 ≤ i ∧ i ≤ 9 then some (i - 2) else none

/-- ISL_STATE_i (Table 22-2). -/
def islVal (s : Sled) (i : Nat) : Nat :=
  let e := fget s.isl {} i
  let d := match throttleOf i with
    | some j => divisorOf (effEng s j)
    | none => 0
  e.state + 4 * b2n e.selftest + 8 * d + 256 * clockOf s i

/-- A mask over `n` places. -/
def maskOf (n : Nat) (p : Nat → Bool) : Nat := (List.range n).foldl (fun m i => if p i then m + 2 ^ i else m) 0

/-- MC_CH_STATUS. -/
def chStatus (s : Sled) (st : Nat) : Nat :=
  maskOf 16 (fun c => (getChan s st c).online) + 2 ^ 16 * maskOf 16 (fun c => (getChan s st c).bcm) +
  2 ^ 32 * b2n (fget s.mcs {} st).selfRefresh

/-- MC_TRAIN_CTL_c with BUSY. -/
def trainVal (s : Sled) (st c : Nat) : Nat :=
  let m := fget s.mcs {} st
  setBits (rGet s (bMC st) (offTrain c)) 9 1 (b2n (m.helper.any (fun x => x.1 = c) || m.helperQ.any (fun x => x.1 = c)))

/-- MC_DLY_DATA at the selected bit (R428). -/
def dlyVal (s : Sled) (st : Nat) : Nat :=
  let sel := rGet s (bMC st) 0x200
  let m := fget s.mcs {} st
  let k := dlyKey (bitsOf sel 14 1) (bitsOf sel 0 4) (bitsOf sel 4 2) (bitsOf sel 6 7) (bitsOf sel 13 1)
  fget m.dlyShadow 0 k + 256 * fget m.dlyLive 0 k

/-- MC_SPEED_CTL. -/
def speedVal (s : Sled) (st : Nat) : Nat :=
  let m := fget s.mcs {} st
  bitsOf (rGet s (bMC st) 0x300) 0 2 + 8 * b2n m.speed.isSome + 16 * rField s (bMC st) 0x300 4 1 +
  32 * b2n m.setB + 256 * m.bin

/-- MC_SPARE_CTL (spec/18, Table 18-6). -/
def spareVal (s : Sled) (st : Nat) : Nat :=
  let v := rGet s (bMC st) offSpare
  match (fget s.mcs {} st).mig with
  | some m =>
    let wm := (List.range 16).foldl (fun l c => min l (fget m.wm 0 c)) 65535
    bitsOf v 0 5 + 32 * m.state + 128 * bitsOf v 7 1 + 2 ^ 16 * wm
  | none => bitsOf v 0 5 + 128 * bitsOf v 7 1

/-- BCS_STATUS (Table 22-5). -/
def bcsStatus (s : Sled) (st : Nat) : Nat :=
  let b := fget s.bcs {} st
  let v := rGet s (bBCS st) 0x20
  let depth (q : Nat) : Nat := (b.queues.toList.getD q []).length
  let run := match b.run with
    | some r => 2 + 4 * r.q + 2 ^ 48 * r.pc
    | none => 0
  bitsOf v 0 1 + 16 * bitsOf v 4 1 + run + 2 ^ 16 * depth 0 + 2 ^ 21 * depth 1 + 2 ^ 26 * depth 2 + 2 ^ 31 * depth 3

/-- SYN_INFLIGHT_t (spec/12, R244). -/
def inflightVal (s : Sled) (t : Nat) : Nat :=
  let waits := (s.waits.filter fun w => w.who.tenant = some t).length
  let outs := s.fab.out.map (·.2) ++ s.fab.held.flatMap fun h => h.2.map (·.2)
  let sig := (outs.filter fun o => match o.cont with
    | .descSignal _ w => w.tenant = some t
    | .posted w => w.tenant = some t
    | .value w => w.tenant = some t && !idempotent o.msg
    | _ => false).length
  min 65535 waits + 2 ^ 16 * min 65535 sig

/-- LAY_QSTAT_q or STE_QSTAT_q with BUSY (spec/10, Table 10-1). -/
def qstatVal (s : Sled) (u q : Nat) : Nat :=
  setBits (rGet s (qBlk u) (0x10 + 0x20 * q)) 17 1 (b2n ((descs s u).any fun d => d.q = q))

/-- LAY_STAGE. -/
def stageVal (s : Sled) (c : Nat) : Nat :=
  let v := fget s.vc {} c
  match v.staging with
  | some id =>
    1 + 256 * (match v.descs.find? fun d => d.id = id with
      | some d => d.q
      | none => 0)
  | none => 0

/-- LNK_STATUS (Table 22-9). -/
def linkStatus (s : Sled) (l : Nat) : Nat :=
  let k := getLnk s l
  k.state + 16 * b2n k.narrow + 32 * b2n k.half + 64 * b2n k.slow + 128 * b2n k.flit128 + 256 * b2n k.auth +
  2 ^ 16 * k.peer + 2 ^ 24 * k.lock.toNat

/-- HST_STATUS (Table 22-12). -/
def hostStatus (s : Sled) : Nat :=
  s.hst.speed + 16 * s.hst.width + 512 * b2n s.hst.flit + 1024 * hostMode s + 2 ^ 16 * s.hst.vfEn

/-- THM registers but THM_LIMIT and the trouble counters (Table 22-10). -/
def thmVal (s : Sled) (off : Nat) : Nat :=
  if off < 0x320 then
    let x := sensor s (off / 8)
    x.reading + 256 * b2n x.broken + 512 * b2n x.stale
  else if off = 0x408 then capOf s
  else if off = 0x410 then s.thm.step + 2 ^ 16 * (if s.thm.pavg < 2048 then s.thm.pavg else Config.powerOver s.thm.pavg % 2048)
  else if off = 0x418 then (List.range 10).foldl (fun v j => v + effEng s j * 2 ^ (4 * j)) 0
  else (List.range 9).foldl (fun v st => v + effPause s st * 2 ^ (4 * st)) 0

/-- The value a read of a listed register returns. -/
def regRead (s : Sled) (blk off : Nat) : Nat :=
  let v := rGet s blk off
  if blk = bGLB then
    if off = 8 then s.plat.strap.toNat + 2 ^ 12 * s.plat.windows + 2 ^ 14 * b2n s.plat.unstable
    else if off = 0x10 then bootStatus s
    else if off = 0x18 then v + 2 ^ 16 * b2n (glbBusy s)
    else if off = 0x20 then compatVal s
    else if off = 0x28 then v % 2 + 2 * b2n s.plat.ready + 4 * b2n (faultOn s) + 8 * b2n s.plat.quiesced
    else v
  else if blk = bISL then islVal s (off / 8)
  else if 0x010 ≤ blk ∧ blk ≤ 0x018 then
    let st := blk - 0x010
    if off = 0 then chStatus s st
    else if 0x100 ≤ off ∧ off < 0x180 then trainVal s st ((off - 0x100) / 8)
    else if off = 0x208 then dlyVal s st
    else if off = 0x300 then speedVal s st
    else if off = 0x308 then spareVal s st
    else v
  else if 0x020 ≤ blk ∧ blk ≤ 0x028 then
    if off < 0x20 then 0 else if off = 0x20 then bcsStatus s (blk - 0x020) else v
  else if blk = bSYN then
    if off = 0 then 0 else if 0x200 ≤ off ∧ off < 0x280 then inflightVal s ((off - 0x200) / 8) else v
  else if 0x040 ≤ blk ∧ blk ≤ 0x047 then
    let c := blk - 0x040
    if off < 0x300 ∧ off % 0x20 = 0x10 then qstatVal s c (off / 0x20)
    else if off = 0x400 then setBits v 1 1 (b2n (fget s.vc {} c).seRun)
    else if off = 0x418 then stageVal s c
    else v
  else if blk = bSTE then
    if off < 0x200 ∧ off % 0x20 = 0x10 then qstatVal s 8 (off / 0x20)
    else if off = 0x200 then v + 2 ^ 48 * maskOf 16 (fun i => (ffind s.ste.curves i).isSome)
    else if 0x300 ≤ off ∧ off < 0x380 then v + 2 ^ 16 * slotsUsed s ((off - 0x300) / 8)
    else v
  else if 0x060 ≤ blk ∧ blk ≤ 0x06F then if off = 8 then linkStatus s (blk - 0x060) else v
  else if blk = bTHM then if off = 0x400 ∨ 0x500 ≤ off then v else thmVal s off
  else if blk = bHST then if off = 0 then hostStatus s else v
  else v

/-- Split a local address of register space into block and offset (spec/21, R404). -/
def regSplit (a : Nat) : Option (Nat × Nat) :=
  if 0xF000000000 ≤ a ∧ a < 0xF100000000 then some ((a - 0xF000000000) / 0x100000, a % 0x100000) else none

/-- A register access of `n` bytes by an agent reaches a listed register: size and alignment (R404), reach (R405),
offset (R420) and island (spec/03, R71). -/
def regMapped (s : Sled) (a : Agent) (addr n : Nat) : Bool :=
  match regSplit addr with
  | some (blk, off) =>
    (n = 4 || n = 8) && addr % n = 0 && blkReach a blk && (regFields blk (off / 8 * 8)).isSome && regOpen s blk (off / 8 * 8)
  | none => false

/-- What an agent reads of `n` bytes in register space: 0 where the access is unmapped, which is logged (R410). A read at
an MC island whose clock stands waits (spec/07, R140). -/
def regLoad (a : Agent) (addr n : Nat) (s : Sled) : Nat × Sled :=
  match regSplit addr with
  | some (blk, off) =>
    if regMapped s a addr n && crossHeld s blk then (0, setStall s)
    else if regMapped s a addr n then (bitsOf (regRead s blk (off / 8 * 8)) (8 * (off % 8)) (8 * n), s)
    else (0, unmappedReg a blk off s)
  | none => (0, s)

end Sys2Proof.Machine
end

