-- ==== Sys2Proof/Machine/Registers.lean ====
section
/-! DEFINITION. Writes of registers (spec/21 R404-R415; spec/22): what a write stores, the triggers it starts, locks,
and accesses to unmapped addresses. The meanings stand at the end. -/

namespace Sys2Proof.Machine

open Sys2Proof

/-! ## Fields (R407, R411) -/

/-- Whether the LK fields of a register are locked: by its LOCK bit, by OWNER since it was set (spec/07, R129), or by a
preload entry. -/
def lkLocked (s : Sled) (blk off : Nat) : Bool :=
  lockedReg s blk off || (isLk blk off && bitAt (rGet s blk off) 63) ||
  (isTrain blk off && bitAt (fget s.mcs {} (blk - 0x010)).ownerLock ((off - 0x100) / 8))

/-- A field's new bits: `m` masks the bits of the field that the write touches. -/
def fieldBits (old v m : Nat) : Nat := (old &&& (2 ^ 64 - 1 - m)) ||| (v &&& m)

/-- Store what a write of `v` under the bit mask `mask` does to one field. -/
def fieldWrite (blk off mask v : Nat) (f : Fld) (s : Sled) : Sled :=
  let m := ((2 ^ f.len - 1) * 2 ^ f.lo) &&& mask
  let old := rGet s blk off
  if m = 0 then s
  else match f.cls with
    | .rw => if lockedReg s blk off then lockHit s else rSet blk off (fieldBits old v m) s
    | .lk => rSet blk off (fieldBits old v m) s
    | .w1c => rSet blk off (old &&& (2 ^ 64 - 1 - (v &&& m))) s
    | .cnt => rSet blk off (fieldBits old (if kt3 s then v % 2 ^ 16 else v) m) s
    | .sp => s

/-- Store the LK fields of a register together: a write that sets the lock also sets the others it writes. -/
def lkWrite (blk off mask v : Nat) (fs : List Fld) (s : Sled) : Sled :=
  let l := fs.filter fun f => f.cls = .lk
  if l.isEmpty then s
  else if lkLocked s blk off then
    if l.any fun f => ((2 ^ f.len - 1) * 2 ^ f.lo) &&& mask ≠ 0 then lockHit s else s
  else
    let s := l.foldl (fun s f => fieldWrite blk off mask v f s) s
    if isTrain blk off && bitAt (v &&& mask) 11 then ownerSet (blk - 0x010) ((off - 0x100) / 8) s else s

/-! ## Values that take effect as others (R445) -/

/-- A field within its range. -/
def clampField (blk off lo len a b : Nat) (s : Sled) : Sled :=
  rSetField blk off lo len (max a (min b (rField s blk off lo len))) s

/-- Every field of a register that has a range holds the value in effect (spec/22; spec/19, R374). -/
def clampReg (blk off : Nat) (s : Sled) : Sled :=
  if 0x010 ≤ blk ∧ blk ≤ 0x018 then
    if inRun off 0x10 8 11 then clampField blk off 0 16 100 60000 s
    else if off = 0x300 then clampField blk off 0 2 0 2 s
    else if off = 0x310 then clampField blk off 0 8 1 255 s
    else s
  else if 0x020 ≤ blk ∧ blk ≤ 0x028 then if off = 0x28 then clampField blk off 0 6 1 48 s else s
  else if blk = bSYN then
    if off = 0x10 then clampField blk off 0 12 16 4095 s
    else if off = 0x18 then clampField blk off 16 4 1 15 (clampField blk off 0 14 10 10000 s)
    else if inRun off 0x100 8 17 then clampField blk off 0 26 1 60000000 s
    else s
  else if blk = bSTE then if off = 0x210 then clampField blk off 0 13 64 4096 s else s
  else if 0x060 ≤ blk ∧ blk ≤ 0x06F then if off = 0x10 then clampField blk off 0 24 100 (2 ^ 24 - 1) s else s
  else if blk = bKPR then if inRun off 0x50 0x18 4 then clampField blk off 0 25 1 (2 ^ 25 - 1) s else s
  else s

/-! ## Registers whose own rule acts on a write -/

/-- GLB_COMPAT (R411, R414): the lock, PIN and ALLOW decide whether KT3 takes the written value. -/
def compatWrite (mask v : Nat) (s : Sled) : Sled :=
  let locked := lockedReg s bGLB 0x20 || bitAt (rGet s bGLB 0x20) 63
  if locked then if bitAt mask 0 || bitAt mask 63 then lockHit s else s
  else
    let allow : Bool := match s.prof with
      | some p => p.cfg.allowKt3
      | none => false
    let s := if bitAt mask 0 && !s.plat.strap.getLsbD 10 && allow then
        kt3Clamp (rSetField bGLB 0x20 0 1 (bitsOf v 0 1) s) else s
    if bitAt mask 63 && bitAt v 63 then rSetField bGLB 0x20 63 1 1 s else s

/-- MAP_PROBE_ADDR (spec/05, R105): the address is translated into MAP_PROBE_RESULT. -/
def probeGo (s : Sled) : Sled :=
  let a := rGet s bMAP 0x100 % 2 ^ 40
  rSet bMAP 0x108 (match translate s a with
    | some (c, n) =>
      c.col + 2 ^ 5 * c.row + 2 ^ 21 * c.bank + 2 ^ 25 * c.rank + 2 ^ 27 * c.chan + 2 ^ 31 * c.stack + 2 ^ 36 * n
    | none => 2 ^ 63) s

/-- GLB_RESET (spec/22, R424): a tenant and a core reset of one write both start; a warm reset is never ignored. -/
def glbReset (v : Nat) (s : Sled) : Sled :=
  let busy := glbBusy s
  let t := rField s bGLB 0x18 4 4
  let c := rField s bGLB 0x18 12 4
  let s := if bitAt v 1 && !busy then tenantResetBegin t true s else s
  let s := if bitAt v 8 && !busy then
      let u := coreResetBegin c true s
      if u.plat.coreReset = s.plat.coreReset then s else setCause 6 1 c u
    else s
  if bitAt v 0 then warmReset 1 s else s

/-- A queue's registers (spec/10, Table 10-1). -/
def queueWrite (u off mask v : Nat) (s : Sled) : Sled :=
  let q := off / 0x20
  let merged := fieldBits (rGet s (qBlk u) off) v mask
  if off % 0x20 = 0 then qcfgWrite u q merged s
  else if off % 0x20 = 8 then if bitAt mask 0 then tailWrite u q (merged % 2 ^ 12) s else s
  else s

/-- SYN_ADMIN_CMD (spec/12, R226). -/
def adminCmd (a : Agent) (v : Nat) (s : Sled) : Sled :=
  adminWrite a (bitAt v 16) (bitsOf v 0 16) (bitsOf v 17 3) (bitsOf v 24 4) s

/-- The action of a write on a register with a trigger, a doorbell or a shadow; `v` holds only the written bits and
the operand fields of the write are stored already (R424). -/
def regAct (a : Agent) (blk off mask v : Nat) (s : Sled) : Sled :=
  if blk = bGLB then
    if off = 0x18 then glbReset v s else if off = 0x20 then compatWrite mask v s else s
  else if blk = bMAP then if off = 0x100 ∧ !lockedReg s blk off then probeGo s else s
  else if 0x010 ≤ blk ∧ blk ≤ 0x018 then
    let st := blk - 0x010
    if 0x100 ≤ off ∧ off < 0x180 then
      let c := (off - 0x100) / 8
      if bitAt v 8 then trainGo st c (rField s blk off 0 3) (rField s blk off 4 2) s else s
    else if off = 0x208 then if bitAt mask 0 then dlyWrite st (bitsOf v 0 6) s else s
    else if off = 0x300 then if bitAt v 2 then speedGo st (rField s blk off 0 2) s else s
    else if off = 0x308 then
      if !bitAt mask 0 then s
      else if bitAt v 4 then spareGo st (bitsOf v 0 2) (bitsOf v 2 2) s
      else
        let s := spareGo0 st s
        if (fget s.mcs {} st).mig.isSome then s else swField blk off 0 4 (bitsOf v 0 4) s
    else s
  else if 0x020 ≤ blk ∧ blk ≤ 0x028 then
    if off < 0x20 then bcsEnqueue (blk - 0x020) (off / 8) (progOf v) s else s
  else if blk = bSYN then if off = 0 then adminCmd a v s else s
  else if 0x040 ≤ blk ∧ blk ≤ 0x047 then
    let c := blk - 0x040
    if off < 0x300 then queueWrite c off mask v s
    else if off = 0x400 then
      let s := if bitAt v 0 then seGoOp c (rField s blk off 8 4) (rField s blk off 24 40) s else s
      if bitAt v 4 then seStopOp c s else s
    else s
  else if blk = bSTE then
    if off < 0x200 then queueWrite 8 off mask v s
    else if off = 0x200 then
      if bitAt v 4 then pwlGo (whoAgent s a) (rField s blk off 0 4) (rField s blk off 6 34 * 64) s else s
    else s
  else if 0x060 ≤ blk ∧ blk ≤ 0x06F then
    let l := blk - 0x060
    if off = 0 then
      let s := if bitAt mask 0 then linkEnable l (bitAt v 0) s else s
      if bitAt v 1 then linkRetrain l s else s
    else s
  else if blk = bTHM then
    if off = 0x400 then thmLimit (fieldBits (rGet s bTHM 0x400) v mask) s else s
  else if blk = bKPR then
    match idxIn off 0x50 0x18 4 with
    | some n => if bitAt v 32 then rdmaGo n s else s
    | none => s
  else s

/-- An agent may write the register: `KPR` registers belong to the keeper (R436), and `BCS_QDOOR_3` to the raw
doorbells in host mode 2 (R429). -/
def mayWrite (s : Sled) (a : Agent) (blk off : Nat) : Bool :=
  if blk = bKPR then a = .keeper
  else if 0x020 ≤ blk ∧ blk ≤ 0x028 ∧ off = 0x18 then hostMode s ≠ 2
  else true

/-- A write of `v` under a bit mask to a listed register (R406): the fields, the values in effect, then the action. -/
def regStore (a : Agent) (blk off mask v : Nat) (s : Sled) : Sled :=
  match regFields blk off with
  | none => s
  | some fs =>
    let s := lkWrite blk off mask v fs s
    let s := (fs.filter fun f => f.cls ≠ .lk).foldl (fun s f => fieldWrite blk off mask v f s) s
    regAct a blk off mask (v &&& mask) (clampReg blk off s)

/-- A write of `n` bytes by an agent in register space (R404, R405, R410). At an MC island whose clock stands it waits at
the crossing, behind the earlier ones (spec/07, R140). -/
def regWrite (a : Agent) (addr n v : Nat) (s : Sled) : Sled :=
  match regSplit addr with
  | some (blk, off) =>
    let o := off / 8 * 8
    if regMapped s a addr n && mayWrite s a blk o then
      if crossHeld s blk then { s with xing := s.xing ++ [{ stack := blk % 16, agent := a, addr := addr, bytes := n, value := v }] }
      else
      let sh := 8 * (off % 8)
      regStore a blk o ((2 ^ (8 * n) - 1) * 2 ^ sh) (v % 2 ^ (8 * n) * 2 ^ sh) s
    else unmappedReg a blk off s
  | none => s

/-- REGISTER_WRITE. An address outside register space names no register. -/
def fxRegisterWrite (a : Agent) (addr : Nat) (size : AccSize) (v : Nat) (s : Sled) : Sled :=
  if canAct s a then regWrite a addr size.bytes v s else s

/-- GLB_COMPAT_WRITE (R414, R415). -/
def fxGlbCompatWrite (a : Agent) (k lock : Bool) (s : Sled) : Sled :=
  regAccess a bGLB 0x20 (compatWrite (2 ^ 64 - 1) (b2n k + 2 ^ 63 * b2n lock)) s

/-- MAP_PROBE (spec/05, R105). -/
def fxMapProbe (a : Agent) (addr : Nat) (s : Sled) : Sled :=
  regAccess a bMAP 0x100 (fun s => if lockedReg s bMAP 0x100 then lockHit s else probeGo (rSet bMAP 0x100 addr s)) s

/-- Whether a local address is unmapped for an agent, as an access of the command's kind names it (R410; spec/01, R15). -/
def isUnmapped (s : Sled) (a : Agent) (addr : Nat) : Bool :=
  if (regSplit addr).isSome then !regMapped s a addr 8 && !regMapped s a addr 4
  else if 0x8100000000 ≤ addr ∧ addr < 0x81001E8000 then !islRuns s iNOC
  else (placeOf s addr).isNone

/-- UNMAPPED_ACCESS (R410): a read returns 0, a write is ignored, and the access is logged. -/
def fxUnmappedAccess (a : Agent) (addr : Nat) (write : Bool) (s : Sled) : Sled :=
  if !canAct s a ∨ addr / 2 ^ 40 ≠ moduleId s ∨ !isUnmapped s a (addr % 2 ^ 40) then s
  else
    let l := addr % 2 ^ 40
    let s := match regSplit l with
      | some (blk, off) => unmappedReg a blk off s
      | none => logUnmapped (whoAgent s a) l (ownerIsland s l) s
    if write then s else returnVal (whoAgent s a) 0 s

/-! ## The end of a speed change (spec/07, R138, R140) -/

/-- The writes that wait at the crossing into a stack's island take effect in order, once its clock runs (R140). -/
def crossWrites (st : Nat) (s : Sled) : Sled :=
  if crossHeld s (bMC st) then s
  else
    let mine := s.xing.filter fun x => x.stack = st
    mine.foldl (fun s x => regWrite x.agent x.addr x.bytes x.value s) { s with xing := s.xing.filter fun x => x.stack ≠ st }

/-- PLL_LOCK_CONFIRMED. -/
def fxPllLockConfirmed (st : Nat) (s : Sled) : Sled := crossWrites st (pllConfirmed st s)

/-- PLL_LOCK_TIMEOUT. -/
def fxPllLockTimeout (st : Nat) (s : Sled) : Sled := crossWrites st (pllTimeout st s)

/-! ## The meanings -/

def execPllLockConfirmed (st : StackId) (s : State) := lift (fxPllLockConfirmed st.val) s
def execPllLockTimeout (st : StackId) (s : State) := lift (fxPllLockTimeout st.val) s

def execRegisterWrite (a : Agent) (addr : LAddr) (size : AccSize) (value : Word) (s : State) :=
  liftHold (fxRegisterWrite a addr.toNat size value.toNat) s
def execUnmappedAccess (a : Agent) (addr : GAddr) (write : Bool) (s : State) :=
  lift (fxUnmappedAccess a addr.toNat write) s
def execGlbCompatWrite (a : Agent) (kt3 lock : Bool) (s : State) := lift (fxGlbCompatWrite a kt3 lock) s
def execMapProbe (a : Agent) (addr : LAddr) (s : State) := lift (fxMapProbe a addr.toNat) s

end Sys2Proof.Machine
end

