-- ==== Sys2Proof/Machine/HostPort.lean ====
section
/-! DEFINITION. The host port (spec/17): configuration and memory requests, AtomicOps, function-level resets, watches
and MSI-X, the raw bank command window and the memory expander. The meanings stand at the end. -/

namespace Sys2Proof.Machine

open Sys2Proof

/-! ## Completions and errors (R328, R330, R343) -/

/-- A completion to function `fn`: status 0 successful, 1 Unsupported Request, 2 Request Retry Status, 4 Completer
Abort. -/
def complete (fn status : Nat) (ep : Bool) (d : List Byte) : Sled → Sled := emit (.cpl fn status ep d)

/-- Report error bit `b` of function `fn` (Table 17-6). -/
def aerSet (fn b : Nat) (s : Sled) : Sled :=
  { s with hst := { s.hst with aer := fset s.hst.aer 0 fn (setBit (fget s.hst.aer 0 fn) b true) } }

/-- A request that ends with Unsupported Request (1) or Completer Abort (4): a posted write is dropped (Table 17-6). -/
def hostFail (fn status : Nat) (posted : Bool) (s : Sled) : Sled :=
  let s := aerSet fn (if status = 1 then 0 else 1) s
  if posted then s else complete fn status false [] s

/-- The port's link is up. -/
def portUp (s : Sled) : Bool := islRuns s iHST && s.hst.up

/-- VF of tenant `k` is there: the host has enabled it, and the profile is no memory expander (R338). -/
def vfHere (s : Sled) (k : Nat) : Bool := bitAt s.hst.vfEn k && hostMode s ≠ 1

/-- The profile enables tenant `k`. -/
def tenantOn (s : Sled) (k : Nat) : Bool := (tenantCfg s k).any (·.enabled)

/-- What stops a memory request before its window is looked at (R328, R330, Table 17-6): `pfRead` marks a read of PF 0's
BAR 0, which watch-only allows. A function in D3hot takes configuration requests only (R327; notes/assumptions/17). -/
def hostStop (s : Sled) (fn : Nat) (pfRead : Bool) : Option Nat :=
  if s.hst.retry ∨ bitAt s.hst.d3 fn then some 1
  else if s.kpr.tier ≠ 2 ∧ !pfRead then some 4
  else if fn ≠ 0 ∧ !(vfHere s (fn - 1) && tenantOn s (fn - 1)) then some 1
  else none

/-- The requester that a function is: a VF with its tenant; PF 0 with tenant 0 in the memory expander (R330, R339). -/
def hostWho (s : Sled) (fn : Nat) : Who := whoAgent s (if fn = 0 then .pf else .vf (Fin.ofNat 16 (fn - 1)))

/-- An access outside the function's reach (R333). -/
def reachFault (fn addr : Nat) (posted : Bool) (s : Sled) : Sled :=
  let s := bump bHST 0x200 s
  let s := logLimited ms fn (recAddr false addr (moduleId s) (recWho s 0x8001 (hostWho s fn))) s
  hostFail fn 4 posted s

/-- A received write with EP set is reported (R336, Table 17-6). -/
def poisonIn (fn : Nat) (s : Sled) : Sled :=
  aerSet fn 2 (logLimited ms fn (recWho s 0x8002 (hostWho s fn)) (bump bHST 0x208 s))

/-! ## MSI-X (R337) -/

/-- Pending vectors of a function that may now be sent are sent. -/
def msixFlush (fn : Nat) (s : Sled) : Sled :=
  if !bitAt s.hst.msixOn fn then s else
  (List.range 32).foldl (fun s v =>
    let e := fget s.hst.msix {} (msixKey fn v)
    if e.pending && !e.masked then
      msixSend fn v { s with hst := { s.hst with msix := fset s.hst.msix {} (msixKey fn v) { e with pending := false } } }
    else s) s

/-- The 8-byte word at an offset of a function's MSI-X table: address, or data and vector control. -/
def msixWord (s : Sled) (fn i : Nat) : Nat :=
  let e := fget s.hst.msix {} (msixKey fn (i / 2))
  if i % 2 = 0 then e.addr else e.data + 2 ^ 32 * b2n e.masked

/-- A write of that word under a bit mask. -/
def msixWrite (fn i mask v : Nat) (s : Sled) : Sled :=
  let k := msixKey fn (i / 2)
  let e := fget s.hst.msix {} k
  let w := fieldBits (msixWord s fn i) v mask
  let e := if i % 2 = 0 then { e with addr := w } else { e with data := w % 2 ^ 32, masked := bitAt w 32 }
  msixFlush fn { s with hst := { s.hst with msix := fset s.hst.msix {} k e } }

/-! ## Watches (R337) -/

/-- A watch of the VF of tenant `k`. -/
def getWatch (s : Sled) (k w : Nat) : Watch := fget s.hst.watch {} (k * 32 + w)

/-- Set a watch. -/
def setWatch (k w : Nat) (x : Watch) (s : Sled) : Sled :=
  { s with hst := { s.hst with watch := fset s.hst.watch {} (k * 32 + w) x } }

/-- An armed watch reads its counter with the VF's tenant: a read that R238 would block sets ERR; a value at or above the
target fires. -/
def watchRead (k w : Nat) (s : Sled) : Sled :=
  let x := getWatch s k w
  if !x.arm ∨ !islRuns s iNOC then s
  else if (objCheck s (hostWho s (k + 1)) false x.counter).isSome then setWatch k w { x with err := true, arm := false } s
  else if x.target ≤ (getCtr s x.counter).value then
    msixSend (k + 1) (w + 1) (setWatch k w { x with fired := true, arm := false } s)
  else s

/-- A write of a watch's first word; ARM with the target met fires at once. -/
def watchWrite (k w mask v : Nat) (s : Sled) : Sled :=
  let x := getWatch s k w
  let word := fieldBits (x.counter + 2 ^ 16 * b2n x.arm) v mask
  let x := { x with
    counter := bitsOf word 0 14, arm := bitAt word 16
    fired := x.fired && !bitAt (v &&& mask) 17, err := x.err && !bitAt (v &&& mask) 18 }
  watchRead k w (setWatch k w x s)

/-- WATCH_ARM: the host writes a watch: target, counter and ARM. -/
def fxWatchArm (k w counter target : Nat) (arm : Bool) (s : Sled) : Sled :=
  if !portUp s then s else
  match hostStop s (k + 1) false with
  | some c => hostFail (k + 1) c true s
  | none =>
    let x := getWatch s k w
    watchRead k w (setWatch k w { x with counter := counter, target := target, arm := arm } s)

/-- WATCH_POLL: every 64 HST cycles. -/
def fxWatchPoll (k w : Nat) (s : Sled) : Sled := if islRuns s iHST then watchRead k w s else s

/-! ## Raw doorbells (R340) -/

/-- A write of the raw doorbell of stack `st`: it enqueues into queue 3 with the VF's tenant. -/
def rawBell (k st v : Nat) (s : Sled) : Sled :=
  if hostMode s ≠ 2 then s
  else if !islRuns s (iMC st) then unmappedReg (.vf (Fin.ofNat 16 k)) (bBCS st) 0x18 s
  else if crossHeld s (bBCS st) then setStall s
  else
    let full : Bool := 16 ≤ ((fget s.bcs {} st).queues.toList.getD 3 []).length
    let s := bcsEnqueue st 3 { progOf v with tenant := k } s
    if full && !s.hst.qfull.contains (k * 8 + st) then
      { s with hst := { s.hst with qfull := s.hst.qfull ++ [k * 8 + st] } }
    else s

/-- The status word of a raw doorbell; reading clears QFULL (Table 17-5). -/
def rawStatus (k st : Nat) (s : Sled) : Nat × Sled :=
  if hostMode s ≠ 2 then (0, s)
  else
    (((fget s.bcs {} st).queues.toList.getD 3 []).length + 256 * b2n (s.hst.qfull.contains (k * 8 + st)),
     { s with hst := { s.hst with qfull := s.hst.qfull.filter (· ≠ k * 8 + st) } })

/-! ## BAR 0 (Table 17-2) -/

/-- Offset of HDM decoder 0 in PF 0's BAR 0 (Table 17-4 places the component registers; notes/assumptions/37). -/
def offHdm : Nat := 0x11210

/-- The 8-byte word at an aligned offset of a function's BAR 0; reserved offsets read 0. -/
def bar0Word (fn off : Nat) (s : Sled) : Nat × Sled :=
  if inRun off 0x8000 8 64 then (msixWord s fn ((off - 0x8000) / 8), s)
  else if off = 0xC000 then (maskOf 32 fun v => (fget s.hst.msix {} (msixKey fn v)).pending, s)
  else if fn = 0 then
    (if off = 0 then hostStatus s
     else if off = 0x100 then bootStatus s
     else if inRun off 0x1000 8 5 then rGet s bHST (0x200 + (off - 0x1000))
     else if hostMode s ≠ 1 then 0
     else if off = offHdm then s.hst.hdmBase
     else if off = offHdm + 8 then s.hst.hdmSize
     else if off = offHdm + 16 then s.hst.hdmCtl
     else 0, s)
  else
    let k := fn - 1
    if off = 0 then (rGet s bHST (0x100 + 8 * fn), s)
    else match idxIn off 0x100 8 62 with
      | some i =>
        let x := getWatch s k (i / 2)
        (if i % 2 = 0 then x.counter + 2 ^ 16 * b2n x.arm + 2 ^ 17 * b2n x.fired + 2 ^ 18 * b2n x.err else x.target, s)
      | none => match idxIn off 0x4080 8 8 with
        | some st => rawStatus k st s
        | none => (0, s)

/-- A committed HDM decoder keeps its registers until Commit is cleared (notes/assumptions/37). -/
def hdmWrite (i mask v : Nat) (s : Sled) : Sled :=
  let h := s.hst
  let on := bitAt h.hdmCtl 10
  if i = 2 then
    let w := fieldBits h.hdmCtl v mask % 2 ^ 10
    let w := if on then setBits h.hdmCtl 9 1 (bitsOf w 9 1) else w
    { s with hst := { h with hdmCtl := setBits (w % 2 ^ 10) 10 1 (bitsOf w 9 1) } }
  else if on then s
  else if i = 0 then { s with hst := { h with hdmBase := fieldBits h.hdmBase v mask } }
  else { s with hst := { h with hdmSize := fieldBits h.hdmSize v mask } }

/-- A write of an aligned 8-byte word of a function's BAR 0 under a bit mask. -/
def bar0Store (fn off mask v : Nat) (s : Sled) : Sled :=
  if inRun off 0x8000 8 64 then msixWrite fn ((off - 0x8000) / 8) mask v s
  else if fn = 0 then
    if hostMode s ≠ 1 then s
    else match idxIn off offHdm 8 3 with
      | some i => hdmWrite i mask v s
      | none => s
  else
    let k := fn - 1
    if off = 0 then rSet bHST (0x100 + 8 * fn) (rGet s bHST (0x100 + 8 * fn) &&& (2 ^ 64 - 1 - (v &&& mask))) s
    else match idxIn off 0x100 8 62 with
      | some i =>
        if i % 2 = 0 then watchWrite k (i / 2) mask v s
        else
          let x := getWatch s k (i / 2)
          setWatch k (i / 2) { x with target := fieldBits x.target v mask % 2 ^ 48 } s
      | none => match idxIn off 0x4000 8 8 with
        | some st => rawBell k st (v &&& mask) s
        | none => s

/-- Size of a function's BAR 0. -/
def bar0Size (fn : Nat) : Nat := if fn = 0 then 0x100000 else 0x10000

/-- `n` bytes of BAR 0 from an offset on, word by word. -/
def bar0Bytes (fn : Nat) : Nat → Nat → Nat → Sled → List Byte × Sled
  | 0, _, _, s => ([], s)
  | fuel + 1, off, n, s =>
    if n = 0 then ([], s) else
    let k := min (8 - off % 8) n
    let (w, s) := bar0Word fn (off / 8 * 8) s
    let (rest, s) := bar0Bytes fn fuel (off + k) (n - k) s
    (((leBytes 8 w).drop (off % 8)).take k ++ rest, s)

/-- Bytes stored to BAR 0 from an offset on, word by word. -/
def bar0Put (fn : Nat) : Nat → Nat → List Byte → Sled → Sled
  | 0, _, _, s => s
  | fuel + 1, off, l, s =>
    if l.isEmpty then s else
    let k := min (8 - off % 8) l.length
    let sh := 8 * (off % 8)
    let s := bar0Store fn (off / 8 * 8) ((2 ^ (8 * k) - 1) * 2 ^ sh) (leNat (l.take k) * 2 ^ sh) s
    bar0Put fn fuel (off + k) (l.drop k) s

/-! ## The sync store through the host port (R335, R339) -/

/-- A sync access of a function: its value, or the code it was turned away with. `acc` as `syncAccess` names it; 15 is no
access of Table 12-3. -/
def hostSync (fn off acc x : Nat) (s : Sled) : (Nat ⊕ Nat) × Sled :=
  let w := hostWho s fn
  if islRuns s iNOC then syncAccess w off acc x s
  else (.inl 0, logUnmapped w (0x8100000000 + off) iNOC s)

/-- The access of a host read or write of `n` bytes at an offset. -/
def hostAcc (write : Bool) (off n : Nat) : Nat :=
  if off % n ≠ 0 then 15
  else if n = 2 then 7 + b2n write
  else if n = 4 then 2 * b2n write
  else if n = 8 then 1 + 2 * b2n write
  else 15

/-- A host read of the sync store: a read blocked by ownership returns 0 (spec/12, R238); any other refusal aborts. -/
def hostSyncRead (fn off n : Nat) (s : Sled) : Sled :=
  match hostSync fn off (hostAcc false off n) 0 s with
  | (.inl v, s) => complete fn 0 false (leBytes n v) s
  | (.inr c, s) =>
    if c = 0x1002 ∨ c = 0x1003 then complete fn 0 false (leBytes n 0) s else hostFail fn 4 false s

/-- A host write of the sync store: a refused one is dropped (R335). -/
def hostSyncWrite (fn off : Nat) (d : List Byte) (s : Sled) : Sled :=
  match hostSync fn off (hostAcc true off d.length) (leNat d) s with
  | (.inl _, s) => s
  | (.inr c, s) => if c = 0x1005 ∨ c = 0x1006 then s else hostFail fn 4 true s

/-- Where a window's offset falls in the sync store, if it does. -/
def syncOff (fn : Nat) (b : Bar) (s : Sled) (off n : Nat) : Option Nat :=
  match b with
  | .bar2 => if fn ≠ 0 ∧ 0x8100000000 ≤ off ∧ off + n ≤ 0x8100200000 then some (off - 0x8100000000) else none
  | .bar4 => if fn = 0 ∧ hostMode s = 1 ∧ off + n ≤ 0x200000 then some off else none
  | .bar0 => none

/-! ## Memory requests (R328-R336) -/

/-- An unmapped address within the reach is logged (spec/05, R96). -/
def hostHole (fn off n : Nat) (s : Sled) : Sled :=
  if allMapped s off n then s else logUnmapped (hostWho s fn) off (ownerIsland s off) s

/-- Bytes of payload that one request may carry (R327, Table 17-1). -/
def maxPayload : Nat := 512

/-- HOST_MEMORY_WRITE. A longer payload is unsupported (R327, R2; notes/assumptions/17). -/
def fxHostMemoryWrite (fn : Nat) (b : Bar) (off : Nat) (d : List Byte) (ep : Bool) (s : Sled) : Sled :=
  if !portUp s then s
  else if maxPayload < d.length then hostFail fn 1 true s else
  match hostStop s fn false with
  | some c => hostFail fn c true s
  | none =>
    let s := if ep then poisonIn fn s else s
    match syncOff fn b s off d.length with
    | some o => if ep then s else hostSyncWrite fn o d s
    | none =>
      match b with
      | .bar0 =>
        if bar0Size fn < off + d.length then hostFail fn 1 true s
        else if ep then s else bar0Put fn d.length off d s
      | .bar4 => hostFail fn 1 true s
      | .bar2 =>
        if fn = 0 then hostFail fn 1 true s
        else if tenantReach s (fn - 1) off d.length then
          let s := hostHole fn off d.length s
          let s := writeLocal off (d.map fun x => (x, ep)) s
          if off < 2 ^ 39 then progress (fn - 1) s else s
        else reachFault fn off true s

/-- HOST_MEMORY_READ: poison sets EP in the completion (R336). -/
def fxHostMemoryRead (fn : Nat) (b : Bar) (off n : Nat) (s : Sled) : Sled :=
  if !portUp s then s else
  let pfRead : Bool := fn = 0 && b = .bar0
  match hostStop s fn pfRead with
  | some c => hostFail fn c false s
  | none =>
    match syncOff fn b s off n with
    | some o => hostSyncRead fn o n s
    | none =>
      match b with
      | .bar0 =>
        if bar0Size fn < off + n then hostFail fn 1 false s
        else
          let (d, s) := bar0Bytes fn n off n s
          complete fn 0 false d s
      | .bar4 => hostFail fn 1 false s
      | .bar2 =>
        if fn = 0 then hostFail fn 1 false s
        else if tenantReach s (fn - 1) off n then
          let ((l, _), s) := readLocal off n (hostHole fn off n s)
          let s := if anyPoison l then bump bHST 0x210 s else s
          complete fn 0 (anyPoison l) (l.map (·.1)) s
        else reachFault fn off false s

/-- An AtomicOp (R335): `acc` is its access in the sync store; outside the sync store, and in a wait window for a Swap,
it is an unsupported request. -/
def hostAtomic (fn : Nat) (b : Bar) (off n acc x : Nat) (swap : Bool) (s : Sled) : Sled :=
  if !portUp s then s else
  match hostStop s fn false with
  | some c => hostFail fn c false s
  | none =>
    match syncOff fn b s off n with
    | none =>
      if b = .bar2 ∧ fn ≠ 0 ∧ !tenantReach s (fn - 1) off n then reachFault fn off false s else hostFail fn 1 false s
    | some o =>
      if swap ∧ ((0x20000 ≤ o ∧ o < 0x40000) ∨ (0xC0000 ≤ o ∧ o < 0x140000)) then hostFail fn 1 false s
      else
        let acc := if o % n = 0 then acc else 15
        match hostSync fn o acc x s with
        | (.inl v, s) => complete fn 0 false (leBytes n v) s
        | (.inr c, s) =>
          -- an add that left the range was not applied: the slot returns (spec/12, R230)
          if c = 0x1005 ∨ c = 0x1006 then
            complete fn 0 false (leBytes n (semSlot (getSem s ((o - 0x40000) / 8)))) s
          else hostFail fn 4 false s

/-- FETCHADD. -/
def fxFetchadd (fn : Nat) (b : Bar) (off : Nat) (wide : Bool) (x : Nat) : Sled → Sled :=
  if wide then hostAtomic fn b off 8 4 x false else hostAtomic fn b off 4 5 (x % 2 ^ 32) false

/-- SWAP: 64 bits to the take window is one attempt. -/
def fxSwap (fn : Nat) (b : Bar) (off : Nat) (wide : Bool) (x : Nat) : Sled → Sled :=
  if wide then hostAtomic fn b off 8 6 x true else hostAtomic fn b off 4 15 x true

/-- CAS is not supported (R327, R335). -/
def fxCas (fn : Nat) (s : Sled) : Sled :=
  if !portUp s then s else
  match hostStop s fn false with
  | some 4 => hostFail fn 4 false s
  | _ => hostFail fn 1 false s

/-- RAW_DOORBELL. -/
def fxRawDoorbell (k st v : Nat) (s : Sled) : Sled :=
  if !portUp s then s else
  match hostStop s (k + 1) false with
  | some c => hostFail (k + 1) c true s
  | none => rawBell k st v s

/-- RAW_DOORBELL_STATUS_READ. -/
def fxRawDoorbellStatusRead (k st : Nat) (s : Sled) : Sled :=
  if !portUp s then s else
  match hostStop s (k + 1) false with
  | some c => hostFail (k + 1) c false s
  | none =>
    let (v, s) := rawStatus k st s
    complete (k + 1) 0 false (leBytes 8 v) s

/-! ## Configuration and function-level reset (R327, R328, R331) -/

/-- A function is there to configuration requests. -/
def fnHere (s : Sled) (fn : Nat) : Bool := fn = 0 || vfHere s (fn - 1)

/-- A dword of configuration space: the class code of Table 17-1; the rest is the standard's (notes/assumptions/17). -/
def cfgRead (s : Sled) (off : Nat) : List Byte :=
  let free := (Config.protocolBody (0x10000 + off) ++ List.replicate 4 0).take 4
  if off = 8 then free.take 1 ++ leBytes 3 (if hostMode s = 1 then 0x050210 else 0x120000) else free

/-- MSI-X enables and BAR bases of VFs return to their reset state. -/
def vfConfigClear (s : Sled) : Sled :=
  let s := { s with hst := { s.hst with msixOn := s.hst.msixOn % 2, d3 := s.hst.d3 % 2 } }
  (List.range 16).foldl (fun s n => rSet bHST (0x10 + 8 * n) 0 s) s

/-- A base that a BAR takes: aligned to its size (Table 17-2). R332 says that the host must not place a VF's BAR 2 below
2^40 and not what happens if it does: the base rounds down to 0, and the window goes on working (DESIGN CHOICE,
notes/assumptions/17). -/
def barBase (n base : Nat) : Nat := if n = 0 then base / 2 ^ 20 * 2 ^ 20 else base / 2 ^ 40 * 2 ^ 40

/-- HOST_CONFIG_REQUEST. -/
def fxHostConfigRequest (fn : Nat) (op : CfgOp) (s : Sled) : Sled :=
  if !portUp s then s
  else if s.hst.retry then complete fn 2 false [] s
  else if !fnHere s fn then hostFail fn 1 false s
  else match op with
    | .read off => complete fn 0 false (cfgRead s off.toNat) s
    | .bar n base =>
      if n.val = 0 ∨ hostMode s ≠ 1 then complete fn 0 false [] (rSet bHST (8 + 8 * n.val) (barBase n.val base.toNat) s)
      else hostFail fn 1 false s
    | .vfEnable num =>
      if fn ≠ 0 ∨ hostMode s = 1 then complete fn 0 false [] s
      else
        let s := { s with hst := { s.hst with vfEn := 2 ^ num.val - 1 } }
        complete fn 0 false [] (if num.val = 0 then vfConfigClear s else s)
    | .msix f on =>
      if !fnHere s f.val then hostFail fn 1 false s
      else
        complete fn 0 false []
          (msixFlush f.val { s with hst := { s.hst with msixOn := setBit s.hst.msixOn f.val on } })
    | .power f d3 =>
      if !fnHere s f.val then hostFail fn 1 false s
      else complete fn 0 false [] { s with hst := { s.hst with d3 := setBit s.hst.d3 f.val d3 } }

/-- FLR_VF (R331): a tenant reset, then the VF's watches and MSI-X state. -/
def fxFlrVf (k : Nat) (s : Sled) : Sled :=
  if !portUp s ∨ s.hst.retry ∨ !vfHere s k then s
  else
    let s := tenantResetBegin k false s
    { s with hst := { s.hst with
        watch := fdrop s.hst.watch fun i _ => i / 32 = k
        msix := fdrop s.hst.msix fun i _ => i / 32 = k + 1
        msixOn := setBit s.hst.msixOn (k + 1) false, d3 := setBit s.hst.d3 (k + 1) false } }

/-- FLR_PF (R331): configuration state only; no tenant is reset. -/
def fxFlrPf (s : Sled) : Sled :=
  if !portUp s ∨ s.hst.retry then s
  else rSet bHST 8 0 (vfConfigClear { s with hst := { s.hst with msixOn := 0, vfEn := 0, d3 := 0, aer := [] } })

/-! ## Link events (R328, R341, R343) -/

/-- HOST_LINK_UP: the HST island's link training completes. -/
def fxHostLinkUp (speed width : Nat) (flit : Bool) (s : Sled) : Sled :=
  if !islRuns s iHST ∨ s.hst.up ∨ s.plat.perst ∨ (s.plat.quiesce ≠ .none ∧ s.plat.quiesce ≠ .draining) then s
  else { s with hst := { s.hst with up := true, speed := speed + 1, width := 2 ^ width, flit := flit || speed = 5 } }

/-- HOST_LINK_DOWN: a host reset, logged where PERST_N does not cause it (R341). -/
def fxHostLinkDown (s : Sled) : Sled :=
  if !portUp s then s
  else bump bHST 0x218 (logRec (mkRec 0x8003 iHST) (hostReset s))

/-- LTSSM_RECOVERY_ENTRY. -/
def fxLtssmRecoveryEntry (s : Sled) : Sled := if portUp s then bump bHST 0x220 s else s

/-! ## The memory expander (R338, Table 17-4) -/

/-- Insert a range by its first address. -/
def insRange (r : Nat × Nat) : List (Nat × Nat) → List (Nat × Nat)
  | [] => [r]
  | x :: l => if r.1 < x.1 then r :: x :: l else x :: insRange r l

/-- The DRAM ranges of tenant 0 in ascending order. -/
def memRanges (s : Sled) : List (Nat × Nat) :=
  match tenantCfg s 0 with
  | some c => c.regions.foldl (fun l r => insRange r l) []
  | none => []

/-- Capacity in bytes. -/
def memSize (s : Sled) : Nat := (memRanges s).foldl (fun n r => n + r.2) 0

/-- Local address of a device address: the ranges joined without gaps. -/
def dpaLocal : List (Nat × Nat) → Nat → Option Nat
  | [], _ => none
  | r :: l, d => if d < r.2 then some (r.1 + d) else dpaLocal l (d - r.2)

/-- Device address of a local address. -/
def localDpa : List (Nat × Nat) → Nat → Nat → Option Nat
  | [], _, _ => none
  | r :: l, base, a => if r.1 ≤ a ∧ a < r.1 + r.2 then some (base + (a - r.1)) else localDpa l (base + r.2) a

/-- Interleave ways and granularity of the decoder's control word (R338; notes/assumptions/37). -/
def hdmWays (ctl : Nat) : Nat := 2 ^ min 4 (bitsOf ctl 4 4)
def hdmGran (ctl : Nat) : Nat := 256 * 2 ^ min 4 (bitsOf ctl 0 4)

/-- Local address that a host physical address reaches through the committed decoder. -/
def hdmLocal (s : Sled) (hpa : Nat) : Option Nat :=
  let h := s.hst
  if !bitAt h.hdmCtl 10 ∨ hpa < h.hdmBase ∨ h.hdmBase + h.hdmSize ≤ hpa then none
  else
    let o := hpa - h.hdmBase
    let g := hdmGran h.hdmCtl
    dpaLocal (memRanges s) (o / (g * hdmWays h.hdmCtl) * g + o % g)

/-- One 32-byte word of a CXL write under its byte mask: whole where the mask names every byte (spec/09, R446), poisoned
where the write is (R336), else byte by byte. -/
def cxlHalf (a mask : Nat) (d : List Byte) (poison : Bool) (s : Sled) : Sled :=
  if mask = 0 then s
  else if poison then writeLocal a [(0, true)] s
  else if mask = 2 ^ 32 - 1 then writeLocal a (cleanBytes d) s
  else d.zipIdx.foldl (fun s x => if bitAt mask x.2 then writeLocal (a + x.2) [(x.1, false)] s else s) s

/-- CXL_MEM_REQUEST: one 64-byte line, read or written under a byte mask, with tenant 0. -/
def fxCxlMemRequest (hpa : Nat) (wr : Option (Nat × List Byte)) (poison : Bool) (s : Sled) : Sled :=
  if !portUp s ∨ hostMode s ≠ 1 then s else
  match hostStop s 0 false with
  | some c => hostFail 0 c wr.isSome s
  | none =>
    match hdmLocal s (hpa / 64 * 64) with
    | none => s
    | some a =>
      match wr with
      | some (mask, d) =>
        let s := if poison then poisonIn 0 s else s
        let s := (List.range 2).foldl (fun s j => cxlHalf (a + 32 * j) (bitsOf mask (32 * j) 32) ((d.drop (32 * j)).take 32) poison s)
          (hostHole 0 a 64 s)
        complete 0 0 false [] (progress 0 s)
      | none =>
        let ((l, _), s) := readLocal a 64 (hostHole 0 a 64 s)
        let s := if anyPoison l then bump bHST 0x210 s else s
        complete 0 0 (anyPoison l) (l.map (·.1)) s

/-- The user rank that a stored rank serves (spec/05, R93). -/
def userRank (s : Sled) (st r : Nat) : Option (Nat × Nat) :=
  ((List.range 8).flatMap fun x => (List.range 4).map fun y => (x, y)).find? fun p => redirect s p.1 p.2 = (st, r)

/-- Device address of a stored word, if it lies in tenant 0's ranges. -/
def placeDpa (s : Sled) (p : Nat) : Option Nat :=
  let c := coordOf p
  match userRank s c.stack c.rank with
  | none => none
  | some (st, r) =>
    let u := { c with stack := st, rank := r }
    (List.range 16).findSome? fun n =>
      let g := region s n
      if g.valid && g.ok && g.row0 ≤ u.row && u.row < g.row0 + g.rows then
        localDpa (memRanges s) 0 (xlateInv (masks s) g u)
      else none

/-- Device addresses of poisoned words, up to 256 (Table 17-4). -/
def poisonList (s : Sled) : List Nat :=
  ((s.ecc.filter fun e => e.2 = ePoison && e.1 < 2 ^ 35).filterMap fun e => placeDpa s (e.1 * 32)).take 256

/-- CXL_MAILBOX_COMMAND: commands of Table 17-4; others return Unsupported (status 1). -/
def fxCxlMailboxCommand (c : MboxCmd) (s : Sled) : Sled :=
  if !portUp s ∨ hostMode s ≠ 1 then s else
  match hostStop s 0 false with
  | some x => hostFail 0 x false s
  | none =>
    match c with
    | .identify => complete 0 0 false (Config.protocolBody 0x4000) s
    | .partition => complete 0 0 false (leBytes 8 (memSize s / 2 ^ 28) ++ leBytes 24 0) s
    | .getTime =>
      let t := match s.hst.stamp with
        | some (v, at_) => v + (s.now - at_) / ns
        | none => 0
      complete 0 0 false (leBytes 8 t) s
    | .setTime t => complete 0 0 false [] { s with hst := { s.hst with stamp := some (t.toNat, s.now) } }
    | .getEvents => complete 0 0 false (Config.protocolBody 0x0100) s
    | .clearEvents => complete 0 0 false [] s
    | .poisonList => complete 0 0 false ((poisonList s).flatMap (leBytes 8)) s
    | .other _ => complete 0 1 false [] s

/-! ## The meanings -/

def execHostConfigRequest (fn : HFn) (op : CfgOp) (s : State) := lift (fxHostConfigRequest fn.val op) s
def execHostMemoryWrite (fn : HFn) (b : Bar) (offset : LAddr) (data : List Byte) (ep : Bool) (s : State) :=
  liftHold (fxHostMemoryWrite fn.val b offset.toNat data ep) s
def execHostMemoryRead (fn : HFn) (b : Bar) (offset : LAddr) (len : Fin 4097) (s : State) :=
  liftHold (fxHostMemoryRead fn.val b offset.toNat len.val) s
def execFetchadd (fn : HFn) (b : Bar) (offset : LAddr) (wide : Bool) (data : Word) (s : State) :=
  lift (fxFetchadd fn.val b offset.toNat wide data.toNat) s
def execSwap (fn : HFn) (b : Bar) (offset : LAddr) (wide : Bool) (data : Word) (s : State) :=
  lift (fxSwap fn.val b offset.toNat wide data.toNat) s
def execCas (fn : HFn) (_b : Bar) (_offset : LAddr) (_wide : Bool) (_compare _data : Word) (s : State) :=
  lift (fxCas fn.val) s
def execFlrVf (k : Tenant) (s : State) := lift (fxFlrVf k.val) s
def execFlrPf (s : State) := lift fxFlrPf s
def execWatchArm (k : Tenant) (w : Fin 31) (counter : BitVec 14) (target : BitVec 48) (arm : Bool) (s : State) :=
  lift (fxWatchArm k.val w.val counter.toNat target.toNat arm) s
def execWatchPoll (k : Tenant) (w : Fin 31) (s : State) := lift (fxWatchPoll k.val w.val) s
def execRawDoorbell (k : Tenant) (st : Fin 8) (value : Word) (s : State) :=
  liftHold (fxRawDoorbell k.val st.val value.toNat) s
def execRawDoorbellStatusRead (k : Tenant) (st : Fin 8) (s : State) := lift (fxRawDoorbellStatusRead k.val st.val) s
def execCxlMemRequest (hpa : Word) (wr : Option (BitVec 64 × List Byte)) (poison : Bool) (s : State) :=
  liftHold (fxCxlMemRequest hpa.toNat (wr.map fun p => (p.1.toNat, p.2)) poison) s
def execCxlMailboxCommand (c : MboxCmd) (s : State) := lift (fxCxlMailboxCommand c) s
def execHostLinkUp (speed : Fin 6) (width : Fin 5) (flit : Bool) (s : State) :=
  lift (fxHostLinkUp speed.val width.val flit) s
def execHostLinkDown (s : State) := lift fxHostLinkDown s
def execLtssmRecoveryEntry (s : State) := lift fxLtssmRecoveryEntry s

end Sys2Proof.Machine
end

