-- ==== Sys2Proof/Machine/Keeper.lean ====
section
/-! DEFINITION. The keeper's command set (spec/20 R386-R393, R396, R397, R399, R401), its transports and MCTP control
messages (R389), and its own flash and alert events. The meanings stand at the end. -/

namespace Sys2Proof.Machine

open Sys2Proof

/-! ## Transports (R389) -/

/-- A transport reaches the keeper: SMBus always, I3C once ENTDAA has given an address, DOE with the main rails in
regulation and the host link up. -/
def reaches (s : Sled) (t : Transport) : Bool :=
  match t.port with
  | .smbus => true
  | .i3c => s.kpr.mgmt.i3cAddr.isSome
  | .doe => s.plat.rails = .up && portUp s

/-- The keeper answers requests: its image runs, or its ROM in the recovery state; not during a restart (R386). -/
def answers (s : Sled) (t : Transport) : Bool :=
  aonRuns s && (s.kpr.phase = .running || s.kpr.phase = .recovery) && reaches s t

/-- Message protocols of a response: MCTP control 0, PLDM 1, SPDM 5, vendor-defined 0x7E. The response goes back to
where the request came from, with its instance tag (R390). -/
def reply (t : Transport) (proto cmd code : Nat) (body : List Byte) : Sled → Sled :=
  emit (.resp t proto cmd code body)

/-! ## Keeper commands (R390-R392) -/

/-- Completion codes (R392). -/
def codeOk : Nat := 0
def codeFailed : Nat := 1
def codeInvalid : Nat := 2
def codeLocked : Nat := 3
def codeBusy : Nat := 4
def codeTier : Nat := 5
def codeUnknown : Nat := 6

/-- A command of code `cmd` that is served in watch-only and compute service. -/
def kprCmd (t : Transport) (cmd : Nat) (f : Sled → (Nat × List Byte) × Sled) (s : Sled) : Sled :=
  if !answers s t then s
  else if s.kpr.phase = .recovery then reply t 0x7E cmd codeTier [] s
  else
    let ((code, body), s) := f s
    reply t 0x7E cmd code body s

/-- A command that needs compute service. -/
def kprCmdC (t : Transport) (cmd : Nat) (f : Sled → (Nat × List Byte) × Sled) : Sled → Sled :=
  kprCmd t cmd fun s => if s.kpr.tier ≠ 2 then ((codeTier, []), s) else f s

/-- A command that needs the main rails in regulation. -/
def kprCmdRails (t : Transport) (cmd : Nat) (f : Sled → (Nat × List Byte) × Sled) : Sled → Sled :=
  kprCmd t cmd fun s => if s.plat.rails ≠ .up then ((codeTier, []), s) else f s

/-- Bytes of several numbers, 4 bytes each. -/
def words4 (l : List Nat) : List Byte := l.flatMap (leBytes 4)

/-- GET_IDENTITY, in the recovery state too. -/
def fxGetIdentity (t : Transport) (s : Sled) : Sled :=
  if !answers s t then s
  else reply t 0x7E 0x01 codeOk
    (leBytes 4 0x4B540004 ++ leBytes 1 (moduleId s) ++ leBytes 16 Config.serial ++
     words4 ((List.range 4).map (nth (dirOf s).versions)) ++ words4 ((List.range 3).map (floorOf s))) s

/-- Components whose trial is pending: bit 0 keeper, bit 1 runtime, bits 5:2 profiles 0-3. -/
def trialMask (s : Sled) : Nat :=
  maskOf 6 fun i => (ffind (trials s) (if i < 2 then i + 1 else 0x10 + (i - 2))).isSome

/-- GET_STATUS: it services a pending alert (R393). -/
def fxGetStatus (t : Transport) : Sled → Sled :=
  kprCmd t 0x02 fun s =>
    let body := leBytes 8 (bootStatus s) ++ leBytes 1 s.kpr.tier ++ leBytes 4 s.kpr.outstanding ++ leBytes 1 s.thm.step ++
      leBytes 2 (capOf s) ++ leBytes 2 s.thm.pavg ++ leBytes 1 (trialMask s)
    ((codeOk, body), { s with kpr := { s.kpr with alert := false } })

/-- The 64 bytes of a log entry (Table 20-6). -/
def logBytes (e : LogEnt) : List Byte :=
  let b := recBytes e.record ++ leBytes 8 e.seq ++ leBytes 4 e.boot ++ leBytes 1 e.mod ++ leBytes 1 (b2n e.hold) ++
    leBytes 14 0
  b ++ leBytes 4 (crc32c b)

/-- Insert a log entry by sequence number. -/
def logInsert (e : LogEnt) : List LogEnt → List LogEnt
  | [] => [e]
  | x :: l => if e.seq < x.seq then e :: x :: l else x :: logInsert e l

/-- What READ_LOG sees: the event log and the entries still in SRAM, in sequence order (R397). -/
def logView (s : Sled) : List LogEnt :=
  let ram := s.kpr.ring.map fun (x : Nat × Rec) =>
    ({ seq := x.1, boot := s.fl.boot, mod := moduleId s, hold := false, record := x.2 } : LogEnt)
  (s.fl.log ++ ram).foldl (fun l e => logInsert e l) []

/-- READ_LOG. -/
def fxReadLog (t : Transport) (q : Nat) : Sled → Sled :=
  kprCmd t 0x03 fun s => ((codeOk, (((logView s).filter fun e => q ≤ e.seq).take 15).flatMap logBytes), s)

/-- CLEAR_FAULT (R347, R392). -/
def fxClearFault (t : Transport) : Sled → Sled :=
  kprCmd t 0x04 fun s => ((codeOk, []), { s with kpr := { s.kpr with outstanding := 0 } })

/-- LOCATE. -/
def fxLocate (t : Transport) (on : Bool) : Sled → Sled :=
  kprCmd t 0x05 fun s => ((codeOk, []), { s with plat := { s.plat with locate := on } })

/-- SET_CAP (spec/19, R377): a cap below 400 W is out of range. -/
def fxSetCap (t : Transport) (watts : Nat) : Sled → Sled :=
  kprCmd t 0x06 fun s =>
    if watts < 400 then ((codeInvalid, []), s)
    else ((codeOk, []), rangeCheck { s with kpr := { s.kpr with runCap := some watts } })

/-- SET_OVERRIDE (R401). -/
def fxSetOverride (t : Transport) (p : Nat) : Sled → Sled :=
  kprCmd t 0x07 fun s =>
    if 4 ≤ p ∧ p ≠ 0xFF then ((codeInvalid, []), s)
    else if s.plat.updLock then ((codeLocked, []), s)
    else ((codeOk, []), { s with fl := { s.fl with override := s.fl.override.write (if p = 0xFF then none else some p) } })

/-- RESET with the warm operand (spec/03, R61). -/
def fxKeeperResetWarm (t : Transport) : Sled → Sled :=
  kprCmdC t 0x08 fun s => ((codeOk, []), warmReset 2 s)

/-- RESET with a tenant operand. -/
def fxKeeperResetTenant (t : Transport) (n : Nat) : Sled → Sled :=
  kprCmdC t 0x08 fun s => if 16 ≤ n then ((codeInvalid, []), s) else ((codeOk, []), tenantResetBegin n false s)

/-- RESET with a core operand: one that is under reset already is busy, one that does not run cannot be reset. -/
def fxKeeperResetCore (t : Transport) (core : Nat) : Sled → Sled :=
  kprCmdC t 0x08 fun s =>
    if 12 ≤ core then ((codeInvalid, []), s)
    else if s.plat.coreReset.any (·.1 = core) then ((codeBusy, []), s)
    else
      let u := coreResetBegin core false s
      if u.plat.coreReset = s.plat.coreReset then ((codeFailed, []), s) else ((codeOk, []), setCause 6 2 core u)

/-- FORCE_SEM (spec/18, R362). -/
def fxForceSem (t : Transport) (i v : Nat) : Sled → Sled :=
  kprCmdRails t 0x09 fun s =>
    if !islRuns s iNOC then ((codeFailed, []), s) else ((codeOk, []), forceSemOp i (sNat 32 v) s)

/-- RESCUE_DMA (spec/18, R361; spec/22, R436): a length above 16 MiB sets ERR and starts nothing. -/
def fxRescueDma (t : Transport) (n src dst len : Nat) (fill sig : Bool) : Sled → Sled :=
  kprCmdRails t 0x0A fun s =>
    if 4 ≤ n then ((codeInvalid, []), s)
    else if !islRuns s iNOC then ((codeFailed, []), s)
    else if s.kpr.rdma.any (·.n = n) then ((codeBusy, []), s)
    else ((if 2 ^ 24 < len then codeInvalid else codeOk, []), fxRescueDmaGo n src dst len fill sig s)

/-- SPARE_MAP read. -/
def fxSpareMapRead (t : Transport) : Sled → Sled :=
  kprCmd t 0x0B fun s => ((codeOk, (List.range 4).flatMap fun k => leBytes 8 (rGet s bKPR (8 + 8 * k))), s)

/-- SPARE_MAP clear: the stored map changes, and the next start that trains the stack loads it. -/
def fxSpareMapClear (t : Transport) (k : Nat) : Sled → Sled :=
  kprCmd t 0x0B fun s =>
    if 4 ≤ k then ((codeInvalid, []), s)
    else if s.plat.updLock then ((codeLocked, []), s)
    else ((codeOk, []), { s with fl := { s.fl with spares := s.fl.spares.write (ferase (s.fl.spares.cur.getD []) k) } })

/-- READ_REG: one register of 8 bytes. -/
def fxReadReg (t : Transport) (addr : Nat) : Sled → Sled :=
  kprCmd t 0x0C fun s =>
    if (regSplit addr).isNone ∨ addr % 8 ≠ 0 then ((codeInvalid, []), s)
    else
      let (v, s) := regLoad .keeper addr 8 s
      ((codeOk, leBytes 8 v), s)

/-- Component ID of Table 20-7. -/
def compId : Component → Nat
  | .keeper => 1
  | .runtime => 2
  | .profile n => 0x10 + n.val
  | .keyStore => 0x20

/-- ROLLBACK (R399): a committed component's directory entry switches for the next start; its floor stays. The key
store has no entry in the directory. -/
def fxRollback (t : Transport) (c : Component) : Sled → Sled :=
  kprCmd t 0x0D fun s =>
    if c = .keyStore then ((codeInvalid, []), s)
    else if s.plat.updLock then ((codeLocked, []), s)
    else if (ffind (trials s) (compId c)).isSome then ((codeFailed, []), s)
    else ((codeOk, []), dirWrite (dirSet (compId c) (1 - dirGet s (compId c))) s)

/-- KEEPER_RESTART (R386): answered, then the keeper restarts. -/
def fxKeeperRestart (t : Transport) (s : Sled) : Sled :=
  if s.kpr.phase = .running && answers s t then keeperRestartBegin (kprCmd t 0x0E (fun s => ((codeOk, []), s)) s)
  else kprCmd t 0x0E (fun s => ((codeOk, []), s)) s

/-- UNKNOWN_COMMAND: a code outside Table 20-3. -/
def fxUnknownCommand (t : Transport) (code : Nat) (s : Sled) : Sled :=
  if !answers s t ∨ (1 ≤ code ∧ code ≤ 0x0E) then s else reply t 0x7E code codeUnknown [] s

/-! ## MCTP control messages (R389) -/

/-- An MCTP control message, over SMBus or I3C. -/
def mctp (t : Transport) (cmd : Nat) (f : Sled → (Nat × List Byte) × Sled) (s : Sled) : Sled :=
  if !answers s t ∨ t.port = .doe then s
  else
    let ((code, body), s) := f s
    reply t 0 cmd code body s

/-- Set Endpoint ID: 0 and 0xFF are no endpoint IDs. -/
def fxSetEndpointId (t : Transport) (eid : Nat) : Sled → Sled :=
  mctp t 1 fun s =>
    if eid = 0 ∨ eid = 0xFF then ((codeInvalid, leBytes 1 s.kpr.mgmt.eid), s)
    else ((codeOk, leBytes 1 eid), { s with kpr := { s.kpr with mgmt := { s.kpr.mgmt with eid := eid } } })

def fxGetEndpointId (t : Transport) : Sled → Sled := mctp t 2 fun s => ((codeOk, leBytes 1 s.kpr.mgmt.eid), s)

/-- Get MCTP Version Support: the version numbers are the standard's. -/
def fxGetMctpVersionSupport (t : Transport) : Sled → Sled := mctp t 4 fun s => ((codeOk, Config.protocolBody 4), s)

/-- Get Message Type Support: PLDM 0x01, SPDM 0x05 and the vendor-defined type 0x7E. -/
def fxGetMessageTypeSupport (t : Transport) : Sled → Sled := mctp t 5 fun s => ((codeOk, [0x03, 0x01, 0x05, 0x7E]), s)

def fxGetVendorDefinedMsgSupport (t : Transport) : Sled → Sled := mctp t 6 fun s => ((codeOk, Config.protocolBody 6), s)

/-- ENTDAA assigns the I3C address. -/
def fxEntdaa (addr : Nat) (s : Sled) : Sled :=
  if aonRuns s then { s with kpr := { s.kpr with mgmt := { s.kpr.mgmt with i3cAddr := some addr } } } else s

/-! ## Alert, trial and restart -/

/-- SMBUS_ALERT_RESPONSE (R393): the keeper returns its address 0x4A. -/
def fxSmbusAlertResponse (s : Sled) : Sled :=
  if s.kpr.alert && s.kpr.phase = .running && aonRuns s then
    emit (.event 8 0x4A) { s with kpr := { s.kpr with alert := false } }
  else s

/-- KEEPER_TRIAL_COMMIT (R399): the keeper image has run for 10 s. -/
def fxKeeperTrialCommit (s : Sled) : Sled :=
  if s.kpr.phase ≠ .running ∨ s.now < s.kpr.startedAt + 10000 * ms then s
  else trialCommit 1 s.kpr.slot (((ffind s.fl.keeper (keeperAt s.kpr.slot)).map (·.secVersion)).getD 0) s

/-- KEEPER_RESTART_COMPLETE (R386, R399). A keeper that has never run since the always-on reset starts as at
power-on. -/
def fxKeeperRestartComplete (s : Sled) : Sled :=
  if s.kpr.phase ≠ .restarting then s
  else if s.plat.coolant.isNone then fxKeeperRomStart { s with kpr := { s.kpr with phase := .rom } }
  else
    let s := keeperTrial s
    match keeperSlot s with
    | none => { s with kpr := { s.kpr with phase := .recovery }, plat := { s.plat with heldPins := none } }
    | some k =>
      keeperRuns k { s with kpr := { s.kpr with hb := s.kpr.hb.map fun (h : Nat × Hb) => (h.1, { h.2 with since := s.now }) } }

/-! ## The meanings -/

def execKeeperTrialCommit (s : State) := lift fxKeeperTrialCommit s
def execSmbusAlertResponse (s : State) := lift fxSmbusAlertResponse s
def execGetIdentity (t : Transport) (s : State) := lift (fxGetIdentity t) s
def execGetStatus (t : Transport) (s : State) := lift (fxGetStatus t) s
def execReadLog (t : Transport) (q : Word) (s : State) := lift (fxReadLog t q.toNat) s
def execClearFault (t : Transport) (s : State) := lift (fxClearFault t) s
def execLocate (t : Transport) (on : Bool) (s : State) := lift (fxLocate t on) s
def execSetCap (t : Transport) (watts : BitVec 16) (s : State) := lift (fxSetCap t watts.toNat) s
def execSetOverride (t : Transport) (p : BitVec 8) (s : State) := lift (fxSetOverride t p.toNat) s
def execKeeperResetWarm (t : Transport) (s : State) := lift (fxKeeperResetWarm t) s
def execKeeperResetTenant (t : Transport) (n : BitVec 8) (s : State) := lift (fxKeeperResetTenant t n.toNat) s
def execKeeperResetCore (t : Transport) (core : BitVec 8) (s : State) := lift (fxKeeperResetCore t core.toNat) s
def execForceSem (t : Transport) (idx : BitVec 16) (value : BitVec 32) (s : State) :=
  lift (fxForceSem t idx.toNat value.toNat) s
def execRescueDma (t : Transport) (n : BitVec 8) (src dst : LAddr) (len : BitVec 25) (fill sig : Bool) (s : State) :=
  lift (fxRescueDma t n.toNat src.toNat dst.toNat len.toNat fill sig) s
def execSpareMapRead (t : Transport) (s : State) := lift (fxSpareMapRead t) s
def execSpareMapClear (t : Transport) (k : BitVec 8) (s : State) := lift (fxSpareMapClear t k.toNat) s
def execReadReg (t : Transport) (addr : LAddr) (s : State) := liftHold (fxReadReg t addr.toNat) s
def execRollback (t : Transport) (c : Component) (s : State) := lift (fxRollback t c) s
def execKeeperRestart (t : Transport) (s : State) := lift (fxKeeperRestart t) s
def execUnknownCommand (t : Transport) (code : BitVec 8) (s : State) := lift (fxUnknownCommand t code.toNat) s
def execSetEndpointId (t : Transport) (eid : BitVec 8) (s : State) := lift (fxSetEndpointId t eid.toNat) s
def execGetEndpointId (t : Transport) (s : State) := lift (fxGetEndpointId t) s
def execGetMctpVersionSupport (t : Transport) (s : State) := lift (fxGetMctpVersionSupport t) s
def execGetMessageTypeSupport (t : Transport) (s : State) := lift (fxGetMessageTypeSupport t) s
def execGetVendorDefinedMsgSupport (t : Transport) (s : State) := lift (fxGetVendorDefinedMsgSupport t) s
def execEntdaa (addr : BitVec 7) (s : State) := lift (fxEntdaa addr.toNat) s
def execKeeperRestartComplete (s : State) := lift fxKeeperRestartComplete s

end Sys2Proof.Machine
end

