-- ==== Sys2Proof/Machine/Mgmt.lean ====
section
/-! DEFINITION. PLDM base and monitoring (spec/20 R394), the firmware update with its flash operations (R388,
R398-R400), and SPDM (R395). Command codes and the bytes that a published standard fixes: notes/assumptions/17. -/

namespace Sys2Proof.Machine

open Sys2Proof

/-! ## PLDM types 0 and 2 (R394) -/

/-- A PLDM request of a type and command; in the recovery state only the firmware update is served (R88). -/
def pldm (t : Transport) (type cmd : Nat) (f : Sled → (Nat × List Byte) × Sled) (s : Sled) : Sled :=
  if !answers s t then s
  else if s.kpr.phase = .recovery ∧ (type ≠ 5 ∨ !s.fl.readable) then s
  else
    let ((code, body), s) := f s
    reply t 1 (type * 256 + cmd) code body s

def fxSetTid (t : Transport) (tid : Nat) : Sled → Sled :=
  pldm t 0 1 fun s =>
    if tid = 0 ∨ tid = 0xFF then ((codeInvalid, []), s)
    else ((codeOk, []), { s with kpr := { s.kpr with mgmt := { s.kpr.mgmt with tid := tid } } })

def fxGetTid (t : Transport) : Sled → Sled := pldm t 0 2 fun s => ((codeOk, leBytes 1 s.kpr.mgmt.tid), s)

def fxGetPldmVersion (t : Transport) : Sled → Sled := pldm t 0 3 fun s => ((codeOk, Config.protocolBody 0x103), s)

/-- GetPLDMTypes: types 0, 2 and 5 as a mask of 8 bytes. -/
def fxGetPldmTypes (t : Transport) : Sled → Sled := pldm t 0 4 fun s => ((codeOk, leBytes 8 0x25), s)

/-- Command codes of Table 20-4 that a type supports. -/
def pldmCmds (type : Nat) : List Nat :=
  if type = 0 then [1, 2, 3, 4, 5]
  else if type = 2 then [0x04, 0x0A, 0x11, 0x21, 0x50, 0x51]
  else if type = 5 then [0x01, 0x02, 0x10, 0x13, 0x14, 0x15, 0x16, 0x17, 0x18, 0x1A, 0x1B, 0x1C, 0x1D]
  else []

/-- GetPLDMCommands: the commands of a type as a mask of 32 bytes. -/
def fxGetPldmCommands (t : Transport) (type : Nat) : Sled → Sled :=
  pldm t 0 5 fun s =>
    if pldmCmds type = [] then ((codeInvalid, []), s)
    else ((codeOk, leBytes 32 ((pldmCmds type).foldl (fun m c => m + 2 ^ c) 0)), s)

/-- GetPDRRepositoryInfo: one record for each sensor, 99 numeric and the tier sensor. -/
def fxGetPdrRepositoryInfo (t : Transport) : Sled → Sled :=
  pldm t 2 0x50 fun s => ((codeOk, leBytes 4 100 ++ Config.protocolBody 0x250), s)

/-- GetPDR: the record handle is the sensor ID; a temperature sensor's record carries its throttle threshold as upper
warning and its critical threshold as upper fatal. -/
def fxGetPdr (t : Transport) (h : Nat) : Sled → Sled :=
  pldm t 2 0x51 fun s =>
    if (1 ≤ h ∧ h ≤ 99) ∨ h = 200 then
      let thr : List Byte := if h ≤ 97 then
          match throttleAt s (h - 1), critAt (h - 1) with
          | some a, some b => leBytes 2 a ++ leBytes 2 b
          | _, _ => []
        else []
      ((codeOk, leBytes 2 h ++ thr ++ Config.protocolBody 0x251), s)
    else ((codeInvalid, []), s)

/-- GetSensorReading: operational state (0 enabled, 4 failed) and the reading. -/
def fxGetSensorReading (t : Transport) (id : Nat) : Sled → Sled :=
  pldm t 2 0x11 fun s =>
    if 1 ≤ id ∧ id ≤ 97 then
      let x := sensor s (id - 1)
      ((codeOk, leBytes 1 (if x.broken then 4 else 0) ++ leBytes 2 x.reading), s)
    else if id = 98 then ((codeOk, leBytes 1 0 ++ leBytes 2 s.thm.pavg), s)
    else if id = 99 then ((codeOk, leBytes 1 0 ++ leBytes 2 (capOf s)), s)
    else ((codeInvalid, []), s)

/-- GetStateSensorReadings: sensor 200 reports the tier, 1 compute service or 2 watch-only; 0 before either. -/
def fxGetStateSensorReadings (t : Transport) (id : Nat) : Sled → Sled :=
  pldm t 2 0x21 fun s =>
    if id = 200 then
      ((codeOk, leBytes 1 0 ++ leBytes 1 (if s.kpr.tier = 2 then 1 else if s.kpr.tier = 1 then 2 else 0)), s)
    else ((codeInvalid, []), s)

def fxSetEventReceiver (t : Transport) (on : Bool) (eid : Nat) : Sled → Sled :=
  pldm t 2 0x04 fun s =>
    ((codeOk, []), { s with kpr := { s.kpr with mgmt := { s.kpr.mgmt with eventRx := if on then some eid else none } } })

/-! ## Firmware update (R398-R400) -/

/-- The slot or copy of a component that the start uses, if any (spec/04, R85). -/
def updUsed (s : Sled) (c : Nat) : Option Nat :=
  if c = 1 then (if s.kpr.phase = .running then some s.kpr.slot else none)
  else if c = 2 then (if s.kpr.digRt.isSome then some s.kpr.rtSlot else none)
  else if c = 0x20 then none
  else if s.kpr.digProf.isSome ∧ s.kpr.prof = c - 0x10 then some s.kpr.copy
  else none

/-- Slot or copy that an update of a component writes: the other than the started one, whatever the directory names
(R85; spec/20, R398); else the one that the directory does not name. -/
def updTarget (s : Sled) (c : Nat) : Nat := 1 - (updUsed s c).getD (dirGet s c)

/-- The slot or copy that an update would write is the one that runs (spec/04, R85). -/
def updInUse (s : Sled) (c : Nat) : Bool := updUsed s c = some (updTarget s c)

/-- The component may be updated now: no trial of it is pending, its target is not in use, and in the recovery state
it is the keeper's. -/
def updAllowed (s : Sled) (c : Nat) : Bool :=
  (ffind (trials s) c).isNone && !updInUse s c && (s.kpr.phase = .running || c = 1)

/-- Change the update session. -/
def setSession (x : Session) (s : Sled) : Sled := { s with kpr := { s.kpr with session := some x } }

def fxQueryDeviceIdentifiers (t : Transport) : Sled → Sled :=
  pldm t 5 0x01 fun s => ((codeOk, Config.protocolBody 0x501), s)

/-- GetFirmwareParameters: the versions of both slots, and the trials pending. -/
def fxGetFirmwareParameters (t : Transport) : Sled → Sled :=
  pldm t 5 0x02 fun s =>
    ((codeOk, words4 ((List.range 4).map (nth (dirOf s).versions)) ++ leBytes 1 (trialMask s) ++ Config.protocolBody 0x502), s)

/-- REQUEST_UPDATE (step 1). -/
def fxRequestUpdate (t : Transport) : Sled → Sled :=
  pldm t 5 0x10 fun s =>
    if s.plat.updLock ∨ s.kpr.session.isSome then ((codeFailed, []), s) else ((codeOk, []), setSession {} s)

/-- PASS_COMPONENT_TABLE (step 2). -/
def fxPassComponentTable (t : Transport) (c : Component) : Sled → Sled :=
  pldm t 5 0x13 fun s =>
    match s.kpr.session with
    | some x =>
      if x.phase = 2 ∨ !updAllowed s (compId c) then ((codeFailed, []), s)
      else ((codeOk, []), setSession { x with phase := 1, comps := compId c :: x.comps } s)
    | none => ((codeFailed, []), s)

/-- UPDATE_COMPONENT: the keeper asks for the first piece (step 3). -/
def fxUpdateComponent (t : Transport) (c : Component) (size : Nat) (img : UpdImage) : Sled → Sled :=
  pldm t 5 0x14 fun s =>
    match s.kpr.session with
    | some x =>
      if x.phase ≠ 1 ∨ !x.comps.contains (compId c) ∨ size = 0 ∨ !updAllowed s (compId c) then ((codeFailed, []), s)
      else ((codeOk, []), emit (.event 7 0) (setSession { x with
        phase := 2, comp := compId c, size := size, img := some img, asked := 0, written := 0 } s))
    | none => ((codeFailed, []), s)

/-- REQUEST_FIRMWARE_DATA: a piece arrives and waits for its flash operation; the keeper asks for the next one, or
reports TransferComplete (events 7 and 4). -/
def fxRequestFirmwareData (t : Transport) (len : Nat) (s : Sled) : Sled :=
  match s.kpr.session with
  | some x =>
    let k := min len (x.size - x.asked)
    if !answers s t ∨ x.phase ≠ 2 ∨ k = 0 then s
    else
      let s := setSession { x with asked := x.asked + k } { s with kpr := { s.kpr with ops := s.kpr.ops ++ [.updatePiece x.comp k] } }
      emit (if x.asked + k = x.size then .event 4 0 else .event 7 (x.asked + k)) s
  | none => s

/-- The written copy passes its checks (step 4): those of a keeper, runtime or profile image with the floor, or the
root's signature on a key store. -/
def updVerify (s : Sled) (c : Nat) : UpdImage → Bool
  | .fw i => (c = 1 && imageOk s 0 i) || (c = 2 && imageOk s 1 i)
  | .ppi p => 0x10 ≤ c && c < 0x14 && (ppiCheck s (c - 0x10) p).isNone
  | .keys _ root => c = 0x20 && root

/-- The inactive slot or copy holds nothing that verifies. -/
def updErase (c : Nat) (s : Sled) : Sled :=
  let x := updTarget s c
  if c = 1 then { s with fl := { s.fl with keeper := ferase s.fl.keeper (keeperAt x) } }
  else if c = 2 then { s with fl := { s.fl with runtime := ferase s.fl.runtime (runtimeAt x) } }
  else if c = 0x20 then s
  else { s with fl := { s.fl with prof := ferase s.fl.prof (profAt (c - 0x10) x) } }

/-- The verified image stands in the inactive slot; the directory switches to it and its trial begins (step 5). A key
store waits for its activation. -/
def updApply (c : Nat) (img : UpdImage) (x : Session) (s : Sled) : Sled :=
  let slot := updTarget s c
  let version (i : FwImage) (d : Dir) : Dir :=
    { d with versions := (List.range 4).map fun k => if k = (c - 1) * 2 + slot then i.version else nth d.versions k }
  let trial (s : Sled) : Sled := setTrials (fput (trials s) c slot) s
  let x := { x with phase := 1, img := none, done := c :: x.done }
  match img with
  | .fw i =>
    let s := if c = 1 then { s with fl := { s.fl with keeper := fput s.fl.keeper (keeperAt slot) i } }
      else { s with fl := { s.fl with runtime := fput s.fl.runtime (runtimeAt slot) i } }
    setSession x (trial (dirWrite (fun d => version i (dirSet c slot d)) s))
  | .ppi p =>
    setSession x (trial (dirWrite (dirSet c slot) { s with fl := { s.fl with prof := fput s.fl.prof (profAt (c - 0x10) slot) p } }))
  | .keys ks _ =>
    setSession { x with staged := some (ks.map fun (k : Nat × Nat × Bool) => { id := k.1, kind := k.2.1, revoked := k.2.2 }) } s

/-- A piece of an update has been written; the last one is followed by the verification: VerifyComplete (event 5,
1 on failure) and ApplyComplete (event 6). -/
def pieceDone (bytes : Nat) (s : Sled) : Sled :=
  match s.kpr.session with
  | none => s
  | some x =>
    let s := if x.written = 0 then updErase x.comp s else s
    let x := { x with written := x.written + bytes }
    let s := setSession x s
    if x.written < x.size then s
    else
      match x.img with
      | none => s
      | some img =>
        if updVerify s x.comp img && x.size ≤ slotSize x.comp then emit (.event 6 0) (updApply x.comp img x (emit (.event 5 0) s))
        else logRec (mkRec 0xA002 0) (emit (.event 5 1) (setSession { x with phase := 1, img := none } s))

/-- The next flash operation by priority: event log before update data (R388). The model takes keeper-state and
hold-up writes as complete at once. -/
def nextOp : List FlashOp → Option (FlashOp × List FlashOp)
  | [] => none
  | .logEntry n r :: l => some (.logEntry n r, l)
  | .updatePiece c b :: l =>
    match nextOp l with
    | some (.logEntry n r, l') => some (.logEntry n r, .updatePiece c b :: l')
    | _ => some (.updatePiece c b, l)

/-- FLASH_OPERATION_DONE. The last write of a quiesce lets the main rails go off. -/
def fxFlashOperationDone (s : Sled) : Sled :=
  if s.kpr.phase ≠ .running ∧ s.kpr.phase ≠ .recovery then s
  else
    match nextOp s.kpr.ops with
    | none => s
    | some (o, l) =>
      let s := { s with kpr := { s.kpr with ops := l } }
      quiescePower (match o with
        | .logEntry n r => logWrite n r s
        | .updatePiece _ b => pieceDone b s)

/-- ACTIVATE_FIRMWARE (step 6, Table 20-7): a key store comes into force, and a keeper image by a keeper restart; the
session ends. -/
def fxActivateFirmware (t : Transport) (s : Sled) : Sled :=
  match s.kpr.session with
  | some x =>
    if x.phase ≠ 1 ∨ x.done = [] then pldm t 5 0x1A (fun s => ((codeFailed, []), s)) s
    else if !answers s t then s
    else
      let s := reply t 1 0x51A codeOk [] s
      let s := match x.staged with
        | some ks => { s with fl := { s.fl with keys := s.fl.keys.write ks } }
        | none => s
      let s := { s with kpr := { s.kpr with session := none } }
      if x.done.contains 1 then keeperRestartBegin s else s
  | none => pldm t 5 0x1A (fun s => ((codeFailed, []), s)) s

/-- GetStatus: 0 idle, else the session's phase + 1, with the bytes written. -/
def fxPldmGetStatus (t : Transport) : Sled → Sled :=
  pldm t 5 0x1B fun s =>
    match s.kpr.session with
    | some x => ((codeOk, leBytes 1 (x.phase + 1) ++ leBytes 4 x.written), s)
    | none => ((codeOk, leBytes 1 0 ++ leBytes 4 0), s)

/-- Pieces of an update that wait for their flash operation are dropped. -/
def dropPieces (s : Sled) : Sled :=
  { s with kpr := { s.kpr with ops := s.kpr.ops.filter fun o => match o with
    | .updatePiece _ _ => false
    | _ => true } }

/-- CANCEL_UPDATE_COMPONENT. A partial copy stays unverifiable. -/
def fxCancelUpdateComponent (t : Transport) : Sled → Sled :=
  pldm t 5 0x1C fun s =>
    match s.kpr.session with
    | some x =>
      if x.phase = 2 then ((codeOk, []), dropPieces (setSession { x with phase := 1, img := none } s)) else ((codeFailed, []), s)
    | none => ((codeFailed, []), s)

/-- CANCEL_UPDATE. -/
def fxCancelUpdate (t : Transport) : Sled → Sled :=
  pldm t 5 0x1D fun s =>
    if s.kpr.session.isNone then ((codeFailed, []), s)
    else ((codeOk, []), dropPieces { s with kpr := { s.kpr with session := none } })

/-! ## SPDM (R395) -/

/-- An SPDM request: `f` answers none where it is refused, which is logged. -/
def spdm (t : Transport) (cmd : Nat) (f : Sled → Option (List Byte × Sled)) (s : Sled) : Sled :=
  if !answers s t ∨ s.kpr.phase ≠ .running then s
  else match f s with
    | some (body, s) => reply t 5 cmd codeOk body s
    | none => reply t 5 cmd codeFailed [] (logRec (mkRec 0xA004 0) s)

def setSpdm (n : Nat) (s : Sled) : Sled := { s with kpr := { s.kpr with mgmt := { s.kpr.mgmt with spdm := n } } }

/-- GET_VERSION: version 1.3; negotiation begins anew. -/
def fxGetVersion (t : Transport) : Sled → Sled := spdm t 0x84 fun s => some (leBytes 1 0x13, setSpdm 1 s)

def fxGetCapabilities (t : Transport) : Sled → Sled :=
  spdm t 0xE1 fun s => if s.kpr.mgmt.spdm = 1 then some (Config.protocolBody 0x8E1, setSpdm 2 s) else none

/-- NEGOTIATE_ALGORITHMS: only ECDSA P-384 with SHA-384. -/
def fxNegotiateAlgorithms (t : Transport) (ecdsa sha : Bool) : Sled → Sled :=
  spdm t 0xE3 fun s =>
    if s.kpr.mgmt.spdm = 2 && ecdsa && sha then some (Config.protocolBody 0x8E3, setSpdm 3 s) else none

def fxGetDigests (t : Transport) : Sled → Sled :=
  spdm t 0x81 fun s => if s.kpr.mgmt.spdm = 3 then some (Config.protocolBody 0x881, s) else none

/-- GET_CERTIFICATE: slot 0 only; a part of the chain from an offset on. -/
def fxGetCertificate (t : Transport) (slot off len : Nat) : Sled → Sled :=
  spdm t 0x82 fun s =>
    if s.kpr.mgmt.spdm = 3 ∧ slot = 0 then some (((Config.protocolBody 0x882).drop off).take len, s) else none

/-- The bytes of a signature by the device key over a message. -/
def signed (msg : List Byte) : List Byte := leBytes 96 (Config.deviceSign (leNat msg))

/-- CHALLENGE: a signature over the nonce and the chain's digest. -/
def fxChallenge (t : Transport) (slot nonce : Nat) : Sled → Sled :=
  spdm t 0x83 fun s =>
    if s.kpr.mgmt.spdm = 3 ∧ slot = 0 then some (signed (leBytes 32 nonce ++ Config.protocolBody 0x881), s) else none

/-- The raw floors record: the three floors and the boot count (Table 20-1). -/
def floorsRaw (s : Sled) : List Byte := words4 ((List.range 3).map (floorOf s)) ++ leBytes 4 s.fl.boot

/-- Measurement blocks (Table 20-5). -/
def measurement (s : Sled) (i : Nat) : List Byte :=
  if i = 1 then leBytes 48 Config.romDigest
  else if i = 2 then leBytes 48 (((ffind s.fl.keeper (keeperAt s.kpr.slot)).map fun x => Config.digest x.id).getD 0)
  else if i = 3 then leBytes 48 (s.kpr.digRt.getD 0)
  else if i = 4 then leBytes 48 (s.kpr.digProf.getD 0)
  else if i = 5 then leBytes 48 (Config.keysDigest ((s.fl.keys.cur.getD []).map fun k => (k.id, k.kind, k.revoked)))
  else floorsRaw s

/-- GET_MEASUREMENTS: index 0 asks for the number of blocks, 0xFF for all of them. -/
def fxGetMeasurements (t : Transport) (i nonce : Nat) : Sled → Sled :=
  spdm t 0xE0 fun s =>
    if s.kpr.mgmt.spdm ≠ 3 ∨ (6 < i ∧ i ≠ 0xFF) then none
    else
      let body := if i = 0 then leBytes 1 6
        else if i = 0xFF then [1, 2, 3, 4, 5, 6].flatMap (measurement s)
        else measurement s i
      some (body ++ signed (leBytes 32 nonce ++ body), s)

/-! ## The meanings -/

def execFlashOperationDone (s : State) := lift fxFlashOperationDone s
def execGetTid (t : Transport) (s : State) := lift (fxGetTid t) s
def execSetTid (t : Transport) (tid : BitVec 8) (s : State) := lift (fxSetTid t tid.toNat) s
def execGetPldmVersion (t : Transport) (s : State) := lift (fxGetPldmVersion t) s
def execGetPldmTypes (t : Transport) (s : State) := lift (fxGetPldmTypes t) s
def execGetPldmCommands (t : Transport) (type : BitVec 6) (s : State) := lift (fxGetPldmCommands t type.toNat) s
def execGetPdrRepositoryInfo (t : Transport) (s : State) := lift (fxGetPdrRepositoryInfo t) s
def execGetPdr (t : Transport) (handle : BitVec 32) (s : State) := lift (fxGetPdr t handle.toNat) s
def execGetSensorReading (t : Transport) (id : BitVec 16) (s : State) := lift (fxGetSensorReading t id.toNat) s
def execGetStateSensorReadings (t : Transport) (id : BitVec 16) (s : State) :=
  lift (fxGetStateSensorReadings t id.toNat) s
def execSetEventReceiver (t : Transport) (on : Bool) (eid : BitVec 8) (s : State) :=
  lift (fxSetEventReceiver t on eid.toNat) s
def execQueryDeviceIdentifiers (t : Transport) (s : State) := lift (fxQueryDeviceIdentifiers t) s
def execGetFirmwareParameters (t : Transport) (s : State) := lift (fxGetFirmwareParameters t) s
def execRequestUpdate (t : Transport) (s : State) := lift (fxRequestUpdate t) s
def execPassComponentTable (t : Transport) (c : Component) (s : State) := lift (fxPassComponentTable t c) s
def execUpdateComponent (t : Transport) (c : Component) (size : BitVec 32) (img : UpdImage) (s : State) :=
  lift (fxUpdateComponent t c size.toNat img) s
def execRequestFirmwareData (t : Transport) (len : Fin 1025) (s : State) := lift (fxRequestFirmwareData t len.val) s
def execActivateFirmware (t : Transport) (s : State) := lift (fxActivateFirmware t) s
def execPldmGetStatus (t : Transport) (s : State) := lift (fxPldmGetStatus t) s
def execCancelUpdateComponent (t : Transport) (s : State) := lift (fxCancelUpdateComponent t) s
def execCancelUpdate (t : Transport) (s : State) := lift (fxCancelUpdate t) s
def execGetVersion (t : Transport) (s : State) := lift (fxGetVersion t) s
def execGetCapabilities (t : Transport) (s : State) := lift (fxGetCapabilities t) s
def execNegotiateAlgorithms (t : Transport) (ecdsaP384 sha384 : Bool) (s : State) :=
  lift (fxNegotiateAlgorithms t ecdsaP384 sha384) s
def execGetDigests (t : Transport) (s : State) := lift (fxGetDigests t) s
def execGetCertificate (t : Transport) (slot : BitVec 4) (offset len : BitVec 16) (s : State) :=
  lift (fxGetCertificate t slot.toNat offset.toNat len.toNat) s
def execChallenge (t : Transport) (slot : BitVec 4) (nonce : BitVec 256) (s : State) :=
  lift (fxChallenge t slot.toNat nonce.toNat) s
def execGetMeasurements (t : Transport) (index : BitVec 8) (nonce : BitVec 256) (s : State) :=
  lift (fxGetMeasurements t index.toNat nonce.toNat) s

end Sys2Proof.Machine
end

