-- ==== Sys2Proof/Machine/Boot.lean ====
section
/-! DEFINITION. The end of the start and the end of service: steps 7 to 9 of the boot (spec/04 R80, R87, R88; spec/05
R102; spec/07 R130; spec/12 R224; spec/14 R270; spec/21 R411, R415), and the expiry of the quiesce time (spec/03 R56,
Table 3-4). -/

namespace Sys2Proof.Machine

open Sys2Proof

/-! ## Steps 7 and 8 (Table 4-6) -/

/-- Firmware writes a register of an island that runs; a register that is locked already keeps its value, and the write
is noted (spec/05, R102; spec/21, R411). -/
def fwSet (blk off v : Nat) (s : Sled) : Sled :=
  match blkIsland blk with
  | some i => if !islRuns s i then s else if lkLocked s blk off then lockHit s else rSet blk off v s
  | none => s

/-- Firmware fills the usable banks of a newly initialised stack with zero data and valid check bits (Table 7-1,
step 7). -/
def zeroFill (st : Nat) (s : Sled) : Sled :=
  if !bitAt s.kpr.fillPend st then s
  else
    let dead (a : Nat) : Bool := a < 2 ^ 40 && (coordOf a).stack = st && (getChan s st (coordOf a).chan).online
    { s with
      mem := fdrop s.mem fun a _ => dead a
      ecc := fdrop s.ecc fun w _ => dead (w * 32)
      kpr := { s.kpr with fillPend := setBit s.kpr.fillPend st false } }

/-- A channel after training: with a rank that has passed it is usable; with none it goes offline, which is logged (R87,
R88; spec/07, R131). -/
def chanEnd (st c : Nat) (s : Sled) : Sled :=
  let ch := getChan s st c
  if ch.online ∨ ch.off then s
  else if chanUsable s st c then chanUp st c s
  else logRec { mkRec 0x9008 (iMC st) with object := c * 64 + st * 1024 } (updChan st c (fun ch => { ch with off := true }) s)

/-- The end of training in a stack: its usable channels, the zero fill of step 7, and OWNER = 1 on every channel (Table
7-1, step 8). -/
def trainEnd (s : Sled) (st : Nat) : Sled :=
  if !islRuns s (iMC st) then s
  else
    let s := zeroFill st ((List.range 16).foldl (fun s c => chanEnd st c s) s)
    (List.range 16).foldl (fun s c => ownerSet st c s) s

/-- List one value for every key of a run, in place of what stood there. -/
def fputRun {α : Type} (m : FMap α) (lo n : Nat) (x : α) : FMap α :=
  m.filter (fun p => p.1 < lo) ++ (List.range n).map (fun i => (lo + i, x)) ++ m.filter (fun p => lo + n ≤ p.1)

/-- Every object of a tenant's ranges is allocated to it with value 0 and peer mask 0 (spec/12, R224). -/
def allocTenant (t : Nat) (c : TenantCfg) (s : Sled) : Sled :=
  { s with
    ctr := fputRun s.ctr c.ctrLo c.ctrN { owner := t, valid := true }
    sem := fputRun s.sem c.semLo c.semN { owner := t, valid := true } }

/-- The fields of a MAP_REGION word; its other bits are reserved and hold 0 (spec/05, Table 5-2; spec/21, R409). -/
def regionMask : Nat := 0x3FF03FF00F3

/-- The profile's mapping, routes, tenants and stream settings, each from the section that holds it (R76). -/
def applySections (p : Ppi) (s : Sled) : Sled :=
  let c := p.cfg
  let s := (List.range 16).foldl (fun s n => fwSet bMAP (8 * n) (nth (c.regions.map (·.toNat)) n &&& regionMask) s) s
  let s := (List.range 13).foldl (fun s n => fwSet bMAP (0x80 + 8 * n) (nth (c.masks.map (·.toNat)) n % 2 ^ 40) s) s
  let s := (List.range 256).foldl (fun s n => fwSet bMAP (0x800 + 8 * n) ((fget c.routes 0 n).toNat % 2 ^ 23) s) s
  let s := if islRuns s iNOC then c.tenants.zipIdx.foldl (fun s (x : TenantCfg × Nat) => allocTenant x.2 x.1 s) s else s
  let s := c.tenants.zipIdx.foldl (fun s (x : TenantCfg × Nat) => fwSet bSTE (0x300 + 8 * x.2) x.1.slots s) s
  let s := fwSet bSTE 0x208 (registryBase c) s
  if !islRuns s iSTE then s
  else
    let s := (List.range 3).foldl (fun s k => loadCurve k (pwlDefault k) s) s
    if !p.sections.contains 5 then s
    else c.pwl.zipIdx.foldl (fun s (x : PwlImage × Nat) => if x.2 < 16 then loadCurve x.2 x.1 s else s) s

/-- One preload entry: a firmware write of 8 bytes; its lock flag locks the register (spec/21, R411). -/
def preloadOne (s : Sled) (e : Preload) : Sled :=
  let s := regWrite (.cc 0) (regAddr e.block e.offset) 8 e.value.toNat s
  if !e.lock ∨ (regFields e.block e.offset).isNone then s
  else
    let k := regKey e.block e.offset
    let s := if s.locked.contains k then s else { s with locked := s.locked ++ [k] }
    if isLk e.block e.offset ∨ (e.block = bGLB ∧ e.offset = 0x20) then rSetField e.block e.offset 63 1 1 s else s

/-- The LOCK bits of the mapping, the routes and GLB_COMPAT (spec/05, R102; spec/16, R314; spec/21, R415). -/
def lockMapping (s : Sled) : Sled :=
  let lockOne (off : Nat) (s : Sled) : Sled := if islRuns s iNOC then rSetField bMAP off 63 1 1 s else s
  let s := (List.range 29).foldl (fun s n => lockOne (8 * n) s) s
  let s := (List.range 256).foldl (fun s n => lockOne (0x800 + 8 * n) s) s
  rSetField bGLB 0x20 63 1 1 s

/-! ## Step 9 and READY -/

/-- Meridian link bring-up starts on the links of the profile, and the host port is enabled. -/
def startPorts (c : ProfileCfg) (s : Sled) : Sled :=
  let s := (List.range 16).foldl (fun s l =>
    if bitAt c.links l && islRuns s (iL l) then linkEnable l true s else s) s
  if c.hostPort then { s with hst := { s.hst with retry := false } } else s

/-- The start commits the trials of what it used (spec/20, R399). -/
def startCommits (p : Ppi) (s : Sled) : Sled :=
  let sec := ((ffind s.fl.runtime (runtimeAt s.kpr.rtSlot)).map (·.secVersion)).getD 0
  trialCommit (0x10 + s.kpr.prof) s.kpr.copy p.secVersion (trialCommit 2 s.kpr.rtSlot sec s)

/-- Compute service is reported: the tier changes unless a warm start kept it (R79, R87). -/
def serviceUp (s : Sled) : Sled :=
  let was := s.kpr.tier
  let s := { s with kpr := { s.kpr with tier := 2, booted := true }, plat := { s.plat with ready := true } }
  if was = 2 then s else platEvent 2 1 (alertOn s)

/-- The preload list of section 0x0006. -/
def preloads (p : Ppi) : List Preload := if p.sections.contains 6 then p.cfg.preload else []

/-- READY_RAISE: the rest of the boot, up to READY; watch-only where the compute set is not complete. -/
def fxReadyRaise (s : Sled) : Sled :=
  if s.ccRunning = 0 ∨ s.kpr.booted ∨ s.kpr.tier = 1 ∨ s.plat.rails ≠ .up ∨ s.plat.quiesce ≠ .none ∨
      s.kpr.phase ≠ .running then s
  else match s.prof with
    | none => s
    | some p =>
      let s := (List.range 9).foldl trainEnd s
      if !computeSet s then watchOnly 0x9008 s
      else
        let s := lockMapping ((preloads p).foldl preloadOne (applySections p s))
        startCommits p (serviceUp (startPorts p.cfg s))

/-! ## Quiesce (Table 3-4) -/

/-- Streams are exported as capsules to the removal policy's destination, one after another (step 3;
notes/assumptions/32). -/
def exportAll (s : Sled) : Sled :=
  match (s.prof.map (·.cfg.removal)).join with
  | none => s
  | some dst =>
    if !islRuns s iSTE then s
    else
      (s.ste.streams.foldl (fun (x : Nat × Sled) (p : Nat × Strm) =>
        let w : Who := { kind := 6, tenant := some p.2.tenant, island := iSTE }
        let (c, s) := capsule w p.1 2 p.2 x.2
        (x.1 + ceilDiv c.length 64 * 64, writeGlobal (2 ^ 40) p.2.tenant x.1 c s)) (dst, s)).2

/-- A link has something to send that it may send now. -/
def linkBusy (s : Sled) (l : Nat) : Bool :=
  let k := getLnk s l
  k.state = 6 && (k.nakOwed || !k.replay.isEmpty || (!(readyVcs k).isEmpty && k.retry.length < retryDepth k))

/-- Flits leave an ACTIVE link until nothing that may go is left. -/
def drainLink (l : Nat) : Nat → Sled → Sled
  | 0, s => s
  | fuel + 1, s => if linkBusy s l then drainLink l fuel (fxFlitTimeSend l s) else s

/-- Step 5: LEAVE goes out on every ACTIVE link (spec/16, R325), the links drain and are taken down, and the host link
is disabled (spec/17, R342). -/
def linksLeave (s : Sled) : Sled :=
  let s := (List.range 16).foldl (fun s l =>
    let k := getLnk s l
    if k.state ≠ 6 ∨ !linkOn s l then s
    else
      let m : Msg := { kind := 11, h := { hleft := 1, dest := BitVec.ofNat 8 k.peer, src := BitVec.ofNat 8 (moduleId s)
                                          tenant := 0, addr := 0, tag := 0, arg := 0, data := [] } }
      let n := (k.tx.toList.flatten).length + k.replay.length + 2
      drainLink l n (pushTx l m s)) s
  let s := (List.range 16).foldl (fun s l => linkEmpty l (setLink l 0 (rSetField (bLNK l) 0 0 1 0 s))) s
  { s with hst := { s.hst with up := false, speed := 0, width := 0, flit := false } }

/-- QUIESCE_TQ_EXPIRE (steps 4 and 5): every tenant that still has a running task is reset, and the ports go down. -/
def fxQuiesceTqExpire (s : Sled) : Sled :=
  if s.plat.quiesce ≠ .draining then s
  else
    let s := exportAll s
    let busy := (List.range 16).filter (tenantBusy s)
    let s := busy.foldl (fun s t => tenantResetBegin t false s) s
    quiescePower (linksLeave { s with plat := { s.plat with quiesce := .expired } })

/-! ## The meanings -/

def execReadyRaise (s : State) := liftHold fxReadyRaise s
def execQuiesceTqExpire (s : State) := liftHold fxQuiesceTqExpire s

end Sys2Proof.Machine
end

