-- ==== Sys2Proof/Machine/ScalarEngine.lean ====
section
/-! DEFINITION. The scalar engine's memory accesses (spec/10 R204-R208; spec/11 R215, R221): its data cache, plain and
volatile loads and stores, and the cache instructions. The meanings stand at the end. -/

namespace Sys2Proof.Machine

open Sys2Proof

/-- The scalar engine of core `c` can issue its next access. -/
def seActs (s : Sled) (c : Nat) : Bool :=
  islRuns s (iVC c) && (fget s.vc {} c).seRun && !(fget s.vc {} c).seWait

/-- The scalar engine as requester. -/
def whoSe (s : Sled) (c : Nat) : Who := whoAgent s (.se (Fin.ofNat 8 c))

/-! ## Addresses (spec/05, R92; spec/10, R192) -/

/-- Module and local address of an SE address: below 2^40 it is local, and so is a global address of this sled; none
above 48 bits. -/
def seSplit (s : Sled) (a : Nat) : Option (Option Nat × Nat) :=
  if a < 2 ^ 40 then some (none, a)
  else if 2 ^ 48 ≤ a then none
  else if a / 2 ^ 40 = moduleId s then some (none, a % 2 ^ 40)
  else some (some (a / 2 ^ 40), a % 2 ^ 40)

/-- The core's own scratchpad and local DRAM are cached (R204's introduction). -/
def seCached (c l : Nat) : Bool := l < 2 ^ 39 || scratchOf l = some c

/-- Sets and ways: 1,024 lines of 64 bytes, four ways. -/
def seSets : Nat := 256
def seWays : Nat := 4

/-! ## Lines -/

def getLine (s : Sled) (c k : Nat) : Option Line := ffind (fget s.vc {} c).cache k

/-- Put or remove (none) line `k` of a core's cache. -/
def setLine (c k : Nat) (x : Option Line) (s : Sled) : Sled :=
  let v := fget s.vc {} c
  { s with vc := fset s.vc {} c { v with cache := match x with
    | some l => fput v.cache k l
    | none => ferase v.cache k } }

/-- Write back half `h` of a line: the dirty bytes of one 32-byte word (R204). A word that is no longer mapped takes
nothing, which is logged. -/
def flushHalf (c k h : Nat) (l : Line) (s : Sled) : Sled :=
  let m := bitsOf l.dirty.toNat (32 * h) 32
  let a := k * 64 + 32 * h
  if m = 0 then s
  else match placeOf s a with
    | some p => writeWord p m (leBytes 32 (bitsOf l.data.toNat (256 * h) 256)) s
    | none => logUnmapped (whoSe s c) a (ownerIsland s a) s

/-- Write back a line's dirty bytes; it stays valid and clean. -/
def flushLine (c k : Nat) (s : Sled) : Sled :=
  match getLine s c k with
  | some l => setLine c k (some { l with dirty := 0 }) (flushHalf c k 1 l (flushHalf c k 0 l s))
  | none => s

/-- Drop a line. -/
def dropLine (c k : Nat) : Sled → Sled := setLine c k none

/-- Fill line `k` from the point of coherence. A full set first evicts one of its lines, which the spec does not name:
a free value chooses it (notes/assumptions/3). -/
def fillLine (c k : Nat) (s : Sled) : Sled :=
  if (getLine s c k).isSome then s
  else
    let set := (fget s.vc {} c).cache.filter fun (x : Nat × Line) => x.1 % seSets = k % seSets
    let s := if set.length < seWays then s
      else
        let (v, s) := nextFree s
        let victim := nth (set.map (·.1)) (v % set.length)
        dropLine c victim (flushLine c victim s)
    let ((l, _), s) := readLocal (k * 64) 64 s
    let half (h : Nat) : Nat := b2n (anyPoison ((l.drop (32 * h)).take 32))
    setLine c k (some { data := BitVec.ofNat 512 (leNat (l.map (·.1))), pois := BitVec.ofNat 2 (half 0 + 2 * half 1) }) s

/-! ## Exceptions (R208) -/

/-- An access that R190 would reject: ENG_ADDR_FAULT, and a load (5) or store (7) access fault. -/
def seAddrFault (c a : Nat) (store : Bool) (s : Sled) : Sled :=
  seFault c (if store then 7 else 5) a
    (logRec (recAddr false (a % 2 ^ 40) (a / 2 ^ 40 % 256) (recWho s 0xB003 (whoSe s c))) s)

/-- A load of a poisoned word: ENG_POISON, and a load access fault. -/
def sePoison (c a : Nat) (s : Sled) : Sled :=
  seFault c 5 a (logRec (recAddr false (a % 2 ^ 40) (moduleId s) (recWho s 0xB004 (whoSe s c))) s)

/-- An encoding that is no instruction: an illegal-instruction exception, with no faulting address to report. -/
def seIllegal (c : Nat) (s : Sled) : Sled :=
  let (v, s) := nextFree s
  seFault c 2 v s

/-- The program's tenant reaches all of [l, l + n), and it is mapped. -/
def seReach (s : Sled) (c l n : Nat) : Bool := tenantReach s (fget s.vc {} c).seTenant l n && allMapped s l n

/-! ## Cached accesses (R215) -/

/-- Load `n` bytes from the line at and after offset `o`: its bytes and whether one that the SE has not written is
poisoned. -/
def lineBytes (l : Line) (o n : Nat) : List (Byte × Bool) :=
  (List.range n).map fun i =>
    (BitVec.ofNat 8 (bitsOf l.data.toNat (8 * (o + i)) 8), bitAt l.pois.toNat ((o + i) / 32) && !bitAt l.dirty.toNat (o + i))

/-- Cached load, line by line. -/
def cacheLoad (c : Nat) : Nat → Nat → Nat → Sled → List (Byte × Bool) × Sled
  | 0, _, _, s => ([], s)
  | fuel + 1, a, n, s =>
    if n = 0 then ([], s)
    else
      let k := min n (64 - a % 64)
      let s := fillLine c (a / 64) s
      let x := match getLine s c (a / 64) with
        | some l => lineBytes l (a % 64) k
        | none => []
      let (rest, s) := cacheLoad c fuel (a + k) (n - k) s
      (x ++ rest, s)

/-- Cached store, line by line: bytes change in the line alone. -/
def cacheStore (c : Nat) : Nat → Nat → List Byte → Sled → Sled
  | 0, _, _, s => s
  | fuel + 1, a, d, s =>
    if d.isEmpty then s
    else
      let k := min d.length (64 - a % 64)
      let o := a % 64
      let s := fillLine c (a / 64) s
      let s := match getLine s c (a / 64) with
        | some l =>
          setLine c (a / 64) (some { l with
            data := BitVec.ofNat 512 (setBits l.data.toNat (8 * o) (8 * k) (leNat (d.take k)))
            dirty := l.dirty ||| BitVec.ofNat 64 ((2 ^ k - 1) * 2 ^ o) }) s
        | none => s
      cacheStore c fuel (a + k) (d.drop k) s

/-! ## Uncached accesses (R206, R221) -/

/-- Put a load's value into rd, unless a byte is poisoned. -/
def seResult (c rd f3 a : Nat) (l : List (Byte × Bool)) (s : Sled) : Sled :=
  if anyPoison l then sePoison c a s else setX c rd (loadVal f3 (leNat (l.map (·.1)))) s

/-- A load of the local sync store. -/
def seSyncLoad (c rd f3 off n : Nat) (s : Sled) : Sled :=
  if !islRuns s iNOC then setX c rd 0 (logUnmapped (whoSe s c) (0x8100000000 + off) iNOC s)
  else match syncAccess (whoSe s c) off (hostAcc false off n) 0 s with
    | (.inl v, s) => setX c rd (loadVal f3 v) s
    | (.inr code, s) =>
      let (v, s) := loadFail code s
      setX c rd v s

/-- A store to the local sync store; a refused or blocked one is dropped. -/
def seSyncStore (c off n v : Nat) (s : Sled) : Sled :=
  if !islRuns s iNOC then logUnmapped (whoSe s c) (0x8100000000 + off) iNOC s
  else (syncAccess (whoSe s c) off (hostAcc true off n) v s).2

/-- An address of the sync store's region. -/
def inSync (l : Nat) : Bool := 0x8100000000 ≤ l && l < 0x8100200000

/-- A load of Table 12-3, or of the region that it leaves unmapped; a wait or take window takes none (spec/12, R225). -/
def syncLoadOk (off acc : Nat) : Bool :=
  if off < 0x20000 || (0x40000 ≤ off && off < 0xC0000) then acc ≤ 1
  else if off < 0x1C0000 then false
  else off ≥ 0x1E8000 || acc = 7

/-- Send a load to another sled: a SYNC_OP for its sync store, refused here where Table 12-3 has none such (spec/12, R241);
else a READ. -/
def seRemoteLoad (c m rd f3 l n : Nat) (s : Sled) : Sled :=
  let w := whoSe s c
  let t := w.tenant.getD 0
  let s' := stallSe w s
  if inSync l then
    let off := l - 0x8100000000
    let acc := hostAcc false off n
    if syncLoadOk off acc then issue m 7 t l acc (leBytes 16 0) 0 (.seLoad c rd f3) 0 s'
    else
      let o := storeObj off
      let (v, s) := loadFail 0x1008 (logSyncAt m 0x1008 w o.1 o.2 0 0 s)
      setX c rd v s
  else issue m 2 t l n [] 0 (.seLoad c rd f3) n s'

/-- Send a store to another sled: a signal, a semaphore add or a mask for its sync store, refused here where it is none of them
(R227); an access to its reserved region; else a WRITE. -/
def seRemoteStore (c m l n v : Nat) (s : Sled) : Sled :=
  let w := whoSe s c
  if inSync l then
    let off := l - 0x8100000000
    let acc := hostAcc true off n
    let a : Agent := .se (Fin.ofNat 8 c)
    if off < 0x20000 ∧ (acc = 2 ∨ acc = 3) then fxCounterSignal a m (off / 8) (acc = 3) v s
    else if 0x40000 ≤ off ∧ off < 0xC0000 ∧ (acc = 2 ∨ acc = 3) then fxSemaphoreAdd a m ((off - 0x40000) / 8) (acc = 3) v s
    else if (0x1C0000 ≤ off ∧ acc = 8) ∨ 0x1E8000 ≤ off then
      issue m 7 (w.tenant.getD 0) l acc (leBytes 16 v) 0 (.posted w) 0 (stallSe w s)
    else
      let o := storeObj off
      logSyncAt m 0x1008 w o.1 o.2 v 0 s
  else issueWrites n m (w.tenant.getD 0) l (cleanBytes (leBytes n v)) (.seStore c) (stallSe w s)

/-- A load at the point of coherence. -/
def uncachedLoad (c rd f3 a l n : Nat) (s : Sled) : Sled :=
  if inSync l then seSyncLoad c rd f3 (l - 0x8100000000) n s
  else if (regSplit l).isSome then
    let (v, s) := regLoad (.se (Fin.ofNat 8 c)) l n s
    setX c rd (loadVal f3 v) s
  else if seReach s c l n then
    let ((x, _), s) := readLocal l n s
    seResult c rd f3 a x s
  else seAddrFault c a false s

/-- A store at the point of coherence. -/
def uncachedStore (c a l n v : Nat) (s : Sled) : Sled :=
  if inSync l then seSyncStore c (l - 0x8100000000) n v s
  else if (regSplit l).isSome then regWrite (.se (Fin.ofNat 8 c)) l n v s
  else if seReach s c l n then writeLocal l (cleanBytes (leBytes n v)) s
  else seAddrFault c a true s

/-- Bytes of an access by its funct3. -/
def f3Bytes (f3 : Nat) : Nat := 2 ^ (f3 % 4)

/-- A load: plain from the cache where the address is cached; volatile from the point of coherence after the line's
write-back (R206). -/
def seLoadOp (vol : Bool) (c f3 rd a : Nat) (s : Sled) : Sled :=
  if !seActs s c then s
  else if f3 = 7 then seIllegal c s
  else
    let n := f3Bytes f3
    match seSplit s a with
    | none => seAddrFault c a false s
    | some (some m, l) => seRemoteLoad c m rd f3 l n s
    | some (none, l) =>
      if !seCached c l then uncachedLoad c rd f3 a l n s
      else if !seReach s c l n then seAddrFault c a false s
      else if vol then uncachedLoad c rd f3 a l n (flushLine c ((l + n - 1) / 64) (flushLine c (l / 64) s))
      else
        let (x, s) := cacheLoad c 2 l n s
        seResult c rd f3 a x s

/-- A store: plain into the cached line; volatile to the point of coherence after the line's write-back and
invalidation. -/
def seStoreOp (vol : Bool) (c f3 a v : Nat) (s : Sled) : Sled :=
  if !seActs s c then s
  else if 4 ≤ f3 then seIllegal c s
  else
    let n := f3Bytes f3
    match seSplit s a with
    | none => seAddrFault c a true s
    | some (some m, l) => seRemoteStore c m l n v s
    | some (none, l) =>
      if !seCached c l then uncachedStore c a l n v s
      else if !seReach s c l n then seAddrFault c a true s
      else if vol then
        let k := l / 64
        let k' := (l + n - 1) / 64
        uncachedStore c a l n v (dropLine c k' (flushLine c k' (dropLine c k (flushLine c k s))))
      else cacheStore c 2 l (leBytes n v) s

def fxSeLoad (c f3 rd a : Nat) : Sled → Sled := seLoadOp false c f3 rd a
def fxSeStore (c f3 a v : Nat) : Sled → Sled := seStoreOp false c f3 a v
def fxLdv (c f3 rd a : Nat) : Sled → Sled := seLoadOp true c f3 rd a
def fxSdv (c f3 a v : Nat) : Sled → Sled := seStoreOp true c f3 a v

/-! ## Cache instructions (R205, R207) -/

/-- The line that holds an address of this sled. -/
def lineOf (s : Sled) (a : Nat) : Option Nat :=
  match seSplit s a with
  | some (none, l) => some (l / 64)
  | _ => none

/-- A cache instruction on the line holding an address: none present, it only retires. -/
def onLine (c a : Nat) (f : Nat → Sled → Sled) (s : Sled) : Sled :=
  if !seActs s c then s
  else match lineOf s a with
    | some k => if (getLine s c k).isSome then f k s else s
    | none => s

def fxScInv (c a : Nat) : Sled → Sled := onLine c a (dropLine c)
def fxScFlush (c a : Nat) : Sled → Sled := onLine c a (flushLine c)
def fxScFlinv (c a : Nat) : Sled → Sled := onLine c a fun k s => dropLine c k (flushLine c k s)

/-- SC.ALL: 0 INV, 1 FLUSH, 2 FLINV over all lines; 3 is reserved. -/
def fxScAll (c imm : Nat) (s : Sled) : Sled :=
  if !seActs s c then s
  else if imm = 3 then seIllegal c s
  else
    let keys := (fget s.vc {} c).cache.map (·.1)
    let s := if imm = 0 then s else keys.foldl (fun s k => flushLine c k s) s
    if imm = 1 then s else keys.foldl (fun s k => dropLine c k s) s

/-! ## The meanings -/

def execSeLoad (core : CoreId) (f3 : BitVec 3) (rd : BitVec 5) (addr : Word) (s : State) :=
  liftHold (fxSeLoad core.val f3.toNat rd.toNat addr.toNat) s
def execSeStore (core : CoreId) (f3 : BitVec 3) (addr : Word) (data : Word) (s : State) :=
  liftHold (fxSeStore core.val f3.toNat addr.toNat data.toNat) s
def execLdv (core : CoreId) (f3 : BitVec 3) (rd : BitVec 5) (addr : Word) (s : State) :=
  liftHold (fxLdv core.val f3.toNat rd.toNat addr.toNat) s
def execSdv (core : CoreId) (f3 : BitVec 3) (addr : Word) (data : Word) (s : State) :=
  liftHold (fxSdv core.val f3.toNat addr.toNat data.toNat) s
def execScInv (core : CoreId) (addr : Word) (s : State) := liftHold (fxScInv core.val addr.toNat) s
def execScFlush (core : CoreId) (addr : Word) (s : State) := liftHold (fxScFlush core.val addr.toNat) s
def execScFlinv (core : CoreId) (addr : Word) (s : State) := liftHold (fxScFlinv core.val addr.toNat) s
def execScAll (core : CoreId) (imm : BitVec 2) (s : State) := liftHold (fxScAll core.val imm.toNat) s

end Sys2Proof.Machine
end

