-- ==== Sys2Proof/Machine/Dispatch.lean ====
section
/-! DEFINITION. The meaning of each command: one arm per row of the table, one direct call each. -/

namespace Sys2Proof.Machine

def exec (i : Instr) (s : State) : Host.Outcome State Fault Refusal :=
  match i with
  | .strapWindowEnd samples => Sys2Proof.Machine.execStrapWindowEnd samples s
  | .updLockNDebounced asserted => Sys2Proof.Machine.execUpdLockNDebounced asserted s
  | .removeReqNDebounced asserted => Sys2Proof.Machine.execRemoveReqNDebounced asserted s
  | .mainRailFault rail => Sys2Proof.Machine.execMainRailFault rail s
  | .firstPwrDemandWrite watts => Sys2Proof.Machine.execFirstPwrDemandWrite watts s
  | .runtimeRelease selfTest => Sys2Proof.Machine.execRuntimeRelease selfTest s
  | .glbResetWarm a => Sys2Proof.Machine.execGlbResetWarm a s
  | .tenantRst a t => Sys2Proof.Machine.execTenantRst a t s
  | .coreRst a core => Sys2Proof.Machine.execCoreRst a core s
  | .registerWrite a addr size value => Sys2Proof.Machine.execRegisterWrite a addr size value s
  | .unmappedAccess a addr write => Sys2Proof.Machine.execUnmappedAccess a addr write s
  | .glbCompatWrite a kt3 lock => Sys2Proof.Machine.execGlbCompatWrite a kt3 lock s
  | .mapProbe a addr => Sys2Proof.Machine.execMapProbe a addr s
  | .requestEnqueue port addr wr => Sys2Proof.Machine.execRequestEnqueue port addr wr s
  | .channelSlotArbitrate s0 c => Sys2Proof.Machine.execChannelSlotArbitrate s0 c s
  | .urgencyRaise s0 c entry => Sys2Proof.Machine.execUrgencyRaise s0 c entry s
  | .batchWindowClose s0 c b => Sys2Proof.Machine.execBatchWindowClose s0 c b s
  | .refreshOwedIncrement s0 c b => Sys2Proof.Machine.execRefreshOwedIncrement s0 c b s
  | .caparAlert s0 c r reads => Sys2Proof.Machine.execCaparAlert s0 c r reads s
  | .caparRecovWaitEnd s0 c => Sys2Proof.Machine.execCaparRecovWaitEnd s0 c s
  | .caparReplayWindowEnd s0 c => Sys2Proof.Machine.execCaparReplayWindowEnd s0 c s
  | .trainStepGo s0 c stp r fin => Sys2Proof.Machine.execTrainStepGo s0 c stp r fin s
  | .trainStepDone s0 c res => Sys2Proof.Machine.execTrainStepDone s0 c res s
  | .mcDlyDataWrite s0 taps => Sys2Proof.Machine.execMcDlyDataWrite s0 taps s
  | .retrainPauseDue s0 c => Sys2Proof.Machine.execRetrainPauseDue s0 c s
  | .retrainPauseEnd s0 c res => Sys2Proof.Machine.execRetrainPauseEnd s0 c res s
  | .speedChangeRequest s0 bin => Sys2Proof.Machine.execSpeedChangeRequest s0 bin s
  | .speedChangeStart s0 => Sys2Proof.Machine.execSpeedChangeStart s0 s
  | .pllLockConfirmed s0 => Sys2Proof.Machine.execPllLockConfirmed s0 s
  | .pllLockTimeout s0 => Sys2Proof.Machine.execPllLockTimeout s0 s
  | .bcsQdoor a s0 q value => Sys2Proof.Machine.execBcsQdoor a s0 q value s
  | .bcsProgramStart s0 => Sys2Proof.Machine.execBcsProgramStart s0 s
  | .bcsOpen s0 ahead => Sys2Proof.Machine.execBcsOpen s0 ahead s
  | .bcsClose s0 ahead => Sys2Proof.Machine.execBcsClose s0 ahead s
  | .bcsBau s0 ahead => Sys2Proof.Machine.execBcsBau s0 ahead s
  | .bcsBcw s0 ahead busErrors => Sys2Proof.Machine.execBcsBcw s0 ahead busErrors s
  | .bcsRead s0 ahead => Sys2Proof.Machine.execBcsRead s0 ahead s
  | .bcsSet s0 => Sys2Proof.Machine.execBcsSet s0 s
  | .bcsSignal s0 => Sys2Proof.Machine.execBcsSignal s0 s
  | .bcsEnd s0 => Sys2Proof.Machine.execBcsEnd s0 s
  | .bld b f => Sys2Proof.Machine.execBld b f s
  | .bst b f => Sys2Proof.Machine.execBst b f s
  | .bmac b f => Sys2Proof.Machine.execBmac b f s
  | .bdot b f => Sys2Proof.Machine.execBdot b f s
  | .badd b f => Sys2Proof.Machine.execBadd b f s
  | .bmul b f => Sys2Proof.Machine.execBmul b f s
  | .bfma b f => Sys2Proof.Machine.execBfma b f s
  | .bema b f => Sys2Proof.Machine.execBema b f s
  | .bscale b f => Sys2Proof.Machine.execBscale b f s
  | .bcvtDequantise b f => Sys2Proof.Machine.execBcvtDequantise b f s
  | .bcvtNarrow b f => Sys2Proof.Machine.execBcvtNarrow b f s
  | .bmax b f => Sys2Proof.Machine.execBmax b f s
  | .bmin b f => Sys2Proof.Machine.execBmin b f s
  | .bred b f => Sys2Proof.Machine.execBred b f s
  | .brdacc b f => Sys2Proof.Machine.execBrdacc b f s
  | .bclr b f => Sys2Proof.Machine.execBclr b f s
  | .bsel b f => Sys2Proof.Machine.execBsel b f s
  | .bcw b data poisoned => Sys2Proof.Machine.execBcw b data poisoned s
  | .bcStagingMove b => Sys2Proof.Machine.execBcStagingMove b s
  | .patrolScrubTick s0 c => Sys2Proof.Machine.execPatrolScrubTick s0 c s
  | .layQcfgWrite a core q value => Sys2Proof.Machine.execLayQcfgWrite a core q value s
  | .layQtailDoorbell a core q tail => Sys2Proof.Machine.execLayQtailDoorbell a core q tail s
  | .layQstatErrClear a core q => Sys2Proof.Machine.execLayQstatErrClear a core q s
  | .descriptorFetch u => Sys2Proof.Machine.execDescriptorFetch u s
  | .descriptorStart u => Sys2Proof.Machine.execDescriptorStart u s
  | .descriptorComplete u k => Sys2Proof.Machine.execDescriptorComplete u k s
  | .copy core q k => Sys2Proof.Machine.execCopy core q k s
  | .fill core q k => Sys2Proof.Machine.execFill core q k s
  | .reduce core q k => Sys2Proof.Machine.execReduce core q k s
  | .nop u k => Sys2Proof.Machine.execNop u k s
  | .gemm core q => Sys2Proof.Machine.execGemm core q s
  | .vop core q => Sys2Proof.Machine.execVop core q s
  | .layout core q k => Sys2Proof.Machine.execLayout core q k s
  | .layoutStagingGrant core => Sys2Proof.Machine.execLayoutStagingGrant core s
  | .seGo a core t entry => Sys2Proof.Machine.execSeGo a core t entry s
  | .seStop a core => Sys2Proof.Machine.execSeStop a core s
  | .seLoad core f3 rd addr => Sys2Proof.Machine.execSeLoad core f3 rd addr s
  | .seStore core f3 addr data => Sys2Proof.Machine.execSeStore core f3 addr data s
  | .scInv core addr => Sys2Proof.Machine.execScInv core addr s
  | .scFlush core addr => Sys2Proof.Machine.execScFlush core addr s
  | .scFlinv core addr => Sys2Proof.Machine.execScFlinv core addr s
  | .scAll core imm => Sys2Proof.Machine.execScAll core imm s
  | .ldv core f3 rd addr => Sys2Proof.Machine.execLdv core f3 rd addr s
  | .sdv core f3 addr data => Sys2Proof.Machine.execSdv core f3 addr data s
  | .counterSignal a m idx wide data => Sys2Proof.Machine.execCounterSignal a m idx wide data s
  | .counterAmoadd a m idx data => Sys2Proof.Machine.execCounterAmoadd a m idx data s
  | .counterWait a m idx target => Sys2Proof.Machine.execCounterWait a m idx target s
  | .counterRead a m idx wide => Sys2Proof.Machine.execCounterRead a m idx wide s
  | .semaphoreAdd a m idx wide data => Sys2Proof.Machine.execSemaphoreAdd a m idx wide data s
  | .semaphoreAmoadd a m idx data => Sys2Proof.Machine.execSemaphoreAmoadd a m idx data s
  | .semaphoreWait a m idx n => Sys2Proof.Machine.execSemaphoreWait a m idx n s
  | .semaphoreTake a m idx n => Sys2Proof.Machine.execSemaphoreTake a m idx n s
  | .semaphoreRead a m idx wide => Sys2Proof.Machine.execSemaphoreRead a m idx wide s
  | .peerMaskRead a p idx => Sys2Proof.Machine.execPeerMaskRead a p idx s
  | .peerMaskWrite a p idx mask => Sys2Proof.Machine.execPeerMaskWrite a p idx mask s
  | .waitPoll k => Sys2Proof.Machine.execWaitPoll k s
  | .waitTimeout k => Sys2Proof.Machine.execWaitTimeout k s
  | .alloc a sem idx owner => Sys2Proof.Machine.execAlloc a sem idx owner s
  | .setval a sem idx => Sys2Proof.Machine.execSetval a sem idx s
  | .free a sem idx => Sys2Proof.Machine.execFree a sem idx s
  | .clrlost a sem idx => Sys2Proof.Machine.execClrlost a sem idx s
  | .adminIgnoredAction a sem idx action => Sys2Proof.Machine.execAdminIgnoredAction a sem idx action s
  | .sreg q k => Sys2Proof.Machine.execSreg q k s
  | .step q k => Sys2Proof.Machine.execStep q k s
  | .strExport q k => Sys2Proof.Machine.execStrExport q k s
  | .strImport q k => Sys2Proof.Machine.execStrImport q k s
  | .pause q k => Sys2Proof.Machine.execPause q k s
  | .pauseResume q k => Sys2Proof.Machine.execPauseResume q k s
  | .send q k => Sys2Proof.Machine.execSend q k s
  | .pwlLoad a index addr => Sys2Proof.Machine.execPwlLoad a index addr s
  | .lnkCtlEnWrite a l en => Sys2Proof.Machine.execLnkCtlEnWrite a l en s
  | .linkDetectStart l => Sys2Proof.Machine.execLinkDetectStart l s
  | .linkTerminationFound l => Sys2Proof.Machine.execLinkTerminationFound l s
  | .linkTrained l r => Sys2Proof.Machine.execLinkTrained l r s
  | .linkAligned l => Sys2Proof.Machine.execLinkAligned l s
  | .linkConfigAgreed l o => Sys2Proof.Machine.execLinkConfigAgreed l o s
  | .linkAuthVerified l m => Sys2Proof.Machine.execLinkAuthVerified l m s
  | .linkDownRetry l => Sys2Proof.Machine.execLinkDownRetry l s
  | .flitTimeSend l => Sys2Proof.Machine.execFlitTimeSend l s
  | .fecBlockReceive l lo hi flits pois => Sys2Proof.Machine.execFecBlockReceive l lo hi flits pois s
  | .creditRelease l vc => Sys2Proof.Machine.execCreditRelease l vc s
  | .nakRepeatTimeout l => Sys2Proof.Machine.execNakRepeatTimeout l s
  | .replayAckTimeout l => Sys2Proof.Machine.execReplayAckTimeout l s
  | .lnkRetrain a l => Sys2Proof.Machine.execLnkRetrain a l s
  | .laneLockLoss l lane => Sys2Proof.Machine.execLaneLockLoss l lane s
  | .laneErrorWindow l lane count => Sys2Proof.Machine.execLaneErrorWindow l lane count s
  | .recoverCheckEnd l lock errors => Sys2Proof.Machine.execRecoverCheckEnd l lock errors s
  | .recoverTimeout l => Sys2Proof.Machine.execRecoverTimeout l s
  | .linkLockLoss l => Sys2Proof.Machine.execLinkLockLoss l s
  | .autoWidenTick l => Sys2Proof.Machine.execAutoWidenTick l s
  | .autoWidenPass l => Sys2Proof.Machine.execAutoWidenPass l s
  | .fabWrite l m => Sys2Proof.Machine.execFabWrite l m s
  | .fabRead l m => Sys2Proof.Machine.execFabRead l m s
  | .fabricReduce l m => Sys2Proof.Machine.execFabricReduce l m s
  | .readData l m => Sys2Proof.Machine.execReadData l m s
  | .writeAck l m => Sys2Proof.Machine.execWriteAck l m s
  | .fabSignal l m => Sys2Proof.Machine.execFabSignal l m s
  | .syncOp l m => Sys2Proof.Machine.execSyncOp l m s
  | .syncResp l m => Sys2Proof.Machine.execSyncResp l m s
  | .refuse l m => Sys2Proof.Machine.execRefuse l m s
  | .unreach l m kind inner => Sys2Proof.Machine.execUnreach l m kind inner s
  | .leave l m => Sys2Proof.Machine.execLeave l m s
  | .reservedKindMessage l kind vc m => Sys2Proof.Machine.execReservedKindMessage l kind vc m s
  | .fabricRequestTimeout tag => Sys2Proof.Machine.execFabricRequestTimeout tag s
  | .routeChangeSend m => Sys2Proof.Machine.execRouteChangeSend m s
  | .routeReturnTimer m => Sys2Proof.Machine.execRouteReturnTimer m s
  | .moduleGoneTimeout m => Sys2Proof.Machine.execModuleGoneTimeout m s
  | .hostConfigRequest fn op => Sys2Proof.Machine.execHostConfigRequest fn op s
  | .hostMemoryWrite fn b offset data ep => Sys2Proof.Machine.execHostMemoryWrite fn b offset data ep s
  | .hostMemoryRead fn b offset len => Sys2Proof.Machine.execHostMemoryRead fn b offset len s
  | .fetchadd fn b offset wide data => Sys2Proof.Machine.execFetchadd fn b offset wide data s
  | .swap fn b offset wide data => Sys2Proof.Machine.execSwap fn b offset wide data s
  | .cas fn b offset wide compare data => Sys2Proof.Machine.execCas fn b offset wide compare data s
  | .flrVf k => Sys2Proof.Machine.execFlrVf k s
  | .watchArm k w counter target arm => Sys2Proof.Machine.execWatchArm k w counter target arm s
  | .watchPoll k w => Sys2Proof.Machine.execWatchPoll k w s
  | .rawDoorbell k s0 value => Sys2Proof.Machine.execRawDoorbell k s0 value s
  | .rawDoorbellStatusRead k s0 => Sys2Proof.Machine.execRawDoorbellStatusRead k s0 s
  | .cxlMemRequest hpa wr poison => Sys2Proof.Machine.execCxlMemRequest hpa wr poison s
  | .cxlMailboxCommand c => Sys2Proof.Machine.execCxlMailboxCommand c s
  | .keeperRecordMove island => Sys2Proof.Machine.execKeeperRecordMove island s
  | .spareGo s0 r spare => Sys2Proof.Machine.execSpareGo s0 r spare s
  | .spareEnd s0 => Sys2Proof.Machine.execSpareEnd s0 s
  | .migrationCopyRow s0 c => Sys2Proof.Machine.execMigrationCopyRow s0 c s
  | .migrationRowBreak s0 c b => Sys2Proof.Machine.execMigrationRowBreak s0 c b s
  | .migrationCutover s0 => Sys2Proof.Machine.execMigrationCutover s0 s
  | .spareMapCommit s0 => Sys2Proof.Machine.execSpareMapCommit s0 s
  | .rescueDmaGo n src dst len fill sig => Sys2Proof.Machine.execRescueDmaGo n src dst len fill sig s
  | .rescueDmaDone n => Sys2Proof.Machine.execRescueDmaDone n s
  | .sensorSlotRead i0 v => Sys2Proof.Machine.execSensorSlotRead i0 v s
  | .criticalComparator i0 => Sys2Proof.Machine.execCriticalComparator i0 s
  | .powerSample watts => Sys2Proof.Machine.execPowerSample watts s
  | .pausePeriodStart s0 c => Sys2Proof.Machine.execPausePeriodStart s0 c s
  | .thmLimitWrite a value => Sys2Proof.Machine.execThmLimitWrite a value s
  | .getIdentity t => Sys2Proof.Machine.execGetIdentity t s
  | .getStatus t => Sys2Proof.Machine.execGetStatus t s
  | .readLog t q => Sys2Proof.Machine.execReadLog t q s
  | .clearFault t => Sys2Proof.Machine.execClearFault t s
  | .locate t on => Sys2Proof.Machine.execLocate t on s
  | .setCap t watts => Sys2Proof.Machine.execSetCap t watts s
  | .setOverride t p => Sys2Proof.Machine.execSetOverride t p s
  | .keeperResetWarm t => Sys2Proof.Machine.execKeeperResetWarm t s
  | .keeperResetTenant t n => Sys2Proof.Machine.execKeeperResetTenant t n s
  | .keeperResetCore t core => Sys2Proof.Machine.execKeeperResetCore t core s
  | .forceSem t idx value => Sys2Proof.Machine.execForceSem t idx value s
  | .rescueDma t n src dst len fill sig => Sys2Proof.Machine.execRescueDma t n src dst len fill sig s
  | .spareMapRead t => Sys2Proof.Machine.execSpareMapRead t s
  | .spareMapClear t k => Sys2Proof.Machine.execSpareMapClear t k s
  | .readReg t addr => Sys2Proof.Machine.execReadReg t addr s
  | .rollback t c => Sys2Proof.Machine.execRollback t c s
  | .keeperRestart t => Sys2Proof.Machine.execKeeperRestart t s
  | .unknownCommand t code => Sys2Proof.Machine.execUnknownCommand t code s
  | .setEndpointId t eid => Sys2Proof.Machine.execSetEndpointId t eid s
  | .getEndpointId t => Sys2Proof.Machine.execGetEndpointId t s
  | .getMctpVersionSupport t => Sys2Proof.Machine.execGetMctpVersionSupport t s
  | .getMessageTypeSupport t => Sys2Proof.Machine.execGetMessageTypeSupport t s
  | .getVendorDefinedMsgSupport t => Sys2Proof.Machine.execGetVendorDefinedMsgSupport t s
  | .getTid t => Sys2Proof.Machine.execGetTid t s
  | .setTid t tid => Sys2Proof.Machine.execSetTid t tid s
  | .getPldmVersion t => Sys2Proof.Machine.execGetPldmVersion t s
  | .getPldmTypes t => Sys2Proof.Machine.execGetPldmTypes t s
  | .getPldmCommands t type => Sys2Proof.Machine.execGetPldmCommands t type s
  | .getPdrRepositoryInfo t => Sys2Proof.Machine.execGetPdrRepositoryInfo t s
  | .getPdr t handle => Sys2Proof.Machine.execGetPdr t handle s
  | .getSensorReading t id => Sys2Proof.Machine.execGetSensorReading t id s
  | .getStateSensorReadings t id => Sys2Proof.Machine.execGetStateSensorReadings t id s
  | .setEventReceiver t on eid => Sys2Proof.Machine.execSetEventReceiver t on eid s
  | .queryDeviceIdentifiers t => Sys2Proof.Machine.execQueryDeviceIdentifiers t s
  | .getFirmwareParameters t => Sys2Proof.Machine.execGetFirmwareParameters t s
  | .requestUpdate t => Sys2Proof.Machine.execRequestUpdate t s
  | .passComponentTable t c => Sys2Proof.Machine.execPassComponentTable t c s
  | .updateComponent t c size img => Sys2Proof.Machine.execUpdateComponent t c size img s
  | .requestFirmwareData t len => Sys2Proof.Machine.execRequestFirmwareData t len s
  | .activateFirmware t => Sys2Proof.Machine.execActivateFirmware t s
  | .pldmGetStatus t => Sys2Proof.Machine.execPldmGetStatus t s
  | .cancelUpdateComponent t => Sys2Proof.Machine.execCancelUpdateComponent t s
  | .cancelUpdate t => Sys2Proof.Machine.execCancelUpdate t s
  | .getVersion t => Sys2Proof.Machine.execGetVersion t s
  | .getCapabilities t => Sys2Proof.Machine.execGetCapabilities t s
  | .negotiateAlgorithms t ecdsaP384 sha384 => Sys2Proof.Machine.execNegotiateAlgorithms t ecdsaP384 sha384 s
  | .getDigests t => Sys2Proof.Machine.execGetDigests t s
  | .getCertificate t slot offset len => Sys2Proof.Machine.execGetCertificate t slot offset len s
  | .challenge t slot nonce => Sys2Proof.Machine.execChallenge t slot nonce s
  | .getMeasurements t index nonce => Sys2Proof.Machine.execGetMeasurements t index nonce s
  | .hostLinkUp speed width flit => Sys2Proof.Machine.execHostLinkUp speed width flit s
  | .tenantResetDone t => Sys2Proof.Machine.execTenantResetDone t s
  | .coreResetDone core => Sys2Proof.Machine.execCoreResetDone core s
  | .columnStep s0 => Sys2Proof.Machine.execColumnStep s0 s
  | .entdaa addr => Sys2Proof.Machine.execEntdaa addr s
  | .insertionPrecharge => Sys2Proof.Machine.execInsertionPrecharge s
  | .powerOnReset => Sys2Proof.Machine.execPowerOnReset s
  | .modResetNAssert => Sys2Proof.Machine.execModResetNAssert s
  | .modResetNDeassert => Sys2Proof.Machine.execModResetNDeassert s
  | .pwrEnAssert => Sys2Proof.Machine.execPwrEnAssert s
  | .pwrEnDeassert => Sys2Proof.Machine.execPwrEnDeassert s
  | .perstNAssert => Sys2Proof.Machine.execPerstNAssert s
  | .perstNDeassert => Sys2Proof.Machine.execPerstNDeassert s
  | .quiesceTqExpire => Sys2Proof.Machine.execQuiesceTqExpire s
  | .quiesceSafeToRemove => Sys2Proof.Machine.execQuiesceSafeToRemove s
  | .inputLowTimeout => Sys2Proof.Machine.execInputLowTimeout s
  | .inputLowRecover => Sys2Proof.Machine.execInputLowRecover s
  | .inputFall37v => Sys2Proof.Machine.execInputFall37v s
  | .inputRise62v => Sys2Proof.Machine.execInputRise62v s
  | .inputFall61v => Sys2Proof.Machine.execInputFall61v s
  | .mainRailsInRegulation => Sys2Proof.Machine.execMainRailsInRegulation s
  | .keeperRomStart => Sys2Proof.Machine.execKeeperRomStart s
  | .keeperRailEnable => Sys2Proof.Machine.execKeeperRailEnable s
  | .profileSelect => Sys2Proof.Machine.execProfileSelect s
  | .readyRaise => Sys2Proof.Machine.execReadyRaise s
  | .bootTimeout => Sys2Proof.Machine.execBootTimeout s
  | .trainingCacheWrite => Sys2Proof.Machine.execTrainingCacheWrite s
  | .deadlockScan => Sys2Proof.Machine.execDeadlockScan s
  | .streamEvictWaitEnd => Sys2Proof.Machine.execStreamEvictWaitEnd s
  | .streamQuantumExpire => Sys2Proof.Machine.execStreamQuantumExpire s
  | .flrPf => Sys2Proof.Machine.execFlrPf s
  | .hostLinkDown => Sys2Proof.Machine.execHostLinkDown s
  | .heartbeatCheck => Sys2Proof.Machine.execHeartbeatCheck s
  | .keeperWatchdog => Sys2Proof.Machine.execKeeperWatchdog s
  | .housekeepingRoundEnd => Sys2Proof.Machine.execHousekeepingRoundEnd s
  | .powerLoopTick => Sys2Proof.Machine.execPowerLoopTick s
  | .pwrRangeStep => Sys2Proof.Machine.execPwrRangeStep s
  | .pwrRangeResume => Sys2Proof.Machine.execPwrRangeResume s
  | .flashOperationDone => Sys2Proof.Machine.execFlashOperationDone s
  | .keeperTrialCommit => Sys2Proof.Machine.execKeeperTrialCommit s
  | .smbusAlertResponse => Sys2Proof.Machine.execSmbusAlertResponse s
  | .mainRailsOff => Sys2Proof.Machine.execMainRailsOff s
  | .alwaysOnSupplyLost => Sys2Proof.Machine.execAlwaysOnSupplyLost s
  | .ltssmRecoveryEntry => Sys2Proof.Machine.execLtssmRecoveryEntry s
  | .keeperRestartComplete => Sys2Proof.Machine.execKeeperRestartComplete s

end Sys2Proof.Machine
end

