-- ==== Sys2Proof/Machine/Step.lean ====
section
/-! DEFINITION. One step of the block: the command at the front of the queue, or the passing of time. -/

namespace Sys2Proof.Machine

/-- One unit of time passes; the block has no other effect of its own (notes/assumptions/2). -/
def idle (s : State) : State := { s with sled := { s.sled with now := s.sled.now + 1 } }

/-- The command at the front of the queue acts, with the queue's rest behind it. On an empty queue the
block idles. -/
def step (s : State) : Host.Outcome State Fault Refusal :=
  match s.pending with
  | [] => .next (idle s)
  | c :: rest => exec c { s with pending := rest }

/-- The state with the command that a word spells put at the front of its queue; no word spells one. -/
def State.withFetchWord (s : State) (nbits w : Nat) : State :=
  match decodeTableWord nbits w with
  | some c => { s with pending := c :: s.pending }
  | none => s

end Sys2Proof.Machine
end

