-- ==== Sys2Proof/Safety.lean ====
section
/-! DEFINITION. The terms in which statements speak of runs: several commands one after another, and what a safe
run is. -/

namespace Sys2Proof.Machine

/-- The outcome of the commands of a list, one after another, up to the first that stops. -/
def execAll : List Instr → State → Host.Outcome State Fault Refusal
  | [], s => .next s
  | c :: cs, s =>
    match exec c s with
    | .next t => execAll cs t
    | .fault r => .fault r
    | .refused r => .refused r

/-- A run of `n` steps is safe when no step of it stops. The block has no fault (Machine/State.lean), so a run could
be at fault only where a command were refused. -/
def safeRun (n : Nat) (s : State) : Prop := ∃ t, Sys2Proof.core.run n s = .next t

/-- No access to memory has to wait now: no stack changes speed, no rank is being spared, and no SRAM is being cleared. -/
abbrev calm (s : Sled) : Prop := ∀ w, heldRead s w = false ∧ heldWrite s w = false

/-! ## The command slots of a channel (spec/06) -/

/-- A slot at time `t` can begin on channel `c` of a stack, which stands as `ch` with no read data on its way. -/
abbrev slotAt (s : Sled) (st c : Nat) (ch : Chan) (t : Nat) : Prop :=
  ch = getChan s st c ∧ t = nextSlot s st c ∧ islRuns s (iMC st) = true ∧ (fget s.mcs {} st).selfRefresh = false ∧
  ∀ e ∈ ch.retry, e.out = none

/-- The slot is free for ordinary traffic: no replay, no pause in progress or due, no mode word on its way, no program
row to reopen, and every queued request has the urgency of its age. -/
abbrev slotFree (s : Sled) (st c : Nat) (ch : Chan) (t : Nat) : Prop :=
  slotAt s st c ch t ∧ ch.replay = none ∧ ch.pause = none ∧ ch.due = 0 ∧ ch.dueX = false ∧ ch.rdyCmd ≤ t ∧
  (∀ x : CBank, (getBt ch x).reop = 0) ∧ agedQ s st c t = ch.q

/-- The scrubber can issue on channel `c` of a stack, which stands as `ch`. -/
abbrev scrubFree (s : Sled) (st c : Nat) (ch : Chan) : Prop :=
  ch = getChan s st c ∧ scrubReady s st c = true ∧ ch.deferred = [] ∧ ch.repair = []

/-! ## Bank programs (spec/08) -/

/-- The program of stack `st` stands at instruction `x`, with none issued ahead of it. -/
abbrev atInstr (s : Sled) (st : Nat) (r : Run) (x : BcsInstr) : Prop :=
  getRun s st = some r ∧ islRuns s (iMC st) = true ∧ (fget s.mcs {} st).selfRefresh = false ∧
  r.pc < r.prog.count ∧ r.ahead = [] ∧ fetchHeld s r.prog r.pc = false ∧ instrAt s r.prog r.pc = some x ∧ x.ok = true

/-- The channels that an instruction names give their next slots to it, and its banks are free. -/
abbrev banksReady (s : Sled) (st : Nat) (x : BcsInstr) : Prop :=
  x.chmask ≠ 0 ∧ x.banks ≠ 0 ∧ strayRank s st x = false ∧ slotsFree s st x = true ∧
  ∀ k ∈ instrKeys s st x, bankHeld s k = false

/-- The place of the column that a BAU command's fields name in bank `k`. -/
def bauPlace (s : Sled) (k : Nat) (f : BauFields) : Nat :=
  k * 2 ^ 26 + (bauRow (getBank s k) f).getD 0 * 1024 + f.col.toNat * 32

/-- The operand word of a BAU command: its column, or a V register. -/
def bauOperand (s : Sled) (k op : Nat) (f : BauFields) : Nat :=
  if bauColumn op f then leNat (memRead s.mem (bauPlace s k f) 32) else getV (getBank s k) f.y

/-- A single valid BAU command on one free bank and channel with nothing queued, whose column, if it names one, has no
error. -/
abbrev bauReady (s : Sled) (b : BankSel) (k op : Nat) (f : BauFields) : Prop :=
  selOf s b = [k] ∧ bankStopped s k = false ∧ chanFree s b.stack b.chan = true ∧ bauValid s [k] op f = true ∧ (getBank s k).q = [] ∧
  (getBank s k).step = 0 ∧ f.cnt = 0 ∧ (bauColumn op f = true → eccAt s (bauPlace s k f) = eClean)

/-- The `k`-th started descriptor of a vault core's queue is `d`, it performs operation `op` and has not acted, and its
core runs. -/
abbrev runsDesc (s : Sled) (core q k : Nat) (d : Desc) (op : Nat) : Prop :=
  (started s core q)[k]? = some d ∧ islRuns s (iVC core) = true ∧ d.stage = 1 ∧ d.opc = op ∧ core < 8

/-- The `k`-th started descriptor of a queue of the stream engine is `d`, it performs operation `op` and has not acted,
and the engine runs. -/
abbrev steDesc (s : Sled) (q k : Nat) (d : Desc) (op : Nat) : Prop :=
  (started s 8 q)[k]? = some d ∧ islRuns s iSTE = true ∧ d.stage = 1 ∧ d.opc = op

/-- A descriptor's place in start order (spec/10, R186). -/
def startOrder (s : Sled) (core id : Nat) : Nat :=
  match (descs s core).find? fun e => e.id = id with
  | some e => e.order
  | none => 0

/-- A range of local addresses inside a core's own scratchpad (spec/01, Table 1-1). -/
abbrev ownScratch (core a len : Nat) : Prop :=
  0x8000000000 + core * 0x1800000 ≤ a ∧ a + len ≤ 0x8000000000 + (core + 1) * 0x1800000

/-- No channel differs between two sleds but for its command slots: its time, its retry buffer and its bank mode. -/
abbrev onlySlots (s t : Sled) : Prop :=
  ∀ st c, getChan t st c = { getChan s st c with
    clk := (getChan t st c).clk, retry := (getChan t st c).retry, bcm := (getChan t st c).bcm }

/-- Only bank `k` differs between two sleds, but for the times of bank steps, the command slots taken and the progress
of a tenant. -/
abbrev onlyBank (s t : Sled) (k : Nat) : Prop :=
  t = { s with bank := t.bank, chan := t.chan, btm := t.btm, dld := t.dld } ∧
  (∀ j, j ≠ k → getBank t j = getBank s j) ∧ onlySlots s t

/-- Of two states only link `l` differs, and it has become `k`. -/
abbrev onlyLink (s t : State) (l : Nat) (k : Lnk) : Prop :=
  t.pending = s.pending ∧ t.sled = { s.sled with lnk := t.sled.lnk } ∧ getLnk t.sled l = k ∧
  ∀ m, m ≠ l → getLnk t.sled m = getLnk s.sled m

/-- Link `l` is to run and stands in state `st` as `k`. -/
abbrev linkIn (s : Sled) (l st : Nat) (k : Lnk) : Prop := linkOn s l = true ∧ getLnk s l = k ∧ k.state = st

/-- A message on a link that carries data is for this module, and its source was not gone. -/
abbrev arrives (s : Sled) (l : LinkId) (m : MsgIn) : Prop :=
  linkLive s l = true ∧ m.dest.toNat = moduleId s ∧ m.src.toNat ∉ s.fab.gone

/-- Nothing stops a memory request of function `fn` before its window is looked at: the port's link is up, the function
is there, and the sled is in the full tier. -/
abbrev hostFree (s : Sled) (fn : Nat) : Prop := portUp s = true ∧ hostStop s fn false = none

/-- The keeper's image runs, and a request over transport `x` reaches it. -/
abbrev asked (s : Sled) (x : Transport) : Prop := s.kpr.phase = .running ∧ answers s x = true

end Sys2Proof.Machine
end

