-- ==== Sys2Proof/WellFormed.lean ====
section
/-! DEFINITION. The well-formed commands: the bounds that the spec sets on a command's operands and that
the types of the operands do not already say. -/

namespace Sys2Proof

/-- A fabric message's data: whole granules of 16 bytes, at most 208 bytes and not beyond eight 32-byte
words from its aligned address (spec/16, R317). -/
def MsgIn.wf (m : MsgIn) : Bool :=
  m.data.length ≤ 208 && m.addr.toNat % 32 + m.data.length ≤ 256

/-- A command's operands lie within the spec's bounds. -/
def Instr.wf : Instr → Bool
  | .strapWindowEnd samples => samples.length = 16
  | .trainStepGo _ _ stp _ _ => 1 ≤ stp.toNat && stp.toNat ≤ 6
  | .caparAlert _ _ _ reads => 1 ≤ reads.length && reads.length ≤ 4
  | .fecBlockReceive _ lo hi flits pois =>
    lo.Nodup && hi.Nodup && (flits.length = 5 || flits.length = 10) && pois.length ≤ flits.length &&
    flits.all fun b => b.length * flits.length = 1280
  | .fabWrite _ m | .fabRead _ m | .fabricReduce _ m | .readData _ m | .writeAck _ m | .fabSignal _ m
  | .syncOp _ m | .syncResp _ m | .refuse _ m | .leave _ m => m.wf
  | .unreach _ m _ inner => m.wf && inner.wf
  | .reservedKindMessage _ kind _ m => (kind = 0 || 12 ≤ kind.toNat) && m.wf
  | .hostMemoryWrite _ _ _ data _ => 1 ≤ data.length && data.length ≤ 512
  | .cxlMemRequest _ wr _ =>
    match wr with
    | some (_, d) => d.length = 64
    | none => true
  | _ => true

end Sys2Proof
end

