-- ==== Sys2Proof/Certificates/Slice0/Obligations.lean ====
section
/-! DEFINITION. The statements for the provers. Each says in its docstring which rule of the spec it formalises, or
which choice of the model it rests on. A statement about commands says for each that `exec` answers a next state under
hypotheses on the state and the operands alone, what that state holds, and what is unchanged. -/

open Sys2Proof Sys2Proof.Machine


/-! ## The queue and the step -/

/-- With a command at the front of the queue, a step is that command's effect with the queue's rest. -/
def Obligations.StepRunsTheFrontCommand : Prop :=
  ∀ (c : Instr) (rest : List Instr) (s : State),
    step { s with pending := c :: rest } = exec c { s with pending := rest }

/-- Every command completes in every state, and never touches the queue. What a command does to the sled does not
depend on what waits behind it: the commands of a queue run in their order to its end, none lost and none repeated,
as if each had been sent alone. On an empty queue the block only lets one unit of time pass. The model's choice
(notes/assumptions/2): the spec has no row for a tick. -/
def Obligations.CommandsCompleteInOrderAndAnEmptyQueueIdles : Prop :=
  (∀ (c : Instr) (s : State), ∃ t, exec c s = .next t ∧ t.pending = s.pending) ∧
  (∀ (cs : List Instr) (s : State), s.pending = cs →
    ∃ t, Sys2Proof.core.run cs.length s = .next t ∧ t.pending = [] ∧
      execAll cs { s with pending := [] } = .next t ∧ safeRun cs.length s) ∧
  (∀ s : State, s.pending = [] → step s = .next { s with sled := { s.sled with now := s.sled.now + 1 } })

/-! ## Reset, power and the start (spec/02, spec/03, spec/04) -/

/-- The state of power-on reset: what the spec's reset tables give. The model's readings: notes/assumptions/5, 6. -/
def Obligations.ResetLeavesTheTabledValues : Prop :=
  State.reset.pending = [] ∧
  rGet State.reset.sled bGLB 0 = 0x00014B540004 ∧
  (∀ n : Fin 9, rGet State.reset.sled (bMC n) 0x310 = 1 ∧ rGet State.reset.sled (bMC n) 0x60 = 0x5DC) ∧
  rGet State.reset.sled bTHM 0x400 = 0x6E6064 ∧ rGet State.reset.sled bKPR 0 = 1 ∧
  (∀ n : Fin 9, rGet State.reset.sled (bBCS n) 0x28 = 0x30) ∧
  (∀ n : Fin 16, rGet State.reset.sled (bLNK n) 0 = 4 ∧ rGet State.reset.sled (bLNK n) 0x10 = 0x40000) ∧
  State.reset.sled.kpr.phase = .rom ∧ State.reset.sled.plat.sampling = true ∧ State.reset.sled.plat.ready = false ∧
  State.reset.sled.plat.rails = .off ∧ (∀ i : Fin 37, islRuns State.reset.sled (i.val + 1) = false) ∧
  State.reset.sled.ctr = [] ∧ State.reset.sled.sem = [] ∧ State.reset.sled.bank = [] ∧
  Memory.wf State.reset.sled.mem = true

/-- The input stage: precharge, the power-on reset, and the openings with the record that the keeper commits on
hold-up. After the supply is lost nothing but flash and the input pins is left. The main rails: their start, their
regulation, a rail fault and the end of a power-down (spec/03, R49-R51). The model's readings: notes/assumptions/5,
29. -/
def Obligations.InputStageAndMainRailSequence : Prop :=
  (∀ s : State, s.sled.plat.supply = .unpowered →
    exec .insertionPrecharge s =
      .next { s with sled := { s.sled with plat := { s.sled.plat with supply := .precharge } } }) ∧
  (∀ s : State, s.sled.plat.supply = .precharge →
    ∃ t, exec .powerOnReset s = .next t ∧ t.pending = s.pending ∧
      t.sled.fl = s.sled.fl ∧ t.sled.kpr = {} ∧ t.sled.regs = [] ∧ t.sled.locked = [] ∧ t.sled.mem = [] ∧
      t.sled.ecc = [] ∧ t.sled.ctr = [] ∧ t.sled.sem = [] ∧ t.sled.chan = [] ∧ t.sled.mcs = [] ∧ t.sled.bank = [] ∧
      t.sled.vc = [] ∧ t.sled.lnk = [] ∧ t.sled.prof = none ∧ t.sled.ccRunning = 0 ∧
      t.sled.plat.supply = .on ∧ t.sled.plat.rails = .off ∧ t.sled.plat.ready = false ∧
      t.sled.plat.sampling = true ∧ t.sled.plat.windows = 0 ∧ t.sled.plat.pwrEn = s.sled.plat.pwrEn ∧
      t.sled.plat.perst = s.sled.plat.perst) ∧
  (∀ (s : State) (c : Instr) (code : Nat) (ov : Bool),
    (c, code, ov) = (.inputFall37v, 0x7010, false) ∨ (c, code, ov) = (.inputRise62v, 0x7011, true) →
    s.sled.plat.supply = .on → s.sled.kpr.phase = .running →
    s.sled.fl.logSeq % 1023 ≠ 1 →
    ∃ t, exec c s = .next t ∧ t.pending = s.pending ∧
      t.sled.plat.supply = .holdUp ov ∧ t.sled.plat.rails = .off ∧ t.sled.plat.ready = false ∧
      t.sled.fl.log = s.sled.fl.log ++
        [{ seq := s.sled.fl.logSeq, boot := s.sled.fl.boot, mod := moduleId s.sled, hold := true
           record := recStamp s.sled (mkRec code 0) }] ∧
      t.sled.fl.logSeq = s.sled.fl.logSeq + 1) ∧
  (∀ (s : State) (ov : Bool), s.sled.plat.supply = .holdUp ov →
    ∃ t, exec .alwaysOnSupplyLost s = .next t ∧ t.pending = s.pending ∧ t.sled.fl = s.sled.fl ∧ t.sled.kpr = {} ∧
      t.sled.regs = [] ∧ t.sled.mem = [] ∧ t.sled.isl = [] ∧
      t.sled.plat.supply = (if ov then .overV else .unpowered)) ∧
  (∀ s : State, s.sled.plat.supply = .overV →
    ∃ t, exec .inputFall61v s = .next t ∧ t.pending = s.pending ∧ t.sled.fl = s.sled.fl ∧
      t.sled.plat.supply = .precharge ∧ t.sled.kpr = {} ∧ t.sled.mem = []) ∧
  (∀ s : State, s.sled.plat.supply = .on → s.sled.kpr.phase = .running → s.sled.plat.inputLow = false →
    s.sled.plat.rangeHigh = none → (fget s.sled.kpr.coll [] 0).length < 16 →
    ∃ t, exec .inputLowTimeout s = .next t ∧ t.pending = s.pending ∧
      t.sled.plat = { s.sled.plat with inputLow := true } ∧
      fget t.sled.kpr.coll [] 0 = fget s.sled.kpr.coll [] 0 ++ [recStamp s.sled (mkRec 0x7010 0)] ∧
      (∀ p, s.sled.prof = some p → capOf t.sled ≤ 1000) ∧
      t.sled.mem = s.sled.mem ∧ t.sled.ctr = s.sled.ctr ∧ t.sled.fl = s.sled.fl ∧ t.sled.isl = s.sled.isl) ∧
  (∀ s : State, s.sled.plat.inputLow = true → s.sled.plat.rangeHigh = none →
    exec .inputLowRecover s =
      .next { s with sled := { s.sled with plat := { s.sled.plat with inputLow := false } } }) ∧
  (∀ s : State, s.sled.kpr.phase = .running → s.sled.kpr.railEnable = false → s.sled.thm.critHold = false →
    s.sled.plat.pwrEn = true → s.sled.plat.railFault = false → s.sled.plat.quiesce = .none → s.sled.plat.rails = .off →
    exec .keeperRailEnable s = .next { s with sled := { s.sled with
      kpr := { s.sled.kpr with railEnable := true }
      thm := { s.sled.thm with critHold := false }
      plat := { s.sled.plat with rails := .rising } } }) ∧
  (∀ s : State, s.sled.kpr.phase = .running → s.sled.kpr.railEnable = false → s.sled.thm.critHold = false →
    s.sled.plat.pwrEn = false →
    exec .keeperRailEnable s = .next { s with sled := { s.sled with
      kpr := { s.sled.kpr with railEnable := true }, thm := { s.sled.thm with critHold := false } } }) ∧
  (∀ s : State, s.sled.plat.rails = .rising →
    ∃ t, exec .mainRailsInRegulation s = .next t ∧ t.pending = s.pending ∧
      t.sled = { s.sled with plat := { s.sled.plat with rails := .up, railUp := 7 }, isl := t.sled.isl } ∧
      (∀ k : Fin 7, railLevel t.sled.plat k = .up) ∧
      ∀ i : Fin 38, islState t.sled i =
        if i.val = 0 ∨ islState s.sled i = 0 ∨ (i.val = iHST ∧ s.sled.plat.perst = true) then islState s.sled i else 2) ∧
  (∀ (s : State) (rail : Fin 7), s.sled.plat.rails = .up →
    ∃ t, exec (.mainRailFault rail) s = .next t ∧ t.pending = s.pending ∧ t.sled.plat.rails = .falling ∧
      t.sled.plat.railFault = true ∧ t.sled.plat.ready = false ∧ t.sled.kpr.tier = 1 ∧ t.sled.mem = []) ∧
  (∀ s : State, s.sled.plat.rails = .falling → s.sled.plat.pwrEn = false →
    exec .mainRailsOff s =
      .next { s with sled := { s.sled with plat := { s.sled.plat with rails := .off, railUp := 0 } } }) ∧
  (∀ s : State, s.sled.plat.supply = .holdUp false →
    ∃ t, exec .insertionPrecharge s = .next t ∧ t.pending = s.pending ∧ t.sled.fl = s.sled.fl ∧
      t.sled.plat.supply = .precharge ∧ t.sled.kpr = {} ∧ t.sled.mem = [] ∧ t.sled.isl = [])

/-- Module reset, PWR_EN and PERST_N: what each clears and keeps (spec/03, Table 3-6, R53). A PWR_EN cycle with a module-ID or
LEGACY_SEL strap latched unstable is in watch-only again: the model's reading (notes/assumptions/40). Its others:
notes/assumptions/5, 29. -/
def Obligations.ModuleResetPowerEnableAndHostReset : Prop :=
  (∀ s : State, s.sled.plat.supply = .on → s.sled.plat.modReset = false →
    ∃ t, exec .modResetNAssert s = .next t ∧ t.pending = s.pending ∧ t.sled.fl = s.sled.fl ∧ t.sled.kpr = {} ∧
      t.sled.plat.modReset = true ∧ t.sled.mem = [] ∧ t.sled.isl = [] ∧ t.sled.plat.rails ≠ .up ∧
      t.sled.plat.rails ≠ .rising ∧ rField t.sled bKPR 0 0 4 = 2 ∧
      (outPins t.sled).ready = none ∧ (outPins t.sled).demandUv = none ∧ (outPins t.sled).rangeInd = none) ∧
  (∀ s : State, s.sled.plat.supply = .on → s.sled.plat.modReset = true →
    ∃ t, exec .modResetNDeassert s = .next t ∧ t.pending = s.pending ∧
      t.sled.plat = { s.sled.plat with modReset := false, sampling := true, windows := 0, resetAt := s.sled.now } ∧
      islRuns t.sled 0 = true ∧ t.sled = { s.sled with plat := t.sled.plat, isl := t.sled.isl }) ∧
  (∀ s : State, s.sled.plat.pwrEn = false → s.sled.plat.cycle = false → s.sled.kpr.railEnable = true →
    s.sled.plat.railFault = false → s.sled.plat.quiesce = .none → s.sled.plat.rails = .off →
    exec .pwrEnAssert s =
      .next { s with sled := { s.sled with
        plat := { s.sled.plat with pwrEn := true, rails := .rising }
        kpr := { s.sled.kpr with bootAt := s.sled.now } } }) ∧
  (∀ s : State, s.sled.plat.pwrEn = false → s.sled.plat.cycle = true → s.sled.kpr.tier ≠ 1 →
    s.sled.plat.unstable = false ∨ s.sled.plat.unstableMask &&& 0x4FF#11 = 0 →
    ∃ t, exec .pwrEnAssert s = .next t ∧ t.pending = s.pending ∧ t.sled.plat.pwrEn = true ∧
      t.sled.plat.cycle = false ∧ t.sled.plat.railFault = false ∧ t.sled.plat.quiesce = .none ∧
      t.sled.kpr.chosen = false ∧ t.sled.kpr.tier = 0 ∧ t.sled.kpr.fallback = false ∧ t.sled.kpr.phase = s.sled.kpr.phase ∧ rField t.sled bKPR 0 0 4 = 3 ∧
      t.sled.fl = s.sled.fl ∧ t.sled.plat.strap = s.sled.plat.strap) ∧
  (∀ s : State, s.sled.plat.pwrEn = false → s.sled.plat.cycle = true →
    s.sled.plat.unstable = true → s.sled.plat.unstableMask &&& 0x4FF#11 ≠ 0 →
    ∃ t, exec .pwrEnAssert s = .next t ∧ t.pending = s.pending ∧ t.sled.plat.pwrEn = true ∧
      t.sled.plat.cycle = false ∧ t.sled.kpr.tier = 1 ∧ t.sled.plat.strap = s.sled.plat.strap) ∧
  (∀ s : State, s.sled.plat.pwrEn = true → s.sled.plat.quiesced = true → s.sled.plat.rails = .up →
    ∃ t, exec .pwrEnDeassert s = .next t ∧ t.pending = s.pending ∧ t.sled.plat.pwrEn = false ∧
      t.sled.plat.ready = false ∧ t.sled.plat.rails = .falling ∧ t.sled.mem = [] ∧ t.sled.ctr = [] ∧
      t.sled.kpr.phase = s.sled.kpr.phase ∧ t.sled.fl = s.sled.fl) ∧
  (∀ s : State, s.sled.plat.pwrEn = true → s.sled.plat.quiesced = false → s.sled.kpr.phase = .running →
    s.sled.fl.logSeq % 1023 ≠ 1 →
    ∃ t, exec .pwrEnDeassert s = .next t ∧ t.pending = s.pending ∧ t.sled.plat.pwrEn = false ∧
      t.sled.plat.ready = false ∧ t.sled.fl.log = s.sled.fl.log ++
        [{ seq := s.sled.fl.logSeq, boot := s.sled.fl.boot, mod := moduleId s.sled, hold := true
           record := recStamp s.sled (mkRec 0x7013 0) }]) ∧
  (∀ s : State, islRuns s.sled iHST = true →
    ∃ t, exec .perstNAssert s = .next t ∧ t.pending = s.pending ∧ islState t.sled iHST = 1 ∧
      t.sled.hst = { retry := s.sled.hst.retry } ∧ t.sled.plat = { s.sled.plat with perst := true } ∧
      t.sled = { s.sled with plat := t.sled.plat, isl := t.sled.isl, regs := t.sled.regs, hst := t.sled.hst } ∧
      ∀ blk off, off < 0x100000 → blk ≠ bHST → rGet t.sled blk off = rGet s.sled blk off) ∧
  (∀ s : State, s.sled.plat.rails = .up → islState s.sled iHST = 1 →
    exec .perstNDeassert s =
      .next { s with sled := setIsl iHST 2 { s.sled with plat := { s.sled.plat with perst := false } } })

/-- Strap sampling (spec/02, R35, R37): agreement in all samples latches the straps; disagreement repeats the window,
and the third window ends the sampling with the stable straps latched. An unstable strap's value is free. The
debounced inputs and the quiesced state (spec/02, R31; spec/03, R55, R56). The model's readings: notes/assumptions/3,
32. -/
def Obligations.StrapsDebouncedInputsAndQuiesce : Prop :=
  (∀ (s : State) (x : BitVec 11) (rest : List (BitVec 11)), s.sled.plat.sampling = true → s.sled.plat.supply = .on →
    s.sled.plat.modReset = false → (∀ y ∈ rest, y = x) → x.getLsbD 10 = false → bitAt (rGet s.sled bGLB 0x20) 0 = false →
    exec (.strapWindowEnd (x :: rest)) s = .next { s with sled := { s.sled with plat := { s.sled.plat with
      strap := x, windows := s.sled.plat.windows + 1, sampling := false, unstable := false, unstableMask := 0 } } }) ∧
  (∀ (s : State) (x y : BitVec 11) (rest : List (BitVec 11)), s.sled.plat.sampling = true → s.sled.plat.supply = .on →
    s.sled.plat.modReset = false → y ∈ rest → y ≠ x → s.sled.plat.windows < 2 →
    exec (.strapWindowEnd (x :: rest)) s = .next { s with sled := { s.sled with plat := { s.sled.plat with
      windows := s.sled.plat.windows + 1 } } }) ∧
  (∀ (s : State) (x y : BitVec 11) (rest : List (BitVec 11)), s.sled.plat.sampling = true → s.sled.plat.supply = .on →
    s.sled.plat.modReset = false → y ∈ rest → y ≠ x → 2 ≤ s.sled.plat.windows →
    ∃ t, exec (.strapWindowEnd (x :: rest)) s = .next t ∧ t.pending = s.pending ∧
      t.sled.plat.sampling = false ∧ t.sled.plat.unstable = true ∧
      (∀ i : Fin 11, (∀ z ∈ rest, z.getLsbD i = x.getLsbD i) →
        t.sled.plat.strap.getLsbD i = x.getLsbD i ∧ t.sled.plat.unstableMask.getLsbD i = false) ∧
      t.sled = { s.sled with plat := t.sled.plat, regs := t.sled.regs, free := s.sled.free + 1 }) ∧
  (∀ (s : State) (b : Bool), s.sled.kpr.session = none →
    exec (.updLockNDebounced b) s =
      .next { s with sled := { s.sled with plat := { s.sled.plat with updLock := b } } }) ∧
  (∀ (s : State) (x : Session), s.sled.kpr.session = some x → (fget s.sled.kpr.coll [] 0).length < 16 →
    ∃ t, exec (.updLockNDebounced true) s = .next t ∧ t.pending = s.pending ∧ t.sled.plat.updLock = true ∧
      t.sled.kpr.session = none ∧ (∀ c n, FlashOp.updatePiece c n ∉ t.sled.kpr.ops) ∧
      fget t.sled.kpr.coll [] 0 = fget s.sled.kpr.coll [] 0 ++ [recStamp s.sled (mkRec 0xA002 0)] ∧
      t.sled.fl = s.sled.fl) ∧
  (∀ s : State, exec (.removeReqNDebounced false) s =
      .next { s with sled := { s.sled with plat := { s.sled.plat with removeReq := false } } }) ∧
  (∀ s : State, s.sled.plat.quiesce = .none → s.sled.kpr.phase = .running →
    ∃ t, exec (.removeReqNDebounced true) s = .next t ∧ t.pending = s.pending ∧
      t.sled.plat = { s.sled.plat with removeReq := true, quiesce := .draining, ready := false } ∧
      t.sled.kpr = { s.sled.kpr with alert := true } ∧
      t.sled = { s.sled with plat := t.sled.plat, kpr := t.sled.kpr, regs := t.sled.regs, hst := t.sled.hst
                             outs := t.sled.outs }) ∧
  (∀ s : State, s.sled.plat.quiesce = .draining → (fxQuiesceTqExpire s.sled).stall = s.sled.stall →
    ∃ t, exec .quiesceTqExpire s = .next t ∧ t.pending = s.pending ∧ t.sled.hst.up = false ∧
      t.sled.hst.speed = 0 ∧ t.sled.hst.width = 0) ∧
  (∀ s : State, s.sled.plat.quiesce = .expired → s.sled.plat.rails = .off → s.sled.kpr.ops = [] →
    s.sled.kpr.phase = .running →
    exec .quiesceSafeToRemove s = .next { s with sled := { s.sled with
      plat := { s.sled.plat with quiesce := .safe, quiesced := true }, kpr := { s.sled.kpr with alert := true } } })

/-- The start of the keeper, and the choice of the profile (spec/04, R75-R81; spec/02, R42). The model's readings:
notes/assumptions/9, 10, 16. -/
def Obligations.KeeperStartsAndChoosesTheProfile : Prop :=
  (∀ s : State, s.sled.kpr.phase = .rom → s.sled.plat.supply = .on → s.sled.plat.modReset = false →
    s.sled.plat.sampling = false → s.sled.fl.readable = false →
    exec .keeperRomStart s = .next { s with sled := { s.sled with
      kpr := { s.sled.kpr with phase := .recovery }, plat := { s.sled.plat with coolant := some 100 } } }) ∧
  (∀ (s : State) (k : Nat), s.sled.kpr.phase = .rom → s.sled.plat.supply = .on → s.sled.plat.modReset = false →
    s.sled.plat.sampling = false → s.sled.fl.readable = true → keeperSlot s.sled = some k →
    onTrial s.sled 1 (dirOf s.sled).kprSlot = false → s.sled.plat.unstable = false →
    ∃ t, exec .keeperRomStart s = .next t ∧ t.pending = s.pending ∧ t.sled.kpr.phase = .running ∧
      t.sled.kpr.slot = k ∧ t.sled.plat.coolant = some 100 ∧ t.sled.fl.boot = s.sled.fl.boot + 1 ∧
      t.sled.kpr.tier = s.sled.kpr.tier ∧ t.sled.mem = s.sled.mem ∧ t.sled.isl = s.sled.isl ∧
      (s.sled.plat.removeReq = true → s.sled.plat.quiesce = .none → t.sled.plat.quiesce = .draining)) ∧
  (∀ (s : State) (n c : Nat) (p : Ppi), s.sled.kpr.phase = .running → s.sled.kpr.chosen = false →
    s.sled.plat.sampling = false → s.sled.kpr.tier ≠ 1 → s.sled.fl.override.cur = some (some n) →
    readPpi { s.sled with fl := { s.sled.fl with override := s.sled.fl.override.write none } } n = (c, .ok p) →
    (∀ x ∈ p.sections, 1 ≤ x ∧ x ≤ 6) → p.cfg.unused = 0 →
    exec .profileSelect s = .next { s with sled := { s.sled with
      fl := { s.sled.fl with override := s.sled.fl.override.write none }
      prof := some p
      kpr := { s.sled.kpr with prof := n, copy := c, chosen := true, digProf := some (Config.digest p.id) } } }) ∧
  (∀ (s : State) (c : Nat) (p : Ppi), s.sled.kpr.phase = .running → s.sled.kpr.chosen = false →
    s.sled.plat.sampling = false → s.sled.kpr.tier ≠ 1 → s.sled.fl.override.cur = none →
    s.sled.plat.unstable = false ∨ s.sled.plat.unstableMask &&& 0x300#11 = 0 →
    readPpi s.sled (bitsOf s.sled.plat.strap.toNat 8 2) = (c, .ok p) →
    (∀ x ∈ p.sections, 1 ≤ x ∧ x ≤ 6) → p.cfg.unused = 0 →
    exec .profileSelect s = .next { s with sled := { s.sled with
      prof := some p
      kpr := { s.sled.kpr with
        prof := bitsOf s.sled.plat.strap.toNat 8 2, copy := c, chosen := true, digProf := some (Config.digest p.id) } } }) ∧
  (∀ (s : State) (n c c0 r : Nat) (p : Ppi), s.sled.kpr.phase = .running → s.sled.kpr.chosen = false →
    s.sled.plat.sampling = false → s.sled.kpr.tier ≠ 1 → s.sled.fl.override.cur = none →
    s.sled.plat.unstable = false → n = bitsOf s.sled.plat.strap.toNat 8 2 → n ≠ 0 →
    readPpi s.sled n = (c, .error r) → onTrial s.sled (0x10 + n) c = false → readPpi s.sled 0 = (c0, .ok p) →
    ∃ t, exec .profileSelect s = .next t ∧ t.pending = s.pending ∧ t.sled.prof = some p ∧ t.sled.kpr.prof = 0 ∧
      t.sled.kpr.fallback = true ∧ t.sled.kpr.chosen = true ∧ t.sled.fl = s.sled.fl ∧ t.sled.mem = s.sled.mem) ∧
  (∀ (s : State) (n : Nat), s.sled.kpr.phase = .running → s.sled.kpr.chosen = false →
    s.sled.plat.sampling = false → s.sled.kpr.tier = 1 → s.sled.fl.override.cur = some (some n) →
    exec .profileSelect s = .next { s with sled := { s.sled with
      fl := { s.sled.fl with override := s.sled.fl.override.write none }
      kpr := { s.sled.kpr with chosen := true } } }) ∧
  (∀ (s : State) (w : BitVec 12), s.sled.kpr.phase = .running → s.sled.plat.demand = none → s.sled.kpr.chosen = true →
    exec (.firstPwrDemandWrite w) s = .next { s with sled := { s.sled with plat := { s.sled.plat with
      rangeHigh := some (decide (1000 < capOf s.sled) && decide (s.sled.kpr.tier ≠ 1)), demand := some w.toNat } } })

/-- The release of the runtime, READY and the training cache (spec/04, R81, R82, R87; spec/18, R443). The model's
readings: notes/assumptions/16, 24, 32. -/
def Obligations.RuntimeReleaseReadyAndTrainingCache : Prop :=
  (∀ (s : State) (k : Nat), s.sled.kpr.phase = .running → s.sled.plat.rails = .up → s.sled.prof.isSome = true →
    s.sled.kpr.chosen = true → s.sled.kpr.tier ≠ 1 → s.sled.kpr.booted = false → s.sled.ccRunning = 0 →
    s.sled.ccOffline = 0 → s.sled.plat.demand.isSome = true → s.sled.kpr.digRt = none → runtimeSlot s.sled = (some k, s.sled) →
    ∃ t, exec (.runtimeRelease (BitVec.allOnes 38)) s = .next t ∧ t.pending = s.pending ∧ t.sled.ccRunning = 15 ∧
      t.sled.kpr.rtSlot = k ∧
      t.sled.kpr.digRt = (ffind s.sled.fl.runtime (runtimeAt k)).map (fun i => Config.digest i.id) ∧
      t.sled.ctlMem = ffind s.sled.fl.runtime (runtimeAt k) ∧ t.sled.clearing = false ∧
      (∀ a, memGet t.sled.mem a = if 2 ^ 40 ≤ a then 0 else memGet s.sled.mem a)) ∧
  (∀ (s : State) (p : Ppi), s.sled.ccRunning ≠ 0 → s.sled.kpr.booted = false → s.sled.kpr.tier ≠ 1 →
    s.sled.plat.rails = .up → s.sled.plat.quiesce = .none → s.sled.kpr.phase = .running → s.sled.prof = some p →
    computeSet ((List.range 9).foldl trainEnd s.sled) = true → (fxReadyRaise s.sled).stall = s.sled.stall →
    ∃ t, exec .readyRaise s = .next t ∧ t.pending = s.pending ∧ t.sled.plat.ready = true ∧ t.sled.kpr.tier = 2 ∧
      t.sled.kpr.booted = true) ∧
  (∀ s : State, s.sled.kpr.phase = .running → s.sled.kpr.booted = true → s.sled.kpr.cachePend ≠ 0 →
    s.sled.plat.quiesce ≠ .expired → (dirOf s.sled).seq + 1 < 2 ^ 32 →
    ∃ t, exec .trainingCacheWrite s = .next t ∧ t.pending = s.pending ∧
      t.sled = { s.sled with fl := t.sled.fl, kpr := { s.sled.kpr with cachePend := 0 } } ∧
      (∀ st : Fin 9, bitAt s.sled.kpr.cachePend st = true →
        ffind t.sled.fl.train (trainAt (1 - bitsOf (dirOf s.sled).trainGen st 1) st) = some (trainRecOf s.sled st)) ∧
      (dirOf t.sled).seq = (dirOf s.sled).seq + 1)

/-- R83 (spec/04): at the time limit of a start in which READY has not been driven high, the control cores are
halted, CFG_BOOT_TIMEOUT is logged and the sled is in watch-only. -/
def Obligations.BootTimeoutHaltsCoresAndFallsToWatchOnly : Prop :=
  ∀ s : State, s.sled.kpr.phase = .running → s.sled.kpr.booted = false → s.sled.kpr.tier = 0 →
    s.sled.plat.pwrEn = true → s.sled.kpr.bootAt + 60000 * ms ≤ s.sled.now →
    (fget s.sled.kpr.coll [] 0).length < 16 →
    ∃ t r, exec .bootTimeout s = .next t ∧ t.pending = s.pending ∧ t.sled.ccRunning = 0 ∧ t.sled.kpr.tier = 1 ∧
      t.sled.plat.ready = false ∧ r ∈ fget t.sled.kpr.coll [] 0 ∧ r.code = 0x9009 ∧ t.sled.mem = s.sled.mem ∧
      t.sled.ctr = s.sled.ctr ∧ t.sled.sem = s.sled.sem ∧ t.sled.bank = s.sled.bank

/-- Warm, tenant and core reset (spec/03, R61, R63; spec/22, R424). The model's readings: notes/assumptions/29. -/
def Obligations.WarmTenantAndCoreReset : Prop :=
  (∀ (s : State) (i : Fin 4), canAct s.sled (.cc i) = true → islRuns s.sled 0 = true → s.sled.plat.rails = .up →
    s.sled.prof.isSome = true → digestBad s.sled = none → s.sled.xing = [] →
    (∀ p ∈ s.sled.chan, p.2.q = [] ∧ ∀ e ∈ p.2.retry, e.out = none) →
    ∃ t, exec (.glbResetWarm (.cc i)) s = .next t ∧ t.pending = s.pending ∧
      t.sled.ctr = [] ∧ t.sled.sem = [] ∧ t.sled.waits = [] ∧ t.sled.bank = [] ∧ t.sled.bcs = [] ∧ t.sled.vc = [] ∧
      t.sled.lnk = [] ∧ t.sled.ste = {} ∧ t.sled.fab = {} ∧ t.sled.ccRunning = 0 ∧ t.sled.clearing = true ∧
      t.sled.mem = s.sled.mem ∧ t.sled.ecc = s.sled.ecc ∧ t.sled.hst = s.sled.hst ∧ t.sled.prof = s.sled.prof ∧
      t.sled.fl = s.sled.fl ∧ t.sled.kpr.phase = s.sled.kpr.phase ∧ t.sled.kpr.tier = s.sled.kpr.tier ∧
      t.sled.plat = { s.sled.plat with coreReset := [], tenantReset := [] } ∧
      (∀ st : Fin 9, (fget t.sled.mcs {} st).selfRefresh = true ∧
        (fget t.sled.mcs {} st).dlyLive = (fget s.sled.mcs {} st).dlyLive) ∧
      rField t.sled bKPR 0 0 4 = 4) ∧
  (∀ (s : State) (i : Fin 4) (t : Tenant), canAct s.sled (.cc i) = true → islRuns s.sled 0 = true →
    s.sled.locked = [] → s.sled.plat.tenantReset = [] → s.sled.plat.coreReset = [] → s.sled.plat.rails = .up →
    ∃ u, exec (.tenantRst (.cc i) t) s = .next u ∧ u.pending = s.pending ∧
      u.sled.plat = { s.sled.plat with tenantReset := [(t.val, true)] } ∧ u.sled.fl = s.sled.fl ∧
      u.sled.prof = s.sled.prof) ∧
  (∀ (s : State) (i : Fin 4) (core : Fin 8), canAct s.sled (.cc i) = true → islRuns s.sled 0 = true →
    s.sled.locked = [] → s.sled.plat.tenantReset = [] → s.sled.plat.coreReset = [] → islRuns s.sled (iVC core) = true →
    ∃ u, exec (.coreRst (.cc i) (Fin.ofNat 16 core.val)) s = .next u ∧ u.pending = s.pending ∧
      u.sled.plat = { s.sled.plat with coreReset := [(core.val, true)] } ∧ islState u.sled (iVC core) = 1 ∧
      (∀ j, j ≠ iVC core → islState u.sled j = islState s.sled j) ∧ fget u.sled.vc {} core.val = {} ∧
      u.sled.mem = s.sled.mem ∧ u.sled.ctr = s.sled.ctr ∧ u.sled.sem = s.sled.sem ∧ u.sled.fl = s.sled.fl ∧
      rField u.sled bKPR 0 0 4 = 6) ∧
  (∀ (s : State) (t : Tenant), s.sled.plat.tenantReset.any (·.1 = t.val) = true →
    (∀ c ∈ s.sled.plat.coreReset, c.1 < 8 → bitAt (vcMask s.sled t) c.1 = false) →
    ∃ u, exec (.tenantResetDone t) s = .next u ∧ u.pending = s.pending ∧
      u.sled.plat = { s.sled.plat with tenantReset := s.sled.plat.tenantReset.filter fun x => x.1 ≠ t.val } ∧
      u.sled = { s.sled with plat := u.sled.plat, regs := u.sled.regs, hst := u.sled.hst, outs := u.sled.outs }) ∧
  (∀ (s : State) (core : Fin 8), s.sled.plat.coreReset.any (·.1 = core.val) = true →
    exec (.coreResetDone (Fin.ofNat 12 core.val)) s = .next { s with sled := setIsl (iVC core) 2 { s.sled with
      plat := { s.sled.plat with coreReset := s.sled.plat.coreReset.filter fun x => x.1 ≠ core.val } } }) ∧
  (∀ (s : State) (i : Fin 4), s.sled.plat.coreReset.any (·.1 = 8 + i.val) = true →
    s.sled.ccOffline.getLsbD i = false →
    ∃ u, exec (.coreResetDone (Fin.ofNat 12 (8 + i.val))) s = .next u ∧ u.pending = s.pending ∧
      u.sled.ccRunning.getLsbD i = true ∧
      u.sled = { s.sled with plat := u.sled.plat, ccRunning := u.sled.ccRunning, kpr := u.sled.kpr })

/-! ## Register space (spec/05, spec/21) -/

/-- A register write does to each field what its access class says (spec/21, R406, R407, R411), and nothing to any
other register: RW on SYN_ADMIN_DATA, W1C on an error-capture register, LK with the LOCK bit on MAP_ROUTE, CNT on a
trouble counter. A register access of a size or an offset that no register has, or by an agent that does not reach
the block, changes nothing and is logged as an access to an unmapped address; so is an access outside the mapped
memory, and a read of it returns 0 (spec/21, R404, R405, R410, R420); so is one to a link's registers beside LNK_CTL
while EN = 0 (spec/15, R291). A write to an MC island whose clock stands in a speed change waits at the crossing
(spec/07, R140). GLB_COMPAT: KT3 takes the written value only
where the pin is low, the profile allows it and the register is not locked; LOCK holds it (spec/21, R411, R414). The
model's readings: notes/assumptions/28. -/
def Obligations.RegisterAccessesFollowClassesAndMap : Prop :=
  (∀ (s : State) (a : Agent) (v : Word), canAct s.sled a = true → blkReach a bSYN = true →
    islRuns s.sled iNOC = true → lockedReg s.sled bSYN 8 = false →
    ∃ t, exec (.registerWrite a 0xF003000008 .b8 v) s = .next t ∧ t.pending = s.pending ∧
      bitsOf (rGet t.sled bSYN 8) 0 48 = v.toNat % 2 ^ 48 ∧ t.sled = { s.sled with regs := t.sled.regs } ∧
      ∀ blk off, off < 0x100000 → (blk, off) ≠ (bSYN, 8) → rGet t.sled blk off = rGet s.sled blk off) ∧
  (∀ (s : State) (a : Agent) (v : Word), canAct s.sled a = true → blkReach a bSYN = true →
    islRuns s.sled iNOC = true → lockedReg s.sled bSYN 8 = true →
    exec (.registerWrite a 0xF003000008 .b8 v) s = .next { s with sled := lockHit s.sled }) ∧
  (∀ (s : State) (a : Agent) (v : Word), canAct s.sled a = true → blkReach a (bMC 0) = true →
    islRuns s.sled (iMC 0) = true → crossHeld s.sled (bMC 0) = false →
    ∃ t, exec (.registerWrite a 0xF001000400 .b8 v) s = .next t ∧ t.pending = s.pending ∧
      bitAt (rGet t.sled (bMC 0) 0x400) 48 = (bitAt (rGet s.sled (bMC 0) 0x400) 48 && !v.getLsbD 48) ∧
      bitsOf (rGet t.sled (bMC 0) 0x400) 0 48 = bitsOf (rGet s.sled (bMC 0) 0x400) 0 48 ∧
      t.sled = { s.sled with regs := t.sled.regs }) ∧
  (∀ (s : State) (a : Agent) (v : Word), canAct s.sled a = true → blkReach a bMAP = true →
    islRuns s.sled iNOC = true → lockedReg s.sled bMAP 0x800 = false → bitAt (rGet s.sled bMAP 0x800) 63 = false →
    ∃ t, exec (.registerWrite a 0xF000200800 .b8 v) s = .next t ∧ t.pending = s.pending ∧
      bitsOf (rGet t.sled bMAP 0x800) 0 23 = v.toNat % 2 ^ 23 ∧
      bitAt (rGet t.sled bMAP 0x800) 63 = v.getLsbD 63 ∧ t.sled = { s.sled with regs := t.sled.regs }) ∧
  (∀ (s : State) (a : Agent) (v : Word), canAct s.sled a = true → blkReach a bMAP = true →
    islRuns s.sled iNOC = true → bitAt (rGet s.sled bMAP 0x800) 63 = true →
    exec (.registerWrite a 0xF000200800 .b8 v) s = .next { s with sled := lockHit s.sled }) ∧
  (∀ (s : State) (a : Agent) (v : Word), canAct s.sled a = true → blkReach a bSYN = true →
    islRuns s.sled iNOC = true → kt3 s.sled = false →
    ∃ t, exec (.registerWrite a 0xF003000300 .b4 v) s = .next t ∧ t.pending = s.pending ∧
      bitsOf (rGet t.sled bSYN 0x300) 0 32 = v.toNat % 2 ^ 32 ∧ t.sled = { s.sled with regs := t.sled.regs }) ∧
  (∀ (s : State) (a : Agent) (v : Word), canAct s.sled a = true → blkReach a (bMC 0) = true →
    islRuns s.sled (iMC 0) = true → crossHeld s.sled (bMC 0) = true →
    exec (.registerWrite a 0xF001000400 .b8 v) s = .next { s with sled := { s.sled with
      xing := s.sled.xing ++ [{ stack := 0, agent := a, addr := 0xF001000400, bytes := 8, value := v.toNat }] } }) ∧
  (∀ (s : State) (a : Agent) (l : LinkId) (v : Word), canAct s.sled a = true → rField s.sled (bLNK l) 0 0 1 = 0 →
    exec (.registerWrite a (BitVec.ofNat 40 (regAddr (bLNK l) 0x10)) .b8 v) s =
      .next { s with sled := unmappedReg a (bLNK l) 0x10 s.sled }) ∧
  (∀ (s : State) (a : Agent) (addr : LAddr) (v : Word) (size : AccSize) (blk off : Nat), canAct s.sled a = true →
    regSplit addr.toNat = some (blk, off) →
    (size = .b1 ∨ size = .b2 ∨ regFields blk (off / 8 * 8) = none ∨ blkReach a blk = false) →
    exec (.registerWrite a addr size v) s = .next { s with sled := unmappedReg a blk off s.sled }) ∧
  (∀ (s : State) (a : Agent) (l : LAddr) (g : GAddr), canAct s.sled a = true → regSplit l.toNat = none →
    placeOf s.sled l.toNat = none → (l.toNat < 0x8100000000 ∨ 0x81001E8000 ≤ l.toNat) →
    g.toNat = moduleId s.sled * 2 ^ 40 + l.toNat →
    let u := logUnmapped (whoAgent s.sled a) l.toNat (ownerIsland s.sled l.toNat) s.sled
    exec (.unmappedAccess a g true) s = .next { s with sled := u } ∧
      exec (.unmappedAccess a g false) s = .next { s with sled := returnVal (whoAgent u a) 0 u }) ∧
  (∀ (s : Sled) (a : Agent) (addr n : Nat), regMapped s a addr n = false → (regLoad a addr n s).1 = 0) ∧
  (∀ (s : State) (a : Agent) (k : Bool) (p : Ppi), canAct s.sled a = true → blkReach a bGLB = true →
    islRuns s.sled 0 = true → s.sled.prof = some p → p.cfg.allowKt3 = true → s.sled.plat.strap.getLsbD 10 = false →
    lockedReg s.sled bGLB 0x20 = false → bitAt (rGet s.sled bGLB 0x20) 63 = false →
    exec (.glbCompatWrite a k false) s =
      .next { s with sled := kt3Clamp (rSetField bGLB 0x20 0 1 (b2n k) s.sled) }) ∧
  (∀ (s : State) (a : Agent) (k : Bool), canAct s.sled a = true → blkReach a bGLB = true →
    islRuns s.sled 0 = true → s.sled.plat.strap.getLsbD 10 = true →
    lockedReg s.sled bGLB 0x20 = false → bitAt (rGet s.sled bGLB 0x20) 63 = false →
    exec (.glbCompatWrite a k false) s = .next s ∧
    exec (.glbCompatWrite a k true) s = .next { s with sled := rSetField bGLB 0x20 63 1 1 s.sled }) ∧
  (∀ (s : State) (a : Agent) (k l : Bool), canAct s.sled a = true → blkReach a bGLB = true →
    islRuns s.sled 0 = true → bitAt (rGet s.sled bGLB 0x20) 63 = true →
    exec (.glbCompatWrite a k l) s = .next { s with sled := lockHit s.sled }) ∧
  (∀ (s : State), s.sled.plat.strap.getLsbD 10 = true → kt3 s.sled = true)

/-- R105 (spec/05): a write of MAP_PROBE_ADDR translates that address; the result's fields are the user coordinates
and the region, or UNMAPPED and 0 elsewhere; nothing else changes, nothing is logged, and a read by any agent that
reaches the block returns the result. -/
def Obligations.ProbeReportsTheTranslation : Prop :=
  ∀ (s : State) (a : Agent) (addr : LAddr), canAct s.sled a = true → blkReach a bMAP = true →
    islRuns s.sled iNOC = true → lockedReg s.sled bMAP 0x100 = false →
    ∃ t, exec (.mapProbe a addr) s = .next t ∧ t.pending = s.pending ∧ rGet t.sled bMAP 0x100 = addr.toNat ∧
      (∀ c n, translate s.sled addr.toNat = some (c, n) →
        bitAt (rGet t.sled bMAP 0x108) 63 = false ∧ bitsOf (rGet t.sled bMAP 0x108) 0 5 = c.col ∧
        bitsOf (rGet t.sled bMAP 0x108) 5 16 = c.row ∧ bitsOf (rGet t.sled bMAP 0x108) 21 4 = c.bank ∧
        bitsOf (rGet t.sled bMAP 0x108) 25 2 = c.rank ∧ bitsOf (rGet t.sled bMAP 0x108) 27 4 = c.chan ∧
        bitsOf (rGet t.sled bMAP 0x108) 31 3 = c.stack ∧ bitsOf (rGet t.sled bMAP 0x108) 36 4 = n) ∧
      (translate s.sled addr.toNat = none → rGet t.sled bMAP 0x108 = 2 ^ 63) ∧
      (∀ b : Agent, blkReach b bMAP = true →
        regLoad b 0xF000200108 8 t.sled = (rGet t.sled bMAP 0x108, t.sled)) ∧
      t.sled = { s.sled with regs := t.sled.regs } ∧
      ∀ blk off, off < 0x100000 → (blk, off) ≠ (bMAP, 0x100) → (blk, off) ≠ (bMAP, 0x108) →
        rGet t.sled blk off = rGet s.sled blk off

/-! ## The DRAM channels and their training (spec/06, spec/07, spec/09) -/

/-- A request takes an entry of its channel's queue where its port has room, else its port is back-pressured; one to an
unmapped address is logged, and a read of it answers 0 (spec/05, R96). A request's urgency follows its age, rises at
half, three quarters and all of its port's target, and never falls; an older request takes the urgency of a younger one
that it overlaps (spec/06, R109-R111, R113). Among the requests of
one urgency the slot serves a row hit before an ACT, and of the row hits the oldest, the lower port first (spec/06,
R112). The model's readings: notes/assumptions/24. -/
def Obligations.RequestsQueueAndTheOldestRowHitGoesFirst : Prop :=
  (∀ (s : State) (port : Fin 12) (addr : LAddr) (wr : Option (BitVec 32 × BitVec 256)) (c d : Coord) (n : Nat),
    translate s.sled addr.toNat = some (c, n) → c.redirected s.sled = d → islRuns s.sled iNOC = true →
    islRuns s.sled (iMC d.stack) = true → queueRoom (getChan s.sled d.stack d.chan).q port.val = true →
    unreadable s.sled d.stack d.chan d.rank = false ∨ rankHeld s.sled d.stack d.chan d.rank = true →
    ∃ t r, exec (.requestEnqueue port addr wr) s = .next t ∧ t.pending = s.pending ∧
      (getChan t.sled d.stack d.chan).q = inherit_ ((getChan s.sled d.stack d.chan).q ++ [r]) ∧
      r.port = port.val ∧ r.bank = d.rank * 16 + d.bank ∧ r.row = d.row ∧ r.col = d.col ∧ r.wr = wr ∧
      r.u = (if port.val = 11 then 3 else 0) ∧ r.at_ = chTime s.sled d.stack d.chan ∧ r.phys = d.phys / 32 * 32 ∧
      t.sled = { s.sled with chan := t.sled.chan } ∧
      ∀ st k, chanKey st k ≠ chanKey d.stack d.chan → getChan t.sled st k = getChan s.sled st k) ∧
  (∀ (s : State) (port : Fin 12) (addr : LAddr) (wr : Option (BitVec 32 × BitVec 256)) (c : Coord) (n : Nat),
    translate s.sled addr.toNat = some (c, n) → islRuns s.sled (iMC (c.redirected s.sled).stack) = true →
    queueRoom (getChan s.sled (c.redirected s.sled).stack (c.redirected s.sled).chan).q port.val = false →
    exec (.requestEnqueue port addr wr) s = .next s) ∧
  (∀ (s : State) (port : Fin 12) (addr : LAddr) (d : BitVec 32 × BitVec 256), translate s.sled addr.toNat = none →
    islRuns s.sled iNOC = true →
    let u := logUnmapped (portWho port) addr.toNat iNOC s.sled
    exec (.requestEnqueue port addr (some d)) s = .next { s with sled := u } ∧
      exec (.requestEnqueue port addr none) s = .next { s with sled := emit (.data port 0 false) u }) ∧
  (∀ (q : List Req) (i j : Nat) (x y a b : Req), i < j → q[i]? = some x → q[j]? = some y → reqOverlap x y = true →
    (inherit_ q)[i]? = some a → (inherit_ q)[j]? = some b → b.u ≤ a.u ∧ a = { x with u := a.u }) ∧
  (∀ (s : State) (st : StackId) (c : ChanId) (i : Fin 64) (r : Req), (getChan s.sled st c).q[i.val]? = some r →
    let a := Req.aged s.sled st (chTime s.sled st c) r
    let u := updChan st c (fun ch => { ch with q := inherit_ (ch.q.set i.val a) }) s.sled
    exec (.urgencyRaise st c i) s = .next { s with sled := u } ∧ r.u ≤ a.u ∧ (r.port = 11 → 3 ≤ a.u) ∧
      ∀ t, chTime s.sled st c ≤ t → a.u ≤ (Req.aged s.sled st t r).u) ∧
  (∀ (s : Sled) (st : StackId) (p : Fin 11), rField s (bMC st) (0x10 + 8 * p.val) 0 16 = 2000 → binOf s st = 0 →
    urgencyOf s st p (1000 * ns - 1) = 0 ∧ urgencyOf s st p (1000 * ns) = 1 ∧ urgencyOf s st p (1500 * ns) = 2 ∧
      urgencyOf s st p (2000 * ns) = 3) ∧
  (∀ (s : State) (st : StackId) (c : ChanId) (b : CBank) (row : Nat),
    (getBt (getChan s.sled st c) b).row = some row →
    exec (.batchWindowClose st c b) s =
      .next { s with sled := updBt st c b (fun x => { x with closed := true }) s.sled }) ∧
  (∀ (s : Sled) (st c t u i : Nat), pickReq s st c t u = .col i →
    ∃ r, (getChan s st c).q[i]? = some r ∧ r.u = u ∧ colReady s st c t i r = true ∧
      ∀ j x, (getChan s st c).q[j]? = some x → x.u = u → colReady s st c t j x = true →
        r.at_ < x.at_ ∨ (r.at_ = x.at_ ∧ r.port ≤ x.port)) ∧
  (∀ (s : Sled) (st c t u i : Nat), pickReq s st c t u = .act i →
    ∀ j x, (getChan s st c).q[j]? = some x → x.u = u → colReady s st c t j x = false)

/-- What a command slot issues: the next ignored command in a replay, nothing but the slot's time in the waits of one or
in a pause; the refresh of a bank that owes eight before anything else; the ACT for a request and then its column, which
closes the row behind the last request and whose data reaches the port after its latency (spec/06, R106, R107, R112,
R116, R122, R123). Refresh debt: each increment, at its bank's time, adds one up to eight, and the next comes a tREFI_B
of the rank's rate later; the ninth is lost, counted and logged (spec/06, R114, R117, R119). The model's readings: notes/assumptions/24. -/
def Obligations.CommandSlotIssuesRefreshActAndColumn : Prop :=
  (∀ (s : State) (st : StackId) (c : ChanId) (ch : Chan) (t : Nat), slotAt s.sled st c ch t →
    (∃ r, ch.replay = some r ∧ (r.phase ≠ 2 ∨ r.todo = [] ∨ t < ch.rdyCmd)) ∨ (ch.replay = none ∧ ch.pause.isSome = true) →
    exec (.channelSlotArbitrate st c) s =
      .next { s with sled := updChan st c (fun ch => { ch with clk := t }) s.sled }) ∧
  (∀ (s : State) (st : StackId) (c : ChanId) (ch : Chan) (t : Nat) (r : Replay) (e : RetryEnt) (rest : List RetryEnt),
    slotAt s.sled st c ch t → ch.replay = some r → r.phase = 2 → r.todo = e :: rest → e.out = none → ch.rdyCmd ≤ t →
    ∃ u, exec (.channelSlotArbitrate st c) s = .next u ∧ u.pending = s.pending ∧
      getChan u.sled st c = { ch with
        clk := t
        retry := ({ e with ranks := 2 ^ r.rank, due := t + tRL + slotLen (binOf s.sled st) } :: ch.retry).take 32
        replay := some { r with todo := rest }
        rdyCmd := t + max (replayGap e.cmd) (if rest.isEmpty then tParAlert else 0) } ∧
      u.sled = { s.sled with chan := u.sled.chan }) ∧
  (∀ (s : State) (st : StackId) (c : ChanId) (ch : Chan) (e : RetryEnt) (p : Nat) (d : BitVec 256) (po : Bool),
    ch = getChan s.sled st c → islRuns s.sled (iMC st) = true → (fget s.sled.mcs {} st).selfRefresh = false →
    ch.replay = none → ch.pause.isSome = true → ch.retry = [e] → e.out = some (p, d, po) →
    e.due ≤ nextSlot s.sled st c →
    ∃ u, exec (.channelSlotArbitrate st c) s = .next u ∧ u.pending = s.pending ∧
      u.sled.outs = s.sled.outs ++ [.data p d po] ∧
      getChan u.sled st c = { ch with clk := nextSlot s.sled st c, retry := [{ e with out := none }] } ∧
      u.sled = { s.sled with chan := u.sled.chan, outs := u.sled.outs }) ∧
  (∀ (s : State) (st : StackId) (c : ChanId) (b : CBank) (ch : Chan) (t : Nat), slotFree s.sled st c ch t →
    (getBt ch b).owed = 8 → (∀ x : CBank, x < b → (getBt ch x).owed ≠ 8) → bankIdle s.sled st c b t = true →
    ch.rdyRef ≤ t →
    ∃ u, exec (.channelSlotArbitrate st c) s = .next u ∧ u.pending = s.pending ∧
      getBt (getChan u.sled st c) b =
        giveBack s.sled st c b { getBt ch b with owed := 7, rdyAct := t + tRFCpb } ∧
      (∀ x : CBank, x ≠ b → getBt (getChan u.sled st c) x = getBt ch x) ∧
      (getChan u.sled st c).rdyRef = t + tRREFD ∧ (getChan u.sled st c).clk = t ∧
      (getChan u.sled st c).retry = ({ ranks := 2 ^ (b.val / 16), cmd := .ref b } :: ch.retry).take 32 ∧
      (getChan u.sled st c).q = ch.q ∧
      rGet u.sled (bMC st) (0x1010 + 0x80 * c.val) =
        min (rGet s.sled (bMC st) (0x1010 + 0x80 * c.val) + 1) (if kt3 s.sled then 0xFFFF else 0xFFFFFFFF) ∧
      u.sled = { s.sled with chan := u.sled.chan, regs := u.sled.regs }) ∧
  (∀ (s : State) (st : StackId) (c : ChanId) (ch : Chan) (r : Req) (t : Nat), slotFree s.sled st c ch t →
    (∀ x : CBank, (getBt ch x).owed = 0) → bcsWants s.sled st c = false → ch.q = [r] → r.u ≤ 3 → r.bank < 64 →
    r.join = false → actReady s.sled st c t r = true →
    ∃ u, exec (.channelSlotArbitrate st c) s = .next u ∧ u.pending = s.pending ∧
      getBt (getChan u.sled st c) r.bank =
        { getBt ch r.bank with row := some r.row, joined := 0, actAt := t, closed := false, rdyCol := t + tRCD } ∧
      (getChan u.sled st c).q = [{ r with join := true }] ∧ (getChan u.sled st c).rdyAct = t + tRRD ∧
      (getChan u.sled st c).clk = t ∧
      (getChan u.sled st c).retry = ({ ranks := 2 ^ (r.bank / 16), cmd := .act r.bank r.row } :: ch.retry).take 32 ∧
      u.sled = { s.sled with chan := u.sled.chan }) ∧
  (∀ (s : State) (st : StackId) (c : ChanId) (ch : Chan) (r : Req) (t : Nat), slotFree s.sled st c ch t →
    (∀ x : CBank, (getBt ch x).owed = 0) → bcsWants s.sled st c = false → ch.q = [r] → r.u ≤ 3 → r.bank < 64 →
    r.wr = none → colReady s.sled st c t 0 r = true → eccAt s.sled (r.phys / 32 * 32) = eClean →
    unreadable s.sled (coordOf (r.phys / 32 * 32)).stack (coordOf (r.phys / 32 * 32)).chan
      (coordOf (r.phys / 32 * 32)).rank = false →
    ∃ u, exec (.channelSlotArbitrate st c) s = .next u ∧ u.pending = s.pending ∧
      (getChan u.sled st c).retry = ({ ranks := 2 ^ (r.bank / 16), cmd := .col r
                                       due := t + tRL + slotLen (binOf s.sled st)
                                       out := some (r.port, BitVec.ofNat 256
                                         (leNat (memRead s.sled.mem (r.phys / 32 * 32) 32)), false) } :: ch.retry).take 32 ∧
      (getChan u.sled st c).q = [] ∧ (getBt (getChan u.sled st c) r.bank).row = none ∧
      (getChan u.sled st c).rdyWr = max ch.rdyWr (t + tRTW) ∧ (getChan u.sled st c).clk = t ∧
      u.sled = { s.sled with chan := u.sled.chan, regs := u.sled.regs }) ∧
  (∀ (s : State) (st : StackId) (c : ChanId) (b : CBank), islRuns s.sled (iMC st) = true →
    (fget s.sled.mcs {} st).selfRefresh = false → (getBt (getChan s.sled st c) b).owed < 8 →
    refreshDue s.sled st c b ≤ chTime s.sled st c →
    ∃ t, exec (.refreshOwedIncrement st c b) s = .next t ∧ t.pending = s.pending ∧
      getBt (getChan t.sled st c) b = { getBt (getChan s.sled st c) b with
        owed := (getBt (getChan s.sled st c) b).owed + 1
        fast := bitAt (fget s.sled.mcs {} st).fast (b.val / 16)
        next := some (refreshDue s.sled st c b +
          if bitAt (fget s.sled.mcs {} st).fast (b.val / 16) then 1950 * ns else 3900 * ns) } ∧
      (∀ x : CBank, x ≠ b → getBt (getChan t.sled st c) x = getBt (getChan s.sled st c) x) ∧
      t.sled = { s.sled with chan := t.sled.chan }) ∧
  (∀ (s : State) (st : StackId) (c : ChanId) (b : CBank), islRuns s.sled (iMC st) = true →
    (fget s.sled.mcs {} st).selfRefresh = false → (getBt (getChan s.sled st c) b).owed = 8 →
    refreshDue s.sled st c b ≤ chTime s.sled st c →
    ffind s.sled.kpr.rate (0x3004 * 2 ^ 40 + chanBankKey st c b) = none → (fget s.sled.kpr.coll [] (iMC st)).length < 16 →
    ∃ t, exec (.refreshOwedIncrement st c b) s = .next t ∧ t.pending = s.pending ∧
      (getBt (getChan t.sled st c) b).owed = 8 ∧
      fget t.sled.kpr.coll [] (iMC st) = fget s.sled.kpr.coll [] (iMC st) ++ [recStamp s.sled
        { mkRec 0x3004 (iMC st) with object := b.val % 16 + b.val / 16 * 16 + c.val * 64 + st.val * 1024 }] ∧
      rGet t.sled (bMC st) (0x1018 + 0x80 * c.val) =
        min (rGet s.sled (bMC st) (0x1018 + 0x80 * c.val) + 1) (if kt3 s.sled then 0xFFFF else 0xFFFFFFFF) ∧
      t.sled.mem = s.sled.mem) ∧
  (∀ (s : State) (st : StackId) (c : ChanId) (b : CBank), chTime s.sled st c < refreshDue s.sled st c b →
    exec (.refreshOwedIncrement st c b) s = .next s) ∧
  (∀ (s : State) (st : StackId) (c : ChanId) (b : CBank), (fget s.sled.mcs {} st).selfRefresh = true →
    exec (.refreshOwedIncrement st c b) s = .next s)

/-- A parity alert of a rank whose MW5 enables it starts a replay with the DISCARD that MW5 gives: the ignored commands
leave the retry buffer to be issued again, and the alert is cleared; with them issued its waits end it. The fourth failed
attempt takes the rank out of service on the channel, and what it had not executed is held (spec/06, R121-R125,
Table 6-3). Patrol scrub: with no item deferred and the
bank free, the row at the cursor is scrubbed: a single-bit error is rewritten, a fresh uncorrectable word becomes
poison, poison stays, and the cursor moves on (spec/09, R178, R179). The model's readings: notes/assumptions/24. -/
def Obligations.ParityReplayAndPatrolScrub : Prop :=
  (∀ (s : State) (st : StackId) (c : ChanId) (r : RankId) (d : BitVec 6) (more : List (Option (BitVec 6))),
    islRuns s.sled (iMC st) = true → bitAt (getChan s.sled st c).dead r = false →
    bitAt (mw5 (getChan s.sled st c) r) 0 = true → (getChan s.sled st c).pause = none →
    (getChan s.sled st c).replay = none → d.toNat ≤ buffered (getChan s.sled st c) r →
    let sp := splitIgnored r d.toNat (getChan s.sled st c).retry
    ∃ t, exec (.caparAlert st c r (some d :: more)) s = .next t ∧ t.pending = s.pending ∧
      getChan t.sled st c = { getChan s.sled st c with
        replay := some { rank := r, d := d.toNat, attempts := 0, phase := 1, todo := sp.1.reverse }
        retry := sp.2
        rdyCmd := chTime s.sled st c + tMRR + tParRecov
        mw5 := (getChan t.sled st c).mw5 } ∧
      bitsOf (mw5 (getChan t.sled st c) r) 2 6 = d.toNat ∧ bitAt (mw5 (getChan t.sled st c) r) 1 = false ∧
      rGet t.sled (bMC st) (0x1000 + 0x80 * c.val) =
        min (rGet s.sled (bMC st) (0x1000 + 0x80 * c.val) + 1) (if kt3 s.sled then 0xFFFF else 0xFFFFFFFF) ∧
      t.sled = { s.sled with chan := t.sled.chan, regs := t.sled.regs }) ∧
  (∀ (s : State) (st : StackId) (c : ChanId) (r : RankId), islRuns s.sled (iMC st) = true →
    bitAt (getChan s.sled st c).dead r = false → bitAt (mw5 (getChan s.sled st c) r) 0 = true →
    (getChan s.sled st c).pause = none → (getChan s.sled st c).replay = none → st.val < 8 →
    (getChan s.sled st c).retry.length ≤ 32 → (fget s.sled.mcs {} st).mig = none →
    spareTaken s.sled st r = true → (fget s.sled.kpr.coll [] (iMC st)).length < 16 →
    ∃ t, exec (.caparAlert st c r [none, none, none, none]) s = .next t ∧ t.pending = s.pending ∧
      (getChan t.sled st c).dead = setBit (getChan s.sled st c).dead r true ∧ (getChan t.sled st c).replay = none ∧
      (getChan t.sled st c).q = takenBack (getChan s.sled st c) r [] ++ (getChan s.sled st c).q ∧
      bitAt (mw5 (getChan t.sled st c) r) 1 = true ∧
      fget t.sled.kpr.coll [] (iMC st) = fget s.sled.kpr.coll [] (iMC st) ++ [recStamp s.sled
        { mkRec 0x3003 (iMC st) with object := r.val * 16 + c.val * 64 + st.val * 1024 }] ∧
      t.sled.mem = s.sled.mem) ∧
  (∀ (s : State) (st : StackId) (c : ChanId) (r : RankId) (reads : List (Option (BitVec 6))),
    bitAt (mw5 (getChan s.sled st c) r) 0 = false → exec (.caparAlert st c r reads) s = .next s) ∧
  (∀ (s : State) (st : StackId) (c : ChanId) (r : Replay), (getChan s.sled st c).replay = some r → r.phase = 1 →
    (getChan s.sled st c).rdyCmd ≤ chTime s.sled st c →
    let u := updChan st c (fun ch => { ch with replay := some { r with phase := 2 } }) s.sled
    exec (.caparRecovWaitEnd st c) s = .next { s with sled := u }) ∧
  (∀ (s : State) (st : StackId) (c : ChanId) (r : Replay), (getChan s.sled st c).replay = some r → r.phase = 2 →
    r.todo = [] → (getChan s.sled st c).rdyCmd ≤ chTime s.sled st c → r.attempts = 0 →
    let u := updChan st c (fun ch => { ch with replay := none }) s.sled
    exec (.caparReplayWindowEnd st c) s = .next { s with sled := u }) ∧
  (∀ (s : State) (st : StackId) (c : ChanId) (r : Replay), (getChan s.sled st c).replay = some r → r.phase = 2 →
    r.todo = [] → (getChan s.sled st c).rdyCmd ≤ chTime s.sled st c → 0 < r.attempts →
    let u := updChan st c (fun ch => { ch with replay := none }) s.sled
    let v := logLimited ms (chanKey st c) { mkRec 0x3002 (iMC st) with arg1 := r.attempts } u
    exec (.caparReplayWindowEnd st c) s = .next { s with sled := v }) ∧
  (∀ (s : State) (st : StackId) (c : ChanId) (ch : Chan) (it : ScrubItem), scrubFree s.sled st c ch →
    it = { bank := ch.curBank, row := ch.curRow, col := none } → ch.curBank < 64 → ch.curRow < 65536 →
    scrubSkips s.sled st c it = false → itemBusy s.sled st c it = false →
    (∀ n : Fin 9, (fget s.sled.mcs {} n).mig = none) →
    ∃ t, exec (.patrolScrubTick st c) s = .next t ∧ t.pending = s.pending ∧
      (∀ w, fget t.sled.ecc 0 w =
        if rowPlace s.sled st c ch.curBank ch.curRow / 32 ≤ w ∧ w < rowPlace s.sled st c ch.curBank ch.curRow / 32 + 32 then
          (if fget s.sled.ecc 0 w = eSingle then eClean
           else if fget s.sled.ecc 0 w = eFresh then ePoison else fget s.sled.ecc 0 w)
        else fget s.sled.ecc 0 w) ∧
      (∀ a, fget s.sled.ecc 0 (a / 32) ≠ eFresh → memGet t.sled.mem a = memGet s.sled.mem a) ∧
      (getChan t.sled st c).curBank = (ch.curBank + 1) % 64 ∧
      (getChan t.sled st c).curRow = (if ch.curBank = 63 then (ch.curRow + 1) % 65536 else ch.curRow) ∧
      (getChan t.sled st c).q = ch.q ∧ (getChan t.sled st c).deferred = [] ∧
      t.sled.ctr = s.sled.ctr ∧ t.sled.sem = s.sled.sem ∧ t.sled.fl = s.sled.fl)

/-- A GO of the training helper starts its step, or queues it in ascending channel order behind another channel's; in
a channel that hardware owns it clears PASS only (spec/07, R128, R131; spec/22, R428). A finished step reports PASS
and its eye, writes its delays into the shadow set, and reaches the live set only with FINAL; a failed verification
sends the stack's channel to full training, and another failed step gives the rank to a spare (spec/07, R128-R131). The model's readings: notes/assumptions/24. -/
def Obligations.TrainingStepsRunReportAndCopy : Prop :=
  (∀ (s : State) (st : StackId) (c : ChanId) (stp : BitVec 3) (r : RankId) (fin : Bool),
    islRuns s.sled (iMC st) = true → lockedReg s.sled (bMC st) (offTrain c) = false →
    rField s.sled (bMC st) (offTrain c) 11 1 = 0 → stp ≠ 0 → stp ≠ 7 → (fget s.sled.mcs {} st).helper = none →
    (fget s.sled.mcs {} st).helperQ = [] → crossHeld s.sled (bMC st) = false → stackPauses s.sled st = false →
    ∃ t, exec (.trainStepGo st c stp r fin) s = .next t ∧ t.pending = s.pending ∧
      fget t.sled.mcs {} st = { fget s.sled.mcs {} st with helper := some (c.val, stp.toNat, r.val) } ∧
      rField t.sled (bMC st) (offTrain c) 0 3 = stp.toNat ∧ rField t.sled (bMC st) (offTrain c) 4 2 = r.val ∧
      rField t.sled (bMC st) (offTrain c) 10 1 = b2n fin ∧
      t.sled = { s.sled with mcs := t.sled.mcs, regs := t.sled.regs }) ∧
  (∀ (s : State) (st : StackId) (c : ChanId) (stp : BitVec 3) (r : RankId) (fin : Bool) (h : Nat × Nat × Nat),
    islRuns s.sled (iMC st) = true → lockedReg s.sled (bMC st) (offTrain c) = false →
    rField s.sled (bMC st) (offTrain c) 11 1 = 0 → stp ≠ 0 → stp ≠ 7 → (fget s.sled.mcs {} st).helper = some h →
    h.1 ≠ c.val → (∀ x ∈ (fget s.sled.mcs {} st).helperQ, x.1 ≠ c.val) → crossHeld s.sled (bMC st) = false →
    ∃ t, exec (.trainStepGo st c stp r fin) s = .next t ∧ t.pending = s.pending ∧
      (fget t.sled.mcs {} st).helper = some h ∧
      (∀ x, x ∈ (fget t.sled.mcs {} st).helperQ ↔
        x ∈ (fget s.sled.mcs {} st).helperQ ∨ x = (c.val, stp.toNat, r.val)) ∧
      ((fget s.sled.mcs {} st).helperQ.Pairwise (fun x y => x.1 < y.1) →
        (fget t.sled.mcs {} st).helperQ.Pairwise (fun x y => x.1 < y.1)) ∧
      t.sled = { s.sled with mcs := t.sled.mcs, regs := t.sled.regs }) ∧
  (∀ (s : State) (st : StackId) (c : ChanId) (stp : BitVec 3) (r : RankId) (fin : Bool),
    islRuns s.sled (iMC st) = true → crossHeld s.sled (bMC st) = false → rField s.sled (bMC st) (offTrain c) 11 1 = 1 →
    ∃ t, exec (.trainStepGo st c stp r fin) s = .next t ∧ t.pending = s.pending ∧
      rField t.sled (bMC st) (offTrain c) 12 1 = 0 ∧ t.sled = { s.sled with regs := t.sled.regs }) ∧
  (∀ (s : State) (st : StackId) (c : ChanId) (res : TrainResult) (stp rank : Nat) (m : Mcs) (fin : Nat),
    m = fget s.sled.mcs {} st → fin = rField s.sled (bMC st) (offTrain c) 10 1 →
    islRuns s.sled (iMC st) = true → m.helper = some (c.val, stp, rank) →
    m.helperQ = [] → m.heldDly = [] → stp < 7 → rank < 4 → res.pass = true → (stp = 5 ∨ 24 ≤ res.eyeMin.toNat) →
    ∃ t, exec (.trainStepDone st c res) s = .next t ∧ t.pending = s.pending ∧
      rField t.sled (bMC st) (offTrain c) 12 1 = 1 ∧
      rField t.sled (bMC st) (offTrain c) 16 8 = res.eyeMin.toNat ∧
      rField t.sled (bMC st) (offTrain c) 24 8 = res.devMax.toNat ∧
      (fget t.sled.mcs {} st).dlyShadow = (writeShadow (liveSet m) c rank res.delays m).dlyShadow ∧
      (fin = 0 → (fget t.sled.mcs {} st).dlyLive = m.dlyLive) ∧
      (fin = 1 → fwf (0 : Nat) m.dlyShadow = true → fwf (0 : Nat) m.dlyLive = true →
        ∀ k, fget (fget t.sled.mcs {} st).dlyLive 0 k =
          if ofChan (liveSet m) c k then fget (fget t.sled.mcs {} st).dlyShadow 0 k else fget m.dlyLive 0 k) ∧
      (fget t.sled.mcs {} st).helper = none ∧
      bitAt (fget (fget t.sled.mcs {} st).passed 0 (c.val * 4 + rank)) stp = true ∧
      (chanTrained t.sled st c = true → (getChan s.sled st c).off = false → (getChan t.sled st c).online = true) ∧
      t.sled = { s.sled with mcs := t.sled.mcs, regs := t.sled.regs, chan := t.sled.chan }) ∧
  (∀ (s : State) (st : StackId) (c : ChanId) (res : TrainResult) (rank : Nat), islRuns s.sled (iMC st) = true →
    (fget s.sled.mcs {} st).helper = some (c.val, 6, rank) → rank < 4 → res.pass = false →
    (fget s.sled.kpr.coll [] iCTL).length < 16 →
    ∃ t, exec (.trainStepDone st c res) s = .next t ∧ t.pending = s.pending ∧
      rField t.sled (bMC st) (offTrain c) 12 1 = 0 ∧ bitAt t.sled.kpr.fullTrain st = true ∧
      fget t.sled.kpr.coll [] iCTL = fget s.sled.kpr.coll [] iCTL ++ [recStamp s.sled (mkRec 0x9006 iCTL)]) ∧
  (∀ (s : State) (st : StackId) (c : ChanId) (res : TrainResult) (stp rank : Nat), islRuns s.sled (iMC st) = true →
    (fget s.sled.mcs {} st).helper = some (c.val, stp, rank) → rank < 4 → stp < 6 → res.pass = false → st.val < 8 →
    spareTaken s.sled st rank = false →
    s.sled.kpr.pendingMig.length < ((List.range 4).filter (spareFree s.sled)).length →
    (fget s.sled.kpr.coll [] (iMC st)).length < 16 →
    ∃ t, exec (.trainStepDone st c res) s = .next t ∧ t.pending = s.pending ∧
      rField t.sled (bMC st) (offTrain c) 12 1 = 0 ∧
      t.sled.kpr.pendingMig = s.sled.kpr.pendingMig ++ [(st.val, rank, true)] ∧
      fget t.sled.kpr.coll [] (iMC st) = fget s.sled.kpr.coll [] (iMC st) ++
        [recStamp s.sled { mkRec 0x3005 (iMC st) with object := rank * 16 + c.val * 64 + st.val * 1024 }])

/-- A write of MC_DLY_DATA changes the selected shadow delay; it is held while a step of the channel runs, and
ignored while hardware owns the channel (spec/22, R428). A retraining pause falls due, waits for its conditions, of
which an extra one's is that no regular one is due, and at its end moves the rank's delays toward the measured centres by at most two taps; a centre more than eight taps
away is logged and owes an extra pause (spec/07, R132, R133). The model's readings: notes/assumptions/24. -/
def Obligations.DelayWritesAndRetrainingPause : Prop :=
  (∀ (s : State) (st : StackId) (taps : BitVec 6) (sel : Nat), sel = rGet s.sled (bMC st) 0x200 →
    islRuns s.sled (iMC st) = true → lockedReg s.sled (bMC st) 0x208 = false →
    ownerHw s.sled st (bitsOf sel 0 4) = false → bitAt sel 14 = false → bitsOf sel 6 7 < 96 →
    crossHeld s.sled (bMC st) = false →
    (fget s.sled.mcs {} st).helper = none →
    let k := dlyKey 0 (bitsOf sel 0 4) (bitsOf sel 4 2) (bitsOf sel 6 7) (bitsOf sel 13 1)
    ∃ t, exec (.mcDlyDataWrite st taps) s = .next t ∧ t.pending = s.pending ∧
      fget (fget t.sled.mcs {} st).dlyShadow 0 k = taps.toNat ∧
      (∀ x, x ≠ k → fget (fget t.sled.mcs {} st).dlyShadow 0 x = fget (fget s.sled.mcs {} st).dlyShadow 0 x) ∧
      fget t.sled.mcs {} st = { fget s.sled.mcs {} st with dlyShadow := (fget t.sled.mcs {} st).dlyShadow } ∧
      t.sled = { s.sled with mcs := t.sled.mcs }) ∧
  (∀ (s : State) (st : StackId) (taps : BitVec 6) (sel : Nat) (x : Nat × Nat), sel = rGet s.sled (bMC st) 0x200 →
    islRuns s.sled (iMC st) = true → lockedReg s.sled (bMC st) 0x208 = false →
    ownerHw s.sled st (bitsOf sel 0 4) = false → bitAt sel 14 = false → bitsOf sel 6 7 < 96 →
    crossHeld s.sled (bMC st) = false →
    (fget s.sled.mcs {} st).helper = some (bitsOf sel 0 4, x) →
    let k := dlyKey 0 (bitsOf sel 0 4) (bitsOf sel 4 2) (bitsOf sel 6 7) (bitsOf sel 13 1)
    let u := updMcs st (fun m => { m with heldDly := m.heldDly ++ [(k, taps.toNat)] }) s.sled
    exec (.mcDlyDataWrite st taps) s = .next { s with sled := u }) ∧
  (∀ (s : State) (st : StackId) (taps : BitVec 6), islRuns s.sled (iMC st) = true →
    lockedReg s.sled (bMC st) 0x208 = false → crossHeld s.sled (bMC st) = false →
    ownerHw s.sled st (bitsOf (rGet s.sled (bMC st) 0x200) 0 4) = true →
    exec (.mcDlyDataWrite st taps) s = .next s) ∧
  (∀ (s : State) (st : StackId) (c : ChanId), islRuns s.sled (iMC st) = true → ownerHw s.sled st c = true →
    (∀ d : ChanId, (getChan s.sled st d).extra = none) →
    ((getChan s.sled st c).replay.isSome = true ∨ (getChan s.sled st c).pause.isSome = true) →
    let u := updChan st c (fun ch => { ch with due := 1 }) s.sled
    exec (.retrainPauseDue st c) s = .next { s with sled := u }) ∧
  (∀ (s : State) (st : StackId) (c : ChanId), islRuns s.sled (iMC st) = true → ownerHw s.sled st c = true →
    (∀ d : ChanId, (getChan s.sled st d).extra = none) →
    (getChan s.sled st c).due = 1 → pauseReady s.sled st c = true →
    ∃ t, exec (.retrainPauseDue st c) s = .next t ∧ t.pending = s.pending ∧
      getChan t.sled st c = { getChan s.sled st c with
        pause := some (getChan s.sled st c).rot, rot := ((getChan s.sled st c).rot + 1) % 4, due := 0 } ∧
      t.sled = { s.sled with chan := t.sled.chan }) ∧
  (∀ (s : State) (st : StackId) (c : ChanId) (ch : Chan) (t r : Nat), slotAt s.sled st c ch t → ch.due = 0 →
    ch.extra = some r → pauseReady s.sled st c = true →
    ∃ u, exec (.channelSlotArbitrate st c) s = .next u ∧ u.pending = s.pending ∧
      getChan u.sled st c = { ch with clk := t, pause := some r, dueX := false, extra := none } ∧
      u.sled = { s.sled with chan := u.sled.chan }) ∧
  (∀ (s : State) (st : StackId) (c : ChanId) (rank : Nat) (lane : Fin 96) (w : Bool) (tap : BitVec 6) (eye : BitVec 8)
      (m : Mcs) (k : Nat),
    m = fget s.sled.mcs {} st → k = dlyKey (liveSet m) c rank lane (b2n w) →
    (getChan s.sled st c).pause = some rank → rank < 4 → lane.val < 72 → 16 ≤ eye.toNat →
    Machine.dist (fget m.dlyLive 0 k) tap.toNat ≤ 8 → fwf (0 : Nat) m.dlyShadow = true → fwf (0 : Nat) m.dlyLive = true →
    ∃ t, exec (.retrainPauseEnd st c { centres := [(lane, w, tap)], eyeMin := eye }) s = .next t ∧
      t.pending = s.pending ∧
      fget (fget t.sled.mcs {} st).dlyLive 0 k = toward (fget m.dlyShadow 0 k) tap.toNat ∧
      (∀ x, x ≠ k → fget (fget t.sled.mcs {} st).dlyShadow 0 x = fget m.dlyShadow 0 x) ∧
      rField t.sled (bMC st) (offTrain c) 24 8 = Machine.dist (fget m.dlyLive 0 k) tap.toNat ∧
      (getChan t.sled st c).pause = none ∧ fget (getChan t.sled st c).narrow 0 rank = 0 ∧
      t.sled = { s.sled with mcs := t.sled.mcs, regs := t.sled.regs, chan := t.sled.chan }) ∧
  (∀ (s : State) (st : StackId) (c : ChanId) (rank : Nat) (lane : Fin 96) (w : Bool) (tap : BitVec 6) (eye : BitVec 8),
    (getChan s.sled st c).pause = some rank → rank < 4 → lane.val < 72 → 16 ≤ eye.toNat →
    8 < Machine.dist (fget (fget s.sled.mcs {} st).dlyLive 0
      (dlyKey (liveSet (fget s.sled.mcs {} st)) c rank lane (b2n w))) tap.toNat →
    (fget s.sled.kpr.coll [] (iMC st)).length < 16 →
    ∃ t, exec (.retrainPauseEnd st c { centres := [(lane, w, tap)], eyeMin := eye }) s = .next t ∧
      t.pending = s.pending ∧ (getChan t.sled st c).extra = some rank ∧ (getChan t.sled st c).pause = none ∧
      fget t.sled.kpr.coll [] (iMC st) =
        fget s.sled.kpr.coll [] (iMC st) ++ [recStamp s.sled (mkRec 0x3006 (iMC st))]) ∧
  (∀ x centre, Machine.dist (toward x centre) x ≤ 2 ∧ (Machine.dist x centre ≤ 2 → toward x centre = centre) ∧
    Machine.dist (toward x centre) centre ≤ Machine.dist x centre)

/-- A change of speed: taken or refused with ERR, started in order with the stack in self-refresh, ended with the set
of delays for its bin, or abandoned with the former rate (spec/07, R134-R138; spec/06, R120). The model's readings:
notes/assumptions/24. -/
def Obligations.SpeedChangeRunsItsSequence : Prop :=
  (∀ (s : State) (st : StackId) (bin : BitVec 2), islRuns s.sled (iMC st) = true →
    lockedReg s.sled (bMC st) 0x300 = false → profBin s.sled ≤ min bin.toNat 2 →
    (fget s.sled.mcs {} st).speed = none →
    ∃ t, exec (.speedChangeRequest st bin) s = .next t ∧ t.pending = s.pending ∧
      rField t.sled (bMC st) 0x300 0 2 = min bin.toNat 2 ∧
      fget t.sled.mcs {} st = { fget s.sled.mcs {} st with speed := some { target := min bin.toNat 2 } } ∧
      t.sled.speedQ = s.sled.speedQ ++ [st.val] ∧
      t.sled = { s.sled with mcs := t.sled.mcs, regs := t.sled.regs, speedQ := t.sled.speedQ }) ∧
  (∀ (s : State) (st : StackId) (bin : BitVec 2), islRuns s.sled (iMC st) = true →
    lockedReg s.sled (bMC st) 0x300 = false → crossHeld s.sled (bMC st) = false →
    (min bin.toNat 2 < profBin s.sled ∨ (fget s.sled.mcs {} st).speed.isSome = true) →
    ∃ t, exec (.speedChangeRequest st bin) s = .next t ∧ t.pending = s.pending ∧
      rField t.sled (bMC st) 0x300 4 1 = 1 ∧ t.sled = { s.sled with regs := t.sled.regs }) ∧
  (∀ (s : State) (st : StackId) (v : Speed) (rest : List Nat), (fget s.sled.mcs {} st).speed = some v → v.phase = 0 →
    s.sled.speedQ = st.val :: rest → islRuns s.sled (iMC st) = true → migRuns s.sled st = false →
    (∀ c : ChanId, (getChan s.sled st c).replay = none ∧ (getChan s.sled st c).pause = none) →
    ∃ t, exec (.speedChangeStart st) s = .next t ∧ t.pending = s.pending ∧
      fget t.sled.mcs {} st =
        { fget s.sled.mcs {} st with speed := some { v with phase := 1 }, selfRefresh := true } ∧
      (∀ (c : ChanId) (b : CBank), fwf ({} : BankT) (getChan s.sled st c).bank = true →
        (getBt (getChan t.sled st c) b).row = none ∧
        (getBt (getChan t.sled st c) b).owed = (getBt (getChan s.sled st c) b).owed) ∧
      t.sled = { s.sled with mcs := t.sled.mcs, chan := t.sled.chan, outs := t.sled.outs }) ∧
  (∀ (s : State) (st : StackId) (v : Speed), (fget s.sled.mcs {} st).speed = some v → v.phase = 1 →
    (fget s.sled.mcs {} st).lowSince = none → s.sled.xing = [] →
    ∃ t, exec (.pllLockConfirmed st) s = .next t ∧ t.pending = s.pending ∧
      (fget t.sled.mcs {} st).bin = v.target ∧ (fget t.sled.mcs {} st).speed = none ∧
      (fget t.sled.mcs {} st).selfRefresh = false ∧
      ((fget t.sled.mcs {} st).setB = decide (v.target ≠ profBin s.sled)) ∧
      t.sled.speedQ = s.sled.speedQ.filter (fun x => x ≠ st.val) ∧
      (∀ (c : ChanId) (b : CBank), fwf ({} : BankT) (getChan s.sled st c).bank = true →
        (getBt (getChan t.sled st c) b).owed = 0 ∧
        (getBt (getChan t.sled st c) b).row = (getBt (getChan s.sled st c) b).row) ∧
      (∀ c : ChanId, (getChan t.sled st c).mwBin = v.target) ∧
      t.sled = { s.sled with mcs := t.sled.mcs, chan := t.sled.chan, speedQ := t.sled.speedQ }) ∧
  (∀ (s : State) (st : StackId) (v : Speed), (fget s.sled.mcs {} st).speed = some v → v.phase = 1 →
    s.sled.xing = [] →
    exec (.pllLockTimeout st) s =
      .next { s with sled := logRec (mkRec 0x3007 (iMC st)) (rSetField (bMC st) 0x300 4 1 1 (speedEnd st s.sled)) } ∧
    (fget (speedEnd st s.sled).mcs {} st).bin = (fget s.sled.mcs {} st).bin ∧
    (fget (speedEnd st s.sled).mcs {} st).dlyLive = (fget s.sled.mcs {} st).dlyLive ∧
    (fget (speedEnd st s.sled).mcs {} st).selfRefresh = false)

/-! ## Bank programs and bank arithmetic (spec/08, spec/09) -/

/-- A doorbell puts a program at the end of its queue, or at a full queue drops it with the overflow flag and a
record; a free sequencer takes the head of the next queue that holds a program (spec/08, R156). OPEN opens the row in
every named bank for the program's tenant, within the window's limit, and clears the registers that another tenant's
program wrote; beyond the limit it faults; CLOSE closes the named half (spec/08, R144-R146, R154, R157, R166). The
model's readings: notes/assumptions/23. -/
def Obligations.ProgramsQueueStartOpenAndClose : Prop :=
  (∀ (s : State) (a : Agent) (st : StackId) (q : Fin 4) (v : Word), canAct s.sled a = true →
    blkReach a (bBCS st) = true → crossHeld s.sled (bBCS st) = false →
    islRuns s.sled (iMC st) = true → (q.val = 3 → hostMode s.sled ≠ 2) →
    s.sled.plat.quiesce = .none → ((fget s.sled.bcs {} st).queues.toList.getD q []).length < 16 →
    ∃ t, exec (.bcsQdoor a st q v) s = .next t ∧ t.pending = s.pending ∧
      (fget t.sled.bcs {} st).queues.toList.getD q [] = (fget s.sled.bcs {} st).queues.toList.getD q [] ++
        [{ addr := bitsOf v.toNat 4 36 * 16, count := bitsOf v.toNat 40 16 + 1, tenant := bitsOf v.toNat 56 4 }] ∧
      (∀ j : Fin 4, j ≠ q → (fget t.sled.bcs {} st).queues.toList.getD j [] =
        (fget s.sled.bcs {} st).queues.toList.getD j []) ∧
      (fget t.sled.bcs {} st).run = (fget s.sled.bcs {} st).run ∧ t.sled = { s.sled with bcs := t.sled.bcs }) ∧
  (∀ (s : State) (a : Agent) (st : StackId) (q : Fin 4) (v : Word), canAct s.sled a = true →
    blkReach a (bBCS st) = true → crossHeld s.sled (bBCS st) = false →
    islRuns s.sled (iMC st) = true → (q.val = 3 → hostMode s.sled ≠ 2) →
    s.sled.plat.quiesce = .none → 16 ≤ ((fget s.sled.bcs {} st).queues.toList.getD q []).length →
    (fget s.sled.kpr.coll [] (iMC st)).length < 16 →
    ∃ t, exec (.bcsQdoor a st q v) s = .next t ∧ t.pending = s.pending ∧ t.sled.bcs = s.sled.bcs ∧
      bitAt (rGet t.sled (bBCS st) 0x20) 0 = true ∧
      (fget t.sled.kpr.coll [] (iMC st)).length = (fget s.sled.kpr.coll [] (iMC st)).length + 1) ∧
  (∀ (s : State) (st : StackId) (q : Fin 4) (p : Prog) (rest : List Prog), islRuns s.sled (iMC st) = true →
    (fget s.sled.mcs {} st).selfRefresh = false → (fget s.sled.bcs {} st).run = none →
    (fget s.sled.bcs {} st).queues.toList.getD q [] = p :: rest →
    (∀ i < (q.val + 3 - (fget s.sled.bcs {} st).rr % 4) % 4,
      (fget s.sled.bcs {} st).queues.toList.getD (((fget s.sled.bcs {} st).rr + 1 + i) % 4) [] = []) →
    ∃ t, exec (.bcsProgramStart st) s = .next t ∧ t.pending = s.pending ∧
      (fget t.sled.bcs {} st).run = some { prog := p, q := q.val } ∧ (fget t.sled.bcs {} st).rr = q.val ∧
      (fget t.sled.bcs {} st).queues.toList.getD q [] = rest ∧ t.sled = { s.sled with bcs := t.sled.bcs }) ∧
  (∀ (s : State) (st : StackId) (r : Run) (x : BcsInstr), atInstr s.sled st r x → banksReady s.sled st x →
    x.iop = iopOPEN → rowAllowed s.sled r.prog.tenant x.arg = true →
    (∀ k ∈ instrKeys s.sled st x, (getBt (getChan s.sled (keyStack k) (keyChan k)) (keyCBank k)).row = none ∧
      (if x.arg % 2 = 0 then (getBank s.sled k).rowE else (getBank s.sled k).rowO) = none) →
    (∀ c ∈ chans x.chmask, windowAfter s.sled (instrKeys s.sled st x) st c ≤ windowLimit s.sled st) →
    openReady s.sled x.arg (instrKeys s.sled st x) = true →
    ∃ t, exec (.bcsOpen st 0) s = .next t ∧ t.pending = s.pending ∧
      getRun t.sled st = some { r with pc := r.pc + 1 } ∧
      (∀ k ∈ instrKeys s.sled st x,
        (if x.arg % 2 = 0 then (getBank t.sled k).rowE else (getBank t.sled k).rowO) = some x.arg ∧
        (getBank t.sled k).own = st.val ∧ (getBank t.sled k).tenant = some r.prog.tenant ∧
        ((getBank s.sled k).tenant = some r.prog.tenant → (getBank t.sled k).v = (getBank s.sled k).v) ∧
        (∀ u, (getBank s.sled k).tenant = some u → u ≠ r.prog.tenant → ∀ i : Fin 8, (getBank t.sled k).v[i] = 0)) ∧
      (∀ k, k ∉ instrKeys s.sled st x → getBank t.sled k = getBank s.sled k) ∧
      (∀ c ∈ chans x.chmask, (getChan t.sled st c).bcm = true) ∧
      t.sled = { s.sled with bank := t.sled.bank, chan := t.sled.chan, btm := t.sled.btm, bcs := t.sled.bcs }) ∧
  (∀ (s : State) (st : StackId) (r : Run) (x : BcsInstr) (c : Nat), atInstr s.sled st r x → banksReady s.sled st x →
    x.iop = iopOPEN → rowAllowed s.sled r.prog.tenant x.arg = true → progHeld s.sled st = false →
    (∀ k ∈ instrKeys s.sled st x, (getBt (getChan s.sled (keyStack k) (keyChan k)) (keyCBank k)).row = none ∧
      (if x.arg % 2 = 0 then (getBank s.sled k).rowE else (getBank s.sled k).rowO) = none) →
    c ∈ chans x.chmask → windowLimit s.sled st < windowAfter s.sled (instrKeys s.sled st x) st c →
    exec (.bcsOpen st 0) s = .next { s with sled := progFault st 0x4002 r.pc s.sled }) ∧
  (∀ (s : State) (st : StackId) (r : Run) (x : BcsInstr), atInstr s.sled st r x → banksReady s.sled st x →
    x.iop = iopCLOSE → (∀ k ∈ instrKeys s.sled st x, (getBank s.sled k).q = []) →
    ∃ t, exec (.bcsClose st 0) s = .next t ∧ t.pending = s.pending ∧
      getRun t.sled st = some { r with pc := r.pc + 1 } ∧
      (∀ k ∈ instrKeys s.sled st x, getBank t.sled k =
        (if x.arg % 2 = 0 then { getBank s.sled k with rowE := none } else { getBank s.sled k with rowO := none })) ∧
      (∀ k, k ∉ instrKeys s.sled st x → getBank t.sled k = getBank s.sled k) ∧
      t.sled = { s.sled with bank := t.sled.bank, chan := t.sled.chan, btm := t.sled.btm, bcs := t.sled.bcs })

/-- R166 (spec/09): an OPEN whose row lies in no band of a valid region, or in the band of a region outside the
program tenant's DRAM regions, is not issued, and the program ends with BAU_PROG_FAULT; the region's mode plays no
part. -/
def Obligations.OpenOutsideTheTenantsRowsEndsTheProgram : Prop :=
  (∀ (s : State) (st : StackId) (r : Run) (x : BcsInstr), atInstr s.sled st r x → banksReady s.sled st x →
    x.iop = iopOPEN → rowAllowed s.sled r.prog.tenant x.arg = false → progHeld s.sled st = false →
    (∀ k ∈ instrKeys s.sled st x, (getBt (getChan s.sled (keyStack k) (keyChan k)) (keyCBank k)).row = none) →
    exec (.bcsOpen st 0) s = .next { s with sled := progFault st 0x4004 r.pc s.sled }) ∧
  (∀ (s : Sled) (t row : Nat), rowAllowed s t row = true ↔
    (∃ n < 16, (region s n).valid = true ∧ (region s n).row0 ≤ row ∧ row < (region s n).row0 + (region s n).rows) ∧
    ∀ n < 16, (region s n).valid = true → (region s n).row0 ≤ row → row < (region s n).row0 + (region s n).rows →
      (region s n).ok = true ∧ tenantReach s t (region s n).addr0 (region s n).size = true) ∧
  (∀ (s : Sled) (st pos : Nat) (r : Run), getRun s st = some r →
    getRun (progFault st 0x4004 pos s) st = none ∧
    let u := bcsFlag st 4 (progEnd st s)
    progFault st 0x4004 pos s =
      logRec { recAddr false r.prog.addr (moduleId u) (recWho u 0x4004 (whoBcs st r)) with arg2 := pos } u)

/-- BAU puts its command word, and BCW its data and a move, at the end of each named bank's queue; a command word
that R148 refuses faults the program (spec/08, R148, R151, R152). READ stores an accumulator's 64 bytes, SET sets a
stride, SIGNAL signals its counter once the earlier commands have completed, END ends the program and closes its
rows; a word that cannot be an instruction faults it (spec/08, R153, R157-R160). The model's readings:
notes/assumptions/23. -/
def Obligations.ProgramsCommandReadSetSignalAndEnd : Prop :=
  (∀ (s : State) (st : StackId) (r : Run) (x : BcsInstr) (op : Nat), atInstr s.sled st r x → banksReady s.sled st x →
    x.iop = iopBAU → opOf (kt3 s.sled) (bitsOf x.data 0 6) = some op → bauRsv (bitsOf x.data 0 40) = 0 →
    (∀ c ∈ chans x.chmask,
      bauValid s.sled (selKeys s.sled st c x.group x.banks) op (bauFields (bitsOf x.data 0 40)) = true) →
    bankRoom s.sled (instrKeys s.sled st x) = true → (instrKeys s.sled st x).Nodup →
    ∃ t, exec (.bcsBau st 0) s = .next t ∧ t.pending = s.pending ∧
      getRun t.sled st = some { r with pc := r.pc + 1 } ∧
      (∀ k ∈ instrKeys s.sled st x, getBank t.sled k = { getBank s.sled k with
        q := (getBank s.sled k).q ++ [.bau st.val op (bauFields (bitsOf x.data 0 40))]
        tenant := if op = opBST ∨ op = opBRDACC then (getBank s.sled k).tenant else some r.prog.tenant }) ∧
      (∀ k, k ∉ instrKeys s.sled st x → getBank t.sled k = getBank s.sled k) ∧
      t.sled = { s.sled with bank := t.sled.bank, chan := t.sled.chan, bcs := t.sled.bcs }) ∧
  (∀ (s : State) (st : StackId) (r : Run) (x : BcsInstr), atInstr s.sled st r x → banksReady s.sled st x →
    x.iop = iopBAU → progHeld s.sled st = false →
    (opOf (kt3 s.sled) (bitsOf x.data 0 6) = none ∨ bauRsv (bitsOf x.data 0 40) ≠ 0) →
    exec (.bcsBau st 0) s = .next { s with sled := progFault st 0x4003 r.pc s.sled }) ∧
  (∀ (s : State) (st : StackId) (r : Run) (x : BcsInstr) (c : ChanId) (e : BitVec 32) (l : List (Byte × Bool)) (ok : Bool),
    atInstr s.sled st r x → banksReady s.sled st x → x.iop = iopBCW → x.chmask = 2 ^ c.val →
    progReach s.sled r.prog.tenant (bitsOf x.data 0 40 + c * r.bcwCh) 32 = true →
    readLocal (bitsOf x.data 0 40 + c * r.bcwCh) 32 s.sled = ((l, ok), s.sled) →
    bankRoom s.sled (instrKeys s.sled st x) = true → (instrKeys s.sled st x).Nodup →
    (∀ k ∈ instrKeys s.sled st x, (getBank s.sled k).stgFull = false) →
    ∃ t, exec (.bcsBcw st 0 e) s = .next t ∧ t.pending = s.pending ∧
      getRun t.sled st = some { r with pc := r.pc + 1 } ∧
      (∀ k ∈ instrKeys s.sled st x, getBank t.sled k = { getBank s.sled k with
        stg := BitVec.ofNat 256 (leNat (l.map (·.1))), pstg := anyPoison l || decide (2 ≤ busErr e.toNat c), stgFull := true
        q := (getBank s.sled k).q ++ [.move], tenant := some r.prog.tenant }) ∧
      (∀ k, k ∉ instrKeys s.sled st x → getBank t.sled k = getBank s.sled k) ∧
      t.sled = { s.sled with bank := t.sled.bank, chan := t.sled.chan, btm := t.sled.btm, bcs := t.sled.bcs }) ∧
  (∀ (s : State) (st : StackId) (r : Run) (x : BcsInstr) (c : ChanId) (b : Fin 16) (d k v : Nat),
    atInstr s.sled st r x → banksReady s.sled st x → x.iop = iopREAD → x.chmask = 2 ^ c.val → x.banks = 2 ^ b.val →
    d = bitsOf x.data 0 40 + c * r.rdCh + b * r.rdBk → progReach s.sled r.prog.tenant d 64 = true → d % 32 = 0 →
    scratchOf d = some v → scratchOf (d + 63) = some v → islRuns s.sled (iVC v) = true → s.sled.clearing = false →
    k = bankKey s.sled st c (b / 4) (4 * x.group + b % 4) → (getBank s.sled k).q = [] →
    getPA (getBank s.sled k) (decide (x.arg % 2 = 1)) = false →
    ∃ t, exec (.bcsRead st 0) s = .next t ∧ t.pending = s.pending ∧
      getRun t.sled st = some { r with pc := r.pc + 1 } ∧
      t.sled.mem = memWrite s.sled.mem (2 ^ 40 + d) (leBytes 64 (getA (getBank s.sled k) (decide (x.arg % 2 = 1)))) ∧
      t.sled.bank = s.sled.bank ∧
      t.sled = { s.sled with mem := t.sled.mem, ecc := t.sled.ecc, chan := t.sled.chan, bcs := t.sled.bcs }) ∧
  (∀ (s : State) (st : StackId) (r : Run) (x : BcsInstr), atInstr s.sled st r x → x.iop = iopSET →
    ∃ t, exec (.bcsSet st) s = .next t ∧ t.pending = s.pending ∧
      getRun t.sled st = some { r with
        pc := r.pc + 1
        bcwCh := if x.arg % 4 = 0 then bitsOf x.data 0 40 else r.bcwCh
        rdCh := if x.arg % 4 = 1 then bitsOf x.data 0 40 else r.rdCh
        rdBk := if x.arg % 4 = 2 then bitsOf x.data 0 40 else r.rdBk } ∧
      t.sled = { s.sled with bcs := t.sled.bcs }) ∧
  (∀ (s : State) (st : StackId) (r : Run) (x : BcsInstr) (u : Sled), atInstr s.sled st r x → x.iop = iopSIGNAL →
    islRuns s.sled iNOC = true → (∀ k ∈ progKeys s.sled st, (getBank s.sled k).q = []) →
    ctrSignal (whoBcs st r) (bitsOf x.data 0 14) x.arg s.sled = (none, u) →
    exec (.bcsSignal st) s = .next { s with sled := issued st r.pc u }) ∧
  (∀ (s : State) (st : StackId) (r : Run) (x : BcsInstr), atInstr s.sled st r x → x.iop = iopEND →
    (∀ k ∈ progKeys s.sled st, (getBank s.sled k).q = []) →
    ∃ t, exec (.bcsEnd st) s = .next t ∧ t.pending = s.pending ∧ getRun t.sled st = none ∧
      (∀ k ∈ progKeys s.sled st, (getBank s.sled k).own = st.val →
        getBank t.sled k = { getBank s.sled k with rowE := none, rowO := none }) ∧
      (∀ k, (getBank s.sled k).own ≠ st.val → getBank t.sled k = getBank s.sled k) ∧
      t.sled = { s.sled with bank := t.sled.bank, chan := t.sled.chan, btm := t.sled.btm, bcs := t.sled.bcs }) ∧
  (∀ (s : State) (st : StackId) (r : Run) (x : BcsInstr), getRun s.sled st = some r →
    islRuns s.sled (iMC st) = true → (fget s.sled.mcs {} st).selfRefresh = false → r.pc < r.prog.count →
    r.ahead = [] → fetchHeld s.sled r.prog r.pc = false → instrAt s.sled r.prog r.pc = some x → x.ok = false →
    progHeld s.sled st = false →
    exec (.bcsSet st) s = .next { s with sled := progFault st 0x4004 r.pc s.sled } ∧
    exec (.bcsOpen st 0) s = .next { s with sled := progFault st 0x4004 r.pc s.sled })

/-- Every BAU command word and every BCS instruction that the encodings admit is read back field for field, in native
and in KT3 mode: no bit of an encoding is dropped (spec/08, Tables 8-2, 8-4, 8-6; spec/21, Table 21-6). -/
def Obligations.BankWordsDecodeToWhatWasEncoded : Prop :=
  (∀ (kt : Bool) (op : Nat) (f : BauFields), opOf false op = some op →
    bauFields (bauWord (codeOf kt op) f) = f ∧
    opOf kt (bitsOf (bauWord (codeOf kt op) f) 0 6) = some op ∧ bauRsv (bauWord (codeOf kt op) f) = 0 ∧
    bauWord (codeOf kt op) f < 2 ^ 40) ∧
  (∀ i : BcsInstr, i.iop < 2 ^ 4 → i.chmask < 2 ^ 16 → i.group < 4 → i.banks < 2 ^ 16 → i.arg < 2 ^ 16 →
    i.data < 2 ^ 64 → i.rsv < 2 ^ 10 → bcsDecode (bcsEncode i) = i ∧ bcsEncode i < 2 ^ 128) ∧
  (∀ x, x < 2 ^ 128 → bcsEncode (bcsDecode x) = x)

/-- BLD reads a column into a V register and BST writes a V register to its column (spec/08, R149, Table 8-4). BCW
fills the staging of every named bank and queues its move; the move puts the staged value and its poison into BC; a
column step advances each bank of the stack that has a command and is not held, and no other (spec/08, R151, R152,
R161). The model's readings: notes/assumptions/23. -/
def Obligations.BankLoadStoreAndStagingMoveColumns : Prop :=
  (∀ (s : State) (b : BankSel) (f : BauFields) (k : Nat), bauReady s.sled b k opBLD f →
    ∃ t, exec (.bld b f) s = .next t ∧ t.pending = s.pending ∧ onlyBank s.sled t.sled k ∧
      getBank t.sled k = { getBank s.sled k with
        v := (getBank s.sled k).v.set f.x.toNat (BitVec.ofNat 256 (leNat (memRead s.sled.mem (bauPlace s.sled k f) 32)))
          f.x.isLt
        pv := BitVec.ofNat 8 (setBit (getBank s.sled k).pv.toNat f.x.toNat false) }) ∧
  (∀ (s : State) (b : BankSel) (f : BauFields) (k : Nat), bauReady s.sled b k opBST f → k < 9216 →
    (bauRow (getBank s.sled k) f).getD 0 < 65536 →
    getPV (getBank s.sled k) f.x = false → (∀ n : Fin 9, (fget s.sled.mcs {} n).mig = none) →
    ∃ t, exec (.bst b f) s = .next t ∧ t.pending = s.pending ∧
      t.sled.mem = memWrite s.sled.mem (bauPlace s.sled k f) (leBytes 32 (getV (getBank s.sled k) f.x)) ∧
      eccAt t.sled (bauPlace s.sled k f) = eClean ∧ (∀ j, getBank t.sled j = getBank s.sled j) ∧
      onlySlots s.sled t.sled ∧ t.sled = { s.sled with
        mem := t.sled.mem, ecc := t.sled.ecc, bank := t.sled.bank, chan := t.sled.chan, btm := t.sled.btm, dld := t.sled.dld }) ∧
  (∀ (s : State) (b : BankSel) (d : BitVec 256) (po : Bool), bankRoom s.sled (selOf s.sled b) = true →
    (∀ k ∈ selOf s.sled b, (getBank s.sled k).stgFull = false) → (selOf s.sled b).Nodup →
    chanFree s.sled b.stack b.chan = true →
    ∃ t, exec (.bcw b d po) s = .next t ∧ t.pending = s.pending ∧ onlySlots s.sled t.sled ∧
      t.sled = { s.sled with bank := t.sled.bank, chan := t.sled.chan, btm := t.sled.btm } ∧
      ∀ k, getBank t.sled k = (if k ∈ selOf s.sled b then { getBank s.sled k with
        stg := d, pstg := po, stgFull := true, q := (getBank s.sled k).q ++ [.move] } else getBank s.sled k)) ∧
  (∀ (s : State) (b : BankSel) (k : Nat) (q : List BankCmd), selOf s.sled b = [k] → bankHeld s.sled k = false →
    (getBank s.sled k).q = .move :: q →
    ∃ t, exec (.bcStagingMove b) s = .next t ∧ t.pending = s.pending ∧ onlyBank s.sled t.sled k ∧
      getBank t.sled k = { getBank s.sled k with
        bc := (getBank s.sled k).stg, pbc := (getBank s.sled k).pstg, stg := 0, pstg := false, stgFull := false, q := q }) ∧
  (∀ (s : State) (st : StackId) (k op : Nat) (src : Nat) (f : BauFields) (q : List BankCmd), keyStack k = st.val →
    fwf ({} : BankU) s.sled.bank = true → getBank s.sled k ≠ {} → bankHeld s.sled k = false →
    (getChan s.sled st (keyChan k)).thermal ≤ chTime s.sled st (keyChan k) →
    (getBank s.sled k).q = .bau src op f :: q → (op = opBADD ∨ op = opBMUL ∨ op = opBFMA ∨ op = opBCLR) →
    (∀ j, j ≠ k → (getBank s.sled j).q = []) →
    ∃ t, exec (.columnStep st) s = .next t ∧ t.pending = s.pending ∧ onlyBank s.sled t.sled k ∧
      ((getBank s.sled k).step < f.cnt.toNat →
        (getBank t.sled k).q = .bau src op f :: q ∧ (getBank t.sled k).step = (getBank s.sled k).step + 1) ∧
      (f.cnt.toNat ≤ (getBank s.sled k).step → (getBank t.sled k).q = q ∧ (getBank t.sled k).step = 0)) ∧
  (∀ (s : State) (st : StackId), (∀ k, keyStack k = st.val → bankHeld s.sled k = true) →
    exec (.columnStep st) s = .next s)

/-- BMAC, BDOT, BEMA, BSCALE, BMAX, BMIN: the named accumulator's lanes take the rounded exact result; FP8 words fill
both accumulators, sixteen elements each (spec/08, R149, R150, Table 8-4). BADD, BMUL, BFMA, BSEL and the two forms
of BCVT: the named V register's lanes take the rounded exact result, and the other registers stay (spec/08, R149,
R150, Table 8-4). The model's readings: notes/assumptions/18, 23. -/
def Obligations.BankResultsAreRoundedOnce : Prop :=
  (∀ (s : State) (b : BankSel) (f : BauFields) (k i : Nat), bauReady s.sled b k opBMAC f → i < 16 →
    ∃ t, exec (.bmac b f) s = .next t ∧ t.pending = s.pending ∧ onlyBank s.sled t.sled k ∧
      (isFp8 f = false → laneOf 32 (getA (getBank t.sled k) f.a) i = encodeF fp32 ((accLane (getBank s.sled k) f.a i).add
        ((bauElem f.fmt.toNat (bauOperand s.sled k opBMAC f) i).mul
          (decodeF bf16 (laneOf 16 (getBank s.sled k).bc.toNat f.l.toNat)))) ∧
        getA (getBank t.sled k) (!f.a) = getA (getBank s.sled k) (!f.a)) ∧
      (isFp8 f = true → ∀ a : Bool, laneOf 32 (getA (getBank t.sled k) a) i =
        encodeF fp32 ((accLane (getBank s.sled k) a i).add
          ((bauElem f.fmt.toNat (bauOperand s.sled k opBMAC f) (16 * b2n a + i)).mul
            (decodeF bf16 (laneOf 16 (getBank s.sled k).bc.toNat f.l.toNat))))) ∧
      (getBank t.sled k).v = (getBank s.sled k).v ∧ (getBank t.sled k).bc = (getBank s.sled k).bc) ∧
  (∀ (s : State) (b : BankSel) (f : BauFields) (k i : Nat), bauReady s.sled b k opBDOT f → i < 16 →
    ∃ t, exec (.bdot b f) s = .next t ∧ t.pending = s.pending ∧ onlyBank s.sled t.sled k ∧
      laneOf 32 (getA (getBank t.sled k) f.a) i = (if i = f.l.toNat then
          encodeF fp32 ((accLane (getBank s.sled k) f.a i).add (sumF ((List.range (bauCount f.fmt.toNat)).map fun e =>
            (bauElem f.fmt.toNat (bauOperand s.sled k opBDOT f) e).mul
              (bauElem f.fmt.toNat (getBank s.sled k).bc.toNat e))))
        else laneOf 32 (getA (getBank s.sled k) f.a) i) ∧
      getA (getBank t.sled k) (!f.a) = getA (getBank s.sled k) (!f.a)) ∧
  (∀ (s : State) (b : BankSel) (f : BauFields) (k i : Nat), bauReady s.sled b k opBEMA f → i < 16 →
    ∃ t, exec (.bema b f) s = .next t ∧ t.pending = s.pending ∧ onlyBank s.sled t.sled k ∧
      laneOf 32 (getA (getBank t.sled k) f.a) i = encodeF fp32 (
        ((decodeF bf16 (laneOf 16 (getBank s.sled k).bc.toNat f.l.toNat)).mul (accLane (getBank s.sled k) f.a i)).add
        (((FVal.ofInt 1).sub (decodeF bf16 (laneOf 16 (getBank s.sled k).bc.toNat f.l.toNat))).mul
          (decodeF bf16 (laneOf 16 (bauOperand s.sled k opBEMA f) i))))) ∧
  (∀ (s : State) (b : BankSel) (f : BauFields) (k i : Nat), bauReady s.sled b k opBSCALE f → i < 16 →
    ∃ t, exec (.bscale b f) s = .next t ∧ t.pending = s.pending ∧ onlyBank s.sled t.sled k ∧
      laneOf 32 (getA (getBank t.sled k) f.a) i = encodeF fp32 ((accLane (getBank s.sled k) f.a i).mul
        (decodeF bf16 (laneOf 16 (getV (getBank s.sled k) f.y) i)))) ∧
  (∀ (s : State) (b : BankSel) (f : BauFields) (k i : Nat), bauReady s.sled b k opBMAX f → isFp8 f = false → i < 16 →
    ∃ t, exec (.bmax b f) s = .next t ∧ t.pending = s.pending ∧ onlyBank s.sled t.sled k ∧
      laneOf 32 (getA (getBank t.sled k) f.a) i = encodeF fp32 ((accLane (getBank s.sled k) f.a i).maxNum
        (bauElem f.fmt.toNat (bauOperand s.sled k opBMAX f) i))) ∧
  (∀ (s : State) (b : BankSel) (f : BauFields) (k i : Nat), bauReady s.sled b k opBMIN f → isFp8 f = false → i < 16 →
    ∃ t, exec (.bmin b f) s = .next t ∧ t.pending = s.pending ∧ onlyBank s.sled t.sled k ∧
      laneOf 32 (getA (getBank t.sled k) f.a) i = encodeF fp32 ((accLane (getBank s.sled k) f.a i).minNum
        (bauElem f.fmt.toNat (bauOperand s.sled k opBMIN f) i))) ∧
  (∀ (s : State) (b : BankSel) (f : BauFields) (k i : Nat), bauReady s.sled b k opBADD f → i < 16 →
    ∃ t, exec (.badd b f) s = .next t ∧ t.pending = s.pending ∧ onlyBank s.sled t.sled k ∧
      laneOf 16 (getV (getBank t.sled k) f.x) i = encodeF bf16 ((decodeF bf16 (laneOf 16 (getV (getBank s.sled k) f.y) i)).add
        (decodeF bf16 (laneOf 16 (getV (getBank s.sled k) f.z) i))) ∧
      (∀ r, r ≠ f.x → getV (getBank t.sled k) r = getV (getBank s.sled k) r) ∧
      getPV (getBank t.sled k) f.x = (getPV (getBank s.sled k) f.y || getPV (getBank s.sled k) f.z)) ∧
  (∀ (s : State) (b : BankSel) (f : BauFields) (k i : Nat), bauReady s.sled b k opBMUL f → i < 16 →
    ∃ t, exec (.bmul b f) s = .next t ∧ t.pending = s.pending ∧ onlyBank s.sled t.sled k ∧
      laneOf 16 (getV (getBank t.sled k) f.x) i = encodeF bf16 ((decodeF bf16 (laneOf 16 (getV (getBank s.sled k) f.y) i)).mul
        (decodeF bf16 (laneOf 16 (getV (getBank s.sled k) f.z) i))) ∧
      (∀ r, r ≠ f.x → getV (getBank t.sled k) r = getV (getBank s.sled k) r)) ∧
  (∀ (s : State) (b : BankSel) (f : BauFields) (k i : Nat), bauReady s.sled b k opBFMA f → i < 16 →
    ∃ t, exec (.bfma b f) s = .next t ∧ t.pending = s.pending ∧ onlyBank s.sled t.sled k ∧
      laneOf 16 (getV (getBank t.sled k) f.x) i = encodeF bf16 (((decodeF bf16 (laneOf 16 (getV (getBank s.sled k) f.y) i)).mul
        (decodeF bf16 (laneOf 16 (getV (getBank s.sled k) f.z) i))).add
          (decodeF bf16 (laneOf 16 (getV (getBank s.sled k) f.x) i)))) ∧
  (∀ (s : State) (b : BankSel) (f : BauFields) (k i : Nat), bauReady s.sled b k opBSEL f → i < 16 →
    ∃ t, exec (.bsel b f) s = .next t ∧ t.pending = s.pending ∧ onlyBank s.sled t.sled k ∧
      (bitsOf (laneOf 16 (getBank s.sled k).bc.toNat i) 0 15 = 0 →
        laneOf 16 (getV (getBank t.sled k) f.x) i = encodeF bf16 (decodeF bf16 (laneOf 16 (getV (getBank s.sled k) f.z) i))) ∧
      (bitsOf (laneOf 16 (getBank s.sled k).bc.toNat i) 0 15 ≠ 0 →
        laneOf 16 (getV (getBank t.sled k) f.x) i = encodeF bf16 (decodeF bf16 (laneOf 16 (getV (getBank s.sled k) f.y) i)))) ∧
  (∀ (s : State) (b : BankSel) (f : BauFields) (k i : Nat), f.z = 0 → bauReady s.sled b k opBCVT f →
    isFp8 f = true → i < 16 →
    ∃ t, exec (.bcvtDequantise b f) s = .next t ∧ t.pending = s.pending ∧ onlyBank s.sled t.sled k ∧
      laneOf 16 (getV (getBank t.sled k) f.x) i =
        encodeF bf16 (bauElem f.fmt.toNat (bauOperand s.sled k opBCVT f) (16 * (f.l.toNat % 2) + i))) ∧
  (∀ (s : State) (b : BankSel) (f : BauFields) (k i : Nat), f.z = 1 → bauReady s.sled b k opBCVT f →
    f.fmt = 0 → i < 16 →
    ∃ t, exec (.bcvtNarrow b f) s = .next t ∧ t.pending = s.pending ∧ onlyBank s.sled t.sled k ∧
      laneOf 16 (getV (getBank t.sled k) f.x) i = encodeF bf16 (accLane (getBank s.sled k) f.a i) ∧
      getPV (getBank t.sled k) f.x = getPA (getBank s.sled k) f.a)

/-- BRED puts the sum, the maximum or the minimum of an accumulator into one lane of the other; BRDACC drives a
register on the data bus; BCLR clears the register that Z names (spec/08, R149, R153, Table 8-4; spec/09, R174). The
model's readings: notes/assumptions/18, 23. -/
def Obligations.BankReduceReadAndClear : Prop :=
  (∀ (s : State) (b : BankSel) (f : BauFields) (k i : Nat), bauReady s.sled b k opBRED f → i < 16 →
    ∃ t, exec (.bred b f) s = .next t ∧ t.pending = s.pending ∧ onlyBank s.sled t.sled k ∧
      getA (getBank t.sled k) f.a = getA (getBank s.sled k) f.a ∧
      (i ≠ f.l.toNat → laneOf 32 (getA (getBank t.sled k) (!f.a)) i = laneOf 32 (getA (getBank s.sled k) (!f.a)) i) ∧
      (f.z = 0 → laneOf 32 (getA (getBank t.sled k) (!f.a)) f.l.toNat =
        encodeF fp32 (sumF ((List.range 16).map (accLane (getBank s.sled k) f.a)))) ∧
      (f.z = 1 → laneOf 32 (getA (getBank t.sled k) (!f.a)) f.l.toNat = encodeF fp32
        (((List.range' 1 15).map (accLane (getBank s.sled k) f.a)).foldl FVal.maxNum (accLane (getBank s.sled k) f.a 0))) ∧
      (f.z = 2 → laneOf 32 (getA (getBank t.sled k) (!f.a)) f.l.toNat = encodeF fp32
        (((List.range' 1 15).map (accLane (getBank s.sled k) f.a)).foldl FVal.minNum (accLane (getBank s.sled k) f.a 0)))) ∧
  (∀ (s : State) (b : BankSel) (f : BauFields) (k : Nat), bauReady s.sled b k opBRDACC f → f.m = false →
    getPA (getBank s.sled k) f.a = false →
    ∃ t, exec (.brdacc b f) s = .next t ∧ t.pending = s.pending ∧
      t.sled.outs = s.sled.outs ++ [.data 12 (BitVec.ofNat 256 (getA (getBank s.sled k) f.a % 2 ^ 256)) false,
        .data 12 (BitVec.ofNat 256 (getA (getBank s.sled k) f.a / 2 ^ 256)) false] ∧
      (∀ j, getBank t.sled j = getBank s.sled j) ∧ onlySlots s.sled t.sled ∧ t.sled = { s.sled with
        outs := t.sled.outs, bank := t.sled.bank, chan := t.sled.chan, btm := t.sled.btm, dld := t.sled.dld }) ∧
  (∀ (s : State) (b : BankSel) (f : BauFields) (k : Nat), bauReady s.sled b k opBCLR f →
    ∃ t, exec (.bclr b f) s = .next t ∧ t.pending = s.pending ∧ onlyBank s.sled t.sled k ∧
      (f.z = 0 → getA (getBank t.sled k) f.a = 0 ∧ getPA (getBank t.sled k) f.a = false ∧
        (getBank t.sled k).v = (getBank s.sled k).v) ∧
      (f.z = 1 → ∀ i : Fin 16, laneOf 32 (getA (getBank t.sled k) f.a) i = 0xFF800000) ∧
      (f.z = 2 → getV (getBank t.sled k) f.x = 0 ∧ getPV (getBank t.sled k) f.x = false) ∧
      (f.z = 3 → (getBank t.sled k).bc = 0 ∧ (getBank t.sled k).pbc = false))

/-! ## The vault cores (spec/10, spec/11, spec/13) -/

/-- The queue registers of a vault core: configuration while EN is 0, the doorbell, and clearing ERR (spec/10, R181,
R183, R191). Fetch takes the entry at HEAD and advances HEAD; a descriptor that its checks reject stops the queue
with ERR (spec/10, R182, R184, R190, R191). The model's readings: notes/assumptions/21. -/
def Obligations.QueueRegistersAndDescriptorFetch : Prop :=
  (∀ (s : State) (a : Agent) (core : CoreId) (q : Fin 24) (v : Word), canAct s.sled a = true →
    blkReach a (bLAY core) = true → islRuns s.sled (iVC core) = true → lockedReg s.sled (bLAY core) (0x20 * q.val) = false →
    rField s.sled (bLAY core) (0x20 * q.val) 40 1 = 0 → 2 ≤ bitsOf v.toNat 25 4 → bitsOf v.toNat 25 4 ≤ 12 →
    bitsOf v.toNat 6 19 * 64 + 64 * 2 ^ bitsOf v.toNat 25 4 ≤ scratchSize →
    ∃ t, exec (.layQcfgWrite a core q v) s = .next t ∧ t.pending = s.pending ∧
      rField t.sled (bLAY core) (0x20 * q.val) 6 19 = bitsOf v.toNat 6 19 ∧ qEntries t.sled core q = 2 ^ bitsOf v.toNat 25 4 ∧
      qTen t.sled core q = bitsOf v.toNat 32 4 ∧ rField t.sled (bLAY core) (0x20 * q.val) 40 1 = bitsOf v.toNat 40 1 ∧
      t.sled = { s.sled with regs := t.sled.regs } ∧
      ∀ blk off, off < 0x100000 → (blk, off) ≠ (bLAY core, 0x20 * q.val) → rGet t.sled blk off = rGet s.sled blk off) ∧
  (∀ (s : State) (a : Agent) (core : CoreId) (q : Fin 24) (v : Word), canAct s.sled a = true →
    blkReach a (bLAY core) = true → islRuns s.sled (iVC core) = true → lockedReg s.sled (bLAY core) (0x20 * q.val) = false →
    rField s.sled (bLAY core) (0x20 * q.val) 40 1 = 1 → v.getLsbD 40 = true →
    exec (.layQcfgWrite a core q v) s = .next s) ∧
  (∀ (s : State) (a : Agent) (core : CoreId) (q : Fin 24) (v : Word), canAct s.sled a = true →
    blkReach a (bLAY core) = true → islRuns s.sled (iVC core) = true → lockedReg s.sled (bLAY core) (0x20 * q.val) = false →
    rField s.sled (bLAY core) (0x20 * q.val) 40 1 = 0 → v.getLsbD 40 = true → 2 ≤ bitsOf v.toNat 25 4 →
    bitsOf v.toNat 25 4 ≤ 12 → scratchSize < bitsOf v.toNat 6 19 * 64 + 64 * 2 ^ bitsOf v.toNat 25 4 →
    ∃ t, exec (.layQcfgWrite a core q v) s = .next t ∧ t.pending = s.pending ∧ qErr t.sled core q = true ∧
      rField t.sled (bLAY core) (0x20 * q.val) 40 1 = 0) ∧
  (∀ (s : State) (a : Agent) (core : CoreId) (q : Fin 24) (n : BitVec 12), canAct s.sled a = true →
    blkReach a (bLAY core) = true → islRuns s.sled (iVC core) = true →
    lockedReg s.sled (bLAY core) (0x08 + 0x20 * q.val) = false → s.sled.plat.quiesce = .none →
    exec (.layQtailDoorbell a core q n) s =
      .next { s with sled := rSetField (bLAY core) (0x08 + 0x20 * q.val) 0 12 n.toNat s.sled }) ∧
  (∀ (s : State) (a : Agent) (core : CoreId) (q : Fin 24), canAct s.sled a = true →
    blkReach a (bLAY core) = true → islRuns s.sled (iVC core) = true →
    ∃ t, exec (.layQstatErrClear a core q) s = .next t ∧ t.pending = s.pending ∧ qErr t.sled core q = false ∧
      rField t.sled (bLAY core) (0x10 + 0x20 * q.val) 0 12 = rField s.sled (bLAY core) (0x10 + 0x20 * q.val) 0 12 ∧
      t.sled = { s.sled with regs := t.sled.regs }) ∧
  (∀ (s : State) (u : QUnit) (head : Nat) (b : List (Byte × Bool)) (d : Desc),
    unitRuns s.sled u.unit = true → rField s.sled (qBlk u.unit) (0x20 * u.num) (enBit u.unit) 1 = 1 →
    qErr s.sled u.unit u.num = false → ringCount s.sled u.unit u.num ≠ 0 →
    (u.unit < 8 → bitAt (vcMask s.sled (qTen s.sled u.unit u.num)) u.unit = true) →
    head = rField s.sled (qBlk u.unit) (0x10 + 0x20 * u.num) 0 12 % qEntries s.sled u.unit u.num →
    readLocal (qBase s.sled u.unit u.num + 64 * head) 64 s.sled = ((b, true), s.sled) → anyPoison b = false →
    d = { id := s.sled.seq, q := u.num, addr := qBase s.sled u.unit u.num + 64 * head
          bytes := BitVec.ofNat 512 (leNat (b.map (·.1))) } →
    checkDesc u.unit u.num d = 0 →
    ∃ t, exec (.descriptorFetch u) s = .next t ∧ t.pending = s.pending ∧
      descs t.sled u.unit = descs s.sled u.unit ++ [d] ∧ t.sled.seq = s.sled.seq + 1 ∧
      rField t.sled (qBlk u.unit) (0x10 + 0x20 * u.num) 0 12 = (head + 1) % qEntries s.sled u.unit u.num ∧
      t.sled = { s.sled with seq := t.sled.seq, regs := t.sled.regs, vc := t.sled.vc, ste := t.sled.ste }) ∧
  (∀ (s : State) (u : QUnit) (head : Nat) (b : List (Byte × Bool)) (d : Desc),
    unitRuns s.sled u.unit = true → rField s.sled (qBlk u.unit) (0x20 * u.num) (enBit u.unit) 1 = 1 →
    qErr s.sled u.unit u.num = false → ringCount s.sled u.unit u.num ≠ 0 →
    (u.unit < 8 → bitAt (vcMask s.sled (qTen s.sled u.unit u.num)) u.unit = true) →
    head = rField s.sled (qBlk u.unit) (0x10 + 0x20 * u.num) 0 12 % qEntries s.sled u.unit u.num →
    readLocal (qBase s.sled u.unit u.num + 64 * head) 64 s.sled = ((b, true), s.sled) → anyPoison b = false →
    d = { id := s.sled.seq, q := u.num, addr := qBase s.sled u.unit u.num + 64 * head
          bytes := BitVec.ofNat 512 (leNat (b.map (·.1))) } →
    checkDesc u.unit u.num d ≠ 0 →
    ∃ t, exec (.descriptorFetch u) s = .next t ∧ t.pending = s.pending ∧ qErr t.sled u.unit u.num = true ∧
      (∀ e ∈ descs t.sled u.unit, e.id ≠ s.sled.seq) ∧ t.sled.mem = s.sled.mem) ∧
  (∀ (s : State) (u : QUnit), qErr s.sled u.unit u.num = true → exec (.descriptorFetch u) s = .next s)

/-- The head descriptor starts when its wait and fence have cleared and its engine has room; a wait that is not met
enters the store's list of waits; a completed descriptor leaves, and signals its counter if it is to (spec/10,
R186-R188; spec/12, R232). The model's readings: notes/assumptions/21. -/
def Obligations.DescriptorsStartWaitAndComplete : Prop :=
  (∀ (s : State) (u : QUnit) (d : Desc), headDesc s.sled u.unit u.num = some d → unitRuns s.sled u.unit = true →
    d.waits = false → startable s.sled u.unit d = true → engineRoom s.sled u.unit d = true →
    d.q = u.num →
    ∃ t, exec (.descriptorStart u) s = .next t ∧ t.pending = s.pending ∧
      (∀ e ∈ descs t.sled u.unit, e.id = d.id → e.stage = 1 ∧ e.bytes = d.bytes ∧ e.order = s.sled.seq) ∧
      (∀ e, e.id ≠ d.id → (e ∈ descs t.sled u.unit ↔ e ∈ descs s.sled u.unit)) ∧ t.sled.seq = s.sled.seq + 1 ∧
      t.sled = { s.sled with seq := t.sled.seq, vc := t.sled.vc, ste := t.sled.ste }) ∧
  (∀ (s : State) (u : QUnit) (d : Desc) (w : Wait), headDesc s.sled u.unit u.num = some d →
    unitRuns s.sled u.unit = true → qErr s.sled u.unit u.num = false → bitAt d.flags 0 = false → d.waits = true →
    d.ready = false → d.q = u.num → (∀ x ∈ s.sled.waits, x.who ≠ whoQ s.sled u.unit u.num) →
    objCheck s.sled (whoQ s.sled u.unit u.num) false d.waitId = none →
    waitMet s.sled .counter d.waitId d.waitVal = false →
    w = { who := whoQ s.sled u.unit u.num, kind := .counter, idx := d.waitId, target := d.waitVal
          start := s.sled.now, lastVal := ctrSlot (getCtr s.sled d.waitId) } →
    exec (.descriptorStart u) s = .next { s with sled := { s.sled with waits := s.sled.waits ++ [w] } }) ∧
  (∀ (s : State) (u : QUnit) (k : Fin 8) (d : Desc), (started s.sled u.unit u.num)[k.val]? = some d →
    unitRuns s.sled u.unit = true → islRuns s.sled iNOC = true → d.stage = 2 → descOut s.sled d.id = false →
    bitAt d.flags 2 = false → (u.unit < 8 → (fget s.sled.vc {} u.unit).staging ≠ some d.id) →
    exec (.descriptorComplete u k) s = .next { s with sled := dropDesc u.unit d.id s.sled }) ∧
  (∀ (s v : State) (u : QUnit) (k : Fin 8) (d : Desc), (started s.sled u.unit u.num)[k.val]? = some d →
    unitRuns s.sled u.unit = true → islRuns s.sled iNOC = true → d.stage = 2 → descOut s.sled d.id = false →
    bitAt d.flags 2 = true → bitAt d.flags 3 = false → (u.unit < 8 → (fget s.sled.vc {} u.unit).staging ≠ some d.id) →
    ctrSignal (whoQ s.sled u.unit d.q) (bitsOf (dField d 6 2) 0 14) (dField d 0x10 2) s.sled = (none, v.sled) →
    exec (.descriptorComplete u k) s = .next { s with sled := dropDesc u.unit d.id v.sled })

/-- FILL, COPY, REDUCE and NOP on the own scratchpad: FILL repeats its pattern, COPY moves the bytes, REDUCE adds
element by element, NOP touches nothing, and each leaves every other byte (spec/10, R189, R194-R196). The model's
readings: notes/assumptions/21. -/
def Obligations.DmaOperationsWriteTheirRow : Prop :=
  (∀ (s : State) (core : CoreId) (q : Fin 16) (k : Fin 8) (d : Desc) (b len : Nat), runsDesc s.sled core q k d 0x02 →
    dField d 0x2C 4 = 1 → len = dField d 0x28 4 → dField d 0x20 8 = moduleId s.sled * 2 ^ 40 + b →
    ownScratch core b len → len % 32 = 0 → b % 32 = 0 → s.sled.clearing = false → hasReads s.sled d.id = false →
    rowOk s.sled (qTen s.sled core q) (dField d 0x20 8) len = true →
    ∃ t, exec (.fill core q k) s = .next t ∧ t.pending = s.pending ∧
      (∀ x, memGet t.sled.mem x = if 2 ^ 40 + b ≤ x ∧ x < 2 ^ 40 + b + len then
        (leBytes 8 (dField d 0x18 8)).getD ((x - (2 ^ 40 + b)) % 8) 0 else memGet s.sled.mem x) ∧
      (∀ e ∈ descs t.sled core, e.id = d.id → e.stage = 2) ∧
      t.sled = { s.sled with mem := t.sled.mem, ecc := t.sled.ecc, vc := t.sled.vc, dld := t.sled.dld }) ∧
  (∀ (s : State) (core : CoreId) (q : Fin 16) (k : Fin 8) (d : Desc) (a b len : Nat), runsDesc s.sled core q k d 0x01 →
    dField d 0x2C 4 = 1 → len = dField d 0x28 4 → dField d 0x18 8 = moduleId s.sled * 2 ^ 40 + a →
    dField d 0x20 8 = moduleId s.sled * 2 ^ 40 + b → ownScratch core a len → ownScratch core b len →
    (a + len ≤ b ∨ b + len ≤ a) → len % 32 = 0 → a % 32 = 0 → b % 32 = 0 → s.sled.ecc = [] →
    s.sled.clearing = false → hasReads s.sled d.id = false →
    rowOk s.sled (qTen s.sled core q) (dField d 0x18 8) len = true →
    rowOk s.sled (qTen s.sled core q) (dField d 0x20 8) len = true →
    ∃ t, exec (.copy core q k) s = .next t ∧ t.pending = s.pending ∧
      (∀ x, memGet t.sled.mem x = if 2 ^ 40 + b ≤ x ∧ x < 2 ^ 40 + b + len then
        memGet s.sled.mem (x - b + a) else memGet s.sled.mem x) ∧
      (∀ e ∈ descs t.sled core, e.id = d.id → e.stage = 2) ∧
      t.sled = { s.sled with mem := t.sled.mem, ecc := t.sled.ecc, vc := t.sled.vc, dld := t.sled.dld
                             free := s.sled.free + 1 }) ∧
  (∀ (s : State) (core : CoreId) (q : Fin 16) (k : Fin 8) (d : Desc) (a b : Nat), runsDesc s.sled core q k d 0x04 →
    d.fmt = 1 → dField d 0x2C 4 = 1 → dField d 0x28 4 = 4 → dField d 0x18 8 = moduleId s.sled * 2 ^ 40 + a →
    dField d 0x20 8 = moduleId s.sled * 2 ^ 40 + b → ownScratch core a 4 → ownScratch core b 4 →
    (a / 32 ≠ b / 32) → a % 4 = 0 → b % 4 = 0 → s.sled.ecc = [] → s.sled.clearing = false → hasReads s.sled d.id = false →
    rowOk s.sled (qTen s.sled core q) (dField d 0x18 8) 4 = true →
    rowOk s.sled (qTen s.sled core q) (dField d 0x20 8) 4 = true →
    ∃ t, exec (.reduce core q k) s = .next t ∧ t.pending = s.pending ∧
      leNat (memRead t.sled.mem (2 ^ 40 + b) 4) =
        encodeF fp32 ((decodeF fp32 (leNat (memRead s.sled.mem (2 ^ 40 + b) 4))).add
          (decodeF fp32 (leNat (memRead s.sled.mem (2 ^ 40 + a) 4)))) ∧
      (∀ x, x < 2 ^ 40 + b ∨ 2 ^ 40 + b + 4 ≤ x → memGet t.sled.mem x = memGet s.sled.mem x) ∧
      t.sled.ecc = []) ∧
  (∀ (s : State) (u : QUnit) (k : Fin 8) (d : Desc), (started s.sled u.unit u.num)[k.val]? = some d →
    unitRuns s.sled u.unit = true → d.stage = 1 → d.opc = 0x0F →
    exec (.nop u k) s = .next { s with sled := opDone u.unit d.id s.sled } ∧
    ∀ e ∈ descs (opDone u.unit d.id s.sled) u.unit, e.id = d.id → e.stage = 2)

/-- An INT8 GEMM of one row and one column writes the dot product of its operands, as a 32-bit integer, to C and
nothing elsewhere (spec/10, R197, R198, Table 10-6). A VOP on one FP32 element writes the operation's result, rounded
to FP32, and nothing elsewhere (spec/10, R201, R202, Table 10-9). The model's readings: notes/assumptions/18, 21. -/
def Obligations.MatrixAndVectorOperationsWriteResults : Prop :=
  (∀ (s : State) (core : CoreId) (q : Fin 4) (d : Desc) (n oa ob oc : Nat),
    (started s.sled core (16 + q)).find? (fun e => e.stage = 1 && e.opc = 0x20) = some d →
    islRuns s.sled (iVC core) = true → d.fmt = 0x55 → d.flags = 0x40 → dField d 0x2C 2 = 1 → dField d 0x2E 2 = 1 →
    dField d 0x30 4 = n → 1 ≤ n → oa = dField d 0x18 4 → ob = dField d 0x1C 4 → oc = dField d 0x20 4 →
    dField d 0x24 4 = 0 → dField d 0x28 4 = 0 →
    oa + n ≤ scratchSize → ob + n ≤ scratchSize → oc + 4 ≤ scratchSize → oc % 32 = 0 →
    (oc + 4 ≤ oa ∨ oa + n ≤ oc) → (oc + 4 ≤ ob ∨ ob + n ≤ oc) → s.sled.ecc = [] → s.sled.clearing = false →
    ∃ t, exec (.gemm core q) s = .next t ∧ t.pending = s.pending ∧
      leNat (memRead t.sled.mem (2 ^ 40 + scratchAddr core oc) 4) = iNat 32 (((List.range n).map fun i =>
        sNat 8 (memGet s.sled.mem (2 ^ 40 + scratchAddr core oa + i)).toNat *
          sNat 8 (memGet s.sled.mem (2 ^ 40 + scratchAddr core ob + i)).toNat).sum) ∧
      (∀ x, x < 2 ^ 40 + scratchAddr core oc ∨ 2 ^ 40 + scratchAddr core oc + 4 ≤ x →
        memGet t.sled.mem x = memGet s.sled.mem x) ∧
      (∀ e ∈ descs t.sled core, e.id = d.id → e.stage = 2) ∧
      t.sled = { s.sled with mem := t.sled.mem, ecc := t.sled.ecc, vc := t.sled.vc, free := s.sled.free + 1 }) ∧
  (∀ (s : State) (core : CoreId) (q : Fin 4) (d : Desc) (op oa ob oc od : Nat),
    (started s.sled core (20 + q)).find? (fun e => e.stage = 1 && e.opc = 0x40) = some d →
    islRuns s.sled (iVC core) = true → d.fmt = 0x44 → d.flags = 0 → dField d 0x28 4 = 1 → dField d 0x2C 4 = 1 →
    op = dField d 0x3C 1 → op ∈ [0x01, 0x02, 0x03, 0x04, 0x05, 0x06, 0x07] →
    oa = dField d 0x18 4 → ob = dField d 0x1C 4 → oc = dField d 0x20 4 → od = dField d 0x24 4 →
    oa + 4 ≤ scratchSize → ob + 4 ≤ scratchSize → oc + 4 ≤ scratchSize → od + 4 ≤ scratchSize →
    oa % 4 = 0 → ob % 4 = 0 → oc % 4 = 0 → od % 4 = 0 → s.sled.ecc = [] → s.sled.clearing = false →
    ∃ t, exec (.vop core q) s = .next t ∧ t.pending = s.pending ∧
      leNat (memRead t.sled.mem (2 ^ 40 + scratchAddr core od) 4) =
        (let a := decodeF fp32 (leNat (memRead s.sled.mem (2 ^ 40 + scratchAddr core oa) 4))
         let b := decodeF fp32 (leNat (memRead s.sled.mem (2 ^ 40 + scratchAddr core ob) 4))
         let c := decodeF fp32 (leNat (memRead s.sled.mem (2 ^ 40 + scratchAddr core oc) 4))
         encodeF fp32 (
           if op = 0x01 then roundF fp32 (a.add b) else if op = 0x02 then roundF fp32 (a.sub b)
           else if op = 0x03 then roundF fp32 (a.mul b) else if op = 0x04 then a.maxNum b
           else if op = 0x05 then a.minNum b else if op = 0x06 then roundF fp32 ((a.mul b).add c) else a)) ∧
      (∀ x, x < 2 ^ 40 + scratchAddr core od ∨ 2 ^ 40 + scratchAddr core od + 4 ≤ x →
        memGet t.sled.mem x = memGet s.sled.mem x) ∧
      t.sled = { s.sled with mem := t.sled.mem, ecc := t.sled.ecc, vc := t.sled.vc, free := s.sled.free + 2 })

/-- LAYOUT: a contiguous one-axis move copies its bytes; a move that needs staging waits behind the holder of the
buffer; an unreachable tensor descriptor faults; the oldest waiter takes the buffer once it is free (spec/13,
R247-R257). The model's readings: notes/assumptions/26. -/
def Obligations.LayoutCopiesWaitsAndIsGranted : Prop :=
  (∀ (s : State) (core : CoreId) (q : Fin 16) (k : Fin 8) (d : Desc), runsDesc s.sled core q k d 0x03 → d.lu = none →
    (fget s.sled.vc {} core).stagingQ.contains d.id = false →
    reachOk s.sled (qTen s.sled core d.q) (dField d 0x18 8) 384 = false →
    exec (.layout core q k) s =
      .next { s with sled := descFault core d 0xB003 (tdArg core (dField d 0x18 8)) s.sled }) ∧
  (∀ (s : State) (core : CoreId) (q : Fin 16) (k : Fin 8) (d : Desc) (r : LuRun), runsDesc s.sled core q k d 0x03 →
    d.lu = none → (fget s.sled.vc {} core).stagingQ.contains d.id = false →
    layoutStart core d s.sled = (.inr r, s.sled) → staged r.tensor = true →
    ((fget s.sled.vc {} core).staging ≠ none ∨ (fget s.sled.vc {} core).stagingQ ≠ []) →
    ∃ (t : State) (a b : List Nat), exec (.layout core q k) s = .next t ∧ t.pending = s.pending ∧
      (fget s.sled.vc {} core).stagingQ = a ++ b ∧ (fget t.sled.vc {} core).stagingQ = a ++ d.id :: b ∧
      (∀ i ∈ a, startOrder s.sled core i ≤ d.order) ∧ (∀ i, b.head? = some i → d.order < startOrder s.sled core i) ∧
      (∀ e ∈ descs t.sled core, e.id = d.id → e.lu = some r) ∧
      (fget t.sled.vc {} core).staging = (fget s.sled.vc {} core).staging ∧
      t.sled = { s.sled with vc := t.sled.vc }) ∧
  (∀ (s : State) (core : CoreId) (q : Fin 16) (k : Fin 8) (d : Desc), runsDesc s.sled core q k d 0x03 →
    (fget s.sled.vc {} core).stagingQ.contains d.id = true → exec (.layout core q k) s = .next s) ∧
  (∀ (s : State) (core : CoreId) (id : Nat) (rest : List Nat), (fget s.sled.vc {} core).staging = none →
    (fget s.sled.vc {} core).stagingQ = id :: rest →
    (∀ e ∈ descs s.sled core, e.id ≠ id) →
    ∃ t, exec (.layoutStagingGrant core) s = .next t ∧ t.pending = s.pending ∧
      fget t.sled.vc {} core = { fget s.sled.vc {} core with stagingQ := rest } ∧ t.sled = { s.sled with vc := t.sled.vc }) ∧
  (∀ (s : State) (core : CoreId) (d : Desc) (r : LuRun) (rest : List Nat), (fget s.sled.vc {} core).staging = none →
    (fget s.sled.vc {} core).stagingQ = d.id :: rest → (descs s.sled core).find? (fun e => e.id = d.id) = some d →
    d.lu = some r →
    let u := luBegin core d r (holdStaging core d.id { s.sled with
      vc := fset s.sled.vc {} core { fget s.sled.vc {} core with stagingQ := rest } })
    (u.stall = s.sled.stall → exec (.layoutStagingGrant core) s = .next { s with sled := u }) ∧
    (u.stall ≠ s.sled.stall → exec (.layoutStagingGrant core) s = .next s)) ∧
  (∀ (s : State) (core : CoreId) (q : Fin 16) (k : Fin 8) (d : Desc) (r : LuRun) (n a b : Nat),
    runsDesc s.sled core q k d 0x03 → d.lu = none → hasReads s.sled d.id = false →
    (fget s.sled.vc {} core).stagingQ.contains d.id = false → layoutStart core d s.sled = (.inr r, s.sled) →
    r.tensor =
      { ndim := 1, esize := 1, custom := false, ccount := 0, perm := [0], ctable := 0, ext := [n], clean := true
        src := { mode := 0, space := 0, table := 0, base := moduleId s.sled * 2 ^ 40 + a, stride := [1]
                 origin := [0], porigin := [0], pshape := [0], clean := true }
        dst := { mode := 0, space := 0, table := 0, base := moduleId s.sled * 2 ^ 40 + b, stride := [1]
                 origin := [0], porigin := [0], pshape := [0], clean := true } } →
    ownScratch core a n → ownScratch core b n → (a + n ≤ b ∨ b + n ≤ a) → n % 64 = 0 → 0 < n → a % 64 = 0 → b % 64 = 0 →
    s.sled.ecc = [] → s.sled.clearing = false →
    (∀ i < n, rowOk s.sled (qTen s.sled core q) (moduleId s.sled * 2 ^ 40 + a + i) 1 = true ∧
      rowOk s.sled (qTen s.sled core q) (moduleId s.sled * 2 ^ 40 + b + i) 1 = true) →
    ∃ t, exec (.layout core q k) s = .next t ∧ t.pending = s.pending ∧
      (∀ y, memGet t.sled.mem y = if 2 ^ 40 + b ≤ y ∧ y < 2 ^ 40 + b + n then memGet s.sled.mem (y - b + a)
        else memGet s.sled.mem y) ∧
      (∀ e ∈ descs t.sled core, e.id = d.id → e.stage = 2) ∧
      t.sled = { s.sled with mem := t.sled.mem, vc := t.sled.vc, dld := t.sled.dld, free := s.sled.free + 1 })

/-- GO starts a program with its tenant and entry, an odd entry ends in a fault without a start, and STOP ends a
running program; a GO during a run starts nothing (spec/22, R432). Plain loads and stores hit in the line: a load
reads it, a store changes the line alone; volatile ones go to memory; an address outside the tenant's reach faults
(spec/10, R204, R206, R208; spec/11, R215). The cache instructions: INV drops a line and its bytes, FLUSH writes its
dirty bytes and keeps it clean, FLINV does both, ALL does so for every line; without a line they only retire
(spec/10, R205, R207). The model's readings: notes/assumptions/27. -/
def Obligations.ScalarEngineProgramsAndCache : Prop :=
  (∀ (s : State) (a : Agent) (core : CoreId) (tn : Tenant) (e : LAddr), canAct s.sled a = true →
    blkReach a (bLAY core) = true → islRuns s.sled (iVC core) = true → lockedReg s.sled (bLAY core) 0x400 = false →
    (fget s.sled.vc {} core).seRun = false → e.toNat % 2 = 0 →
    ∃ t, exec (.seGo a core tn e) s = .next t ∧ t.pending = s.pending ∧
      fget t.sled.vc {} core = { fget s.sled.vc {} core with seRun := true, seTenant := tn.val, seWait := false } ∧
      rField t.sled (bLAY core) 0x400 8 4 = tn.val ∧ rField t.sled (bLAY core) 0x400 24 40 = e.toNat ∧
      t.sled = { s.sled with vc := t.sled.vc, regs := t.sled.regs }) ∧
  (∀ (s : State) (a : Agent) (core : CoreId) (tn : Tenant) (e : LAddr), canAct s.sled a = true →
    blkReach a (bLAY core) = true → islRuns s.sled (iVC core) = true → lockedReg s.sled (bLAY core) 0x400 = false →
    ((fget s.sled.vc {} core).seRun = true ∨ e.toNat % 2 = 1) →
    ∃ t, exec (.seGo a core tn e) s = .next t ∧ t.pending = s.pending ∧ t.sled = { s.sled with regs := t.sled.regs } ∧
      ((fget s.sled.vc {} core).seRun = false →
        bitsOf (rGet t.sled (bLAY core) 0x400) 2 2 = 3 ∧ bitsOf (rGet t.sled (bLAY core) 0x408) 24 40 = e.toNat)) ∧
  (∀ (s : State) (a : Agent) (core : CoreId), canAct s.sled a = true → blkReach a (bLAY core) = true →
    islRuns s.sled (iVC core) = true → (fget s.sled.vc {} core).seRun = true →
    ∃ t, exec (.seStop a core) s = .next t ∧ t.pending = s.pending ∧
      fget t.sled.vc {} core = { fget s.sled.vc {} core with seRun := false, seWait := false } ∧
      bitAt (rGet t.sled (bLAY core) 0x400) 2 = true ∧
      (∀ w ∈ t.sled.waits, ¬(w.who.kind = 3 ∧ w.who.ix = core.val ∧ w.who.mod = none)) ∧ t.sled.mem = s.sled.mem) ∧
  (∀ (s : State) (a : Agent) (core : CoreId), canAct s.sled a = true → blkReach a (bLAY core) = true →
    islRuns s.sled (iVC core) = true → (fget s.sled.vc {} core).seRun = false →
    exec (.seStop a core) s = .next s) ∧
  (∀ (s : State) (core : CoreId) (f3 : BitVec 3) (rd : BitVec 5) (a : Word) (l : Line), seActs s.sled core = true →
    f3.toNat ≠ 7 → a.toNat < 2 ^ 40 → seCached core a.toNat = true →
    seReach s.sled core a.toNat (f3Bytes f3.toNat) = true → a.toNat % 64 + f3Bytes f3.toNat ≤ 64 →
    getLine s.sled core (a.toNat / 64) = some l → l.pois = 0 →
    let v := loadVal f3.toNat (bitsOf l.data.toNat (8 * (a.toNat % 64)) (8 * f3Bytes f3.toNat))
    exec (.seLoad core f3 rd a) s = .next { s with sled := setX core rd.toNat v s.sled }) ∧
  (∀ (s : State) (core : CoreId) (f3 : BitVec 3) (a d : Word) (l : Line), seActs s.sled core = true →
    f3.toNat < 4 → a.toNat < 2 ^ 40 → seCached core a.toNat = true →
    seReach s.sled core a.toNat (f3Bytes f3.toNat) = true → a.toNat % 64 + f3Bytes f3.toNat ≤ 64 →
    getLine s.sled core (a.toNat / 64) = some l →
    ∃ t, exec (.seStore core f3 a d) s = .next t ∧ t.pending = s.pending ∧
      (∃ m, getLine t.sled core (a.toNat / 64) = some m ∧ m.pois = l.pois ∧
        bitsOf m.data.toNat (8 * (a.toNat % 64)) (8 * f3Bytes f3.toNat) = bitsOf d.toNat 0 (8 * f3Bytes f3.toNat) ∧
        (∀ i : Fin 64, m.dirty.getLsbD i =
          (l.dirty.getLsbD i || decide (a.toNat % 64 ≤ i.val ∧ i.val < a.toNat % 64 + f3Bytes f3.toNat))) ∧
        (∀ i : Fin 64, (i.val < a.toNat % 64 ∨ a.toNat % 64 + f3Bytes f3.toNat ≤ i.val) →
          bitsOf m.data.toNat (8 * i.val) 8 = bitsOf l.data.toNat (8 * i.val) 8)) ∧
      t.sled = { s.sled with vc := t.sled.vc }) ∧
  (∀ (s : State) (core : CoreId) (f3 : BitVec 3) (rd : BitVec 5) (a : Word) (x : List (Byte × Bool)) (ok : Bool),
    seActs s.sled core = true → f3.toNat ≠ 7 → a.toNat < 2 ^ 40 → seCached core a.toNat = true →
    seReach s.sled core a.toNat (f3Bytes f3.toNat) = true →
    getLine s.sled core (a.toNat / 64) = none → getLine s.sled core ((a.toNat + f3Bytes f3.toNat - 1) / 64) = none →
    readLocal a.toNat (f3Bytes f3.toNat) s.sled = ((x, ok), s.sled) → anyPoison x = false →
    exec (.ldv core f3 rd a) s =
      .next { s with sled := setX core rd.toNat (loadVal f3.toNat (leNat (x.map (·.1)))) s.sled }) ∧
  (∀ (s : State) (core : CoreId) (f3 : BitVec 3) (a d : Word), seActs s.sled core = true → f3.toNat < 4 →
    ownScratch core a.toNat (f3Bytes f3.toNat) → seReach s.sled core a.toNat (f3Bytes f3.toNat) = true →
    a.toNat % f3Bytes f3.toNat = 0 →
    s.sled.ecc = [] → s.sled.clearing = false → getLine s.sled core (a.toNat / 64) = none →
    ∃ t, exec (.sdv core f3 a d) s = .next t ∧ t.pending = s.pending ∧
      (∀ x, memGet t.sled.mem x = if 2 ^ 40 + a.toNat ≤ x ∧ x < 2 ^ 40 + a.toNat + f3Bytes f3.toNat then
        (leBytes 8 d.toNat).getD (x - (2 ^ 40 + a.toNat)) 0 else memGet s.sled.mem x) ∧
      t.sled = { s.sled with mem := t.sled.mem, ecc := t.sled.ecc, vc := t.sled.vc }) ∧
  (∀ (s : State) (core : CoreId) (f3 : BitVec 3) (rd : BitVec 5) (a d : Word), seActs s.sled core = true →
    f3.toNat < 4 → a.toNat < 2 ^ 40 → seCached core a.toNat = true →
    seReach s.sled core a.toNat (f3Bytes f3.toNat) = false →
    exec (.seLoad core f3 rd a) s = .next { s with sled := seAddrFault core a.toNat false s.sled } ∧
    exec (.ldv core f3 rd a) s = .next { s with sled := seAddrFault core a.toNat false s.sled } ∧
    exec (.seStore core f3 a d) s = .next { s with sled := seAddrFault core a.toNat true s.sled } ∧
    exec (.sdv core f3 a d) s = .next { s with sled := seAddrFault core a.toNat true s.sled }) ∧
  (∀ (s : State) (core : CoreId) (a : Word), seActs s.sled core = true → a.toNat < 2 ^ 40 →
    getLine s.sled core (a.toNat / 64) = none →
    exec (.scInv core a) s = .next s ∧ exec (.scFlush core a) s = .next s ∧ exec (.scFlinv core a) s = .next s) ∧
  (∀ (s : State) (core : CoreId) (a : Word) (l : Line), seActs s.sled core = true → a.toNat < 2 ^ 40 →
    getLine s.sled core (a.toNat / 64) = some l →
    ∃ t, exec (.scInv core a) s = .next t ∧ t.pending = s.pending ∧ getLine t.sled core (a.toNat / 64) = none ∧
      (∀ k, k ≠ a.toNat / 64 → getLine t.sled core k = getLine s.sled core k) ∧ t.sled = { s.sled with vc := t.sled.vc }) ∧
  (∀ (s : State) (core : CoreId) (a : Word) (l : Line), seActs s.sled core = true →
    ownScratch core (a.toNat / 64 * 64) 64 → s.sled.ecc = [] → s.sled.clearing = false → getLine s.sled core (a.toNat / 64) = some l →
    (∃ t, exec (.scFlush core a) s = .next t ∧ t.pending = s.pending ∧
      getLine t.sled core (a.toNat / 64) = some { l with dirty := 0 } ∧
      (∀ i : Fin 64, memGet t.sled.mem (2 ^ 40 + a.toNat / 64 * 64 + i.val) = if l.dirty.getLsbD i then
        BitVec.ofNat 8 (bitsOf l.data.toNat (8 * i.val) 8) else memGet s.sled.mem (2 ^ 40 + a.toNat / 64 * 64 + i.val)) ∧
      (∀ x, x < 2 ^ 40 + a.toNat / 64 * 64 ∨ 2 ^ 40 + a.toNat / 64 * 64 + 64 ≤ x →
        memGet t.sled.mem x = memGet s.sled.mem x)) ∧
    (∃ t, exec (.scFlinv core a) s = .next t ∧ t.pending = s.pending ∧ getLine t.sled core (a.toNat / 64) = none ∧
      (∀ i : Fin 64, memGet t.sled.mem (2 ^ 40 + a.toNat / 64 * 64 + i.val) = if l.dirty.getLsbD i then
        BitVec.ofNat 8 (bitsOf l.data.toNat (8 * i.val) 8) else memGet s.sled.mem (2 ^ 40 + a.toNat / 64 * 64 + i.val)))) ∧
  (∀ (s : State) (core : CoreId), seActs s.sled core = true →
    (∃ t, exec (.scAll core 0) s = .next t ∧ t.pending = s.pending ∧ (∀ k, getLine t.sled core k = none) ∧
      t.sled = { s.sled with vc := t.sled.vc })) ∧
  (∀ (s : State) (core : CoreId), seActs s.sled core = true → calm s.sled →
    (∃ t, exec (.scAll core 2) s = .next t ∧ t.pending = s.pending ∧ (∀ k, getLine t.sled core k = none)) ∧
    (∃ t, exec (.scAll core 1) s = .next t ∧ t.pending = s.pending ∧
      ∀ k, (getLine t.sled core k).isSome = (getLine s.sled core k).isSome))

/-! ## The sync store (spec/12) -/

/-- A signal and an AMOADD add to the counter, saturating; the AMOADD answers the slot before the add; an operation
that the store refuses or blocks changes no object and is logged (spec/12, R225, R227, R228, R236-R238). The model's
readings: notes/assumptions/25. -/
def Obligations.CounterSignalsAddAndSaturate : Prop :=
  (∀ (s : State) (a : Agent) (m : BitVec 8) (i : BitVec 14) (x : Word), canSync s.sled a = true →
    m.toNat = moduleId s.sled → islRuns s.sled iNOC = true → x.toNat ≠ 0 → x.toNat < 2 ^ 32 →
    objCheck s.sled (whoAgent s.sled a) false i.toNat = none → (getCtr s.sled i.toNat).value + x.toNat < 2 ^ 48 →
    (∃ t, exec (.counterSignal a m i true x) s = .next t ∧ t.pending = s.pending ∧
      getCtr t.sled i.toNat = { getCtr s.sled i.toNat with value := (getCtr s.sled i.toNat).value + x.toNat } ∧
      (∀ j, j ≠ i.toNat → getCtr t.sled j = getCtr s.sled j) ∧
      t.sled = { s.sled with ctr := t.sled.ctr, dld := t.sled.dld }) ∧
    (∃ t, exec (.counterAmoadd a m i x) s = .next t ∧ t.pending = s.pending ∧
      getCtr t.sled i.toNat = { getCtr s.sled i.toNat with value := (getCtr s.sled i.toNat).value + x.toNat } ∧
      t.sled.outs = s.sled.outs ++
        [.value (waiterId s.sled (whoAgent s.sled a)) (ctrSlot (getCtr s.sled i.toNat))] ∧
      t.sled = { s.sled with ctr := t.sled.ctr, dld := t.sled.dld, outs := t.sled.outs, vc := t.sled.vc })) ∧
  (∀ (s : State) (a : Agent) (m : BitVec 8) (i : BitVec 14) (x : Word), canSync s.sled a = true →
    m.toNat = moduleId s.sled → islRuns s.sled iNOC = true → x.toNat ≠ 0 → x.toNat < 2 ^ 32 →
    objCheck s.sled (whoAgent s.sled a) false i.toNat = none → 2 ^ 48 ≤ (getCtr s.sled i.toNat).value + x.toNat →
    ∃ t, exec (.counterSignal a m i true x) s = .next t ∧ t.pending = s.pending ∧
      getCtr t.sled i.toNat = { getCtr s.sled i.toNat with value := 2 ^ 48 - 1, sat := true } ∧
      (∀ j, j ≠ i.toNat → getCtr t.sled j = getCtr s.sled j) ∧ t.sled.sem = s.sled.sem ∧ t.sled.mem = s.sled.mem) ∧
  (∀ (s : State) (a : Agent) (m : BitVec 8) (i : BitVec 14) (x : Word) (code : Nat), canSync s.sled a = true →
    m.toNat = moduleId s.sled → islRuns s.sled iNOC = true → x.toNat ≠ 0 → x.toNat < 2 ^ 32 →
    objCheck s.sled (whoAgent s.sled a) false i.toNat = some code →
    exec (.counterSignal a m i true x) s =
      .next { s with sled := logSync code (whoAgent s.sled a) 0 i.toNat x.toNat 0 s.sled }) ∧
  (∀ (s : State) (a : Agent) (m : BitVec 8) (i : BitVec 14) (x : Word), canSync s.sled a = true →
    m.toNat = moduleId s.sled → islRuns s.sled iNOC = true → (x.toNat = 0 ∨ 2 ^ 32 ≤ x.toNat) →
    exec (.counterSignal a m i true x) s =
      .next { s with sled := logSync 0x1008 (whoAgent s.sled a) 0 i.toNat x.toNat 0 s.sled }) ∧
  (∀ (s : Sled) (w : Who) (sem : Bool) (i tn : Nat), w.tenant = some tn → (objHead s sem i).2.2.1 = true →
    rescueObj sem i = false → (objCheck s w sem i = none ↔
      ((objHead s sem i).1 = tn ∨ bitAt (objHead s sem i).2.1 tn = true) ∧ (objHead s sem i).2.2.2 = false))

/-- R230 (spec/12): an add that would leave the range of a semaphore is not applied, logs the overflow or underflow,
and its AMO answers with bit 63 set; one that stays in range is applied, negative counts too; a take subtracts only
what is there. -/
def Obligations.AddsOutsideTheRangeAreNotApplied : Prop :=
  (∀ (s : State) (a : Agent) (m : BitVec 8) (i : BitVec 16) (x : BitVec 32) (n : Int), canSync s.sled a = true →
    m.toNat = moduleId s.sled → islRuns s.sled iNOC = true → x ≠ 0 →
    objCheck s.sled (whoAgent s.sled a) true i.toNat = none →
    n = (getSem s.sled i.toNat).count + sNat 32 x.toNat →
    (2 ^ 31 - 1 < n →
      exec (.semaphoreAdd a m i false (x.setWidth 64)) s =
        .next { s with sled := logSync 0x1006 (whoAgent s.sled a) 1 i.toNat x.toNat 0 s.sled } ∧
      ∃ t v, exec (.semaphoreAmoadd a m i x) s = .next t ∧ t.sled.sem = s.sled.sem ∧
        t.sled = returnVal (whoAgent s.sled a) v (logSync 0x1006 (whoAgent s.sled a) 1 i.toNat x.toNat 0 s.sled) ∧
        bitAt v 63 = true) ∧
    (n < -(2 ^ 31) →
      exec (.semaphoreAdd a m i false (x.setWidth 64)) s =
        .next { s with sled := logSync 0x1005 (whoAgent s.sled a) 1 i.toNat x.toNat 0 s.sled } ∧
      ∃ t v, exec (.semaphoreAmoadd a m i x) s = .next t ∧ t.sled.sem = s.sled.sem ∧
        t.sled = returnVal (whoAgent s.sled a) v (logSync 0x1005 (whoAgent s.sled a) 1 i.toNat x.toNat 0 s.sled) ∧
        bitAt v 63 = true) ∧
    (-(2 ^ 31) ≤ n → n ≤ 2 ^ 31 - 1 →
      ∃ t, exec (.semaphoreAmoadd a m i x) s = .next t ∧ (getSem t.sled i.toNat).count = n)) ∧
  (∀ (s : Sled) (w : Who) (i : Nat) (x : Int), x ≠ 0 → objCheck s w true i = none →
    (2 ^ 31 - 1 < (getSem s i).count + x → semAdd w i x s = (some 0x1006, logSync 0x1006 w 1 i (iNat 32 x) 0 s)) ∧
    ((getSem s i).count + x < -(2 ^ 31) → semAdd w i x s = (some 0x1005, logSync 0x1005 w 1 i (iNat 32 x) 0 s))) ∧
  (∀ (s : Sled) (c : Nat) (w : Who) (k i a b : Nat), (logSync c w k i a b s).sem = s.sem) ∧
  (∀ (s : State) (a : Agent) (m : BitVec 8) (i : BitVec 16) (n : Word), canSync s.sled a = true → (∀ k, a ≠ .vf k) →
    m.toNat = moduleId s.sled → islRuns s.sled iNOC = true → 0 < n.toNat → n.toNat < 2 ^ 31 →
    objCheck s.sled (whoAgent s.sled a) true i.toNat = none → (∀ y ∈ s.sled.waits, y.who ≠ whoAgent s.sled a) →
    ∃ t, exec (.semaphoreTake a m i n) s = .next t ∧
      (getSem t.sled i.toNat).count = (if (n.toNat : Int) ≤ (getSem s.sled i.toNat).count
        then (getSem s.sled i.toNat).count - n.toNat else (getSem s.sled i.toNat).count))

/-- A semaphore add changes the count within its range and is refused beyond it, and the AMOADD answers the count
before it; reads answer the slot, a blocked read 0, and a refused one a free value (spec/12, R225, R230, R238). The model's readings:
notes/assumptions/25. -/
def Obligations.SemaphoreAddsReadsAndMasks : Prop :=
  (∀ (s : State) (a : Agent) (m : BitVec 8) (i : BitVec 16) (x : BitVec 32), canSync s.sled a = true →
    m.toNat = moduleId s.sled → islRuns s.sled iNOC = true → x ≠ 0 →
    objCheck s.sled (whoAgent s.sled a) true i.toNat = none →
    -(2 ^ 31) ≤ (getSem s.sled i.toNat).count + sNat 32 x.toNat →
    (getSem s.sled i.toNat).count + sNat 32 x.toNat ≤ 2 ^ 31 - 1 →
    (∃ t, exec (.semaphoreAdd a m i false (x.setWidth 64)) s = .next t ∧ t.pending = s.pending ∧
      getSem t.sled i.toNat =
        { getSem s.sled i.toNat with count := (getSem s.sled i.toNat).count + sNat 32 x.toNat } ∧
      (∀ j, j ≠ i.toNat → getSem t.sled j = getSem s.sled j) ∧
      t.sled = { s.sled with sem := t.sled.sem, dld := t.sled.dld }) ∧
    (∃ t, exec (.semaphoreAmoadd a m i x) s = .next t ∧ t.pending = s.pending ∧
      getSem t.sled i.toNat =
        { getSem s.sled i.toNat with count := (getSem s.sled i.toNat).count + sNat 32 x.toNat } ∧
      t.sled.outs = s.sled.outs ++
        [.value (waiterId s.sled (whoAgent s.sled a)) (iNat 32 (getSem s.sled i.toNat).count)])) ∧
  (∀ (s : State) (a : Agent) (m : BitVec 8) (i : BitVec 14) (j : BitVec 16), canSync s.sled a = true →
    m.toNat = moduleId s.sled → islRuns s.sled iNOC = true →
    (objCheck s.sled (whoAgent s.sled a) false i.toNat = none →
      exec (.counterRead a m i true) s =
        .next { s with sled := returnVal (whoAgent s.sled a) (ctrSlot (getCtr s.sled i.toNat) % 2 ^ 64) s.sled }) ∧
    (objCheck s.sled (whoAgent s.sled a) true j.toNat = none →
      exec (.semaphoreRead a m j true) s =
        .next { s with sled := returnVal (whoAgent s.sled a) (semSlot (getSem s.sled j.toNat) % 2 ^ 64) s.sled }) ∧
    (∀ code, objCheck s.sled (whoAgent s.sled a) false i.toNat = some code →
      let u := logSync code (whoAgent s.sled a) 0 i.toNat 0 0 s.sled
      (code ≠ 0x1008 →
        exec (.counterRead a m i true) s = .next { s with sled := returnVal (whoAgent s.sled a) 0 u }) ∧
      (code = 0x1008 → exec (.counterRead a m i true) s = .next { s with
        sled := returnVal (whoAgent s.sled a) (Config.freeValue u.free) { u with free := u.free + 1 } }))) ∧
  (∀ (s : State) (a : Agent) (m : BitVec 8) (sem : Bool) (i mask : BitVec 16), canSync s.sled a = true →
    m.toNat = moduleId s.sled → (sem = false → i.toNat < 16384) → islRuns s.sled iNOC = true →
    (objCheck s.sled (whoAgent s.sled a) sem i.toNat = none →
      exec (.peerMaskRead a ⟨m, sem⟩ i) s =
        .next { s with sled := returnVal (whoAgent s.sled a) (objHead s.sled sem i.toNat).2.1 s.sled }) ∧
    ((whoAgent s.sled a).tenant = none →
      ∃ t, exec (.peerMaskWrite a ⟨m, sem⟩ i mask) s = .next t ∧ t.pending = s.pending ∧
        objHead t.sled sem i.toNat = ((objHead s.sled sem i.toNat).1, mask.toNat, (objHead s.sled sem i.toNat).2.2) ∧
        t.sled = { s.sled with ctr := t.sled.ctr, sem := t.sled.sem }) ∧
    ((whoAgent s.sled a).tenant ≠ none →
      exec (.peerMaskWrite a ⟨m, sem⟩ i mask) s =
        .next { s with sled := logSync 0x1008 (whoAgent s.sled a) (2 + b2n sem) i.toNat mask.toNat 0 s.sled }))

/-- A wait whose condition holds ends at its first poll with the slot, a take subtracting its operand in the same
step; any other enters the list of waits; an operand that is out of range is refused with a failed slot (spec/12,
R217, R225, R227, R232). A pending wait polls again: it is met, or keeps what it read; at its time limit it fails
with the last slot read (spec/12, R232-R234). The model's readings: notes/assumptions/25. -/
def Obligations.WaitsEndEnterPollAndTimeOut : Prop :=
  (∀ (s : State) (a : Agent) (m : BitVec 8) (i : BitVec 14) (x : Word), canSync s.sled a = true → (∀ k, a ≠ .vf k) →
    m.toNat = moduleId s.sled → islRuns s.sled iNOC = true → x.toNat < 2 ^ 48 →
    objCheck s.sled (whoAgent s.sled a) false i.toNat = none → (∀ y ∈ s.sled.waits, y.who ≠ whoAgent s.sled a) →
    (waitMet s.sled .counter i.toNat x.toNat = true →
      ∃ t, exec (.counterWait a m i x) s = .next t ∧ t.pending = s.pending ∧ t.sled.waits = s.sled.waits ∧
        t.sled.outs = s.sled.outs ++
          [.value (waiterId s.sled (whoAgent s.sled a)) (ctrSlot (getCtr s.sled i.toNat))] ∧
        t.sled = { s.sled with waits := t.sled.waits, outs := t.sled.outs, vc := t.sled.vc }) ∧
    (waitMet s.sled .counter i.toNat x.toNat = false →
      ∃ t, exec (.counterWait a m i x) s = .next t ∧ t.pending = s.pending ∧
        t.sled.waits = s.sled.waits ++ [{ who := whoAgent s.sled a, kind := .counter, idx := i.toNat, target := x.toNat
                                          start := s.sled.now, lastVal := ctrSlot (getCtr s.sled i.toNat) }] ∧
        t.sled = { s.sled with waits := t.sled.waits, vc := t.sled.vc })) ∧
  (∀ (s : State) (a : Agent) (m : BitVec 8) (i : BitVec 14) (x : Word), canSync s.sled a = true → (∀ k, a ≠ .vf k) →
    m.toNat = moduleId s.sled → islRuns s.sled iNOC = true → 2 ^ 48 ≤ x.toNat →
    let u := logSync 0x1008 (whoAgent s.sled a) 0 i.toNat x.toNat 0 s.sled
    exec (.counterWait a m i x) s = .next { s with
      sled := returnVal (whoAgent s.sled a) (failed (ctrSlot (getCtr s.sled i.toNat))) u }) ∧
  (∀ (s : State) (a : Agent) (m : BitVec 8) (i : BitVec 16) (n : Word), canSync s.sled a = true → (∀ k, a ≠ .vf k) →
    m.toNat = moduleId s.sled → islRuns s.sled iNOC = true → 0 < n.toNat → n.toNat < 2 ^ 31 →
    objCheck s.sled (whoAgent s.sled a) true i.toNat = none → (∀ y ∈ s.sled.waits, y.who ≠ whoAgent s.sled a) →
    ((n.toNat : Int) ≤ (getSem s.sled i.toNat).count →
      (∃ t, exec (.semaphoreTake a m i n) s = .next t ∧ t.pending = s.pending ∧ t.sled.waits = s.sled.waits ∧
        getSem t.sled i.toNat = { getSem s.sled i.toNat with count := (getSem s.sled i.toNat).count - n.toNat } ∧
        (∀ j, j ≠ i.toNat → getSem t.sled j = getSem s.sled j) ∧
        t.sled.outs = s.sled.outs ++
          [.value (waiterId s.sled (whoAgent s.sled a)) (iNat 32 (getSem s.sled i.toNat).count)]) ∧
      (∃ t, exec (.semaphoreWait a m i n) s = .next t ∧ t.pending = s.pending ∧ t.sled.waits = s.sled.waits ∧
        t.sled.sem = s.sled.sem ∧ t.sled.outs = s.sled.outs ++
          [.value (waiterId s.sled (whoAgent s.sled a)) (semSlot (getSem s.sled i.toNat))])) ∧
    ((getSem s.sled i.toNat).count < (n.toNat : Int) →
      (∃ t, exec (.semaphoreTake a m i n) s = .next t ∧ t.pending = s.pending ∧ t.sled.sem = s.sled.sem ∧
        t.sled.waits = s.sled.waits ++ [{ who := whoAgent s.sled a, kind := .semTake, idx := i.toNat, target := n.toNat
                                          start := s.sled.now, lastVal := semSlot (getSem s.sled i.toNat) }]) ∧
      (∃ t, exec (.semaphoreWait a m i n) s = .next t ∧ t.pending = s.pending ∧ t.sled.sem = s.sled.sem ∧
        t.sled.waits = s.sled.waits ++ [{ who := whoAgent s.sled a, kind := .semWait, idx := i.toNat, target := n.toNat
                                          start := s.sled.now, lastVal := semSlot (getSem s.sled i.toNat) }]))) ∧
  (∀ (s : State) (k : Fin 256) (w : Wait), s.sled.waits[k.val]? = some w → w.mod = none →
    objCheck s.sled w.who (decide (w.kind.obj = 1)) w.idx = none →
    waitMet s.sled w.kind w.idx w.target = false →
    exec (.waitPoll k) s = .next { s with sled := { s.sled with waits := s.sled.waits.map fun x =>
      if x = w then { w with lastVal := waitSlot s.sled w.kind w.idx } else x } }) ∧
  (∀ (s : State) (k : Fin 256) (w : Wait), s.sled.waits[k.val]? = some w → w.mod = none →
    isQueue w.who = false → w.who.kind ≠ 3 → w.kind ≠ .semTake →
    objCheck s.sled w.who (decide (w.kind.obj = 1)) w.idx = none →
    waitMet s.sled w.kind w.idx w.target = true →
    let t : Sled := { s.sled with
      waits := s.sled.waits.filter (fun y => decide (y ≠ w))
      outs := s.sled.outs ++ [.value (waiterId s.sled w.who) (waitSlot s.sled w.kind w.idx)] }
    exec (.waitPoll k) s = .next { s with sled := t } ∧ exec (.waitTimeout k) s = .next { s with sled := t }) ∧
  (∀ (s : State) (k : Fin 256) (w : Wait), s.sled.waits[k.val]? = some w → w.mod = none →
    isQueue w.who = false → waitMet s.sled w.kind w.idx w.target = false →
    ∃ t, exec (.waitTimeout k) s = .next t ∧ t.pending = s.pending ∧
      t.sled.waits = s.sled.waits.filter (fun y => decide (y ≠ w)) ∧ t.sled.ctr = s.sled.ctr ∧ t.sled.sem = s.sled.sem ∧
      (Out.value (waiterId s.sled w.who) (w.lastVal % 2 ^ 63 + 2 ^ 63)) ∈ t.sled.outs ∧
      rGet t.sled bSYN 0x300 = min (rGet s.sled bSYN 0x300 + 1) (if kt3 s.sled then 0xFFFF else 0xFFFFFFFF)) ∧
  (∀ (s : State) (k : Fin 256), s.sled.waits[k.val]? = none →
    exec (.waitPoll k) s = .next s ∧ exec (.waitTimeout k) s = .next s)

/-- Administration: ALLOC makes an object valid for its owner with a value and no peers, SETVAL sets its value, FREE
makes it invalid and fails the waits on it, CLRLOST clears LOST; any other action, and an object that does not exist,
is refused (spec/12, R226, Table 12-4). The deadlock detector: progress clears a tenant's count; a tenant that only
waits is reported once, at the configured number of scans (spec/12, R242). The model's readings:
notes/assumptions/25. -/
def Obligations.AdministrationAndDeadlockReport : Prop :=
  (∀ (s : State) (a : Agent) (i : BitVec 16) (tn : Tenant), canAct s.sled a = true → (a = .keeper ∨ ∃ c, a = .cc c) →
    islRuns s.sled iNOC = true →
    (∃ t, exec (.alloc a true i tn) s = .next t ∧ t.pending = s.pending ∧
      getSem t.sled i.toNat = { count := sNat 32 (bitsOf (rGet s.sled bSYN 8) 0 48), owner := tn.val, valid := true } ∧
      (∀ j, j ≠ i.toNat → getSem t.sled j = getSem s.sled j) ∧ t.sled = { s.sled with sem := t.sled.sem }) ∧
    (∃ t, exec (.setval a true i) s = .next t ∧ t.pending = s.pending ∧
      getSem t.sled i.toNat = { getSem s.sled i.toNat with count := sNat 32 (bitsOf (rGet s.sled bSYN 8) 0 48) } ∧
      t.sled = { s.sled with sem := t.sled.sem }) ∧
    (∃ t, exec (.clrlost a true i) s = .next t ∧ t.pending = s.pending ∧
      getSem t.sled i.toNat = { getSem s.sled i.toNat with lost := false } ∧ t.sled = { s.sled with sem := t.sled.sem })) ∧
  (∀ (s : State) (a : Agent) (i : BitVec 16) (tn : Tenant), canAct s.sled a = true → (a = .keeper ∨ ∃ c, a = .cc c) →
    islRuns s.sled iNOC = true → i.toNat < 16384 →
    (∃ t, exec (.alloc a false i tn) s = .next t ∧ t.pending = s.pending ∧
      getCtr t.sled i.toNat = { value := bitsOf (rGet s.sled bSYN 8) 0 48, owner := tn.val, valid := true } ∧
      (∀ j, j ≠ i.toNat → getCtr t.sled j = getCtr s.sled j) ∧ t.sled = { s.sled with ctr := t.sled.ctr }) ∧
    (∃ t, exec (.setval a false i) s = .next t ∧ t.pending = s.pending ∧
      getCtr t.sled i.toNat =
        { getCtr s.sled i.toNat with value := bitsOf (rGet s.sled bSYN 8) 0 48, sat := false } ∧
      t.sled = { s.sled with ctr := t.sled.ctr }) ∧
    (∃ t, exec (.clrlost a false i) s = .next t ∧ t.pending = s.pending ∧
      getCtr t.sled i.toNat = { getCtr s.sled i.toNat with lost := false } ∧ t.sled = { s.sled with ctr := t.sled.ctr }) ∧
    (let u := setCtr i.toNat { getCtr s.sled i.toNat with valid := false } s.sled
     exec (.free a false i) s = .next { s with
       sled := failWaits (fun w => decide (w.mod = none) && decide (w.idx = i.toNat) && decide (w.kind.obj = 0)) 0x1003 u })) ∧
  (∀ (s : State) (a : Agent) (sem : Bool) (i : BitVec 16) (k : Fin 4), canAct s.sled a = true →
    (a = .keeper ∨ ∃ c, a = .cc c) → islRuns s.sled iNOC = true →
    exec (.adminIgnoredAction a sem i k) s =
      .next { s with sled := logSync 0x1008 (whoAgent s.sled a) (b2n sem) i.toNat 0 0 s.sled }) ∧
  (∀ (s : State) (a : Agent) (i : BitVec 16) (tn : Tenant), canAct s.sled a = true → (a = .keeper ∨ ∃ c, a = .cc c) →
    islRuns s.sled iNOC = true → 16384 ≤ i.toNat →
    exec (.alloc a false i tn) s = .next { s with sled := logSync 0x1008 (whoAgent s.sled a) 0 i.toNat 0 0 s.sled } ∧
    exec (.free a false i) s = .next { s with sled := logSync 0x1008 (whoAgent s.sled a) 0 i.toNat 0 0 s.sled }) ∧
  (∀ (s : State), islRuns s.sled iCTL = true → (∀ w ∈ s.sled.waits, w.who.tenant = none) →
    ∃ t, exec .deadlockScan s = .next t ∧ t.pending = s.pending ∧
      (∀ tn : Tenant, (fget t.sled.dld {} tn).blocked = 0 ∧ (fget t.sled.dld {} tn).progress = false ∧
        (fget t.sled.dld {} tn).reported =
          ((fget s.sled.dld {} tn).reported && !(fget s.sled.dld {} tn).progress)) ∧
      t.sled = { s.sled with dld := t.sled.dld }) ∧
  (∀ (s : State) (tn : Tenant) (w : Wait), islRuns s.sled iCTL = true → s.sled.waits = [w] →
    w.who.tenant = some tn.val → w.mod = none → rescueObj (decide (w.kind.obj = 1)) w.idx = false →
    (fget s.sled.dld {} tn).progress = false →
    (fget s.sled.dld {} tn).reported = false →
    (fget s.sled.dld {} tn).blocked + 1 = max 1 (rField s.sled bSYN 0x18 16 4) → queuesWait s.sled tn = true →
    (fget s.sled.kpr.coll [] iCTL).length < 16 →
    ∃ t, exec .deadlockScan s = .next t ∧ t.pending = s.pending ∧
      fget t.sled.dld {} tn = { progress := false, blocked := (fget s.sled.dld {} tn).blocked + 1, reported := true } ∧
      (∃ r, fget t.sled.kpr.coll [] iCTL = fget s.sled.kpr.coll [] iCTL ++ [r] ∧ r.code = 0x1004 ∧
        r.tenant = some tn.val ∧ r.waiter = waiterId s.sled w.who) ∧
      rGet t.sled bSYN 0x318 = min (rGet s.sled bSYN 0x318 + 1) (if kt3 s.sled then 0xFFFF else 0xFFFFFFFF) ∧
      t.sled.waits = s.sled.waits ∧ t.sled.ctr = s.sled.ctr ∧ t.sled.sem = s.sled.sem) ∧
  (∀ s : State, islRuns s.sled iCTL = false → exec .deadlockScan s = .next s)

/-! ## The stream engine (spec/14) -/

/-- SREG registers its stream with the body it reads, resident in the lowest free slots where the quota has room; an
ID in use, a missing curve or a body beyond the quota faults (spec/14, R270, R274, R278). The model's readings:
notes/assumptions/22. -/
def Obligations.StreamsAreRegisteredWithTheirBody : Prop :=
  (∀ (s : State) (q : Fin 16) (k : Fin 8) (d : Desc) (st : Strm) (b : List (Byte × Bool)) (ok : Bool),
    steDesc s.sled q k d 0x60 → st = sregStrm s.sled d → bitAt (dField d 0x1F 1) 2 = false → homeOk s.sled st = true →
    reachOk s.sled st.tenant (dField d 0x28 8) (bodyLen st) = true → registerBar s.sled (dStream d) st = 0 →
    slotsUsed s.sled st.tenant + bodySlots st ≤ slotQuota s.sled st.tenant →
    readLocal (dField d 0x28 8) (bodyLen st) s.sled = ((b, ok), s.sled) → s.sled.clearing = false →
    ∃ t, exec (.sreg q k) s = .next t ∧ t.pending = s.pending ∧
      ffind t.sled.ste.streams (dStream d) = some { st with
        resident := true, slots := freeSlots s.sled (bodySlots st), lastStep := s.sled.ste.stamp + 1 } ∧
      (∀ i, i ≠ dStream d → ffind t.sled.ste.streams i = ffind s.sled.ste.streams i) ∧
      t.sled.ste.stamp = s.sled.ste.stamp + 1 ∧ (∀ e ∈ t.sled.ste.descs, e.id = d.id → e.stage = 2) ∧
      t.sled.mem = (writeSlots (freeSlots s.sled (bodySlots st)) b s.sled).mem ∧
      t.sled = { s.sled with ste := t.sled.ste, mem := t.sled.mem, ecc := t.sled.ecc }) ∧
  (∀ (s : State) (q : Fin 16) (k : Fin 8) (d : Desc) (st : Strm), steDesc s.sled q k d 0x60 → st = sregStrm s.sled d →
    bitAt (dField d 0x1F 1) 2 = false → homeOk s.sled st = true →
    reachOk s.sled st.tenant (dField d 0x28 8) (bodyLen st) = true → registerBar s.sled (dStream d) st ≠ 0 →
    exec (.sreg q k) s = .next { s with sled := descFault 8 d (registerBar s.sled (dStream d) st) 0 s.sled }) ∧
  (∀ (s : Sled) (id : Nat) (st : Strm), (ffind s.ste.streams id).isSome = true → registerBar s id st = 0x6001) ∧
  (∀ (s : Sled) (id : Nat) (st : Strm), ffind s.ste.streams id = none → st.kind ≠ 4 →
    slotQuota s st.tenant < bodySlots st → registerBar s id st = 0x6003)

/-- STEP advances its stream by its positions; a paused or unregistered stream faults; and one channel of the first
four kinds is the recurrence of Table 14-1, rounded once (spec/14, R264-R267, R275, R276, R281). The model's
readings: notes/assumptions/18, 22. -/
def Obligations.StepAdvancesTheStream : Prop :=
  (∀ (s : State) (q : Fin 16) (k : Fin 8) (d : Desc) (st : Strm), steDesc s.sled q k d 0x61 →
    earlierOp s.sled d = false → strmOf s.sled d = some st → st.resident = true → st.paused = false →
    (st.kind = 4 → pwlValid (fget d.curves [] st.pwl) = true) → stepReach s.sled st d = true → s.sled.ecc = [] →
    calm s.sled →
    ∃ t, exec (.step q k) s = .next t ∧ t.pending = s.pending ∧
      (∃ u, ffind t.sled.ste.streams (dStream d) = some u ∧
        u = { st with pos := st.pos + dField d 0x1C 4, lastStep := s.sled.ste.stamp + 1, nonfin := u.nonfin }) ∧
      (∀ i, i ≠ dStream d → ffind t.sled.ste.streams i = ffind s.sled.ste.streams i) ∧
      (∀ e ∈ t.sled.ste.descs, e.id = d.id → e.stage = 2)) ∧
  (∀ (s : State) (q : Fin 16) (k : Fin 8) (d : Desc) (st : Strm), steDesc s.sled q k d 0x61 →
    earlierOp s.sled d = false → strmOf s.sled d = some st → st.paused = true →
    exec (.step q k) s = .next { s with sled := descFault 8 d 0x6004 0 s.sled }) ∧
  (∀ (s : State) (q : Fin 16) (k : Fin 8) (d : Desc), steDesc s.sled q k d 0x61 → earlierOp s.sled d = false →
    strmOf s.sled d = none → exec (.step q k) s = .next { s with sled := descFault 8 d 0x6001 0 s.sled }) ∧
  (∀ (st : Strm) (c : List Byte) (a h x g : FVal), st.kind = 0 → st.comp = false →
    stepChannel st c [a] [h] x g =
      ([roundF fp32 ((a.mul h).add (((FVal.ofInt 1).sub a).mul x))],
        roundF fp32 ((a.mul h).add (((FVal.ofInt 1).sub a).mul x)))) ∧
  (∀ (st : Strm) (c : List Byte) (a b h x g : FVal), st.kind = 1 → st.comp = false →
    stepChannel st c [a, b] [h] x g =
      ([roundF fp32 ((a.mul h).add (b.mul x))], roundF fp32 ((a.mul h).add (b.mul x)))) ∧
  (∀ (st : Strm) (c : List Byte) (p1 p2 p3 h1 h2 x g : FVal), st.kind = 2 → st.comp = false →
    stepChannel st c [p1, p2, p3] [h1, h2] x g =
      ([roundF fp32 (((p1.mul h1).add (p2.mul h2)).add (p3.mul x)), h1],
        roundF fp32 (((p1.mul h1).add (p2.mul h2)).add (p3.mul x))))

/-- A STEP at the head of its stream's operations completes: its stream is registered by the queue's tenant, resident and
not paused, no other started descriptor names it, a G1 stream's curve was valid at the start, its rows are within
reach, and no access has to wait. The stream advances by the descriptor's positions, the descriptor's operation is
done, and no other stream, no object or wait of the sync store and no bank, channel, vault core, fabric or link changes
(spec/14, R264, R275, R276, R281; spec/10, R186, R190). The model's readings: notes/assumptions/22, 41. -/
def Obligations.StepCommandCompletes : Prop :=
  ∀ (s : State) (q : Fin 16) (k : Fin 8) (d : Desc) (st : Strm), steDesc s.sled q k d 0x61 → d.orphan = false →
    ffind s.sled.ste.streams (dStream d) = some st → st.tenant = qTen s.sled 8 d.q →
    st.resident = true → st.paused = false → (st.kind = 4 → pwlValid (fget d.curves [] st.pwl) = true) →
    (∀ e ∈ s.sled.ste.descs, e.id ≠ d.id → e.stage ≠ 0 → dStream e ≠ dStream d) →
    (∀ i < dField d 0x1C 4,
      reachOk s.sled st.tenant (dField d 0x20 8 + i * dField d 0x38 4) (st.c * stepInBytes (d.fmt % 16)) = true ∧
      (st.kind = 4 →
        reachOk s.sled st.tenant (dField d 0x28 8 + i * dField d 0x38 4) (st.c * stepInBytes (d.fmt % 16)) = true) ∧
      (bitAt d.flags 4 = false →
        reachOk s.sled st.tenant (dField d 0x30 8 + i * dField d 0x3C 4) (st.c * (stepOut (d.fmt / 16)).bytes) = true)) →
    calm s.sled → s.sled.ecc = [] →
    ∃ t u, exec (.step q k) s = .next t ∧ t.pending = s.pending ∧
      ffind t.sled.ste.streams (dStream d) = some u ∧ u.pos = st.pos + dField d 0x1C 4 ∧
      u.lastStep = s.sled.ste.stamp + 1 ∧ u.resident = true ∧ u.paused = false ∧ u.slots = st.slots ∧
      (∀ i, i ≠ dStream d → ffind t.sled.ste.streams i = ffind s.sled.ste.streams i) ∧
      (∀ e ∈ t.sled.ste.descs, e.id = d.id → e.stage = 2) ∧
      t.sled.ctr = s.sled.ctr ∧ t.sled.sem = s.sled.sem ∧ t.sled.waits = s.sled.waits ∧ t.sled.vc = s.sled.vc ∧
      t.sled.bank = s.sled.bank ∧ t.sled.chan = s.sled.chan ∧ t.sled.fab = s.sled.fab ∧ t.sled.lnk = s.sled.lnk

/-- EXPORT writes the capsule, IMPORT registers a capsule that passes every check and faults on one that does not
(spec/14, R282-R286). The model's readings: notes/assumptions/22. -/
def Obligations.CapsulesLeaveAndEnter : Prop :=
  (∀ (s : State) (q : Fin 16) (k : Fin 8) (d : Desc) (st : Strm) (core : CoreId) (dst : Nat),
    steDesc s.sled q k d 0x62 → earlierOp s.sled d = false → strmOf s.sled d = some st → st.resident = true →
    bitAt d.flags 5 = false → dField d 0x20 8 = moduleId s.sled * 2 ^ 40 + dst → ownScratch core dst (68 + bodyLen st) →
    dst % 64 = 0 → islRuns s.sled (iVC core) = true → 68 + bodyLen st ≤ dField d 0x28 4 →
    rowOk s.sled st.tenant (dField d 0x20 8) (68 + bodyLen st) = true → s.sled.ecc = [] → s.sled.clearing = false →
    st.slots.length = bodySlots st →
    ∃ t, exec (.strExport q k) s = .next t ∧ t.pending = s.pending ∧
      memRead t.sled.mem (2 ^ 40 + dst) (68 + bodyLen st) = (capsule (whoQ s.sled 8 d.q) (dStream d) 2 st s.sled).1.map (·.1) ∧
      (∀ x, x < 2 ^ 40 + dst ∨ 2 ^ 40 + dst + 68 + bodyLen st ≤ x → memGet t.sled.mem x = memGet s.sled.mem x) ∧
      (bitAt d.flags 4 = true → ffind t.sled.ste.streams (dStream d) = none) ∧
      (bitAt d.flags 4 = false → t.sled.ste.streams = s.sled.ste.streams) ∧
      (∀ e ∈ t.sled.ste.descs, e.id = d.id → e.stage = 2)) ∧
  (∀ (s : State) (q : Fin 16) (k : Fin 8) (d : Desc) (h l : List (Byte × Bool)) (st : Strm) (n : Nat),
    steDesc s.sled q k d 0x63 → dField d 0x20 8 / 2 ^ 40 = moduleId s.sled →
    rowOk s.sled (qTen s.sled 8 d.q) (dField d 0x20 8) 68 = true →
    readLocal (dField d 0x20 8 % 2 ^ 40) 64 s.sled = ((h, true), s.sled) →
    capStart (h.map (·.1)) = true → s.sled.clearing = false → n = 68 + leNat (((h.map (·.1)).drop 0xC).take 4) →
    rowOk s.sled (qTen s.sled 8 d.q) (dField d 0x20 8) n = true →
    readLocal (dField d 0x20 8 % 2 ^ 40) n s.sled = ((l, true), s.sled) →
    st = capStrm (l.map (·.1)) (qTen s.sled 8 d.q) (dField d 0x28 8) (bitAt (dField d 0x30 1) 1) →
    (capReason s.sled (l.map (·.1)) st = 0 → homeOk s.sled st = true → registerBar s.sled (dStream d) st = 0 →
      slotsUsed s.sled st.tenant + bodySlots st ≤ slotQuota s.sled st.tenant →
      ∃ t, exec (.strImport q k) s = .next t ∧ t.pending = s.pending ∧
        ffind t.sled.ste.streams (dStream d) = some { st with
          resident := true, slots := freeSlots s.sled (bodySlots st), lastStep := s.sled.ste.stamp + 1 } ∧
        t.sled.mem = (writeSlots (freeSlots s.sled (bodySlots st)) ((l.drop 64).take (bodyLen st)) s.sled).mem ∧
        (∀ e ∈ t.sled.ste.descs, e.id = d.id → e.stage = 2)) ∧
    (capReason s.sled (l.map (·.1)) st ≠ 0 →
      exec (.strImport q k) s = .next { s with
        sled := descFault 8 d 0x6002 (capReason s.sled (l.map (·.1)) st) (bump bSTE 0x420 s.sled) })) ∧
  (∀ (s : State) (q : Fin 16) (k : Fin 8) (d : Desc) (h : List (Byte × Bool)) (ok : Bool), steDesc s.sled q k d 0x63 →
    dField d 0x20 8 / 2 ^ 40 = moduleId s.sled → rowOk s.sled (qTen s.sled 8 d.q) (dField d 0x20 8) 68 = true →
    readLocal (dField d 0x20 8 % 2 ^ 40) 64 s.sled = ((h, ok), s.sled) → capStart (h.map (·.1)) = false →
    exec (.strImport q k) s = .next { s with sled := descFault 8 d 0x6002 1 (bump bSTE 0x420 s.sled) })

/-- PAUSE and its resume form set and clear the pause, SEND ends the stream and frees its slots; the quantum passes
the turn on; a waiting operation goes on, or leaves the list with its descriptor; a curve is loaded only from a valid
image (spec/14, R270, R276, R279, R280). The model's readings: notes/assumptions/22. -/
def Obligations.StreamControlOperations : Prop :=
  (∀ (s : State) (q : Fin 16) (k : Fin 8) (d : Desc) (st : Strm), steDesc s.sled q k d 0x64 →
    earlierOp s.sled d = false → strmOf s.sled d = some st → st.resident = true →
    (bitAt d.flags 4 = false →
      let u := putStrm (dStream d) { st with paused := true } s.sled
      exec (.pause q k) s = .next { s with sled := opDone 8 d.id u } ∧ exec (.pauseResume q k) s = .next s) ∧
    (bitAt d.flags 4 = true →
      let u := putStrm (dStream d) { st with paused := false } s.sled
      exec (.pauseResume q k) s = .next { s with sled := opDone 8 d.id u } ∧ exec (.pause q k) s = .next s)) ∧
  (∀ (s : State) (q : Fin 16) (k : Fin 8) (d : Desc) (st : Strm), steDesc s.sled q k d 0x65 →
    earlierOp s.sled d = false → strmOf s.sled d = some st → bitAt d.flags 4 = false →
    ∃ t, exec (.send q k) s = .next t ∧ t.pending = s.pending ∧ ffind t.sled.ste.streams (dStream d) = none ∧
      (∀ i, i ≠ dStream d → ffind t.sled.ste.streams i = ffind s.sled.ste.streams i) ∧
      (∀ e ∈ t.sled.ste.descs, e.id = d.id → e.stage = 2) ∧ t.sled = { s.sled with ste := t.sled.ste }) ∧
  (∀ (s : State) (a b : Desc), s.sled.ste.descs = [a, b] → a.stage = 1 → a.opc = 0x61 → b.stage = 1 → b.opc = 0x61 →
    s.sled.ste.evictQ = [] → dStream a ≠ dStream b → s.sled.ste.turn = [dStream a, dStream b] →
    exec .streamQuantumExpire s = .next { s with sled := { s.sled with
      ste := { s.sled.ste with turn := [dStream b, dStream a] } } }) ∧
  (∀ s : State, ∃ t, exec .streamQuantumExpire s = .next t ∧
    t = { s with sled := { s.sled with ste := { s.sled.ste with turn := t.sled.ste.turn } } }) ∧
  (∀ (s : State) (id : Nat) (rest : List Nat), s.sled.ste.evictQ = id :: rest → (∀ e ∈ s.sled.ste.descs, e.id ≠ id) →
    exec .streamEvictWaitEnd s =
      .next { s with sled := { s.sled with ste := { s.sled.ste with evictQ := rest } } }) ∧
  (∀ (s : State) (d : Desc) (st : Strm) (rest : List Nat), s.sled.ste.evictQ = d.id :: rest →
    s.sled.ste.descs.find? (fun e => e.id = d.id) = some d → d.opc = 0x64 → bitAt d.flags 4 = false →
    earlierOp s.sled d = false → strmOf s.sled d = some st → st.resident = false →
    slotsUsed s.sled st.tenant + bodySlots st ≤ slotQuota s.sled st.tenant → d.id ∉ rest → calm s.sled →
    ∃ t, exec .streamEvictWaitEnd s = .next t ∧ t.pending = s.pending ∧ t.sled.ste.evictQ = rest ∧
      ffind t.sled.ste.streams (dStream d) = some { st with
        resident := true, slots := freeSlots s.sled (bodySlots st), paused := true } ∧
      (∀ e ∈ t.sled.ste.descs, e.id = d.id → e.stage = 2)) ∧
  (∀ (s : State) (a : Agent) (i : BitVec 4) (addr : LAddr) (b : List (Byte × Bool)), canAct s.sled a = true →
    blkReach a bSTE = true → islRuns s.sled iSTE = true → lockedReg s.sled bSTE 0x200 = false → addr.toNat % 64 = 0 →
    readLocal addr.toNat 224 s.sled = ((b, true), s.sled) → anyPoison b = false → pwlValid (b.map (·.1)) = true →
    ∃ t, exec (.pwlLoad a i addr) s = .next t ∧ t.pending = s.pending ∧
      ffind t.sled.ste.curves i.toNat = some (b.map (·.1)) ∧
      (∀ j, j ≠ i.toNat → ffind t.sled.ste.curves j = ffind s.sled.ste.curves j) ∧
      t.sled.ste.streams = s.sled.ste.streams) ∧
  (∀ (s : State) (a : Agent) (i : BitVec 4) (addr : LAddr) (b : List (Byte × Bool)), canAct s.sled a = true →
    blkReach a bSTE = true → islRuns s.sled iSTE = true → lockedReg s.sled bSTE 0x200 = false → addr.toNat % 64 = 0 →
    readLocal addr.toNat 224 s.sled = ((b, true), s.sled) → pwlValid (b.map (·.1)) = false →
    ∃ t, exec (.pwlLoad a i addr) s = .next t ∧ t.pending = s.pending ∧ t.sled.ste = s.sled.ste ∧
      t.sled.mem = s.sled.mem)

/-! ## Links and fabric (spec/15, spec/16) -/

/-- Bring-up: each event takes the link one state on; training takes all lanes or one whole half, else the link goes
down; configuration takes the common flit size and a peer that fits; authentication makes the link ACTIVE with every
sequence number and credit anew; a DOWN link tries again (spec/15, R291-R295, R310, R313; notes/assumptions/36). -/
def Obligations.LinkBringUpWalksItsStates : Prop :=
  (∀ (s : State) (l : LinkId) (k : Lnk), linkIn s.sled l 0 k →
    ∃ t, exec (.linkDetectStart l) s = .next t ∧ onlyLink s t l { k with state := 1, lock := 0 }) ∧
  (∀ (s : State) (l : LinkId) (k : Lnk), linkIn s.sled l 1 k →
    ∃ t, exec (.linkTerminationFound l) s = .next t ∧ onlyLink s t l { k with state := 2 }) ∧
  (∀ (s : State) (l : LinkId) (r : LinkTrain) (k : Lnk), linkIn s.sled l 2 k →
    (r.lanes = 0xFF → ∃ t, exec (.linkTrained l r) s = .next t ∧
      onlyLink s t l { k with state := 3, lock := r.lanes, narrow := false, half := false }) ∧
    (r.lanes.toNat % 16 = 15 → r.lanes ≠ 0xFF → ∃ t, exec (.linkTrained l r) s = .next t ∧
      onlyLink s t l { k with state := 3, lock := r.lanes, narrow := true, half := false }) ∧
    (r.lanes.toNat / 16 = 15 → r.lanes ≠ 0xFF → ∃ t, exec (.linkTrained l r) s = .next t ∧
      onlyLink s t l { k with state := 3, lock := r.lanes, narrow := true, half := true }) ∧
    (r.lanes.toNat % 16 ≠ 15 → r.lanes.toNat / 16 ≠ 15 →
      let u := updLnk l (fun x => { x with lock := r.lanes }) s.sled
      exec (.linkTrained l r) s = .next { s with sled := linkDown l (logRec (recLink u 0x5005 l) u) })) ∧
  (∀ (s : State) (l : LinkId) (k : Lnk), linkIn s.sled l 3 k →
    ∃ t, exec (.linkAligned l) s = .next t ∧
      onlyLink s t l { k with state := 4, flit128 := !(ownOffer s.sled).offers256 }) ∧
  (∀ (s : State) (l : LinkId) (o : LinkOffer) (k : Lnk) (p : Ppi), linkIn s.sled l 4 k → s.sled.prof = some p →
    (∀ b r, commonFlit s.sled o = some b → commonRate s.sled o = some r → o.peer.toNat ≠ moduleId s.sled →
      peerFits s.sled p.cfg l o.peer.toNat = true →
      ∃ t, exec (.linkConfigAgreed l o) s = .next t ∧ t.pending = s.pending ∧
        getLnk t.sled l = { k with
          state := 5, peer := o.peer.toNat, flit128 := b, slow := r
          nonce := Config.freeValue s.sled.free % 2 ^ 256, authIn := [], authOut := 0 } ∧
        (∀ m, m ≠ l.val → getLnk t.sled m = getLnk s.sled m) ∧
        t.sled = { s.sled with lnk := t.sled.lnk, free := s.sled.free + 1 }) ∧
    ((commonFlit s.sled o = none ∨ commonRate s.sled o = none ∨ o.peer.toNat = moduleId s.sled ∨
        peerFits s.sled p.cfg l o.peer.toNat = false) →
      exec (.linkConfigAgreed l o) s = .next { s with
        sled := linkProtocol l (updLnk l (fun x => { x with peer := o.peer.toNat }) s.sled) })) ∧
  (∀ (s : Sled) (o : LinkOffer),
    (commonRate s o = some false ↔ o.offers300 = true) ∧
    (commonRate s o = some true ↔ o.offers300 = false ∧ o.offers200 = true) ∧
    (commonFlit s o = some false ↔ o.offers256 = true ∧ kt3 s = false)) ∧
  (∀ (s : State) (l : LinkId) (m : AuthMsg) (k : Lnk) (p : Ppi), linkIn s.sled l 5 k →
    s.sled.kpr.phase = .running → s.sled.prof = some p →
    (∀ g, m.chainOk = true → m.sigOk = true → ffind p.cfg.peers k.peer = some g → (g = 0 ∨ g = m.keyDigest.toNat) →
      ∃ t, exec (.linkAuthVerified l m) s = .next t ∧ t.pending = s.pending ∧
        getLnk t.sled l = { k with
          state := 6, auth := true, expect := 0, lastAck := seqMod k - 1, nakOwed := false, nakOut := false
          nextSeq := 0, retry := [], replay := [], nakSeq := none, fails := 0, sent := Vector.replicate 4 0
          got := Vector.replicate 4 0, released := Vector.replicate 4 0, rx := [], tx := Vector.replicate 4 []
          starve := Vector.replicate 4 0, cvc := 0, recovers := [] } ∧
        k.peer ∉ t.sled.fab.gone ∧ (∀ n, n ≠ k.peer → (n ∈ t.sled.fab.gone ↔ n ∈ s.sled.fab.gone)) ∧
        t.sled = { s.sled with lnk := t.sled.lnk, fab := { s.sled.fab with gone := t.sled.fab.gone } }) ∧
    ((m.chainOk = false ∨ m.sigOk = false ∨ ffind p.cfg.peers k.peer = none ∨
        ∃ g, ffind p.cfg.peers k.peer = some g ∧ g ≠ 0 ∧ g ≠ m.keyDigest.toNat) →
      let u := logLimited (60000 * ms) l { recLink s.sled 0x5004 l with arg1 := k.peer } (bumpLink l 7 1 s.sled)
      exec (.linkAuthVerified l m) s = .next { s with
        sled := updLnk l (fun x => { x with authWait := true }) (linkDown l u) })) ∧
  (∀ (s : State) (l : LinkId) (k : Lnk), linkIn s.sled l 8 k →
    ∃ t, exec (.linkDownRetry l) s = .next t ∧ onlyLink s t l { k with state := 1, lock := 0, authWait := false }) ∧
  (∀ (s : State) (a : Agent) (l : LinkId), canAct s.sled a = true → blkReach a (bLNK l) = true →
    islRuns s.sled (iL l) = true → lockedReg s.sled (bLNK l) 0 = false →
    (∃ t, exec (.lnkCtlEnWrite a l true) s = .next t ∧ rField t.sled (bLNK l) 0 0 1 = 1 ∧
      t = { s with sled := { s.sled with regs := t.sled.regs } }) ∧
    ((getLnk s.sled l).retry = [] → (getLnk s.sled l).tx = Vector.replicate 4 [] →
      ∃ t, exec (.lnkCtlEnWrite a l false) s = .next t ∧ rField t.sled (bLNK l) 0 0 1 = 0 ∧
        (getLnk t.sled l).state = 0 ∧ (getLnk t.sled l).rx = [] ∧
        t = { s with sled := { s.sled with regs := t.sled.regs, lnk := t.sled.lnk } }))

/-- What a flit time sends on an ACTIVE link: the NAK that is owed, else the next flit of a replay, else new data of
the VC whose turn it is, numbered, kept for retry and counted against its credit, else an idle flit; with no room
unacknowledged, an idle flit. Control flits go in CONFIG, AUTH and RECOVER (spec/15, R293, R294, R298-R304). What a receiver does: an
uncorrectable block and a flit of a bad CRC are lost and counted; a data flit in sequence enters the receive buffer
and is acknowledged, a later one asks for a NAK, an earlier one is discarded; an acknowledgement frees the retry
buffer; a NAK replays from the SEQ it names; a release hands the oldest flit's messages on and returns a credit
(spec/15, R297-R305). The model's readings: notes/assumptions/19, 36. -/
def Obligations.FlitsAreSentReceivedAndReplayed : Prop :=
  (∀ (s : State) (l : LinkId) (k : Lnk), linkIn s.sled l 6 k → k.nakOwed = true →
    ∃ t, exec (.flitTimeSend l) s = .next t ∧ t.pending = s.pending ∧
      t.sled.outs = s.sled.outs ++ [.flit l (flitNow k 2 0 k.expect []) []] ∧
      getLnk t.sled l = { k with nakOwed := false, nakOut := true, cvc := (getLnk t.sled l).cvc } ∧
      t.sled = { s.sled with outs := t.sled.outs, lnk := t.sled.lnk }) ∧
  (∀ (s : State) (l : LinkId) (k : Lnk) (f : TxFlit) (r : List TxFlit), linkIn s.sled l 6 k → k.nakOwed = false →
    k.replay = f :: r →
    ∃ t, exec (.flitTimeSend l) s = .next t ∧ t.pending = s.pending ∧
      t.sled.outs = s.sled.outs ++ [.flit l f.bytes (f.msgs.map msgPois)] ∧
      getLnk t.sled l = { k with replay := r } ∧
      t.sled = { s.sled with outs := t.sled.outs, lnk := t.sled.lnk }) ∧
  (∀ (s : State) (l : LinkId) (k : Lnk) (v : Fin 4), linkIn s.sled l 6 k → k.nakOwed = false → k.replay = [] →
    k.retry.length < retryDepth k → pickVc k = some v →
    let f : TxFlit := { seq := k.nextSeq, vc := v.val, msgs := (nextFlit k v).1
                        bytes := flitNow k 1 v.val k.nextSeq ((nextFlit k v).1.flatMap msgWire) }
    ∃ t, exec (.flitTimeSend l) s = .next t ∧ t.pending = s.pending ∧
      t.sled.outs = s.sled.outs ++ [.flit l f.bytes (f.msgs.map msgPois)] ∧
      (getLnk t.sled l).nextSeq = (k.nextSeq + 1) % seqMod k ∧ (getLnk t.sled l).retry = k.retry ++ [f] ∧
      (getLnk t.sled l).sent = k.sent.set v (k.sent[v] + 1) ∧ (getLnk t.sled l).tx = k.tx.set v (nextFlit k v).2 ∧
      (getLnk t.sled l).got = k.got ∧ (getLnk t.sled l).rx = k.rx ∧ (getLnk t.sled l).expect = k.expect ∧
      t.sled = { s.sled with outs := t.sled.outs, lnk := t.sled.lnk }) ∧
  (∀ (s : State) (l : LinkId) (k : Lnk), linkIn s.sled l 6 k → k.nakOwed = false → k.replay = [] →
    (retryDepth k ≤ k.retry.length ∨ pickVc k = none) →
    ∃ t, exec (.flitTimeSend l) s = .next t ∧ t.pending = s.pending ∧
      t.sled.outs = s.sled.outs ++ [.flit l (flitNow k 0 0 0 []) []] ∧
      getLnk t.sled l = { k with cvc := (getLnk t.sled l).cvc }) ∧
  (∀ (s : State) (l : LinkId) (k : Lnk),
    (linkIn s.sled l 4 k → ∃ t, exec (.flitTimeSend l) s = .next t ∧
      t.sled.outs = s.sled.outs ++ [.flit l (flitNow k 3 3 0 (ctlConfig
        (b2n (!kt3 s.sled) + 2 * b2n (ownOffer s.sled).offers128) 3 (BitVec.ofNat 8 (moduleId s.sled)).toNat)) []]) ∧
    (linkIn s.sled l 5 k → ∃ t, exec (.flitTimeSend l) s = .next t ∧
      t.sled.outs = s.sled.outs ++
        [.flit l (flitNow k 3 3 0 (ctlAuth k.authOut (((authOwn s.sled l).drop k.authOut).take 108))) []]) ∧
    (linkIn s.sled l 7 k → ∃ t, exec (.flitTimeSend l) s = .next t ∧
      t.sled.outs = s.sled.outs ++ [.flit l (flitNow k 3 3 0 ctlRecover) []])) ∧
  (∀ (k : Lnk) (v : Fin 4), pickVc k = some v → (nextFlit k v).1 ≠ [] ∧ k.sent[v] - k.got[v] < allotment v) ∧
  (∀ k : Lnk, (∀ v : Fin 4, k.starve[v] = 0) → (nextFlit k 3).1 ≠ [] → k.sent[(3 : Fin 4)] - k.got[(3 : Fin 4)] < 128 →
    pickVc k = some 3) ∧
  (∀ (k : Lnk) (v : Fin 4), ((nextFlit k v).1.map msgUnits).sum ≤ flitUnits k.flit128 ∧
    List.Perm ((nextFlit k v).1 ++ (nextFlit k v).2) k.tx[v]) ∧
  (∀ (s : State) (l : LinkId) (k : Lnk) (lo hi : List (Fin 1088)) (f : FlitIn), linkIn s.sled l 6 k →
    let w := laneCount k.narrow
    let x := fecPlaces k.narrow k.half lo hi
    let u := (List.range 8).foldl (fun s i =>
        bumpLink l (8 + i) ((fecSymbols w x).filter fun y => decide (fecLane k.narrow k.half y = i)).length s)
      (bumpLink l 0 ((List.range 4).filter (fecFixed w x)).length s.sled)
    (fecOk w x = true → exec (.fecBlockReceive l lo hi [f.bytes] [f.pois]) s = .next { s with sled := recvFlit l f u }) ∧
    (fecOk w x = false → k.nakOut = false → exec (.fecBlockReceive l lo hi [f.bytes] [f.pois]) s = .next { s with
      sled := updLnk l (fun y => { y with nakOwed := true }) (bumpLink l 1 1 u) })) ∧
  (∀ (w : Nat) (e : List Nat), e.length ≤ 8 → fecOk w e = true) ∧
  (∀ (s : Sled) (l : LinkId) (k : Lnk) (f : FlitIn), linkIn s l 6 k → flitRead k.flit128 f.bytes = none →
    k.nakOut = false → recvFlit l f s = updLnk l (fun x => { x with nakOwed := true }) (bumpLink l 2 1 s)) ∧
  (∀ (s : Sled) (l : LinkId) (k : Lnk) (vc : Nat) (m : List Msg), linkIn s l 6 k →
    (k.rx.filter fun e => e.1 = vc).length < allotment vc →
    recvData l k.expect vc m s = updLnk l (fun x => { x with
      expect := (k.expect + 1) % seqMod k, lastAck := k.expect, rx := k.rx ++ [(vc, m)], nakOut := false }) s) ∧
  (∀ (s : Sled) (l : LinkId) (k : Lnk) (seq vc : Nat) (m : List Msg), linkIn s l 6 k → seq ≠ k.expect →
    seq < seqMod k → k.expect < seqMod k →
    ((seq + seqMod k - k.expect) % seqMod k < seqMod k / 2 → k.nakOut = false →
      recvData l seq vc m s = updLnk l (fun x => { x with nakOwed := true }) s) ∧
    (seqMod k / 2 ≤ (seq + seqMod k - k.expect) % seqMod k → recvData l seq vc m s = s)) ∧
  (∀ (s : Sled) (l : LinkId) (k : Lnk) (i : Nat) (x : TxFlit), linkIn s l 6 k → k.nextSeq < seqMod k →
    k.retry.length ≤ retryDepth k →
    (∀ j y, k.retry[j]? = some y → y.seq = (k.nextSeq + seqMod k - k.retry.length + j) % seqMod k) →
    k.retry[i]? = some x →
    recvAck l x.seq s = updLnk l (fun z => { z with
      retry := k.retry.drop (i + 1)
      replay := k.replay.filter fun f => !((k.retry.take (i + 1)).map (·.seq)).contains f.seq
      nakSeq := none, fails := 0 }) s) ∧
  (∀ (s : Sled) (l : LinkId) (k : Lnk) (a r : List TxFlit) (x : TxFlit), linkIn s l 6 k → k.retry = a ++ x :: r →
    (∀ y ∈ a, y.seq ≠ x.seq) → k.nakSeq = none →
    recvNak l x.seq s = bumpLink l 3 1 (updLnk l (fun z => { z with
      replay := x :: r, nakSeq := some x.seq, fails := 0 }) s)) ∧
  (∀ (s : State) (l : LinkId) (k : Lnk) (v : Fin 4) (r : List (Nat × List Msg)), linkIn s.sled l 6 k →
    k.rx = (v.val, []) :: r →
    ∃ t, exec (.creditRelease l v) s = .next t ∧
      onlyLink s t l { k with rx := r, released := k.released.set v (k.released[v] + 1) }) ∧
  (∀ (s : State) (l : LinkId) (v : Fin 4) (k : Lnk) (m : Msg) (r : List (Nat × List Msg)), linkIn s.sled l 6 k →
    k.rx = (v.val, [m]) :: r →
    let u := deliver l v m (updLnk l (fun x => { x with rx := r, released := x.released.set v (x.released[v] + 1) }) s.sled)
    (u.stall = s.sled.stall → exec (.creditRelease l v) s = .next { s with sled := u }) ∧
    (u.stall ≠ s.sled.stall → exec (.creditRelease l v) s = .next s)) ∧
  (∀ (s : State) (l : LinkId) (k : Lnk), linkIn s.sled l 6 k →
    (k.nakOut = true → ∃ t, exec (.nakRepeatTimeout l) s = .next t ∧ onlyLink s t l { k with nakOwed := true }) ∧
    (k.nakOut = false → ∃ t, exec (.nakRepeatTimeout l) s = .next t ∧ onlyLink s t l k)) ∧
  (∀ (s : State) (l : LinkId) (k : Lnk), linkIn s.sled l 6 k → k.retry ≠ [] →
    let u := updLnk l (fun x => { x with replay := k.retry }) s.sled
    exec (.replayAckTimeout l) s = .next { s with sled := bumpLink l 3 1 u })

/-- RECOVER: entered by command, on the loss of a lane in use and on too many errors; its check resumes at full
width, narrows to a whole half or takes the link down, as does its time limit and the loss of every lane; an idle
half that passes its check in the background brings the link back through RECOVER (spec/15, R306-R309). The model's
readings: notes/assumptions/19, 36. -/
def Obligations.RecoverResumesNarrowsOrGoesDown : Prop :=
  (∀ (s : State) (a : Agent) (l : LinkId) (k : Lnk), linkIn s.sled l 6 k → canAct s.sled a = true →
    blkReach a (bLNK l) = true → exec (.lnkRetrain a l) s = .next { s with sled := linkRecover l s.sled }) ∧
  (∀ (s : Sled) (l : LinkId) (k : Lnk), linkIn s l 6 k →
    let u := logRec (recLink s 0x5007 l) (bumpLink l 4 1 s)
    linkRecover l s = updLnk l (fun _ => { k with
      state := 7, nakOwed := false, nakOut := false, replay := [], nakSeq := none, fails := 0 }) u) ∧
  (∀ (s : State) (l : LinkId) (i : Fin 8) (k : Lnk), linkIn s.sled l 6 k →
    let u := updLnk l (fun x => { x with lock := x.lock &&& ~~~((1 : BitVec 8) <<< i.val) }) s.sled
    (laneUsed k i = true → exec (.laneLockLoss l i) s = .next { s with sled := linkRecover l u }) ∧
    (laneUsed k i = false → exec (.laneLockLoss l i) s = .next { s with sled := u })) ∧
  (∀ (s : State) (l : LinkId) (i : Fin 8) (n : BitVec 32) (k : Lnk), linkIn s.sled l 6 k →
    (laneUsed k i = true → rField s.sled (bLNK l) 0x10 0 24 < n.toNat →
      exec (.laneErrorWindow l i n) s = .next { s with sled := linkRecover l s.sled }) ∧
    ((laneUsed k i = false ∨ n.toNat ≤ rField s.sled (bLNK l) 0x10 0 24) →
      exec (.laneErrorWindow l i n) s = .next s)) ∧
  (∀ (s : State) (l : LinkId) (lock : BitVec 8) (e : List (BitVec 24)) (k : Lnk) (g : Nat), linkIn s.sled l 7 k →
    k.narrow = false → k.retry = [] → g = healthyLanes s.sled l lock.toNat (e.map (·.toNat)) →
    (wholeHalf g 0 = true → wholeHalf g 1 = true →
      (k.recovers.filter fun x => s.sled.now < x + 1000 * ms).length < 2 →
      ∃ t, exec (.recoverCheckEnd l lock e) s = .next t ∧ onlyLink s t l { k with
        state := 6, lock := lock, narrow := false, half := false, widening := false, widen := false
        recovers := (k.recovers.filter fun x => s.sled.now < x + 1000 * ms) ++ [s.sled.now] }) ∧
    (wholeHalf g 0 = true → wholeHalf g 1 = false →
      ∃ t, exec (.recoverCheckEnd l lock e) s = .next t ∧ getLnk t.sled l = { k with
        state := 6, lock := lock, narrow := true, half := false, widening := false, widen := false }) ∧
    (wholeHalf g 0 = false → wholeHalf g 1 = true →
      ∃ t, exec (.recoverCheckEnd l lock e) s = .next t ∧ getLnk t.sled l = { k with
        state := 6, lock := lock, narrow := true, half := true, widening := false, widen := false }) ∧
    (wholeHalf g 0 = false → wholeHalf g 1 = false →
      exec (.recoverCheckEnd l lock e) s = .next { s with
        sled := linkDown l (updLnk l (fun x => { x with lock := lock }) s.sled) })) ∧
  (∀ (s : State) (l : LinkId) (k : Lnk), linkIn s.sled l 7 k →
    exec (.recoverTimeout l) s = .next { s with sled := linkDown l s.sled }) ∧
  (∀ (s : State) (l : LinkId) (k : Lnk), linkIn s.sled l 6 k →
    exec (.linkLockLoss l) s = .next { s with
      sled := linkDown l (updLnk l (fun x => { x with lock := 0 }) s.sled) }) ∧
  (∀ (s : Sled) (l : LinkId) (k : Lnk), getLnk s l = k → k.retry = [] → k.tx = Vector.replicate 4 [] →
    let u := bumpLink l 6 1 (logRec { recLink s 0x5001 l with arg1 := k.peer } s)
    linkDown l s = updLnk l (fun _ => { k with
      state := 8, rx := [], replay := [], nakSeq := none, fails := 0, nakOwed := false, nakOut := false
      starve := Vector.replicate 4 0, widening := false, widen := false, auth := false }) u) ∧
  (∀ (s : State) (l : LinkId) (k : Lnk), linkIn s.sled l 6 k → k.narrow = true →
    rField s.sled (bLNK l) 0 2 1 = 1 →
    (∃ t, exec (.autoWidenTick l) s = .next t ∧ onlyLink s t l { k with widening := true }) ∧
    (k.widening = true →
      exec (.autoWidenPass l) s = .next { s with
        sled := linkRecover l (updLnk l (fun x => { x with widen := true, widening := false }) s.sled) }))

/-- A request at its destination acts and is answered with its TAG on the response route: a write stores and is
acknowledged, a read sends the bytes back, a REDUCE adds, a SIGNAL and a SYNC_OP act on the sync store; what the
carried tenant may not reach is refused with FABRIC_REFUSED (spec/12, R241; spec/16, R317, R321, R323; the layouts of
arguments and data: notes/assumptions/20). -/
def Obligations.FabricRequestsActAndAreAnswered : Prop :=
  (∀ (s : State) (l : LinkId) (m : MsgIn), arrives s.sled l m → 0 < m.arg.toNat % 256 →
    m.arg.toNat % 256 ≤ m.data.length → calm s.sled →
    (fabReach s.sled m (m.arg.toNat % 256) = true →
      let u := writeLocal m.addr.toNat (msgBytes m (m.arg.toNat % 256)) s.sled
      (m.addr.toNat < 2 ^ 39 → exec (.fabWrite l m) s = .next { s with
        sled := respond 5 m 0 [] 0 none (progress m.tenant u) }) ∧
      (2 ^ 39 ≤ m.addr.toNat → exec (.fabWrite l m) s = .next { s with sled := respond 5 m 0 [] 0 none u })) ∧
    (fabReach s.sled m (m.arg.toNat % 256) = false →
      exec (.fabWrite l m) s = .next { s with sled := respond 9 m 0x500B [] 0 none s.sled })) ∧
  (∀ (s : State) (l : LinkId) (m : MsgIn) (b : List (Byte × Bool)) (ok : Bool) (v : Sled), arrives s.sled l m →
    0 < m.arg.toNat → m.arg.toNat ≤ 4096 → fabReach s.sled m m.arg.toNat = true →
    readLocal m.addr.toNat m.arg.toNat s.sled = ((b, ok), v) → v.stall = s.sled.stall →
    exec (.fabRead l m) s = .next { s with sled := readAnswers m.arg.toNat m 0 b v }) ∧
  (∀ (s : State) (l : LinkId) (m : MsgIn), arrives s.sled l m →
    (m.arg.toNat = 0 ∨ 4096 < m.arg.toNat ∨ fabReach s.sled m m.arg.toNat = false) →
    exec (.fabRead l m) s = .next { s with sled := respond 9 m 0x500B [] 0 none s.sled }) ∧
  (∀ (s : Sled) (m : MsgIn) (n : Nat) (b : List (Byte × Bool)), 0 < b.length → b.length % 16 = 0 →
    b.length ≤ msgLimit s m.src.toNat →
    readAnswers (n + 2) m 0 b s =
      respond 4 m (b.length * 65536) (b.map (·.1)) (poisMask m.addr.toNat b) none s) ∧
  (∀ (s : State) (l : LinkId) (m : MsgIn) (f : Fmt) (n : Nat) (p : Bool) (v : Sled), arrives s.sled l m →
    f = (if m.arg.toNat % 2 = 1 then fp32 else bf16) → n = m.arg.toNat / 256 % 256 → 0 < n → n ≤ m.data.length →
    n % f.bytes = 0 → m.addr.toNat % f.bytes = 0 → fabReach s.sled m n = true → m.addr.toNat < 2 ^ 39 →
    reduceLocal f m.addr.toNat (msgBytes m n) s.sled = (p, v) → v.stall = s.sled.stall →
    exec (.fabricReduce l m) s = .next { s with
      sled := respond 5 m (b2n p) [] 0 none (progress m.tenant v) }) ∧
  (∀ (s : State) (l : LinkId) (m : MsgIn) (i : Nat), arrives s.sled l m → i < 2 ^ 14 →
    m.addr.toNat = 0x8100000000 + 8 * i →
    (∀ v, ctrSignal (whoFabric l m) i (m.arg.toNat % 2 ^ 32) s.sled = (none, v) →
      exec (.fabSignal l m) s = .next { s with sled := respond 8 m 0 [] 0 none v }) ∧
    (∀ c v, ctrSignal (whoFabric l m) i (m.arg.toNat % 2 ^ 32) s.sled = (some c, v) →
      exec (.fabSignal l m) s = .next { s with sled := respond 9 m c [] 0 none v })) ∧
  (∀ (s : State) (l : LinkId) (m : MsgIn) (i : Nat), arrives s.sled l m → i < 2 ^ 14 →
    m.addr.toNat = 0x8100000000 + 8 * i → m.arg.toNat % 16 = 1 →
    objCheck s.sled (whoFabric l m) false i = none →
    exec (.syncOp l m) s = .next { s with
      sled := respond 8 m 0 (leBytes 16 (ctrSlot (getCtr s.sled i))) 0 none s.sled }) ∧
  (∀ (s : State) (l : LinkId) (m : MsgIn), arrives s.sled l m →
    (m.addr.toNat < 0x8100000000 ∨ 0x8100200000 ≤ m.addr.toNat) →
    exec (.syncOp l m) s = .next { s with sled := respond 9 m 0x500B [] 0 none s.sled }) ∧
  (∀ (s : Sled) (kind arg pois : Nat) (m : MsgIn) (d : List Byte) (r : Route), r = routeTo s m.src.toNat →
    r.pValid = true → linkLive s r.rsp = true → m.src.toNat ∉ s.fab.onAlt → kind ∈ [4, 5, 9] →
    (respond kind m arg d pois none s) = updLnk r.rsp (fun k => { k with tx := k.tx.set 1 (k.tx[1] ++
      [{ kind := kind, h := { hleft := BitVec.ofNat 4 r.distP, dest := m.src, src := BitVec.ofNat 8 (moduleId s)
                              tenant := m.tenant, addr := 0, tag := m.tag, arg := BitVec.ofNat 40 arg, data := d
                              pois := BitVec.ofNat 8 pois } }]) }) s)

/-- A message for another module goes on with one hop less on its primary link, or back to its source; an answer ends
the request with its TAG: a read's bytes reach their register, a value its waiter, a write its descriptor; REFUSE
fails it (spec/12, R241; spec/16, R316, R319, R321, R322). The model's readings: notes/assumptions/20. -/
def Obligations.FabricForwardsAndAnswersCompleteOrFail : Prop :=
  (∀ (s : Sled) (l : LinkId) (kind : Nat) (m : MsgIn) (f : Sled → Sled) (r : Route), linkLive s l = true →
    m.dest.toNat ≠ moduleId s → m.src.toNat ∉ s.fab.gone → r = routeTo s m.dest.toNat → r.pValid = true →
    kind ∈ [1, 2, 3] →
    (r.distP < m.hleft.toNat → linkLive s r.pri = true →
      arrive l kind m f s = pushTx r.pri { kind := kind, h := { m with hleft := m.hleft - 1 } } s) ∧
    (r.distP < m.hleft.toNat → linkLive s r.pri = false →
      arrive l kind m f s = unreachMsg false kind m s) ∧
    (m.hleft.toNat ≤ r.distP → 0 < r.distP →
      arrive l kind m f s = unreachMsg false kind m (logRec { mkRec 0x500A (iL l) with
        object := l + (getLnk s l).peer * 256, tenant := some m.tenant.val } s))) ∧
  (∀ (s : State) (l : LinkId) (m : MsgIn) (o : Outst), arrives s.sled l m → answer m s.sled = some o →
    let v := closeTag m.tag.toNat (ackPrimary o.dest s.sled)
    exec (.refuse l m) s = .next { s with sled := contFail (m.arg.toNat % 65536) o v } ∧
    ((contDone o m v).stall = s.sled.stall →
      exec (.syncResp l m) s = .next { s with sled := contDone o m v } ∧
      exec (.writeAck l m) s = .next { s with sled := contDone o m v } ∧
      (∀ c rd f3, o.cont = .seLoad c rd f3 → o.buf = [] → o.rem ≤ min (m.arg.toNat / 65536 % 65536) m.data.length →
        exec (.readData l m) s = .next { s with sled := contDone o m v }))) ∧
  (∀ (s : Sled) (n : Nat), (n ∈ s.fab.onAlt → ackPrimary n s = s) ∧
    (n ∉ s.fab.onAlt → ackPrimary n s = { s with fab := { s.fab with backoff := ferase s.fab.backoff n } })) ∧
  (∀ (s : State) (l : LinkId) (m : MsgIn) (o : Outst) (id dst len : Nat), arrives s.sled l m →
    answer m s.sled = some o → o.cont = .descRead id dst len → ffind o.buf (m.arg.toNat % 65536) = none →
    m.arg.toNat / 65536 % 65536 < o.rem → m.arg.toNat / 65536 % 65536 ≤ m.data.length →
    let n := m.arg.toNat / 65536 % 65536
    let b := msgBytes { m with addr := o.msg.h.addr + BitVec.ofNat 40 (m.arg.toNat % 65536) } n
    let e := { o with buf := fput o.buf (m.arg.toNat % 65536) b, rem := o.rem - n }
    let u := ackPrimary o.dest s.sled
    exec (.readData l m) s =
      .next { s with sled := { u with fab := { u.fab with out := fput u.fab.out m.tag.toNat e } } }) ∧
  (∀ (s : Sled) (o : Outst) (m : MsgIn) (c rd f3 : Nat), o.cont = .seLoad c rd f3 → m.pois = 0 → rd ≠ 0 →
    ∃ t, contDone o m s = t ∧ fget t.cpu 0 (c * 32 + rd) = BitVec.ofNat 64 (loadVal f3 (leNat m.data)) ∧
      (fget t.vc {} c).seWait = false ∧ t = { s with cpu := t.cpu, vc := t.vc }) ∧
  (∀ (s : Sled) (o : Outst) (m : MsgIn) (w : Who), o.cont = .value w →
    contDone o m s = returnVal w (leNat (m.data.take 8)) s) ∧
  (∀ (s : Sled) (o : Outst) (m : MsgIn) (id : Nat), o.cont = .descWrite id → m.arg.toNat % 2 = 0 →
    contDone o m s = s) ∧
  (∀ (s : Sled) (o : Outst) (code id u : Nat) (d : Desc), o.cont = .descWrite id → findDesc s id = some (u, d) →
    d.opc ≠ 3 → contFail code o s = descFault u d code 0 (forgetDesc id s))

/-- Failure in the fabric: a returned request goes to the alternate route or fails, as possibly delivered where it
must not be sent twice; an unanswered one fails after 10 ms; a module that leaves or is not reached for 100 ms is
gone, once; held messages leave when earlier ones are answered; a route returns to its primary; a reserved kind is
logged and refused (spec/16, R318, R320, R322, R324, R325). The model's readings: notes/assumptions/20. -/
def Obligations.FabricReroutesAndDeclaresModulesGone : Prop :=
  (∀ (s : State) (l : LinkId) (m i : MsgIn) (k : BitVec 4) (o : Outst), arrives s.sled l m → k.toNat ∈ [1, 2, 3, 6, 7] →
    ffind s.sled.fab.out i.tag.toNat = some o → m.arg.toNat % 2 = 1 → idempotent o.msg = false →
    exec (.unreach l m k i) s = .next { s with sled := contFail 0x5009 o (closeTag i.tag.toNat s.sled) }) ∧
  (∀ (s : State) (l : LinkId) (m i : MsgIn) (k : BitVec 4) (o : Outst), arrives s.sled l m → k.toNat ∈ [1, 2, 3, 6, 7] →
    ffind s.sled.fab.out i.tag.toNat = some o → (m.arg.toNat % 2 = 0 ∨ idempotent o.msg = true) →
    (i.dest.toNat ∈ s.sled.fab.onAlt →
      exec (.unreach l m k i) s = .next { s with sled := reroute i.tag.toNat o s.sled }) ∧
    (i.dest.toNat ∉ s.sled.fab.onAlt →
      let b := fget s.sled.fab.backoff 0 i.dest.toNat
      let u := { s.sled with fab := { s.sled.fab with
        backoff := fput s.sled.fab.backoff i.dest.toNat (if b = 0 then 1000 else min 100000 (2 * b)) } }
      exec (.unreach l m k i) s = .next { s with sled := reroute i.tag.toNat o u })) ∧
  (∀ (s : Sled) (tag : Nat) (o : Outst) (r : Route), r = routeTo s o.dest → r.aValid = true →
    (getLnk s r.alt).state = 6 → outTo (closeTag tag s) o.dest = [] →
    fget (closeTag tag s).fab.held [] o.dest = [] → o.dest ∉ s.fab.onAlt →
    ∃ t, reroute tag o s = t ∧ t.fab.onAlt = s.fab.onAlt ++ [o.dest] ∧ ffind t.fab.out tag = some { o with link := r.alt } ∧
      t.lnk = (pushTx r.alt (withHops o.msg r.distA) s).lnk ∧
      t = { s with lnk := t.lnk, fab := { s.fab with out := t.fab.out, held := t.fab.held, onAlt := t.fab.onAlt } }) ∧
  (∀ (s : Sled) (tag : Nat) (o : Outst), (routeTo s o.dest).aValid = false →
    reroute tag o s = contFail 0x5008 o (closeTag tag s)) ∧
  (∀ (s : State) (tag : BitVec 16) (o : Outst), ffind s.sled.fab.out tag.toNat = some o → o.whole = false →
    exec (.fabricRequestTimeout tag) s = .next { s with
      sled := contFail (if idempotent o.msg then 0x5008 else 0x5009) o (closeTag tag.toNat s.sled) }) ∧
  (∀ (s : State) (l : LinkId) (m : MsgIn), arrives s.sled l m →
    exec (.leave l m) s = .next { s with sled := moduleGone (iL l) m.src.toNat s.sled }) ∧
  (∀ (s : State) (n : BitVec 8), n.toNat ≠ moduleId s.sled → (routeTo s.sled n.toNat).pValid = true →
    exec (.moduleGoneTimeout n) s = .next { s with
      sled := moduleGone (iL (routeTo s.sled n.toNat).pri) n.toNat s.sled }) ∧
  (∀ (s : Sled) (i n : Nat), n ∈ s.fab.gone → moduleGone i n s = s) ∧
  (∀ (s : Sled) (i n : Nat), n ∉ s.fab.gone → outTo s n = [] → fget s.fab.held [] n = [] →
    (∀ w ∈ s.waits, w.mod ≠ some n) →
    ∃ t, moduleGone i n s = t ∧ t.fab.gone = s.fab.gone ++ [n] ∧ t.waits = s.waits ∧ t.mem = s.mem ∧ t.lnk = s.lnk ∧
      t.ctr = s.ctr ∧ t.sem = s.sem) ∧
  (∀ (s : State) (n : BitVec 8) (tag : Nat) (o : Outst) (r : Route), r = routeTo s.sled n.toNat →
    fget s.sled.fab.held [] n.toNat = [(tag, o)] → outTo s.sled n.toNat = [] → n.toNat ∉ s.sled.fab.onAlt →
    linkLive s.sled r.pri = true → o.dest = n.toNat →
    let u := { s.sled with fab := { s.sled.fab with held := ferase s.sled.fab.held n.toNat } }
    exec (.routeChangeSend n) s = .next { s with sled := sendVia r.pri r.distP tag o u }) ∧
  (∀ (s : State) (n : BitVec 8), n.toNat ∈ s.sled.fab.onAlt →
    (getLnk s.sled (routeTo s.sled n.toNat).pri).state = 6 →
    ∃ t, exec (.routeReturnTimer n) s = .next t ∧ n.toNat ∉ t.sled.fab.onAlt ∧
      t = { s with sled := { s.sled with fab := { s.sled.fab with onAlt := t.sled.fab.onAlt } } }) ∧
  (∀ (s : State) (l : LinkId) (k : BitVec 4) (v : Fin 4) (m : MsgIn), linkLive s.sled l = true →
    m.src.toNat ∉ s.sled.fab.gone → (k = 0 ∨ 12 ≤ k.toNat) →
    let u := logLimited ms l { mkRec 0x5006 (iL l) with object := l + (getLnk s.sled l).peer * 256 } s.sled
    ((v = 0 ∨ v = 2) → exec (.reservedKindMessage l k v m) s = .next { s with
      sled := respond 9 m 0x500B [] 0 none u }) ∧
    ((v = 1 ∨ v = 3) → exec (.reservedKindMessage l k v m) s = .next { s with sled := u }))

/-! ## The host port (spec/17) -/

/-- Memory requests: a virtual function's BAR 2 reaches its tenant's bytes, poison as EP, and aborts elsewhere; a payload
above 512 bytes and a request to a function in D3hot are unsupported; a sync read blocked by ownership returns 0; BAR 4 of PF 0 is no window outside the expander; a request in the retry
phase is unsupported and one below the full tier aborts (spec/12, R238; spec/17, R328-R336). Atomic operations act on
the sync store and are unsupported elsewhere, CAS always; a function-level reset of a virtual function resets its
tenant, watches and MSI-X, one of the physical function only configuration; configuration requests answer by their
function and are retried before the profile is chosen (spec/17, R327, R328, R331, R335). The model's readings:
notes/assumptions/37. -/
def Obligations.HostRequestsAtomicsAndResets : Prop :=
  (∀ (s : State) (fn : HFn) (k : Tenant) (off : LAddr) (d : List Byte), hostFree s.sled fn → fn.val = k.val + 1 →
    (off.toNat < 0x8100000000 ∨ 0x8100200000 < off.toNat + d.length) → d.length ≤ 512 → calm s.sled →
    (tenantReach s.sled k off.toNat d.length = true → allMapped s.sled off.toNat d.length = true →
      let moved : Sled → Sled := fun u => if off.toNat < 2 ^ 39 then progress k u else u
      exec (.hostMemoryWrite fn .bar2 off d false) s = .next { s with
        sled := moved (writeLocal off.toNat (d.map fun x => (x, false)) s.sled) } ∧
      exec (.hostMemoryWrite fn .bar2 off d true) s = .next { s with
        sled := moved (writeLocal off.toNat (d.map fun x => (x, true)) (poisonIn fn s.sled)) }) ∧
    (tenantReach s.sled k off.toNat d.length = false →
      exec (.hostMemoryWrite fn .bar2 off d false) s = .next { s with
        sled := reachFault fn off.toNat true s.sled })) ∧
  (∀ (s : State) (fn : HFn) (k : Tenant) (off : LAddr) (n : Fin 4097) (b : List (Byte × Bool)) (ok : Bool) (v : Sled),
    hostFree s.sled fn → fn.val = k.val + 1 → (off.toNat < 0x8100000000 ∨ 0x8100200000 < off.toNat + n) →
    (tenantReach s.sled k off.toNat n = true → allMapped s.sled off.toNat n = true →
      readLocal off.toNat n s.sled = ((b, ok), v) → v.stall = s.sled.stall →
      (anyPoison b = false → exec (.hostMemoryRead fn .bar2 off n) s = .next { s with
        sled := emit (.cpl fn 0 false (b.map (·.1))) v }) ∧
      (anyPoison b = true → exec (.hostMemoryRead fn .bar2 off n) s = .next { s with
        sled := emit (.cpl fn 0 true (b.map (·.1))) (bump bHST 0x210 v) })) ∧
    (tenantReach s.sled k off.toNat n = false →
      exec (.hostMemoryRead fn .bar2 off n) s = .next { s with sled := reachFault fn off.toNat false s.sled })) ∧
  (∀ (s : State) (fn : HFn) (off : LAddr) (i : Nat), hostFree s.sled fn → fn.val ≠ 0 → islRuns s.sled iNOC = true →
    i < 2 ^ 14 → off.toNat = 0x8100000000 + 8 * i →
    (objCheck s.sled (hostWho s.sled fn) false i = none →
      exec (.hostMemoryRead fn .bar2 off 8) s = .next { s with
        sled := emit (.cpl fn 0 false (leBytes 8 (ctrSlot (getCtr s.sled i)))) s.sled }) ∧
    (objCheck s.sled (hostWho s.sled fn) false i = some 0x1002 →
      exec (.hostMemoryRead fn .bar2 off 8) s = .next { s with
        sled := emit (.cpl fn 0 false (leBytes 8 0)) (logSync 0x1002 (hostWho s.sled fn) 0 i 0 0 s.sled) })) ∧
  (∀ (s : State) (b : Bar) (off : LAddr) (d : List Byte) (n : Fin 4097), hostFree s.sled 0 → hostMode s.sled ≠ 1 →
    b ≠ .bar0 →
    exec (.hostMemoryWrite 0 b off d false) s = .next { s with sled := aerSet 0 0 s.sled } ∧
    exec (.hostMemoryRead 0 b off n) s = .next { s with sled := emit (.cpl 0 1 false []) (aerSet 0 0 s.sled) }) ∧
  (∀ (s : State) (fn : HFn) (b : Bar) (off : LAddr) (d : List Byte) (e : Bool), portUp s.sled = true →
    ((s.sled.hst.retry = true ∨ bitAt s.sled.hst.d3 fn = true ∨ 512 < d.length) →
      exec (.hostMemoryWrite fn b off d e) s = .next { s with sled := aerSet fn 0 s.sled }) ∧
    (s.sled.hst.retry = false → bitAt s.sled.hst.d3 fn = false → d.length ≤ 512 → s.sled.kpr.tier ≠ 2 →
      exec (.hostMemoryWrite fn b off d e) s = .next { s with sled := aerSet fn 1 s.sled })) ∧
  (∀ (s : State) (fn : HFn), portUp s.sled = true → s.sled.hst.retry = false → bitAt s.sled.hst.d3 0 = false →
    fn = 0 → exec (.hostMemoryRead fn .bar0 0 8) s = .next { s with
      sled := emit (.cpl 0 0 false (leBytes 8 (hostStatus s.sled))) s.sled }) ∧
  (∀ (s : Sled) (fn addr : Nat) (p : Bool), ∃ t, reachFault fn addr p s = t ∧ t.mem = s.mem ∧ t.ctr = s.ctr ∧
    t.sem = s.sem ∧ t.hst.aer = fset s.hst.aer 0 fn (setBit (fget s.hst.aer 0 fn) 1 true)) ∧
  (∀ (s : State) (fn : HFn) (off : LAddr) (x : Word) (i : Nat), hostFree s.sled fn → fn.val ≠ 0 →
    islRuns s.sled iNOC = true → i < 2 ^ 14 → off.toNat = 0x8100000000 + 8 * i →
    (∀ v, ctrSignal (hostWho s.sled fn) i x.toNat s.sled = (none, v) →
      exec (.fetchadd fn .bar2 off true x) s = .next { s with
        sled := emit (.cpl fn 0 false (leBytes 8 (ctrSlot (getCtr s.sled i)))) v }) ∧
    (∀ c v, ctrSignal (hostWho s.sled fn) i x.toNat s.sled = (some c, v) → c ≠ 0x1005 → c ≠ 0x1006 →
      exec (.fetchadd fn .bar2 off true x) s = .next { s with
        sled := emit (.cpl fn 4 false []) (aerSet fn 1 v) })) ∧
  (∀ (s : State) (fn : HFn) (off : LAddr) (x : Word) (i : Nat), hostFree s.sled fn → fn.val ≠ 0 →
    islRuns s.sled iNOC = true → i < 2 ^ 16 → off.toNat = 0x8100000000 + 0x140000 + 8 * i → 1 ≤ x.toNat →
    x.toNat ≤ 0x7FFFFFFF → objCheck s.sled (hostWho s.sled fn) true i = none →
    (((x.toNat : Nat) : Int) ≤ (getSem s.sled i).count →
      exec (.swap fn .bar2 off true x) s = .next { s with
        sled := emit (.cpl fn 0 false (leBytes 8 (iNat 32 (getSem s.sled i).count)))
          (takeSem .semTake i x.toNat s.sled) }) ∧
    ((getSem s.sled i).count < ((x.toNat : Nat) : Int) →
      exec (.swap fn .bar2 off true x) s = .next { s with
        sled := emit (.cpl fn 0 false (leBytes 8 (iNat 32 (getSem s.sled i).count))) s.sled })) ∧
  (∀ (s : State) (fn : HFn) (b : Bar) (off : LAddr) (w : Bool) (x y : Word), hostFree s.sled fn →
    exec (.cas fn b off w x y) s = .next { s with sled := emit (.cpl fn 1 false []) (aerSet fn 0 s.sled) } ∧
    (b = .bar0 →
      exec (.fetchadd fn b off w x) s = .next { s with sled := emit (.cpl fn 1 false []) (aerSet fn 0 s.sled) } ∧
      exec (.swap fn b off w x) s = .next { s with sled := emit (.cpl fn 1 false []) (aerSet fn 0 s.sled) })) ∧
  (∀ (s : State) (k : Tenant), portUp s.sled = true → s.sled.hst.retry = false → vfHere s.sled k = true →
    ∃ t, exec (.flrVf k) s = .next t ∧ t.pending = s.pending ∧
      (∀ w, w < 32 → getWatch t.sled k w = {}) ∧ (∀ v, v < 32 → fget t.sled.hst.msix {} (msixKey (k.val + 1) v) = {}) ∧
      bitAt t.sled.hst.msixOn (k.val + 1) = false ∧
      (∀ j w, j ≠ k.val → w < 32 → getWatch t.sled j w = getWatch (tenantResetBegin k false s.sled) j w) ∧
      t.sled = { tenantResetBegin k false s.sled with hst := t.sled.hst }) ∧
  (∀ (s : State), portUp s.sled = true → s.sled.hst.retry = false →
    ∃ t, exec .flrPf s = .next t ∧ t.pending = s.pending ∧
      t.sled.hst = { s.sled.hst with msixOn := 0, vfEn := 0, d3 := 0, aer := [] } ∧
      (∀ n, n < 16 → rGet t.sled bHST (0x10 + 8 * n) = 0) ∧ rGet t.sled bHST 8 = 0 ∧
      t.sled = { s.sled with hst := t.sled.hst, regs := t.sled.regs }) ∧
  (∀ (s : State) (fn : HFn) (op : CfgOp), portUp s.sled = true →
    (s.sled.hst.retry = true →
      exec (.hostConfigRequest fn op) s = .next { s with sled := emit (.cpl fn 2 false []) s.sled }) ∧
    (s.sled.hst.retry = false → fnHere s.sled fn = false →
      exec (.hostConfigRequest fn op) s = .next { s with
        sled := emit (.cpl fn 1 false []) (aerSet fn 0 s.sled) }) ∧
    (∀ (f : HFn) (d3 : Bool), s.sled.hst.retry = false → fnHere s.sled fn = true → fnHere s.sled f = true →
      let u := { s.sled with hst := { s.sled.hst with d3 := setBit s.sled.hst.d3 f.val d3 } }
      exec (.hostConfigRequest fn (.power f d3)) s = .next { s with sled := emit (.cpl fn 0 false []) u })) ∧
  (∀ (s : State) (n : Fin 17), portUp s.sled = true → s.sled.hst.retry = false → hostMode s.sled ≠ 1 → 0 < n.val →
    ∃ t, exec (.hostConfigRequest 0 (.vfEnable n)) s = .next t ∧ t.sled.hst.vfEn = 2 ^ n.val - 1 ∧
      t.sled.outs = s.sled.outs ++ [.cpl 0 0 false []] ∧
      t = { s with sled := { s.sled with outs := t.sled.outs, hst := { s.sled.hst with vfEn := 2 ^ n.val - 1 } } })

/-- A watch fires its vector when its counter has reached the target, at once where ARM finds it reached, and reports
a counter it may not read; raw doorbells enqueue into queue 3 and report its length; the port's link comes up, goes
down with a host reset and counts recoveries; the expander reads and writes lines of tenant 0 through the committed
decoder and answers its mailbox (spec/17, R337-R341, R343, Tables 17-3 to 17-5; codes: notes/assumptions/17, 37). -/
def Obligations.WatchesDoorbellsLinkAndExpander : Prop :=
  (∀ (s : State) (k : Tenant) (w : Fin 31) (c : BitVec 14) (x : BitVec 48), hostFree s.sled (k.val + 1) →
    islRuns s.sled iNOC = true →
    let a := { getWatch s.sled k w with counter := c.toNat, target := x.toNat, arm := true }
    (objCheck s.sled (hostWho s.sled (k.val + 1)) false c.toNat = none →
      (x.toNat ≤ (getCtr s.sled c.toNat).value →
        exec (.watchArm k w c x true) s = .next { s with
          sled := msixSend (k.val + 1) (w.val + 1)
            (setWatch k w { a with fired := true, arm := false } (setWatch k w a s.sled)) }) ∧
      ((getCtr s.sled c.toNat).value < x.toNat →
        exec (.watchArm k w c x true) s = .next { s with sled := setWatch k w a s.sled })) ∧
    (∀ code, objCheck s.sled (hostWho s.sled (k.val + 1)) false c.toNat = some code →
      exec (.watchArm k w c x true) s = .next { s with
        sled := setWatch k w { a with err := true, arm := false } (setWatch k w a s.sled) })) ∧
  (∀ (s : State) (k : Tenant) (w : Fin 31), islRuns s.sled iHST = true → islRuns s.sled iNOC = true →
    ((getWatch s.sled k w).arm = false → exec (.watchPoll k w) s = .next s) ∧
    ((getWatch s.sled k w).arm = true →
      objCheck s.sled (hostWho s.sled (k.val + 1)) false (getWatch s.sled k w).counter = none →
      (getWatch s.sled k w).target ≤ (getCtr s.sled (getWatch s.sled k w).counter).value →
      exec (.watchPoll k w) s = .next { s with
        sled := msixSend (k.val + 1) (w.val + 1)
          (setWatch k w { getWatch s.sled k w with fired := true, arm := false } s.sled) })) ∧
  (∀ (s : State) (k : Tenant) (st : Fin 8) (v : Word), hostFree s.sled (k.val + 1) → hostMode s.sled = 2 →
    islRuns s.sled (iMC st) = true → crossHeld s.sled (bBCS st) = false →
    ((fget s.sled.bcs {} st).queues[3].length < 16 →
      exec (.rawDoorbell k st v) s = .next { s with
        sled := bcsEnqueue st 3 { progOf v.toNat with tenant := k } s.sled }) ∧
    (∃ t, exec (.rawDoorbellStatusRead k st) s = .next t ∧ t.sled.outs = s.sled.outs ++ [.cpl (k.val + 1) 0 false
        (leBytes 8 ((fget s.sled.bcs {} st).queues[3].length +
          256 * b2n (s.sled.hst.qfull.contains (k.val * 8 + st.val))))] ∧
      k.val * 8 + st.val ∉ t.sled.hst.qfull ∧ t.pending = s.pending ∧
      t.sled = { s.sled with outs := t.sled.outs, hst := { s.sled.hst with qfull := t.sled.hst.qfull } })) ∧
  (∀ (s : State) (v : Fin 6) (w : Fin 5) (f : Bool), islRuns s.sled iHST = true → s.sled.hst.up = false →
    s.sled.plat.perst = false → s.sled.plat.quiesce = .none →
    exec (.hostLinkUp v w f) s = .next { s with sled := { s.sled with hst := { s.sled.hst with
      up := true, speed := v.val + 1, width := 2 ^ w.val, flit := f || decide (v.val = 5) } } }) ∧
  (∀ s : State, portUp s.sled = true →
    exec .hostLinkDown s = .next { s with
      sled := bump bHST 0x218 (logRec (mkRec 0x8003 iHST) (hostReset s.sled)) } ∧
    exec .ltssmRecoveryEntry s = .next { s with sled := bump bHST 0x220 s.sled }) ∧
  (∀ (s : State) (h : Word) (a : Nat), hostFree s.sled 0 → hostMode s.sled = 1 →
    hdmLocal s.sled (h.toNat / 64 * 64) = some a → allMapped s.sled a 64 = true →
    (∀ b ok v, readLocal a 64 s.sled = ((b, ok), v) → v.stall = s.sled.stall → anyPoison b = false →
      exec (.cxlMemRequest h none false) s = .next { s with sled := emit (.cpl 0 0 false (b.map (·.1))) v }) ∧
    (∀ d : List Byte, d.length = 64 → calm s.sled →
      exec (.cxlMemRequest h (some (-1, d)) false) s = .next { s with
        sled := emit (.cpl 0 0 false []) (progress 0 (writeLocal (a + 32) ((d.drop 32).map fun x => (x, false))
          (writeLocal a ((d.take 32).map fun x => (x, false)) s.sled))) })) ∧
  (∀ (s : State) (n : BitVec 16) (x : Word), hostFree s.sled 0 → hostMode s.sled = 1 →
    exec (.cxlMailboxCommand (.other n)) s = .next { s with sled := emit (.cpl 0 1 false []) s.sled } ∧
    exec (.cxlMailboxCommand .partition) s = .next { s with
      sled := emit (.cpl 0 0 false (leBytes 8 (memSize s.sled / 2 ^ 28) ++ leBytes 24 0)) s.sled } ∧
    exec (.cxlMailboxCommand (.setTime x)) s = .next { s with
      sled := emit (.cpl 0 0 false []) { s.sled with hst := { s.sled.hst with
        stamp := some (x.toNat, s.sled.now) } } })

/-! ## Records, sparing and the watch over control cores (spec/18, spec/20) -/

/-- A record leaves the collector for the keeper's ring and its event log, one of severity 2 or above also for the
CTL record queue; a full ring or queue drops it and counts it; a watchdog expiry is logged and restarts the keeper,
whose sessions end and whose log entries stay queued (spec/18, R346, R347, R365; spec/20, R386, R396). The model's
readings: notes/assumptions/31. -/
def Obligations.RecordsReachTheKeepersRing : Prop :=
  (∀ (s : State) (i : Fin 38) (r : Rec) (l : List Rec), s.sled.kpr.phase = .running →
    fget s.sled.kpr.coll [] i = r :: l → s.sled.kpr.ring.length < 1024 → s.sled.kpr.lost = 0 →
    (r.sev < 2 → ∃ t, exec (.keeperRecordMove i) s = .next t ∧ t.pending = s.pending ∧
      fget t.sled.kpr.coll [] i = l ∧ (∀ j, j ≠ i.val → fget t.sled.kpr.coll [] j = fget s.sled.kpr.coll [] j) ∧
      t.sled.kpr.ring = s.sled.kpr.ring ++ [(s.sled.fl.logSeq, r)] ∧
      t.sled.kpr.ops = s.sled.kpr.ops ++ [.logEntry s.sled.fl.logSeq r] ∧
      t.sled.fl.logSeq = s.sled.fl.logSeq + 1 ∧ t.sled.kpr.ctlq = s.sled.kpr.ctlq ∧
      t.sled = { s.sled with kpr := t.sled.kpr, fl := { s.sled.fl with logSeq := t.sled.fl.logSeq } }) ∧
    (2 ≤ r.sev → s.sled.kpr.ctlq.length < 256 → ∃ t, exec (.keeperRecordMove i) s = .next t ∧ t.pending = s.pending ∧
      fget t.sled.kpr.coll [] i = l ∧ t.sled.kpr.ring = s.sled.kpr.ring ++ [(s.sled.fl.logSeq, r)] ∧
      t.sled.kpr.ctlq = s.sled.kpr.ctlq ++ [r]) ∧
    (2 ≤ r.sev → 256 ≤ s.sled.kpr.ctlq.length → ∃ t, exec (.keeperRecordMove i) s = .next t ∧ t.pending = s.pending ∧
      t.sled.kpr.ring = s.sled.kpr.ring ++ [(s.sled.fl.logSeq, r)] ∧ t.sled.kpr.ctlq = s.sled.kpr.ctlq ∧
      t.sled.kpr.lost = 1)) ∧
  (∀ (s : State) (i : Fin 38) (r : Rec) (l : List Rec), s.sled.kpr.phase = .running →
    fget s.sled.kpr.coll [] i = r :: l → 1024 ≤ s.sled.kpr.ring.length →
    ∃ t, exec (.keeperRecordMove i) s = .next t ∧ t.pending = s.pending ∧ fget t.sled.kpr.coll [] i = l ∧
      t.sled.kpr.ring = s.sled.kpr.ring ∧ t.sled.kpr.lost = s.sled.kpr.lost + 1 ∧ t.sled.fl = s.sled.fl) ∧
  (∀ (s : State) (l : List Rec), s.sled.kpr.phase = .running → s.sled.kpr.wdtAt + 1000 * ms ≤ s.sled.now →
    fget s.sled.kpr.coll [] 0 = l → l.length < 16 →
    ∃ t r, exec .keeperWatchdog s = .next t ∧ t.pending = s.pending ∧ t.sled.kpr.phase = .restarting ∧
      t.sled.kpr.session = none ∧ fget t.sled.kpr.coll [] 0 = l ++ [r] ∧ r.code = 0xA001 ∧
      (∀ n x, FlashOp.logEntry n x ∈ s.sled.kpr.ops → FlashOp.logEntry n x ∈ t.sled.kpr.ops) ∧
      t.sled.mem = s.sled.mem ∧ t.sled.fl = s.sled.fl ∧ t.sled.isl = s.sled.isl)

/-- A migration starts on a free spare, copies a row of all sixteen banks, breaks a program row that stands in the
way, cuts its banks over to the spare and signals, is entered in the spare map and its flash record, and ends with a
record (spec/18, R351, R352, R354, R355, R358). The model's readings: notes/assumptions/30. -/
def Obligations.SparingMovesARankToItsSpare : Prop :=
  (∀ (s : State) (st : StackId) (r : RankId) (k : Fin 4), islRuns s.sled (iMC st) = true →
    islRuns s.sled (iMC 8) = true → crossHeld s.sled (bMC st) = false → lockedReg s.sled (bMC st) offSpare = false →
    (fget s.sled.mcs {} st).mig = none → migsRun s.sled < 4 → spareFree s.sled k = true →
    (st.val ≠ 8 ∨ r.val ≠ k.val) →
    ∃ t, exec (.spareGo st r k) s = .next t ∧ t.pending = s.pending ∧
      (fget t.sled.mcs {} st).mig = some { rank := r, spare := k, dead := deadMask s.sled st r } ∧
      t.sled.bank = s.sled.bank ∧
      (deadMask s.sled st r = 0 → (∀ x, x ≠ st.val → fget t.sled.mcs {} x = fget s.sled.mcs {} x) ∧
        t.sled.mem = s.sled.mem ∧ t.sled.chan = s.sled.chan)) ∧
  (∀ (s : State) (st : StackId) (r : RankId) (k : Fin 4), lockedReg s.sled (bMC st) offSpare = false →
    ((fget s.sled.mcs {} st).mig.isSome = true ∨ 4 ≤ migsRun s.sled ∨ spareFree s.sled k = false) →
    exec (.spareGo st r k) s = .next s) ∧
  (∀ (s : State) (st : StackId) (c : ChanId) (m : Mig) (row : Nat), copyRuns s.sled st c = true →
    (fget s.sled.mcs {} st).mig = some m → row = fget m.wm 0 c → m.dead = 0 → m.rank < 4 → m.spare < 4 →
    (st.val ≠ 8 ∨ m.rank ≠ m.spare) → fget m.part 0 c = 0 → s.sled.ecc = [] → (fget s.sled.mcs {} st).held = [] →
    (∀ b, b < 16 → inWindow (getBank s.sled (rankBank st c m.rank b)) = false) → row < 65535 →
    ∃ t, exec (.migrationCopyRow st c) s = .next t ∧ t.pending = s.pending ∧
      (∀ b x, b < 16 → x < 1024 → memGet t.sled.mem (rankBank 8 c m.spare b * 2 ^ 26 + row * 1024 + x) =
        memGet s.sled.mem (rankBank st c m.rank b * 2 ^ 26 + row * 1024 + x)) ∧
      (∀ a, (∀ b, b < 16 → a < rankBank 8 c m.spare b * 2 ^ 26 + row * 1024 ∨
          rankBank 8 c m.spare b * 2 ^ 26 + row * 1024 + 1024 ≤ a) → memGet t.sled.mem a = memGet s.sled.mem a) ∧
      (fget t.sled.mcs {} st).mig = some { m with
        wm := fset m.wm 0 c (row + 1)
        part := fset m.part 0 c 0
        waits := (List.range 16).foldl (fun w b => fset w 0 (c * 16 + b) 0) m.waits
        next := fset m.next 0 c (chTime s.sled st c + 2048 * slotLen (binOf s.sled st)) } ∧
      t.sled.bank = s.sled.bank) ∧
  (∀ (s : State) (st : StackId) (c : ChanId) (b : Fin 16) (m : Mig), copyRuns s.sled st c = true →
    (fget s.sled.mcs {} st).mig = some m → copyWaits s.sled st c b = true → bitAt (fget m.part 0 c) b = false →
    (waitOver s.sled st c b = true → exec (.migrationRowBreak st c b) s = .next { s with
      sled := mustReopen (rankBank st c m.rank b) (bumpMc st c 10 (copyBanks st c (fun x => x = b) s.sled)) }) ∧
    (waitOver s.sled st c b = false → exec (.migrationRowBreak st c b) s = .next s)) ∧
  (∀ (s : State) (st : StackId) (m : Mig), (fget s.sled.mcs {} st).mig = some m → m.state = 2 → m.abort = false →
    islRuns s.sled (iMC st) = true → islRuns s.sled (iMC 8) = true → (fget s.sled.mcs {} st).held = [] →
    m.rank < 4 → m.spare < 4 → (st.val ≠ 8 ∨ m.rank ≠ m.spare) → m.dead = 0 →
    ∃ t, exec (.migrationCutover st) s = .next t ∧ t.pending = s.pending ∧
      (fget t.sled.mcs {} st).mig = some { m with state := 3 } ∧
      (∀ c b, c < 16 → b < 16 →
        getBank t.sled (rankBank 8 c m.spare b) = getBank s.sled (rankBank st c m.rank b) ∧
        getBank t.sled (rankBank st c m.rank b) = {}) ∧
      (getCtr t.sled (16328 + m.spare)).value = min ctrTop ((getCtr s.sled (16328 + m.spare)).value + 1) ∧
      t.sled.mem = s.sled.mem ∧ t.sled.ecc = s.sled.ecc) ∧
  (∀ (s : State) (st : StackId) (m : Mig), (fget s.sled.mcs {} st).mig = some m → m.state = 3 → m.abort = false →
    m.committed = false → s.sled.kpr.phase = .running → st.val ≠ 8 → m.rank < 4 → m.spare < 4 →
    ∃ t, exec (.spareMapCommit st) s = .next t ∧ t.pending = s.pending ∧
      spareEnt t.sled m.spare = some { stack := st, rank := m.rank } ∧
      (∀ k, k ≠ m.spare → spareEnt t.sled k = spareEnt s.sled k) ∧
      t.sled.fl = { s.sled.fl with spares := s.sled.fl.spares.write (spareMap t.sled) } ∧
      (m.ending = false → (fget t.sled.mcs {} st).mig = some { m with committed := true }) ∧
      (m.ending = true → (fget t.sled.mcs {} st).mig = none) ∧ t.sled.mem = s.sled.mem) ∧
  (∀ (s : State) (st : StackId) (m : Mig), (fget s.sled.mcs {} st).mig = some m → m.state = 3 → m.abort = false →
    m.ending = false → islRuns s.sled (iMC st) = true → crossHeld s.sled (bMC st) = false →
    lockedReg s.sled (bMC st) offSpare = false →
    (m.committed = true →
      let u := rSetField (bMC st) offSpare 4 1 0 (updMcs st (fun x => { x with mig := none }) s.sled)
      exec (.spareEnd st) s = .next { s with sled := logRec (mkRec 0x300A (iMC st)) u }) ∧
    (m.committed = false →
      let u := updMcs st (fun x => { x with mig := some { m with ending := true } }) s.sled
      exec (.spareEnd st) s = .next { s with sled := logRec (mkRec 0x300A (iMC st)) u }))

/-- The rescue mover takes a descriptor, or reports a length above 16 MiB, and completes with its counter or with the
address it could not reach; the keeper's heartbeat check follows a counter that moves and resets the core of one that
has not moved for 200 ms (spec/18, R361, R364; spec/22, R436). The model's readings: notes/assumptions/30. -/
def Obligations.RescueMoverAndHeartbeats : Prop :=
  (∀ (s : State) (n : Fin 4) (a b : LAddr) (len : BitVec 25) (fill sig : Bool), s.sled.kpr.phase = .running →
    islRuns s.sled iNOC = true → lockedReg s.sled bKPR (offRdma n) = false →
    lockedReg s.sled bKPR (offRdma n + 8) = false → lockedReg s.sled bKPR (offRdma n + 16) = false →
    (∀ d ∈ s.sled.kpr.rdma, d.n ≠ n) → 0 < len.toNat →
    (len.toNat ≤ 2 ^ 24 → ∃ t, exec (.rescueDmaGo n a b len fill sig) s = .next t ∧
      t.sled.kpr.rdma = s.sled.kpr.rdma ++ [{ n := n, src := a.toNat, dst := b.toNat, len := len.toNat, fill, sig }] ∧
      t = { s with sled := { s.sled with
        regs := t.sled.regs, kpr := { s.sled.kpr with rdma := t.sled.kpr.rdma } } }) ∧
    (2 ^ 24 < len.toNat → ∃ t, exec (.rescueDmaGo n a b len fill sig) s = .next t ∧
      rField t.sled bKPR (offRdma n + 16) 37 1 = 1 ∧ t = { s with sled := { s.sled with regs := t.sled.regs } })) ∧
  (∀ (s : State) (n : Fin 4) (d : Rdma) (u w : Sled), s.sled.kpr.rdma.find? (·.n = n.val) = some d →
    islRuns s.sled iNOC = true →
    u = { s.sled with kpr := { s.sled.kpr with rdma := s.sled.kpr.rdma.filter (·.n ≠ n.val) } } →
    w.stall = s.sled.stall →
    (rdmaMove d 4097 0 u = (none, w) →
      let v := bump bKPR 0x110 (rSetField bKPR (offRdma n + 16) 36 1 1 w)
      (d.sig = false → exec (.rescueDmaDone n) s = .next { s with sled := v }) ∧
      (d.sig = true → exec (.rescueDmaDone n) s = .next { s with sled := ctrAdd (whoRdma n) (16320 + n) 1 v })) ∧
    (∀ x, rdmaMove d 4097 0 u = (some x, w) →
      let v := rSetField bKPR (offRdma n + 16) 37 1 1 w
      exec (.rescueDmaDone n) s = .next { s with
        sled := logRec (recAddr false x (moduleId v) (recWho v 0xA005 (whoRdma n))) v })) ∧
  (∀ (s : State) (i : Fin 4) (h : Hb) (v : Nat), s.sled.kpr.phase = .running → islRuns s.sled iNOC = true →
    islRuns s.sled iCTL = true → s.sled.ccRunning = 1 <<< i.val → h = fget s.sled.kpr.hb {} i →
    v = (getCtr s.sled (16324 + i)).value →
    (v ≠ h.last → exec .heartbeatCheck s = .next { s with sled := { s.sled with kpr := { s.sled.kpr with
      hb := fput s.sled.kpr.hb i { h with last := v, since := s.sled.now } } } }) ∧
    (v = h.last → s.sled.now < h.since + 200 * ms → exec .heartbeatCheck s = .next s)) ∧
  (∀ (s : State) (h : Hb), s.sled.kpr.phase = .running → islRuns s.sled iNOC = true → islRuns s.sled iCTL = true →
    s.sled.ccRunning = 1 → h = fget s.sled.kpr.hb {} 0 → (getCtr s.sled 16324).value = h.last →
    h.since + 200 * ms ≤ s.sled.now → h.hangs = [] → (getSem s.sled 65281).count ≠ 1 →
    let u := bump bKPR 0x108 (logRec (recWho s.sled 0xB005 (whoAgent s.sled (.cc 0))) s.sled)
    let v := { u with kpr := { u.kpr with hb := fput u.kpr.hb 0 { h with since := s.sled.now, hangs := [s.sled.now] } } }
    exec .heartbeatCheck s = .next { s with sled := setCause 6 3 8 (coreResetBegin 8 false v) })

/-! ## Heat and power (spec/19) -/

/-- Sensors: a reading within its slot's range is taken, a broken or out-of-range one reads 127 and is logged once;
the four dies of a rank give their maximum and set its refresh rate; a critical reading or comparator shuts the main
rails down once; a round's end steps every level by its slots and sets the coolant (spec/06, R119; spec/19,
R368-R376, R382, R383). The model's readings: notes/assumptions/33. -/
def Obligations.SensorsSetLevelsCoolantAndShutdown : Prop :=
  (∀ (s : State) (i : Fin 100) (v : Int), aonRuns s.sled = true → s.sled.thm.slot = i.val → i.val < 36 →
    (sensor s.sled i).broken = false →
    (-20 ≤ v → v < 112 → ∃ t, exec (.sensorSlotRead i (.conv v)) s = .next t ∧ t.pending = s.pending ∧
      sensor t.sled i = { reading := v.toNat } ∧ (∀ j, j ≠ i.val → sensor t.sled j = sensor s.sled j) ∧
      t.sled = { s.sled with thm := { s.sled.thm with slot := i.val + 1, sensor := t.sled.thm.sensor } }) ∧
    ((v < -20 ∨ 150 < v) → ∃ t, exec (.sensorSlotRead i (.conv v)) s = .next t ∧ t.pending = s.pending ∧
      (sensor t.sled i).reading = 127 ∧ (sensor t.sled i).broken = true ∧
      (∀ j, j ≠ i.val → sensor t.sled j = sensor s.sled j) ∧ t.sled.thm.slot = i.val + 1 ∧ t.sled.mem = s.sled.mem) ∧
    (112 ≤ v → v ≤ 150 → s.sled.thm.crit = false → s.sled.thm.critHold = false →
      ∃ t, exec (.sensorSlotRead i (.conv v)) s = .next t ∧ t.sled.thm.crit = true ∧ t.sled.plat.ready = false)) ∧
  (∀ (s : State) (i : Fin 100) (a b c d : BitVec 7) (m : Nat), aonRuns s.sled = true → s.sled.thm.slot = i.val →
    36 ≤ i.val → i.val < 72 → islRuns s.sled (iMC ((i.val - 36) / 4)) = true →
    diesHidden s.sled ((i.val - 36) / 4) = false → (sensor s.sled i).broken = false → a ≠ 127 → b ≠ 127 → c ≠ 127 →
    d ≠ 127 → m = max (max a.toNat b.toNat) (max c.toNat d.toNat) → m < 105 → kt3 s.sled = false →
    ∃ t, exec (.sensorSlotRead i (.dies a b c d)) s = .next t ∧ t.pending = s.pending ∧
      sensor t.sled i = { reading := m } ∧
      (85 < m → bitAt (fget t.sled.mcs {} ((i.val - 36) / 4)).fast ((i.val - 36) % 4) = true) ∧
      (m ≤ 82 → bitAt (fget t.sled.mcs {} ((i.val - 36) / 4)).fast ((i.val - 36) % 4) = false) ∧
      (82 < m → m ≤ 85 → t.sled.mcs = s.sled.mcs) ∧ t.sled.mem = s.sled.mem) ∧
  (∀ (s : State) (i : Fin 36), aonRuns s.sled = true → s.sled.thm.crit = false → s.sled.thm.critHold = false →
    ∃ t, exec (.criticalComparator i) s = .next t ∧ t.pending = s.pending ∧ t.sled.thm.crit = true ∧
      t.sled.kpr.railEnable = false ∧ t.sled.plat.ready = false ∧ t.sled.plat.coolant = some 100 ∧
      t.sled.kpr.tier = 1 ∧ (s.sled.plat.rails = .up → t.sled.mem = [] ∧ t.sled.plat.rails = .falling)) ∧
  (∀ (s : State) (i : Fin 36), (s.sled.thm.crit = true ∨ s.sled.thm.critHold = true) →
    exec (.criticalComparator i) s = .next s) ∧
  (∀ s : State, aonRuns s.sled = true → s.sled.thm.slot = 100 → s.sled.kpr.phase = .running →
    ∃ t, exec .housekeepingRoundEnd s = .next t ∧ t.pending = s.pending ∧ t.sled.thm.slot = 0 ∧
      t.sled.thm.round = s.sled.thm.round + 1 ∧ t.sled.thm.sensor = s.sled.thm.sensor ∧
      (∀ j, j < 10 → fget t.sled.thm.eng 0 j = stepLevel s.sled (engSlots j) (fget s.sled.thm.eng 0 j)) ∧
      (∀ st, st < 9 → fget t.sled.thm.pause 0 st = stepLevel s.sled (pauseSlots st) (fget s.sled.thm.pause 0 st)) ∧
      t.sled.plat.coolant = some (coolantDuty s.sled) ∧ t.sled.mem = s.sled.mem ∧ t.sled.thm.step = s.sled.thm.step) ∧
  (∀ (s : Sled) (l : List Nat) (n : Nat), n ≤ 8 →
    ((∃ i ∈ l, hotSlot s i = true) → stepLevel s l n = min 8 (n + 1)) ∧
    ((∀ i ∈ l, hotSlot s i = false ∧ coolSlot s i = true) → stepLevel s l n = n - 1)) ∧
  (∀ (s : State) (a : Agent) (v : BitVec 24), canAct s.sled a = true → blkReach a bTHM = true →
    islRuns s.sled 0 = true → lockedReg s.sled bTHM 0x400 = false →
    ∃ t, exec (.thmLimitWrite a v) s = .next t ∧
      rField t.sled bTHM 0x400 0 8 = max 80 (min 100 (v.toNat % 256)) ∧
      rField t.sled bTHM 0x400 8 8 = max 76 (min 96 (v.toNat / 256 % 256)) ∧
      rField t.sled bTHM 0x400 16 8 = max 90 (min 110 (v.toNat / 65536)) ∧
      t = { s with sled := { s.sled with regs := t.sled.regs } })

/-- R373 (spec/19): a level rises when a reading of its unit is at or above its throttle threshold, falls when every
reading is at or below its release value, and otherwise holds; the thresholds are those of Table 19-2. -/
def Obligations.LevelsRiseFallOrHoldByTheirThresholds : Prop :=
  (∀ s : State, aonRuns s.sled = true → s.sled.thm.slot = 100 → s.sled.kpr.phase = .running →
    (∀ i, (sensor s.sled i).broken = false) →
    ∃ t, exec .housekeepingRoundEnd s = .next t ∧ t.pending = s.pending ∧
      (∀ j l, j < 10 → fget s.sled.thm.eng 0 j = l → l < 8 →
        ((∃ i ∈ engSlots j, ∃ x, throttleAt s.sled i = some x ∧ x ≤ (sensor s.sled i).reading) →
          fget t.sled.thm.eng 0 j = l + 1) ∧
        ((∀ i ∈ engSlots j, (sensor s.sled i).reading ≤ releaseAt s.sled i) →
          (∀ i ∈ engSlots j, ∀ x, throttleAt s.sled i = some x → (sensor s.sled i).reading < x) →
          fget t.sled.thm.eng 0 j = l - 1) ∧
        ((∀ i ∈ engSlots j, ∀ x, throttleAt s.sled i = some x → (sensor s.sled i).reading < x) →
          (∃ i ∈ engSlots j, releaseAt s.sled i < (sensor s.sled i).reading) → fget t.sled.thm.eng 0 j = l)) ∧
      (∀ st l, st < 9 → fget s.sled.thm.pause 0 st = l → l < 8 →
        ((∃ i ∈ pauseSlots st, ∃ x, throttleAt s.sled i = some x ∧ x ≤ (sensor s.sled i).reading) →
          fget t.sled.thm.pause 0 st = l + 1) ∧
        ((∀ i ∈ pauseSlots st, (sensor s.sled i).reading ≤ releaseAt s.sled i) →
          (∀ i ∈ pauseSlots st, ∀ x, throttleAt s.sled i = some x → (sensor s.sled i).reading < x) →
          fget t.sled.thm.pause 0 st = l - 1) ∧
        ((∀ i ∈ pauseSlots st, ∀ x, throttleAt s.sled i = some x → (sensor s.sled i).reading < x) →
          (∃ i ∈ pauseSlots st, releaseAt s.sled i < (sensor s.sled i).reading) → fget t.sled.thm.pause 0 st = l))) ∧
  (∀ (s : Sled) (i : Nat), rGet s bTHM 0x400 = 0x6E6064 →
    (i < 36 → throttleAt s i = some 100 ∧ releaseAt s i = 96 ∧ critAt i = some 112) ∧
    (36 ≤ i → i < 72 → throttleAt s i = some 96 ∧ releaseAt s i = 91 ∧ critAt i = some 105) ∧
    (i = 72 → throttleAt s i = some 46 ∧ releaseAt s i = 44 ∧ critAt i = some 55) ∧
    (87 ≤ i → i ≤ 90 → throttleAt s i = some 110 ∧ releaseAt s i = 105 ∧ critAt i = some 125) ∧
    (i = 73 ∨ (74 ≤ i ∧ i < 87) ∨ 91 ≤ i → throttleAt s i = none ∧ critAt i = none))

/-- Power: ten samples above 1,800 W on average set the power step to 16; a loop tick averages the samples, moves the
step and PWR_DEMAND; a range change switches with the held power, then resumes with the newest; a pause period holds
its channel for its level (spec/02, R43; spec/19, R376, R378, R380, R381). The model's readings:
notes/assumptions/33. -/
def Obligations.PowerLoopSetsStepDemandAndPauses : Prop :=
  (∀ (s : State) (w : BitVec 12), aonRuns s.sled = true →
    (s.sled.thm.samples.length < 9 → ∃ t, exec (.powerSample w) s = .next t ∧
      t = { s with sled := { s.sled with thm := { s.sled.thm with samples := w.toNat :: s.sled.thm.samples } } }) ∧
    (9 ≤ s.sled.thm.samples.length → 18000 < (w.toNat :: s.sled.thm.samples.take 9).foldl (· + ·) 0 →
      ∃ t, exec (.powerSample w) s = .next t ∧ t.pending = s.pending ∧ t.sled.thm.step = 16 ∧
        t.sled.thm.samples = (w.toNat :: s.sled.thm.samples).take 100 ∧ t.sled.mem = s.sled.mem ∧
        t.sled.plat = s.sled.plat ∧ t.sled.isl = s.sled.isl)) ∧
  (∀ (s : State) (p : Nat), aonRuns s.sled = true → s.sled.kpr.phase = .running → s.sled.thm.samples ≠ [] →
    p = mean s.sled.thm.samples →
    ∃ t, exec .powerLoopTick s = .next t ∧ t.pending = s.pending ∧ t.sled.thm.pavg = p ∧
      t.sled.thm.step = (nextStep16 s.sled p).1 ∧ t.sled.thm.rises = (nextStep16 s.sled p).2 ∧
      t.sled.thm.samples = s.sled.thm.samples ∧ t.sled.mem = s.sled.mem ∧
      (s.sled.plat.rangeSeq = none → s.sled.plat.demand.isSome = true → t.sled.plat.demand = some p) ∧
      (s.sled.plat.rangeSeq.isSome = true → t.sled.plat.demand = s.sled.plat.demand)) ∧
  (∀ (s : Sled) (p : Nat), s.prof.isSome = true →
    (capOf s < p → s.thm.rises < 10 → nextStep16 s p = (min 16 (s.thm.step + 1), s.thm.rises + 1)) ∧
    (p ≤ capOf s → 95 * capOf s ≤ 100 * p → loopSlots.any (hotSlot s) = false → s.thm.cool = 0 →
      nextStep16 s p = (s.thm.step, 0))) ∧
  (∀ (s : State) (q : RangeSeq), s.sled.plat.rangeSeq = some q → s.sled.kpr.phase = .running →
    (q.switched = false → exec .pwrRangeStep s = .next { s with sled := { s.sled with plat := { s.sled.plat with
      rangeHigh := some q.target, demand := some q.held, rangeSeq := some { q with switched := true } } } }) ∧
    (q.switched = true → ∃ t, exec .pwrRangeResume s = .next t ∧ t.pending = s.pending ∧
      t.sled.plat.demand = some q.newest ∧ t.sled.plat.rangeHigh = s.sled.plat.rangeHigh ∧
      t.sled = { s.sled with plat := { s.sled.plat with
        demand := some q.newest, rangeSeq := t.sled.plat.rangeSeq } })) ∧
  (∀ (s : State) (st : StackId) (c : ChanId), islRuns s.sled (iMC st) = true →
    exec (.pausePeriodStart st c) s = .next { s with
      sled := updChan st c (fun ch => { ch with
        thermal := s.sled.now + effPause s.sled st * 100 * ns }) s.sled })

/-! ## The keeper (spec/20) -/

/-- Keeper commands that read: identity, status (which services the alert), log, spare map, a register; an unknown
code and, in the recovery state, every command but GET_IDENTITY are answered with their codes (spec/20, R386,
R391-R393, R397; layouts: notes/assumptions/17). Keeper commands that act: each changes what Table 20-3 says or
answers the code of Table 20-3's failure: fault, locate, cap, override, resets, semaphores, the rescue mover, the
spare map, rollback and restart (spec/18, R347, R362; spec/19, R377; spec/20, R386, R391, R392, R399, R401). The
model's readings: notes/assumptions/34. -/
def Obligations.KeeperCommandsAnswerActOrRefuse : Prop :=
  (∀ (s : State) (x : Transport), asked s.sled x →
    exec (.getIdentity x) s = .next { s with
      sled := emit (.resp x 0x7E 0x01 0 (leBytes 4 0x4B540004 ++ leBytes 1 (moduleId s.sled) ++ leBytes 16 Config.serial ++
        words4 ((List.range 4).map (nth (dirOf s.sled).versions)) ++
        words4 ((List.range 3).map (floorOf s.sled)))) s.sled } ∧
    (∃ (t : State) (b : List Byte), exec (.getStatus x) s = .next t ∧ t.sled.outs = s.sled.outs ++ [.resp x 0x7E 0x02 0 b] ∧
      b.take 8 = leBytes 8 (bootStatus s.sled) ∧ t.sled.kpr = { s.sled.kpr with alert := false } ∧
      t = { s with sled := { s.sled with outs := t.sled.outs, kpr := t.sled.kpr } }) ∧
    exec (.spareMapRead x) s = .next { s with
      sled := emit (.resp x 0x7E 0x0B 0 ((List.range 4).flatMap fun k => leBytes 8 (rGet s.sled bKPR (8 + 8 * k))))
        s.sled } ∧
    (∀ q : Word, ∃ (t : State) (l : List LogEnt), exec (.readLog x q) s = .next t ∧ l.length ≤ 15 ∧ (∀ e ∈ l, q.toNat ≤ e.seq ∧ e ∈ logView s.sled) ∧
      t = { s with sled := emit (.resp x 0x7E 0x03 0 (l.flatMap logBytes)) s.sled }) ∧
    (∀ c : BitVec 8, (c = 0 ∨ 15 ≤ c.toNat) →
      exec (.unknownCommand x c) s = .next { s with sled := emit (.resp x 0x7E c.toNat 6 []) s.sled }) ∧
    (∀ a : LAddr, (regSplit a.toNat = none ∨ a.toNat % 8 ≠ 0) →
      exec (.readReg x a) s = .next { s with sled := emit (.resp x 0x7E 0x0C 2 []) s.sled }) ∧
    (∀ (a : LAddr) (blk off : Nat), regSplit a.toNat = some (blk, off) → a.toNat % 8 = 0 → off % 8 = 0 →
      regMapped s.sled .keeper a.toNat 8 = true → crossHeld s.sled blk = false →
      exec (.readReg x a) s = .next { s with
        sled := emit (.resp x 0x7E 0x0C 0 (leBytes 8 (bitsOf (regRead s.sled blk off) 0 64))) s.sled })) ∧
  (∀ (s : State) (x : Transport), s.sled.kpr.phase = .recovery → answers s.sled x = true →
    exec (.clearFault x) s = .next { s with sled := emit (.resp x 0x7E 0x04 5 []) s.sled }) ∧
  (∀ (s : State) (x : Transport), answers s.sled x = false →
    exec (.getIdentity x) s = .next s ∧ exec (.clearFault x) s = .next s) ∧
  (∀ (s : State) (x : Transport), asked s.sled x →
    exec (.clearFault x) s = .next { s with
      sled := emit (.resp x 0x7E 0x04 0 []) { s.sled with kpr := { s.sled.kpr with outstanding := 0 } } } ∧
    (∀ b, exec (.locate x b) s = .next { s with
      sled := emit (.resp x 0x7E 0x05 0 []) { s.sled with plat := { s.sled.plat with locate := b } } }) ∧
    (∀ w : BitVec 16, (w.toNat < 400 →
        exec (.setCap x w) s = .next { s with sled := emit (.resp x 0x7E 0x06 2 []) s.sled }) ∧
      (400 ≤ w.toNat → exec (.setCap x w) s = .next { s with
        sled := emit (.resp x 0x7E 0x06 0 [])
          (rangeCheck { s.sled with kpr := { s.sled.kpr with runCap := some w.toNat } }) })) ∧
    (∀ p : BitVec 8, (4 ≤ p.toNat → p ≠ 0xFF →
        exec (.setOverride x p) s = .next { s with sled := emit (.resp x 0x7E 0x07 2 []) s.sled }) ∧
      (p.toNat < 4 → s.sled.plat.updLock = true →
        exec (.setOverride x p) s = .next { s with sled := emit (.resp x 0x7E 0x07 3 []) s.sled }) ∧
      (p.toNat < 4 → s.sled.plat.updLock = false → ∃ t, exec (.setOverride x p) s = .next t ∧
        t.sled.outs = s.sled.outs ++ [.resp x 0x7E 0x07 0 []] ∧ t.sled.fl.override.cur = some (some p.toNat) ∧
        t = { s with sled := { s.sled with
          outs := t.sled.outs, fl := { s.sled.fl with override := t.sled.fl.override } } })) ∧
    (s.sled.kpr.tier = 2 → exec (.keeperResetWarm x) s = .next { s with
      sled := emit (.resp x 0x7E 0x08 0 []) (warmReset 2 s.sled) }) ∧
    (s.sled.kpr.tier ≠ 2 → exec (.keeperResetWarm x) s = .next { s with
      sled := emit (.resp x 0x7E 0x08 5 []) s.sled }) ∧
    (∀ n : BitVec 8, s.sled.kpr.tier = 2 → n.toNat < 16 → exec (.keeperResetTenant x n) s = .next { s with
      sled := emit (.resp x 0x7E 0x08 0 []) (tenantResetBegin n.toNat false s.sled) }) ∧
    (∀ n : BitVec 8, s.sled.kpr.tier = 2 → n.toNat < 12 →
      ((s.sled.plat.coreReset.any (·.1 = n.toNat)) = true →
        exec (.keeperResetCore x n) s = .next { s with sled := emit (.resp x 0x7E 0x08 4 []) s.sled }) ∧
      ((s.sled.plat.coreReset.any (·.1 = n.toNat)) = false →
        (coreResetBegin n.toNat false s.sled).plat.coreReset ≠ s.sled.plat.coreReset →
        exec (.keeperResetCore x n) s = .next { s with
          sled := emit (.resp x 0x7E 0x08 0 []) (setCause 6 2 n.toNat (coreResetBegin n.toNat false s.sled)) })) ∧
    (∀ (i : BitVec 16) (v : BitVec 32), s.sled.plat.rails = .up → islRuns s.sled iNOC = true →
      exec (.forceSem x i v) s = .next { s with
        sled := emit (.resp x 0x7E 0x09 0 []) (forceSemOp i.toNat (sNat 32 v.toNat) s.sled) }) ∧
    (∀ (n : Fin 4) (m : BitVec 8) (a b : LAddr) (len : BitVec 25) (f g : Bool), m.toNat = n.val → s.sled.plat.rails = .up →
      islRuns s.sled iNOC = true → (∀ d ∈ s.sled.kpr.rdma, d.n ≠ n.val) → len.toNat ≤ 2 ^ 24 →
      ∃ t, exec (.rescueDmaGo n a b len f g) s = .next t ∧
        exec (.rescueDma x m a b len f g) s = .next { t with sled := emit (.resp x 0x7E 0x0A 0 []) t.sled }) ∧
    (∀ (m : BitVec 8) (a b : LAddr) (len : BitVec 25) (f g : Bool), s.sled.plat.rails = .up → 4 ≤ m.toNat →
      exec (.rescueDma x m a b len f g) s = .next { s with sled := emit (.resp x 0x7E 0x0A 2 []) s.sled }) ∧
    (∀ k : BitVec 8, k.toNat < 4 → s.sled.plat.updLock = false → ∃ t, exec (.spareMapClear x k) s = .next t ∧
      t.sled.outs = s.sled.outs ++ [.resp x 0x7E 0x0B 0 []] ∧
      t.sled.fl.spares.cur = some (ferase (s.sled.fl.spares.cur.getD []) k.toNat) ∧ t.sled.regs = s.sled.regs) ∧
    (∀ n : Fin 4, s.sled.plat.updLock = false →
      (ffind (trials s.sled) (0x10 + n.val) = none → (dirOf s.sled).seq + 1 < 2 ^ 32 →
        ∃ t, exec (.rollback x (.profile n)) s = .next t ∧ t.sled.outs = s.sled.outs ++ [.resp x 0x7E 0x0D 0 []] ∧
          dirGet t.sled (0x10 + n.val) = 1 - dirGet s.sled (0x10 + n.val) ∧ t.sled.fl.floors = s.sled.fl.floors) ∧
      ((ffind (trials s.sled) (0x10 + n.val)).isSome = true →
        exec (.rollback x (.profile n)) s = .next { s with sled := emit (.resp x 0x7E 0x0D 1 []) s.sled })) ∧
    exec (.keeperRestart x) s = .next { s with sled := keeperRestartBegin (emit (.resp x 0x7E 0x0E 0 []) s.sled) })

/-- The keeper's own events: flash operations end in their order, the alert response, the commit of its image, the
end of a restart; MCTP control messages set and report the endpoint (spec/20, R386, R388, R389, R393, R399; layouts:
notes/assumptions/17). SPDM: version, capabilities and algorithms in their order, then digests, certificate,
challenge and measurements; a request out of order or beyond them is answered with an error and logged (spec/20,
R395, Table 20-5; bodies and the signature: notes/assumptions/16, 17). The model's readings: notes/assumptions/34,
35. -/
def Obligations.KeeperEventsControlMessagesAndSpdm : Prop :=
  (∀ (s : State) (n : Nat) (r : Rec) (l : List FlashOp), s.sled.kpr.phase = .running → s.sled.plat.quiesce = .none →
    nextOp s.sled.kpr.ops = some (.logEntry n r, l) →
    exec .flashOperationDone s = .next { s with
      sled := logWrite n r { s.sled with kpr := { s.sled.kpr with ops := l } } }) ∧
  (∀ (l : List FlashOp) (n : Nat) (r : Rec), FlashOp.logEntry n r ∈ l → ∃ m q k, nextOp l = some (.logEntry m q, k)) ∧
  (∀ (s : Sled) (n : Nat) (r : Rec), n % 1023 ≠ 1 →
    ∃ t, logWrite n r s = t ∧ t.kpr.ring = s.kpr.ring.filter (fun x => x.1 ≠ n) ∧
      t.fl.log = s.fl.log ++ [{ seq := n, boot := s.fl.boot, mod := moduleId s, hold := false, record := r }] ∧
      t = { s with kpr := t.kpr, fl := t.fl }) ∧
  (∀ s : State, s.sled.kpr.alert = true → s.sled.kpr.phase = .running → aonRuns s.sled = true →
    exec .smbusAlertResponse s = .next { s with
      sled := emit (.event 8 0x4A) { s.sled with kpr := { s.sled.kpr with alert := false } } }) ∧
  (∀ (s : State) (i : FwImage), s.sled.kpr.phase = .running → ffind s.sled.fl.keeper (keeperAt s.sled.kpr.slot) = some i →
    ffind (trials s.sled) 1 = some s.sled.kpr.slot → s.sled.kpr.startedAt + 10000 * ms ≤ s.sled.now →
    ∃ t, exec .keeperTrialCommit s = .next t ∧ t.pending = s.pending ∧ ffind (trials t.sled) 1 = none ∧
      floorOf t.sled 0 = max (floorOf s.sled 0) i.secVersion ∧ floorOf t.sled 1 = floorOf s.sled 1 ∧
      t.sled.fl = { s.sled.fl with trial := t.sled.fl.trial, floors := t.sled.fl.floors } ∧
      t.sled = { s.sled with fl := t.sled.fl }) ∧
  (∀ (s : State) (k : Nat), s.sled.kpr.phase = .restarting → s.sled.plat.coolant.isSome = true →
    keeperSlot (keeperTrial s.sled) = some k →
    ∃ t, exec .keeperRestartComplete s = .next t ∧ t.pending = s.pending ∧ t.sled.kpr.phase = .running ∧
      t.sled.kpr.slot = k ∧ t.sled.mem = s.sled.mem) ∧
  (∀ (s : State) (x : Transport), asked s.sled x → x.port ≠ .doe →
    (∀ e : BitVec 8, e ≠ 0 → e ≠ 0xFF → exec (.setEndpointId x e) s = .next { s with
      sled := emit (.resp x 0 1 0 (leBytes 1 e.toNat)) { s.sled with kpr := { s.sled.kpr with
        mgmt := { s.sled.kpr.mgmt with eid := e.toNat } } } }) ∧
    exec (.getEndpointId x) s = .next { s with
      sled := emit (.resp x 0 2 0 (leBytes 1 s.sled.kpr.mgmt.eid)) s.sled } ∧
    exec (.getMctpVersionSupport x) s = .next { s with
      sled := emit (.resp x 0 4 0 (Config.protocolBody 4)) s.sled } ∧
    exec (.getMessageTypeSupport x) s = .next { s with
      sled := emit (.resp x 0 5 0 [0x03, 0x01, 0x05, 0x7E]) s.sled } ∧
    exec (.getVendorDefinedMsgSupport x) s = .next { s with
      sled := emit (.resp x 0 6 0 (Config.protocolBody 6)) s.sled }) ∧
  (∀ (s : State) (a : BitVec 7), aonRuns s.sled = true →
    exec (.entdaa a) s = .next { s with sled := { s.sled with kpr := { s.sled.kpr with
      mgmt := { s.sled.kpr.mgmt with i3cAddr := some a.toNat } } } }) ∧
  (∀ (s : State) (x : Transport) (n : Nat), asked s.sled x → s.sled.kpr.mgmt.spdm = n →
    exec (.getVersion x) s = .next { s with
      sled := emit (.resp x 5 0x84 0 (leBytes 1 0x13)) (setSpdm 1 s.sled) } ∧
    (n = 1 → exec (.getCapabilities x) s = .next { s with
      sled := emit (.resp x 5 0xE1 0 (Config.protocolBody 0x8E1)) (setSpdm 2 s.sled) }) ∧
    (n ≠ 1 → exec (.getCapabilities x) s = .next { s with
      sled := emit (.resp x 5 0xE1 1 []) (logRec (mkRec 0xA004 0) s.sled) }) ∧
    (n = 2 → exec (.negotiateAlgorithms x true true) s = .next { s with
      sled := emit (.resp x 5 0xE3 0 (Config.protocolBody 0x8E3)) (setSpdm 3 s.sled) }) ∧
    (∀ a b, (a = false ∨ b = false) → exec (.negotiateAlgorithms x a b) s = .next { s with
      sled := emit (.resp x 5 0xE3 1 []) (logRec (mkRec 0xA004 0) s.sled) }) ∧
    (n = 3 →
      exec (.getDigests x) s = .next { s with sled := emit (.resp x 5 0x81 0 (Config.protocolBody 0x881)) s.sled } ∧
      (∀ o l : BitVec 16, exec (.getCertificate x 0 o l) s = .next { s with
        sled := emit (.resp x 5 0x82 0 (((Config.protocolBody 0x882).drop o.toNat).take l.toNat)) s.sled }) ∧
      (∀ c : BitVec 256, exec (.challenge x 0 c) s = .next { s with
        sled := emit (.resp x 5 0x83 0 (signed (leBytes 32 c.toNat ++ Config.protocolBody 0x881))) s.sled }) ∧
      (∀ (i : BitVec 8) (c : BitVec 256), 1 ≤ i.toNat → i.toNat ≤ 6 →
        exec (.getMeasurements x i c) s = .next { s with
          sled := emit (.resp x 5 0xE0 0 (measurement s.sled i.toNat ++
            signed (leBytes 32 c.toNat ++ measurement s.sled i.toNat))) s.sled }) ∧
      (∀ (i : BitVec 8) (c : BitVec 256), 6 < i.toNat → i ≠ 0xFF →
        exec (.getMeasurements x i c) s = .next { s with
          sled := emit (.resp x 5 0xE0 1 []) (logRec (mkRec 0xA004 0) s.sled) })) ∧
    (n ≠ 3 → exec (.getDigests x) s = .next { s with
      sled := emit (.resp x 5 0x81 1 []) (logRec (mkRec 0xA004 0) s.sled) }))

/-- PLDM monitoring reports sensors, thresholds, power and tier; a firmware update goes from its request through the
component table, the pieces and their flash operations to verification and activation, and can be cancelled; an image
that fails is logged and applied nowhere (spec/20, R394, R398-R400, Tables 20-4, 20-7). The model's readings:
notes/assumptions/17, 35. -/
def Obligations.PldmMonitorsAndUpdatesFirmware : Prop :=
  (∀ (s : State) (x : Transport), asked s.sled x →
    exec (.getTid x) s = .next { s with sled := emit (.resp x 1 2 0 (leBytes 1 s.sled.kpr.mgmt.tid)) s.sled } ∧
    (∀ d : BitVec 8, d ≠ 0 → d ≠ 0xFF → exec (.setTid x d) s = .next { s with
      sled := emit (.resp x 1 1 0 []) { s.sled with kpr := { s.sled.kpr with
        mgmt := { s.sled.kpr.mgmt with tid := d.toNat } } } }) ∧
    exec (.getPldmVersion x) s = .next { s with sled := emit (.resp x 1 3 0 (Config.protocolBody 0x103)) s.sled } ∧
    exec (.getPldmTypes x) s = .next { s with sled := emit (.resp x 1 4 0 (leBytes 8 0x25)) s.sled } ∧
    exec (.getPldmCommands x 0) s = .next { s with sled := emit (.resp x 1 5 0 (leBytes 32 0x3E)) s.sled } ∧
    exec (.getPdrRepositoryInfo x) s = .next { s with
      sled := emit (.resp x 1 0x250 0 (leBytes 4 100 ++ Config.protocolBody 0x250)) s.sled } ∧
    (∀ h : BitVec 32, 1 ≤ h.toNat → h.toNat ≤ 36 → exec (.getPdr x h) s = .next { s with
      sled := emit (.resp x 1 0x251 0 (leBytes 2 h.toNat ++ (leBytes 2 (rField s.sled bTHM 0x400 0 8) ++ leBytes 2 112) ++
        Config.protocolBody 0x251)) s.sled }) ∧
    (∀ i : BitVec 16, 1 ≤ i.toNat → i.toNat ≤ 97 → exec (.getSensorReading x i) s = .next { s with
      sled := emit (.resp x 1 0x211 0 (leBytes 1 (if (sensor s.sled (i.toNat - 1)).broken then 4 else 0) ++
        leBytes 2 (sensor s.sled (i.toNat - 1)).reading)) s.sled }) ∧
    exec (.getStateSensorReadings x 200) s = .next { s with
      sled := emit (.resp x 1 0x221 0 (leBytes 1 0 ++
        leBytes 1 (if s.sled.kpr.tier = 2 then 1 else if s.sled.kpr.tier = 1 then 2 else 0))) s.sled } ∧
    (∀ e : BitVec 8, exec (.setEventReceiver x true e) s = .next { s with
      sled := emit (.resp x 1 0x204 0 []) { s.sled with kpr := { s.sled.kpr with
        mgmt := { s.sled.kpr.mgmt with eventRx := some e.toNat } } } }) ∧
    exec (.queryDeviceIdentifiers x) s = .next { s with
      sled := emit (.resp x 1 0x501 0 (Config.protocolBody 0x501)) s.sled } ∧
    exec (.getFirmwareParameters x) s = .next { s with
      sled := emit (.resp x 1 0x502 0 (words4 ((List.range 4).map (nth (dirOf s.sled).versions)) ++
        leBytes 1 (trialMask s.sled) ++ Config.protocolBody 0x502)) s.sled } ∧
    (s.sled.kpr.session = none → s.sled.plat.updLock = false →
      exec (.requestUpdate x) s = .next { s with sled := emit (.resp x 1 0x510 0 []) (setSession {} s.sled) } ∧
      exec (.pldmGetStatus x) s = .next { s with
        sled := emit (.resp x 1 0x51B 0 (leBytes 1 0 ++ leBytes 4 0)) s.sled }) ∧
    (s.sled.plat.updLock = true →
      exec (.requestUpdate x) s = .next { s with sled := emit (.resp x 1 0x510 1 []) s.sled })) ∧
  (∀ (s : State) (x : Transport) (e : Session), asked s.sled x → s.sled.kpr.session = some e →
    (∀ c : Component, e.phase ≠ 2 → updAllowed s.sled (compId c) = true →
      exec (.passComponentTable x c) s = .next { s with
        sled := emit (.resp x 1 0x513 0 []) (setSession { e with phase := 1, comps := compId c :: e.comps } s.sled) }) ∧
    (∀ (c : Component) (n : BitVec 32) (img : UpdImage), e.phase = 1 → compId c ∈ e.comps → n ≠ 0 →
      updAllowed s.sled (compId c) = true → exec (.updateComponent x c n img) s = .next { s with
        sled := emit (.resp x 1 0x514 0 []) (emit (.event 7 0) (setSession { e with
          phase := 2, comp := compId c, size := n.toNat, img := some img, asked := 0, written := 0 } s.sled)) }) ∧
    (∀ n : Fin 1025, e.phase = 2 → 0 < n.val → e.asked + n.val < e.size →
      exec (.requestFirmwareData x n) s = .next { s with
        sled := emit (.event 7 (e.asked + n.val)) (setSession { e with asked := e.asked + n.val } { s.sled with
          kpr := { s.sled.kpr with ops := s.sled.kpr.ops ++ [.updatePiece e.comp n.val] } }) }) ∧
    (∀ n : Fin 1025, e.phase = 2 → e.asked < e.size → e.size ≤ e.asked + n.val →
      exec (.requestFirmwareData x n) s = .next { s with
        sled := emit (.event 4 0) (setSession { e with asked := e.size } { s.sled with
          kpr := { s.sled.kpr with ops := s.sled.kpr.ops ++ [.updatePiece e.comp (e.size - e.asked)] } }) }) ∧
    (e.phase = 2 → ∃ t, exec (.cancelUpdateComponent x) s = .next t ∧ t.pending = s.pending ∧
      t.sled.kpr.session = some { e with phase := 1, img := none } ∧ (∀ c n, FlashOp.updatePiece c n ∉ t.sled.kpr.ops) ∧
      t.sled.fl = s.sled.fl) ∧
    (∃ t, exec (.cancelUpdate x) s = .next t ∧ t.pending = s.pending ∧ t.sled.kpr.session = none ∧
      (∀ c n, FlashOp.updatePiece c n ∉ t.sled.kpr.ops) ∧ t.sled.fl = s.sled.fl) ∧
    (e.phase = 1 → e.done ≠ [] → 1 ∉ e.done → ∃ t, exec (.activateFirmware x) s = .next t ∧ t.pending = s.pending ∧
      t.sled.kpr.session = none ∧ t.sled.outs = s.sled.outs ++ [.resp x 1 0x51A 0 []] ∧
      (∀ ks, e.staged = some ks → t.sled.fl.keys.cur = some ks) ∧ (e.staged = none → t.sled.fl = s.sled.fl))) ∧
  (∀ (s : Sled) (e : Session) (img : UpdImage) (n : Nat), s.kpr.session = some e → e.img = some img →
    0 < e.written → e.size ≤ e.written + n →
    (updVerify s e.comp img = false ∨ slotSize e.comp < e.size → ∃ t, pieceDone n s = t ∧ t.outs = s.outs ++ [.event 5 1] ∧ t.fl = s.fl ∧
      t.kpr.session = some { e with written := e.written + n, phase := 1, img := none }) ∧
    (∀ i, img = .fw i → e.comp = 2 → updVerify s 2 img = true → e.size ≤ slotSize 2 → (dirOf s).seq + 1 < 2 ^ 32 →
      ∃ t, pieceDone n s = t ∧ t.outs = s.outs ++ [.event 5 0, .event 6 0] ∧
        ffind t.fl.runtime (runtimeAt (updTarget s 2)) = some i ∧ dirGet t 2 = updTarget s 2 ∧
        ffind (trials t) 2 = some (updTarget s 2) ∧ t.fl.keeper = s.fl.keeper)) ∧
  (∀ s : Sled, (s.kpr.digRt = none → updTarget s 2 = 1 - dirGet s 2) ∧
    (s.kpr.digRt.isSome = true → updTarget s 2 = 1 - s.kpr.rtSlot ∧ (s.kpr.rtSlot < 2 → updTarget s 2 ≠ s.kpr.rtSlot)))

/-! ## Memory -/

/-- Bytes stored in a scratchpad of a running core read back whole, and every other byte of memory is unchanged
(spec/01, Table 1-1; the form of the memory is the model's: notes/assumptions/6). -/
def Obligations.ScratchpadReadsBackWhatWasWritten : Prop :=
  ∀ (s : Sled) (core a : Nat) (l : List Byte), core < 8 → islRuns s (iVC core) = true → ownScratch core a l.length →
    s.ecc = [] → s.clearing = false →
    ∃ t, writeLocal a (cleanBytes l) s = t ∧ readLocal a l.length t = ((cleanBytes l, true), t) ∧
      (∀ x, x < 2 ^ 40 + a ∨ 2 ^ 40 + a + l.length ≤ x → memGet t.mem x = memGet s.mem x) ∧
      t = { s with mem := t.mem }

/-- Every step keeps the memory in its one canonical form: addresses rise strictly and no listed byte is what an
unlisted one reads as (the model's form of the memory: notes/assumptions/6; what writes it: spec/06, spec/09). -/
def Obligations.EveryStepKeepsTheMemoryCanonical : Prop :=
  ∀ s t : State, Memory.wf s.sled.mem = true → step s = .next t → Memory.wf t.sled.mem = true
end

