-- ==== Sys2Proof/Laws/Maps.lean ====
section
/-! SUPPORT. Finite maps and byte memories: what a look-up answers after each operation, and that every
operation keeps the canonical form. -/

namespace Sys2Proof.Machine

set_option Elab.async false

open Sys2Proof

section maps

variable {α : Type}

@[simp] theorem fget_nil (d : α) (k : Nat) : fget [] d k = d := rfl

/-- What a map's default and all its values satisfy, its value for any key satisfies. -/
theorem fget_forall (P : α → Prop) (d : α) (k : Nat) (hd : P d) :
    ∀ m : FMap α, (∀ p ∈ m, P p.2) → P (fget m d k)
  | [], _ => hd
  | (j, x) :: m, h => by
    have hm := fget_forall P d k hd m fun p hp => h p (List.mem_cons_of_mem _ hp)
    have hx : P x := h (j, x) (List.mem_cons_self ..)
    by_cases e : j = k <;> simp [fget, e, hx, hm]
@[simp] theorem ffind_nil (k : Nat) : ffind ([] : FMap α) k = none := rfl

/-- A key just listed is found. -/
@[simp] theorem fget_fput_same (m : FMap α) (d : α) (k : Nat) (v : α) : fget (fput m k v) d k = v := by
  induction m with
  | nil => simp [fput, fget]
  | cons p m ih =>
    obtain ⟨a, w⟩ := p
    simp only [fput]
    split
    · simp [fget]
    · split
      · simp [fget]
      · have : a ≠ k := fun h => by simp_all
        simp [fget, this, ih]

/-- Listing one key leaves the others. -/
theorem fget_fput_other (m : FMap α) (d : α) {k j : Nat} (v : α) (h : j ≠ k) :
    fget (fput m k v) d j = fget m d j := by
  induction m with
  | nil => simp [fput, fget, h.symm]
  | cons p m ih =>
    obtain ⟨a, w⟩ := p
    simp only [fput]
    split
    · simp [fget, h.symm]
    · split
      · subst_vars; simp [fget, h.symm]
      · simp [fget, ih]

/-- A removed key reads the default. -/
@[simp] theorem fget_ferase_same (m : FMap α) (d : α) (k : Nat) : fget (ferase m k) d k = d := by
  induction m with
  | nil => rfl
  | cons p m ih =>
    obtain ⟨a, w⟩ := p
    simp only [ferase]
    split
    · exact ih
    · simp_all [fget]

/-- Removing one key leaves the others. -/
theorem fget_ferase_other (m : FMap α) (d : α) {k j : Nat} (h : j ≠ k) :
    fget (ferase m k) d j = fget m d j := by
  induction m with
  | nil => rfl
  | cons p m ih =>
    obtain ⟨a, w⟩ := p
    simp only [ferase]
    split
    · subst_vars; simp [fget, h.symm, ih]
    · simp [fget, ih]

variable [DecidableEq α]

/-- A key just set reads its value. -/
@[simp] theorem fget_fset_same (m : FMap α) (d : α) (k : Nat) (v : α) : fget (fset m d k v) d k = v := by
  unfold fset
  split
  · simp_all
  · simp

/-- Setting one key leaves the others. -/
theorem fget_fset_other (m : FMap α) (d : α) {k j : Nat} (v : α) (h : j ≠ k) :
    fget (fset m d k v) d j = fget m d j := by
  unfold fset
  split
  · exact fget_ferase_other m d h
  · exact fget_fput_other m d v h

/-- Setting one key leaves the others, whatever default the reader names. -/
theorem fget_fset_other_default (m : FMap α) (d e : α) {k j : Nat} (v : α) (h : j ≠ k) :
    fget (fset m d k v) e j = fget m e j := by
  unfold fset
  split
  · exact fget_ferase_other m e h
  · exact fget_fput_other m e v h

/-- Both cases at once. -/
theorem fget_fset (m : FMap α) (d : α) (k j : Nat) (v : α) :
    fget (fset m d k v) d j = if j = k then v else fget m d j := by
  by_cases h : j = k
  · subst h; simp
  · simp [h, fget_fset_other m d v h]

/-! ## The canonical form -/

theorem fwfFrom_mono (d : α) {lo hi : Nat} (h : lo ≤ hi) {m : FMap α} (hm : fwfFrom d hi m = true) :
    fwfFrom d lo m = true := by
  cases m with
  | nil => rfl
  | cons p m =>
    obtain ⟨a, w⟩ := p
    simp only [fwfFrom, Bool.and_eq_true, decide_eq_true_eq] at hm ⊢
    exact ⟨⟨by omega, hm.1.2⟩, hm.2⟩

theorem fwfFrom_fput (d : α) {lo k : Nat} {v : α} {m : FMap α} (hm : fwfFrom d lo m = true)
    (hk : lo ≤ k) (hv : v ≠ d) : fwfFrom d lo (fput m k v) = true := by
  induction m generalizing lo with
  | nil => simp [fput, fwfFrom, hk, hv]
  | cons p m ih =>
    obtain ⟨a, w⟩ := p
    simp only [fwfFrom, Bool.and_eq_true, decide_eq_true_eq] at hm
    obtain ⟨⟨ha, hw⟩, hm⟩ := hm
    simp only [fput]
    split
    · simp only [fwfFrom, Bool.and_eq_true, decide_eq_true_eq]
      exact ⟨⟨hk, hv⟩, ⟨by omega, hw⟩, hm⟩
    · split
      · subst_vars; simp [fwfFrom, hk, hv, hm]
      · simp only [fwfFrom, Bool.and_eq_true, decide_eq_true_eq]
        exact ⟨⟨ha, hw⟩, ih hm (by omega)⟩

theorem fwfFrom_ferase (d : α) {lo k : Nat} {m : FMap α} (hm : fwfFrom d lo m = true) :
    fwfFrom d lo (ferase m k) = true := by
  induction m generalizing lo with
  | nil => rfl
  | cons p m ih =>
    obtain ⟨a, w⟩ := p
    simp only [fwfFrom, Bool.and_eq_true, decide_eq_true_eq] at hm
    obtain ⟨⟨ha, hw⟩, hm⟩ := hm
    simp only [ferase]
    split
    · exact fwfFrom_mono d (by omega) (ih hm)
    · simp only [fwfFrom, Bool.and_eq_true, decide_eq_true_eq]
      exact ⟨⟨ha, hw⟩, ih hm⟩

theorem fwfFrom_filter (d : α) (p : Nat × α → Bool) {lo : Nat} {m : FMap α} (hm : fwfFrom d lo m = true) :
    fwfFrom d lo (m.filter p) = true := by
  induction m generalizing lo with
  | nil => rfl
  | cons q m ih =>
    obtain ⟨a, w⟩ := q
    simp only [fwfFrom, Bool.and_eq_true, decide_eq_true_eq] at hm
    obtain ⟨⟨ha, hw⟩, hm⟩ := hm
    simp only [List.filter_cons]
    split
    · simp only [fwfFrom, Bool.and_eq_true, decide_eq_true_eq]
      exact ⟨⟨ha, hw⟩, ih hm⟩
    · exact fwfFrom_mono d (by omega) (ih hm)

/-- Setting a key keeps the canonical form. -/
theorem fwf_fset (d : α) {m : FMap α} (k : Nat) (v : α) (hm : fwf d m = true) : fwf d (fset m d k v) = true := by
  unfold fset fwf at *
  split
  · exact fwfFrom_ferase d hm
  · exact fwfFrom_fput d hm (Nat.zero_le _) (by assumption)

/-- Dropping entries keeps the canonical form. -/
theorem fwf_fdrop (d : α) {m : FMap α} (p : Nat → α → Bool) (hm : fwf d m = true) : fwf d (fdrop m p) = true :=
  fwfFrom_filter d _ hm

/-- In canonical form, equal look-ups mean equal maps. -/
theorem fwfFrom_ext (d : α) {lo : Nat} {m n : FMap α} (hm : fwfFrom d lo m = true) (hn : fwfFrom d lo n = true)
    (h : ∀ k, fget m d k = fget n d k) : m = n := by
  have low : ∀ {l : FMap α} {b k : Nat}, fwfFrom d b l = true → k < b → fget l d k = d := by
    intro l
    induction l with
    | nil => intros; rfl
    | cons p l ih =>
      intro b k hl hk
      obtain ⟨a, w⟩ := p
      simp only [fwfFrom, Bool.and_eq_true, decide_eq_true_eq] at hl
      have : a ≠ k := by omega
      simp [fget, this, ih hl.2 (by omega : k < a + 1)]
  induction m generalizing n lo with
  | nil =>
    cases n with
    | nil => rfl
    | cons p n =>
      obtain ⟨a, w⟩ := p
      simp only [fwfFrom, Bool.and_eq_true, decide_eq_true_eq] at hn
      have := h a
      simp [fget] at this
      exact absurd this.symm hn.1.2
  | cons p m ih =>
    obtain ⟨a, v⟩ := p
    have hm' := hm
    simp only [fwfFrom, Bool.and_eq_true, decide_eq_true_eq] at hm'
    cases n with
    | nil =>
      have := h a
      simp [fget] at this
      exact absurd this hm'.1.2
    | cons q n =>
      obtain ⟨b, w⟩ := q
      have hn' := hn
      simp only [fwfFrom, Bool.and_eq_true, decide_eq_true_eq] at hn'
      have hab : a = b := by
        by_contra hne
        rcases Nat.lt_or_gt_of_ne hne with hl | hl
        · have := h a
          have e : fget ((b, w) :: n) d a = d :=
            low (b := b) (by simp [fwfFrom, hn'.1.2, hn'.2]) hl
          rw [e] at this
          simp [fget] at this
          exact hm'.1.2 this
        · have := h b
          have e : fget ((a, v) :: m) d b = d :=
            low (b := a) (by simp [fwfFrom, hm'.1.2, hm'.2]) hl
          rw [e] at this
          simp [fget] at this
          exact hn'.1.2 this.symm
      subst hab
      have hv : v = w := by simpa [fget] using h a
      subst hv
      congr 1
      refine ih hm'.2 hn'.2 fun k => ?_
      by_cases hk : a = k
      · subst hk
        rw [low hm'.2 (Nat.lt_succ_self _), low hn'.2 (Nat.lt_succ_self _)]
      · simpa [fget, hk] using h k

end maps

/-! ## Memory -/

@[simp] theorem memGet_memSet_same (m : List Host.Cell) (a : Nat) (v : Byte) : memGet (memSet m a v) a = v :=
  fget_fset_same m 0 a v

theorem memGet_memSet_other (m : List Host.Cell) {a b : Nat} (v : Byte) (h : b ≠ a) :
    memGet (memSet m a v) b = memGet m b := fget_fset_other m 0 v h

/-- A byte store keeps the canonical form. -/
theorem memSet_wf {m : List Host.Cell} (a : Nat) (v : Byte) (h : Memory.wf m = true) :
    Memory.wf (memSet m a v) = true := fwf_fset (0 : Byte) a v h

/-- Storing bytes keeps the canonical form. -/
theorem memWrite_wf {m : List Host.Cell} (a : Nat) (l : List Byte) (h : Memory.wf m = true) :
    Memory.wf (memWrite m a l) = true := by
  induction l generalizing m a with
  | nil => exact h
  | cons b l ih => exact ih (a + 1) (memSet_wf a b h)

/-- Dropping entries keeps the canonical form. -/
theorem memDrop_wf {m : List Host.Cell} (p : Nat → Byte → Bool) (h : Memory.wf m = true) :
    Memory.wf (fdrop m p) = true := fwf_fdrop (0 : Byte) p h

/-- Bytes outside a stored run are unchanged. -/
theorem memGet_memWrite_out (m : List Host.Cell) (a : Nat) (l : List Byte) {x : Nat}
    (h : x < a ∨ a + l.length ≤ x) : memGet (memWrite m a l) x = memGet m x := by
  induction l generalizing m a with
  | nil => rfl
  | cons b l ih =>
    simp only [List.length_cons] at h
    rw [memWrite, ih _ _ (by omega), memGet_memSet_other _ _ (by omega)]

/-- Bytes inside a stored run read as stored. -/
theorem memGet_memWrite_in (m : List Host.Cell) (a : Nat) (l : List Byte) (i : Nat) (h : i < l.length) :
    memGet (memWrite m a l) (a + i) = l[i] := by
  induction l generalizing m a i with
  | nil => simp at h
  | cons b l ih =>
    cases i with
    | zero =>
      rw [memWrite, memGet_memWrite_out _ _ _ (Or.inl (by omega))]
      simp
    | succ i =>
      have := ih (memSet m a b) (a + 1) i (by simpa using h)
      rw [memWrite, show a + (i + 1) = a + 1 + i by omega, this]
      simp

/-- What was stored is read back. -/
theorem memRead_memWrite (m : List Host.Cell) (a : Nat) (l : List Byte) :
    memRead (memWrite m a l) a l.length = l := by
  induction l generalizing m a with
  | nil => rfl
  | cons b l ih =>
    simp only [List.length_cons, memRead, memWrite]
    rw [ih (memSet m a b) (a + 1), memGet_memWrite_out _ _ _ (Or.inl (by omega))]
    simp

end Sys2Proof.Machine
end

