-- ==== Sys2Proof/Laws/State.lean ====
section
/-! SUPPORT. What each update of the sled leaves in each field: one lemma per field and update, true by rfl, so that
no later proof unfolds a record update. -/

namespace Sys2Proof.Machine

set_option Elab.async false

open Sys2Proof

/-! ## rSet -/

@[simp] theorem rSet_now (blk off v : Nat) (s : Sled) : (rSet blk off v s).now = s.now := rfl
@[simp] theorem rSet_free (blk off v : Nat) (s : Sled) : (rSet blk off v s).free = s.free := rfl
@[simp] theorem rSet_seq (blk off v : Nat) (s : Sled) : (rSet blk off v s).seq = s.seq := rfl
@[simp] theorem rSet_plat (blk off v : Nat) (s : Sled) : (rSet blk off v s).plat = s.plat := rfl
@[simp] theorem rSet_isl (blk off v : Nat) (s : Sled) : (rSet blk off v s).isl = s.isl := rfl
@[simp] theorem rSet_ccRunning (blk off v : Nat) (s : Sled) : (rSet blk off v s).ccRunning = s.ccRunning := rfl
@[simp] theorem rSet_ccOffline (blk off v : Nat) (s : Sled) : (rSet blk off v s).ccOffline = s.ccOffline := rfl
@[simp] theorem rSet_ctlMem (blk off v : Nat) (s : Sled) : (rSet blk off v s).ctlMem = s.ctlMem := rfl
@[simp] theorem rSet_clearing (blk off v : Nat) (s : Sled) : (rSet blk off v s).clearing = s.clearing := rfl
@[simp] theorem rSet_cpu (blk off v : Nat) (s : Sled) : (rSet blk off v s).cpu = s.cpu := rfl
@[simp] theorem rSet_regs (blk off v : Nat) (s : Sled) : (rSet blk off v s).regs = fset s.regs (resetVal blk off) (regKey blk off) (BitVec.ofNat 64 v) := rfl
@[simp] theorem rSet_locked (blk off v : Nat) (s : Sled) : (rSet blk off v s).locked = s.locked := rfl
@[simp] theorem rSet_mem (blk off v : Nat) (s : Sled) : (rSet blk off v s).mem = s.mem := rfl
@[simp] theorem rSet_ecc (blk off v : Nat) (s : Sled) : (rSet blk off v s).ecc = s.ecc := rfl
@[simp] theorem rSet_kpr (blk off v : Nat) (s : Sled) : (rSet blk off v s).kpr = s.kpr := rfl
@[simp] theorem rSet_fl (blk off v : Nat) (s : Sled) : (rSet blk off v s).fl = s.fl := rfl
@[simp] theorem rSet_prof (blk off v : Nat) (s : Sled) : (rSet blk off v s).prof = s.prof := rfl
@[simp] theorem rSet_chan (blk off v : Nat) (s : Sled) : (rSet blk off v s).chan = s.chan := rfl
@[simp] theorem rSet_mcs (blk off v : Nat) (s : Sled) : (rSet blk off v s).mcs = s.mcs := rfl
@[simp] theorem rSet_speedQ (blk off v : Nat) (s : Sled) : (rSet blk off v s).speedQ = s.speedQ := rfl
@[simp] theorem rSet_bank (blk off v : Nat) (s : Sled) : (rSet blk off v s).bank = s.bank := rfl
@[simp] theorem rSet_btm (blk off v : Nat) (s : Sled) : (rSet blk off v s).btm = s.btm := rfl
@[simp] theorem rSet_bcs (blk off v : Nat) (s : Sled) : (rSet blk off v s).bcs = s.bcs := rfl
@[simp] theorem rSet_xing (blk off v : Nat) (s : Sled) : (rSet blk off v s).xing = s.xing := rfl
@[simp] theorem rSet_vc (blk off v : Nat) (s : Sled) : (rSet blk off v s).vc = s.vc := rfl
@[simp] theorem rSet_ctr (blk off v : Nat) (s : Sled) : (rSet blk off v s).ctr = s.ctr := rfl
@[simp] theorem rSet_sem (blk off v : Nat) (s : Sled) : (rSet blk off v s).sem = s.sem := rfl
@[simp] theorem rSet_waits (blk off v : Nat) (s : Sled) : (rSet blk off v s).waits = s.waits := rfl
@[simp] theorem rSet_dld (blk off v : Nat) (s : Sled) : (rSet blk off v s).dld = s.dld := rfl
@[simp] theorem rSet_ste (blk off v : Nat) (s : Sled) : (rSet blk off v s).ste = s.ste := rfl
@[simp] theorem rSet_lnk (blk off v : Nat) (s : Sled) : (rSet blk off v s).lnk = s.lnk := rfl
@[simp] theorem rSet_fab (blk off v : Nat) (s : Sled) : (rSet blk off v s).fab = s.fab := rfl
@[simp] theorem rSet_hst (blk off v : Nat) (s : Sled) : (rSet blk off v s).hst = s.hst := rfl
@[simp] theorem rSet_thm (blk off v : Nat) (s : Sled) : (rSet blk off v s).thm = s.thm := rfl
@[simp] theorem rSet_outs (blk off v : Nat) (s : Sled) : (rSet blk off v s).outs = s.outs := rfl
@[simp] theorem rSet_stall (blk off v : Nat) (s : Sled) : (rSet blk off v s).stall = s.stall := rfl

/-! ## rSetField -/

@[simp] theorem rSetField_now (blk off lo len v : Nat) (s : Sled) : (rSetField blk off lo len v s).now = s.now := rfl
@[simp] theorem rSetField_free (blk off lo len v : Nat) (s : Sled) : (rSetField blk off lo len v s).free = s.free := rfl
@[simp] theorem rSetField_seq (blk off lo len v : Nat) (s : Sled) : (rSetField blk off lo len v s).seq = s.seq := rfl
@[simp] theorem rSetField_plat (blk off lo len v : Nat) (s : Sled) : (rSetField blk off lo len v s).plat = s.plat := rfl
@[simp] theorem rSetField_isl (blk off lo len v : Nat) (s : Sled) : (rSetField blk off lo len v s).isl = s.isl := rfl
@[simp] theorem rSetField_ccRunning (blk off lo len v : Nat) (s : Sled) : (rSetField blk off lo len v s).ccRunning = s.ccRunning := rfl
@[simp] theorem rSetField_ccOffline (blk off lo len v : Nat) (s : Sled) : (rSetField blk off lo len v s).ccOffline = s.ccOffline := rfl
@[simp] theorem rSetField_ctlMem (blk off lo len v : Nat) (s : Sled) : (rSetField blk off lo len v s).ctlMem = s.ctlMem := rfl
@[simp] theorem rSetField_clearing (blk off lo len v : Nat) (s : Sled) : (rSetField blk off lo len v s).clearing = s.clearing := rfl
@[simp] theorem rSetField_cpu (blk off lo len v : Nat) (s : Sled) : (rSetField blk off lo len v s).cpu = s.cpu := rfl
@[simp] theorem rSetField_regs (blk off lo len v : Nat) (s : Sled) : (rSetField blk off lo len v s).regs = (rSet blk off (setBits (rGet s blk off) lo len v) s).regs := rfl
@[simp] theorem rSetField_locked (blk off lo len v : Nat) (s : Sled) : (rSetField blk off lo len v s).locked = s.locked := rfl
@[simp] theorem rSetField_mem (blk off lo len v : Nat) (s : Sled) : (rSetField blk off lo len v s).mem = s.mem := rfl
@[simp] theorem rSetField_ecc (blk off lo len v : Nat) (s : Sled) : (rSetField blk off lo len v s).ecc = s.ecc := rfl
@[simp] theorem rSetField_kpr (blk off lo len v : Nat) (s : Sled) : (rSetField blk off lo len v s).kpr = s.kpr := rfl
@[simp] theorem rSetField_fl (blk off lo len v : Nat) (s : Sled) : (rSetField blk off lo len v s).fl = s.fl := rfl
@[simp] theorem rSetField_prof (blk off lo len v : Nat) (s : Sled) : (rSetField blk off lo len v s).prof = s.prof := rfl
@[simp] theorem rSetField_chan (blk off lo len v : Nat) (s : Sled) : (rSetField blk off lo len v s).chan = s.chan := rfl
@[simp] theorem rSetField_mcs (blk off lo len v : Nat) (s : Sled) : (rSetField blk off lo len v s).mcs = s.mcs := rfl
@[simp] theorem rSetField_speedQ (blk off lo len v : Nat) (s : Sled) : (rSetField blk off lo len v s).speedQ = s.speedQ := rfl
@[simp] theorem rSetField_bank (blk off lo len v : Nat) (s : Sled) : (rSetField blk off lo len v s).bank = s.bank := rfl
@[simp] theorem rSetField_btm (blk off lo len v : Nat) (s : Sled) : (rSetField blk off lo len v s).btm = s.btm := rfl
@[simp] theorem rSetField_bcs (blk off lo len v : Nat) (s : Sled) : (rSetField blk off lo len v s).bcs = s.bcs := rfl
@[simp] theorem rSetField_xing (blk off lo len v : Nat) (s : Sled) : (rSetField blk off lo len v s).xing = s.xing := rfl
@[simp] theorem rSetField_vc (blk off lo len v : Nat) (s : Sled) : (rSetField blk off lo len v s).vc = s.vc := rfl
@[simp] theorem rSetField_ctr (blk off lo len v : Nat) (s : Sled) : (rSetField blk off lo len v s).ctr = s.ctr := rfl
@[simp] theorem rSetField_sem (blk off lo len v : Nat) (s : Sled) : (rSetField blk off lo len v s).sem = s.sem := rfl
@[simp] theorem rSetField_waits (blk off lo len v : Nat) (s : Sled) : (rSetField blk off lo len v s).waits = s.waits := rfl
@[simp] theorem rSetField_dld (blk off lo len v : Nat) (s : Sled) : (rSetField blk off lo len v s).dld = s.dld := rfl
@[simp] theorem rSetField_ste (blk off lo len v : Nat) (s : Sled) : (rSetField blk off lo len v s).ste = s.ste := rfl
@[simp] theorem rSetField_lnk (blk off lo len v : Nat) (s : Sled) : (rSetField blk off lo len v s).lnk = s.lnk := rfl
@[simp] theorem rSetField_fab (blk off lo len v : Nat) (s : Sled) : (rSetField blk off lo len v s).fab = s.fab := rfl
@[simp] theorem rSetField_hst (blk off lo len v : Nat) (s : Sled) : (rSetField blk off lo len v s).hst = s.hst := rfl
@[simp] theorem rSetField_thm (blk off lo len v : Nat) (s : Sled) : (rSetField blk off lo len v s).thm = s.thm := rfl
@[simp] theorem rSetField_outs (blk off lo len v : Nat) (s : Sled) : (rSetField blk off lo len v s).outs = s.outs := rfl
@[simp] theorem rSetField_stall (blk off lo len v : Nat) (s : Sled) : (rSetField blk off lo len v s).stall = s.stall := rfl

/-! ## emit -/

@[simp] theorem emit_now (o : Out) (s : Sled) : (emit o s).now = s.now := rfl
@[simp] theorem emit_free (o : Out) (s : Sled) : (emit o s).free = s.free := rfl
@[simp] theorem emit_seq (o : Out) (s : Sled) : (emit o s).seq = s.seq := rfl
@[simp] theorem emit_plat (o : Out) (s : Sled) : (emit o s).plat = s.plat := rfl
@[simp] theorem emit_isl (o : Out) (s : Sled) : (emit o s).isl = s.isl := rfl
@[simp] theorem emit_ccRunning (o : Out) (s : Sled) : (emit o s).ccRunning = s.ccRunning := rfl
@[simp] theorem emit_ccOffline (o : Out) (s : Sled) : (emit o s).ccOffline = s.ccOffline := rfl
@[simp] theorem emit_ctlMem (o : Out) (s : Sled) : (emit o s).ctlMem = s.ctlMem := rfl
@[simp] theorem emit_clearing (o : Out) (s : Sled) : (emit o s).clearing = s.clearing := rfl
@[simp] theorem emit_cpu (o : Out) (s : Sled) : (emit o s).cpu = s.cpu := rfl
@[simp] theorem emit_regs (o : Out) (s : Sled) : (emit o s).regs = s.regs := rfl
@[simp] theorem emit_locked (o : Out) (s : Sled) : (emit o s).locked = s.locked := rfl
@[simp] theorem emit_mem (o : Out) (s : Sled) : (emit o s).mem = s.mem := rfl
@[simp] theorem emit_ecc (o : Out) (s : Sled) : (emit o s).ecc = s.ecc := rfl
@[simp] theorem emit_kpr (o : Out) (s : Sled) : (emit o s).kpr = s.kpr := rfl
@[simp] theorem emit_fl (o : Out) (s : Sled) : (emit o s).fl = s.fl := rfl
@[simp] theorem emit_prof (o : Out) (s : Sled) : (emit o s).prof = s.prof := rfl
@[simp] theorem emit_chan (o : Out) (s : Sled) : (emit o s).chan = s.chan := rfl
@[simp] theorem emit_mcs (o : Out) (s : Sled) : (emit o s).mcs = s.mcs := rfl
@[simp] theorem emit_speedQ (o : Out) (s : Sled) : (emit o s).speedQ = s.speedQ := rfl
@[simp] theorem emit_bank (o : Out) (s : Sled) : (emit o s).bank = s.bank := rfl
@[simp] theorem emit_btm (o : Out) (s : Sled) : (emit o s).btm = s.btm := rfl
@[simp] theorem emit_bcs (o : Out) (s : Sled) : (emit o s).bcs = s.bcs := rfl
@[simp] theorem emit_xing (o : Out) (s : Sled) : (emit o s).xing = s.xing := rfl
@[simp] theorem emit_vc (o : Out) (s : Sled) : (emit o s).vc = s.vc := rfl
@[simp] theorem emit_ctr (o : Out) (s : Sled) : (emit o s).ctr = s.ctr := rfl
@[simp] theorem emit_sem (o : Out) (s : Sled) : (emit o s).sem = s.sem := rfl
@[simp] theorem emit_waits (o : Out) (s : Sled) : (emit o s).waits = s.waits := rfl
@[simp] theorem emit_dld (o : Out) (s : Sled) : (emit o s).dld = s.dld := rfl
@[simp] theorem emit_ste (o : Out) (s : Sled) : (emit o s).ste = s.ste := rfl
@[simp] theorem emit_lnk (o : Out) (s : Sled) : (emit o s).lnk = s.lnk := rfl
@[simp] theorem emit_fab (o : Out) (s : Sled) : (emit o s).fab = s.fab := rfl
@[simp] theorem emit_hst (o : Out) (s : Sled) : (emit o s).hst = s.hst := rfl
@[simp] theorem emit_thm (o : Out) (s : Sled) : (emit o s).thm = s.thm := rfl
@[simp] theorem emit_outs (o : Out) (s : Sled) : (emit o s).outs = s.outs ++ [o] := rfl
@[simp] theorem emit_stall (o : Out) (s : Sled) : (emit o s).stall = s.stall := rfl

/-! ## setIsl -/

@[simp] theorem setIsl_now (i st : Nat) (s : Sled) : (setIsl i st s).now = s.now := rfl
@[simp] theorem setIsl_free (i st : Nat) (s : Sled) : (setIsl i st s).free = s.free := rfl
@[simp] theorem setIsl_seq (i st : Nat) (s : Sled) : (setIsl i st s).seq = s.seq := rfl
@[simp] theorem setIsl_plat (i st : Nat) (s : Sled) : (setIsl i st s).plat = s.plat := rfl
@[simp] theorem setIsl_isl (i st : Nat) (s : Sled) : (setIsl i st s).isl = fset s.isl {} i { fget s.isl {} i with state := st } := rfl
@[simp] theorem setIsl_ccRunning (i st : Nat) (s : Sled) : (setIsl i st s).ccRunning = s.ccRunning := rfl
@[simp] theorem setIsl_ccOffline (i st : Nat) (s : Sled) : (setIsl i st s).ccOffline = s.ccOffline := rfl
@[simp] theorem setIsl_ctlMem (i st : Nat) (s : Sled) : (setIsl i st s).ctlMem = s.ctlMem := rfl
@[simp] theorem setIsl_clearing (i st : Nat) (s : Sled) : (setIsl i st s).clearing = s.clearing := rfl
@[simp] theorem setIsl_cpu (i st : Nat) (s : Sled) : (setIsl i st s).cpu = s.cpu := rfl
@[simp] theorem setIsl_regs (i st : Nat) (s : Sled) : (setIsl i st s).regs = s.regs := rfl
@[simp] theorem setIsl_locked (i st : Nat) (s : Sled) : (setIsl i st s).locked = s.locked := rfl
@[simp] theorem setIsl_mem (i st : Nat) (s : Sled) : (setIsl i st s).mem = s.mem := rfl
@[simp] theorem setIsl_ecc (i st : Nat) (s : Sled) : (setIsl i st s).ecc = s.ecc := rfl
@[simp] theorem setIsl_kpr (i st : Nat) (s : Sled) : (setIsl i st s).kpr = s.kpr := rfl
@[simp] theorem setIsl_fl (i st : Nat) (s : Sled) : (setIsl i st s).fl = s.fl := rfl
@[simp] theorem setIsl_prof (i st : Nat) (s : Sled) : (setIsl i st s).prof = s.prof := rfl
@[simp] theorem setIsl_chan (i st : Nat) (s : Sled) : (setIsl i st s).chan = s.chan := rfl
@[simp] theorem setIsl_mcs (i st : Nat) (s : Sled) : (setIsl i st s).mcs = s.mcs := rfl
@[simp] theorem setIsl_speedQ (i st : Nat) (s : Sled) : (setIsl i st s).speedQ = s.speedQ := rfl
@[simp] theorem setIsl_bank (i st : Nat) (s : Sled) : (setIsl i st s).bank = s.bank := rfl
@[simp] theorem setIsl_btm (i st : Nat) (s : Sled) : (setIsl i st s).btm = s.btm := rfl
@[simp] theorem setIsl_bcs (i st : Nat) (s : Sled) : (setIsl i st s).bcs = s.bcs := rfl
@[simp] theorem setIsl_xing (i st : Nat) (s : Sled) : (setIsl i st s).xing = s.xing := rfl
@[simp] theorem setIsl_vc (i st : Nat) (s : Sled) : (setIsl i st s).vc = s.vc := rfl
@[simp] theorem setIsl_ctr (i st : Nat) (s : Sled) : (setIsl i st s).ctr = s.ctr := rfl
@[simp] theorem setIsl_sem (i st : Nat) (s : Sled) : (setIsl i st s).sem = s.sem := rfl
@[simp] theorem setIsl_waits (i st : Nat) (s : Sled) : (setIsl i st s).waits = s.waits := rfl
@[simp] theorem setIsl_dld (i st : Nat) (s : Sled) : (setIsl i st s).dld = s.dld := rfl
@[simp] theorem setIsl_ste (i st : Nat) (s : Sled) : (setIsl i st s).ste = s.ste := rfl
@[simp] theorem setIsl_lnk (i st : Nat) (s : Sled) : (setIsl i st s).lnk = s.lnk := rfl
@[simp] theorem setIsl_fab (i st : Nat) (s : Sled) : (setIsl i st s).fab = s.fab := rfl
@[simp] theorem setIsl_hst (i st : Nat) (s : Sled) : (setIsl i st s).hst = s.hst := rfl
@[simp] theorem setIsl_thm (i st : Nat) (s : Sled) : (setIsl i st s).thm = s.thm := rfl
@[simp] theorem setIsl_outs (i st : Nat) (s : Sled) : (setIsl i st s).outs = s.outs := rfl
@[simp] theorem setIsl_stall (i st : Nat) (s : Sled) : (setIsl i st s).stall = s.stall := rfl

/-! ## updChan -/

@[simp] theorem updChan_now (st c : Nat) (f : Chan → Chan) (s : Sled) : (updChan st c f s).now = s.now := rfl
@[simp] theorem updChan_free (st c : Nat) (f : Chan → Chan) (s : Sled) : (updChan st c f s).free = s.free := rfl
@[simp] theorem updChan_seq (st c : Nat) (f : Chan → Chan) (s : Sled) : (updChan st c f s).seq = s.seq := rfl
@[simp] theorem updChan_plat (st c : Nat) (f : Chan → Chan) (s : Sled) : (updChan st c f s).plat = s.plat := rfl
@[simp] theorem updChan_isl (st c : Nat) (f : Chan → Chan) (s : Sled) : (updChan st c f s).isl = s.isl := rfl
@[simp] theorem updChan_ccRunning (st c : Nat) (f : Chan → Chan) (s : Sled) : (updChan st c f s).ccRunning = s.ccRunning := rfl
@[simp] theorem updChan_ccOffline (st c : Nat) (f : Chan → Chan) (s : Sled) : (updChan st c f s).ccOffline = s.ccOffline := rfl
@[simp] theorem updChan_ctlMem (st c : Nat) (f : Chan → Chan) (s : Sled) : (updChan st c f s).ctlMem = s.ctlMem := rfl
@[simp] theorem updChan_clearing (st c : Nat) (f : Chan → Chan) (s : Sled) : (updChan st c f s).clearing = s.clearing := rfl
@[simp] theorem updChan_cpu (st c : Nat) (f : Chan → Chan) (s : Sled) : (updChan st c f s).cpu = s.cpu := rfl
@[simp] theorem updChan_regs (st c : Nat) (f : Chan → Chan) (s : Sled) : (updChan st c f s).regs = s.regs := rfl
@[simp] theorem updChan_locked (st c : Nat) (f : Chan → Chan) (s : Sled) : (updChan st c f s).locked = s.locked := rfl
@[simp] theorem updChan_mem (st c : Nat) (f : Chan → Chan) (s : Sled) : (updChan st c f s).mem = s.mem := rfl
@[simp] theorem updChan_ecc (st c : Nat) (f : Chan → Chan) (s : Sled) : (updChan st c f s).ecc = s.ecc := rfl
@[simp] theorem updChan_kpr (st c : Nat) (f : Chan → Chan) (s : Sled) : (updChan st c f s).kpr = s.kpr := rfl
@[simp] theorem updChan_fl (st c : Nat) (f : Chan → Chan) (s : Sled) : (updChan st c f s).fl = s.fl := rfl
@[simp] theorem updChan_prof (st c : Nat) (f : Chan → Chan) (s : Sled) : (updChan st c f s).prof = s.prof := rfl
@[simp] theorem updChan_chan (st c : Nat) (f : Chan → Chan) (s : Sled) : (updChan st c f s).chan = fset s.chan {} (chanKey st c) (f (getChan s st c)) := rfl
@[simp] theorem updChan_mcs (st c : Nat) (f : Chan → Chan) (s : Sled) : (updChan st c f s).mcs = s.mcs := rfl
@[simp] theorem updChan_speedQ (st c : Nat) (f : Chan → Chan) (s : Sled) : (updChan st c f s).speedQ = s.speedQ := rfl
@[simp] theorem updChan_bank (st c : Nat) (f : Chan → Chan) (s : Sled) : (updChan st c f s).bank = s.bank := rfl
@[simp] theorem updChan_btm (st c : Nat) (f : Chan → Chan) (s : Sled) : (updChan st c f s).btm = s.btm := rfl
@[simp] theorem updChan_bcs (st c : Nat) (f : Chan → Chan) (s : Sled) : (updChan st c f s).bcs = s.bcs := rfl
@[simp] theorem updChan_xing (st c : Nat) (f : Chan → Chan) (s : Sled) : (updChan st c f s).xing = s.xing := rfl
@[simp] theorem updChan_vc (st c : Nat) (f : Chan → Chan) (s : Sled) : (updChan st c f s).vc = s.vc := rfl
@[simp] theorem updChan_ctr (st c : Nat) (f : Chan → Chan) (s : Sled) : (updChan st c f s).ctr = s.ctr := rfl
@[simp] theorem updChan_sem (st c : Nat) (f : Chan → Chan) (s : Sled) : (updChan st c f s).sem = s.sem := rfl
@[simp] theorem updChan_waits (st c : Nat) (f : Chan → Chan) (s : Sled) : (updChan st c f s).waits = s.waits := rfl
@[simp] theorem updChan_dld (st c : Nat) (f : Chan → Chan) (s : Sled) : (updChan st c f s).dld = s.dld := rfl
@[simp] theorem updChan_ste (st c : Nat) (f : Chan → Chan) (s : Sled) : (updChan st c f s).ste = s.ste := rfl
@[simp] theorem updChan_lnk (st c : Nat) (f : Chan → Chan) (s : Sled) : (updChan st c f s).lnk = s.lnk := rfl
@[simp] theorem updChan_fab (st c : Nat) (f : Chan → Chan) (s : Sled) : (updChan st c f s).fab = s.fab := rfl
@[simp] theorem updChan_hst (st c : Nat) (f : Chan → Chan) (s : Sled) : (updChan st c f s).hst = s.hst := rfl
@[simp] theorem updChan_thm (st c : Nat) (f : Chan → Chan) (s : Sled) : (updChan st c f s).thm = s.thm := rfl
@[simp] theorem updChan_outs (st c : Nat) (f : Chan → Chan) (s : Sled) : (updChan st c f s).outs = s.outs := rfl
@[simp] theorem updChan_stall (st c : Nat) (f : Chan → Chan) (s : Sled) : (updChan st c f s).stall = s.stall := rfl

/-! ## updMcs -/

@[simp] theorem updMcs_now (st : Nat) (f : Mcs → Mcs) (s : Sled) : (updMcs st f s).now = s.now := rfl
@[simp] theorem updMcs_free (st : Nat) (f : Mcs → Mcs) (s : Sled) : (updMcs st f s).free = s.free := rfl
@[simp] theorem updMcs_seq (st : Nat) (f : Mcs → Mcs) (s : Sled) : (updMcs st f s).seq = s.seq := rfl
@[simp] theorem updMcs_plat (st : Nat) (f : Mcs → Mcs) (s : Sled) : (updMcs st f s).plat = s.plat := rfl
@[simp] theorem updMcs_isl (st : Nat) (f : Mcs → Mcs) (s : Sled) : (updMcs st f s).isl = s.isl := rfl
@[simp] theorem updMcs_ccRunning (st : Nat) (f : Mcs → Mcs) (s : Sled) : (updMcs st f s).ccRunning = s.ccRunning := rfl
@[simp] theorem updMcs_ccOffline (st : Nat) (f : Mcs → Mcs) (s : Sled) : (updMcs st f s).ccOffline = s.ccOffline := rfl
@[simp] theorem updMcs_ctlMem (st : Nat) (f : Mcs → Mcs) (s : Sled) : (updMcs st f s).ctlMem = s.ctlMem := rfl
@[simp] theorem updMcs_clearing (st : Nat) (f : Mcs → Mcs) (s : Sled) : (updMcs st f s).clearing = s.clearing := rfl
@[simp] theorem updMcs_cpu (st : Nat) (f : Mcs → Mcs) (s : Sled) : (updMcs st f s).cpu = s.cpu := rfl
@[simp] theorem updMcs_regs (st : Nat) (f : Mcs → Mcs) (s : Sled) : (updMcs st f s).regs = s.regs := rfl
@[simp] theorem updMcs_locked (st : Nat) (f : Mcs → Mcs) (s : Sled) : (updMcs st f s).locked = s.locked := rfl
@[simp] theorem updMcs_mem (st : Nat) (f : Mcs → Mcs) (s : Sled) : (updMcs st f s).mem = s.mem := rfl
@[simp] theorem updMcs_ecc (st : Nat) (f : Mcs → Mcs) (s : Sled) : (updMcs st f s).ecc = s.ecc := rfl
@[simp] theorem updMcs_kpr (st : Nat) (f : Mcs → Mcs) (s : Sled) : (updMcs st f s).kpr = s.kpr := rfl
@[simp] theorem updMcs_fl (st : Nat) (f : Mcs → Mcs) (s : Sled) : (updMcs st f s).fl = s.fl := rfl
@[simp] theorem updMcs_prof (st : Nat) (f : Mcs → Mcs) (s : Sled) : (updMcs st f s).prof = s.prof := rfl
@[simp] theorem updMcs_chan (st : Nat) (f : Mcs → Mcs) (s : Sled) : (updMcs st f s).chan = s.chan := rfl
@[simp] theorem updMcs_mcs (st : Nat) (f : Mcs → Mcs) (s : Sled) : (updMcs st f s).mcs = fset s.mcs {} st (f (fget s.mcs {} st)) := rfl
@[simp] theorem updMcs_speedQ (st : Nat) (f : Mcs → Mcs) (s : Sled) : (updMcs st f s).speedQ = s.speedQ := rfl
@[simp] theorem updMcs_bank (st : Nat) (f : Mcs → Mcs) (s : Sled) : (updMcs st f s).bank = s.bank := rfl
@[simp] theorem updMcs_btm (st : Nat) (f : Mcs → Mcs) (s : Sled) : (updMcs st f s).btm = s.btm := rfl
@[simp] theorem updMcs_bcs (st : Nat) (f : Mcs → Mcs) (s : Sled) : (updMcs st f s).bcs = s.bcs := rfl
@[simp] theorem updMcs_xing (st : Nat) (f : Mcs → Mcs) (s : Sled) : (updMcs st f s).xing = s.xing := rfl
@[simp] theorem updMcs_vc (st : Nat) (f : Mcs → Mcs) (s : Sled) : (updMcs st f s).vc = s.vc := rfl
@[simp] theorem updMcs_ctr (st : Nat) (f : Mcs → Mcs) (s : Sled) : (updMcs st f s).ctr = s.ctr := rfl
@[simp] theorem updMcs_sem (st : Nat) (f : Mcs → Mcs) (s : Sled) : (updMcs st f s).sem = s.sem := rfl
@[simp] theorem updMcs_waits (st : Nat) (f : Mcs → Mcs) (s : Sled) : (updMcs st f s).waits = s.waits := rfl
@[simp] theorem updMcs_dld (st : Nat) (f : Mcs → Mcs) (s : Sled) : (updMcs st f s).dld = s.dld := rfl
@[simp] theorem updMcs_ste (st : Nat) (f : Mcs → Mcs) (s : Sled) : (updMcs st f s).ste = s.ste := rfl
@[simp] theorem updMcs_lnk (st : Nat) (f : Mcs → Mcs) (s : Sled) : (updMcs st f s).lnk = s.lnk := rfl
@[simp] theorem updMcs_fab (st : Nat) (f : Mcs → Mcs) (s : Sled) : (updMcs st f s).fab = s.fab := rfl
@[simp] theorem updMcs_hst (st : Nat) (f : Mcs → Mcs) (s : Sled) : (updMcs st f s).hst = s.hst := rfl
@[simp] theorem updMcs_thm (st : Nat) (f : Mcs → Mcs) (s : Sled) : (updMcs st f s).thm = s.thm := rfl
@[simp] theorem updMcs_outs (st : Nat) (f : Mcs → Mcs) (s : Sled) : (updMcs st f s).outs = s.outs := rfl
@[simp] theorem updMcs_stall (st : Nat) (f : Mcs → Mcs) (s : Sled) : (updMcs st f s).stall = s.stall := rfl

/-! ## alertOn -/

@[simp] theorem alertOn_now (s : Sled) : (alertOn s).now = s.now := rfl
@[simp] theorem alertOn_free (s : Sled) : (alertOn s).free = s.free := rfl
@[simp] theorem alertOn_seq (s : Sled) : (alertOn s).seq = s.seq := rfl
@[simp] theorem alertOn_plat (s : Sled) : (alertOn s).plat = s.plat := rfl
@[simp] theorem alertOn_isl (s : Sled) : (alertOn s).isl = s.isl := rfl
@[simp] theorem alertOn_ccRunning (s : Sled) : (alertOn s).ccRunning = s.ccRunning := rfl
@[simp] theorem alertOn_ccOffline (s : Sled) : (alertOn s).ccOffline = s.ccOffline := rfl
@[simp] theorem alertOn_ctlMem (s : Sled) : (alertOn s).ctlMem = s.ctlMem := rfl
@[simp] theorem alertOn_clearing (s : Sled) : (alertOn s).clearing = s.clearing := rfl
@[simp] theorem alertOn_cpu (s : Sled) : (alertOn s).cpu = s.cpu := rfl
@[simp] theorem alertOn_regs (s : Sled) : (alertOn s).regs = s.regs := rfl
@[simp] theorem alertOn_locked (s : Sled) : (alertOn s).locked = s.locked := rfl
@[simp] theorem alertOn_mem (s : Sled) : (alertOn s).mem = s.mem := rfl
@[simp] theorem alertOn_ecc (s : Sled) : (alertOn s).ecc = s.ecc := rfl
@[simp] theorem alertOn_kpr (s : Sled) : (alertOn s).kpr = { s.kpr with alert := true } := rfl
@[simp] theorem alertOn_fl (s : Sled) : (alertOn s).fl = s.fl := rfl
@[simp] theorem alertOn_prof (s : Sled) : (alertOn s).prof = s.prof := rfl
@[simp] theorem alertOn_chan (s : Sled) : (alertOn s).chan = s.chan := rfl
@[simp] theorem alertOn_mcs (s : Sled) : (alertOn s).mcs = s.mcs := rfl
@[simp] theorem alertOn_speedQ (s : Sled) : (alertOn s).speedQ = s.speedQ := rfl
@[simp] theorem alertOn_bank (s : Sled) : (alertOn s).bank = s.bank := rfl
@[simp] theorem alertOn_btm (s : Sled) : (alertOn s).btm = s.btm := rfl
@[simp] theorem alertOn_bcs (s : Sled) : (alertOn s).bcs = s.bcs := rfl
@[simp] theorem alertOn_xing (s : Sled) : (alertOn s).xing = s.xing := rfl
@[simp] theorem alertOn_vc (s : Sled) : (alertOn s).vc = s.vc := rfl
@[simp] theorem alertOn_ctr (s : Sled) : (alertOn s).ctr = s.ctr := rfl
@[simp] theorem alertOn_sem (s : Sled) : (alertOn s).sem = s.sem := rfl
@[simp] theorem alertOn_waits (s : Sled) : (alertOn s).waits = s.waits := rfl
@[simp] theorem alertOn_dld (s : Sled) : (alertOn s).dld = s.dld := rfl
@[simp] theorem alertOn_ste (s : Sled) : (alertOn s).ste = s.ste := rfl
@[simp] theorem alertOn_lnk (s : Sled) : (alertOn s).lnk = s.lnk := rfl
@[simp] theorem alertOn_fab (s : Sled) : (alertOn s).fab = s.fab := rfl
@[simp] theorem alertOn_hst (s : Sled) : (alertOn s).hst = s.hst := rfl
@[simp] theorem alertOn_thm (s : Sled) : (alertOn s).thm = s.thm := rfl
@[simp] theorem alertOn_outs (s : Sled) : (alertOn s).outs = s.outs := rfl
@[simp] theorem alertOn_stall (s : Sled) : (alertOn s).stall = s.stall := rfl

/-! ## progress -/

@[simp] theorem progress_now (t : Nat) (s : Sled) : (progress t s).now = s.now := rfl
@[simp] theorem progress_free (t : Nat) (s : Sled) : (progress t s).free = s.free := rfl
@[simp] theorem progress_seq (t : Nat) (s : Sled) : (progress t s).seq = s.seq := rfl
@[simp] theorem progress_plat (t : Nat) (s : Sled) : (progress t s).plat = s.plat := rfl
@[simp] theorem progress_isl (t : Nat) (s : Sled) : (progress t s).isl = s.isl := rfl
@[simp] theorem progress_ccRunning (t : Nat) (s : Sled) : (progress t s).ccRunning = s.ccRunning := rfl
@[simp] theorem progress_ccOffline (t : Nat) (s : Sled) : (progress t s).ccOffline = s.ccOffline := rfl
@[simp] theorem progress_ctlMem (t : Nat) (s : Sled) : (progress t s).ctlMem = s.ctlMem := rfl
@[simp] theorem progress_clearing (t : Nat) (s : Sled) : (progress t s).clearing = s.clearing := rfl
@[simp] theorem progress_cpu (t : Nat) (s : Sled) : (progress t s).cpu = s.cpu := rfl
@[simp] theorem progress_regs (t : Nat) (s : Sled) : (progress t s).regs = s.regs := rfl
@[simp] theorem progress_locked (t : Nat) (s : Sled) : (progress t s).locked = s.locked := rfl
@[simp] theorem progress_mem (t : Nat) (s : Sled) : (progress t s).mem = s.mem := rfl
@[simp] theorem progress_ecc (t : Nat) (s : Sled) : (progress t s).ecc = s.ecc := rfl
@[simp] theorem progress_kpr (t : Nat) (s : Sled) : (progress t s).kpr = s.kpr := rfl
@[simp] theorem progress_fl (t : Nat) (s : Sled) : (progress t s).fl = s.fl := rfl
@[simp] theorem progress_prof (t : Nat) (s : Sled) : (progress t s).prof = s.prof := rfl
@[simp] theorem progress_chan (t : Nat) (s : Sled) : (progress t s).chan = s.chan := rfl
@[simp] theorem progress_mcs (t : Nat) (s : Sled) : (progress t s).mcs = s.mcs := rfl
@[simp] theorem progress_speedQ (t : Nat) (s : Sled) : (progress t s).speedQ = s.speedQ := rfl
@[simp] theorem progress_bank (t : Nat) (s : Sled) : (progress t s).bank = s.bank := rfl
@[simp] theorem progress_btm (t : Nat) (s : Sled) : (progress t s).btm = s.btm := rfl
@[simp] theorem progress_bcs (t : Nat) (s : Sled) : (progress t s).bcs = s.bcs := rfl
@[simp] theorem progress_xing (t : Nat) (s : Sled) : (progress t s).xing = s.xing := rfl
@[simp] theorem progress_vc (t : Nat) (s : Sled) : (progress t s).vc = s.vc := rfl
@[simp] theorem progress_ctr (t : Nat) (s : Sled) : (progress t s).ctr = s.ctr := rfl
@[simp] theorem progress_sem (t : Nat) (s : Sled) : (progress t s).sem = s.sem := rfl
@[simp] theorem progress_waits (t : Nat) (s : Sled) : (progress t s).waits = s.waits := rfl
@[simp] theorem progress_dld (t : Nat) (s : Sled) : (progress t s).dld = fset s.dld {} t { fget s.dld {} t with progress := true } := rfl
@[simp] theorem progress_ste (t : Nat) (s : Sled) : (progress t s).ste = s.ste := rfl
@[simp] theorem progress_lnk (t : Nat) (s : Sled) : (progress t s).lnk = s.lnk := rfl
@[simp] theorem progress_fab (t : Nat) (s : Sled) : (progress t s).fab = s.fab := rfl
@[simp] theorem progress_hst (t : Nat) (s : Sled) : (progress t s).hst = s.hst := rfl
@[simp] theorem progress_thm (t : Nat) (s : Sled) : (progress t s).thm = s.thm := rfl
@[simp] theorem progress_outs (t : Nat) (s : Sled) : (progress t s).outs = s.outs := rfl
@[simp] theorem progress_stall (t : Nat) (s : Sled) : (progress t s).stall = s.stall := rfl

/-! ## setStall -/

@[simp] theorem setStall_now (s : Sled) : (setStall s).now = s.now := rfl
@[simp] theorem setStall_free (s : Sled) : (setStall s).free = s.free := rfl
@[simp] theorem setStall_seq (s : Sled) : (setStall s).seq = s.seq := rfl
@[simp] theorem setStall_plat (s : Sled) : (setStall s).plat = s.plat := rfl
@[simp] theorem setStall_isl (s : Sled) : (setStall s).isl = s.isl := rfl
@[simp] theorem setStall_ccRunning (s : Sled) : (setStall s).ccRunning = s.ccRunning := rfl
@[simp] theorem setStall_ccOffline (s : Sled) : (setStall s).ccOffline = s.ccOffline := rfl
@[simp] theorem setStall_ctlMem (s : Sled) : (setStall s).ctlMem = s.ctlMem := rfl
@[simp] theorem setStall_clearing (s : Sled) : (setStall s).clearing = s.clearing := rfl
@[simp] theorem setStall_cpu (s : Sled) : (setStall s).cpu = s.cpu := rfl
@[simp] theorem setStall_regs (s : Sled) : (setStall s).regs = s.regs := rfl
@[simp] theorem setStall_locked (s : Sled) : (setStall s).locked = s.locked := rfl
@[simp] theorem setStall_mem (s : Sled) : (setStall s).mem = s.mem := rfl
@[simp] theorem setStall_ecc (s : Sled) : (setStall s).ecc = s.ecc := rfl
@[simp] theorem setStall_kpr (s : Sled) : (setStall s).kpr = s.kpr := rfl
@[simp] theorem setStall_fl (s : Sled) : (setStall s).fl = s.fl := rfl
@[simp] theorem setStall_prof (s : Sled) : (setStall s).prof = s.prof := rfl
@[simp] theorem setStall_chan (s : Sled) : (setStall s).chan = s.chan := rfl
@[simp] theorem setStall_mcs (s : Sled) : (setStall s).mcs = s.mcs := rfl
@[simp] theorem setStall_speedQ (s : Sled) : (setStall s).speedQ = s.speedQ := rfl
@[simp] theorem setStall_bank (s : Sled) : (setStall s).bank = s.bank := rfl
@[simp] theorem setStall_btm (s : Sled) : (setStall s).btm = s.btm := rfl
@[simp] theorem setStall_bcs (s : Sled) : (setStall s).bcs = s.bcs := rfl
@[simp] theorem setStall_xing (s : Sled) : (setStall s).xing = s.xing := rfl
@[simp] theorem setStall_vc (s : Sled) : (setStall s).vc = s.vc := rfl
@[simp] theorem setStall_ctr (s : Sled) : (setStall s).ctr = s.ctr := rfl
@[simp] theorem setStall_sem (s : Sled) : (setStall s).sem = s.sem := rfl
@[simp] theorem setStall_waits (s : Sled) : (setStall s).waits = s.waits := rfl
@[simp] theorem setStall_dld (s : Sled) : (setStall s).dld = s.dld := rfl
@[simp] theorem setStall_ste (s : Sled) : (setStall s).ste = s.ste := rfl
@[simp] theorem setStall_lnk (s : Sled) : (setStall s).lnk = s.lnk := rfl
@[simp] theorem setStall_fab (s : Sled) : (setStall s).fab = s.fab := rfl
@[simp] theorem setStall_hst (s : Sled) : (setStall s).hst = s.hst := rfl
@[simp] theorem setStall_thm (s : Sled) : (setStall s).thm = s.thm := rfl
@[simp] theorem setStall_outs (s : Sled) : (setStall s).outs = s.outs := rfl
@[simp] theorem setStall_stall (s : Sled) : (setStall s).stall = true := rfl

end Sys2Proof.Machine
end

