-- ==== Sys2Proof/Laws/Ops.lean ====
section
/-! SUPPORT. What the shared operations can do: the register file, interrupts to the host, error records. Each frame
lemma says which fields an operation may change; the others stay as they were. -/

namespace Sys2Proof.Machine

set_option Elab.async false

open Sys2Proof

/-- A command whose accesses proceed takes its whole effect. -/
theorem liftHold_eq {f : Sled → Sled} {s : State} (h : (f s.sled).stall = s.sled.stall) :
    liftHold f s = .next { s with sled := f s.sled } := by simp [liftHold, h]

/-- A command with an access that has to wait changes nothing. -/
theorem liftHold_wait {f : Sled → Sled} {s : State} (h : (f s.sled).stall ≠ s.sled.stall) :
    liftHold f s = .next s := by simp [liftHold, h]

@[simp] theorem lift_eq (f : Sled → Sled) (s : State) : lift f s = .next { s with sled := f s.sled } := rfl

/-! ## Registers -/

/-- A register just set reads its value. -/
@[simp] theorem rGet_rSet_same (blk off v : Nat) (s : Sled) : rGet (rSet blk off v s) blk off = v % 2 ^ 64 := by
  simp [rGet]

/-- Setting one register leaves every other. -/
theorem rGet_rSet_other (blk off v : Nat) (s : Sled) {b o : Nat} (h : regKey b o ≠ regKey blk off) :
    rGet (rSet blk off v s) b o = rGet s b o := by
  unfold rGet
  rw [rSet_regs, fget_fset_other_default _ _ _ _ h]

theorem rGet_lt (s : Sled) (blk off : Nat) : rGet s blk off < 2 ^ 64 := (fget s.regs _ _).isLt

/-- A trouble counter saturates (spec/18, R367). -/
theorem rGet_bumpN (blk off n : Nat) (s : Sled) :
    rGet (bumpN blk off n s) blk off = min (rGet s blk off + n) (if kt3 s then 0xFFFF else 0xFFFFFFFF) := by
  unfold bumpN
  rw [rGet_rSet_same]
  refine Nat.mod_eq_of_lt ?_
  split <;> omega

/-! ## Islands -/

@[simp] theorem islState_setIsl (i st : Nat) (s : Sled) : islState (setIsl i st s) i = st := by
  simp [islState]

theorem islState_setIsl_other (i st : Nat) (s : Sled) {j : Nat} (h : j ≠ i) :
    islState (setIsl i st s) j = islState s j := by
  simp [islState, fget_fset_other _ _ _ h]

/-! ## Frames -/

/-- A trouble counter changes registers only. -/
theorem bumpN_frame (blk off n : Nat) (s : Sled) :
    bumpN blk off n s = { s with regs := (bumpN blk off n s).regs } := by
  rfl

@[simp] theorem bumpN_now (blk off n : Nat) (s : Sled) : (bumpN blk off n s).now = s.now := by rw [bumpN_frame]
@[simp] theorem bumpN_free (blk off n : Nat) (s : Sled) : (bumpN blk off n s).free = s.free := by rw [bumpN_frame]
@[simp] theorem bumpN_seq (blk off n : Nat) (s : Sled) : (bumpN blk off n s).seq = s.seq := by rw [bumpN_frame]
@[simp] theorem bumpN_plat (blk off n : Nat) (s : Sled) : (bumpN blk off n s).plat = s.plat := by rw [bumpN_frame]
@[simp] theorem bumpN_isl (blk off n : Nat) (s : Sled) : (bumpN blk off n s).isl = s.isl := by rw [bumpN_frame]
@[simp] theorem bumpN_ccRunning (blk off n : Nat) (s : Sled) : (bumpN blk off n s).ccRunning = s.ccRunning := by rw [bumpN_frame]
@[simp] theorem bumpN_ccOffline (blk off n : Nat) (s : Sled) : (bumpN blk off n s).ccOffline = s.ccOffline := by rw [bumpN_frame]
@[simp] theorem bumpN_ctlMem (blk off n : Nat) (s : Sled) : (bumpN blk off n s).ctlMem = s.ctlMem := by rw [bumpN_frame]
@[simp] theorem bumpN_clearing (blk off n : Nat) (s : Sled) : (bumpN blk off n s).clearing = s.clearing := by rw [bumpN_frame]
@[simp] theorem bumpN_cpu (blk off n : Nat) (s : Sled) : (bumpN blk off n s).cpu = s.cpu := by rw [bumpN_frame]
@[simp] theorem bumpN_locked (blk off n : Nat) (s : Sled) : (bumpN blk off n s).locked = s.locked := by rw [bumpN_frame]
@[simp] theorem bumpN_mem (blk off n : Nat) (s : Sled) : (bumpN blk off n s).mem = s.mem := by rw [bumpN_frame]
@[simp] theorem bumpN_ecc (blk off n : Nat) (s : Sled) : (bumpN blk off n s).ecc = s.ecc := by rw [bumpN_frame]
@[simp] theorem bumpN_kpr (blk off n : Nat) (s : Sled) : (bumpN blk off n s).kpr = s.kpr := by rw [bumpN_frame]
@[simp] theorem bumpN_fl (blk off n : Nat) (s : Sled) : (bumpN blk off n s).fl = s.fl := by rw [bumpN_frame]
@[simp] theorem bumpN_prof (blk off n : Nat) (s : Sled) : (bumpN blk off n s).prof = s.prof := by rw [bumpN_frame]
@[simp] theorem bumpN_chan (blk off n : Nat) (s : Sled) : (bumpN blk off n s).chan = s.chan := by rw [bumpN_frame]
@[simp] theorem bumpN_mcs (blk off n : Nat) (s : Sled) : (bumpN blk off n s).mcs = s.mcs := by rw [bumpN_frame]
@[simp] theorem bumpN_speedQ (blk off n : Nat) (s : Sled) : (bumpN blk off n s).speedQ = s.speedQ := by rw [bumpN_frame]
@[simp] theorem bumpN_bank (blk off n : Nat) (s : Sled) : (bumpN blk off n s).bank = s.bank := by rw [bumpN_frame]
@[simp] theorem bumpN_btm (blk off n : Nat) (s : Sled) : (bumpN blk off n s).btm = s.btm := by rw [bumpN_frame]
@[simp] theorem bumpN_bcs (blk off n : Nat) (s : Sled) : (bumpN blk off n s).bcs = s.bcs := by rw [bumpN_frame]
@[simp] theorem bumpN_xing (blk off n : Nat) (s : Sled) : (bumpN blk off n s).xing = s.xing := by rw [bumpN_frame]
@[simp] theorem bumpN_vc (blk off n : Nat) (s : Sled) : (bumpN blk off n s).vc = s.vc := by rw [bumpN_frame]
@[simp] theorem bumpN_ctr (blk off n : Nat) (s : Sled) : (bumpN blk off n s).ctr = s.ctr := by rw [bumpN_frame]
@[simp] theorem bumpN_sem (blk off n : Nat) (s : Sled) : (bumpN blk off n s).sem = s.sem := by rw [bumpN_frame]
@[simp] theorem bumpN_waits (blk off n : Nat) (s : Sled) : (bumpN blk off n s).waits = s.waits := by rw [bumpN_frame]
@[simp] theorem bumpN_dld (blk off n : Nat) (s : Sled) : (bumpN blk off n s).dld = s.dld := by rw [bumpN_frame]
@[simp] theorem bumpN_ste (blk off n : Nat) (s : Sled) : (bumpN blk off n s).ste = s.ste := by rw [bumpN_frame]
@[simp] theorem bumpN_lnk (blk off n : Nat) (s : Sled) : (bumpN blk off n s).lnk = s.lnk := by rw [bumpN_frame]
@[simp] theorem bumpN_fab (blk off n : Nat) (s : Sled) : (bumpN blk off n s).fab = s.fab := by rw [bumpN_frame]
@[simp] theorem bumpN_hst (blk off n : Nat) (s : Sled) : (bumpN blk off n s).hst = s.hst := by rw [bumpN_frame]
@[simp] theorem bumpN_thm (blk off n : Nat) (s : Sled) : (bumpN blk off n s).thm = s.thm := by rw [bumpN_frame]
@[simp] theorem bumpN_stall (blk off n : Nat) (s : Sled) : (bumpN blk off n s).stall = s.stall := by rw [bumpN_frame]
@[simp] theorem bumpN_outs (blk off n : Nat) (s : Sled) : (bumpN blk off n s).outs = s.outs := by rw [bumpN_frame]

/-- A trouble counter changes registers only. -/
theorem bump_frame (blk off : Nat) (s : Sled) :
    bump blk off s = { s with regs := (bump blk off s).regs } := by
  rfl

@[simp] theorem bump_now (blk off : Nat) (s : Sled) : (bump blk off s).now = s.now := by rw [bump_frame]
@[simp] theorem bump_free (blk off : Nat) (s : Sled) : (bump blk off s).free = s.free := by rw [bump_frame]
@[simp] theorem bump_seq (blk off : Nat) (s : Sled) : (bump blk off s).seq = s.seq := by rw [bump_frame]
@[simp] theorem bump_plat (blk off : Nat) (s : Sled) : (bump blk off s).plat = s.plat := by rw [bump_frame]
@[simp] theorem bump_isl (blk off : Nat) (s : Sled) : (bump blk off s).isl = s.isl := by rw [bump_frame]
@[simp] theorem bump_ccRunning (blk off : Nat) (s : Sled) : (bump blk off s).ccRunning = s.ccRunning := by rw [bump_frame]
@[simp] theorem bump_ccOffline (blk off : Nat) (s : Sled) : (bump blk off s).ccOffline = s.ccOffline := by rw [bump_frame]
@[simp] theorem bump_ctlMem (blk off : Nat) (s : Sled) : (bump blk off s).ctlMem = s.ctlMem := by rw [bump_frame]
@[simp] theorem bump_clearing (blk off : Nat) (s : Sled) : (bump blk off s).clearing = s.clearing := by rw [bump_frame]
@[simp] theorem bump_cpu (blk off : Nat) (s : Sled) : (bump blk off s).cpu = s.cpu := by rw [bump_frame]
@[simp] theorem bump_locked (blk off : Nat) (s : Sled) : (bump blk off s).locked = s.locked := by rw [bump_frame]
@[simp] theorem bump_mem (blk off : Nat) (s : Sled) : (bump blk off s).mem = s.mem := by rw [bump_frame]
@[simp] theorem bump_ecc (blk off : Nat) (s : Sled) : (bump blk off s).ecc = s.ecc := by rw [bump_frame]
@[simp] theorem bump_kpr (blk off : Nat) (s : Sled) : (bump blk off s).kpr = s.kpr := by rw [bump_frame]
@[simp] theorem bump_fl (blk off : Nat) (s : Sled) : (bump blk off s).fl = s.fl := by rw [bump_frame]
@[simp] theorem bump_prof (blk off : Nat) (s : Sled) : (bump blk off s).prof = s.prof := by rw [bump_frame]
@[simp] theorem bump_chan (blk off : Nat) (s : Sled) : (bump blk off s).chan = s.chan := by rw [bump_frame]
@[simp] theorem bump_mcs (blk off : Nat) (s : Sled) : (bump blk off s).mcs = s.mcs := by rw [bump_frame]
@[simp] theorem bump_speedQ (blk off : Nat) (s : Sled) : (bump blk off s).speedQ = s.speedQ := by rw [bump_frame]
@[simp] theorem bump_bank (blk off : Nat) (s : Sled) : (bump blk off s).bank = s.bank := by rw [bump_frame]
@[simp] theorem bump_btm (blk off : Nat) (s : Sled) : (bump blk off s).btm = s.btm := by rw [bump_frame]
@[simp] theorem bump_bcs (blk off : Nat) (s : Sled) : (bump blk off s).bcs = s.bcs := by rw [bump_frame]
@[simp] theorem bump_xing (blk off : Nat) (s : Sled) : (bump blk off s).xing = s.xing := by rw [bump_frame]
@[simp] theorem bump_vc (blk off : Nat) (s : Sled) : (bump blk off s).vc = s.vc := by rw [bump_frame]
@[simp] theorem bump_ctr (blk off : Nat) (s : Sled) : (bump blk off s).ctr = s.ctr := by rw [bump_frame]
@[simp] theorem bump_sem (blk off : Nat) (s : Sled) : (bump blk off s).sem = s.sem := by rw [bump_frame]
@[simp] theorem bump_waits (blk off : Nat) (s : Sled) : (bump blk off s).waits = s.waits := by rw [bump_frame]
@[simp] theorem bump_dld (blk off : Nat) (s : Sled) : (bump blk off s).dld = s.dld := by rw [bump_frame]
@[simp] theorem bump_ste (blk off : Nat) (s : Sled) : (bump blk off s).ste = s.ste := by rw [bump_frame]
@[simp] theorem bump_lnk (blk off : Nat) (s : Sled) : (bump blk off s).lnk = s.lnk := by rw [bump_frame]
@[simp] theorem bump_fab (blk off : Nat) (s : Sled) : (bump blk off s).fab = s.fab := by rw [bump_frame]
@[simp] theorem bump_hst (blk off : Nat) (s : Sled) : (bump blk off s).hst = s.hst := by rw [bump_frame]
@[simp] theorem bump_thm (blk off : Nat) (s : Sled) : (bump blk off s).thm = s.thm := by rw [bump_frame]
@[simp] theorem bump_stall (blk off : Nat) (s : Sled) : (bump blk off s).stall = s.stall := by rw [bump_frame]
@[simp] theorem bump_outs (blk off : Nat) (s : Sled) : (bump blk off s).outs = s.outs := by rw [bump_frame]

/-- An interrupt vector is sent or becomes pending. -/
theorem msixSend_frame (fn vec : Nat) (s : Sled) :
    msixSend fn vec s = { s with hst := (msixSend fn vec s).hst, outs := (msixSend fn vec s).outs } := by
  unfold msixSend
  split
  · rfl
  · simp only
    split <;> rfl

@[simp] theorem msixSend_now (fn vec : Nat) (s : Sled) : (msixSend fn vec s).now = s.now := by rw [msixSend_frame]
@[simp] theorem msixSend_free (fn vec : Nat) (s : Sled) : (msixSend fn vec s).free = s.free := by rw [msixSend_frame]
@[simp] theorem msixSend_seq (fn vec : Nat) (s : Sled) : (msixSend fn vec s).seq = s.seq := by rw [msixSend_frame]
@[simp] theorem msixSend_plat (fn vec : Nat) (s : Sled) : (msixSend fn vec s).plat = s.plat := by rw [msixSend_frame]
@[simp] theorem msixSend_isl (fn vec : Nat) (s : Sled) : (msixSend fn vec s).isl = s.isl := by rw [msixSend_frame]
@[simp] theorem msixSend_ccRunning (fn vec : Nat) (s : Sled) : (msixSend fn vec s).ccRunning = s.ccRunning := by rw [msixSend_frame]
@[simp] theorem msixSend_ccOffline (fn vec : Nat) (s : Sled) : (msixSend fn vec s).ccOffline = s.ccOffline := by rw [msixSend_frame]
@[simp] theorem msixSend_ctlMem (fn vec : Nat) (s : Sled) : (msixSend fn vec s).ctlMem = s.ctlMem := by rw [msixSend_frame]
@[simp] theorem msixSend_clearing (fn vec : Nat) (s : Sled) : (msixSend fn vec s).clearing = s.clearing := by rw [msixSend_frame]
@[simp] theorem msixSend_cpu (fn vec : Nat) (s : Sled) : (msixSend fn vec s).cpu = s.cpu := by rw [msixSend_frame]
@[simp] theorem msixSend_regs (fn vec : Nat) (s : Sled) : (msixSend fn vec s).regs = s.regs := by rw [msixSend_frame]
@[simp] theorem msixSend_locked (fn vec : Nat) (s : Sled) : (msixSend fn vec s).locked = s.locked := by rw [msixSend_frame]
@[simp] theorem msixSend_mem (fn vec : Nat) (s : Sled) : (msixSend fn vec s).mem = s.mem := by rw [msixSend_frame]
@[simp] theorem msixSend_ecc (fn vec : Nat) (s : Sled) : (msixSend fn vec s).ecc = s.ecc := by rw [msixSend_frame]
@[simp] theorem msixSend_kpr (fn vec : Nat) (s : Sled) : (msixSend fn vec s).kpr = s.kpr := by rw [msixSend_frame]
@[simp] theorem msixSend_fl (fn vec : Nat) (s : Sled) : (msixSend fn vec s).fl = s.fl := by rw [msixSend_frame]
@[simp] theorem msixSend_prof (fn vec : Nat) (s : Sled) : (msixSend fn vec s).prof = s.prof := by rw [msixSend_frame]
@[simp] theorem msixSend_chan (fn vec : Nat) (s : Sled) : (msixSend fn vec s).chan = s.chan := by rw [msixSend_frame]
@[simp] theorem msixSend_mcs (fn vec : Nat) (s : Sled) : (msixSend fn vec s).mcs = s.mcs := by rw [msixSend_frame]
@[simp] theorem msixSend_speedQ (fn vec : Nat) (s : Sled) : (msixSend fn vec s).speedQ = s.speedQ := by rw [msixSend_frame]
@[simp] theorem msixSend_bank (fn vec : Nat) (s : Sled) : (msixSend fn vec s).bank = s.bank := by rw [msixSend_frame]
@[simp] theorem msixSend_btm (fn vec : Nat) (s : Sled) : (msixSend fn vec s).btm = s.btm := by rw [msixSend_frame]
@[simp] theorem msixSend_bcs (fn vec : Nat) (s : Sled) : (msixSend fn vec s).bcs = s.bcs := by rw [msixSend_frame]
@[simp] theorem msixSend_xing (fn vec : Nat) (s : Sled) : (msixSend fn vec s).xing = s.xing := by rw [msixSend_frame]
@[simp] theorem msixSend_vc (fn vec : Nat) (s : Sled) : (msixSend fn vec s).vc = s.vc := by rw [msixSend_frame]
@[simp] theorem msixSend_ctr (fn vec : Nat) (s : Sled) : (msixSend fn vec s).ctr = s.ctr := by rw [msixSend_frame]
@[simp] theorem msixSend_sem (fn vec : Nat) (s : Sled) : (msixSend fn vec s).sem = s.sem := by rw [msixSend_frame]
@[simp] theorem msixSend_waits (fn vec : Nat) (s : Sled) : (msixSend fn vec s).waits = s.waits := by rw [msixSend_frame]
@[simp] theorem msixSend_dld (fn vec : Nat) (s : Sled) : (msixSend fn vec s).dld = s.dld := by rw [msixSend_frame]
@[simp] theorem msixSend_ste (fn vec : Nat) (s : Sled) : (msixSend fn vec s).ste = s.ste := by rw [msixSend_frame]
@[simp] theorem msixSend_lnk (fn vec : Nat) (s : Sled) : (msixSend fn vec s).lnk = s.lnk := by rw [msixSend_frame]
@[simp] theorem msixSend_fab (fn vec : Nat) (s : Sled) : (msixSend fn vec s).fab = s.fab := by rw [msixSend_frame]
@[simp] theorem msixSend_thm (fn vec : Nat) (s : Sled) : (msixSend fn vec s).thm = s.thm := by rw [msixSend_frame]
@[simp] theorem msixSend_stall (fn vec : Nat) (s : Sled) : (msixSend fn vec s).stall = s.stall := by rw [msixSend_frame]

/-- A function's event bit and vector 0. -/
theorem vfEvent_frame (t b : Nat) (s : Sled) :
    vfEvent t b s = { s with regs := (vfEvent t b s).regs, hst := (vfEvent t b s).hst, outs := (vfEvent t b s).outs } := by
  unfold vfEvent
  split
  · rfl
  · simp only
    split
    · rfl
    · rw [msixSend_frame]; rfl

@[simp] theorem vfEvent_now (t b : Nat) (s : Sled) : (vfEvent t b s).now = s.now := by rw [vfEvent_frame]
@[simp] theorem vfEvent_free (t b : Nat) (s : Sled) : (vfEvent t b s).free = s.free := by rw [vfEvent_frame]
@[simp] theorem vfEvent_seq (t b : Nat) (s : Sled) : (vfEvent t b s).seq = s.seq := by rw [vfEvent_frame]
@[simp] theorem vfEvent_plat (t b : Nat) (s : Sled) : (vfEvent t b s).plat = s.plat := by rw [vfEvent_frame]
@[simp] theorem vfEvent_isl (t b : Nat) (s : Sled) : (vfEvent t b s).isl = s.isl := by rw [vfEvent_frame]
@[simp] theorem vfEvent_ccRunning (t b : Nat) (s : Sled) : (vfEvent t b s).ccRunning = s.ccRunning := by rw [vfEvent_frame]
@[simp] theorem vfEvent_ccOffline (t b : Nat) (s : Sled) : (vfEvent t b s).ccOffline = s.ccOffline := by rw [vfEvent_frame]
@[simp] theorem vfEvent_ctlMem (t b : Nat) (s : Sled) : (vfEvent t b s).ctlMem = s.ctlMem := by rw [vfEvent_frame]
@[simp] theorem vfEvent_clearing (t b : Nat) (s : Sled) : (vfEvent t b s).clearing = s.clearing := by rw [vfEvent_frame]
@[simp] theorem vfEvent_cpu (t b : Nat) (s : Sled) : (vfEvent t b s).cpu = s.cpu := by rw [vfEvent_frame]
@[simp] theorem vfEvent_locked (t b : Nat) (s : Sled) : (vfEvent t b s).locked = s.locked := by rw [vfEvent_frame]
@[simp] theorem vfEvent_mem (t b : Nat) (s : Sled) : (vfEvent t b s).mem = s.mem := by rw [vfEvent_frame]
@[simp] theorem vfEvent_ecc (t b : Nat) (s : Sled) : (vfEvent t b s).ecc = s.ecc := by rw [vfEvent_frame]
@[simp] theorem vfEvent_kpr (t b : Nat) (s : Sled) : (vfEvent t b s).kpr = s.kpr := by rw [vfEvent_frame]
@[simp] theorem vfEvent_fl (t b : Nat) (s : Sled) : (vfEvent t b s).fl = s.fl := by rw [vfEvent_frame]
@[simp] theorem vfEvent_prof (t b : Nat) (s : Sled) : (vfEvent t b s).prof = s.prof := by rw [vfEvent_frame]
@[simp] theorem vfEvent_chan (t b : Nat) (s : Sled) : (vfEvent t b s).chan = s.chan := by rw [vfEvent_frame]
@[simp] theorem vfEvent_mcs (t b : Nat) (s : Sled) : (vfEvent t b s).mcs = s.mcs := by rw [vfEvent_frame]
@[simp] theorem vfEvent_speedQ (t b : Nat) (s : Sled) : (vfEvent t b s).speedQ = s.speedQ := by rw [vfEvent_frame]
@[simp] theorem vfEvent_bank (t b : Nat) (s : Sled) : (vfEvent t b s).bank = s.bank := by rw [vfEvent_frame]
@[simp] theorem vfEvent_btm (t b : Nat) (s : Sled) : (vfEvent t b s).btm = s.btm := by rw [vfEvent_frame]
@[simp] theorem vfEvent_bcs (t b : Nat) (s : Sled) : (vfEvent t b s).bcs = s.bcs := by rw [vfEvent_frame]
@[simp] theorem vfEvent_xing (t b : Nat) (s : Sled) : (vfEvent t b s).xing = s.xing := by rw [vfEvent_frame]
@[simp] theorem vfEvent_vc (t b : Nat) (s : Sled) : (vfEvent t b s).vc = s.vc := by rw [vfEvent_frame]
@[simp] theorem vfEvent_ctr (t b : Nat) (s : Sled) : (vfEvent t b s).ctr = s.ctr := by rw [vfEvent_frame]
@[simp] theorem vfEvent_sem (t b : Nat) (s : Sled) : (vfEvent t b s).sem = s.sem := by rw [vfEvent_frame]
@[simp] theorem vfEvent_waits (t b : Nat) (s : Sled) : (vfEvent t b s).waits = s.waits := by rw [vfEvent_frame]
@[simp] theorem vfEvent_dld (t b : Nat) (s : Sled) : (vfEvent t b s).dld = s.dld := by rw [vfEvent_frame]
@[simp] theorem vfEvent_ste (t b : Nat) (s : Sled) : (vfEvent t b s).ste = s.ste := by rw [vfEvent_frame]
@[simp] theorem vfEvent_lnk (t b : Nat) (s : Sled) : (vfEvent t b s).lnk = s.lnk := by rw [vfEvent_frame]
@[simp] theorem vfEvent_fab (t b : Nat) (s : Sled) : (vfEvent t b s).fab = s.fab := by rw [vfEvent_frame]
@[simp] theorem vfEvent_thm (t b : Nat) (s : Sled) : (vfEvent t b s).thm = s.thm := by rw [vfEvent_frame]
@[simp] theorem vfEvent_stall (t b : Nat) (s : Sled) : (vfEvent t b s).stall = s.stall := by rw [vfEvent_frame]

/-- A platform event goes out or not. -/
theorem platEvent_frame (kind arg : Nat) (s : Sled) :
    platEvent kind arg s = { s with outs := (platEvent kind arg s).outs } := by
  unfold platEvent
  split <;> rfl

@[simp] theorem platEvent_now (kind arg : Nat) (s : Sled) : (platEvent kind arg s).now = s.now := by rw [platEvent_frame]
@[simp] theorem platEvent_free (kind arg : Nat) (s : Sled) : (platEvent kind arg s).free = s.free := by rw [platEvent_frame]
@[simp] theorem platEvent_seq (kind arg : Nat) (s : Sled) : (platEvent kind arg s).seq = s.seq := by rw [platEvent_frame]
@[simp] theorem platEvent_plat (kind arg : Nat) (s : Sled) : (platEvent kind arg s).plat = s.plat := by rw [platEvent_frame]
@[simp] theorem platEvent_isl (kind arg : Nat) (s : Sled) : (platEvent kind arg s).isl = s.isl := by rw [platEvent_frame]
@[simp] theorem platEvent_ccRunning (kind arg : Nat) (s : Sled) : (platEvent kind arg s).ccRunning = s.ccRunning := by rw [platEvent_frame]
@[simp] theorem platEvent_ccOffline (kind arg : Nat) (s : Sled) : (platEvent kind arg s).ccOffline = s.ccOffline := by rw [platEvent_frame]
@[simp] theorem platEvent_ctlMem (kind arg : Nat) (s : Sled) : (platEvent kind arg s).ctlMem = s.ctlMem := by rw [platEvent_frame]
@[simp] theorem platEvent_clearing (kind arg : Nat) (s : Sled) : (platEvent kind arg s).clearing = s.clearing := by rw [platEvent_frame]
@[simp] theorem platEvent_cpu (kind arg : Nat) (s : Sled) : (platEvent kind arg s).cpu = s.cpu := by rw [platEvent_frame]
@[simp] theorem platEvent_regs (kind arg : Nat) (s : Sled) : (platEvent kind arg s).regs = s.regs := by rw [platEvent_frame]
@[simp] theorem platEvent_locked (kind arg : Nat) (s : Sled) : (platEvent kind arg s).locked = s.locked := by rw [platEvent_frame]
@[simp] theorem platEvent_mem (kind arg : Nat) (s : Sled) : (platEvent kind arg s).mem = s.mem := by rw [platEvent_frame]
@[simp] theorem platEvent_ecc (kind arg : Nat) (s : Sled) : (platEvent kind arg s).ecc = s.ecc := by rw [platEvent_frame]
@[simp] theorem platEvent_kpr (kind arg : Nat) (s : Sled) : (platEvent kind arg s).kpr = s.kpr := by rw [platEvent_frame]
@[simp] theorem platEvent_fl (kind arg : Nat) (s : Sled) : (platEvent kind arg s).fl = s.fl := by rw [platEvent_frame]
@[simp] theorem platEvent_prof (kind arg : Nat) (s : Sled) : (platEvent kind arg s).prof = s.prof := by rw [platEvent_frame]
@[simp] theorem platEvent_chan (kind arg : Nat) (s : Sled) : (platEvent kind arg s).chan = s.chan := by rw [platEvent_frame]
@[simp] theorem platEvent_mcs (kind arg : Nat) (s : Sled) : (platEvent kind arg s).mcs = s.mcs := by rw [platEvent_frame]
@[simp] theorem platEvent_speedQ (kind arg : Nat) (s : Sled) : (platEvent kind arg s).speedQ = s.speedQ := by rw [platEvent_frame]
@[simp] theorem platEvent_bank (kind arg : Nat) (s : Sled) : (platEvent kind arg s).bank = s.bank := by rw [platEvent_frame]
@[simp] theorem platEvent_btm (kind arg : Nat) (s : Sled) : (platEvent kind arg s).btm = s.btm := by rw [platEvent_frame]
@[simp] theorem platEvent_bcs (kind arg : Nat) (s : Sled) : (platEvent kind arg s).bcs = s.bcs := by rw [platEvent_frame]
@[simp] theorem platEvent_xing (kind arg : Nat) (s : Sled) : (platEvent kind arg s).xing = s.xing := by rw [platEvent_frame]
@[simp] theorem platEvent_vc (kind arg : Nat) (s : Sled) : (platEvent kind arg s).vc = s.vc := by rw [platEvent_frame]
@[simp] theorem platEvent_ctr (kind arg : Nat) (s : Sled) : (platEvent kind arg s).ctr = s.ctr := by rw [platEvent_frame]
@[simp] theorem platEvent_sem (kind arg : Nat) (s : Sled) : (platEvent kind arg s).sem = s.sem := by rw [platEvent_frame]
@[simp] theorem platEvent_waits (kind arg : Nat) (s : Sled) : (platEvent kind arg s).waits = s.waits := by rw [platEvent_frame]
@[simp] theorem platEvent_dld (kind arg : Nat) (s : Sled) : (platEvent kind arg s).dld = s.dld := by rw [platEvent_frame]
@[simp] theorem platEvent_ste (kind arg : Nat) (s : Sled) : (platEvent kind arg s).ste = s.ste := by rw [platEvent_frame]
@[simp] theorem platEvent_lnk (kind arg : Nat) (s : Sled) : (platEvent kind arg s).lnk = s.lnk := by rw [platEvent_frame]
@[simp] theorem platEvent_fab (kind arg : Nat) (s : Sled) : (platEvent kind arg s).fab = s.fab := by rw [platEvent_frame]
@[simp] theorem platEvent_hst (kind arg : Nat) (s : Sled) : (platEvent kind arg s).hst = s.hst := by rw [platEvent_frame]
@[simp] theorem platEvent_thm (kind arg : Nat) (s : Sled) : (platEvent kind arg s).thm = s.thm := by rw [platEvent_frame]
@[simp] theorem platEvent_stall (kind arg : Nat) (s : Sled) : (platEvent kind arg s).stall = s.stall := by rw [platEvent_frame]

/-- The count of outstanding records. -/
theorem recCount_frame (r : Rec) (s : Sled) :
    recCount r s = { s with kpr := (recCount r s).kpr } := by
  unfold recCount
  split <;> rfl

@[simp] theorem recCount_now (r : Rec) (s : Sled) : (recCount r s).now = s.now := by rw [recCount_frame]
@[simp] theorem recCount_free (r : Rec) (s : Sled) : (recCount r s).free = s.free := by rw [recCount_frame]
@[simp] theorem recCount_seq (r : Rec) (s : Sled) : (recCount r s).seq = s.seq := by rw [recCount_frame]
@[simp] theorem recCount_plat (r : Rec) (s : Sled) : (recCount r s).plat = s.plat := by rw [recCount_frame]
@[simp] theorem recCount_isl (r : Rec) (s : Sled) : (recCount r s).isl = s.isl := by rw [recCount_frame]
@[simp] theorem recCount_ccRunning (r : Rec) (s : Sled) : (recCount r s).ccRunning = s.ccRunning := by rw [recCount_frame]
@[simp] theorem recCount_ccOffline (r : Rec) (s : Sled) : (recCount r s).ccOffline = s.ccOffline := by rw [recCount_frame]
@[simp] theorem recCount_ctlMem (r : Rec) (s : Sled) : (recCount r s).ctlMem = s.ctlMem := by rw [recCount_frame]
@[simp] theorem recCount_clearing (r : Rec) (s : Sled) : (recCount r s).clearing = s.clearing := by rw [recCount_frame]
@[simp] theorem recCount_cpu (r : Rec) (s : Sled) : (recCount r s).cpu = s.cpu := by rw [recCount_frame]
@[simp] theorem recCount_regs (r : Rec) (s : Sled) : (recCount r s).regs = s.regs := by rw [recCount_frame]
@[simp] theorem recCount_locked (r : Rec) (s : Sled) : (recCount r s).locked = s.locked := by rw [recCount_frame]
@[simp] theorem recCount_mem (r : Rec) (s : Sled) : (recCount r s).mem = s.mem := by rw [recCount_frame]
@[simp] theorem recCount_ecc (r : Rec) (s : Sled) : (recCount r s).ecc = s.ecc := by rw [recCount_frame]
@[simp] theorem recCount_fl (r : Rec) (s : Sled) : (recCount r s).fl = s.fl := by rw [recCount_frame]
@[simp] theorem recCount_prof (r : Rec) (s : Sled) : (recCount r s).prof = s.prof := by rw [recCount_frame]
@[simp] theorem recCount_chan (r : Rec) (s : Sled) : (recCount r s).chan = s.chan := by rw [recCount_frame]
@[simp] theorem recCount_mcs (r : Rec) (s : Sled) : (recCount r s).mcs = s.mcs := by rw [recCount_frame]
@[simp] theorem recCount_speedQ (r : Rec) (s : Sled) : (recCount r s).speedQ = s.speedQ := by rw [recCount_frame]
@[simp] theorem recCount_bank (r : Rec) (s : Sled) : (recCount r s).bank = s.bank := by rw [recCount_frame]
@[simp] theorem recCount_btm (r : Rec) (s : Sled) : (recCount r s).btm = s.btm := by rw [recCount_frame]
@[simp] theorem recCount_bcs (r : Rec) (s : Sled) : (recCount r s).bcs = s.bcs := by rw [recCount_frame]
@[simp] theorem recCount_xing (r : Rec) (s : Sled) : (recCount r s).xing = s.xing := by rw [recCount_frame]
@[simp] theorem recCount_vc (r : Rec) (s : Sled) : (recCount r s).vc = s.vc := by rw [recCount_frame]
@[simp] theorem recCount_ctr (r : Rec) (s : Sled) : (recCount r s).ctr = s.ctr := by rw [recCount_frame]
@[simp] theorem recCount_sem (r : Rec) (s : Sled) : (recCount r s).sem = s.sem := by rw [recCount_frame]
@[simp] theorem recCount_waits (r : Rec) (s : Sled) : (recCount r s).waits = s.waits := by rw [recCount_frame]
@[simp] theorem recCount_dld (r : Rec) (s : Sled) : (recCount r s).dld = s.dld := by rw [recCount_frame]
@[simp] theorem recCount_ste (r : Rec) (s : Sled) : (recCount r s).ste = s.ste := by rw [recCount_frame]
@[simp] theorem recCount_lnk (r : Rec) (s : Sled) : (recCount r s).lnk = s.lnk := by rw [recCount_frame]
@[simp] theorem recCount_fab (r : Rec) (s : Sled) : (recCount r s).fab = s.fab := by rw [recCount_frame]
@[simp] theorem recCount_hst (r : Rec) (s : Sled) : (recCount r s).hst = s.hst := by rw [recCount_frame]
@[simp] theorem recCount_thm (r : Rec) (s : Sled) : (recCount r s).thm = s.thm := by rw [recCount_frame]
@[simp] theorem recCount_stall (r : Rec) (s : Sled) : (recCount r s).stall = s.stall := by rw [recCount_frame]
@[simp] theorem recCount_outs (r : Rec) (s : Sled) : (recCount r s).outs = s.outs := by rw [recCount_frame]

/-- The collector. -/
theorem recEnter_frame (r : Rec) (s : Sled) :
    recEnter r s = { s with kpr := (recEnter r s).kpr } := by
  rfl

@[simp] theorem recEnter_now (r : Rec) (s : Sled) : (recEnter r s).now = s.now := by rw [recEnter_frame]
@[simp] theorem recEnter_free (r : Rec) (s : Sled) : (recEnter r s).free = s.free := by rw [recEnter_frame]
@[simp] theorem recEnter_seq (r : Rec) (s : Sled) : (recEnter r s).seq = s.seq := by rw [recEnter_frame]
@[simp] theorem recEnter_plat (r : Rec) (s : Sled) : (recEnter r s).plat = s.plat := by rw [recEnter_frame]
@[simp] theorem recEnter_isl (r : Rec) (s : Sled) : (recEnter r s).isl = s.isl := by rw [recEnter_frame]
@[simp] theorem recEnter_ccRunning (r : Rec) (s : Sled) : (recEnter r s).ccRunning = s.ccRunning := by rw [recEnter_frame]
@[simp] theorem recEnter_ccOffline (r : Rec) (s : Sled) : (recEnter r s).ccOffline = s.ccOffline := by rw [recEnter_frame]
@[simp] theorem recEnter_ctlMem (r : Rec) (s : Sled) : (recEnter r s).ctlMem = s.ctlMem := by rw [recEnter_frame]
@[simp] theorem recEnter_clearing (r : Rec) (s : Sled) : (recEnter r s).clearing = s.clearing := by rw [recEnter_frame]
@[simp] theorem recEnter_cpu (r : Rec) (s : Sled) : (recEnter r s).cpu = s.cpu := by rw [recEnter_frame]
@[simp] theorem recEnter_regs (r : Rec) (s : Sled) : (recEnter r s).regs = s.regs := by rw [recEnter_frame]
@[simp] theorem recEnter_locked (r : Rec) (s : Sled) : (recEnter r s).locked = s.locked := by rw [recEnter_frame]
@[simp] theorem recEnter_mem (r : Rec) (s : Sled) : (recEnter r s).mem = s.mem := by rw [recEnter_frame]
@[simp] theorem recEnter_ecc (r : Rec) (s : Sled) : (recEnter r s).ecc = s.ecc := by rw [recEnter_frame]
@[simp] theorem recEnter_fl (r : Rec) (s : Sled) : (recEnter r s).fl = s.fl := by rw [recEnter_frame]
@[simp] theorem recEnter_prof (r : Rec) (s : Sled) : (recEnter r s).prof = s.prof := by rw [recEnter_frame]
@[simp] theorem recEnter_chan (r : Rec) (s : Sled) : (recEnter r s).chan = s.chan := by rw [recEnter_frame]
@[simp] theorem recEnter_mcs (r : Rec) (s : Sled) : (recEnter r s).mcs = s.mcs := by rw [recEnter_frame]
@[simp] theorem recEnter_speedQ (r : Rec) (s : Sled) : (recEnter r s).speedQ = s.speedQ := by rw [recEnter_frame]
@[simp] theorem recEnter_bank (r : Rec) (s : Sled) : (recEnter r s).bank = s.bank := by rw [recEnter_frame]
@[simp] theorem recEnter_btm (r : Rec) (s : Sled) : (recEnter r s).btm = s.btm := by rw [recEnter_frame]
@[simp] theorem recEnter_bcs (r : Rec) (s : Sled) : (recEnter r s).bcs = s.bcs := by rw [recEnter_frame]
@[simp] theorem recEnter_xing (r : Rec) (s : Sled) : (recEnter r s).xing = s.xing := by rw [recEnter_frame]
@[simp] theorem recEnter_vc (r : Rec) (s : Sled) : (recEnter r s).vc = s.vc := by rw [recEnter_frame]
@[simp] theorem recEnter_ctr (r : Rec) (s : Sled) : (recEnter r s).ctr = s.ctr := by rw [recEnter_frame]
@[simp] theorem recEnter_sem (r : Rec) (s : Sled) : (recEnter r s).sem = s.sem := by rw [recEnter_frame]
@[simp] theorem recEnter_waits (r : Rec) (s : Sled) : (recEnter r s).waits = s.waits := by rw [recEnter_frame]
@[simp] theorem recEnter_dld (r : Rec) (s : Sled) : (recEnter r s).dld = s.dld := by rw [recEnter_frame]
@[simp] theorem recEnter_ste (r : Rec) (s : Sled) : (recEnter r s).ste = s.ste := by rw [recEnter_frame]
@[simp] theorem recEnter_lnk (r : Rec) (s : Sled) : (recEnter r s).lnk = s.lnk := by rw [recEnter_frame]
@[simp] theorem recEnter_fab (r : Rec) (s : Sled) : (recEnter r s).fab = s.fab := by rw [recEnter_frame]
@[simp] theorem recEnter_hst (r : Rec) (s : Sled) : (recEnter r s).hst = s.hst := by rw [recEnter_frame]
@[simp] theorem recEnter_thm (r : Rec) (s : Sled) : (recEnter r s).thm = s.thm := by rw [recEnter_frame]
@[simp] theorem recEnter_stall (r : Rec) (s : Sled) : (recEnter r s).stall = s.stall := by rw [recEnter_frame]
@[simp] theorem recEnter_outs (r : Rec) (s : Sled) : (recEnter r s).outs = s.outs := by rw [recEnter_frame]

/-- The alert. -/
theorem recAlert_frame (r : Rec) (s : Sled) :
    recAlert r s = { s with kpr := (recAlert r s).kpr } := by
  unfold recAlert
  split <;> rfl

@[simp] theorem recAlert_now (r : Rec) (s : Sled) : (recAlert r s).now = s.now := by rw [recAlert_frame]
@[simp] theorem recAlert_free (r : Rec) (s : Sled) : (recAlert r s).free = s.free := by rw [recAlert_frame]
@[simp] theorem recAlert_seq (r : Rec) (s : Sled) : (recAlert r s).seq = s.seq := by rw [recAlert_frame]
@[simp] theorem recAlert_plat (r : Rec) (s : Sled) : (recAlert r s).plat = s.plat := by rw [recAlert_frame]
@[simp] theorem recAlert_isl (r : Rec) (s : Sled) : (recAlert r s).isl = s.isl := by rw [recAlert_frame]
@[simp] theorem recAlert_ccRunning (r : Rec) (s : Sled) : (recAlert r s).ccRunning = s.ccRunning := by rw [recAlert_frame]
@[simp] theorem recAlert_ccOffline (r : Rec) (s : Sled) : (recAlert r s).ccOffline = s.ccOffline := by rw [recAlert_frame]
@[simp] theorem recAlert_ctlMem (r : Rec) (s : Sled) : (recAlert r s).ctlMem = s.ctlMem := by rw [recAlert_frame]
@[simp] theorem recAlert_clearing (r : Rec) (s : Sled) : (recAlert r s).clearing = s.clearing := by rw [recAlert_frame]
@[simp] theorem recAlert_cpu (r : Rec) (s : Sled) : (recAlert r s).cpu = s.cpu := by rw [recAlert_frame]
@[simp] theorem recAlert_regs (r : Rec) (s : Sled) : (recAlert r s).regs = s.regs := by rw [recAlert_frame]
@[simp] theorem recAlert_locked (r : Rec) (s : Sled) : (recAlert r s).locked = s.locked := by rw [recAlert_frame]
@[simp] theorem recAlert_mem (r : Rec) (s : Sled) : (recAlert r s).mem = s.mem := by rw [recAlert_frame]
@[simp] theorem recAlert_ecc (r : Rec) (s : Sled) : (recAlert r s).ecc = s.ecc := by rw [recAlert_frame]
@[simp] theorem recAlert_fl (r : Rec) (s : Sled) : (recAlert r s).fl = s.fl := by rw [recAlert_frame]
@[simp] theorem recAlert_prof (r : Rec) (s : Sled) : (recAlert r s).prof = s.prof := by rw [recAlert_frame]
@[simp] theorem recAlert_chan (r : Rec) (s : Sled) : (recAlert r s).chan = s.chan := by rw [recAlert_frame]
@[simp] theorem recAlert_mcs (r : Rec) (s : Sled) : (recAlert r s).mcs = s.mcs := by rw [recAlert_frame]
@[simp] theorem recAlert_speedQ (r : Rec) (s : Sled) : (recAlert r s).speedQ = s.speedQ := by rw [recAlert_frame]
@[simp] theorem recAlert_bank (r : Rec) (s : Sled) : (recAlert r s).bank = s.bank := by rw [recAlert_frame]
@[simp] theorem recAlert_btm (r : Rec) (s : Sled) : (recAlert r s).btm = s.btm := by rw [recAlert_frame]
@[simp] theorem recAlert_bcs (r : Rec) (s : Sled) : (recAlert r s).bcs = s.bcs := by rw [recAlert_frame]
@[simp] theorem recAlert_xing (r : Rec) (s : Sled) : (recAlert r s).xing = s.xing := by rw [recAlert_frame]
@[simp] theorem recAlert_vc (r : Rec) (s : Sled) : (recAlert r s).vc = s.vc := by rw [recAlert_frame]
@[simp] theorem recAlert_ctr (r : Rec) (s : Sled) : (recAlert r s).ctr = s.ctr := by rw [recAlert_frame]
@[simp] theorem recAlert_sem (r : Rec) (s : Sled) : (recAlert r s).sem = s.sem := by rw [recAlert_frame]
@[simp] theorem recAlert_waits (r : Rec) (s : Sled) : (recAlert r s).waits = s.waits := by rw [recAlert_frame]
@[simp] theorem recAlert_dld (r : Rec) (s : Sled) : (recAlert r s).dld = s.dld := by rw [recAlert_frame]
@[simp] theorem recAlert_ste (r : Rec) (s : Sled) : (recAlert r s).ste = s.ste := by rw [recAlert_frame]
@[simp] theorem recAlert_lnk (r : Rec) (s : Sled) : (recAlert r s).lnk = s.lnk := by rw [recAlert_frame]
@[simp] theorem recAlert_fab (r : Rec) (s : Sled) : (recAlert r s).fab = s.fab := by rw [recAlert_frame]
@[simp] theorem recAlert_hst (r : Rec) (s : Sled) : (recAlert r s).hst = s.hst := by rw [recAlert_frame]
@[simp] theorem recAlert_thm (r : Rec) (s : Sled) : (recAlert r s).thm = s.thm := by rw [recAlert_frame]
@[simp] theorem recAlert_stall (r : Rec) (s : Sled) : (recAlert r s).stall = s.stall := by rw [recAlert_frame]
@[simp] theorem recAlert_outs (r : Rec) (s : Sled) : (recAlert r s).outs = s.outs := by rw [recAlert_frame]

/-- The tenant's event. -/
theorem recTell_frame (r : Rec) (s : Sled) :
    recTell r s = { s with regs := (recTell r s).regs, hst := (recTell r s).hst, outs := (recTell r s).outs } := by
  unfold recTell
  split
  · rw [vfEvent_frame]
  · rfl

@[simp] theorem recTell_now (r : Rec) (s : Sled) : (recTell r s).now = s.now := by rw [recTell_frame]
@[simp] theorem recTell_free (r : Rec) (s : Sled) : (recTell r s).free = s.free := by rw [recTell_frame]
@[simp] theorem recTell_seq (r : Rec) (s : Sled) : (recTell r s).seq = s.seq := by rw [recTell_frame]
@[simp] theorem recTell_plat (r : Rec) (s : Sled) : (recTell r s).plat = s.plat := by rw [recTell_frame]
@[simp] theorem recTell_isl (r : Rec) (s : Sled) : (recTell r s).isl = s.isl := by rw [recTell_frame]
@[simp] theorem recTell_ccRunning (r : Rec) (s : Sled) : (recTell r s).ccRunning = s.ccRunning := by rw [recTell_frame]
@[simp] theorem recTell_ccOffline (r : Rec) (s : Sled) : (recTell r s).ccOffline = s.ccOffline := by rw [recTell_frame]
@[simp] theorem recTell_ctlMem (r : Rec) (s : Sled) : (recTell r s).ctlMem = s.ctlMem := by rw [recTell_frame]
@[simp] theorem recTell_clearing (r : Rec) (s : Sled) : (recTell r s).clearing = s.clearing := by rw [recTell_frame]
@[simp] theorem recTell_cpu (r : Rec) (s : Sled) : (recTell r s).cpu = s.cpu := by rw [recTell_frame]
@[simp] theorem recTell_locked (r : Rec) (s : Sled) : (recTell r s).locked = s.locked := by rw [recTell_frame]
@[simp] theorem recTell_mem (r : Rec) (s : Sled) : (recTell r s).mem = s.mem := by rw [recTell_frame]
@[simp] theorem recTell_ecc (r : Rec) (s : Sled) : (recTell r s).ecc = s.ecc := by rw [recTell_frame]
@[simp] theorem recTell_kpr (r : Rec) (s : Sled) : (recTell r s).kpr = s.kpr := by rw [recTell_frame]
@[simp] theorem recTell_fl (r : Rec) (s : Sled) : (recTell r s).fl = s.fl := by rw [recTell_frame]
@[simp] theorem recTell_prof (r : Rec) (s : Sled) : (recTell r s).prof = s.prof := by rw [recTell_frame]
@[simp] theorem recTell_chan (r : Rec) (s : Sled) : (recTell r s).chan = s.chan := by rw [recTell_frame]
@[simp] theorem recTell_mcs (r : Rec) (s : Sled) : (recTell r s).mcs = s.mcs := by rw [recTell_frame]
@[simp] theorem recTell_speedQ (r : Rec) (s : Sled) : (recTell r s).speedQ = s.speedQ := by rw [recTell_frame]
@[simp] theorem recTell_bank (r : Rec) (s : Sled) : (recTell r s).bank = s.bank := by rw [recTell_frame]
@[simp] theorem recTell_btm (r : Rec) (s : Sled) : (recTell r s).btm = s.btm := by rw [recTell_frame]
@[simp] theorem recTell_bcs (r : Rec) (s : Sled) : (recTell r s).bcs = s.bcs := by rw [recTell_frame]
@[simp] theorem recTell_xing (r : Rec) (s : Sled) : (recTell r s).xing = s.xing := by rw [recTell_frame]
@[simp] theorem recTell_vc (r : Rec) (s : Sled) : (recTell r s).vc = s.vc := by rw [recTell_frame]
@[simp] theorem recTell_ctr (r : Rec) (s : Sled) : (recTell r s).ctr = s.ctr := by rw [recTell_frame]
@[simp] theorem recTell_sem (r : Rec) (s : Sled) : (recTell r s).sem = s.sem := by rw [recTell_frame]
@[simp] theorem recTell_waits (r : Rec) (s : Sled) : (recTell r s).waits = s.waits := by rw [recTell_frame]
@[simp] theorem recTell_dld (r : Rec) (s : Sled) : (recTell r s).dld = s.dld := by rw [recTell_frame]
@[simp] theorem recTell_ste (r : Rec) (s : Sled) : (recTell r s).ste = s.ste := by rw [recTell_frame]
@[simp] theorem recTell_lnk (r : Rec) (s : Sled) : (recTell r s).lnk = s.lnk := by rw [recTell_frame]
@[simp] theorem recTell_fab (r : Rec) (s : Sled) : (recTell r s).fab = s.fab := by rw [recTell_frame]
@[simp] theorem recTell_thm (r : Rec) (s : Sled) : (recTell r s).thm = s.thm := by rw [recTell_frame]
@[simp] theorem recTell_stall (r : Rec) (s : Sled) : (recTell r s).stall = s.stall := by rw [recTell_frame]

/-- The counts of lost records. -/
theorem dropRec_frame (r : Rec) (s : Sled) :
    dropRec r s = { s with kpr := (dropRec r s).kpr, regs := (dropRec r s).regs } := by
  rfl

@[simp] theorem dropRec_now (r : Rec) (s : Sled) : (dropRec r s).now = s.now := by rw [dropRec_frame]
@[simp] theorem dropRec_free (r : Rec) (s : Sled) : (dropRec r s).free = s.free := by rw [dropRec_frame]
@[simp] theorem dropRec_seq (r : Rec) (s : Sled) : (dropRec r s).seq = s.seq := by rw [dropRec_frame]
@[simp] theorem dropRec_plat (r : Rec) (s : Sled) : (dropRec r s).plat = s.plat := by rw [dropRec_frame]
@[simp] theorem dropRec_isl (r : Rec) (s : Sled) : (dropRec r s).isl = s.isl := by rw [dropRec_frame]
@[simp] theorem dropRec_ccRunning (r : Rec) (s : Sled) : (dropRec r s).ccRunning = s.ccRunning := by rw [dropRec_frame]
@[simp] theorem dropRec_ccOffline (r : Rec) (s : Sled) : (dropRec r s).ccOffline = s.ccOffline := by rw [dropRec_frame]
@[simp] theorem dropRec_ctlMem (r : Rec) (s : Sled) : (dropRec r s).ctlMem = s.ctlMem := by rw [dropRec_frame]
@[simp] theorem dropRec_clearing (r : Rec) (s : Sled) : (dropRec r s).clearing = s.clearing := by rw [dropRec_frame]
@[simp] theorem dropRec_cpu (r : Rec) (s : Sled) : (dropRec r s).cpu = s.cpu := by rw [dropRec_frame]
@[simp] theorem dropRec_locked (r : Rec) (s : Sled) : (dropRec r s).locked = s.locked := by rw [dropRec_frame]
@[simp] theorem dropRec_mem (r : Rec) (s : Sled) : (dropRec r s).mem = s.mem := by rw [dropRec_frame]
@[simp] theorem dropRec_ecc (r : Rec) (s : Sled) : (dropRec r s).ecc = s.ecc := by rw [dropRec_frame]
@[simp] theorem dropRec_fl (r : Rec) (s : Sled) : (dropRec r s).fl = s.fl := by rw [dropRec_frame]
@[simp] theorem dropRec_prof (r : Rec) (s : Sled) : (dropRec r s).prof = s.prof := by rw [dropRec_frame]
@[simp] theorem dropRec_chan (r : Rec) (s : Sled) : (dropRec r s).chan = s.chan := by rw [dropRec_frame]
@[simp] theorem dropRec_mcs (r : Rec) (s : Sled) : (dropRec r s).mcs = s.mcs := by rw [dropRec_frame]
@[simp] theorem dropRec_speedQ (r : Rec) (s : Sled) : (dropRec r s).speedQ = s.speedQ := by rw [dropRec_frame]
@[simp] theorem dropRec_bank (r : Rec) (s : Sled) : (dropRec r s).bank = s.bank := by rw [dropRec_frame]
@[simp] theorem dropRec_btm (r : Rec) (s : Sled) : (dropRec r s).btm = s.btm := by rw [dropRec_frame]
@[simp] theorem dropRec_bcs (r : Rec) (s : Sled) : (dropRec r s).bcs = s.bcs := by rw [dropRec_frame]
@[simp] theorem dropRec_xing (r : Rec) (s : Sled) : (dropRec r s).xing = s.xing := by rw [dropRec_frame]
@[simp] theorem dropRec_vc (r : Rec) (s : Sled) : (dropRec r s).vc = s.vc := by rw [dropRec_frame]
@[simp] theorem dropRec_ctr (r : Rec) (s : Sled) : (dropRec r s).ctr = s.ctr := by rw [dropRec_frame]
@[simp] theorem dropRec_sem (r : Rec) (s : Sled) : (dropRec r s).sem = s.sem := by rw [dropRec_frame]
@[simp] theorem dropRec_waits (r : Rec) (s : Sled) : (dropRec r s).waits = s.waits := by rw [dropRec_frame]
@[simp] theorem dropRec_dld (r : Rec) (s : Sled) : (dropRec r s).dld = s.dld := by rw [dropRec_frame]
@[simp] theorem dropRec_ste (r : Rec) (s : Sled) : (dropRec r s).ste = s.ste := by rw [dropRec_frame]
@[simp] theorem dropRec_lnk (r : Rec) (s : Sled) : (dropRec r s).lnk = s.lnk := by rw [dropRec_frame]
@[simp] theorem dropRec_fab (r : Rec) (s : Sled) : (dropRec r s).fab = s.fab := by rw [dropRec_frame]
@[simp] theorem dropRec_hst (r : Rec) (s : Sled) : (dropRec r s).hst = s.hst := by rw [dropRec_frame]
@[simp] theorem dropRec_thm (r : Rec) (s : Sled) : (dropRec r s).thm = s.thm := by rw [dropRec_frame]
@[simp] theorem dropRec_stall (r : Rec) (s : Sled) : (dropRec r s).stall = s.stall := by rw [dropRec_frame]
@[simp] theorem dropRec_outs (r : Rec) (s : Sled) : (dropRec r s).outs = s.outs := by rw [dropRec_frame]

theorem recAlert_kpr (r : Rec) (s : Sled) :
    (recAlert r s).kpr = { s.kpr with alert := if 3 ≤ r.sev then true else s.kpr.alert } := by
  unfold recAlert
  split <;> rfl

/-- A record enters the collector or is counted as lost. -/
theorem recPlace_frame (r : Rec) (s : Sled) :
    recPlace r s = { s with kpr := (recPlace r s).kpr, regs := (recPlace r s).regs, hst := (recPlace r s).hst, outs := (recPlace r s).outs } := by
  unfold recPlace
  split
  · rw [recTell_frame, recAlert_frame, recEnter_frame]
  · rw [dropRec_frame]

@[simp] theorem recPlace_now (r : Rec) (s : Sled) : (recPlace r s).now = s.now := by rw [recPlace_frame]
@[simp] theorem recPlace_free (r : Rec) (s : Sled) : (recPlace r s).free = s.free := by rw [recPlace_frame]
@[simp] theorem recPlace_seq (r : Rec) (s : Sled) : (recPlace r s).seq = s.seq := by rw [recPlace_frame]
@[simp] theorem recPlace_plat (r : Rec) (s : Sled) : (recPlace r s).plat = s.plat := by rw [recPlace_frame]
@[simp] theorem recPlace_isl (r : Rec) (s : Sled) : (recPlace r s).isl = s.isl := by rw [recPlace_frame]
@[simp] theorem recPlace_ccRunning (r : Rec) (s : Sled) : (recPlace r s).ccRunning = s.ccRunning := by rw [recPlace_frame]
@[simp] theorem recPlace_ccOffline (r : Rec) (s : Sled) : (recPlace r s).ccOffline = s.ccOffline := by rw [recPlace_frame]
@[simp] theorem recPlace_ctlMem (r : Rec) (s : Sled) : (recPlace r s).ctlMem = s.ctlMem := by rw [recPlace_frame]
@[simp] theorem recPlace_clearing (r : Rec) (s : Sled) : (recPlace r s).clearing = s.clearing := by rw [recPlace_frame]
@[simp] theorem recPlace_cpu (r : Rec) (s : Sled) : (recPlace r s).cpu = s.cpu := by rw [recPlace_frame]
@[simp] theorem recPlace_locked (r : Rec) (s : Sled) : (recPlace r s).locked = s.locked := by rw [recPlace_frame]
@[simp] theorem recPlace_mem (r : Rec) (s : Sled) : (recPlace r s).mem = s.mem := by rw [recPlace_frame]
@[simp] theorem recPlace_ecc (r : Rec) (s : Sled) : (recPlace r s).ecc = s.ecc := by rw [recPlace_frame]
@[simp] theorem recPlace_fl (r : Rec) (s : Sled) : (recPlace r s).fl = s.fl := by rw [recPlace_frame]
@[simp] theorem recPlace_prof (r : Rec) (s : Sled) : (recPlace r s).prof = s.prof := by rw [recPlace_frame]
@[simp] theorem recPlace_chan (r : Rec) (s : Sled) : (recPlace r s).chan = s.chan := by rw [recPlace_frame]
@[simp] theorem recPlace_mcs (r : Rec) (s : Sled) : (recPlace r s).mcs = s.mcs := by rw [recPlace_frame]
@[simp] theorem recPlace_speedQ (r : Rec) (s : Sled) : (recPlace r s).speedQ = s.speedQ := by rw [recPlace_frame]
@[simp] theorem recPlace_bank (r : Rec) (s : Sled) : (recPlace r s).bank = s.bank := by rw [recPlace_frame]
@[simp] theorem recPlace_btm (r : Rec) (s : Sled) : (recPlace r s).btm = s.btm := by rw [recPlace_frame]
@[simp] theorem recPlace_bcs (r : Rec) (s : Sled) : (recPlace r s).bcs = s.bcs := by rw [recPlace_frame]
@[simp] theorem recPlace_xing (r : Rec) (s : Sled) : (recPlace r s).xing = s.xing := by rw [recPlace_frame]
@[simp] theorem recPlace_vc (r : Rec) (s : Sled) : (recPlace r s).vc = s.vc := by rw [recPlace_frame]
@[simp] theorem recPlace_ctr (r : Rec) (s : Sled) : (recPlace r s).ctr = s.ctr := by rw [recPlace_frame]
@[simp] theorem recPlace_sem (r : Rec) (s : Sled) : (recPlace r s).sem = s.sem := by rw [recPlace_frame]
@[simp] theorem recPlace_waits (r : Rec) (s : Sled) : (recPlace r s).waits = s.waits := by rw [recPlace_frame]
@[simp] theorem recPlace_dld (r : Rec) (s : Sled) : (recPlace r s).dld = s.dld := by rw [recPlace_frame]
@[simp] theorem recPlace_ste (r : Rec) (s : Sled) : (recPlace r s).ste = s.ste := by rw [recPlace_frame]
@[simp] theorem recPlace_lnk (r : Rec) (s : Sled) : (recPlace r s).lnk = s.lnk := by rw [recPlace_frame]
@[simp] theorem recPlace_fab (r : Rec) (s : Sled) : (recPlace r s).fab = s.fab := by rw [recPlace_frame]
@[simp] theorem recPlace_thm (r : Rec) (s : Sled) : (recPlace r s).thm = s.thm := by rw [recPlace_frame]
@[simp] theorem recPlace_stall (r : Rec) (s : Sled) : (recPlace r s).stall = s.stall := by rw [recPlace_frame]

/-- A record enters the collector or is counted as lost; its alert, event bit and interrupt follow. -/
theorem logRec_frame (r : Rec) (s : Sled) :
    logRec r s = { s with kpr := (logRec r s).kpr, regs := (logRec r s).regs, hst := (logRec r s).hst, outs := (logRec r s).outs } := by
  unfold logRec
  rw [recPlace_frame, recCount_frame]

@[simp] theorem logRec_now (r : Rec) (s : Sled) : (logRec r s).now = s.now := by rw [logRec_frame]
@[simp] theorem logRec_free (r : Rec) (s : Sled) : (logRec r s).free = s.free := by rw [logRec_frame]
@[simp] theorem logRec_seq (r : Rec) (s : Sled) : (logRec r s).seq = s.seq := by rw [logRec_frame]
@[simp] theorem logRec_plat (r : Rec) (s : Sled) : (logRec r s).plat = s.plat := by rw [logRec_frame]
@[simp] theorem logRec_isl (r : Rec) (s : Sled) : (logRec r s).isl = s.isl := by rw [logRec_frame]
@[simp] theorem logRec_ccRunning (r : Rec) (s : Sled) : (logRec r s).ccRunning = s.ccRunning := by rw [logRec_frame]
@[simp] theorem logRec_ccOffline (r : Rec) (s : Sled) : (logRec r s).ccOffline = s.ccOffline := by rw [logRec_frame]
@[simp] theorem logRec_ctlMem (r : Rec) (s : Sled) : (logRec r s).ctlMem = s.ctlMem := by rw [logRec_frame]
@[simp] theorem logRec_clearing (r : Rec) (s : Sled) : (logRec r s).clearing = s.clearing := by rw [logRec_frame]
@[simp] theorem logRec_cpu (r : Rec) (s : Sled) : (logRec r s).cpu = s.cpu := by rw [logRec_frame]
@[simp] theorem logRec_locked (r : Rec) (s : Sled) : (logRec r s).locked = s.locked := by rw [logRec_frame]
@[simp] theorem logRec_mem (r : Rec) (s : Sled) : (logRec r s).mem = s.mem := by rw [logRec_frame]
@[simp] theorem logRec_ecc (r : Rec) (s : Sled) : (logRec r s).ecc = s.ecc := by rw [logRec_frame]
@[simp] theorem logRec_fl (r : Rec) (s : Sled) : (logRec r s).fl = s.fl := by rw [logRec_frame]
@[simp] theorem logRec_prof (r : Rec) (s : Sled) : (logRec r s).prof = s.prof := by rw [logRec_frame]
@[simp] theorem logRec_chan (r : Rec) (s : Sled) : (logRec r s).chan = s.chan := by rw [logRec_frame]
@[simp] theorem logRec_mcs (r : Rec) (s : Sled) : (logRec r s).mcs = s.mcs := by rw [logRec_frame]
@[simp] theorem logRec_speedQ (r : Rec) (s : Sled) : (logRec r s).speedQ = s.speedQ := by rw [logRec_frame]
@[simp] theorem logRec_bank (r : Rec) (s : Sled) : (logRec r s).bank = s.bank := by rw [logRec_frame]
@[simp] theorem logRec_btm (r : Rec) (s : Sled) : (logRec r s).btm = s.btm := by rw [logRec_frame]
@[simp] theorem logRec_bcs (r : Rec) (s : Sled) : (logRec r s).bcs = s.bcs := by rw [logRec_frame]
@[simp] theorem logRec_xing (r : Rec) (s : Sled) : (logRec r s).xing = s.xing := by rw [logRec_frame]
@[simp] theorem logRec_vc (r : Rec) (s : Sled) : (logRec r s).vc = s.vc := by rw [logRec_frame]
@[simp] theorem logRec_ctr (r : Rec) (s : Sled) : (logRec r s).ctr = s.ctr := by rw [logRec_frame]
@[simp] theorem logRec_sem (r : Rec) (s : Sled) : (logRec r s).sem = s.sem := by rw [logRec_frame]
@[simp] theorem logRec_waits (r : Rec) (s : Sled) : (logRec r s).waits = s.waits := by rw [logRec_frame]
@[simp] theorem logRec_dld (r : Rec) (s : Sled) : (logRec r s).dld = s.dld := by rw [logRec_frame]
@[simp] theorem logRec_ste (r : Rec) (s : Sled) : (logRec r s).ste = s.ste := by rw [logRec_frame]
@[simp] theorem logRec_lnk (r : Rec) (s : Sled) : (logRec r s).lnk = s.lnk := by rw [logRec_frame]
@[simp] theorem logRec_fab (r : Rec) (s : Sled) : (logRec r s).fab = s.fab := by rw [logRec_frame]
@[simp] theorem logRec_thm (r : Rec) (s : Sled) : (logRec r s).thm = s.thm := by rw [logRec_frame]
@[simp] theorem logRec_stall (r : Rec) (s : Sled) : (logRec r s).stall = s.stall := by rw [logRec_frame]

/-- A rate-limited record. -/
theorem logLimited_frame (period key : Nat) (r : Rec) (s : Sled) :
    logLimited period key r s = { s with kpr := (logLimited period key r s).kpr, regs := (logLimited period key r s).regs, hst := (logLimited period key r s).hst, outs := (logLimited period key r s).outs } := by
  unfold logLimited
  dsimp only
  split
  · split
    · rfl
    · rw [logRec_frame]
  · rw [logRec_frame]

@[simp] theorem logLimited_now (period key : Nat) (r : Rec) (s : Sled) : (logLimited period key r s).now = s.now := by rw [logLimited_frame]
@[simp] theorem logLimited_free (period key : Nat) (r : Rec) (s : Sled) : (logLimited period key r s).free = s.free := by rw [logLimited_frame]
@[simp] theorem logLimited_seq (period key : Nat) (r : Rec) (s : Sled) : (logLimited period key r s).seq = s.seq := by rw [logLimited_frame]
@[simp] theorem logLimited_plat (period key : Nat) (r : Rec) (s : Sled) : (logLimited period key r s).plat = s.plat := by rw [logLimited_frame]
@[simp] theorem logLimited_isl (period key : Nat) (r : Rec) (s : Sled) : (logLimited period key r s).isl = s.isl := by rw [logLimited_frame]
@[simp] theorem logLimited_ccRunning (period key : Nat) (r : Rec) (s : Sled) : (logLimited period key r s).ccRunning = s.ccRunning := by rw [logLimited_frame]
@[simp] theorem logLimited_ccOffline (period key : Nat) (r : Rec) (s : Sled) : (logLimited period key r s).ccOffline = s.ccOffline := by rw [logLimited_frame]
@[simp] theorem logLimited_ctlMem (period key : Nat) (r : Rec) (s : Sled) : (logLimited period key r s).ctlMem = s.ctlMem := by rw [logLimited_frame]
@[simp] theorem logLimited_clearing (period key : Nat) (r : Rec) (s : Sled) : (logLimited period key r s).clearing = s.clearing := by rw [logLimited_frame]
@[simp] theorem logLimited_cpu (period key : Nat) (r : Rec) (s : Sled) : (logLimited period key r s).cpu = s.cpu := by rw [logLimited_frame]
@[simp] theorem logLimited_locked (period key : Nat) (r : Rec) (s : Sled) : (logLimited period key r s).locked = s.locked := by rw [logLimited_frame]
@[simp] theorem logLimited_mem (period key : Nat) (r : Rec) (s : Sled) : (logLimited period key r s).mem = s.mem := by rw [logLimited_frame]
@[simp] theorem logLimited_ecc (period key : Nat) (r : Rec) (s : Sled) : (logLimited period key r s).ecc = s.ecc := by rw [logLimited_frame]
@[simp] theorem logLimited_fl (period key : Nat) (r : Rec) (s : Sled) : (logLimited period key r s).fl = s.fl := by rw [logLimited_frame]
@[simp] theorem logLimited_prof (period key : Nat) (r : Rec) (s : Sled) : (logLimited period key r s).prof = s.prof := by rw [logLimited_frame]
@[simp] theorem logLimited_chan (period key : Nat) (r : Rec) (s : Sled) : (logLimited period key r s).chan = s.chan := by rw [logLimited_frame]
@[simp] theorem logLimited_mcs (period key : Nat) (r : Rec) (s : Sled) : (logLimited period key r s).mcs = s.mcs := by rw [logLimited_frame]
@[simp] theorem logLimited_speedQ (period key : Nat) (r : Rec) (s : Sled) : (logLimited period key r s).speedQ = s.speedQ := by rw [logLimited_frame]
@[simp] theorem logLimited_bank (period key : Nat) (r : Rec) (s : Sled) : (logLimited period key r s).bank = s.bank := by rw [logLimited_frame]
@[simp] theorem logLimited_btm (period key : Nat) (r : Rec) (s : Sled) : (logLimited period key r s).btm = s.btm := by rw [logLimited_frame]
@[simp] theorem logLimited_bcs (period key : Nat) (r : Rec) (s : Sled) : (logLimited period key r s).bcs = s.bcs := by rw [logLimited_frame]
@[simp] theorem logLimited_xing (period key : Nat) (r : Rec) (s : Sled) : (logLimited period key r s).xing = s.xing := by rw [logLimited_frame]
@[simp] theorem logLimited_vc (period key : Nat) (r : Rec) (s : Sled) : (logLimited period key r s).vc = s.vc := by rw [logLimited_frame]
@[simp] theorem logLimited_ctr (period key : Nat) (r : Rec) (s : Sled) : (logLimited period key r s).ctr = s.ctr := by rw [logLimited_frame]
@[simp] theorem logLimited_sem (period key : Nat) (r : Rec) (s : Sled) : (logLimited period key r s).sem = s.sem := by rw [logLimited_frame]
@[simp] theorem logLimited_waits (period key : Nat) (r : Rec) (s : Sled) : (logLimited period key r s).waits = s.waits := by rw [logLimited_frame]
@[simp] theorem logLimited_dld (period key : Nat) (r : Rec) (s : Sled) : (logLimited period key r s).dld = s.dld := by rw [logLimited_frame]
@[simp] theorem logLimited_ste (period key : Nat) (r : Rec) (s : Sled) : (logLimited period key r s).ste = s.ste := by rw [logLimited_frame]
@[simp] theorem logLimited_lnk (period key : Nat) (r : Rec) (s : Sled) : (logLimited period key r s).lnk = s.lnk := by rw [logLimited_frame]
@[simp] theorem logLimited_fab (period key : Nat) (r : Rec) (s : Sled) : (logLimited period key r s).fab = s.fab := by rw [logLimited_frame]
@[simp] theorem logLimited_thm (period key : Nat) (r : Rec) (s : Sled) : (logLimited period key r s).thm = s.thm := by rw [logLimited_frame]
@[simp] theorem logLimited_stall (period key : Nat) (r : Rec) (s : Sled) : (logLimited period key r s).stall = s.stall := by rw [logLimited_frame]

/-- An unmapped access is logged. -/
theorem logUnmapped_frame (w : Who) (addr island : Nat) (s : Sled) :
    logUnmapped w addr island s = { s with kpr := (logUnmapped w addr island s).kpr, regs := (logUnmapped w addr island s).regs, hst := (logUnmapped w addr island s).hst, outs := (logUnmapped w addr island s).outs } := by
  unfold logUnmapped
  rw [logLimited_frame]

@[simp] theorem logUnmapped_now (w : Who) (addr island : Nat) (s : Sled) : (logUnmapped w addr island s).now = s.now := by rw [logUnmapped_frame]
@[simp] theorem logUnmapped_free (w : Who) (addr island : Nat) (s : Sled) : (logUnmapped w addr island s).free = s.free := by rw [logUnmapped_frame]
@[simp] theorem logUnmapped_seq (w : Who) (addr island : Nat) (s : Sled) : (logUnmapped w addr island s).seq = s.seq := by rw [logUnmapped_frame]
@[simp] theorem logUnmapped_plat (w : Who) (addr island : Nat) (s : Sled) : (logUnmapped w addr island s).plat = s.plat := by rw [logUnmapped_frame]
@[simp] theorem logUnmapped_isl (w : Who) (addr island : Nat) (s : Sled) : (logUnmapped w addr island s).isl = s.isl := by rw [logUnmapped_frame]
@[simp] theorem logUnmapped_ccRunning (w : Who) (addr island : Nat) (s : Sled) : (logUnmapped w addr island s).ccRunning = s.ccRunning := by rw [logUnmapped_frame]
@[simp] theorem logUnmapped_ccOffline (w : Who) (addr island : Nat) (s : Sled) : (logUnmapped w addr island s).ccOffline = s.ccOffline := by rw [logUnmapped_frame]
@[simp] theorem logUnmapped_ctlMem (w : Who) (addr island : Nat) (s : Sled) : (logUnmapped w addr island s).ctlMem = s.ctlMem := by rw [logUnmapped_frame]
@[simp] theorem logUnmapped_clearing (w : Who) (addr island : Nat) (s : Sled) : (logUnmapped w addr island s).clearing = s.clearing := by rw [logUnmapped_frame]
@[simp] theorem logUnmapped_cpu (w : Who) (addr island : Nat) (s : Sled) : (logUnmapped w addr island s).cpu = s.cpu := by rw [logUnmapped_frame]
@[simp] theorem logUnmapped_locked (w : Who) (addr island : Nat) (s : Sled) : (logUnmapped w addr island s).locked = s.locked := by rw [logUnmapped_frame]
@[simp] theorem logUnmapped_mem (w : Who) (addr island : Nat) (s : Sled) : (logUnmapped w addr island s).mem = s.mem := by rw [logUnmapped_frame]
@[simp] theorem logUnmapped_ecc (w : Who) (addr island : Nat) (s : Sled) : (logUnmapped w addr island s).ecc = s.ecc := by rw [logUnmapped_frame]
@[simp] theorem logUnmapped_fl (w : Who) (addr island : Nat) (s : Sled) : (logUnmapped w addr island s).fl = s.fl := by rw [logUnmapped_frame]
@[simp] theorem logUnmapped_prof (w : Who) (addr island : Nat) (s : Sled) : (logUnmapped w addr island s).prof = s.prof := by rw [logUnmapped_frame]
@[simp] theorem logUnmapped_chan (w : Who) (addr island : Nat) (s : Sled) : (logUnmapped w addr island s).chan = s.chan := by rw [logUnmapped_frame]
@[simp] theorem logUnmapped_mcs (w : Who) (addr island : Nat) (s : Sled) : (logUnmapped w addr island s).mcs = s.mcs := by rw [logUnmapped_frame]
@[simp] theorem logUnmapped_speedQ (w : Who) (addr island : Nat) (s : Sled) : (logUnmapped w addr island s).speedQ = s.speedQ := by rw [logUnmapped_frame]
@[simp] theorem logUnmapped_bank (w : Who) (addr island : Nat) (s : Sled) : (logUnmapped w addr island s).bank = s.bank := by rw [logUnmapped_frame]
@[simp] theorem logUnmapped_btm (w : Who) (addr island : Nat) (s : Sled) : (logUnmapped w addr island s).btm = s.btm := by rw [logUnmapped_frame]
@[simp] theorem logUnmapped_bcs (w : Who) (addr island : Nat) (s : Sled) : (logUnmapped w addr island s).bcs = s.bcs := by rw [logUnmapped_frame]
@[simp] theorem logUnmapped_xing (w : Who) (addr island : Nat) (s : Sled) : (logUnmapped w addr island s).xing = s.xing := by rw [logUnmapped_frame]
@[simp] theorem logUnmapped_vc (w : Who) (addr island : Nat) (s : Sled) : (logUnmapped w addr island s).vc = s.vc := by rw [logUnmapped_frame]
@[simp] theorem logUnmapped_ctr (w : Who) (addr island : Nat) (s : Sled) : (logUnmapped w addr island s).ctr = s.ctr := by rw [logUnmapped_frame]
@[simp] theorem logUnmapped_sem (w : Who) (addr island : Nat) (s : Sled) : (logUnmapped w addr island s).sem = s.sem := by rw [logUnmapped_frame]
@[simp] theorem logUnmapped_waits (w : Who) (addr island : Nat) (s : Sled) : (logUnmapped w addr island s).waits = s.waits := by rw [logUnmapped_frame]
@[simp] theorem logUnmapped_dld (w : Who) (addr island : Nat) (s : Sled) : (logUnmapped w addr island s).dld = s.dld := by rw [logUnmapped_frame]
@[simp] theorem logUnmapped_ste (w : Who) (addr island : Nat) (s : Sled) : (logUnmapped w addr island s).ste = s.ste := by rw [logUnmapped_frame]
@[simp] theorem logUnmapped_lnk (w : Who) (addr island : Nat) (s : Sled) : (logUnmapped w addr island s).lnk = s.lnk := by rw [logUnmapped_frame]
@[simp] theorem logUnmapped_fab (w : Who) (addr island : Nat) (s : Sled) : (logUnmapped w addr island s).fab = s.fab := by rw [logUnmapped_frame]
@[simp] theorem logUnmapped_thm (w : Who) (addr island : Nat) (s : Sled) : (logUnmapped w addr island s).thm = s.thm := by rw [logUnmapped_frame]
@[simp] theorem logUnmapped_stall (w : Who) (addr island : Nat) (s : Sled) : (logUnmapped w addr island s).stall = s.stall := by rw [logUnmapped_frame]

/-- A collector place with room takes the record (spec/18, R346). -/
theorem logRec_coll (r : Rec) (s : Sled) (h : (fget s.kpr.coll [] r.island).length < 16) :
    fget (logRec r s).kpr.coll [] r.island = fget s.kpr.coll [] r.island ++ [recStamp s r] := by
  have hc : (recCount r s).kpr.coll = s.kpr.coll := by unfold recCount; split <;> rfl
  have hi : (recStamp s r).island = r.island := rfl
  unfold logRec recPlace
  rw [hc, hi, if_pos h, recTell_kpr, recAlert_kpr]
  simp [recEnter, hc, hi]

/-- A place that is full drops the record, and the loss is counted (spec/18, R346). -/
theorem logRec_lost (r : Rec) (s : Sled) (h : 16 ≤ (fget s.kpr.coll [] r.island).length) :
    (logRec r s).kpr.coll = s.kpr.coll ∧ (logRec r s).kpr.lost = s.kpr.lost + 1 := by
  have hc : (recCount r s).kpr.coll = s.kpr.coll := by unfold recCount; split <;> rfl
  have hl : (recCount r s).kpr.lost = s.kpr.lost := by unfold recCount; split <;> rfl
  have hi : (recStamp s r).island = r.island := rfl
  unfold logRec recPlace
  rw [hc, hi, if_neg (by omega)]
  simp [dropRec, hc, hl]

/-- A record of severity 4 is outstanding, lost or not (spec/18, R347). -/
theorem logRec_outstanding (r : Rec) (s : Sled) :
    (logRec r s).kpr.outstanding = s.kpr.outstanding + (if r.sev = 4 then 1 else 0) := by
  unfold logRec recPlace
  split
  · rw [recTell_kpr, recAlert_kpr]
    unfold recEnter recCount
    split <;> simp
  · unfold dropRec recCount
    split <;> simp [bump, bumpN]

/-- A record of severity 3 or 4 that enters the collector raises the alert (spec/20, R393). -/
theorem logRec_alert (r : Rec) (s : Sled) (h : (fget s.kpr.coll [] r.island).length < 16) (hs : 3 ≤ r.sev) :
    (logRec r s).kpr.alert = true := by
  have hc : (recCount r s).kpr.coll = s.kpr.coll := by unfold recCount; split <;> rfl
  have hi : (recStamp s r).island = r.island := rfl
  have hv : (recStamp s r).sev = r.sev := rfl
  unfold logRec recPlace
  rw [hc, hi, if_pos h, recTell_kpr, recAlert_kpr]
  simp [hv, hs]

end Sys2Proof.Machine
end

