-- ==== Sys2Proof/Laws/Power.lean ====
section
/-! SUPPORT. What the shared operations of power, resets and the event log do. -/

namespace Sys2Proof.Machine

set_option Elab.async false

open Sys2Proof

/-! ## Power-down -/

@[simp] theorem cycleRegs_frame (s : Sled) :
    cycleRegs s = { s with regs := (cycleRegs s).regs, locked := [] } := rfl

/-- What the main rails supply loses its state; the keeper, flash, pins and straps stay (spec/03, R53, R61). -/
theorem mainLost_facts (s : Sled) :
    (mainLost s).fl = s.fl ∧ (mainLost s).now = s.now ∧ (mainLost s).mem = [] ∧ (mainLost s).ctr = [] ∧
    (mainLost s).sem = [] ∧ (mainLost s).prof = s.prof ∧
    (mainLost s).plat = { s.plat with coreReset := [], tenantReset := [] } ∧
    (mainLost s).clearing = true ∧ (mainLost s).bank = [] ∧ (mainLost s).btm = [] ∧ (mainLost s).xing = [] ∧
    (mainLost s).stall = s.stall ∧
    (mainLost s).kpr = { s.kpr with ctlq := [], hb := [], rdma := [], pendingMig := [], badSpares := 0
                                    fullTrain := 0, cachePend := 0, fillPend := 0, booted := false } := by
  refine ⟨rfl, rfl, rfl, rfl, rfl, rfl, rfl, rfl, rfl, rfl, rfl, rfl, rfl⟩

/-- The main rails power down: READY falls, and a sled whose rails were up or rising loses what they supply. -/
theorem railsDown_facts (s : Sled) :
    (railsDown s).fl = s.fl ∧ (railsDown s).now = s.now ∧ (railsDown s).prof = s.prof ∧
    (railsDown s).kpr.phase = s.kpr.phase ∧ (railsDown s).kpr.coll = s.kpr.coll ∧
    (railsDown s).plat = { s.plat with
      ready := false
      rails := if s.plat.rails = .up ∨ s.plat.rails = .rising then .falling else s.plat.rails
      coreReset := if s.plat.rails = .up ∨ s.plat.rails = .rising then [] else s.plat.coreReset
      tenantReset := if s.plat.rails = .up ∨ s.plat.rails = .rising then [] else s.plat.tenantReset } := by
  by_cases h : s.plat.rails = .up ∨ s.plat.rails = .rising
  · unfold railsDown
    rw [if_pos h, if_pos h, if_pos h, if_pos h]
    dsimp only
    split <;> refine ⟨rfl, rfl, rfl, rfl, rfl, rfl⟩
  · unfold railsDown
    rw [if_neg h, if_neg h, if_neg h, if_neg h]
    exact ⟨rfl, rfl, rfl, rfl, rfl, rfl⟩

/-- Memory is empty after the rails have gone down from up or rising. -/
theorem railsDown_mem (s : Sled) (h : s.plat.rails = .up ∨ s.plat.rails = .rising) :
    (railsDown s).mem = [] ∧ (railsDown s).ctr = [] ∧ (railsDown s).sem = [] := by
  unfold railsDown
  rw [if_pos h]
  dsimp only
  split <;> exact ⟨rfl, rfl, rfl⟩

/-! ## The event log -/

/-- An entry that does not open a sector is appended, and nothing else changes (spec/20, R397). -/
theorem logPut_append (e : LogEnt) (s : Sled) (h : e.seq % 1023 ≠ 1) :
    logPut e s = { s with fl := { s.fl with log := s.fl.log ++ [e] } } := by
  simp [logPut, logSector, h]

/-- The record that the keeper commits on hold-up (spec/03, R48). -/
theorem holdCommit_facts (r : Rec) (s : Sled) (h : s.kpr.phase = .running) (hl : s.fl.logSeq % 1023 ≠ 1) :
    holdCommit r s = { s with
      kpr := (holdCommit r s).kpr
      fl := { s.fl with
        logSeq := s.fl.logSeq + 1
        log := s.fl.log ++ [{ seq := s.fl.logSeq, boot := s.fl.boot, mod := moduleId s, hold := true
                              record := recStamp s r }] } } := by
  unfold holdCommit
  simp only [h, ne_eq, not_true_eq_false, if_false]
  rw [logPut_append _ _ (by simpa using hl)]
  split <;> rfl

end Sys2Proof.Machine
end

