-- ==== Sys2Proof/Laws/Start.lean ====
section
/-! SUPPORT. The start: READY_RAISE has no access of its own that waits, but for its preloads. -/

namespace Sys2Proof.Machine

set_option Elab.async false

open Sys2Proof

/-- A fold of updates that leave `stall` alone leaves it alone. -/
theorem foldl_stall {α : Type} (f : Sled → α → Sled) (h : ∀ s x, (f s x).stall = s.stall) :
    ∀ (l : List α) (s : Sled), (l.foldl f s).stall = s.stall
  | [], _ => rfl
  | x :: l, s => (foldl_stall f h l (f s x)).trans (h s x)

@[simp] theorem fwSet_stall (blk off v : Nat) (s : Sled) : (fwSet blk off v s).stall = s.stall := by
  unfold fwSet
  cases blkIsland blk <;> dsimp only
  repeat' split
  all_goals rfl

@[simp] theorem loadCurve_stall (i : Nat) (img : List Byte) (s : Sled) : (loadCurve i img s).stall = s.stall := by
  unfold loadCurve
  split <;> rfl

@[simp] theorem zeroFill_stall (st : Nat) (s : Sled) : (zeroFill st s).stall = s.stall := by
  unfold zeroFill
  split <;> rfl

@[simp] theorem chanEnd_stall (st c : Nat) (s : Sled) : (chanEnd st c s).stall = s.stall := by
  simp only [chanEnd, chanUp]
  repeat' split
  all_goals simp [updChan]

@[simp] theorem trainEnd_stall (s : Sled) (st : Nat) : (trainEnd s st).stall = s.stall := by
  have own (l : List Nat) (s : Sled) : (l.foldl (fun s c => ownerSet st c s) s).stall = s.stall :=
    foldl_stall _ (fun _ _ => by simp [ownerSet]) l s
  have ends (l : List Nat) (s : Sled) : (l.foldl (fun s c => chanEnd st c s) s).stall = s.stall :=
    foldl_stall _ (fun _ _ => chanEnd_stall ..) _ _
  simp only [trainEnd]
  split <;> simp only [own, ends, zeroFill_stall]

@[simp] theorem applySections_stall (p : Ppi) (s : Sled) : (applySections p s).stall = s.stall := by
  have fw (b : Nat) (o v : Nat → Nat) (l : List Nat) (s : Sled) :
      (l.foldl (fun s n => fwSet b (o n) (v n) s) s).stall = s.stall := foldl_stall _ (fun _ _ => fwSet_stall ..) _ _
  have slots (l : List (TenantCfg × Nat)) (s : Sled) :
      (l.foldl (fun s x => fwSet bSTE (0x300 + 8 * x.2) x.1.slots s) s).stall = s.stall :=
    foldl_stall _ (fun _ _ => fwSet_stall ..) _ _
  have alloc (l : List (TenantCfg × Nat)) (s : Sled) :
      (l.foldl (fun s x => allocTenant x.2 x.1 s) s).stall = s.stall :=
    foldl_stall (fun s x => allocTenant x.2 x.1 s) (fun _ _ => rfl) l s
  have pwl (l : List Nat) (s : Sled) : (l.foldl (fun s k => loadCurve k (pwlDefault k) s) s).stall = s.stall :=
    foldl_stall _ (fun _ _ => loadCurve_stall ..) _ _
  have own (l : List (PwlImage × Nat)) (s : Sled) :
      (l.foldl (fun s x => if x.2 < 16 then loadCurve x.2 x.1 s else s) s).stall = s.stall :=
    foldl_stall _ (fun _ _ => by split <;> simp) _ _
  simp only [applySections]
  repeat' split
  all_goals simp only [fw, slots, alloc, pwl, own, fwSet_stall]

@[simp] theorem lockMapping_stall (s : Sled) : (lockMapping s).stall = s.stall := by
  have one (o : Nat → Nat) (s : Sled) (n : Nat) :
      (if islRuns s iNOC then rSetField bMAP (o n) 63 1 1 s else s).stall = s.stall := by
    split <;> first | rw [rSetField_stall] | rfl
  unfold lockMapping
  rw [rSetField_stall]
  exact (foldl_stall _ (one _) _ _).trans (foldl_stall _ (one _) _ _)

@[simp] theorem serviceUp_stall (s : Sled) : (serviceUp s).stall = s.stall := by
  simp only [serviceUp]
  split
  · rfl
  · rw [platEvent_stall]; rfl

@[simp] theorem startCommits_stall (p : Ppi) (s : Sled) : (startCommits p s).stall = s.stall := by
  have tc (c u k : Nat) (s : Sled) : (trialCommit c u k s).stall = s.stall := by
    unfold trialCommit
    split <;> rfl
  simp only [startCommits, tc]

/-- READY_RAISE waits for nothing where the compute set is complete, nothing is preloaded and no link comes up. -/
theorem fxReadyRaise_stall (p : Ppi) (s : Sled) (hp : s.prof = some p)
    (hc : computeSet ((List.range 9).foldl trainEnd s) = true) (hl : preloads p = []) (hk : p.cfg.links = 0) :
    (fxReadyRaise s).stall = s.stall := by
  have ports (l : List Nat) (s : Sled) :
      (l.foldl (fun s l => if bitAt p.cfg.links l && islRuns s (iL l) then linkEnable l true s else s) s).stall = s.stall :=
    foldl_stall _ (fun s l => by rw [hk, if_neg (by simp [bitAt])]) l s
  have train (l : List Nat) (s : Sled) : (l.foldl trainEnd s).stall = s.stall :=
    foldl_stall _ trainEnd_stall l s
  have start (s : Sled) : (startPorts p.cfg s).stall = s.stall := by
    simp only [startPorts]
    split
    · exact ports _ _
    · exact ports _ _
  unfold fxReadyRaise
  split
  · rfl
  · simp only [hp, hc, hl, List.foldl_nil, Bool.not_true, Bool.false_eq_true, if_false]
    rw [startCommits_stall, serviceUp_stall, start, lockMapping_stall, applySections_stall, train]

end Sys2Proof.Machine
end

