-- ==== Sys2Proof/Tests/Slice0.lean ====
section
/-! SUPPORT. Tests of single operations and steps, and the witnesses: for every statement of
Certificates/Slice0/Obligations.lean that has hypotheses, states and operands that meet the hypotheses of each of its
clauses. -/

namespace Sys2Proof.Tests

set_option Elab.async false

open Sys2Proof Sys2Proof.Machine

/-! ## A running sled -/

/-- Tenant 0: every vault core, the first 16 counters and semaphores, 16 stream slots, 512 MiB of DRAM. -/
def tenant0 : TenantCfg :=
  { enabled := true, vcMask := 255, ctrLo := 0, ctrN := 16, semLo := 0, semN := 16, slots := 16
    regions := [(0, 0x20000000)] }

def cfg0 : ProfileCfg :=
  { bin := 0, ctlClk := 48, vcClk := List.replicate 8 72, steClk := 60, cap := 1400, tq := 2000, removal := none
    minStacks := 1, minVc := 1, minCc := 1, minPorts := 1, allowKt3 := true, unused := 0
    regions := 1 :: List.replicate 15 0, masks := pivots.map fun p => BitVec.ofNat 64 (2 ^ p), tenants := [tenant0]
    topology := 0, routes := [], peers := [(1, 0)], allowKt3Peers := false, links := 3, hostPort := true, pwl := []
    regBase := 0x7000000000, preload := [] }

/-- A profile with empty sections 1-4, after the header and the section table. -/
def ppi0 : Ppi :=
  { id := 7, magic := 0x4950504E, fmt := 1, count := 4, total := 192, profNum := 0, hostMode := 0, rsv0E := 0
    secVersion := 1, product := 0x4B540004, rsv18 := List.replicate 8 0
    table := [1, 2, 3, 4].map fun t => { typ := t, rsv := 0, off := 96, len := 0, crc := 0, data := [] }
    sigR := 0, sigS := 0, signer := some 2, cfg := cfg0 }

def fw0 : FwImage :=
  { id := 1, version := 1, secVersion := 1, signer := some 1, wellFormed := true, product := 0x4B540004, size := 1 }

def flash0 : Flash :=
  { dir0 := dirBytes
      { seq := 1, kprSlot := 0, rtSlot := 0, profCopy := [0, 0, 0, 0], trainGen := 0, versions := [1, 1, 1, 1] }
    keeper := [(keeperAt 0, fw0)], runtime := [(runtimeAt 0, fw0)], prof := [(profAt 0 0, ppi0)]
    keys := { a := some (1, [{ id := 1, kind := 1, revoked := false }, { id := 2, kind := 2, revoked := false }]) } }

/-- In compute service: every island runs, channel 0 of stack 0 is online, links 0 and 1 are enabled and the first is
ACTIVE, the host port is up with VF 0. -/
def up : Sled :=
  let s : Sled :=
    { plat := { pwrEn := true, perst := false, sampling := false, windows := 1, rails := .up, ready := true
                railUp := 7, coolant := some 100, demand := some 700, rangeHigh := some true }
      isl := (List.range 38).map fun i => (i, { state := 2 }), ccRunning := 15, clearing := false
      kpr := { phase := .running, tier := 2, chosen := true, booted := true, railEnable := true }
      prof := some ppi0, chan := [(0, { online := true })], lnk := [(0, { state := 6, peer := 1 })]
      hst := { up := true, retry := false, vfEn := 1 }
      ctr := [(0, { valid := true })], sem := [(0, { valid := true })] }
  let s := rSet bMAP 0 1 (rSet (bLNK 0) 0 1 (rSet (bLNK 1) 0 1 (rSet bSTE 0x300 16 s)))
  (List.range 13).foldl (fun s i => rSet bMAP (0x80 + 8 * i) (2 ^ (8 + i)) s) s

/-- A sled with no command waiting. -/
def mk (s : Sled) : State := ⟨s, []⟩

/-- Fields (byte offset, value) of a descriptor or another little-endian record. -/
def word (l : List (Nat × Nat)) : Nat := l.foldl (fun a p => a + p.2 * 2 ^ (8 * p.1)) 0

/-- A started descriptor of queue `q`. -/
def dsc (q : Nat) (l : List (Nat × Nat)) : Desc := { id := 1, q := q, addr := 0, bytes := BitVec.ofNat 512 (word l), stage := 1 }

/-- Core 0's scratchpad with the bytes of `x` at its start. -/
def scratch (n x : Nat) (s : Sled) : Sled :=
  writeLocal 0x8000000000 ((List.range n).map fun i => (BitVec.ofNat 8 (x / 2 ^ (8 * i)), false)) s

/-- A bank program of one instruction, running on stack 0, its first instruction in core 0's scratchpad. -/
def prog (x : BcsInstr) (s : Sled) : Sled :=
  scratch 16 (bcsEncode x) { s with bcs := [(0, { run := some run0 })] }
where
  run0 : Run := { prog := { addr := 0x8000000000, count := 1, tenant := 0 }, q := 0 }

/-- Bank 0 alone. -/
def b0 : BankSel := { stack := 0, chan := 0, group := 0, banks := 1 }
/-- BAU fields: register 1, the even half, BF16. -/
def f0 : BauFields :=
  { col := 31, h := false, x := 0, y := 1, z := 0, fmt := 0, l := 0, a := false, m := false, linc := false, cnt := 0 }

/-- The program rows of bank 0 are open. -/
def bank0 (s : Sled) : Sled := { s with bank := [(0, { rowE := some 0, rowO := some 1 })] }
/-- The scalar engine of core 0 runs. -/
def se0 (s : Sled) : Sled := { s with vc := [(0, { seRun := true })] }
/-- A message from module 1. -/
def msg0 : MsgIn := { hleft := 3, dest := 0, src := 1, tenant := 0, addr := 0x8000000000, tag := 0, arg := 0, data := [] }
/-- A request to module 1 that waits for its answer. -/
def out0 (c : Cont) : Outst := { dest := 1, msg := { kind := 1, h := msg0 }, at_ := 0, cont := c }
/-- The primary route to module 1 is link 0, the alternate one link 1. -/
def routed (s : Sled) : Sled := rSet bMAP 0x808 0x300100 s
/-- A read request to bank 0 of a channel, and one that may join the batch of row 0. -/
def r0 : Req := { port := 0, bank := 0, row := 0, col := 0, wr := none, at_ := 0, u := 0, phys := 0 }
def r1 : Req := { r0 with join := true }
/-- A miss on bank 1 before a row hit on bank 0. -/
def hit0 : Sled := { up with chan := [(0, { q := [{ r0 with bank := 1 }, r1], bank := [(0, { row := some 0 })] })] }
/-- The sled with channel 0 of stack 0 as given. -/
def ch0 (c : Chan) : Sled := { up with chan := [(0, c)] }
/-- The place of address 0x20. -/
def c0 : Coord := ((translate up 0x20).getD (coordOf 0, 0)).1
/-- A BCS instruction on bank 0. -/
def ins (op arg data : Nat) : BcsInstr := { iop := op, chmask := 1, group := 0, banks := 1, arg := arg, data := data }
/-- The sled with queue 0 of core 0 enabled, one entry written, its first byte `x`. -/
def ring (x : Nat) : Sled := scratch 1 x (rSet (bLAY 0) 0x08 1 (rSet (bLAY 0) 0 (2 ^ 40 + 2 * 2 ^ 25) up))
def zeros64 (x : Byte) : List (Byte × Bool) := (x, false) :: List.replicate 63 (0, false)
/-- Core 0 has fetched descriptor `d`. -/
def vcDesc (d : Desc) : Sled := { up with vc := [(0, { descs := [d] })] }
def fillD : Desc := dsc 15 [(0, 2), (0x2C, 1), (0x28, 32), (0x20, 0x8000000000)]
def copyD : Desc := dsc 15 [(0, 1), (0x2C, 1), (0x28, 32), (0x18, 0x8000000000), (0x20, 0x8000000040)]
def redD : Desc := dsc 15 [(0, 4), (2, 1), (0x2C, 1), (0x28, 4), (0x18, 0x8000000000), (0x20, 0x8000000040)]
def gemmD : Desc := dsc 16 [(0, 0x20), (1, 0x40), (2, 0x55), (0x2C, 1), (0x2E, 1), (0x30, 4), (0x1C, 64), (0x20, 128)]
def vopD : Desc := dsc 20 [(0, 0x40), (2, 0x44), (0x28, 1), (0x2C, 1), (0x3C, 1), (0x1C, 4), (0x20, 8), (0x24, 12)]
/-- A tensor descriptor of `n` bytes in one dimension, from one base to another. -/
def ten (n a b : Nat) : Nat :=
  word [(0, 1), (0x10, n), (0x48, a), (0x50, 1), (0xD8, b), (0xE0, 1)]
def layD : Desc := dsc 15 [(0, 3), (0x18, 0x8000000000)]
/-- Core 0 runs a LAYOUT whose tensor descriptor is `x`. -/
def layS (x : Nat) : Sled := scratch 384 x (vcDesc layD)
/-- What the LAYOUT's start reads. -/
def lay2 (x : Nat) : LuRun :=
  match (layoutStart 0 layD (layS x)).1 with
  | .inr r => r
  | .inl _ => { kept := [] }
def side0 (b : Nat) : Side :=
  { mode := 0, space := 0, table := 0, base := b, stride := [1], origin := [0], porigin := [0], pshape := [0], clean := true }
def tx : Tensor :=
  { ndim := 1, esize := 1, custom := false, ccount := 0, perm := [0], ctable := 0, ext := [64], clean := true
    src := side0 0x8000001000, dst := side0 0x8000002000 }
/-- Control core 0 waits for counter 0 to reach `n`; VF 0 waits for it to reach 1. -/
def wt (n : Int) : Wait := { who := whoAgent up (.cc 0), kind := .counter, idx := 0, target := n, start := 0 }
def wv : Wait := { wt 1 with who := { kind := 7, tenant := some 0, island := 35 } }
/-- A stream of four channels of kind 0 in slot 0. -/
def st0 : Strm := { tenant := 0, kind := 0, c := 4, home := 0, slots := [0], resident := true }
def ste0 (d : Desc) (s : Sled) : Sled := { s with ste := { s.ste with descs := [d] } }
def strm0 (x : Strm) (s : Sled) : Sled := { s with ste := { s.ste with streams := [(5, x)] } }
def sregD : Desc := dsc 0 [(0, 0x60), (0x18, 5), (0x1C, 4), (0x28, 0x8000000000)]
def stepD : Desc := dsc 0 [(0, 0x61), (0x18, 5), (0x1C, 1), (0x20, 0x8000000000), (0x28, 0x8000001000), (0x30, 0x8000002000)]
def capD : Desc := dsc 0 [(0, 0x62), (0x18, 5), (0x20, 0x8000000000), (0x28, 4096)]
def impD : Desc := dsc 0 [(0, 0x63), (0x18, 5), (0x20, 0x8000000000)]
def impS : Sled := scratch 72 (word [(0, 0x53435A4E), (4, 1), (0xC, 4)]) (ste0 impD up)
/-- A message to send, a flit sent and a flit received with a bad CRC. -/
def mg : Msg := { kind := 0xB, h := msg0 }
def tf0 : TxFlit := { seq := 0, vc := 0, msgs := [], bytes := [] }
def fl0 : FlitIn := { bytes := [] }
def rc : Rec := { code := 0x7010, sev := 1, island := 37 }
def rd0 : Rdma := { n := 3, src := 0x8000000000, dst := 0x8000001000, len := 64, fill := false, sig := false }
/-- A valid curve in core 0's scratchpad. -/
def curveS : Sled := scratch 224 (leNat (pwlDefault 0)) up
def mred : MsgIn := { msg0 with addr := 0, arg := 0x401, data := [0, 0, 0x80, 0x3F] }

/-! ## Tests of single operations and steps, from the spec's worked cases and tables -/

theorem test_wf_strap_samples : (Instr.strapWindowEnd (List.replicate 15 0)).wf = false := by decide
theorem test_wf_strap_ok : (Instr.strapWindowEnd (List.replicate 16 0)).wf = true := by decide
theorem test_wf_training_step : (Instr.trainStepGo 0 0 7 0 true).wf = false := by decide
theorem test_wf_capar_reads : (Instr.caparAlert 0 0 0 []).wf = false := by decide
theorem test_wf_fec_flits : (Instr.fecBlockReceive 0 [] [] (List.replicate 6 []) []).wf = false := by decide
theorem test_wf_fec_places : (Instr.fecBlockReceive 0 [3, 3] [] (List.replicate 5 (List.replicate 256 0)) []).wf = false := by
  decide +kernel
theorem test_wf_message_length : (Instr.fabWrite 0 { msg0 with data := List.replicate 209 0 }).wf = false := by decide +kernel
theorem test_wf_message_words :
    (Instr.fabWrite 0 { msg0 with addr := 0x1F, data := List.replicate 226 0 }).wf = false := by decide +kernel
theorem test_wf_inner_message :
    (Instr.unreach 0 msg0 1 { msg0 with data := List.replicate 209 0 }).wf = false := by decide +kernel
theorem test_wf_reserved_kind : (Instr.reservedKindMessage 0 5 0 msg0).wf = false := by decide
theorem test_wf_host_write : (Instr.hostMemoryWrite 0 .bar2 0 [] false).wf = false := by decide
theorem test_wf_cxl_write : (Instr.cxlMemRequest 0 (some (0, [1])) false).wf = false := by decide

/-- The masks of the worked case of spec/05. -/
def masks5 : List Nat :=
  [0x8800100, 0x11000200, 0x22000400, 0x44000800, 0x80001000, 0x100002000, 0x200004000, 0x800008000, 0x1000010000,
   0x2000020000, 0x4000040000, 0x20080000, 0x40100000]

/-- The worked case of spec/05: address 0x12_3456_7A40 in hashed region 0. -/
theorem test_translate_hashed :
    let c := xlate masks5 (regionOfWord (1 + 16 * 9)) 0x1234567A40
    (c.stack, c.chan, c.rank, c.bank, c.row, c.col, c.byte) = (3, 4, 3, 14, 9320, 18, 0) := by decide +kernel

/-- The worked case of spec/21: the same address under the masks of KT3 mode. -/
theorem test_translate_kt3 :
    xlate kt3Masks (regionOfWord (1 + 16 * 9)) 0x1234567A40 =
      { stack := 1, chan := 2, rank := 2, bank := 4, row := 9320, col := 18, byte := 0 } := by decide +kernel

/-- The inverse of R101 gives the address back. -/
theorem test_translate_back :
    xlateInv masks5 (regionOfWord (1 + 16 * 9)) (xlate masks5 (regionOfWord (1 + 16 * 9)) 0x1234567A40) = 0x1234567A40 := by
  decide +kernel

/-- CRC-32C of "123456789" is 0xE306_9283, the check value of the polynomial. -/
theorem test_crc32c : crc32c [0x31, 0x32, 0x33, 0x34, 0x35, 0x36, 0x37, 0x38, 0x39] = 0xE3069283 := by decide +kernel

/-- Round to nearest, ties to even: 1 + 2^-8 lies half way between two BF16 values. -/
theorem test_bf16_tie_even : encodeF bf16 (decodeF fp32 0x3F808000) = 0x3F80 := by decide +kernel
theorem test_bf16_tie_up : encodeF bf16 (decodeF fp32 0x3F818000) = 0x3F82 := by decide +kernel
theorem test_fp4_largest : encodeF fp32 (decodeFp4 0x7) = 0x40C00000 := by decide +kernel

theorem test_idle_only_time : (match step (mk up) with | .next t => decide (t = mk { up with now := 1 }) | _ => false) = true := by
  decide +kernel
theorem test_front_first :
    (match step ⟨up, [.pwrEnDeassert, .readyRaise]⟩ with | .next t => decide (t.pending = [.readyRaise]) | _ => false) = true := by
  decide +kernel

/-- One command on a sled, and a check of what follows. -/
def after (c : Instr) (s : Sled) (p : Sled → Bool) : Bool :=
  match exec c (mk s) with
  | .next t => p t.sled
  | _ => false

/-- The base of S5's MC block is 0xF0_0150_0000 (spec/22). -/
theorem test_register_base : regSplit 0xF001500008 = some (0x015, 8) := by decide
theorem test_register_size : after (.registerWrite (.cc 0) 0xF000000020 .b2 1) up (fun t => kt3 t == false) = true := by
  decide +kernel
/-- R228: an addition beyond 2^48 - 1 leaves the counter there, saturated. -/
theorem test_counter_saturates :
    after (.counterSignal (.cc 0) 0 0 true 2) { up with ctr := [(0, { valid := true, value := 2 ^ 48 - 2 })] }
      (fun t => getCtr t 0 = { valid := true, value := 2 ^ 48 - 1, sat := true }) = true := by decide +kernel
/-- R230: -2^31 - 1 is outside the range. -/
theorem test_semaphore_below :
    after (.semaphoreAdd (.cc 0) 0 0 false 0xFFFFFFFF) { up with sem := [(0, { valid := true, count := -(2 ^ 31) })] }
      (fun t => getSem t 0 = { valid := true, count := -(2 ^ 31) }) = true := by decide +kernel
theorem test_semaphore_negative :
    after (.semaphoreAdd (.cc 0) 0 0 false 0xFFFFFFFF) up (fun t => (getSem t 0).count = -1) = true := by decide +kernel
/-- R47: an input above 62 V opens the stage. -/
theorem test_overvoltage : after .inputRise62v up (fun t => t.plat.supply = .holdUp true) = true := by decide +kernel
theorem test_module_id : moduleId { up with plat := { up.plat with strap := 0x2A } } = 0x2A := by decide
/-- GET_IDENTITY names the product 0x4B54_0004, little-endian. -/
theorem test_identity :
    after (.getIdentity .smbus) up (fun t => match t.outs with
      | [.resp ⟨.smbus, 0⟩ 0x7E 1 0 b] => b.take 4 = [0x04, 0x00, 0x54, 0x4B]
      | _ => false) = true := by decide +kernel
theorem test_fill_writes : after (.fill 0 15 0) (vcDesc { fillD with bytes := fillD.bytes ||| (0xAB <<< 192) })
    (fun t => memRead t.mem (2 ^ 40 + 0x8000000000) 9 = [0xAB, 0, 0, 0, 0, 0, 0, 0, 0xAB]) = true := by decide +kernel
theorem test_copy_moves : after (.copy 0 15 0) (scratch 2 0x1234 (vcDesc copyD))
    (fun t => memRead t.mem (2 ^ 40 + 0x8000000040) 3 = [0x34, 0x12, 0]) = true := by decide +kernel
/-- BADD on BF16 lanes: 1 + 2 = 3 in V0. -/
theorem test_badd :
    after (.badd b0 { f0 with z := 2 })
      { up with bank := [(0, { v := #v[0, 0x3F80, 0x4000, 0, 0, 0, 0, 0], rowE := some 0 })] }
      (fun t => laneOf 16 (getV (getBank t 0) 0) 0 = 0x4040) = true := by decide +kernel
/-- Table 15-2: a termination found in DETECT starts the lanes' training. -/
theorem test_link_termination : after (.linkTerminationFound 0) { up with lnk := [(0, { state := 1 })] }
    (fun t => (getLnk t 0).state = 2) = true := by decide +kernel
/-- A conversion of slot 0 is its reading. -/
theorem test_sensor_reading : after (.sensorSlotRead 0 (.conv 111)) up (fun t => (sensor t 0).reading = 111) = true := by
  decide +kernel
/-- The worked case of spec/05: a bank-local address of region 1, in row 33,933. -/
theorem test_translate_local :
    xlate masks5 (regionOfWord (1 + 2 + 16 * 8 + 2 ^ 16 * 0x100 + 2 ^ 32 * 512)) 0x4D3E123440 =
      { stack := 3, chan := 4, rank := 3, bank := 14, row := 33933, col := 2, byte := 0 } := by decide +kernel

/-- Table 4-2: the directory's magic 0x4E5A_4449 is its first four bytes, and a copy reads back. -/
theorem test_directory_bytes :
    let d : Dir := { seq := 5, kprSlot := 1, rtSlot := 0, profCopy := [0, 1, 0, 1], trainGen := 3, versions := [1, 2, 3, 4] }
    (dirBytes d).take 4 = [0x49, 0x44, 0x5A, 0x4E] ∧ dirParse (dirBytes d) = some d := by decide +kernel
/-- Table 4-1: profile 2 copy B lies at 0x2A0_0000, runtime slot B at 0x180_0000. -/
theorem test_flash_places : profAt 2 1 = 0x2A00000 ∧ runtimeAt 1 = 0x1800000 := by decide
/-- A profile within every limit of Table 4-5 passes the checks of Table 4-4; for another product it fails check 3. -/
theorem test_profile_checks :
    ppiCheck { up with fl := flash0 } 0 ppi0 = none ∧ ppiCheck { up with fl := flash0 } 0 { ppi0 with product := 1 } = some 3 := by
  decide +kernel
/-- Spec/16, worked case: from 0x2A to 0x5C by L5 in 3 hops, by L10 in 4; in the torus two steps go in the +1 direction. -/
theorem test_default_route :
    galleryRoute (fun _ => true) 0x2A 0x5C =
      { pri := 5, rsp := 5, alt := 10, distP := 3, distA := 4, pValid := true, aValid := true, narrow := false } ∧
    (torusRoute 0 8).pri = 4 ∧ (torusRoute 0 8).distP = 2 := by decide

/-- R297: symbol k goes to active lane k mod W. -/
theorem test_fec_places :
    fecPlaces false false [5] [3] = [9, 7] ∧ fecPlaces true true [1] [6] = [6] := by decide

/-- R297 and the worked case of spec/15: a burst of 32 symbols on one lane is corrected; all 136 symbols of lane 5 in error
are 34 in each codeword. -/
theorem test_fec_burst :
    fecOk 8 ((List.range 32).map fun i => 8 * i + 5) = true ∧
    (fecErrs 8 ((List.range 136).map fun i => 8 * i + 5) 2).length = 34 := by decide +kernel
/-- Table 15-5: a flit reads back as it was written, and a flipped bit fails its CRC-32C. -/
theorem test_flit_bytes :
    let f : Flit := { type := 1, vc := 2, seq := 0xABC, ack := 0xFFF, credit := [(0, 1), (1, 2), (2, 3), (3, 4)]
                      payload := List.replicate 32 7 }
    flitRead false (flitBytes false f) = some f ∧ flitRead false ((flitBytes false f).set 100 1) = none := by decide +kernel
/-- R317: a message reads back from its payload units. -/
theorem test_message_bytes :
    let m : Msg := { kind := 1, h := { msg0 with tag := 9, data := List.replicate 16 3 } }
    msgsRead 15 (msgWire m) [] = [m] ∧ msgUnits m = 2 := by decide +kernel

/-! ## Witnesses: the hypotheses of each clause of each statement, met together -/

/-- With no memory controller's state set, no rank out of service and the SRAMs cleared, no access waits. -/
theorem calm_of (s : Sled) (hm : s.mcs = []) (hc : s.clearing = false) (hd : ∀ p ∈ s.chan, p.2.dead = 0) :
    calm s := by
  have h : ∀ st c, (getChan s st c).dead = 0 := fun st c =>
    fget_forall (fun x : Chan => x.dead = 0) _ _ rfl s.chan hd
  intro w
  simp [heldRead, heldWrite, rankHeld, unreadable, mirrorOf, h, hm, hc, bitAt]

theorem wit_CommandsCompleteInOrderAndAnEmptyQueueIdles :
    (∃ (cs : List Instr) (s : State), s.pending = cs) ∧
    (∃ s : State, s.pending = []) :=
  ⟨⟨[.getIdentity .smbus], ⟨up, [.getIdentity .smbus]⟩,
    by decide +kernel⟩,
  ⟨mk up,
    by decide +kernel⟩⟩

theorem wit_InputStageAndMainRailSequence :
    (∃ s : State, s.sled.plat.supply = .unpowered) ∧
    (∃ s : State, s.sled.plat.supply = .precharge) ∧
    (∃ (s : State) (c : Instr) (code : Nat) (ov : Bool), ((c, code, ov) = (.inputFall37v, 0x7010, false) ∨ (c,
    code, ov) = (.inputRise62v, 0x7011, true)) ∧ s.sled.plat.supply = .on ∧ s.sled.kpr.phase = .running ∧
    s.sled.fl.logSeq % 1023 ≠ 1) ∧
    (∃ (s : State) (ov : Bool), s.sled.plat.supply = .holdUp ov) ∧
    (∃ s : State, s.sled.plat.supply = .overV) ∧
    (∃ s : State, s.sled.plat.supply = .on ∧ s.sled.kpr.phase = .running ∧ s.sled.plat.inputLow = false ∧
    s.sled.plat.rangeHigh = none ∧ (fget s.sled.kpr.coll [] 0).length < 16) ∧
    (∃ s : State, s.sled.plat.inputLow = true ∧ s.sled.plat.rangeHigh = none) ∧
    (∃ s : State, s.sled.kpr.phase = .running ∧ s.sled.kpr.railEnable = false ∧ s.sled.thm.critHold = false ∧
    s.sled.plat.pwrEn = true ∧ s.sled.plat.railFault = false ∧ s.sled.plat.quiesce = .none ∧ s.sled.plat.rails =
    .off) ∧
    (∃ s : State, s.sled.kpr.phase = .running ∧ s.sled.kpr.railEnable = false ∧ s.sled.thm.critHold = false ∧
    s.sled.plat.pwrEn = false) ∧
    (∃ s : State, s.sled.plat.rails = .rising) ∧
    (∃ (s : State) (rail : Fin 7), s.sled.plat.rails = .up) ∧
    (∃ s : State, s.sled.plat.rails = .falling ∧ s.sled.plat.pwrEn = false) ∧
    (∃ s : State, s.sled.plat.supply = .holdUp false) :=
  ⟨⟨(mk { up with plat.supply := .unpowered }),
    by decide +kernel⟩,
  ⟨(mk { up with plat.supply := .precharge }),
    by decide +kernel⟩,
  ⟨mk up, .inputFall37v, 0x7010, false,
    by decide +kernel⟩,
  ⟨(mk { up with plat.supply := .holdUp true }), true,
    by decide +kernel⟩,
  ⟨(mk { up with plat.supply := .overV }),
    by decide +kernel⟩,
  ⟨(mk { up with plat.rangeHigh := none }),
    by decide +kernel⟩,
  ⟨(mk { up with plat.inputLow := true, plat.rangeHigh := none }),
    by decide +kernel⟩,
  ⟨(mk { up with kpr.railEnable := false, plat.rails := .off }),
    by decide +kernel⟩,
  ⟨(mk { up with kpr.railEnable := false, plat.pwrEn := false }),
    by decide +kernel⟩,
  ⟨(mk { up with plat.rails := .rising }),
    by decide +kernel⟩,
  ⟨mk up, 6,
    by decide +kernel⟩,
  ⟨(mk { up with plat.rails := .falling, plat.pwrEn := false }),
    by decide +kernel⟩,
  ⟨mk { up with plat.supply := .holdUp false },
    by decide +kernel⟩⟩

theorem wit_ModuleResetPowerEnableAndHostReset :
    (∃ s : State, s.sled.plat.supply = .on ∧ s.sled.plat.modReset = false) ∧
    (∃ s : State, s.sled.plat.supply = .on ∧ s.sled.plat.modReset = true) ∧
    (∃ s : State, s.sled.plat.pwrEn = false ∧ s.sled.plat.cycle = false ∧ s.sled.kpr.railEnable = true ∧
    s.sled.plat.railFault = false ∧ s.sled.plat.quiesce = .none ∧ s.sled.plat.rails = .off) ∧
    (∃ s : State, s.sled.plat.pwrEn = false ∧ s.sled.plat.cycle = true ∧ s.sled.kpr.tier ≠ 1 ∧
    (s.sled.plat.unstable = false ∨ s.sled.plat.unstableMask &&& 0x4FF#11 = 0)) ∧
    (∃ s : State, s.sled.plat.pwrEn = false ∧ s.sled.plat.cycle = true ∧ s.sled.plat.unstable = true ∧
    s.sled.plat.unstableMask &&& 0x4FF#11 ≠ 0) ∧
    (∃ s : State, s.sled.plat.pwrEn = true ∧ s.sled.plat.quiesced = true ∧ s.sled.plat.rails = .up) ∧
    (∃ s : State, s.sled.plat.pwrEn = true ∧ s.sled.plat.quiesced = false ∧ s.sled.kpr.phase = .running ∧
    s.sled.fl.logSeq % 1023 ≠ 1) ∧
    (∃ s : State, islRuns s.sled iHST = true) ∧
    (∃ s : State, s.sled.plat.rails = .up ∧ islState s.sled iHST = 1) :=
  ⟨⟨mk up,
    by decide +kernel⟩,
  ⟨(mk { up with plat.modReset := true }),
    by decide +kernel⟩,
  ⟨(mk { up with plat.pwrEn := false, plat.rails := .off }),
    by decide +kernel⟩,
  ⟨(mk { up with plat.pwrEn := false, plat.cycle := true }),
    by decide +kernel⟩,
  ⟨mk { up with plat.pwrEn := false, plat.cycle := true, plat.unstable := true, plat.unstableMask := 1 },
    by decide +kernel⟩,
  ⟨(mk { up with plat.quiesced := true }),
    by decide +kernel⟩,
  ⟨mk up,
    by decide +kernel⟩,
  ⟨mk up,
    by decide +kernel⟩,
  ⟨(mk { up with isl := fset up.isl {} iHST {} }),
    by decide +kernel⟩⟩

theorem wit_StrapsDebouncedInputsAndQuiesce :
    (∃ (s : State) (x : BitVec 11) (rest : List (BitVec 11)), s.sled.plat.sampling = true ∧ s.sled.plat.supply =
    .on ∧ s.sled.plat.modReset = false ∧ (∀ y ∈ rest, y = x) ∧ x.getLsbD 10 = false ∧ bitAt (rGet s.sled bGLB
    0x20) 0 = false) ∧
    (∃ (s : State) (x y : BitVec 11) (rest : List (BitVec 11)), s.sled.plat.sampling = true ∧ s.sled.plat.supply
    = .on ∧ s.sled.plat.modReset = false ∧ y ∈ rest ∧ y ≠ x ∧ s.sled.plat.windows < 2) ∧
    (∃ (s : State) (x y : BitVec 11) (rest : List (BitVec 11)), s.sled.plat.sampling = true ∧ s.sled.plat.supply
    = .on ∧ s.sled.plat.modReset = false ∧ y ∈ rest ∧ y ≠ x ∧ 2 ≤ s.sled.plat.windows) ∧
    (∃ (s : State) (b : Bool), s.sled.kpr.session = none) ∧
    (∃ (s : State) (x : Session), s.sled.kpr.session = some x ∧ (fget s.sled.kpr.coll [] 0).length < 16) ∧
    (∃ s : State, s.sled.plat.quiesce = .none ∧ s.sled.kpr.phase = .running) ∧
    (∃ s : State, s.sled.plat.quiesce = .draining ∧ (fxQuiesceTqExpire s.sled).stall = s.sled.stall) ∧
    (∃ s : State, s.sled.plat.quiesce = .expired ∧ s.sled.plat.rails = .off ∧ s.sled.kpr.ops = [] ∧
    s.sled.kpr.phase = .running) :=
  ⟨⟨(mk { up with plat.sampling := true }), 5, [5],
    by decide +kernel⟩,
  ⟨(mk { up with plat.sampling := true }), 5, 4, [5, 4],
    by decide +kernel⟩,
  ⟨(mk { up with plat.sampling := true, plat.windows := 2 }), 5, 4, [5, 4],
    by decide +kernel⟩,
  ⟨mk up, true,
    by decide +kernel⟩,
  ⟨(mk { up with kpr.session := some {} }), {},
    by decide +kernel⟩,
  ⟨mk up,
    by decide +kernel⟩,
  ⟨(mk { up with plat.quiesce := .draining }),
    by decide +kernel⟩,
  ⟨(mk { up with plat.quiesce := .expired, plat.rails := .off }),
    by decide +kernel⟩⟩

theorem wit_KeeperStartsAndChoosesTheProfile :
    (∃ s : State, s.sled.kpr.phase = .rom ∧ s.sled.plat.supply = .on ∧ s.sled.plat.modReset = false ∧
    s.sled.plat.sampling = false ∧ s.sled.fl.readable = false) ∧
    (∃ (s : State) (k : Nat), s.sled.kpr.phase = .rom ∧ s.sled.plat.supply = .on ∧ s.sled.plat.modReset = false
    ∧ s.sled.plat.sampling = false ∧ s.sled.fl.readable = true ∧ keeperSlot s.sled = some k ∧ onTrial s.sled 1
    (dirOf s.sled).kprSlot = false ∧ s.sled.plat.unstable = false) ∧
    (∃ (s : State) (n c : Nat) (p : Ppi), s.sled.kpr.phase = .running ∧ s.sled.kpr.chosen = false ∧
    s.sled.plat.sampling = false ∧ s.sled.kpr.tier ≠ 1 ∧ s.sled.fl.override.cur = some (some n) ∧ readPpi
    { s.sled with fl := { s.sled.fl with override := s.sled.fl.override.write none } } n = (c, .ok p) ∧ (∀ x ∈
    p.sections, 1 ≤ x ∧ x ≤ 6) ∧ p.cfg.unused = 0) ∧
    (∃ (s : State) (c : Nat) (p : Ppi), s.sled.kpr.phase = .running ∧ s.sled.kpr.chosen = false ∧
    s.sled.plat.sampling = false ∧ s.sled.kpr.tier ≠ 1 ∧ s.sled.fl.override.cur = none ∧ (s.sled.plat.unstable =
    false ∨ s.sled.plat.unstableMask &&& 0x300#11 = 0) ∧ readPpi s.sled (bitsOf s.sled.plat.strap.toNat 8 2) =
    (c, .ok p) ∧ (∀ x ∈ p.sections, 1 ≤ x ∧ x ≤ 6) ∧ p.cfg.unused = 0) ∧
    (∃ (s : State) (n c c0 r : Nat) (p : Ppi), s.sled.kpr.phase = .running ∧ s.sled.kpr.chosen = false ∧
    s.sled.plat.sampling = false ∧ s.sled.kpr.tier ≠ 1 ∧ s.sled.fl.override.cur = none ∧ s.sled.plat.unstable =
    false ∧ n = bitsOf s.sled.plat.strap.toNat 8 2 ∧ n ≠ 0 ∧ readPpi s.sled n = (c, .error r) ∧ onTrial s.sled
    (0x10 + n) c = false ∧ readPpi s.sled 0 = (c0, .ok p)) ∧
    (∃ (s : State) (n : Nat), s.sled.kpr.phase = .running ∧ s.sled.kpr.chosen = false ∧ s.sled.plat.sampling =
    false ∧ s.sled.kpr.tier = 1 ∧ s.sled.fl.override.cur = some (some n)) ∧
    (∃ (s : State) (w : BitVec 12), s.sled.kpr.phase = .running ∧ s.sled.plat.demand = none ∧ s.sled.kpr.chosen
    = true) :=
  ⟨⟨(mk { up with kpr.phase := .rom, fl.readable := false }),
    by decide +kernel⟩,
  ⟨(mk { up with kpr.phase := .rom, fl := flash0 }), 0,
    by decide +kernel⟩,
  ⟨(mk
   { up with kpr.chosen := false, kpr.tier := 0, fl := { flash0 with override := { a := some (1, some 0) } } }),
   0, 0, ppi0,
    by decide +kernel⟩,
  ⟨(mk { up with kpr.chosen := false, fl := flash0 }), 0, ppi0,
    by decide +kernel⟩,
  ⟨(mk { up with kpr.chosen := false, fl := flash0, plat.strap := 0x100 }), 1, 0, 0, 1, ppi0,
    by decide +kernel⟩,
  ⟨mk
   { up with kpr.chosen := false, kpr.tier := 1, fl := { flash0 with override := { a := some (1, some 0) } } }, 0,
    by decide +kernel⟩,
  ⟨(mk { up with plat.demand := none }), 500,
    by decide +kernel⟩⟩

theorem wit_RuntimeReleaseReadyAndTrainingCache :
    (∃ (s : State) (k : Nat), s.sled.kpr.phase = .running ∧ s.sled.plat.rails = .up ∧ s.sled.prof.isSome = true
    ∧ s.sled.kpr.chosen = true ∧ s.sled.kpr.tier ≠ 1 ∧ s.sled.kpr.booted = false ∧ s.sled.ccRunning = 0 ∧
    s.sled.ccOffline = 0 ∧ s.sled.plat.demand.isSome = true ∧ s.sled.kpr.digRt = none ∧ runtimeSlot s.sled =
    (some k, s.sled)) ∧
    (∃ (s : State) (p : Ppi), s.sled.ccRunning ≠ 0 ∧ s.sled.kpr.booted = false ∧ s.sled.kpr.tier ≠ 1 ∧
    s.sled.plat.rails = .up ∧ s.sled.plat.quiesce = .none ∧ s.sled.kpr.phase = .running ∧ s.sled.prof = some p ∧
    computeSet ((List.range 9).foldl trainEnd s.sled) = true ∧ (fxReadyRaise s.sled).stall = s.sled.stall) ∧
    (∃ s : State, s.sled.kpr.phase = .running ∧ s.sled.kpr.booted = true ∧ s.sled.kpr.cachePend ≠ 0 ∧
    s.sled.plat.quiesce ≠ .expired ∧ (dirOf s.sled).seq + 1 < 2 ^ 32) :=
  ⟨⟨(mk { up with kpr.booted := false, ccRunning := 0, fl := flash0 }), 0,
    by decide +kernel⟩,
  ⟨mk
   { up with kpr.booted := false, mcs := [(0, { passed := (List.range 4).map fun i => (i, 126) })]
             isl := [0, iMC 0, iVC 0, iHST].map fun i => (i, { state := 2, selftest := true })
             prof := some { ppi0 with cfg.links := 0 } },
   { ppi0 with cfg.links := 0 },
    by refine ⟨?_, ?_, ?_, ?_, ?_, ?_, ?_, ?_, fxReadyRaise_stall { ppi0 with cfg.links := 0 } _ rfl ?_ rfl rfl⟩ <;>
      decide +kernel⟩,
  ⟨mk { up with kpr.cachePend := 1 },
    by decide +kernel⟩⟩

theorem wit_BootTimeoutHaltsCoresAndFallsToWatchOnly :
    ∃ s : State, s.sled.kpr.phase = .running ∧ s.sled.kpr.booted = false ∧ s.sled.kpr.tier = 0 ∧
    s.sled.plat.pwrEn = true ∧ s.sled.kpr.bootAt + 60000 * ms ≤ s.sled.now ∧ (fget s.sled.kpr.coll [] 0).length
    < 16 :=
  ⟨mk { up with kpr.booted := false, kpr.tier := 0, plat.pwrEn := true, now := 60000 * ms },
    by decide +kernel⟩

theorem wit_WarmTenantAndCoreReset :
    (∃ (s : State) (i : Fin 4), canAct s.sled (.cc i) = true ∧ islRuns s.sled 0 = true ∧ s.sled.plat.rails = .up
    ∧ s.sled.prof.isSome = true ∧ digestBad s.sled = none ∧ s.sled.xing = [] ∧ (∀ p ∈ s.sled.chan, p.2.q = [] ∧
    ∀ e ∈ p.2.retry, e.out = none)) ∧
    (∃ (s : State) (i : Fin 4) (t : Tenant), canAct s.sled (.cc i) = true ∧ islRuns s.sled 0 = true ∧
    s.sled.locked = [] ∧ s.sled.plat.tenantReset = [] ∧ s.sled.plat.coreReset = [] ∧ s.sled.plat.rails = .up) ∧
    (∃ (s : State) (i : Fin 4) (core : Fin 8), canAct s.sled (.cc i) = true ∧ islRuns s.sled 0 = true ∧
    s.sled.locked = [] ∧ s.sled.plat.tenantReset = [] ∧ s.sled.plat.coreReset = [] ∧ islRuns s.sled (iVC core) =
    true) ∧
    (∃ (s : State) (t : Tenant), s.sled.plat.tenantReset.any (·.1 = t.val) = true ∧ (∀ c ∈
    s.sled.plat.coreReset, c.1 < 8 → bitAt (vcMask s.sled t) c.1 = false)) ∧
    (∃ (s : State) (core : Fin 8), s.sled.plat.coreReset.any (·.1 = core.val) = true) ∧
    (∃ (s : State) (i : Fin 4), s.sled.plat.coreReset.any (·.1 = 8 + i.val) = true ∧ s.sled.ccOffline.getLsbD i
    = false) :=
  ⟨⟨mk up, 0,
    by decide +kernel⟩,
  ⟨mk up, 0, 0,
    by decide +kernel⟩,
  ⟨mk up, 0, 7,
    by decide +kernel⟩,
  ⟨(mk { up with plat.tenantReset := [(0, true)] }), 0,
    by decide +kernel⟩,
  ⟨(mk { up with plat.coreReset := [(7, true)] }), 7,
    by decide +kernel⟩,
  ⟨(mk { up with plat.coreReset := [(11, true)] }), 3,
    by decide +kernel⟩⟩

theorem wit_RegisterAccessesFollowClassesAndMap :
    (∃ (s : State) (a : Agent) (v : Word), canAct s.sled a = true ∧ blkReach a bSYN = true ∧ islRuns s.sled iNOC
    = true ∧ lockedReg s.sled bSYN 8 = false) ∧
    (∃ (s : State) (a : Agent) (v : Word), canAct s.sled a = true ∧ blkReach a bSYN = true ∧ islRuns s.sled iNOC
    = true ∧ lockedReg s.sled bSYN 8 = true) ∧
    (∃ (s : State) (a : Agent) (v : Word), canAct s.sled a = true ∧ blkReach a (bMC 0) = true ∧ islRuns s.sled
    (iMC 0) = true ∧ crossHeld s.sled (bMC 0) = false) ∧
    (∃ (s : State) (a : Agent) (v : Word), canAct s.sled a = true ∧ blkReach a bMAP = true ∧ islRuns s.sled iNOC
    = true ∧ lockedReg s.sled bMAP 0x800 = false ∧ bitAt (rGet s.sled bMAP 0x800) 63 = false) ∧
    (∃ (s : State) (a : Agent) (v : Word), canAct s.sled a = true ∧ blkReach a bMAP = true ∧ islRuns s.sled iNOC
    = true ∧ bitAt (rGet s.sled bMAP 0x800) 63 = true) ∧
    (∃ (s : State) (a : Agent) (v : Word), canAct s.sled a = true ∧ blkReach a bSYN = true ∧ islRuns s.sled iNOC
    = true ∧ kt3 s.sled = false) ∧
    (∃ (s : State) (a : Agent) (v : Word), canAct s.sled a = true ∧ blkReach a (bMC 0) = true ∧ islRuns s.sled
    (iMC 0) = true ∧ crossHeld s.sled (bMC 0) = true) ∧
    (∃ (s : State) (a : Agent) (l : LinkId) (v : Word), canAct s.sled a = true ∧ rField s.sled (bLNK l) 0 0 1 =
    0) ∧
    (∃ (s : State) (a : Agent) (addr : LAddr) (v : Word) (size : AccSize) (blk off : Nat), canAct s.sled a =
    true ∧ regSplit addr.toNat = some (blk, off) ∧ (size = .b1 ∨ size = .b2 ∨ regFields blk (off / 8 * 8) = none
    ∨ blkReach a blk = false)) ∧
    (∃ (s : State) (a : Agent) (l : LAddr) (g : GAddr), canAct s.sled a = true ∧ regSplit l.toNat = none ∧
    placeOf s.sled l.toNat = none ∧ (l.toNat < 0x8100000000 ∨ 0x81001E8000 ≤ l.toNat) ∧ g.toNat = moduleId
    s.sled * 2 ^ 40 + l.toNat) ∧
    (∃ (s : Sled) (a : Agent) (addr n : Nat), regMapped s a addr n = false) ∧
    (∃ (s : State) (a : Agent) (k : Bool) (p : Ppi), canAct s.sled a = true ∧ blkReach a bGLB = true ∧ islRuns
    s.sled 0 = true ∧ s.sled.prof = some p ∧ p.cfg.allowKt3 = true ∧ s.sled.plat.strap.getLsbD 10 = false ∧
    lockedReg s.sled bGLB 0x20 = false ∧ bitAt (rGet s.sled bGLB 0x20) 63 = false) ∧
    (∃ (s : State) (a : Agent) (k : Bool), canAct s.sled a = true ∧ blkReach a bGLB = true ∧ islRuns s.sled 0 =
    true ∧ s.sled.plat.strap.getLsbD 10 = true ∧ lockedReg s.sled bGLB 0x20 = false ∧ bitAt (rGet s.sled bGLB
    0x20) 63 = false) ∧
    (∃ (s : State) (a : Agent) (k l : Bool), canAct s.sled a = true ∧ blkReach a bGLB = true ∧ islRuns s.sled 0
    = true ∧ bitAt (rGet s.sled bGLB 0x20) 63 = true) ∧
    (∃ (s : State), s.sled.plat.strap.getLsbD 10 = true) :=
  ⟨⟨mk up, .cc 0, 5,
    by decide +kernel⟩,
  ⟨(mk { up with locked := [regKey bSYN 8] }), .cc 0, 5,
    by decide +kernel⟩,
  ⟨mk up, .cc 0, 5,
    by decide +kernel⟩,
  ⟨mk up, .cc 0, 3,
    by decide +kernel⟩,
  ⟨mk (rSet bMAP 0x800 (2 ^ 63) up), .cc 0, 3,
    by decide +kernel⟩,
  ⟨mk up, .cc 0, 5,
    by decide +kernel⟩,
  ⟨mk { up with mcs := [(0, { speed := some { target := 1, phase := 1 } })] }, .cc 0, 5,
    by decide +kernel⟩,
  ⟨mk up, .cc 0, 5,
    by decide +kernel⟩,
  ⟨mk up, .cc 0, 0xF000000000, 1, .b1, 0, 0,
    by decide +kernel⟩,
  ⟨mk up, .cc 0, 0x100, 0x100,
    by decide +kernel⟩,
  ⟨up, .vf 0, 0x8100000000, 8,
    by decide +kernel⟩,
  ⟨mk up, .cc 0, true, ppi0,
    by decide +kernel⟩,
  ⟨(mk { up with plat.strap := 0x400 }), .cc 0, true,
    by decide +kernel⟩,
  ⟨mk (rSet bGLB 0x20 (2 ^ 63) up), .cc 0, true, true,
    by decide +kernel⟩,
  ⟨(mk { up with plat.strap := 0x400 }),
    by decide +kernel⟩⟩

theorem wit_ProbeReportsTheTranslation :
    ∃ (s : State) (a : Agent) (addr : LAddr), canAct s.sled a = true ∧ blkReach a bMAP = true ∧ islRuns s.sled
    iNOC = true ∧ lockedReg s.sled bMAP 0x100 = false :=
  ⟨mk up, .cc 0, 0x20, by decide +kernel⟩

theorem wit_RequestsQueueAndTheOldestRowHitGoesFirst :
    (∃ (s : State) (port : Fin 12) (addr : LAddr) (wr : Option (BitVec 32 × BitVec 256)) (c d : Coord) (n :
    Nat), translate s.sled addr.toNat = some (c, n) ∧ c.redirected s.sled = d ∧ islRuns s.sled iNOC = true ∧
    islRuns s.sled (iMC d.stack) = true ∧ queueRoom (getChan s.sled d.stack d.chan).q port.val = true ∧
    (unreadable s.sled d.stack d.chan d.rank = false ∨ rankHeld s.sled d.stack d.chan d.rank = true)) ∧
    (∃ (s : State) (port : Fin 12) (addr : LAddr) (wr : Option (BitVec 32 × BitVec 256)) (c : Coord) (n : Nat),
    translate s.sled addr.toNat = some (c, n) ∧ islRuns s.sled (iMC (c.redirected s.sled).stack) = true ∧
    queueRoom (getChan s.sled (c.redirected s.sled).stack (c.redirected s.sled).chan).q port.val = false) ∧
    (∃ (s : State) (port : Fin 12) (addr : LAddr) (d : BitVec 32 × BitVec 256), translate s.sled addr.toNat =
    none ∧ islRuns s.sled iNOC = true) ∧
    (∃ (q : List Req) (i j : Nat) (x y a b : Req), i < j ∧ q[i]? = some x ∧ q[j]? = some y ∧ reqOverlap x y =
    true ∧ (inherit_ q)[i]? = some a ∧ (inherit_ q)[j]? = some b) ∧
    (∃ (s : State) (st : StackId) (c : ChanId) (i : Fin 64) (r : Req), (getChan s.sled st c).q[i.val]? = some r) ∧
    (∃ (s : Sled) (st : StackId) (p : Fin 11), rField s (bMC st) (0x10 + 8 * p.val) 0 16 = 2000 ∧ binOf s st =
    0) ∧
    (∃ (s : State) (st : StackId) (c : ChanId) (b : CBank) (row : Nat), (getBt (getChan s.sled st c) b).row =
    some row) ∧
    (∃ (s : Sled) (st c t u i : Nat), pickReq s st c t u = .col i) ∧
    (∃ (s : Sled) (st c t u i : Nat), pickReq s st c t u = .act i) :=
  ⟨⟨mk up, 0, 0x20, none, c0, c0, 0,
    by decide +kernel⟩,
  ⟨(mk { up with chan := [(0, { online := true, q := List.replicate 64 r0 })] }), 0, 0x20, none, c0, 0,
    by decide +kernel⟩,
  ⟨mk up, 0, 0x7FFFFFFFE0, (0, 0),
    by decide +kernel⟩,
  ⟨[r0, { r0 with u := 2 }], 0, 1, r0, { r0 with u := 2 }, { r0 with u := 2 }, { r0 with u := 2 },
    by decide +kernel⟩,
  ⟨(mk { up with chan := [(0, { q := [r0] })] }), 0, 0, 0, r0,
    by decide +kernel⟩,
  ⟨rSet (bMC 0) 0x10 2000 up, 0, 0,
    by decide +kernel⟩,
  ⟨(mk { up with chan := [(0, { bank := [(0, { row := some 5 })] })] }), 0, 0, 0, 5,
    by decide +kernel⟩,
  ⟨{ hit0 with now := 5 }, 0, 0, 5, 0, 1,
    by decide +kernel⟩,
  ⟨{ up with chan := [(0, { q := [r0] })] }, 0, 0, 5, 0, 0,
    by decide +kernel⟩⟩

theorem wit_CommandSlotIssuesRefreshActAndColumn :
    (∃ (s : State) (st : StackId) (c : ChanId) (ch : Chan) (t : Nat), slotAt s.sled st c ch t ∧ ((∃ r, ch.replay
    = some r ∧ (r.phase ≠ 2 ∨ r.todo = [] ∨ t < ch.rdyCmd)) ∨ (ch.replay = none ∧ ch.pause.isSome = true))) ∧
    (∃ (s : State) (st : StackId) (c : ChanId) (ch : Chan) (t : Nat) (r : Replay) (e : RetryEnt) (rest : List
    RetryEnt), slotAt s.sled st c ch t ∧ ch.replay = some r ∧ r.phase = 2 ∧ r.todo = e :: rest ∧ e.out = none ∧
    ch.rdyCmd ≤ t) ∧
    (∃ (s : State) (st : StackId) (c : ChanId) (ch : Chan) (e : RetryEnt) (p : Nat) (d : BitVec 256) (po :
    Bool), ch = getChan s.sled st c ∧ islRuns s.sled (iMC st) = true ∧ (fget s.sled.mcs {} st).selfRefresh =
    false ∧ ch.replay = none ∧ ch.pause.isSome = true ∧ ch.retry = [e] ∧ e.out = some (p, d, po) ∧ e.due ≤
    nextSlot s.sled st c) ∧
    (∃ (s : State) (st : StackId) (c : ChanId) (b : CBank) (ch : Chan) (t : Nat), slotFree s.sled st c ch t ∧
    (getBt ch b).owed = 8 ∧ (∀ x : CBank, x < b → (getBt ch x).owed ≠ 8) ∧ bankIdle s.sled st c b t = true ∧
    ch.rdyRef ≤ t) ∧
    (∃ (s : State) (st : StackId) (c : ChanId) (ch : Chan) (r : Req) (t : Nat), slotFree s.sled st c ch t ∧ (∀ x
    : CBank, (getBt ch x).owed = 0) ∧ bcsWants s.sled st c = false ∧ ch.q = [r] ∧ r.u ≤ 3 ∧ r.bank < 64 ∧ r.join
    = false ∧ actReady s.sled st c t r = true) ∧
    (∃ (s : State) (st : StackId) (c : ChanId) (ch : Chan) (r : Req) (t : Nat), slotFree s.sled st c ch t ∧ (∀ x
    : CBank, (getBt ch x).owed = 0) ∧ bcsWants s.sled st c = false ∧ ch.q = [r] ∧ r.u ≤ 3 ∧ r.bank < 64 ∧ r.wr =
    none ∧ colReady s.sled st c t 0 r = true ∧ eccAt s.sled (r.phys / 32 * 32) = eClean ∧ unreadable s.sled
    (coordOf (r.phys / 32 * 32)).stack (coordOf (r.phys / 32 * 32)).chan (coordOf (r.phys / 32 * 32)).rank =
    false) ∧
    (∃ (s : State) (st : StackId) (c : ChanId) (b : CBank), islRuns s.sled (iMC st) = true ∧ (fget s.sled.mcs {}
    st).selfRefresh = false ∧ (getBt (getChan s.sled st c) b).owed < 8 ∧ refreshDue s.sled st c b ≤ chTime
    s.sled st c) ∧
    (∃ (s : State) (st : StackId) (c : ChanId) (b : CBank), islRuns s.sled (iMC st) = true ∧ (fget s.sled.mcs {}
    st).selfRefresh = false ∧ (getBt (getChan s.sled st c) b).owed = 8 ∧ refreshDue s.sled st c b ≤ chTime
    s.sled st c ∧ ffind s.sled.kpr.rate (0x3004 * 2 ^ 40 + chanBankKey st c b) = none ∧ (fget s.sled.kpr.coll []
    (iMC st)).length < 16) ∧
    (∃ (s : State) (st : StackId) (c : ChanId) (b : CBank), chTime s.sled st c < refreshDue s.sled st c b) ∧
    (∃ (s : State) (st : StackId) (c : ChanId) (b : CBank), (fget s.sled.mcs {} st).selfRefresh = true) :=
  ⟨⟨mk (ch0 { pause := some 2 }), 0, 0, { pause := some 2 }, nextSlot (ch0 { pause := some 2 }) 0 0,
    by decide +kernel, .inr (by decide +kernel)⟩,
  ⟨mk (ch0 { replay := some { rank := 1, d := 1, attempts := 0, phase := 2, todo := [{ ranks := 2, cmd := .ref 16 }] } }), 0, 0,
   { replay := some { rank := 1, d := 1, attempts := 0, phase := 2, todo := [{ ranks := 2, cmd := .ref 16 }] } },
   nextSlot (ch0 { replay := some { rank := 1, d := 1, attempts := 0, phase := 2, todo := [{ ranks := 2, cmd := .ref 16 }] } }) 0 0,
   { rank := 1, d := 1, attempts := 0, phase := 2, todo := [{ ranks := 2, cmd := .ref 16 }] },
   { ranks := 2, cmd := .ref 16 }, [],
    by decide +kernel⟩,
  ⟨mk (ch0 { pause := some 0, retry := [{ ranks := 1, cmd := .ref 0, out := some (3, 5, false) }] }), 0, 0,
   { pause := some 0, retry := [{ ranks := 1, cmd := .ref 0, out := some (3, 5, false) }] },
   { ranks := 1, cmd := .ref 0, out := some (3, 5, false) }, 3, 5, false,
    by decide +kernel⟩,
  ⟨mk (ch0 { bank := [(0, { owed := 8 })] }), 0, 0, 0, { bank := [(0, { owed := 8 })] }, nextSlot (ch0 { bank := [(0, { owed := 8 })] }) 0 0,
    by decide +kernel⟩,
  ⟨(mk { up with chan := [(0, { q := [r0] })] }), 0, 0, { q := [r0] }, r0, slotLen (binOf up 0),
    by decide +kernel⟩,
  ⟨mk (ch0 { q := [r1], bank := [(0, { row := some 0 })] }), 0, 0, { q := [r1], bank := [(0, { row := some 0 })] }, r1,
   nextSlot (ch0 { q := [r1], bank := [(0, { row := some 0 })] }) 0 0,
    by decide +kernel⟩,
  ⟨mk up, 0, 0, 0,
    by decide +kernel⟩,
  ⟨mk (ch0 { bank := [(0, { owed := 8 })] }), 0, 0, 0,
    by decide +kernel⟩,
  ⟨mk up, 0, 0, 63,
    by decide +kernel⟩,
  ⟨(mk { up with mcs := [(0, { selfRefresh := true })] }), 0, 0, 0,
    by decide +kernel⟩⟩

theorem wit_ParityReplayAndPatrolScrub :
    (∃ (s : State) (st : StackId) (c : ChanId) (r : RankId) (d : BitVec 6) (more : List (Option (BitVec 6))),
    islRuns s.sled (iMC st) = true ∧ bitAt (getChan s.sled st c).dead r = false ∧ bitAt (mw5 (getChan s.sled st
    c) r) 0 = true ∧ (getChan s.sled st c).pause = none ∧ (getChan s.sled st c).replay = none ∧ d.toNat ≤
    buffered (getChan s.sled st c) r) ∧
    (∃ (s : State) (st : StackId) (c : ChanId) (r : RankId), islRuns s.sled (iMC st) = true ∧ bitAt (getChan
    s.sled st c).dead r = false ∧ bitAt (mw5 (getChan s.sled st c) r) 0 = true ∧ (getChan s.sled st c).pause =
    none ∧ (getChan s.sled st c).replay = none ∧ st.val < 8 ∧ (getChan s.sled st c).retry.length ≤ 32 ∧ (fget
    s.sled.mcs {} st).mig = none ∧ spareTaken s.sled st r = true ∧ (fget s.sled.kpr.coll [] (iMC st)).length <
    16) ∧
    (∃ (s : State) (st : StackId) (c : ChanId) (r : RankId) (reads : List (Option (BitVec 6))), bitAt (mw5
    (getChan s.sled st c) r) 0 = false) ∧
    (∃ (s : State) (st : StackId) (c : ChanId) (r : Replay), (getChan s.sled st c).replay = some r ∧ r.phase = 1
    ∧ (getChan s.sled st c).rdyCmd ≤ chTime s.sled st c) ∧
    (∃ (s : State) (st : StackId) (c : ChanId) (r : Replay), (getChan s.sled st c).replay = some r ∧ r.phase = 2
    ∧ r.todo = [] ∧ (getChan s.sled st c).rdyCmd ≤ chTime s.sled st c ∧ r.attempts = 0) ∧
    (∃ (s : State) (st : StackId) (c : ChanId) (r : Replay), (getChan s.sled st c).replay = some r ∧ r.phase = 2
    ∧ r.todo = [] ∧ (getChan s.sled st c).rdyCmd ≤ chTime s.sled st c ∧ 0 < r.attempts) ∧
    (∃ (s : State) (st : StackId) (c : ChanId) (ch : Chan) (it : ScrubItem), scrubFree s.sled st c ch ∧ it =
    { bank := ch.curBank, row := ch.curRow, col := none } ∧ ch.curBank < 64 ∧ ch.curRow < 65536 ∧ scrubSkips
    s.sled st c it = false ∧ itemBusy s.sled st c it = false ∧ (∀ n : Fin 9, (fget s.sled.mcs {} n).mig = none)) :=
  ⟨⟨mk (ch0 { mw5 := [(0, 1)] }), 0, 0, 0, 0, [],
    by decide +kernel⟩,
  ⟨mk { ch0 { mw5 := [(0, 1)] } with kpr.pendingMig := [(0, 0, false)] }, 0, 0, 0,
    by decide +kernel⟩,
  ⟨mk up, 0, 0, 0, [],
    by decide +kernel⟩,
  ⟨mk (ch0 { replay := some { rank := 0, d := 0, attempts := 0, phase := 1 } }), 0, 0,
   { rank := 0, d := 0, attempts := 0, phase := 1 },
    by decide +kernel⟩,
  ⟨(mk { up with chan := [(0, { replay := some { rank := 0, d := 0, attempts := 0, phase := 2 } })] }), 0, 0,
   { rank := 0, d := 0, attempts := 0, phase := 2 },
    by decide +kernel⟩,
  ⟨(mk { up with chan := [(0, { replay := some { rank := 0, d := 0, attempts := 1, phase := 2 } })] }), 0, 0,
   { rank := 0, d := 0, attempts := 1, phase := 2 },
    by decide +kernel⟩,
  ⟨mk up, 0, 0, { online := true }, { bank := 0, row := 0, col := none },
    by decide +kernel⟩⟩

theorem wit_TrainingStepsRunReportAndCopy :
    (∃ (s : State) (st : StackId) (c : ChanId) (stp : BitVec 3) (r : RankId) (fin : Bool), islRuns s.sled (iMC
    st) = true ∧ lockedReg s.sled (bMC st) (offTrain c) = false ∧ rField s.sled (bMC st) (offTrain c) 11 1 = 0 ∧
    stp ≠ 0 ∧ stp ≠ 7 ∧ (fget s.sled.mcs {} st).helper = none ∧ (fget s.sled.mcs {} st).helperQ = [] ∧ crossHeld
    s.sled (bMC st) = false ∧ stackPauses s.sled st = false) ∧
    (∃ (s : State) (st : StackId) (c : ChanId) (stp : BitVec 3) (r : RankId) (fin : Bool) (h : Nat × Nat × Nat),
    islRuns s.sled (iMC st) = true ∧ lockedReg s.sled (bMC st) (offTrain c) = false ∧ rField s.sled (bMC st)
    (offTrain c) 11 1 = 0 ∧ stp ≠ 0 ∧ stp ≠ 7 ∧ (fget s.sled.mcs {} st).helper = some h ∧ h.1 ≠ c.val ∧ (∀ x ∈
    (fget s.sled.mcs {} st).helperQ, x.1 ≠ c.val) ∧ crossHeld s.sled (bMC st) = false) ∧
    (∃ (s : State) (st : StackId) (c : ChanId) (stp : BitVec 3) (r : RankId) (fin : Bool), islRuns s.sled (iMC
    st) = true ∧ crossHeld s.sled (bMC st) = false ∧ rField s.sled (bMC st) (offTrain c) 11 1 = 1) ∧
    (∃ (s : State) (st : StackId) (c : ChanId) (res : TrainResult) (stp rank : Nat) (m : Mcs) (fin : Nat), m =
    fget s.sled.mcs {} st ∧ fin = rField s.sled (bMC st) (offTrain c) 10 1 ∧ islRuns s.sled (iMC st) = true ∧
    m.helper = some (c.val, stp, rank) ∧ m.helperQ = [] ∧ m.heldDly = [] ∧ stp < 7 ∧ rank < 4 ∧ res.pass = true
    ∧ (stp = 5 ∨ 24 ≤ res.eyeMin.toNat)) ∧
    (∃ (s : State) (st : StackId) (c : ChanId) (res : TrainResult) (rank : Nat), islRuns s.sled (iMC st) = true
    ∧ (fget s.sled.mcs {} st).helper = some (c.val, 6, rank) ∧ rank < 4 ∧ res.pass = false ∧ (fget
    s.sled.kpr.coll [] iCTL).length < 16) ∧
    (∃ (s : State) (st : StackId) (c : ChanId) (res : TrainResult) (stp rank : Nat), islRuns s.sled (iMC st) =
    true ∧ (fget s.sled.mcs {} st).helper = some (c.val, stp, rank) ∧ rank < 4 ∧ stp < 6 ∧ res.pass = false ∧
    st.val < 8 ∧ spareTaken s.sled st rank = false ∧ s.sled.kpr.pendingMig.length < ((List.range 4).filter
    (spareFree s.sled)).length ∧ (fget s.sled.kpr.coll [] (iMC st)).length < 16) :=
  ⟨⟨mk up, 0, 0, 1, 0, true,
    by decide +kernel⟩,
  ⟨(mk { up with mcs := [(0, { helper := some (1, 1, 0) })] }), 0, 0, 6, 3, true, (1, 1, 0),
    by decide +kernel⟩,
  ⟨mk (rSet (bMC 0) (offTrain 0) 2048 up), 0, 0, 1, 0, true,
    by decide +kernel⟩,
  ⟨(mk { up with mcs := [(0, { helper := some (0, 6, 3) })] }), 0, 0,
   { pass := true, eyeMin := 24, devMax := 0, delays := [] }, 6, 3, { helper := some (0, 6, 3) }, 0,
    by decide +kernel⟩,
  ⟨(mk { up with mcs := [(0, { helper := some (0, 6, 3) })] }), 0, 0,
   { pass := false, eyeMin := 23, devMax := 0, delays := [] }, 3,
    by decide +kernel⟩,
  ⟨mk
   { up with mcs := [(0, { helper := some (0, 5, 3) }), (8, { passed := (List.range 64).map fun i => (i, 126) })] }, 0, 0,
   { pass := false, eyeMin := 23, devMax := 0, delays := [] }, 5, 3,
    by decide +kernel⟩⟩

theorem wit_DelayWritesAndRetrainingPause :
    (∃ (s : State) (st : StackId) (taps : BitVec 6) (sel : Nat), sel = rGet s.sled (bMC st) 0x200 ∧ islRuns
    s.sled (iMC st) = true ∧ lockedReg s.sled (bMC st) 0x208 = false ∧ ownerHw s.sled st (bitsOf sel 0 4) =
    false ∧ bitAt sel 14 = false ∧ bitsOf sel 6 7 < 96 ∧ crossHeld s.sled (bMC st) = false ∧ (fget s.sled.mcs {}
    st).helper = none) ∧
    (∃ (s : State) (st : StackId) (taps : BitVec 6) (sel : Nat) (x : Nat × Nat), sel = rGet s.sled (bMC st)
    0x200 ∧ islRuns s.sled (iMC st) = true ∧ lockedReg s.sled (bMC st) 0x208 = false ∧ ownerHw s.sled st (bitsOf
    sel 0 4) = false ∧ bitAt sel 14 = false ∧ bitsOf sel 6 7 < 96 ∧ crossHeld s.sled (bMC st) = false ∧ (fget
    s.sled.mcs {} st).helper = some (bitsOf sel 0 4, x)) ∧
    (∃ (s : State) (st : StackId) (taps : BitVec 6), islRuns s.sled (iMC st) = true ∧ lockedReg s.sled (bMC st)
    0x208 = false ∧ crossHeld s.sled (bMC st) = false ∧ ownerHw s.sled st (bitsOf (rGet s.sled (bMC st) 0x200) 0
    4) = true) ∧
    (∃ (s : State) (st : StackId) (c : ChanId), islRuns s.sled (iMC st) = true ∧ ownerHw s.sled st c = true ∧ (∀
    d : ChanId, (getChan s.sled st d).extra = none) ∧ ((getChan s.sled st c).replay.isSome = true ∨ (getChan
    s.sled st c).pause.isSome = true)) ∧
    (∃ (s : State) (st : StackId) (c : ChanId), islRuns s.sled (iMC st) = true ∧ ownerHw s.sled st c = true ∧ (∀
    d : ChanId, (getChan s.sled st d).extra = none) ∧ (getChan s.sled st c).due = 1 ∧ pauseReady s.sled st c =
    true) ∧
    (∃ (s : State) (st : StackId) (c : ChanId) (ch : Chan) (t r : Nat), slotAt s.sled st c ch t ∧ ch.due = 0 ∧
    ch.extra = some r ∧ pauseReady s.sled st c = true) ∧
    (∃ (s : State) (st : StackId) (c : ChanId) (rank : Nat) (lane : Fin 96) (w : Bool) (tap : BitVec 6) (eye :
    BitVec 8) (m : Mcs) (k : Nat), m = fget s.sled.mcs {} st ∧ k = dlyKey (liveSet m) c rank lane (b2n w) ∧
    (getChan s.sled st c).pause = some rank ∧ rank < 4 ∧ lane.val < 72 ∧ 16 ≤ eye.toNat ∧ Machine.dist (fget
    m.dlyLive 0 k) tap.toNat ≤ 8 ∧ fwf (0 : Nat) m.dlyShadow = true ∧ fwf (0 : Nat) m.dlyLive = true) ∧
    (∃ (s : State) (st : StackId) (c : ChanId) (rank : Nat) (lane : Fin 96) (w : Bool) (tap : BitVec 6) (eye :
    BitVec 8), (getChan s.sled st c).pause = some rank ∧ rank < 4 ∧ lane.val < 72 ∧ 16 ≤ eye.toNat ∧ 8 <
    Machine.dist (fget (fget s.sled.mcs {} st).dlyLive 0 (dlyKey (liveSet (fget s.sled.mcs {} st)) c rank lane
    (b2n w))) tap.toNat ∧ (fget s.sled.kpr.coll [] (iMC st)).length < 16) :=
  ⟨⟨mk up, 0, 63, 0,
    by decide +kernel⟩,
  ⟨(mk { up with mcs := [(0, { helper := some (0, 1, 0) })] }), 0, 63, 0, (1, 0),
    by decide +kernel⟩,
  ⟨mk (rSet (bMC 0) (offTrain 0) 2048 up), 0, 63,
    by decide +kernel⟩,
  ⟨mk (rSet (bMC 0) (offTrain 0) 2048
   { up with chan := [(0, { replay := some { rank := 0, d := 0, attempts := 0, phase := 0 } })] }), 0, 0,
    by decide +kernel⟩,
  ⟨mk (rSet (bMC 0) (offTrain 0) 2048 { up with chan := [(0, { due := 1 })] }), 0, 0,
    by decide +kernel⟩,
  ⟨mk (ch0 { extra := some 2, dueX := true }), 0, 0, { extra := some 2, dueX := true }, nextSlot (ch0 { extra := some 2, dueX := true }) 0 0, 2,
    by decide +kernel⟩,
  ⟨(mk { up with chan := [(0, { pause := some 0 })] }), 0, 0, 0, 71, true, 8, 16, {}, dlyKey (liveSet {}) 0 0 71
   1,
    by decide +kernel⟩,
  ⟨(mk { up with chan := [(0, { pause := some 0 })] }), 0, 0, 0, 71, true, 9, 16,
    by decide +kernel⟩⟩

theorem wit_SpeedChangeRunsItsSequence :
    (∃ (s : State) (st : StackId) (bin : BitVec 2), islRuns s.sled (iMC st) = true ∧ lockedReg s.sled (bMC st)
    0x300 = false ∧ profBin s.sled ≤ min bin.toNat 2 ∧ (fget s.sled.mcs {} st).speed = none) ∧
    (∃ (s : State) (st : StackId) (bin : BitVec 2), islRuns s.sled (iMC st) = true ∧ lockedReg s.sled (bMC st)
    0x300 = false ∧ crossHeld s.sled (bMC st) = false ∧ (min bin.toNat 2 < profBin s.sled ∨ (fget s.sled.mcs {}
    st).speed.isSome = true)) ∧
    (∃ (s : State) (st : StackId) (v : Speed) (rest : List Nat), (fget s.sled.mcs {} st).speed = some v ∧
    v.phase = 0 ∧ s.sled.speedQ = st.val :: rest ∧ islRuns s.sled (iMC st) = true ∧ migRuns s.sled st = false ∧
    (∀ c : ChanId, (getChan s.sled st c).replay = none ∧ (getChan s.sled st c).pause = none)) ∧
    (∃ (s : State) (st : StackId) (v : Speed), (fget s.sled.mcs {} st).speed = some v ∧ v.phase = 1 ∧ (fget
    s.sled.mcs {} st).lowSince = none ∧ s.sled.xing = []) ∧
    (∃ (s : State) (st : StackId) (v : Speed), (fget s.sled.mcs {} st).speed = some v ∧ v.phase = 1 ∧
    s.sled.xing = []) :=
  ⟨⟨mk up, 0, 3,
    by decide +kernel⟩,
  ⟨(mk { up with mcs := [(0, { speed := some { target := 1 } })] }), 0, 1,
    by decide +kernel⟩,
  ⟨(mk { up with mcs := [(0, { speed := some { target := 1 } })], speedQ := [0] }), 0, { target := 1 }, [],
    by decide +kernel⟩,
  ⟨(mk { up with mcs := [(0, { speed := some { target := 1, phase := 1 } })] }), 0, { target := 1, phase := 1 },
    by decide +kernel⟩,
  ⟨(mk { up with mcs := [(0, { speed := some { target := 1, phase := 1 } })] }), 0, { target := 1, phase := 1 },
    by decide +kernel⟩⟩

theorem wit_ProgramsQueueStartOpenAndClose :
    (∃ (s : State) (a : Agent) (st : StackId) (q : Fin 4) (v : Word), canAct s.sled a = true ∧ blkReach a (bBCS
    st) = true ∧ crossHeld s.sled (bBCS st) = false ∧ islRuns s.sled (iMC st) = true ∧ (q.val = 3 → hostMode
    s.sled ≠ 2) ∧ s.sled.plat.quiesce = .none ∧ ((fget s.sled.bcs {} st).queues.toList.getD q []).length < 16) ∧
    (∃ (s : State) (a : Agent) (st : StackId) (q : Fin 4) (v : Word), canAct s.sled a = true ∧ blkReach a (bBCS
    st) = true ∧ crossHeld s.sled (bBCS st) = false ∧ islRuns s.sled (iMC st) = true ∧ (q.val = 3 → hostMode
    s.sled ≠ 2) ∧ s.sled.plat.quiesce = .none ∧ 16 ≤ ((fget s.sled.bcs {} st).queues.toList.getD q []).length ∧
    (fget s.sled.kpr.coll [] (iMC st)).length < 16) ∧
    (∃ (s : State) (st : StackId) (q : Fin 4) (p : Prog) (rest : List Prog), islRuns s.sled (iMC st) = true ∧
    (fget s.sled.mcs {} st).selfRefresh = false ∧ (fget s.sled.bcs {} st).run = none ∧ (fget s.sled.bcs {}
    st).queues.toList.getD q [] = p :: rest ∧ (∀ i < (q.val + 3 - (fget s.sled.bcs {} st).rr % 4) % 4, (fget
    s.sled.bcs {} st).queues.toList.getD (((fget s.sled.bcs {} st).rr + 1 + i) % 4) [] = [])) ∧
    (∃ (s : State) (st : StackId) (r : Run) (x : BcsInstr), atInstr s.sled st r x ∧ banksReady s.sled st x ∧
    x.iop = iopOPEN ∧ rowAllowed s.sled r.prog.tenant x.arg = true ∧ (∀ k ∈ instrKeys s.sled st x, (getBt
    (getChan s.sled (keyStack k) (keyChan k)) (keyCBank k)).row = none ∧ (if x.arg % 2 = 0 then (getBank s.sled
    k).rowE else (getBank s.sled k).rowO) = none) ∧ (∀ c ∈ chans x.chmask, windowAfter s.sled (instrKeys s.sled
    st x) st c ≤ windowLimit s.sled st) ∧ openReady s.sled x.arg (instrKeys s.sled st x) = true) ∧
    (∃ (s : State) (st : StackId) (r : Run) (x : BcsInstr) (c : Nat), atInstr s.sled st r x ∧ banksReady s.sled
    st x ∧ x.iop = iopOPEN ∧ rowAllowed s.sled r.prog.tenant x.arg = true ∧ progHeld s.sled st = false ∧ (∀ k ∈
    instrKeys s.sled st x, (getBt (getChan s.sled (keyStack k) (keyChan k)) (keyCBank k)).row = none ∧ (if x.arg
    % 2 = 0 then (getBank s.sled k).rowE else (getBank s.sled k).rowO) = none) ∧ c ∈ chans x.chmask ∧
    windowLimit s.sled st < windowAfter s.sled (instrKeys s.sled st x) st c) ∧
    (∃ (s : State) (st : StackId) (r : Run) (x : BcsInstr), atInstr s.sled st r x ∧ banksReady s.sled st x ∧
    x.iop = iopCLOSE ∧ (∀ k ∈ instrKeys s.sled st x, (getBank s.sled k).q = [])) :=
  ⟨⟨mk up, .cc 0, 0, 0, 5,
    by decide +kernel⟩,
  ⟨(mk { up with bcs := [(0, { queues := #v[List.replicate 16 prog.run0.prog, [], [], []] })] }), .cc 0, 0, 0,
   5,
    by decide +kernel⟩,
  ⟨(mk { up with bcs := [(0, { queues := #v[[], [], [prog.run0.prog], []] })] }), 0, 2, prog.run0.prog, [],
    by decide +kernel⟩,
  ⟨mk (prog (ins 1 0 0) up), 0, prog.run0, ins 1 0 0,
    by decide +kernel⟩,
  ⟨mk (rSet (bBCS 0) 0x28 1 { prog (ins 1 0 0) up with bank := [(1, { rowE := some 0 })] }), 0, prog.run0, ins 1
   0 0, 0,
    by decide +kernel⟩,
  ⟨mk (prog (ins 2 0 0) up), 0, prog.run0, ins 2 0 0,
    by decide +kernel⟩⟩

theorem wit_OpenOutsideTheTenantsRowsEndsTheProgram :
    (∃ (s : State) (st : StackId) (r : Run) (x : BcsInstr), atInstr s.sled st r x ∧ banksReady s.sled st x ∧
    x.iop = iopOPEN ∧ rowAllowed s.sled r.prog.tenant x.arg = false ∧ progHeld s.sled st = false ∧ (∀ k ∈
    instrKeys s.sled st x, (getBt (getChan s.sled (keyStack k) (keyChan k)) (keyCBank k)).row = none)) ∧
    (∃ (s : Sled) (st pos : Nat) (r : Run), getRun s st = some r) :=
  ⟨⟨mk (prog (ins 1 0xFFFF 0) up), 0, prog.run0, ins 1 0xFFFF 0,
    by decide +kernel⟩,
  ⟨prog (ins 1 0 0) up, 0, 0, prog.run0,
    by decide +kernel⟩⟩

theorem wit_ProgramsCommandReadSetSignalAndEnd :
    (∃ (s : State) (st : StackId) (r : Run) (x : BcsInstr) (op : Nat), atInstr s.sled st r x ∧ banksReady s.sled
    st x ∧ x.iop = iopBAU ∧ opOf (kt3 s.sled) (bitsOf x.data 0 6) = some op ∧ bauRsv (bitsOf x.data 0 40) = 0 ∧
    (∀ c ∈ chans x.chmask, bauValid s.sled (selKeys s.sled st c x.group x.banks) op (bauFields (bitsOf x.data 0
    40)) = true) ∧ bankRoom s.sled (instrKeys s.sled st x) = true ∧ (instrKeys s.sled st x).Nodup) ∧
    (∃ (s : State) (st : StackId) (r : Run) (x : BcsInstr), atInstr s.sled st r x ∧ banksReady s.sled st x ∧
    x.iop = iopBAU ∧ progHeld s.sled st = false ∧ (opOf (kt3 s.sled) (bitsOf x.data 0 6) = none ∨ bauRsv (bitsOf
    x.data 0 40) ≠ 0)) ∧
    (∃ (s : State) (st : StackId) (r : Run) (x : BcsInstr) (c : ChanId) (e : BitVec 32) (l : List (Byte × Bool))
    (ok : Bool), atInstr s.sled st r x ∧ banksReady s.sled st x ∧ x.iop = iopBCW ∧ x.chmask = 2 ^ c.val ∧
    progReach s.sled r.prog.tenant (bitsOf x.data 0 40 + c * r.bcwCh) 32 = true ∧ readLocal (bitsOf x.data 0 40
    + c * r.bcwCh) 32 s.sled = ((l, ok), s.sled) ∧ bankRoom s.sled (instrKeys s.sled st x) = true ∧ (instrKeys
    s.sled st x).Nodup ∧ (∀ k ∈ instrKeys s.sled st x, (getBank s.sled k).stgFull = false)) ∧
    (∃ (s : State) (st : StackId) (r : Run) (x : BcsInstr) (c : ChanId) (b : Fin 16) (d k v : Nat), atInstr
    s.sled st r x ∧ banksReady s.sled st x ∧ x.iop = iopREAD ∧ x.chmask = 2 ^ c.val ∧ x.banks = 2 ^ b.val ∧ d =
    bitsOf x.data 0 40 + c * r.rdCh + b * r.rdBk ∧ progReach s.sled r.prog.tenant d 64 = true ∧ d % 32 = 0 ∧
    scratchOf d = some v ∧ scratchOf (d + 63) = some v ∧ islRuns s.sled (iVC v) = true ∧ s.sled.clearing = false
    ∧ k = bankKey s.sled st c (b / 4) (4 * x.group + b % 4) ∧ (getBank s.sled k).q = [] ∧ getPA (getBank s.sled
    k) (decide (x.arg % 2 = 1)) = false) ∧
    (∃ (s : State) (st : StackId) (r : Run) (x : BcsInstr), atInstr s.sled st r x ∧ x.iop = iopSET) ∧
    (∃ (s : State) (st : StackId) (r : Run) (x : BcsInstr) (u : Sled), atInstr s.sled st r x ∧ x.iop = iopSIGNAL
    ∧ islRuns s.sled iNOC = true ∧ (∀ k ∈ progKeys s.sled st, (getBank s.sled k).q = []) ∧ ctrSignal (whoBcs st
    r) (bitsOf x.data 0 14) x.arg s.sled = (none, u)) ∧
    (∃ (s : State) (st : StackId) (r : Run) (x : BcsInstr), atInstr s.sled st r x ∧ x.iop = iopEND ∧ (∀ k ∈
    progKeys s.sled st, (getBank s.sled k).q = [])) ∧
    (∃ (s : State) (st : StackId) (r : Run) (x : BcsInstr), getRun s.sled st = some r ∧ islRuns s.sled (iMC st)
    = true ∧ (fget s.sled.mcs {} st).selfRefresh = false ∧ r.pc < r.prog.count ∧ r.ahead = [] ∧ fetchHeld s.sled
    r.prog r.pc = false ∧ instrAt s.sled r.prog r.pc = some x ∧ x.ok = false ∧ progHeld s.sled st = false) :=
  ⟨⟨mk (prog (ins 3 0 15) up), 0, prog.run0, ins 3 0 15, 15,
    by decide +kernel⟩,
  ⟨mk (prog (ins 3 0 63) up), 0, prog.run0, ins 3 0 63,
    by decide +kernel⟩,
  ⟨mk (prog (ins 4 0 0x8000000040) up), 0, prog.run0, ins 4 0 0x8000000040, 0, 0, List.replicate 32 (0, false),
   true,
    by decide +kernel⟩,
  ⟨mk (prog (ins 5 0 0x8000000040) up), 0, prog.run0, ins 5 0 0x8000000040, 0, 0, 0x8000000040, 0, 0,
    by decide +kernel⟩,
  ⟨mk (prog (ins 6 0 64) up), 0, prog.run0, ins 6 0 64,
    by decide +kernel⟩,
  ⟨mk (prog (ins 7 1 0) up), 0, prog.run0, ins 7 1 0, (ctrSignal (whoBcs 0 prog.run0) 0 1 (prog (ins 7 1 0)
   up)).2,
    by decide +kernel⟩,
  ⟨mk (prog (ins 8 0 0) up), 0, prog.run0, ins 8 0 0,
    by decide +kernel⟩,
  ⟨mk (prog (ins 9 0 0) up), 0, prog.run0, ins 9 0 0,
    by decide +kernel⟩⟩

theorem wit_BankWordsDecodeToWhatWasEncoded :
    (∃ (kt : Bool) (op : Nat) (f : BauFields), opOf false op = some op) ∧
    (∃ i : BcsInstr, i.iop < 2 ^ 4 ∧ i.chmask < 2 ^ 16 ∧ i.group < 4 ∧ i.banks < 2 ^ 16 ∧ i.arg < 2 ^ 16 ∧
    i.data < 2 ^ 64 ∧ i.rsv < 2 ^ 10) ∧
    (∃ x, x < 2 ^ 128) :=
  ⟨⟨true, opBSEL, f0,
    by decide +kernel⟩,
  ⟨{ iop := 15, chmask := 65535, group := 3, banks := 65535, arg := 65535, data := 2 ^ 64 - 1, rsv := 1023 },
    by decide +kernel⟩,
  ⟨2 ^ 128 - 1,
    by decide +kernel⟩⟩

theorem wit_BankLoadStoreAndStagingMoveColumns :
    (∃ (s : State) (b : BankSel) (f : BauFields) (k : Nat), bauReady s.sled b k opBLD f) ∧
    (∃ (s : State) (b : BankSel) (f : BauFields) (k : Nat), bauReady s.sled b k opBST f ∧ k < 9216 ∧ (bauRow
    (getBank s.sled k) f).getD 0 < 65536 ∧ getPV (getBank s.sled k) f.x = false ∧ (∀ n : Fin 9, (fget s.sled.mcs
    {} n).mig = none)) ∧
    (∃ (s : State) (b : BankSel) (d : BitVec 256) (po : Bool), bankRoom s.sled (selOf s.sled b) = true ∧ (∀ k ∈
    selOf s.sled b, (getBank s.sled k).stgFull = false) ∧ (selOf s.sled b).Nodup ∧ chanFree s.sled b.stack
    b.chan = true) ∧
    (∃ (s : State) (b : BankSel) (k : Nat) (q : List BankCmd), selOf s.sled b = [k] ∧ bankHeld s.sled k = false
    ∧ (getBank s.sled k).q = .move :: q) ∧
    (∃ (s : State) (st : StackId) (k op : Nat) (src : Nat) (f : BauFields) (q : List BankCmd), keyStack k =
    st.val ∧ fwf ({} : BankU) s.sled.bank = true ∧ getBank s.sled k ≠ {} ∧ bankHeld s.sled k = false ∧ (getChan
    s.sled st (keyChan k)).thermal ≤ chTime s.sled st (keyChan k) ∧ (getBank s.sled k).q = .bau src op f :: q ∧
    (op = opBADD ∨ op = opBMUL ∨ op = opBFMA ∨ op = opBCLR) ∧ (∀ j, j ≠ k → (getBank s.sled j).q = [])) ∧
    (∃ (s : State) (st : StackId), (∀ k, keyStack k = st.val → bankHeld s.sled k = true)) :=
  ⟨⟨mk (bank0 up), b0, f0, 0,
    by decide +kernel⟩,
  ⟨mk (bank0 up), b0, f0, 0,
    by decide +kernel⟩,
  ⟨mk up, b0, 5, true,
    by decide +kernel⟩,
  ⟨(mk { up with bank := [(0, { q := [.move] })] }), b0, 0, [],
    by decide +kernel⟩,
  ⟨(mk { up with bank := [(0, { q := [.bau 0 opBCLR f0] })] }), 0, 0, opBCLR, 0, f0, [],
    ⟨by decide +kernel,
    by decide +kernel,
    by decide +kernel,
    by decide +kernel,
    by decide +kernel,
    by decide +kernel,
    by decide +kernel,
    by
      intro j hj
      simp [getBank, mk, up, fget, Ne.symm hj]⟩⟩,
  ⟨(mk { up with isl := [] }), 0,
    by
      intro k _
      simp [bankHeld, islRuns, islState, mk, fget]⟩⟩

theorem wit_BankResultsAreRoundedOnce :
    (∃ (s : State) (b : BankSel) (f : BauFields) (k i : Nat), bauReady s.sled b k opBMAC f ∧ i < 16) ∧
    (∃ (s : State) (b : BankSel) (f : BauFields) (k i : Nat), bauReady s.sled b k opBDOT f ∧ i < 16) ∧
    (∃ (s : State) (b : BankSel) (f : BauFields) (k i : Nat), bauReady s.sled b k opBEMA f ∧ i < 16) ∧
    (∃ (s : State) (b : BankSel) (f : BauFields) (k i : Nat), bauReady s.sled b k opBSCALE f ∧ i < 16) ∧
    (∃ (s : State) (b : BankSel) (f : BauFields) (k i : Nat), bauReady s.sled b k opBMAX f ∧ isFp8 f = false ∧ i
    < 16) ∧
    (∃ (s : State) (b : BankSel) (f : BauFields) (k i : Nat), bauReady s.sled b k opBMIN f ∧ isFp8 f = false ∧ i
    < 16) ∧
    (∃ (s : State) (b : BankSel) (f : BauFields) (k i : Nat), bauReady s.sled b k opBADD f ∧ i < 16) ∧
    (∃ (s : State) (b : BankSel) (f : BauFields) (k i : Nat), bauReady s.sled b k opBMUL f ∧ i < 16) ∧
    (∃ (s : State) (b : BankSel) (f : BauFields) (k i : Nat), bauReady s.sled b k opBFMA f ∧ i < 16) ∧
    (∃ (s : State) (b : BankSel) (f : BauFields) (k i : Nat), bauReady s.sled b k opBSEL f ∧ i < 16) ∧
    (∃ (s : State) (b : BankSel) (f : BauFields) (k i : Nat), f.z = 0 ∧ bauReady s.sled b k opBCVT f ∧ isFp8 f =
    true ∧ i < 16) ∧
    (∃ (s : State) (b : BankSel) (f : BauFields) (k i : Nat), f.z = 1 ∧ bauReady s.sled b k opBCVT f ∧ f.fmt = 0
    ∧ i < 16) :=
  ⟨⟨mk (bank0 up), b0, f0, 0, 15,
    by decide +kernel⟩,
  ⟨mk (bank0 up), b0, f0, 0, 15,
    by decide +kernel⟩,
  ⟨mk (bank0 up), b0, f0, 0, 15,
    by decide +kernel⟩,
  ⟨mk (bank0 up), b0, f0, 0, 15,
    by decide +kernel⟩,
  ⟨mk (bank0 up), b0, f0, 0, 15,
    by decide +kernel⟩,
  ⟨mk (bank0 up), b0, f0, 0, 15,
    by decide +kernel⟩,
  ⟨mk (bank0 up), b0, { f0 with z := 2 }, 0, 15,
    by decide +kernel⟩,
  ⟨mk (bank0 up), b0, { f0 with z := 2 }, 0, 15,
    by decide +kernel⟩,
  ⟨mk (bank0 up), b0, { f0 with z := 2 }, 0, 15,
    by decide +kernel⟩,
  ⟨mk (bank0 up), b0, { f0 with z := 2 }, 0, 15,
    by decide +kernel⟩,
  ⟨mk (bank0 up), b0, { f0 with fmt := 1 }, 0, 15,
    by decide +kernel⟩,
  ⟨mk (bank0 up), b0, { f0 with z := 1 }, 0, 15,
    by decide +kernel⟩⟩

theorem wit_BankReduceReadAndClear :
    (∃ (s : State) (b : BankSel) (f : BauFields) (k i : Nat), bauReady s.sled b k opBRED f ∧ i < 16) ∧
    (∃ (s : State) (b : BankSel) (f : BauFields) (k : Nat), bauReady s.sled b k opBRDACC f ∧ f.m = false ∧ getPA
    (getBank s.sled k) f.a = false) ∧
    (∃ (s : State) (b : BankSel) (f : BauFields) (k : Nat), bauReady s.sled b k opBCLR f) :=
  ⟨⟨mk (bank0 up), b0, f0, 0, 15,
    by decide +kernel⟩,
  ⟨mk (bank0 up), b0, f0, 0,
    by decide +kernel⟩,
  ⟨mk (bank0 up), b0, { f0 with z := 3 }, 0,
    by decide +kernel⟩⟩

theorem wit_QueueRegistersAndDescriptorFetch :
    (∃ (s : State) (a : Agent) (core : CoreId) (q : Fin 24) (v : Word), canAct s.sled a = true ∧ blkReach a
    (bLAY core) = true ∧ islRuns s.sled (iVC core) = true ∧ lockedReg s.sled (bLAY core) (0x20 * q.val) = false
    ∧ rField s.sled (bLAY core) (0x20 * q.val) 40 1 = 0 ∧ 2 ≤ bitsOf v.toNat 25 4 ∧ bitsOf v.toNat 25 4 ≤ 12 ∧
    bitsOf v.toNat 6 19 * 64 + 64 * 2 ^ bitsOf v.toNat 25 4 ≤ scratchSize) ∧
    (∃ (s : State) (a : Agent) (core : CoreId) (q : Fin 24) (v : Word), canAct s.sled a = true ∧ blkReach a
    (bLAY core) = true ∧ islRuns s.sled (iVC core) = true ∧ lockedReg s.sled (bLAY core) (0x20 * q.val) = false
    ∧ rField s.sled (bLAY core) (0x20 * q.val) 40 1 = 1 ∧ v.getLsbD 40 = true) ∧
    (∃ (s : State) (a : Agent) (core : CoreId) (q : Fin 24) (v : Word), canAct s.sled a = true ∧ blkReach a
    (bLAY core) = true ∧ islRuns s.sled (iVC core) = true ∧ lockedReg s.sled (bLAY core) (0x20 * q.val) = false
    ∧ rField s.sled (bLAY core) (0x20 * q.val) 40 1 = 0 ∧ v.getLsbD 40 = true ∧ 2 ≤ bitsOf v.toNat 25 4 ∧ bitsOf
    v.toNat 25 4 ≤ 12 ∧ scratchSize < bitsOf v.toNat 6 19 * 64 + 64 * 2 ^ bitsOf v.toNat 25 4) ∧
    (∃ (s : State) (a : Agent) (core : CoreId) (q : Fin 24) (n : BitVec 12), canAct s.sled a = true ∧ blkReach a
    (bLAY core) = true ∧ islRuns s.sled (iVC core) = true ∧ lockedReg s.sled (bLAY core) (0x08 + 0x20 * q.val) =
    false ∧ s.sled.plat.quiesce = .none) ∧
    (∃ (s : State) (a : Agent) (core : CoreId) (q : Fin 24), canAct s.sled a = true ∧ blkReach a (bLAY core) =
    true ∧ islRuns s.sled (iVC core) = true) ∧
    (∃ (s : State) (u : QUnit) (head : Nat) (b : List (Byte × Bool)) (d : Desc), unitRuns s.sled u.unit = true ∧
    rField s.sled (qBlk u.unit) (0x20 * u.num) (enBit u.unit) 1 = 1 ∧ qErr s.sled u.unit u.num = false ∧
    ringCount s.sled u.unit u.num ≠ 0 ∧ (u.unit < 8 → bitAt (vcMask s.sled (qTen s.sled u.unit u.num)) u.unit =
    true) ∧ head = rField s.sled (qBlk u.unit) (0x10 + 0x20 * u.num) 0 12 % qEntries s.sled u.unit u.num ∧
    readLocal (qBase s.sled u.unit u.num + 64 * head) 64 s.sled = ((b, true), s.sled) ∧ anyPoison b = false ∧ d
    =
    { id := s.sled.seq, q := u.num, addr := qBase s.sled u.unit u.num + 64 * head, bytes := BitVec.ofNat 512 (leNat (b.map (·.1))) }
    ∧ checkDesc u.unit u.num d = 0) ∧
    (∃ (s : State) (u : QUnit) (head : Nat) (b : List (Byte × Bool)) (d : Desc), unitRuns s.sled u.unit = true ∧
    rField s.sled (qBlk u.unit) (0x20 * u.num) (enBit u.unit) 1 = 1 ∧ qErr s.sled u.unit u.num = false ∧
    ringCount s.sled u.unit u.num ≠ 0 ∧ (u.unit < 8 → bitAt (vcMask s.sled (qTen s.sled u.unit u.num)) u.unit =
    true) ∧ head = rField s.sled (qBlk u.unit) (0x10 + 0x20 * u.num) 0 12 % qEntries s.sled u.unit u.num ∧
    readLocal (qBase s.sled u.unit u.num + 64 * head) 64 s.sled = ((b, true), s.sled) ∧ anyPoison b = false ∧ d
    =
    { id := s.sled.seq, q := u.num, addr := qBase s.sled u.unit u.num + 64 * head, bytes := BitVec.ofNat 512 (leNat (b.map (·.1))) }
    ∧ checkDesc u.unit u.num d ≠ 0) ∧
    (∃ (s : State) (u : QUnit), qErr s.sled u.unit u.num = true) :=
  ⟨⟨mk up, .cc 0, 0, 23, 0x4000000,
    by decide +kernel⟩,
  ⟨mk (rSet (bLAY 0) 0 (2 ^ 40) up), .cc 0, 0, 0, 0x10000000000,
    by decide +kernel⟩,
  ⟨mk up, .cc 0, 0, 0, 0x10019FFFFC0,
    by decide +kernel⟩,
  ⟨mk up, .cc 0, 0, 23, 5,
    by decide +kernel⟩,
  ⟨mk up, .cc 0, 0, 23,
    by decide +kernel⟩,
  ⟨mk (ring 15), .vc 0 0, 0, zeros64 15, { id := 0, q := 0, addr := 0x8000000000, bytes := 15 },
    by decide +kernel⟩,
  ⟨mk (ring 255), .vc 0 0, 0, zeros64 255, { id := 0, q := 0, addr := 0x8000000000, bytes := 255 },
    by decide +kernel⟩,
  ⟨mk (rSet (bLAY 0) 0x10 65536 up), .vc 0 0,
    by decide +kernel⟩⟩

theorem wit_DescriptorsStartWaitAndComplete :
    (∃ (s : State) (u : QUnit) (d : Desc), headDesc s.sled u.unit u.num = some d ∧ unitRuns s.sled u.unit = true
    ∧ d.waits = false ∧ startable s.sled u.unit d = true ∧ engineRoom s.sled u.unit d = true ∧ d.q = u.num) ∧
    (∃ (s : State) (u : QUnit) (d : Desc) (w : Wait), headDesc s.sled u.unit u.num = some d ∧ unitRuns s.sled
    u.unit = true ∧ qErr s.sled u.unit u.num = false ∧ bitAt d.flags 0 = false ∧ d.waits = true ∧ d.ready =
    false ∧ d.q = u.num ∧ (∀ x ∈ s.sled.waits, x.who ≠ whoQ s.sled u.unit u.num) ∧ objCheck s.sled (whoQ s.sled
    u.unit u.num) false d.waitId = none ∧ waitMet s.sled .counter d.waitId d.waitVal = false ∧ w =
    { who := whoQ s.sled u.unit u.num, kind := .counter, idx := d.waitId, target := d.waitVal, start := s.sled.now, lastVal := ctrSlot (getCtr s.sled d.waitId) }) ∧
    (∃ (s : State) (u : QUnit) (k : Fin 8) (d : Desc), (started s.sled u.unit u.num)[k.val]? = some d ∧ unitRuns
    s.sled u.unit = true ∧ islRuns s.sled iNOC = true ∧ d.stage = 2 ∧ descOut s.sled d.id = false ∧ bitAt
    d.flags 2 = false ∧ (u.unit < 8 → (fget s.sled.vc {} u.unit).staging ≠ some d.id)) ∧
    (∃ (s v : State) (u : QUnit) (k : Fin 8) (d : Desc), (started s.sled u.unit u.num)[k.val]? = some d ∧
    unitRuns s.sled u.unit = true ∧ islRuns s.sled iNOC = true ∧ d.stage = 2 ∧ descOut s.sled d.id = false ∧
    bitAt d.flags 2 = true ∧ bitAt d.flags 3 = false ∧ (u.unit < 8 → (fget s.sled.vc {} u.unit).staging ≠ some
    d.id) ∧ ctrSignal (whoQ s.sled u.unit d.q) (bitsOf (dField d 6 2) 0 14) (dField d 0x10 2) s.sled = (none,
    v.sled)) :=
  ⟨⟨mk (vcDesc { dsc 0 [(0, 15)] with stage := 0 }), .vc 0 0, { dsc 0 [(0, 15)] with stage := 0 },
    by decide +kernel⟩,
  ⟨mk (vcDesc { dsc 0 [(0, 15), (1, 2), (8, 1)] with stage := 0 }), .vc 0 0,
   { dsc 0 [(0, 15), (1, 2), (8, 1)] with stage := 0 },
   { who := whoQ up 0 0, kind := .counter, idx := 0, target := 1, start := 0, lastVal := ctrSlot { valid := true } },
    by decide +kernel⟩,
  ⟨mk (vcDesc { dsc 0 [(0, 15)] with stage := 2 }), .vc 0 0, 0, { dsc 0 [(0, 15)] with stage := 2 },
    by decide +kernel⟩,
  ⟨mk (vcDesc { dsc 0 [(0, 15), (1, 4), (0x10, 1)] with stage := 2 }), mk (ctrSignal (whoQ up 0 0) 0 1 (vcDesc
   { dsc 0 [(0, 15), (1, 4), (0x10, 1)] with stage := 2 })).2, .vc 0 0, 0,
   { dsc 0 [(0, 15), (1, 4), (0x10, 1)] with stage := 2 },
    by decide +kernel⟩⟩

theorem wit_DmaOperationsWriteTheirRow :
    (∃ (s : State) (core : CoreId) (q : Fin 16) (k : Fin 8) (d : Desc) (b len : Nat), runsDesc s.sled core q k d
    0x02 ∧ dField d 0x2C 4 = 1 ∧ len = dField d 0x28 4 ∧ dField d 0x20 8 = moduleId s.sled * 2 ^ 40 + b ∧
    ownScratch core b len ∧ len % 32 = 0 ∧ b % 32 = 0 ∧ s.sled.clearing = false ∧ hasReads s.sled d.id = false ∧
    rowOk s.sled (qTen s.sled core q) (dField d 0x20 8) len = true) ∧
    (∃ (s : State) (core : CoreId) (q : Fin 16) (k : Fin 8) (d : Desc) (a b len : Nat), runsDesc s.sled core q k
    d 0x01 ∧ dField d 0x2C 4 = 1 ∧ len = dField d 0x28 4 ∧ dField d 0x18 8 = moduleId s.sled * 2 ^ 40 + a ∧
    dField d 0x20 8 = moduleId s.sled * 2 ^ 40 + b ∧ ownScratch core a len ∧ ownScratch core b len ∧ (a + len ≤
    b ∨ b + len ≤ a) ∧ len % 32 = 0 ∧ a % 32 = 0 ∧ b % 32 = 0 ∧ s.sled.ecc = [] ∧ s.sled.clearing = false ∧
    hasReads s.sled d.id = false ∧ rowOk s.sled (qTen s.sled core q) (dField d 0x18 8) len = true ∧ rowOk s.sled
    (qTen s.sled core q) (dField d 0x20 8) len = true) ∧
    (∃ (s : State) (core : CoreId) (q : Fin 16) (k : Fin 8) (d : Desc) (a b : Nat), runsDesc s.sled core q k d
    0x04 ∧ d.fmt = 1 ∧ dField d 0x2C 4 = 1 ∧ dField d 0x28 4 = 4 ∧ dField d 0x18 8 = moduleId s.sled * 2 ^ 40 +
    a ∧ dField d 0x20 8 = moduleId s.sled * 2 ^ 40 + b ∧ ownScratch core a 4 ∧ ownScratch core b 4 ∧ (a / 32 ≠ b
    / 32) ∧ a % 4 = 0 ∧ b % 4 = 0 ∧ s.sled.ecc = [] ∧ s.sled.clearing = false ∧ hasReads s.sled d.id = false ∧
    rowOk s.sled (qTen s.sled core q) (dField d 0x18 8) 4 = true ∧ rowOk s.sled (qTen s.sled core q) (dField d
    0x20 8) 4 = true) ∧
    (∃ (s : State) (u : QUnit) (k : Fin 8) (d : Desc), (started s.sled u.unit u.num)[k.val]? = some d ∧ unitRuns
    s.sled u.unit = true ∧ d.stage = 1 ∧ d.opc = 0x0F) :=
  ⟨⟨mk (vcDesc fillD), 0, 15, 0, fillD, 0x8000000000, 32,
    by decide +kernel⟩,
  ⟨mk (vcDesc copyD), 0, 15, 0, copyD, 0x8000000000, 0x8000000040, 32,
    by decide +kernel⟩,
  ⟨mk (vcDesc redD), 0, 15, 0, redD, 0x8000000000, 0x8000000040,
    by decide +kernel⟩,
  ⟨mk (vcDesc (dsc 15 [(0, 15)])), .vc 0 15, 0, dsc 15 [(0, 15)],
    by decide +kernel⟩⟩

theorem wit_MatrixAndVectorOperationsWriteResults :
    (∃ (s : State) (core : CoreId) (q : Fin 4) (d : Desc) (n oa ob oc : Nat), (started s.sled core (16 +
    q)).find? (fun e => e.stage = 1 && e.opc = 0x20) = some d ∧ islRuns s.sled (iVC core) = true ∧ d.fmt = 0x55
    ∧ d.flags = 0x40 ∧ dField d 0x2C 2 = 1 ∧ dField d 0x2E 2 = 1 ∧ dField d 0x30 4 = n ∧ 1 ≤ n ∧ oa = dField d
    0x18 4 ∧ ob = dField d 0x1C 4 ∧ oc = dField d 0x20 4 ∧ dField d 0x24 4 = 0 ∧ dField d 0x28 4 = 0 ∧ oa + n ≤
    scratchSize ∧ ob + n ≤ scratchSize ∧ oc + 4 ≤ scratchSize ∧ oc % 32 = 0 ∧ (oc + 4 ≤ oa ∨ oa + n ≤ oc) ∧ (oc
    + 4 ≤ ob ∨ ob + n ≤ oc) ∧ s.sled.ecc = [] ∧ s.sled.clearing = false) ∧
    (∃ (s : State) (core : CoreId) (q : Fin 4) (d : Desc) (op oa ob oc od : Nat), (started s.sled core (20 +
    q)).find? (fun e => e.stage = 1 && e.opc = 0x40) = some d ∧ islRuns s.sled (iVC core) = true ∧ d.fmt = 0x44
    ∧ d.flags = 0 ∧ dField d 0x28 4 = 1 ∧ dField d 0x2C 4 = 1 ∧ op = dField d 0x3C 1 ∧ op ∈ [0x01, 0x02, 0x03,
    0x04, 0x05, 0x06, 0x07] ∧ oa = dField d 0x18 4 ∧ ob = dField d 0x1C 4 ∧ oc = dField d 0x20 4 ∧ od = dField d
    0x24 4 ∧ oa + 4 ≤ scratchSize ∧ ob + 4 ≤ scratchSize ∧ oc + 4 ≤ scratchSize ∧ od + 4 ≤ scratchSize ∧ oa % 4
    = 0 ∧ ob % 4 = 0 ∧ oc % 4 = 0 ∧ od % 4 = 0 ∧ s.sled.ecc = [] ∧ s.sled.clearing = false) :=
  ⟨⟨mk (vcDesc gemmD), 0, 0, gemmD, 4, 0, 64, 128,
    by decide +kernel⟩,
  ⟨mk (vcDesc vopD), 0, 0, vopD, 1, 0, 4, 8, 12,
    by decide +kernel⟩⟩

theorem wit_LayoutCopiesWaitsAndIsGranted :
    (∃ (s : State) (core : CoreId) (q : Fin 16) (k : Fin 8) (d : Desc), runsDesc s.sled core q k d 0x03 ∧ d.lu =
    none ∧ (fget s.sled.vc {} core).stagingQ.contains d.id = false ∧ reachOk s.sled (qTen s.sled core d.q)
    (dField d 0x18 8) 384 = false) ∧
    (∃ (s : State) (core : CoreId) (q : Fin 16) (k : Fin 8) (d : Desc) (r : LuRun), runsDesc s.sled core q k d
    0x03 ∧ d.lu = none ∧ (fget s.sled.vc {} core).stagingQ.contains d.id = false ∧ layoutStart core d s.sled =
    (.inr r, s.sled) ∧ staged r.tensor = true ∧ ((fget s.sled.vc {} core).staging ≠ none ∨ (fget s.sled.vc {}
    core).stagingQ ≠ [])) ∧
    (∃ (s : State) (core : CoreId) (q : Fin 16) (k : Fin 8) (d : Desc), runsDesc s.sled core q k d 0x03 ∧ (fget
    s.sled.vc {} core).stagingQ.contains d.id = true) ∧
    (∃ (s : State) (core : CoreId) (id : Nat) (rest : List Nat), (fget s.sled.vc {} core).staging = none ∧ (fget
    s.sled.vc {} core).stagingQ = id :: rest ∧ (∀ e ∈ descs s.sled core, e.id ≠ id)) ∧
    (∃ (s : State) (core : CoreId) (d : Desc) (r : LuRun) (rest : List Nat), (fget s.sled.vc {} core).staging =
    none ∧ (fget s.sled.vc {} core).stagingQ = d.id :: rest ∧ (descs s.sled core).find? (fun e => e.id = d.id) =
    some d ∧ d.lu = some r) ∧
    (∃ (s : State) (core : CoreId) (q : Fin 16) (k : Fin 8) (d : Desc) (r : LuRun) (n a b : Nat), runsDesc
    s.sled core q k d 0x03 ∧ d.lu = none ∧ hasReads s.sled d.id = false ∧ (fget s.sled.vc {}
    core).stagingQ.contains d.id = false ∧ layoutStart core d s.sled = (.inr r, s.sled) ∧ r.tensor =
    { ndim := 1, esize := 1, custom := false, ccount := 0, perm := [0], ctable := 0, ext := [n], clean := true, src := { mode := 0, space := 0, table := 0, base := moduleId s.sled * 2 ^ 40 + a, stride := [1], origin := [0], porigin := [0], pshape := [0], clean := true }, dst := { mode := 0, space := 0, table := 0, base := moduleId s.sled * 2 ^ 40 + b, stride := [1], origin := [0], porigin := [0], pshape := [0], clean := true } }
    ∧ ownScratch core a n ∧ ownScratch core b n ∧ (a + n ≤ b ∨ b + n ≤ a) ∧ n % 64 = 0 ∧ 0 < n ∧ a % 64 = 0 ∧ b
    % 64 = 0 ∧ s.sled.ecc = [] ∧ s.sled.clearing = false ∧ (∀ i < n, rowOk s.sled (qTen s.sled core q) (moduleId
    s.sled * 2 ^ 40 + a + i) 1 = true ∧ rowOk s.sled (qTen s.sled core q) (moduleId s.sled * 2 ^ 40 + b + i) 1 =
    true)) :=
  ⟨⟨mk (vcDesc (dsc 15 [(0, 3), (0x18, 0x4000000000)])), 0, 15, 0, dsc 15 [(0, 3), (0x18, 0x4000000000)],
    by decide +kernel⟩,
  ⟨mk { layS (ten 128 0x8000001000 0x8000001040) with vc := [(0, { descs := [layD], staging := some 9 })] }, 0,
   15, 0, layD, lay2 (ten 128 0x8000001000 0x8000001040),
    by decide +kernel⟩,
  ⟨mk { up with vc := [(0, { stagingQ := [1], descs := [layD] })] }, 0, 15, 0, layD,
    by decide +kernel⟩,
  ⟨(mk { up with vc := [(0, { stagingQ := [3] })] }), 0, 3, [],
    by decide +kernel⟩,
  ⟨mk { up with vc := [(0, { stagingQ := [1], descs := [{ layD with lu := some { kept := [] } }] })] }, 0,
   { layD with lu := some { kept := [] } }, { kept := [] }, [],
    by decide +kernel⟩,
  ⟨mk (layS (ten 64 0x8000001000 0x8000002000)), 0, 15, 0, layD, lay2 (ten 64 0x8000001000 0x8000002000), 64,
   0x8000001000, 0x8000002000,
    by decide +kernel⟩⟩

theorem wit_ScalarEngineProgramsAndCache :
    (∃ (s : State) (a : Agent) (core : CoreId) (tn : Tenant) (e : LAddr), canAct s.sled a = true ∧ blkReach a
    (bLAY core) = true ∧ islRuns s.sled (iVC core) = true ∧ lockedReg s.sled (bLAY core) 0x400 = false ∧ (fget
    s.sled.vc {} core).seRun = false ∧ e.toNat % 2 = 0) ∧
    (∃ (s : State) (a : Agent) (core : CoreId) (tn : Tenant) (e : LAddr), canAct s.sled a = true ∧ blkReach a
    (bLAY core) = true ∧ islRuns s.sled (iVC core) = true ∧ lockedReg s.sled (bLAY core) 0x400 = false ∧ ((fget
    s.sled.vc {} core).seRun = true ∨ e.toNat % 2 = 1)) ∧
    (∃ (s : State) (a : Agent) (core : CoreId), canAct s.sled a = true ∧ blkReach a (bLAY core) = true ∧ islRuns
    s.sled (iVC core) = true ∧ (fget s.sled.vc {} core).seRun = true) ∧
    (∃ (s : State) (a : Agent) (core : CoreId), canAct s.sled a = true ∧ blkReach a (bLAY core) = true ∧ islRuns
    s.sled (iVC core) = true ∧ (fget s.sled.vc {} core).seRun = false) ∧
    (∃ (s : State) (core : CoreId) (f3 : BitVec 3) (rd : BitVec 5) (a : Word) (l : Line), seActs s.sled core =
    true ∧ f3.toNat ≠ 7 ∧ a.toNat < 2 ^ 40 ∧ seCached core a.toNat = true ∧ seReach s.sled core a.toNat (f3Bytes
    f3.toNat) = true ∧ a.toNat % 64 + f3Bytes f3.toNat ≤ 64 ∧ getLine s.sled core (a.toNat / 64) = some l ∧
    l.pois = 0) ∧
    (∃ (s : State) (core : CoreId) (f3 : BitVec 3) (a d : Word) (l : Line), seActs s.sled core = true ∧ f3.toNat
    < 4 ∧ a.toNat < 2 ^ 40 ∧ seCached core a.toNat = true ∧ seReach s.sled core a.toNat (f3Bytes f3.toNat) =
    true ∧ a.toNat % 64 + f3Bytes f3.toNat ≤ 64 ∧ getLine s.sled core (a.toNat / 64) = some l) ∧
    (∃ (s : State) (core : CoreId) (f3 : BitVec 3) (rd : BitVec 5) (a : Word) (x : List (Byte × Bool)) (ok :
    Bool), seActs s.sled core = true ∧ f3.toNat ≠ 7 ∧ a.toNat < 2 ^ 40 ∧ seCached core a.toNat = true ∧ seReach
    s.sled core a.toNat (f3Bytes f3.toNat) = true ∧ getLine s.sled core (a.toNat / 64) = none ∧ getLine s.sled
    core ((a.toNat + f3Bytes f3.toNat - 1) / 64) = none ∧ readLocal a.toNat (f3Bytes f3.toNat) s.sled = ((x,
    ok), s.sled) ∧ anyPoison x = false) ∧
    (∃ (s : State) (core : CoreId) (f3 : BitVec 3) (a d : Word), seActs s.sled core = true ∧ f3.toNat < 4 ∧
    ownScratch core a.toNat (f3Bytes f3.toNat) ∧ seReach s.sled core a.toNat (f3Bytes f3.toNat) = true ∧ a.toNat
    % f3Bytes f3.toNat = 0 ∧ s.sled.ecc = [] ∧ s.sled.clearing = false ∧ getLine s.sled core (a.toNat / 64) =
    none) ∧
    (∃ (s : State) (core : CoreId) (f3 : BitVec 3) (rd : BitVec 5) (a d : Word), seActs s.sled core = true ∧
    f3.toNat < 4 ∧ a.toNat < 2 ^ 40 ∧ seCached core a.toNat = true ∧ seReach s.sled core a.toNat (f3Bytes
    f3.toNat) = false) ∧
    (∃ (s : State) (core : CoreId) (a : Word), seActs s.sled core = true ∧ a.toNat < 2 ^ 40 ∧ getLine s.sled
    core (a.toNat / 64) = none) ∧
    (∃ (s : State) (core : CoreId) (a : Word) (l : Line), seActs s.sled core = true ∧ a.toNat < 2 ^ 40 ∧ getLine
    s.sled core (a.toNat / 64) = some l) ∧
    (∃ (s : State) (core : CoreId) (a : Word) (l : Line), seActs s.sled core = true ∧ ownScratch core (a.toNat /
    64 * 64) 64 ∧ s.sled.ecc = [] ∧ s.sled.clearing = false ∧ getLine s.sled core (a.toNat / 64) = some l) ∧
    (∃ (s : State) (core : CoreId), seActs s.sled core = true) ∧
    (∃ (s : State) (core : CoreId), seActs s.sled core = true ∧ calm s.sled) :=
  ⟨⟨mk up, .cc 0, 0, 0, 0x8000000000,
    by decide +kernel⟩,
  ⟨mk (se0 up), .cc 0, 0, 0, 0x8000000000,
    by decide +kernel⟩,
  ⟨mk (se0 up), .cc 0, 0,
    by decide +kernel⟩,
  ⟨mk up, .cc 0, 0,
    by decide +kernel⟩,
  ⟨(mk { up with vc := [(0, { seRun := true, cache := [(0x200000000, { data := 5 })] })] }), 0, 3, 5,
   0x8000000000, { data := 5 },
    by decide +kernel⟩,
  ⟨(mk { up with vc := [(0, { seRun := true, cache := [(0x200000000, { data := 5 })] })] }), 0, 3, 0x8000000038,
   9, { data := 5 },
    by decide +kernel⟩,
  ⟨mk (se0 up), 0, 0, 5, 0x8000000000, [(0, false)], true,
    by decide +kernel⟩,
  ⟨mk (se0 up), 0, 3, 0x8000000000, 9,
    by decide +kernel⟩,
  ⟨mk (se0 up), 0, 3, 1, 0x4000000000, 9,
    by decide +kernel⟩,
  ⟨mk (se0 up), 0, 0x8000000000,
    by decide +kernel⟩,
  ⟨(mk { up with vc := [(0, { seRun := true, cache := [(0x200000000, { data := 5, dirty := 1 })] })] }), 0,
   0x8000000000, { data := 5, dirty := 1 },
    by decide +kernel⟩,
  ⟨(mk { up with vc := [(0, { seRun := true, cache := [(0x200000000, { data := 5, dirty := 1 })] })] }), 0,
   0x8000000000, { data := 5, dirty := 1 },
    by decide +kernel⟩,
  ⟨(mk { up with vc := [(0, { seRun := true, cache := [(0x200000000, { data := 5, dirty := 1 })] })] }), 0,
    by decide +kernel⟩,
  ⟨mk { up with vc := [(0, { seRun := true, cache := [(0x200000000, { data := 5, dirty := 1 })] })] }, 0,
    by and_intros <;> first | (apply calm_of <;> decide +kernel) | decide +kernel⟩⟩

theorem wit_CounterSignalsAddAndSaturate :
    (∃ (s : State) (a : Agent) (m : BitVec 8) (i : BitVec 14) (x : Word), canSync s.sled a = true ∧ m.toNat =
    moduleId s.sled ∧ islRuns s.sled iNOC = true ∧ x.toNat ≠ 0 ∧ x.toNat < 2 ^ 32 ∧ objCheck s.sled (whoAgent
    s.sled a) false i.toNat = none ∧ (getCtr s.sled i.toNat).value + x.toNat < 2 ^ 48) ∧
    (∃ (s : State) (a : Agent) (m : BitVec 8) (i : BitVec 14) (x : Word), canSync s.sled a = true ∧ m.toNat =
    moduleId s.sled ∧ islRuns s.sled iNOC = true ∧ x.toNat ≠ 0 ∧ x.toNat < 2 ^ 32 ∧ objCheck s.sled (whoAgent
    s.sled a) false i.toNat = none ∧ 2 ^ 48 ≤ (getCtr s.sled i.toNat).value + x.toNat) ∧
    (∃ (s : State) (a : Agent) (m : BitVec 8) (i : BitVec 14) (x : Word) (code : Nat), canSync s.sled a = true ∧
    m.toNat = moduleId s.sled ∧ islRuns s.sled iNOC = true ∧ x.toNat ≠ 0 ∧ x.toNat < 2 ^ 32 ∧ objCheck s.sled
    (whoAgent s.sled a) false i.toNat = some code) ∧
    (∃ (s : State) (a : Agent) (m : BitVec 8) (i : BitVec 14) (x : Word), canSync s.sled a = true ∧ m.toNat =
    moduleId s.sled ∧ islRuns s.sled iNOC = true ∧ (x.toNat = 0 ∨ 2 ^ 32 ≤ x.toNat)) ∧
    (∃ (s : Sled) (w : Who) (sem : Bool) (i tn : Nat), w.tenant = some tn ∧ (objHead s sem i).2.2.1 = true ∧
    rescueObj sem i = false) :=
  ⟨⟨mk up, .cc 0, 0, 0, 0xFFFFFFFF,
    by decide +kernel⟩,
  ⟨(mk { up with ctr := [(0, { valid := true, value := 2 ^ 48 - 1 })] }), .cc 0, 0, 0, 1,
    by decide +kernel⟩,
  ⟨mk up, .vf 0, 0, 1, 1, 0x1008,
    by decide +kernel⟩,
  ⟨mk up, .cc 0, 0, 0, 0x100000000,
    by decide +kernel⟩,
  ⟨up, { kind := 7, tenant := some 0, island := 35 }, false, 0, 0,
    by decide +kernel⟩⟩

theorem wit_AddsOutsideTheRangeAreNotApplied :
    (∃ (s : State) (a : Agent) (m : BitVec 8) (i : BitVec 16) (x : BitVec 32) (n : Int), canSync s.sled a = true
    ∧ m.toNat = moduleId s.sled ∧ islRuns s.sled iNOC = true ∧ x ≠ 0 ∧ objCheck s.sled (whoAgent s.sled a) true
    i.toNat = none ∧ n = (getSem s.sled i.toNat).count + sNat 32 x.toNat) ∧
    (∃ (s : Sled) (w : Who) (i : Nat) (x : Int), x ≠ 0 ∧ objCheck s w true i = none) ∧
    (∃ (s : State) (a : Agent) (m : BitVec 8) (i : BitVec 16) (n : Word), canSync s.sled a = true ∧ (∀ k, a ≠
    .vf k) ∧ m.toNat = moduleId s.sled ∧ islRuns s.sled iNOC = true ∧ 0 < n.toNat ∧ n.toNat < 2 ^ 31 ∧ objCheck
    s.sled (whoAgent s.sled a) true i.toNat = none ∧ (∀ y ∈ s.sled.waits, y.who ≠ whoAgent s.sled a)) :=
  ⟨⟨(mk { up with sem := [(0, { valid := true, count := 2 ^ 31 - 1 })] }), .cc 0, 0, 0, 1, 2 ^ 31,
    by decide +kernel⟩,
  ⟨up, { kind := 8, island := 0 }, 0, 1,
    by decide +kernel⟩,
  ⟨mk up, .cc 0, 0, 0, 1,
    by decide +kernel⟩⟩

theorem wit_SemaphoreAddsReadsAndMasks :
    (∃ (s : State) (a : Agent) (m : BitVec 8) (i : BitVec 16) (x : BitVec 32), canSync s.sled a = true ∧ m.toNat
    = moduleId s.sled ∧ islRuns s.sled iNOC = true ∧ x ≠ 0 ∧ objCheck s.sled (whoAgent s.sled a) true i.toNat =
    none ∧ -(2 ^ 31) ≤ (getSem s.sled i.toNat).count + sNat 32 x.toNat ∧ (getSem s.sled i.toNat).count + sNat 32
    x.toNat ≤ 2 ^ 31 - 1) ∧
    (∃ (s : State) (a : Agent) (m : BitVec 8) (i : BitVec 14) (j : BitVec 16), canSync s.sled a = true ∧ m.toNat
    = moduleId s.sled ∧ islRuns s.sled iNOC = true) ∧
    (∃ (s : State) (a : Agent) (m : BitVec 8) (sem : Bool) (i mask : BitVec 16), canSync s.sled a = true ∧
    m.toNat = moduleId s.sled ∧ (sem = false → i.toNat < 16384) ∧ islRuns s.sled iNOC = true) :=
  ⟨⟨(mk { up with sem := [(0, { valid := true, count := 2 ^ 31 - 2 })] }), .cc 0, 0, 0, 1,
    by decide +kernel⟩,
  ⟨mk up, .cc 0, 0, 0, 0,
    by decide +kernel⟩,
  ⟨mk up, .cc 0, 0, true, 0xFFFF, 5,
    by decide +kernel⟩⟩

theorem wit_WaitsEndEnterPollAndTimeOut :
    (∃ (s : State) (a : Agent) (m : BitVec 8) (i : BitVec 14) (x : Word), canSync s.sled a = true ∧ (∀ k, a ≠
    .vf k) ∧ m.toNat = moduleId s.sled ∧ islRuns s.sled iNOC = true ∧ x.toNat < 2 ^ 48 ∧ objCheck s.sled
    (whoAgent s.sled a) false i.toNat = none ∧ (∀ y ∈ s.sled.waits, y.who ≠ whoAgent s.sled a)) ∧
    (∃ (s : State) (a : Agent) (m : BitVec 8) (i : BitVec 14) (x : Word), canSync s.sled a = true ∧ (∀ k, a ≠
    .vf k) ∧ m.toNat = moduleId s.sled ∧ islRuns s.sled iNOC = true ∧ 2 ^ 48 ≤ x.toNat) ∧
    (∃ (s : State) (a : Agent) (m : BitVec 8) (i : BitVec 16) (n : Word), canSync s.sled a = true ∧ (∀ k, a ≠
    .vf k) ∧ m.toNat = moduleId s.sled ∧ islRuns s.sled iNOC = true ∧ 0 < n.toNat ∧ n.toNat < 2 ^ 31 ∧ objCheck
    s.sled (whoAgent s.sled a) true i.toNat = none ∧ (∀ y ∈ s.sled.waits, y.who ≠ whoAgent s.sled a)) ∧
    (∃ (s : State) (k : Fin 256) (w : Wait), s.sled.waits[k.val]? = some w ∧ w.mod = none ∧ objCheck s.sled
    w.who (decide (w.kind.obj = 1)) w.idx = none ∧ waitMet s.sled w.kind w.idx w.target = false) ∧
    (∃ (s : State) (k : Fin 256) (w : Wait), s.sled.waits[k.val]? = some w ∧ w.mod = none ∧ isQueue w.who =
    false ∧ w.who.kind ≠ 3 ∧ w.kind ≠ .semTake ∧ objCheck s.sled w.who (decide (w.kind.obj = 1)) w.idx = none ∧
    waitMet s.sled w.kind w.idx w.target = true) ∧
    (∃ (s : State) (k : Fin 256) (w : Wait), s.sled.waits[k.val]? = some w ∧ w.mod = none ∧ isQueue w.who =
    false ∧ waitMet s.sled w.kind w.idx w.target = false) ∧
    (∃ (s : State) (k : Fin 256), s.sled.waits[k.val]? = none) :=
  ⟨⟨mk up, .cc 0, 0, 0, 0xFFFFFFFFFFFF,
    by decide +kernel⟩,
  ⟨mk up, .cc 0, 0, 0, 0x1000000000000,
    by decide +kernel⟩,
  ⟨mk up, .cc 0, 0, 0, 0x7FFFFFFF,
    by decide +kernel⟩,
  ⟨(mk { up with waits := [wt 1] }), 0, wt 1,
    by decide +kernel⟩,
  ⟨(mk { up with waits := [wt 0] }), 0, wt 0,
    by decide +kernel⟩,
  ⟨(mk { up with waits := [wt 1] }), 0, wt 1,
    by decide +kernel⟩,
  ⟨mk up, 0,
    by decide +kernel⟩⟩

theorem wit_AdministrationAndDeadlockReport :
    (∃ (s : State) (a : Agent) (i : BitVec 16) (tn : Tenant), canAct s.sled a = true ∧ (a = .keeper ∨ ∃ c, a =
    .cc c) ∧ islRuns s.sled iNOC = true) ∧
    (∃ (s : State) (a : Agent) (i : BitVec 16) (tn : Tenant), canAct s.sled a = true ∧ (a = .keeper ∨ ∃ c, a =
    .cc c) ∧ islRuns s.sled iNOC = true ∧ i.toNat < 16384) ∧
    (∃ (s : State) (a : Agent) (sem : Bool) (i : BitVec 16) (k : Fin 4), canAct s.sled a = true ∧ (a = .keeper ∨
    ∃ c, a = .cc c) ∧ islRuns s.sled iNOC = true) ∧
    (∃ (s : State) (a : Agent) (i : BitVec 16) (tn : Tenant), canAct s.sled a = true ∧ (a = .keeper ∨ ∃ c, a =
    .cc c) ∧ islRuns s.sled iNOC = true ∧ 16384 ≤ i.toNat) ∧
    (∃ (s : State), islRuns s.sled iCTL = true ∧ (∀ w ∈ s.sled.waits, w.who.tenant = none)) ∧
    (∃ (s : State) (tn : Tenant) (w : Wait), islRuns s.sled iCTL = true ∧ s.sled.waits = [w] ∧ w.who.tenant =
    some tn.val ∧ w.mod = none ∧ rescueObj (decide (w.kind.obj = 1)) w.idx = false ∧ (fget s.sled.dld {}
    tn).progress = false ∧ (fget s.sled.dld {} tn).reported = false ∧ (fget s.sled.dld {} tn).blocked + 1 = max
    1 (rField s.sled bSYN 0x18 16 4) ∧ queuesWait s.sled tn = true ∧ (fget s.sled.kpr.coll [] iCTL).length < 16) ∧
    (∃ s : State, islRuns s.sled iCTL = false) :=
  ⟨⟨mk up, .cc 0, 0xFFFF, 0,
    by decide +kernel⟩,
  ⟨mk up, .keeper, 0x3FFF, 0,
    by decide +kernel⟩,
  ⟨mk up, .keeper, false, 0, 3,
    by decide +kernel⟩,
  ⟨mk up, .keeper, 0x4000, 0,
    by decide +kernel⟩,
  ⟨(mk { up with waits := [wt 1] }),
    by decide +kernel⟩,
  ⟨(mk { up with waits := [wv], dld := [(0, { blocked := rField up bSYN 0x18 16 4 - 1 })] }), 0, wv,
    by decide +kernel⟩,
  ⟨(mk { up with isl := [] }),
    by decide +kernel⟩⟩

theorem wit_StreamsAreRegisteredWithTheirBody :
    (∃ (s : State) (q : Fin 16) (k : Fin 8) (d : Desc) (st : Strm) (b : List (Byte × Bool)) (ok : Bool), steDesc
    s.sled q k d 0x60 ∧ st = sregStrm s.sled d ∧ bitAt (dField d 0x1F 1) 2 = false ∧ homeOk s.sled st = true ∧
    reachOk s.sled st.tenant (dField d 0x28 8) (bodyLen st) = true ∧ registerBar s.sled (dStream d) st = 0 ∧
    slotsUsed s.sled st.tenant + bodySlots st ≤ slotQuota s.sled st.tenant ∧ readLocal (dField d 0x28 8)
    (bodyLen st) s.sled = ((b, ok), s.sled) ∧ s.sled.clearing = false) ∧
    (∃ (s : State) (q : Fin 16) (k : Fin 8) (d : Desc) (st : Strm), steDesc s.sled q k d 0x60 ∧ st = sregStrm
    s.sled d ∧ bitAt (dField d 0x1F 1) 2 = false ∧ homeOk s.sled st = true ∧ reachOk s.sled st.tenant (dField d
    0x28 8) (bodyLen st) = true ∧ registerBar s.sled (dStream d) st ≠ 0) ∧
    (∃ (s : Sled) (id : Nat) (st : Strm), (ffind s.ste.streams id).isSome = true) ∧
    (∃ (s : Sled) (id : Nat) (st : Strm), ffind s.ste.streams id = none ∧ st.kind ≠ 4 ∧ slotQuota s st.tenant <
    bodySlots st) :=
  ⟨⟨mk (ste0 sregD up), 0, 0, sregD, sregStrm up sregD, List.replicate (bodyLen (sregStrm up sregD)) (0, false),
   true,
    by decide +kernel⟩,
  ⟨mk (strm0 st0 (ste0 sregD up)), 0, 0, sregD, sregStrm up sregD,
    by decide +kernel⟩,
  ⟨strm0 st0 up, 5, st0,
    by decide +kernel⟩,
  ⟨up, 5, { st0 with tenant := 1 },
    by decide +kernel⟩⟩

theorem wit_StepAdvancesTheStream :
    (∃ (s : State) (q : Fin 16) (k : Fin 8) (d : Desc) (st : Strm), steDesc s.sled q k d 0x61 ∧ earlierOp s.sled
    d = false ∧ strmOf s.sled d = some st ∧ st.resident = true ∧ st.paused = false ∧ (st.kind = 4 → pwlValid
    (fget d.curves [] st.pwl) = true) ∧ stepReach s.sled st d = true ∧ s.sled.ecc = [] ∧ calm s.sled) ∧
    (∃ (s : State) (q : Fin 16) (k : Fin 8) (d : Desc) (st : Strm), steDesc s.sled q k d 0x61 ∧ earlierOp s.sled
    d = false ∧ strmOf s.sled d = some st ∧ st.paused = true) ∧
    (∃ (s : State) (q : Fin 16) (k : Fin 8) (d : Desc), steDesc s.sled q k d 0x61 ∧ earlierOp s.sled d = false ∧
    strmOf s.sled d = none) ∧
    (∃ (st : Strm) (c : List Byte) (a h x g : FVal), st.kind = 0 ∧ st.comp = false) ∧
    (∃ (st : Strm) (c : List Byte) (a b h x g : FVal), st.kind = 1 ∧ st.comp = false) ∧
    (∃ (st : Strm) (c : List Byte) (p1 p2 p3 h1 h2 x g : FVal), st.kind = 2 ∧ st.comp = false) :=
  ⟨⟨mk (strm0 st0 (ste0 stepD up)), 0, 0, stepD, st0,
    by and_intros <;> first | (apply calm_of <;> decide +kernel) | decide +kernel⟩,
  ⟨mk (strm0 { st0 with paused := true } (ste0 stepD up)), 0, 0, stepD, { st0 with paused := true },
    by decide +kernel⟩,
  ⟨mk (ste0 stepD up), 0, 0, stepD,
    by decide +kernel⟩,
  ⟨st0, [], FVal.ofInt 1, FVal.ofInt 2, FVal.ofInt 3, FVal.ofInt 4,
    by decide +kernel⟩,
  ⟨{ st0 with kind := 1 }, [], FVal.ofInt 1, FVal.ofInt 2, FVal.ofInt 3, FVal.ofInt 4, FVal.ofInt 5,
    by decide +kernel⟩,
  ⟨{ st0 with kind := 2 }, [], FVal.ofInt 1, FVal.ofInt 2, FVal.ofInt 3, FVal.ofInt 4, FVal.ofInt 5, FVal.ofInt
   6, FVal.ofInt 7,
    by decide +kernel⟩⟩

theorem wit_StepCommandCompletes :
    ∃ (s : State) (q : Fin 16) (k : Fin 8) (d : Desc) (st : Strm), steDesc s.sled q k d 0x61 ∧ d.orphan = false
    ∧ ffind s.sled.ste.streams (dStream d) = some st ∧ st.tenant = qTen s.sled 8 d.q ∧ st.resident = true ∧
    st.paused = false ∧ (st.kind = 4 → pwlValid (fget d.curves [] st.pwl) = true) ∧ (∀ e ∈ s.sled.ste.descs,
    e.id ≠ d.id → e.stage ≠ 0 → dStream e ≠ dStream d) ∧ (∀ i < dField d 0x1C 4, reachOk s.sled st.tenant
    (dField d 0x20 8 + i * dField d 0x38 4) (st.c * stepInBytes (d.fmt % 16)) = true ∧ (st.kind = 4 → reachOk
    s.sled st.tenant (dField d 0x28 8 + i * dField d 0x38 4) (st.c * stepInBytes (d.fmt % 16)) = true) ∧ (bitAt
    d.flags 4 = false → reachOk s.sled st.tenant (dField d 0x30 8 + i * dField d 0x3C 4) (st.c * (stepOut (d.fmt
    / 16)).bytes) = true)) ∧ calm s.sled ∧ s.sled.ecc = [] :=
  ⟨mk (strm0 st0 (ste0 stepD up)), 0, 0, stepD, st0,
    by and_intros <;> first | (apply calm_of <;> decide +kernel) | decide +kernel⟩

theorem wit_CapsulesLeaveAndEnter :
    (∃ (s : State) (q : Fin 16) (k : Fin 8) (d : Desc) (st : Strm) (core : CoreId) (dst : Nat), steDesc s.sled q
    k d 0x62 ∧ earlierOp s.sled d = false ∧ strmOf s.sled d = some st ∧ st.resident = true ∧ bitAt d.flags 5 =
    false ∧ dField d 0x20 8 = moduleId s.sled * 2 ^ 40 + dst ∧ ownScratch core dst (68 + bodyLen st) ∧ dst % 64
    = 0 ∧ islRuns s.sled (iVC core) = true ∧ 68 + bodyLen st ≤ dField d 0x28 4 ∧ rowOk s.sled st.tenant (dField
    d 0x20 8) (68 + bodyLen st) = true ∧ s.sled.ecc = [] ∧ s.sled.clearing = false ∧ st.slots.length = bodySlots
    st) ∧
    (∃ (s : State) (q : Fin 16) (k : Fin 8) (d : Desc) (h l : List (Byte × Bool)) (st : Strm) (n : Nat), steDesc
    s.sled q k d 0x63 ∧ dField d 0x20 8 / 2 ^ 40 = moduleId s.sled ∧ rowOk s.sled (qTen s.sled 8 d.q) (dField d
    0x20 8) 68 = true ∧ readLocal (dField d 0x20 8 % 2 ^ 40) 64 s.sled = ((h, true), s.sled) ∧ capStart (h.map
    (·.1)) = true ∧ s.sled.clearing = false ∧ n = 68 + leNat (((h.map (·.1)).drop 0xC).take 4) ∧ rowOk s.sled
    (qTen s.sled 8 d.q) (dField d 0x20 8) n = true ∧ readLocal (dField d 0x20 8 % 2 ^ 40) n s.sled = ((l, true),
    s.sled) ∧ st = capStrm (l.map (·.1)) (qTen s.sled 8 d.q) (dField d 0x28 8) (bitAt (dField d 0x30 1) 1)) ∧
    (∃ (s : State) (q : Fin 16) (k : Fin 8) (d : Desc) (h : List (Byte × Bool)) (ok : Bool), steDesc s.sled q k
    d 0x63 ∧ dField d 0x20 8 / 2 ^ 40 = moduleId s.sled ∧ rowOk s.sled (qTen s.sled 8 d.q) (dField d 0x20 8) 68
    = true ∧ readLocal (dField d 0x20 8 % 2 ^ 40) 64 s.sled = ((h, ok), s.sled) ∧ capStart (h.map (·.1)) =
    false) :=
  ⟨⟨mk (strm0 st0 (ste0 capD up)), 0, 0, capD, st0, 0, 0x8000000000,
    by decide +kernel⟩,
  ⟨mk impS, 0, 0, impD, (readLocal 0x8000000000 64 impS).1.1, (readLocal 0x8000000000 72 impS).1.1, capStrm
   ((readLocal 0x8000000000 72 impS).1.1.map (·.1)) 0 0 false, 72,
    by decide +kernel⟩,
  ⟨mk (ste0 impD up), 0, 0, impD, (readLocal 0x8000000000 64 (ste0 impD up)).1.1, true,
    by decide +kernel⟩⟩

theorem wit_StreamControlOperations :
    (∃ (s : State) (q : Fin 16) (k : Fin 8) (d : Desc) (st : Strm), steDesc s.sled q k d 0x64 ∧ earlierOp s.sled
    d = false ∧ strmOf s.sled d = some st ∧ st.resident = true) ∧
    (∃ (s : State) (q : Fin 16) (k : Fin 8) (d : Desc) (st : Strm), steDesc s.sled q k d 0x65 ∧ earlierOp s.sled
    d = false ∧ strmOf s.sled d = some st ∧ bitAt d.flags 4 = false) ∧
    (∃ (s : State) (a b : Desc), s.sled.ste.descs = [a, b] ∧ a.stage = 1 ∧ a.opc = 0x61 ∧ b.stage = 1 ∧ b.opc =
    0x61 ∧ s.sled.ste.evictQ = [] ∧ dStream a ≠ dStream b ∧ s.sled.ste.turn = [dStream a, dStream b]) ∧
    (∃ (s : State) (id : Nat) (rest : List Nat), s.sled.ste.evictQ = id :: rest ∧ (∀ e ∈ s.sled.ste.descs, e.id
    ≠ id)) ∧
    (∃ (s : State) (d : Desc) (st : Strm) (rest : List Nat), s.sled.ste.evictQ = d.id :: rest ∧
    s.sled.ste.descs.find? (fun e => e.id = d.id) = some d ∧ d.opc = 0x64 ∧ bitAt d.flags 4 = false ∧ earlierOp
    s.sled d = false ∧ strmOf s.sled d = some st ∧ st.resident = false ∧ slotsUsed s.sled st.tenant + bodySlots
    st ≤ slotQuota s.sled st.tenant ∧ d.id ∉ rest ∧ calm s.sled) ∧
    (∃ (s : State) (a : Agent) (i : BitVec 4) (addr : LAddr) (b : List (Byte × Bool)), canAct s.sled a = true ∧
    blkReach a bSTE = true ∧ islRuns s.sled iSTE = true ∧ lockedReg s.sled bSTE 0x200 = false ∧ addr.toNat % 64
    = 0 ∧ readLocal addr.toNat 224 s.sled = ((b, true), s.sled) ∧ anyPoison b = false ∧ pwlValid (b.map (·.1)) =
    true) ∧
    (∃ (s : State) (a : Agent) (i : BitVec 4) (addr : LAddr) (b : List (Byte × Bool)), canAct s.sled a = true ∧
    blkReach a bSTE = true ∧ islRuns s.sled iSTE = true ∧ lockedReg s.sled bSTE 0x200 = false ∧ addr.toNat % 64
    = 0 ∧ readLocal addr.toNat 224 s.sled = ((b, true), s.sled) ∧ pwlValid (b.map (·.1)) = false) :=
  ⟨⟨mk (strm0 st0 (ste0 (dsc 0 [(0, 0x64), (0x18, 5)]) up)), 0, 0, dsc 0 [(0, 0x64), (0x18, 5)], st0,
    by decide +kernel⟩,
  ⟨mk (strm0 st0 (ste0 (dsc 0 [(0, 0x65), (0x18, 5)]) up)), 0, 0, dsc 0 [(0, 0x65), (0x18, 5)], st0,
    by decide +kernel⟩,
  ⟨(mk
   { up with ste := { descs := [dsc 0 [(0, 0x61), (0x18, 1)], { dsc 0 [(0, 0x61), (0x18, 2)] with id := 2 }], turn := [1, 2] } }),
   dsc 0 [(0, 0x61), (0x18, 1)], { dsc 0 [(0, 0x61), (0x18, 2)] with id := 2 },
    by decide +kernel⟩,
  ⟨(mk { up with ste.evictQ := [3] }), 3, [],
    by decide +kernel⟩,
  ⟨mk (strm0 { st0 with resident := false } (ste0 (dsc 0 [(0, 0x64), (0x18, 5)])
   { up with ste.evictQ := [1] })), dsc 0 [(0, 0x64), (0x18, 5)], { st0 with resident := false }, [],
    by and_intros <;> first | (apply calm_of <;> decide +kernel) | decide +kernel⟩,
  ⟨mk curveS, .cc 0, 15, 0x8000000000, (readLocal 0x8000000000 224 curveS).1.1,
    by decide +kernel⟩,
  ⟨mk up, .cc 0, 15, 0x8000000000, List.replicate 224 (0, false),
    by decide +kernel⟩⟩

theorem wit_LinkBringUpWalksItsStates :
    (∃ (s : State) (l : LinkId) (k : Lnk), linkIn s.sled l 0 k) ∧
    (∃ (s : State) (l : LinkId) (k : Lnk), linkIn s.sled l 1 k) ∧
    (∃ (s : State) (l : LinkId) (r : LinkTrain) (k : Lnk), linkIn s.sled l 2 k) ∧
    (∃ (s : State) (l : LinkId) (k : Lnk), linkIn s.sled l 3 k) ∧
    (∃ (s : State) (l : LinkId) (o : LinkOffer) (k : Lnk) (p : Ppi), linkIn s.sled l 4 k ∧ s.sled.prof = some p) ∧
    (∃ (s : State) (l : LinkId) (m : AuthMsg) (k : Lnk) (p : Ppi), linkIn s.sled l 5 k ∧ s.sled.kpr.phase =
    .running ∧ s.sled.prof = some p) ∧
    (∃ (s : State) (l : LinkId) (k : Lnk), linkIn s.sled l 8 k) ∧
    (∃ (s : State) (a : Agent) (l : LinkId), canAct s.sled a = true ∧ blkReach a (bLNK l) = true ∧ islRuns
    s.sled (iL l) = true ∧ lockedReg s.sled (bLNK l) 0 = false) :=
  ⟨⟨(mk { up with lnk := [(0, { state := 0 })] }), 0, { state := 0 },
    by decide +kernel⟩,
  ⟨(mk { up with lnk := [(0, { state := 1 })] }), 0, { state := 1 },
    by decide +kernel⟩,
  ⟨mk { up with lnk := [(0, { state := 2 })] }, 0, ⟨255⟩, { state := 2 },
    by decide +kernel⟩,
  ⟨(mk { up with lnk := [(0, { state := 3 })] }), 0, { state := 3 },
    by decide +kernel⟩,
  ⟨mk { up with lnk := [(0, { state := 4 })] }, 0, ⟨1, true, false, true, true⟩, { state := 4 }, ppi0,
    by decide +kernel⟩,
  ⟨mk { up with lnk := [(0, { state := 5 })] }, 0, ⟨true, true, 0⟩, { state := 5 }, ppi0,
    by decide +kernel⟩,
  ⟨(mk { up with lnk := [(0, { state := 8 })] }), 0, { state := 8 },
    by decide +kernel⟩,
  ⟨mk up, .cc 0, 15,
    by decide +kernel⟩⟩

theorem wit_FlitsAreSentReceivedAndReplayed :
    (∃ (s : State) (l : LinkId) (k : Lnk), linkIn s.sled l 6 k ∧ k.nakOwed = true) ∧
    (∃ (s : State) (l : LinkId) (k : Lnk) (f : TxFlit) (r : List TxFlit), linkIn s.sled l 6 k ∧ k.nakOwed =
    false ∧ k.replay = f :: r) ∧
    (∃ (s : State) (l : LinkId) (k : Lnk) (v : Fin 4), linkIn s.sled l 6 k ∧ k.nakOwed = false ∧ k.replay = [] ∧
    k.retry.length < retryDepth k ∧ pickVc k = some v) ∧
    (∃ (s : State) (l : LinkId) (k : Lnk), linkIn s.sled l 6 k ∧ k.nakOwed = false ∧ k.replay = [] ∧ (retryDepth
    k ≤ k.retry.length ∨ pickVc k = none)) ∧
    (∃ (k : Lnk) (v : Fin 4), pickVc k = some v) ∧
    (∃ k : Lnk, (∀ v : Fin 4, k.starve[v] = 0) ∧ (nextFlit k 3).1 ≠ [] ∧ k.sent[(3 : Fin 4)] - k.got[(3 : Fin
    4)] < 128) ∧
    (∃ (s : State) (l : LinkId) (k : Lnk) (lo hi : List (Fin 1088)) (f : FlitIn), linkIn s.sled l 6 k) ∧
    (∃ (w : Nat) (e : List Nat), e.length ≤ 8) ∧
    (∃ (s : Sled) (l : LinkId) (k : Lnk) (f : FlitIn), linkIn s l 6 k ∧ flitRead k.flit128 f.bytes = none ∧
    k.nakOut = false) ∧
    (∃ (s : Sled) (l : LinkId) (k : Lnk) (vc : Nat) (m : List Msg), linkIn s l 6 k ∧ (k.rx.filter fun e => e.1 =
    vc).length < allotment vc) ∧
    (∃ (s : Sled) (l : LinkId) (k : Lnk) (seq vc : Nat) (m : List Msg), linkIn s l 6 k ∧ seq ≠ k.expect ∧ seq <
    seqMod k ∧ k.expect < seqMod k) ∧
    (∃ (s : Sled) (l : LinkId) (k : Lnk) (i : Nat) (x : TxFlit), linkIn s l 6 k ∧ k.nextSeq < seqMod k ∧
    k.retry.length ≤ retryDepth k ∧ (∀ j y, k.retry[j]? = some y → y.seq = (k.nextSeq + seqMod k -
    k.retry.length + j) % seqMod k) ∧ k.retry[i]? = some x) ∧
    (∃ (s : Sled) (l : LinkId) (k : Lnk) (a r : List TxFlit) (x : TxFlit), linkIn s l 6 k ∧ k.retry = a ++ x ::
    r ∧ (∀ y ∈ a, y.seq ≠ x.seq) ∧ k.nakSeq = none) ∧
    (∃ (s : State) (l : LinkId) (k : Lnk) (v : Fin 4) (r : List (Nat × List Msg)), linkIn s.sled l 6 k ∧ k.rx =
    (v.val, []) :: r) ∧
    (∃ (s : State) (l : LinkId) (v : Fin 4) (k : Lnk) (m : Msg) (r : List (Nat × List Msg)), linkIn s.sled l 6 k
    ∧ k.rx = (v.val, [m]) :: r) ∧
    (∃ (s : State) (l : LinkId) (k : Lnk), linkIn s.sled l 6 k) ∧
    (∃ (s : State) (l : LinkId) (k : Lnk), linkIn s.sled l 6 k ∧ k.retry ≠ []) :=
  ⟨⟨(mk { up with lnk := [(0, { state := 6, nakOwed := true })] }), 0, { state := 6, nakOwed := true },
    by decide +kernel⟩,
  ⟨(mk { up with lnk := [(0, { state := 6, replay := [tf0] })] }), 0, { state := 6, replay := [tf0] }, tf0, [],
    by decide +kernel⟩,
  ⟨(mk { up with lnk := [(0, { state := 6, tx := #v[[], [], [], [mg]] })] }), 0,
   { state := 6, tx := #v[[], [], [], [mg]] }, 3,
    by decide +kernel⟩,
  ⟨(mk { up with lnk := [(0, { state := 6 })] }), 0, { state := 6 },
    by decide +kernel⟩,
  ⟨{ tx := #v[[], [mg], [mg], []] }, 2,
    by decide +kernel⟩,
  ⟨{ tx := #v[[mg], [], [], [mg]] },
    by decide +kernel⟩,
  ⟨mk { up with lnk := [(0, { state := 6 })] }, 0, { state := 6 }, [], [], fl0,
    by decide +kernel⟩,
  ⟨0, [],
    by decide +kernel⟩,
  ⟨((mk { up with lnk := [(0, { state := 6 })] })).sled, 0, { state := 6 }, fl0,
    by decide +kernel⟩,
  ⟨{ up with lnk := [(0, { state := 6 })] }, 0, { state := 6 }, 0, [],
    by decide +kernel⟩,
  ⟨{ up with lnk := [(0, { state := 6 })] }, 0, { state := 6 }, 1, 0, [],
    by decide +kernel⟩,
  ⟨((mk { up with lnk := [(0, { state := 6, nextSeq := 1, retry := [tf0] })] })).sled, 0,
   { state := 6, nextSeq := 1, retry := [tf0] }, 0, tf0,
    ⟨by decide +kernel,
    by decide +kernel,
    by decide +kernel,
    by
      intro j y h
      match j, h with
      | 0, h => cases h; decide +kernel,
    by decide +kernel⟩⟩,
  ⟨((mk { up with lnk := [(0, { state := 6, nextSeq := 1, retry := [tf0] })] })).sled, 0,
   { state := 6, nextSeq := 1, retry := [tf0] }, [], [], tf0,
    by decide +kernel⟩,
  ⟨(mk { up with lnk := [(0, { state := 6, rx := [(3, [])] })] }), 0, { state := 6, rx := [(3, [])] }, 3, [],
    by decide +kernel⟩,
  ⟨(mk { up with lnk := [(0, { state := 6, rx := [(3, [mg])] })] }), 0, 3, { state := 6, rx := [(3, [mg])] },
   mg, [],
    by decide +kernel⟩,
  ⟨(mk { up with lnk := [(0, { state := 6 })] }), 0, { state := 6 },
    by decide +kernel⟩,
  ⟨(mk { up with lnk := [(0, { state := 6, retry := [tf0] })] }), 0, { state := 6, retry := [tf0] },
    by decide +kernel⟩⟩

theorem wit_RecoverResumesNarrowsOrGoesDown :
    (∃ (s : State) (a : Agent) (l : LinkId) (k : Lnk), linkIn s.sled l 6 k ∧ canAct s.sled a = true ∧ blkReach a
    (bLNK l) = true) ∧
    (∃ (s : Sled) (l : LinkId) (k : Lnk), linkIn s l 6 k) ∧
    (∃ (s : State) (l : LinkId) (i : Fin 8) (k : Lnk), linkIn s.sled l 6 k) ∧
    (∃ (s : State) (l : LinkId) (i : Fin 8) (n : BitVec 32) (k : Lnk), linkIn s.sled l 6 k) ∧
    (∃ (s : State) (l : LinkId) (lock : BitVec 8) (e : List (BitVec 24)) (k : Lnk) (g : Nat), linkIn s.sled l 7
    k ∧ k.narrow = false ∧ k.retry = [] ∧ g = healthyLanes s.sled l lock.toNat (e.map (·.toNat))) ∧
    (∃ (s : State) (l : LinkId) (k : Lnk), linkIn s.sled l 7 k) ∧
    (∃ (s : State) (l : LinkId) (k : Lnk), linkIn s.sled l 6 k) ∧
    (∃ (s : Sled) (l : LinkId) (k : Lnk), getLnk s l = k ∧ k.retry = [] ∧ k.tx = Vector.replicate 4 []) ∧
    (∃ (s : State) (l : LinkId) (k : Lnk), linkIn s.sled l 6 k ∧ k.narrow = true ∧ rField s.sled (bLNK l) 0 2 1
    = 1) :=
  ⟨⟨(mk { up with lnk := [(0, { state := 6 })] }), .cc 0, 0, { state := 6 },
    by decide +kernel⟩,
  ⟨((mk { up with lnk := [(0, { state := 6 })] })).sled, 0, { state := 6 },
    by decide +kernel⟩,
  ⟨(mk { up with lnk := [(0, { state := 6 })] }), 0, 7, { state := 6 },
    by decide +kernel⟩,
  ⟨(mk { up with lnk := [(0, { state := 6 })] }), 0, 7, 5, { state := 6 },
    by decide +kernel⟩,
  ⟨(mk { up with lnk := [(0, { state := 7 })] }), 0, 255, List.replicate 8 0, { state := 7 }, healthyLanes ((mk
   { up with lnk := [(0, { state := 7 })] })).sled 0 255 (List.replicate 8 0),
    by decide +kernel⟩,
  ⟨(mk { up with lnk := [(0, { state := 7 })] }), 0, { state := 7 },
    by decide +kernel⟩,
  ⟨(mk { up with lnk := [(0, { state := 6 })] }), 0, { state := 6 },
    by decide +kernel⟩,
  ⟨((mk { up with lnk := [(0, { state := 7 })] })).sled, 0, { state := 7 },
    by decide +kernel⟩,
  ⟨mk (rSet (bLNK 0) 0 5 { up with lnk := [(0, { state := 6, narrow := true })] }), 0,
   { state := 6, narrow := true },
    by decide +kernel⟩⟩

theorem wit_FabricRequestsActAndAreAnswered :
    (∃ (s : State) (l : LinkId) (m : MsgIn), arrives s.sled l m ∧ 0 < m.arg.toNat % 256 ∧ m.arg.toNat % 256 ≤
    m.data.length ∧ calm s.sled) ∧
    (∃ (s : State) (l : LinkId) (m : MsgIn) (b : List (Byte × Bool)) (ok : Bool) (v : Sled), arrives s.sled l m
    ∧ 0 < m.arg.toNat ∧ m.arg.toNat ≤ 4096 ∧ fabReach s.sled m m.arg.toNat = true ∧ readLocal m.addr.toNat
    m.arg.toNat s.sled = ((b, ok), v) ∧ v.stall = s.sled.stall) ∧
    (∃ (s : State) (l : LinkId) (m : MsgIn), arrives s.sled l m ∧ (m.arg.toNat = 0 ∨ 4096 < m.arg.toNat ∨
    fabReach s.sled m m.arg.toNat = false)) ∧
    (∃ (s : Sled) (m : MsgIn) (n : Nat) (b : List (Byte × Bool)), 0 < b.length ∧ b.length % 16 = 0 ∧ b.length ≤
    msgLimit s m.src.toNat) ∧
    (∃ (s : State) (l : LinkId) (m : MsgIn) (f : Fmt) (n : Nat) (p : Bool) (v : Sled), arrives s.sled l m ∧ f =
    (if m.arg.toNat % 2 = 1 then fp32 else bf16) ∧ n = m.arg.toNat / 256 % 256 ∧ 0 < n ∧ n ≤ m.data.length ∧ n %
    f.bytes = 0 ∧ m.addr.toNat % f.bytes = 0 ∧ fabReach s.sled m n = true ∧ m.addr.toNat < 2 ^ 39 ∧ reduceLocal
    f m.addr.toNat (msgBytes m n) s.sled = (p, v) ∧ v.stall = s.sled.stall) ∧
    (∃ (s : State) (l : LinkId) (m : MsgIn) (i : Nat), arrives s.sled l m ∧ i < 2 ^ 14 ∧ m.addr.toNat =
    0x8100000000 + 8 * i) ∧
    (∃ (s : State) (l : LinkId) (m : MsgIn) (i : Nat), arrives s.sled l m ∧ i < 2 ^ 14 ∧ m.addr.toNat =
    0x8100000000 + 8 * i ∧ m.arg.toNat % 16 = 1 ∧ objCheck s.sled (whoFabric l m) false i = none) ∧
    (∃ (s : State) (l : LinkId) (m : MsgIn), arrives s.sled l m ∧ (m.addr.toNat < 0x8100000000 ∨ 0x8100200000 ≤
    m.addr.toNat)) ∧
    (∃ (s : Sled) (kind arg pois : Nat) (m : MsgIn) (d : List Byte) (r : Route), r = routeTo s m.src.toNat ∧
    r.pValid = true ∧ linkLive s r.rsp = true ∧ m.src.toNat ∉ s.fab.onAlt ∧ kind ∈ [4, 5, 9]) :=
  ⟨⟨mk up, 0, { msg0 with arg := 1, data := [1] },
    by and_intros <;> first | (apply calm_of <;> decide +kernel) | decide +kernel⟩,
  ⟨mk up, 0, { msg0 with arg := 16 }, List.replicate 16 (0, false), true, up,
    by decide +kernel⟩,
  ⟨mk up, 0, { msg0 with arg := 4097 },
    by decide +kernel⟩,
  ⟨up, { msg0 with arg := 16 }, 0, List.replicate 16 (0, false),
    by decide +kernel⟩,
  ⟨mk up, 0, mred, fp32, 4, false, (reduceLocal fp32 0 (msgBytes mred 4) up).2,
    by decide +kernel⟩,
  ⟨mk up, 0, { msg0 with addr := 0x8100000000 }, 0,
    by decide +kernel⟩,
  ⟨mk up, 0, { msg0 with addr := 0x8100000000, arg := 1 }, 0,
    by decide +kernel⟩,
  ⟨mk up, 0, { msg0 with addr := 0x8100200000 },
    by decide +kernel⟩,
  ⟨routed up, 4, 0, 0, msg0, [], routeTo (routed up) 1,
    by decide +kernel⟩⟩

theorem wit_FabricForwardsAndAnswersCompleteOrFail :
    (∃ (s : Sled) (l : LinkId) (kind : Nat) (m : MsgIn) (f : Sled → Sled) (r : Route), linkLive s l = true ∧
    m.dest.toNat ≠ moduleId s ∧ m.src.toNat ∉ s.fab.gone ∧ r = routeTo s m.dest.toNat ∧ r.pValid = true ∧ kind ∈
    [1, 2, 3]) ∧
    (∃ (s : State) (l : LinkId) (m : MsgIn) (o : Outst), arrives s.sled l m ∧ answer m s.sled = some o) ∧
    (∃ (s : State) (l : LinkId) (m : MsgIn) (o : Outst) (id dst len : Nat), arrives s.sled l m ∧ answer m s.sled
    = some o ∧ o.cont = .descRead id dst len ∧ ffind o.buf (m.arg.toNat % 65536) = none ∧ m.arg.toNat / 65536 %
    65536 < o.rem ∧ m.arg.toNat / 65536 % 65536 ≤ m.data.length) ∧
    (∃ (s : Sled) (o : Outst) (m : MsgIn) (c rd f3 : Nat), o.cont = .seLoad c rd f3 ∧ m.pois = 0 ∧ rd ≠ 0) ∧
    (∃ (s : Sled) (o : Outst) (m : MsgIn) (w : Who), o.cont = .value w) ∧
    (∃ (s : Sled) (o : Outst) (m : MsgIn) (id : Nat), o.cont = .descWrite id ∧ m.arg.toNat % 2 = 0) ∧
    (∃ (s : Sled) (o : Outst) (code id u : Nat) (d : Desc), o.cont = .descWrite id ∧ findDesc s id = some (u, d)
    ∧ d.opc ≠ 3) :=
  ⟨⟨routed up, 0, 1, { msg0 with dest := 1, src := 2 }, id, routeTo (routed up) 1,
    by decide +kernel⟩,
  ⟨(mk { up with fab.out := [(0, out0 (.descWrite 3))] }), 0, msg0, out0 (.descWrite 3),
    by decide +kernel⟩,
  ⟨mk { vcDesc redD with fab := { out := [(0, { out0 (.descRead 1 0 4) with rem := 4 })] } }, 0, msg0,
   { out0 (.descRead 1 0 4) with rem := 4 }, 1, 0, 4,
    by decide +kernel⟩,
  ⟨up, out0 (.seLoad 0 5 3), msg0, 0, 5, 3,
    by decide +kernel⟩,
  ⟨up, out0 (.value { kind := 4, island := 1 }), msg0, { kind := 4, island := 1 },
    by decide +kernel⟩,
  ⟨up, out0 (.descWrite 3), msg0, 3,
    by decide +kernel⟩,
  ⟨vcDesc copyD, out0 (.descWrite 1), 0xB003, 1, 0, copyD,
    by decide +kernel⟩⟩

theorem wit_FabricReroutesAndDeclaresModulesGone :
    (∃ (s : State) (l : LinkId) (m i : MsgIn) (k : BitVec 4) (o : Outst), arrives s.sled l m ∧ k.toNat ∈ [1, 2,
    3, 6, 7] ∧ ffind s.sled.fab.out i.tag.toNat = some o ∧ m.arg.toNat % 2 = 1 ∧ idempotent o.msg = false) ∧
    (∃ (s : State) (l : LinkId) (m i : MsgIn) (k : BitVec 4) (o : Outst), arrives s.sled l m ∧ k.toNat ∈ [1, 2,
    3, 6, 7] ∧ ffind s.sled.fab.out i.tag.toNat = some o ∧ (m.arg.toNat % 2 = 0 ∨ idempotent o.msg = true)) ∧
    (∃ (s : Sled) (tag : Nat) (o : Outst) (r : Route), r = routeTo s o.dest ∧ r.aValid = true ∧ (getLnk s
    r.alt).state = 6 ∧ outTo (closeTag tag s) o.dest = [] ∧ fget (closeTag tag s).fab.held [] o.dest = [] ∧
    o.dest ∉ s.fab.onAlt) ∧
    (∃ (s : Sled) (tag : Nat) (o : Outst), (routeTo s o.dest).aValid = false) ∧
    (∃ (s : State) (tag : BitVec 16) (o : Outst), ffind s.sled.fab.out tag.toNat = some o ∧ o.whole = false) ∧
    (∃ (s : State) (l : LinkId) (m : MsgIn), arrives s.sled l m) ∧
    (∃ (s : State) (n : BitVec 8), n.toNat ≠ moduleId s.sled ∧ (routeTo s.sled n.toNat).pValid = true) ∧
    (∃ (s : Sled) (i n : Nat), n ∈ s.fab.gone) ∧
    (∃ (s : Sled) (i n : Nat), n ∉ s.fab.gone ∧ outTo s n = [] ∧ fget s.fab.held [] n = [] ∧ (∀ w ∈ s.waits,
    w.mod ≠ some n)) ∧
    (∃ (s : State) (n : BitVec 8) (tag : Nat) (o : Outst) (r : Route), r = routeTo s.sled n.toNat ∧ fget
    s.sled.fab.held [] n.toNat = [(tag, o)] ∧ outTo s.sled n.toNat = [] ∧ n.toNat ∉ s.sled.fab.onAlt ∧ linkLive
    s.sled r.pri = true ∧ o.dest = n.toNat) ∧
    (∃ (s : State) (n : BitVec 8), n.toNat ∈ s.sled.fab.onAlt ∧ (getLnk s.sled (routeTo s.sled
    n.toNat).pri).state = 6) ∧
    (∃ (s : State) (l : LinkId) (k : BitVec 4) (v : Fin 4) (m : MsgIn), linkLive s.sled l = true ∧ m.src.toNat ∉
    s.sled.fab.gone ∧ (k = 0 ∨ 12 ≤ k.toNat)) :=
  ⟨⟨(mk { up with fab.out := [(0, { out0 (.descWrite 3) with msg := { kind := 3, h := msg0 } })] }), 0,
   { msg0 with arg := 1 }, msg0, 3, { out0 (.descWrite 3) with msg := { kind := 3, h := msg0 } },
    by decide +kernel⟩,
  ⟨(mk { up with fab.out := [(0, { out0 (.descWrite 3) with msg := { kind := 3, h := msg0 } })] }), 0, msg0,
   msg0, 3, { out0 (.descWrite 3) with msg := { kind := 3, h := msg0 } },
    by decide +kernel⟩,
  ⟨routed { up with fab.out := [(0, out0 (.descWrite 3))], lnk := [(0, { state := 6 }), (1, { state := 6 })] },
   0, out0 (.descWrite 3), routeTo (routed up) 1,
    by decide +kernel⟩,
  ⟨up, 0, out0 (.descWrite 3),
    by decide +kernel⟩,
  ⟨(mk { up with fab.out := [(0, out0 (.descWrite 3))] }), 0, out0 (.descWrite 3),
    by decide +kernel⟩,
  ⟨mk up, 0, msg0,
    by decide +kernel⟩,
  ⟨mk (routed up), 1,
    by decide +kernel⟩,
  ⟨{ up with fab.gone := [1] }, 0, 1,
    by decide +kernel⟩,
  ⟨up, 0, 1,
    by decide +kernel⟩,
  ⟨mk (routed { up with fab.held := [(1, [(0, out0 (.descWrite 3))])] }), 1, 0, out0 (.descWrite 3), routeTo
   (routed up) 1,
    by decide +kernel⟩,
  ⟨mk (routed { up with fab.onAlt := [1] }), 1,
    by decide +kernel⟩,
  ⟨mk up, 0, 12, 3, msg0,
    by decide +kernel⟩⟩

theorem wit_HostRequestsAtomicsAndResets :
    (∃ (s : State) (fn : HFn) (k : Tenant) (off : LAddr) (d : List Byte), hostFree s.sled fn ∧ fn.val = k.val +
    1 ∧ (off.toNat < 0x8100000000 ∨ 0x8100200000 < off.toNat + d.length) ∧ d.length ≤ 512 ∧ calm s.sled) ∧
    (∃ (s : State) (fn : HFn) (k : Tenant) (off : LAddr) (n : Fin 4097) (b : List (Byte × Bool)) (ok : Bool) (v
    : Sled), hostFree s.sled fn ∧ fn.val = k.val + 1 ∧ (off.toNat < 0x8100000000 ∨ 0x8100200000 < off.toNat +
    n)) ∧
    (∃ (s : State) (fn : HFn) (off : LAddr) (i : Nat), hostFree s.sled fn ∧ fn.val ≠ 0 ∧ islRuns s.sled iNOC =
    true ∧ i < 2 ^ 14 ∧ off.toNat = 0x8100000000 + 8 * i) ∧
    (∃ (s : State) (b : Bar) (off : LAddr) (d : List Byte) (n : Fin 4097), hostFree s.sled 0 ∧ hostMode s.sled ≠
    1 ∧ b ≠ .bar0) ∧
    (∃ (s : State) (fn : HFn) (b : Bar) (off : LAddr) (d : List Byte) (e : Bool), portUp s.sled = true) ∧
    (∃ (s : State) (fn : HFn), portUp s.sled = true ∧ s.sled.hst.retry = false ∧ bitAt s.sled.hst.d3 0 = false ∧
    fn = 0) ∧
    (∃ (s : State) (fn : HFn) (off : LAddr) (x : Word) (i : Nat), hostFree s.sled fn ∧ fn.val ≠ 0 ∧ islRuns
    s.sled iNOC = true ∧ i < 2 ^ 14 ∧ off.toNat = 0x8100000000 + 8 * i) ∧
    (∃ (s : State) (fn : HFn) (off : LAddr) (x : Word) (i : Nat), hostFree s.sled fn ∧ fn.val ≠ 0 ∧ islRuns
    s.sled iNOC = true ∧ i < 2 ^ 16 ∧ off.toNat = 0x8100000000 + 0x140000 + 8 * i ∧ 1 ≤ x.toNat ∧ x.toNat ≤
    0x7FFFFFFF ∧ objCheck s.sled (hostWho s.sled fn) true i = none) ∧
    (∃ (s : State) (fn : HFn) (b : Bar) (off : LAddr) (w : Bool) (x y : Word), hostFree s.sled fn) ∧
    (∃ (s : State) (k : Tenant), portUp s.sled = true ∧ s.sled.hst.retry = false ∧ vfHere s.sled k = true) ∧
    (∃ (s : State), portUp s.sled = true ∧ s.sled.hst.retry = false) ∧
    (∃ (s : State) (fn : HFn) (op : CfgOp), portUp s.sled = true) ∧
    (∃ (s : State) (n : Fin 17), portUp s.sled = true ∧ s.sled.hst.retry = false ∧ hostMode s.sled ≠ 1 ∧ 0 <
    n.val) :=
  ⟨⟨mk up, 1, 0, 0x8000000000, [1],
    by and_intros <;> first | (apply calm_of <;> decide +kernel) | decide +kernel⟩,
  ⟨mk up, 1, 0, 0x8000000000, 4, List.replicate 4 (0, false), true, up,
    by decide +kernel⟩,
  ⟨mk up, 1, 0x8100000000, 0,
    by decide +kernel⟩,
  ⟨mk up, .bar2, 0, [1], 4,
    by decide +kernel⟩,
  ⟨mk up, 1, .bar2, 0x8000000000, [1], true,
    by decide +kernel⟩,
  ⟨mk up, 0,
    by decide +kernel⟩,
  ⟨mk up, 1, 0x8100000000, 1, 0,
    by decide +kernel⟩,
  ⟨mk up, 1, 0x8100140000, 0x7FFFFFFF, 0,
    by decide +kernel⟩,
  ⟨mk up, 1, .bar2, 0x8000000000, true, 1, 2,
    by decide +kernel⟩,
  ⟨mk up, 0,
    by decide +kernel⟩,
  ⟨mk up,
    by decide +kernel⟩,
  ⟨mk up, 0, .read 0,
    by decide +kernel⟩,
  ⟨mk up, 1,
    by decide +kernel⟩⟩

theorem wit_WatchesDoorbellsLinkAndExpander :
    (∃ (s : State) (k : Tenant) (w : Fin 31) (c : BitVec 14) (x : BitVec 48), hostFree s.sled (k.val + 1) ∧
    islRuns s.sled iNOC = true) ∧
    (∃ (s : State) (k : Tenant) (w : Fin 31), islRuns s.sled iHST = true ∧ islRuns s.sled iNOC = true) ∧
    (∃ (s : State) (k : Tenant) (st : Fin 8) (v : Word), hostFree s.sled (k.val + 1) ∧ hostMode s.sled = 2 ∧
    islRuns s.sled (iMC st) = true ∧ crossHeld s.sled (bBCS st) = false) ∧
    (∃ (s : State) (v : Fin 6) (w : Fin 5) (f : Bool), islRuns s.sled iHST = true ∧ s.sled.hst.up = false ∧
    s.sled.plat.perst = false ∧ s.sled.plat.quiesce = .none) ∧
    (∃ s : State, portUp s.sled = true) ∧
    (∃ (s : State) (h : Word) (a : Nat), hostFree s.sled 0 ∧ hostMode s.sled = 1 ∧ hdmLocal s.sled (h.toNat / 64
    * 64) = some a ∧ allMapped s.sled a 64 = true) ∧
    (∃ (s : State) (n : BitVec 16) (x : Word), hostFree s.sled 0 ∧ hostMode s.sled = 1) :=
  ⟨⟨mk up, 0, 30, 0, 1,
    by decide +kernel⟩,
  ⟨mk up, 0, 30,
    by decide +kernel⟩,
  ⟨(mk { up with prof := some { ppi0 with hostMode := 2 } }), 0, 7, 5,
    by decide +kernel⟩,
  ⟨(mk { up with hst.up := false }), 5, 4, true,
    by decide +kernel⟩,
  ⟨mk up,
    by decide +kernel⟩,
  ⟨(mk { up with prof := some { ppi0 with hostMode := 1 }, hst.hdmCtl := 1024, hst.hdmSize := 0x10000000 }), 0,
   0,
    by decide +kernel⟩,
  ⟨(mk { up with prof := some { ppi0 with hostMode := 1 } }), 0, 5,
    by decide +kernel⟩⟩

theorem wit_RecordsReachTheKeepersRing :
    (∃ (s : State) (i : Fin 38) (r : Rec) (l : List Rec), s.sled.kpr.phase = .running ∧ fget s.sled.kpr.coll []
    i = r :: l ∧ s.sled.kpr.ring.length < 1024 ∧ s.sled.kpr.lost = 0) ∧
    (∃ (s : State) (i : Fin 38) (r : Rec) (l : List Rec), s.sled.kpr.phase = .running ∧ fget s.sled.kpr.coll []
    i = r :: l ∧ 1024 ≤ s.sled.kpr.ring.length) ∧
    (∃ (s : State) (l : List Rec), s.sled.kpr.phase = .running ∧ s.sled.kpr.wdtAt + 1000 * ms ≤ s.sled.now ∧
    fget s.sled.kpr.coll [] 0 = l ∧ l.length < 16) :=
  ⟨⟨(mk { up with kpr.coll := [(37, [rc])] }), 37, rc, [],
    by decide +kernel⟩,
  ⟨(mk { up with kpr.coll := [(37, [rc])], kpr.ring := List.replicate 1024 (0, rc) }), 37, rc, [],
    by decide +kernel⟩,
  ⟨mk { up with now := 48000000000 }, [],
    by decide +kernel⟩⟩

theorem wit_SparingMovesARankToItsSpare :
    (∃ (s : State) (st : StackId) (r : RankId) (k : Fin 4), islRuns s.sled (iMC st) = true ∧ islRuns s.sled (iMC
    8) = true ∧ crossHeld s.sled (bMC st) = false ∧ lockedReg s.sled (bMC st) offSpare = false ∧ (fget
    s.sled.mcs {} st).mig = none ∧ migsRun s.sled < 4 ∧ spareFree s.sled k = true ∧ (st.val ≠ 8 ∨ r.val ≠
    k.val)) ∧
    (∃ (s : State) (st : StackId) (r : RankId) (k : Fin 4), lockedReg s.sled (bMC st) offSpare = false ∧ ((fget
    s.sled.mcs {} st).mig.isSome = true ∨ 4 ≤ migsRun s.sled ∨ spareFree s.sled k = false)) ∧
    (∃ (s : State) (st : StackId) (c : ChanId) (m : Mig) (row : Nat), copyRuns s.sled st c = true ∧ (fget
    s.sled.mcs {} st).mig = some m ∧ row = fget m.wm 0 c ∧ m.dead = 0 ∧ m.rank < 4 ∧ m.spare < 4 ∧ (st.val ≠ 8 ∨
    m.rank ≠ m.spare) ∧ fget m.part 0 c = 0 ∧ s.sled.ecc = [] ∧ (fget s.sled.mcs {} st).held = [] ∧ (∀ b, b < 16
    → inWindow (getBank s.sled (rankBank st c m.rank b)) = false) ∧ row < 65535) ∧
    (∃ (s : State) (st : StackId) (c : ChanId) (b : Fin 16) (m : Mig), copyRuns s.sled st c = true ∧ (fget
    s.sled.mcs {} st).mig = some m ∧ copyWaits s.sled st c b = true ∧ bitAt (fget m.part 0 c) b = false) ∧
    (∃ (s : State) (st : StackId) (m : Mig), (fget s.sled.mcs {} st).mig = some m ∧ m.state = 2 ∧ m.abort =
    false ∧ islRuns s.sled (iMC st) = true ∧ islRuns s.sled (iMC 8) = true ∧ (fget s.sled.mcs {} st).held = [] ∧
    m.rank < 4 ∧ m.spare < 4 ∧ (st.val ≠ 8 ∨ m.rank ≠ m.spare) ∧ m.dead = 0) ∧
    (∃ (s : State) (st : StackId) (m : Mig), (fget s.sled.mcs {} st).mig = some m ∧ m.state = 3 ∧ m.abort =
    false ∧ m.committed = false ∧ s.sled.kpr.phase = .running ∧ st.val ≠ 8 ∧ m.rank < 4 ∧ m.spare < 4) ∧
    (∃ (s : State) (st : StackId) (m : Mig), (fget s.sled.mcs {} st).mig = some m ∧ m.state = 3 ∧ m.abort =
    false ∧ m.ending = false ∧ islRuns s.sled (iMC st) = true ∧ crossHeld s.sled (bMC st) = false ∧ lockedReg
    s.sled (bMC st) offSpare = false) :=
  ⟨⟨(mk { up with mcs := [(8, { passed := (List.range 16).map fun c => (4 * c, 126) })] }), 0, 0, 0,
    by decide +kernel⟩,
  ⟨(mk { up with mcs := [(0, { mig := some { rank := 0, spare := 0 } })] }), 0, 0, 0,
    by decide +kernel⟩,
  ⟨(mk { up with mcs := [(0, { mig := some { rank := 0, spare := 0 } })] }), 0, 0, { rank := 0, spare := 0 }, 0,
    by decide +kernel⟩,
  ⟨mk (bank0 ((mk { up with mcs := [(0, { mig := some { rank := 0, spare := 0 } })] })).sled), 0, 0, 0,
   { rank := 0, spare := 0 },
    by decide +kernel⟩,
  ⟨(mk { up with mcs := [(0, { mig := some { rank := 0, spare := 0, state := 2 } })] }), 0,
   { rank := 0, spare := 0, state := 2 },
    by decide +kernel⟩,
  ⟨(mk { up with mcs := [(0, { mig := some { rank := 0, spare := 0, state := 3 } })] }), 0,
   { rank := 0, spare := 0, state := 3 },
    by decide +kernel⟩,
  ⟨(mk { up with mcs := [(0, { mig := some { rank := 0, spare := 0, state := 3, committed := true } })] }), 0,
   { rank := 0, spare := 0, state := 3, committed := true },
    by decide +kernel⟩⟩

theorem wit_RescueMoverAndHeartbeats :
    (∃ (s : State) (n : Fin 4) (a b : LAddr) (len : BitVec 25) (fill sig : Bool), s.sled.kpr.phase = .running ∧
    islRuns s.sled iNOC = true ∧ lockedReg s.sled bKPR (offRdma n) = false ∧ lockedReg s.sled bKPR (offRdma n +
    8) = false ∧ lockedReg s.sled bKPR (offRdma n + 16) = false ∧ (∀ d ∈ s.sled.kpr.rdma, d.n ≠ n) ∧ 0 <
    len.toNat) ∧
    (∃ (s : State) (n : Fin 4) (d : Rdma) (u w : Sled), s.sled.kpr.rdma.find? (·.n = n.val) = some d ∧ islRuns
    s.sled iNOC = true ∧ u =
    { s.sled with kpr := { s.sled.kpr with rdma := s.sled.kpr.rdma.filter (·.n ≠ n.val) } } ∧ w.stall =
    s.sled.stall) ∧
    (∃ (s : State) (i : Fin 4) (h : Hb) (v : Nat), s.sled.kpr.phase = .running ∧ islRuns s.sled iNOC = true ∧
    islRuns s.sled iCTL = true ∧ s.sled.ccRunning = 1 <<< i.val ∧ h = fget s.sled.kpr.hb {} i ∧ v = (getCtr
    s.sled (16324 + i)).value) ∧
    (∃ (s : State) (h : Hb), s.sled.kpr.phase = .running ∧ islRuns s.sled iNOC = true ∧ islRuns s.sled iCTL =
    true ∧ s.sled.ccRunning = 1 ∧ h = fget s.sled.kpr.hb {} 0 ∧ (getCtr s.sled 16324).value = h.last ∧ h.since +
    200 * ms ≤ s.sled.now ∧ h.hangs = [] ∧ (getSem s.sled 65281).count ≠ 1) :=
  ⟨⟨mk up, 3, 0, 0x1000, 4096, true, false,
    by decide +kernel⟩,
  ⟨(mk { up with kpr.rdma := [rd0] }), 3, rd0, up, up,
    by decide +kernel⟩,
  ⟨(mk { up with ccRunning := 8 }), 3, {}, 0,
    by decide +kernel⟩,
  ⟨(mk { up with ccRunning := 1, now := 200 * ms }), {},
    by decide +kernel⟩⟩

theorem wit_SensorsSetLevelsCoolantAndShutdown :
    (∃ (s : State) (i : Fin 100) (v : Int), aonRuns s.sled = true ∧ s.sled.thm.slot = i.val ∧ i.val < 36 ∧
    (sensor s.sled i).broken = false) ∧
    (∃ (s : State) (i : Fin 100) (a b c d : BitVec 7) (m : Nat), aonRuns s.sled = true ∧ s.sled.thm.slot = i.val
    ∧ 36 ≤ i.val ∧ i.val < 72 ∧ islRuns s.sled (iMC ((i.val - 36) / 4)) = true ∧ diesHidden s.sled ((i.val - 36)
    / 4) = false ∧ (sensor s.sled i).broken = false ∧ a ≠ 127 ∧ b ≠ 127 ∧ c ≠ 127 ∧ d ≠ 127 ∧ m = max (max
    a.toNat b.toNat) (max c.toNat d.toNat) ∧ m < 105 ∧ kt3 s.sled = false) ∧
    (∃ (s : State) (i : Fin 36), aonRuns s.sled = true ∧ s.sled.thm.crit = false ∧ s.sled.thm.critHold = false) ∧
    (∃ (s : State) (i : Fin 36), (s.sled.thm.crit = true ∨ s.sled.thm.critHold = true)) ∧
    (∃ s : State, aonRuns s.sled = true ∧ s.sled.thm.slot = 100 ∧ s.sled.kpr.phase = .running) ∧
    (∃ (s : Sled) (l : List Nat) (n : Nat), n ≤ 8) ∧
    (∃ (s : State) (a : Agent) (v : BitVec 24), canAct s.sled a = true ∧ blkReach a bTHM = true ∧ islRuns s.sled
    0 = true ∧ lockedReg s.sled bTHM 0x400 = false) :=
  ⟨⟨mk up, 0, 50,
    by decide +kernel⟩,
  ⟨(mk { up with thm.slot := 71 }), 71, 1, 2, 3, 104, 104,
    by decide +kernel⟩,
  ⟨mk up, 35,
    by decide +kernel⟩,
  ⟨(mk { up with thm.crit := true }), 0,
    by decide +kernel⟩,
  ⟨(mk { up with thm.slot := 100 }),
    by decide +kernel⟩,
  ⟨up, [], 8,
    by decide +kernel⟩,
  ⟨mk up, .cc 0, 0x6E6064,
    by decide +kernel⟩⟩

theorem wit_LevelsRiseFallOrHoldByTheirThresholds :
    (∃ s : State, aonRuns s.sled = true ∧ s.sled.thm.slot = 100 ∧ s.sled.kpr.phase = .running ∧ (∀ i, (sensor
    s.sled i).broken = false)) ∧
    (∃ (s : Sled) (i : Nat), rGet s bTHM 0x400 = 0x6E6064) :=
  ⟨⟨(mk { up with thm.slot := 100 }),
    ⟨by decide +kernel,
    by decide +kernel,
    by decide +kernel,
    fun i => by rfl⟩⟩,
  ⟨rSet bTHM 0x400 0x6E6064 up, 35,
    by decide +kernel⟩⟩

theorem wit_PowerLoopSetsStepDemandAndPauses :
    (∃ (s : State) (w : BitVec 12), aonRuns s.sled = true) ∧
    (∃ (s : State) (p : Nat), aonRuns s.sled = true ∧ s.sled.kpr.phase = .running ∧ s.sled.thm.samples ≠ [] ∧ p
    = mean s.sled.thm.samples) ∧
    (∃ (s : Sled) (p : Nat), s.prof.isSome = true) ∧
    (∃ (s : State) (q : RangeSeq), s.sled.plat.rangeSeq = some q ∧ s.sled.kpr.phase = .running) ∧
    (∃ (s : State) (st : StackId) (c : ChanId), islRuns s.sled (iMC st) = true) :=
  ⟨⟨mk up, 4095,
    by decide +kernel⟩,
  ⟨(mk { up with thm.samples := [1500] }), mean [1500],
    by decide +kernel⟩,
  ⟨up, 1500,
    by decide +kernel⟩,
  ⟨(mk { up with plat.rangeSeq := some { held := 1, target := true, newest := 1 } }),
   { held := 1, target := true, newest := 1 },
    by decide +kernel⟩,
  ⟨mk up, 8, 15,
    by decide +kernel⟩⟩

theorem wit_KeeperCommandsAnswerActOrRefuse :
    (∃ (s : State) (x : Transport), asked s.sled x) ∧
    (∃ (s : State) (x : Transport), s.sled.kpr.phase = .recovery ∧ answers s.sled x = true) ∧
    (∃ (s : State) (x : Transport), answers s.sled x = false) ∧
    (∃ (s : State) (x : Transport), asked s.sled x) :=
  ⟨⟨mk up, .smbus,
    by decide +kernel⟩,
  ⟨(mk { up with kpr.phase := .recovery }), .smbus,
    by decide +kernel⟩,
  ⟨(mk { up with plat.supply := .precharge }), .smbus,
    by decide +kernel⟩,
  ⟨mk up, .smbus,
    by decide +kernel⟩⟩

theorem wit_KeeperEventsControlMessagesAndSpdm :
    (∃ (s : State) (n : Nat) (r : Rec) (l : List FlashOp), s.sled.kpr.phase = .running ∧ s.sled.plat.quiesce =
    .none ∧ nextOp s.sled.kpr.ops = some (.logEntry n r, l)) ∧
    (∃ (l : List FlashOp) (n : Nat) (r : Rec), FlashOp.logEntry n r ∈ l) ∧
    (∃ (s : Sled) (n : Nat) (r : Rec), n % 1023 ≠ 1) ∧
    (∃ s : State, s.sled.kpr.alert = true ∧ s.sled.kpr.phase = .running ∧ aonRuns s.sled = true) ∧
    (∃ (s : State) (i : FwImage), s.sled.kpr.phase = .running ∧ ffind s.sled.fl.keeper (keeperAt
    s.sled.kpr.slot) = some i ∧ ffind (trials s.sled) 1 = some s.sled.kpr.slot ∧ s.sled.kpr.startedAt + 10000 *
    ms ≤ s.sled.now) ∧
    (∃ (s : State) (k : Nat), s.sled.kpr.phase = .restarting ∧ s.sled.plat.coolant.isSome = true ∧ keeperSlot
    (keeperTrial s.sled) = some k) ∧
    (∃ (s : State) (x : Transport), asked s.sled x ∧ x.port ≠ .doe) ∧
    (∃ (s : State) (a : BitVec 7), aonRuns s.sled = true) ∧
    (∃ (s : State) (x : Transport) (n : Nat), asked s.sled x ∧ s.sled.kpr.mgmt.spdm = n) :=
  ⟨⟨(mk { up with kpr.ops := [.logEntry 1 rc] }), 1, rc, [],
    by decide +kernel⟩,
  ⟨[.updatePiece 1 2, .logEntry 1 rc], 1, rc,
    by decide +kernel⟩,
  ⟨up, 0, rc,
    by decide +kernel⟩,
  ⟨(mk { up with kpr.alert := true }),
    by decide +kernel⟩,
  ⟨mk
   { up with fl := { flash0 with trial := { a := some (1, [(1, 0)]) } }, now := 10000 * ms }, fw0,
    by decide +kernel⟩,
  ⟨(mk { up with kpr.phase := .restarting, fl := flash0 }), 0,
    by decide +kernel⟩,
  ⟨mk up, .smbus,
    by decide +kernel⟩,
  ⟨mk up, 0x22,
    by decide +kernel⟩,
  ⟨mk up, .smbus, 0,
    by decide +kernel⟩⟩

theorem wit_PldmMonitorsAndUpdatesFirmware :
    (∃ (s : State) (x : Transport), asked s.sled x) ∧
    (∃ (s : State) (x : Transport) (e : Session), asked s.sled x ∧ s.sled.kpr.session = some e) ∧
    (∃ (s : Sled) (e : Session) (img : UpdImage) (n : Nat), s.kpr.session = some e ∧ e.img = some img ∧ 0 <
    e.written ∧ e.size ≤ e.written + n) :=
  ⟨⟨mk up, .smbus,
    by decide +kernel⟩,
  ⟨(mk { up with kpr.session := some {} }), .smbus, {},
    by decide +kernel⟩,
  ⟨{ up with kpr.session := some { phase := 2, img := some (.fw fw0), written := 1, size := 5 } },
   { phase := 2, img := some (.fw fw0), written := 1, size := 5 }, .fw fw0, 4,
    by decide +kernel⟩⟩

theorem wit_ScratchpadReadsBackWhatWasWritten :
    ∃ (s : Sled) (core a : Nat) (l : List Byte), core < 8 ∧ islRuns s (iVC core) = true ∧ ownScratch core a
    l.length ∧ s.ecc = [] ∧ s.clearing = false :=
  ⟨up, 7, 0x800BFFFFFE, [1, 2], by decide +kernel⟩

theorem wit_EveryStepKeepsTheMemoryCanonical :
    ∃ s t : State, Memory.wf s.sled.mem = true ∧ step s = .next t :=
  ⟨mk up, mk { up with now := 1 }, by decide +kernel, rfl⟩

end Sys2Proof.Tests
end

/-! Boot timeout (spec/04, R83). The fall to watch-only on a failed start also fails the start's trials, which may log
further records; none of this touches the data of the sled or removes a record. `LogsOnly` says so once. -/

namespace Sys2Proof.Machine

open Sys2Proof

/-! ## Steps that only log -/

/-- The sled without what logging may touch: the collector and its counts, the alert, the flash, the register file (the
drop counter and the event registers), the host port (its interrupts) and the outputs. -/
def withoutLog (s : Sled) : Sled :=
  { s with
    kpr := { s.kpr with coll := [], outstanding := 0, lost := 0, lost4 := 0, alert := false }
    fl := {}
    regs := []
    hst := {}
    outs := [] }

/-- `t` comes from `s` by logging: the rest of the sled is as it was, and no record has left the collector. -/
structure LogsOnly (s t : Sled) : Prop where
  rest : withoutLog t = withoutLog s
  coll : ∀ i, fget s.kpr.coll [] i <+: fget t.kpr.coll [] i

namespace LogsOnly

variable {s t u : Sled}

/-- What changes neither the collector nor the rest only logs. -/
theorem of_coll_eq (hr : withoutLog t = withoutLog s) (hc : t.kpr.coll = s.kpr.coll) : LogsOnly s t :=
  ⟨hr, fun _ => hc ▸ List.prefix_rfl⟩

theorem refl (s : Sled) : LogsOnly s s := of_coll_eq rfl rfl

theorem trans (h : LogsOnly s t) (h' : LogsOnly t u) : LogsOnly s u :=
  ⟨h'.rest.trans h.rest, fun i => (h.coll i).trans (h'.coll i)⟩

theorem ite {c : Prop} [Decidable c] (ht : LogsOnly s t) (hu : LogsOnly s u) : LogsOnly s (if c then t else u) := by
  split
  · exact ht
  · exact hu

theorem ccRunning (h : LogsOnly s t) : t.ccRunning = s.ccRunning := congrArg (·.ccRunning) h.rest
theorem plat (h : LogsOnly s t) : t.plat = s.plat := congrArg (·.plat) h.rest
theorem mem (h : LogsOnly s t) : t.mem = s.mem := congrArg (·.mem) h.rest
theorem ctr (h : LogsOnly s t) : t.ctr = s.ctr := congrArg (·.ctr) h.rest
theorem sem (h : LogsOnly s t) : t.sem = s.sem := congrArg (·.sem) h.rest
theorem bank (h : LogsOnly s t) : t.bank = s.bank := congrArg (·.bank) h.rest
theorem tier (h : LogsOnly s t) : t.kpr.tier = s.kpr.tier := congrArg (·.kpr.tier) h.rest

/-- A record once in the collector is still there. -/
theorem mem_coll (h : LogsOnly s t) {r : Rec} {i : Nat} (hr : r ∈ fget s.kpr.coll [] i) : r ∈ fget t.kpr.coll [] i :=
  (h.coll i).subset hr

end LogsOnly

theorem logsOnly_alertOn (s : Sled) : LogsOnly s (alertOn s) := .of_coll_eq rfl rfl

theorem logsOnly_platEvent (kind arg : Nat) (s : Sled) : LogsOnly s (platEvent kind arg s) :=
  .of_coll_eq (by rw [platEvent_frame]; rfl) (by rw [platEvent_kpr])

theorem logsOnly_recCount (r : Rec) (s : Sled) : LogsOnly s (recCount r s) :=
  .ite (.of_coll_eq rfl rfl) (.refl s)

/-- A record is put behind those of its island. -/
theorem logsOnly_recEnter (r : Rec) (s : Sled) : LogsOnly s (recEnter r s) where
  rest := rfl
  coll i := by
    have hc : (recEnter r s).kpr.coll = fset s.kpr.coll [] r.island (fget s.kpr.coll [] r.island ++ [r]) := rfl
    rw [hc, fget_fset]
    split
    next hi => exact hi ▸ List.prefix_append _ _
    next => exact List.prefix_rfl

theorem logsOnly_recAlert (r : Rec) (s : Sled) : LogsOnly s (recAlert r s) :=
  .ite (logsOnly_alertOn s) (.refl s)

theorem logsOnly_recTell (r : Rec) (s : Sled) : LogsOnly s (recTell r s) :=
  .of_coll_eq (by rw [recTell_frame]; rfl) (by rw [recTell_kpr])

theorem logsOnly_dropRec (r : Rec) (s : Sled) : LogsOnly s (dropRec r s) := .of_coll_eq rfl rfl

theorem logsOnly_recPlace (r : Rec) (s : Sled) : LogsOnly s (recPlace r s) :=
  .ite (((logsOnly_recEnter r s).trans (logsOnly_recAlert r _)).trans (logsOnly_recTell r _)) (logsOnly_dropRec r s)

/-- Whether its record enters the collector or is dropped, `logRec` only logs. -/
theorem logsOnly_logRec (r : Rec) (s : Sled) : LogsOnly s (logRec r s) :=
  (logsOnly_recCount r s).trans (logsOnly_recPlace _ _)

theorem logsOnly_dirWrite (f : Dir → Dir) (s : Sled) : LogsOnly s (dirWrite f s) :=
  .ite (.of_coll_eq rfl rfl) (.of_coll_eq rfl rfl)

theorem logsOnly_setTrials (m : FMap Nat) (s : Sled) : LogsOnly s (setTrials m s) := .of_coll_eq rfl rfl

/-- A failed trial is a change of the flash and a record (spec/20, R399). -/
theorem logsOnly_trialFail (comp used : Nat) (s : Sled) : LogsOnly s (trialFail comp used s) :=
  .ite (.refl s) (((logsOnly_setTrials _ s).trans (logsOnly_dirWrite _ _)).trans (logsOnly_logRec _ _))

/-- Both trials of a start, the profile copy's and the runtime slot's, may fail in turn. -/
theorem logsOnly_startTrialsFail (s : Sled) : LogsOnly s (startTrialsFail s) :=
  have profile : LogsOnly s (if s.kpr.digProf.isSome then trialFail (0x10 + s.kpr.prof) s.kpr.copy s else s) :=
    .ite (logsOnly_trialFail _ _ s) (.refl s)
  profile.trans (.ite (logsOnly_trialFail _ _ _) (.refl _))

/-! ## The fall to watch-only -/

/-- The sled as a fall to watch-only leaves it, before anything is logged (spec/04, R88): tier, READY and the host's
retry period. -/
def inWatchOnly (s : Sled) : Sled :=
  { s with kpr := { s.kpr with tier := 1 }, plat := { s.plat with ready := false }, hst := { s.hst with retry := false } }

theorem LogsOnly.congr_inWatchOnly {s t : Sled} (h : LogsOnly s t) : LogsOnly (inWatchOnly s) (inWatchOnly t) where
  rest := (congrArg (fun x => withoutLog (inWatchOnly x)) h.rest :)
  coll := h.coll

/-- From a start, where no service has to be ended, the fall to watch-only sets the tier, lowers READY and logs. -/
theorem logsOnly_watchOnly (cause : Nat) (s : Sled) (h : s.kpr.tier = 0) :
    LogsOnly (inWatchOnly s) (watchOnly cause s) := by
  have hw : watchOnly cause s = platEvent 2 2 (alertOn (logRec { mkRec 0x9007 0 with arg1 := cause }
      (inWatchOnly (startTrialsFail s)))) := by
    simp [watchOnly, h, inWatchOnly]
  rw [hw]
  exact (((logsOnly_startTrialsFail s).congr_inWatchOnly.trans (logsOnly_logRec _ _)).trans
    (logsOnly_alertOn _)).trans (logsOnly_platEvent _ _ _)

/-! ## BOOT_TIMEOUT -/

/-- The control cores halt, those under core reset too (R83). -/
def haltControlCores (s : Sled) : Sled :=
  { s with ccRunning := 0, plat := { s.plat with coreReset := s.plat.coreReset.filter fun c => c.1 < 8 } }

/-- At its limit a start that READY has not ended halts the control cores, logs and falls to watch-only. -/
theorem fxBootTimeout_at_limit (s : Sled) (hrun : s.kpr.phase = .running) (hboot : s.kpr.booted = false)
    (htier : s.kpr.tier = 0) (hpwr : s.plat.pwrEn = true) (hlim : s.kpr.bootAt + 60000 * ms ≤ s.now) :
    fxBootTimeout s = watchOnly 0x9009 (logRec (mkRec 0x9009 0) (haltControlCores s)) :=
  if_neg (by simp [hrun, hboot, htier, hpwr, hlim])

/-- Settles O9: the record enters the collector before the fall to watch-only, which only logs besides. -/
theorem bootTimeoutHaltsCoresAndFallsToWatchOnly : Obligations.BootTimeoutHaltsCoresAndFallsToWatchOnly := by
  unfold Obligations.BootTimeoutHaltsCoresAndFallsToWatchOnly
  intro s hrun hboot htier hpwr hlim hroom
  have hlog := logsOnly_logRec (mkRec 0x9009 0) (haltControlCores s.sled)
  have hfall := logsOnly_watchOnly 0x9009 _ (hlog.tier.trans htier)
  have hall := hlog.congr_inWatchOnly.trans hfall
  have hrec := hfall.mem_coll (i := 0) (r := recStamp (haltControlCores s.sled) (mkRec 0x9009 0)) <| by
    have hc := logRec_coll (mkRec 0x9009 0) (haltControlCores s.sled) hroom
    exact hc ▸ List.mem_append_right _ (List.mem_singleton_self _)
  refine ⟨{ s with sled := fxBootTimeout s.sled }, recStamp (haltControlCores s.sled) (mkRec 0x9009 0), rfl, rfl, ?_⟩
  rw [fxBootTimeout_at_limit s.sled hrun hboot htier hpwr hlim]
  exact ⟨hall.ccRunning, hall.tier, congrArg (·.ready) hall.plat, hrec, rfl, hall.mem, hall.ctr, hall.sem, hall.bank⟩

end Sys2Proof.Machine

/-! The translation probe (spec/05, R105). Every coordinate that `translate` answers fits its field of Table 5-5, so the
result word can be read back field by field; and nothing that `translate` reads lies in MAP_PROBE_ADDR. -/

namespace Sys2Proof.Machine

open Sys2Proof

/-! ## Coordinates fit their fields -/

theorem bitsOf_lt (x lo len : Nat) : bitsOf x lo len < 2 ^ len := Nat.mod_lt _ (Nat.two_pow_pos len)

theorem b2n_le_one (b : Bool) : b2n b ≤ 1 := by cases b <;> decide

/-- `n` select bits form a number of `n` bits. -/
theorem selects_lt (ms : List Nat) (a lo n : Nat) : selects ms a lo n < 2 ^ n := by
  induction n with
  | zero => simp [selects]
  | succ n ih =>
    have hs : selects ms a lo (n + 1) = selects ms a lo n + b2n (parityN 40 (a &&& nth ms (lo + n))) * 2 ^ n := by
      simp [selects, List.range_succ]
    have hb := Nat.mul_le_mul_right (2 ^ n) (b2n_le_one (parityN 40 (a &&& nth ms (lo + n))))
    omega

/-- The coordinates are those of a user bank's byte: stacks S0 to S7 (spec/05, Table 5-1). -/
structure Coord.Fits (c : Coord) : Prop where
  stack : c.stack < 2 ^ 3
  chan : c.chan < 2 ^ 4
  rank : c.rank < 2 ^ 2
  bank : c.bank < 2 ^ 4
  row : c.row < 2 ^ 16
  col : c.col < 2 ^ 5

theorem Region.rows_pos (r : Region) : 0 < r.rows := Nat.two_pow_pos _

/-- The band of a well-formed region lies within the rows of a bank (R94): a multiple of the band's rows below 2^16, which
they divide. -/
theorem Region.row0_add_rows_le {r : Region} (hok : r.ok = true) (hbase : r.rowBase < 2 ^ 10) :
    r.row0 + r.rows ≤ 2 ^ 16 := by
  simp only [Region.ok, Bool.and_eq_true, decide_eq_true_eq] at hok
  obtain ⟨⟨hsize, _⟩, halign⟩ := hok
  have hrows : r.rows = 2 ^ r.sizeLog2 * 64 := Nat.pow_add 2 r.sizeLog2 6
  have hfit : r.rowBase + 2 ^ r.sizeLog2 ≤ 2 ^ 10 :=
    Nat.ModEq.add_le_of_lt (halign.trans (Nat.mod_eq_zero_of_dvd (Nat.pow_dvd_pow 2 hsize)).symm) hbase
  rw [hrows, Region.row0]
  omega

theorem xlateBroken_fits (ms : List Nat) {r : Region} (a : Nat) (hband : r.row0 + r.rows ≤ 2 ^ 16) :
    (xlateBroken ms r a).Fits where
  stack := bitsOf_lt _ _ _
  chan := bitsOf_lt _ _ _
  rank := bitsOf_lt _ _ _
  bank := bitsOf_lt _ _ _
  col := bitsOf_lt _ _ _
  row := (Nat.add_lt_add_left (Nat.mod_lt _ r.rows_pos) _).trans_le hband

/-- An address that a region holds has coordinates within the region's band (R97, R100). -/
theorem xlate_fits (ms : List Nat) {r : Region} {a : Nat} (hband : r.row0 + r.rows ≤ 2 ^ 16) (hin : r.holds a = true) :
    (xlate ms r a).Fits := by
  unfold xlate
  dsimp only
  split
  case isTrue =>
    have hrow : (a - r.addr0) % (r.rows * 1024) / 1024 < r.rows :=
      Nat.div_lt_of_lt_mul (Nat.mul_comm r.rows 1024 ▸ Nat.mod_lt _ (Nat.mul_pos r.rows_pos (Nat.succ_pos _)))
    exact ⟨bitsOf_lt _ _ _, bitsOf_lt _ _ _, bitsOf_lt _ _ _, bitsOf_lt _ _ _,
      (Nat.add_lt_add_left hrow _).trans_le hband, bitsOf_lt _ _ _⟩
  case isFalse =>
    split
    case isTrue => exact xlateBroken_fits ms a hband
    case isFalse =>
      simp only [Region.holds, Bool.and_eq_true, decide_eq_true_eq] at hin
      obtain ⟨_, hend⟩ := hin
      rw [Region.size] at hend
      have hrow : bitsOf (a - r.addr0) 23 16 < r.rows :=
        (Nat.mod_le _ _).trans_lt (Nat.div_lt_of_lt_mul (by omega))
      have hlow := bitsOf_lt a 5 3
      have hhigh := bitsOf_lt a 21 2
      exact ⟨selects_lt _ _ _ _, selects_lt _ _ _ _, selects_lt _ _ _ _, selects_lt _ _ _ _,
        (Nat.add_lt_add_left hrow _).trans_le hband, by dsimp only; omega⟩

/-! ## What a translation answers, and what it reads -/

/-- A number among the regions that hold an address is that of one of the sixteen, which holds it. -/
theorem mem_regionsHolding {s : Sled} {a n : Nat} : n ∈ regionsHolding s a ↔ n < 16 ∧ (region s n).holds a = true := by
  simp [regionsHolding]

/-- A translated address lies in a well-formed region of the sixteen, and has its coordinates there. -/
theorem translate_eq_some {s : Sled} {a n : Nat} {c : Coord} (h : translate s a = some (c, n)) :
    n < 16 ∧ (region s n).ok = true ∧ (region s n).holds a = true ∧ c = xlate (masks s) (region s n) a := by
  unfold translate at h
  split at h
  · cases h
  · split at h
    next m hm =>
      obtain ⟨hlt, hholds⟩ := mem_regionsHolding.mp (hm ▸ List.mem_singleton_self m)
      split at h
      next hok =>
        dsimp only at h
        split at h
        · cases h
          exact ⟨hlt, hok, hholds, rfl⟩
        · cases h
      · cases h
    · cases h

/-- The coordinates that a translation answers fit the fields of Table 5-5. -/
theorem translate_fits {s : Sled} {a n : Nat} {c : Coord} (h : translate s a = some (c, n)) : c.Fits := by
  obtain ⟨_, hok, hholds, rfl⟩ := translate_eq_some h
  exact xlate_fits _ (Region.row0_add_rows_le hok (bitsOf_lt _ _ _)) hholds

/-- A translation reads the masks in force, the sixteen regions and the channels. -/
theorem translate_congr {s t : Sled} (hmasks : masks t = masks s) (hreg : ∀ n < 16, region t n = region s n)
    (hchan : t.chan = s.chan) (a : Nat) : translate t a = translate s a := by
  have hholding : regionsHolding t a = regionsHolding s a :=
    List.filter_congr fun n hn => by rw [hreg n (List.mem_range.mp hn)]
  have hget : getChan t = getChan s := by
    funext st c
    rw [getChan, hchan, getChan]
  unfold translate
  rw [hholding, hmasks]
  split
  · rfl
  · split
    next m hm =>
      have hlt := (mem_regionsHolding.mp (hm ▸ List.mem_singleton_self m)).1
      rw [hreg m hlt, hget]
    · rfl

/-! ## Writes of the MAP block's registers -/

/-- Different places of register space have different keys. -/
theorem regKey_inj {b o b' o' : Nat} (ho : o < 0x100000) (ho' : o' < 0x100000) :
    regKey b o = regKey b' o' ↔ b = b' ∧ o = o' := by
  unfold regKey
  omega

/-- Setting a register leaves the register at any other place. -/
theorem rGet_rSet_ne {blk off b o : Nat} (v : Nat) (s : Sled) (ho : o < 0x100000) (hoff : off < 0x100000)
    (h : (b, o) ≠ (blk, off)) : rGet (rSet blk off v s) b o = rGet s b o :=
  rGet_rSet_other _ _ _ _ fun hk => h (Prod.ext_iff.mpr ((regKey_inj ho hoff).mp hk))

/-- A write of MAP_PROBE_ADDR leaves every translation as it was. -/
theorem translate_rSet_probeAddr (v : Nat) (s : Sled) (a : Nat) :
    translate (rSet bMAP 0x100 v s) a = translate s a := by
  have hkt3 : kt3 (rSet bMAP 0x100 v s) = kt3 s := by
    rw [kt3, rGet_rSet_ne v s (by decide) (by decide) (by decide), rSet_plat, kt3]
  have hmask : ∀ i ∈ List.range 13, bitsOf (rGet (rSet bMAP 0x100 v s) bMAP (0x80 + 8 * i)) 0 40 =
      bitsOf (rGet s bMAP (0x80 + 8 * i)) 0 40 := fun i hi => by
    have hlt := List.mem_range.mp hi
    rw [rGet_rSet_ne v s (by omega) (by decide) (fun h => absurd (Prod.mk.inj h).2 (by omega))]
  refine translate_congr ?_ (fun n hn => ?_) (rSet_chan ..) a
  · rw [masks, hkt3, List.map_congr_left hmask, masks]
  · rw [region, rGet_rSet_ne v s (by omega) (by decide) (fun h => absurd (Prod.mk.inj h).2 (by omega)), region]

/-! ## The result word -/

/-- MAP_PROBE_RESULT of coordinates and a region (Table 5-5). -/
def probeWord (c : Coord) (n : Nat) : Nat :=
  c.col + 2 ^ 5 * c.row + 2 ^ 21 * c.bank + 2 ^ 25 * c.rank + 2 ^ 27 * c.chan + 2 ^ 31 * c.stack + 2 ^ 36 * n

/-- MAP_PROBE_RESULT of a translation: its fields, or UNMAPPED alone where there is none. -/
def probeResult : Option (Coord × Nat) → Nat
  | some (c, n) => probeWord c n
  | none => 2 ^ 63

/-- The fields of Table 5-5 do not overlap. -/
theorem probeWord_fields {c : Coord} {n : Nat} (hc : c.Fits) (hn : n < 16) :
    bitAt (probeWord c n) 63 = false ∧ bitsOf (probeWord c n) 0 5 = c.col ∧ bitsOf (probeWord c n) 5 16 = c.row ∧
      bitsOf (probeWord c n) 21 4 = c.bank ∧ bitsOf (probeWord c n) 25 2 = c.rank ∧
      bitsOf (probeWord c n) 27 4 = c.chan ∧ bitsOf (probeWord c n) 31 3 = c.stack ∧
      bitsOf (probeWord c n) 36 4 = n := by
  obtain ⟨hstack, hchan, hrank, hbank, hrow, hcol⟩ := hc
  simp only [bitAt, bitsOf, probeWord, beq_eq_false_iff_ne]
  omega

theorem probeWord_lt {c : Coord} {n : Nat} (hc : c.Fits) (hn : n < 16) : probeWord c n < 2 ^ 64 := by
  obtain ⟨hstack, hchan, hrank, hbank, hrow, hcol⟩ := hc
  unfold probeWord
  omega

/-- The sled after a probe of an address that nothing holds back. -/
def probed (addr : LAddr) (s : Sled) : Sled := probeGo (rSet bMAP 0x100 addr.toNat s)

/-- A probe changes no register but its own two. -/
theorem rGet_probed_other (addr : LAddr) (s : Sled) {blk off : Nat} (hoff : off < 0x100000)
    (haddr : (blk, off) ≠ (bMAP, 0x100)) (hres : (blk, off) ≠ (bMAP, 0x108)) :
    rGet (probed addr s) blk off = rGet s blk off := by
  rw [probed, probeGo, rGet_rSet_ne _ _ hoff (by decide) hres, rGet_rSet_ne _ _ hoff (by decide) haddr]

/-- MAP_PROBE_ADDR holds the address probed. -/
theorem rGet_probed_addr (addr : LAddr) (s : Sled) : rGet (probed addr s) bMAP 0x100 = addr.toNat := by
  rw [probed, probeGo, rGet_rSet_ne _ _ (by decide) (by decide) (by decide), rGet_rSet_same]
  exact Nat.mod_eq_of_lt (addr.isLt.trans (by decide))

/-- A probe stores its address and the result of the address's translation in the state before it. -/
theorem probed_eq (addr : LAddr) (s : Sled) :
    probed addr s = rSet bMAP 0x108 (probeResult (translate s addr.toNat)) (rSet bMAP 0x100 addr.toNat s) := by
  have haddr : addr.toNat % 2 ^ 64 % 2 ^ 40 = addr.toNat := by
    rw [Nat.mod_mod_of_dvd _ (by decide), Nat.mod_eq_of_lt addr.isLt]
  rw [probed, probeGo, rGet_rSet_same, haddr, translate_rSet_probeAddr]
  rfl

/-- A probe of a translated address answers its coordinates and region. -/
theorem rGet_probed_of_some {addr : LAddr} {s : Sled} {c : Coord} {n : Nat} (h : translate s addr.toNat = some (c, n)) :
    rGet (probed addr s) bMAP 0x108 = probeWord c n := by
  rw [probed_eq, h, rGet_rSet_same]
  exact Nat.mod_eq_of_lt (probeWord_lt (translate_fits h) (translate_eq_some h).1)

/-- A probe of an address without coordinates answers UNMAPPED alone. -/
theorem rGet_probed_of_none {addr : LAddr} {s : Sled} (h : translate s addr.toNat = none) :
    rGet (probed addr s) bMAP 0x108 = 2 ^ 63 := by
  rw [probed_eq, h, rGet_rSet_same]
  rfl

/-! ## Accesses at the probe's registers -/

/-- Accesses at the MAP block proceed while the NOC island runs. -/
theorem regOpen_map {s : Sled} (hrun : islRuns s iNOC = true) (off : Nat) : regOpen s bMAP off = true := by
  simp [regOpen, blkIsland, bMAP, bGLB, bISL, bTHM, bKPR, hrun]

/-- No access at the MAP block waits at a crossing. -/
theorem crossHeld_map (s : Sled) : crossHeld s bMAP = false := rfl

/-- An agent that can act and reaches the MAP block takes effect on it at once. -/
theorem regAccess_map {a : Agent} {s : Sled} (hact : canAct s a = true) (hreach : blkReach a bMAP = true)
    (hrun : islRuns s iNOC = true) (off : Nat) (f : Sled → Sled) : regAccess a bMAP off f s = f s := by
  simp [regAccess, hact, hreach, regOpen_map hrun, crossHeld_map]

/-- MAP_PROBE_RESULT reads as it is stored. -/
theorem regLoad_probeResult {b : Agent} {s : Sled} (hreach : blkReach b bMAP = true) (hrun : islRuns s iNOC = true) :
    regLoad b 0xF000200108 8 s = (rGet s bMAP 0x108, s) := by
  have hsplit : regSplit 0xF000200108 = some (bMAP, 0x108) := by decide
  have hfields : (regFields bMAP 0x108).isSome = true := by decide
  have hmapped : regMapped s b 0xF000200108 8 = true := by
    simp [regMapped, hsplit, hreach, hfields, regOpen_map hrun]
  have hread : regRead s bMAP 0x108 = rGet s bMAP 0x108 := rfl
  have hword : bitsOf (rGet s bMAP 0x108) 0 64 = rGet s bMAP 0x108 := by
    rw [bitsOf, Nat.pow_zero, Nat.div_one, Nat.mod_eq_of_lt (rGet_lt s bMAP 0x108)]
  simp [regLoad, hsplit, hmapped, crossHeld_map, hread, hword]

/-- MAP_PROBE by an agent that reaches its register, which no preload entry has locked. -/
theorem fxMapProbe_eq {a : Agent} {s : Sled} (hact : canAct s a = true) (hreach : blkReach a bMAP = true)
    (hrun : islRuns s iNOC = true) (hfree : lockedReg s bMAP 0x100 = false) (addr : LAddr) :
    fxMapProbe a addr.toNat s = probed addr s := by
  simp [fxMapProbe, regAccess_map hact hreach hrun, hfree, probed]

/-- Settles O12: the address in the register translates as before the write, and the coordinates fit their fields. -/
theorem probeReportsTheTranslation : Obligations.ProbeReportsTheTranslation := by
  unfold Obligations.ProbeReportsTheTranslation
  intro s a addr hact hreach hrun hfree
  refine ⟨{ s with sled := probed addr s.sled }, ?_, rfl, rGet_probed_addr addr s.sled, ?_, rGet_probed_of_none,
    fun b hb => regLoad_probeResult hb hrun, rfl, fun blk off => rGet_probed_other addr s.sled⟩
  · rw [← fxMapProbe_eq hact hreach hrun hfree addr]
    rfl
  · intro c n h
    rw [rGet_probed_of_some h]
    exact probeWord_fields (translate_fits h) (translate_eq_some h).1

end Sys2Proof.Machine

/-! OPEN outside the tenant's rows (spec/09, R166). A program's next instruction acts as its kind says once its channels
and banks are free, whichever kind it is; an OPEN then faults the program where `rowAllowed` denies its row, and the fault
leaves no program running. -/

namespace Sys2Proof.Machine

open Sys2Proof

/-! ## The program's next instruction acts -/

/-- Nothing stands before the first instruction that has not issued. -/
theorem unissued_pc (r : Run) : unissued r r.pc = [] := by simp [unissued]

/-- The order of R158 never holds back the first instruction that has not issued. -/
theorem mayPass_pc (s : Sled) (r : Run) (x : BcsInstr) : mayPass s r r.pc x = true := by
  rw [mayPass, unissued_pc]
  rfl

/-- The event of the instruction's own kind acts on it. -/
theorem onInstr_of_atInstr {s : Sled} {st : Nat} {r : Run} {x : BcsInstr} (h : atInstr s st r x)
    (f : Nat → BcsInstr → Run → Sled → Sled) : onInstr st x.iop 0 f s = f r.pc x r s := by
  obtain ⟨hrun, hisl, hawake, hcount, hahead, hfetch, hinstr, hok⟩ := h
  simp [onInstr, hrun, hisl, hawake, Nat.not_le.mpr hcount, hahead, hfetch, hinstr, hok, mayPass_pc]

/-- A bank instruction acts on the banks that it names. -/
theorem onBanks_of_ready {s : Sled} {st : Nat} {r : Run} {x : BcsInstr} (h : atInstr s st r x) (hb : banksReady s st x)
    (f : Nat → BcsInstr → Run → List Nat → Sled → Sled) :
    onBanks st x.iop 0 f s = f r.pc x r (instrKeys s st x) s := by
  obtain ⟨hchans, hbanks, hstray, hslots, hfree⟩ := hb
  have hall : ((instrKeys s st x).all fun k => !bankHeld s k) = true := by
    simpa using hfree
  rw [onBanks, onInstr_of_atInstr h, if_neg (not_or.mpr ⟨hchans, hbanks⟩), if_neg (Bool.eq_false_iff.mp hstray)]
  exact if_pos (Bool.and_eq_true_iff.mpr ⟨hslots, hall⟩)

/-! ## The fault of an OPEN -/

/-- No row is opened where the tenant may not open it: once the banks' user rows are closed, the program faults (R166). -/
theorem fxBcsOpen_of_not_rowAllowed {s : Sled} {st : Nat} {r : Run} {x : BcsInstr} (h : atInstr s st r x)
    (hb : banksReady s st x) (hop : x.iop = iopOPEN) (hrow : rowAllowed s r.prog.tenant x.arg = false)
    (hheld : progHeld s st = false)
    (hclosed : ∀ k ∈ instrKeys s st x, (getBt (getChan s (keyStack k) (keyChan k)) (keyCBank k)).row = none) :
    fxBcsOpen st 0 s = progFault st 0x4004 r.pc s := by
  have hopen : ((instrKeys s st x).any fun k =>
      (getBt (getChan s (keyStack k) (keyChan k)) (keyCBank k)).row.isSome) = false := by
    simpa using hclosed
  rw [fxBcsOpen, ← hop, onBanks_of_ready h hb]
  simp [hopen, hrow, faultOut, hheld]

/-- OPEN of the next instruction is `fxBcsOpen`, with the queue untouched. -/
theorem exec_bcsOpen_next (st : StackId) (s : State) :
    exec (.bcsOpen st 0) s = .next { s with sled := fxBcsOpen st 0 s.sled } := rfl

/-! ## The rows that a tenant may open -/

theorem inBand_iff {s : Sled} {n row : Nat} : inBand s n row = true ↔
    (region s n).valid = true ∧ (region s n).row0 ≤ row ∧ row < (region s n).row0 + (region s n).rows := by
  simp [inBand, and_assoc]

theorem rowAllowed_iff {s : Sled} {t row : Nat} : rowAllowed s t row = true ↔
    (∃ n < 16, inBand s n row = true) ∧
    ∀ n < 16, inBand s n row = true →
      (region s n).ok = true ∧ tenantReach s t (region s n).addr0 (region s n).size = true := by
  simp [rowAllowed, or_iff_not_imp_left]

/-! ## The program that faults is gone -/

theorem getRun_setRun_same (st : Nat) (r : Option Run) (s : Sled) : getRun (setRun st r s) st = r := by
  simp [getRun, setRun]

/-- The end of a program leaves none running, whatever its commands and rows did. -/
theorem getRun_progEnd (st : Nat) (s : Sled) : getRun (progEnd st s) st = none := getRun_setRun_same _ _ _

@[simp] theorem getRun_bcsFlag (a bit : Nat) (s : Sled) (st : Nat) : getRun (bcsFlag a bit s) st = getRun s st := rfl

@[simp] theorem getRun_logRec (r : Rec) (s : Sled) (st : Nat) : getRun (logRec r s) st = getRun s st := by
  simp [getRun]

/-- The fault of a running program: it ends, the status bit is set, and the record names its queue, its address and the
instruction (R160). -/
theorem progFault_of_run {s : Sled} {st : Nat} {r : Run} (h : getRun s st = some r) (code pos : Nat) :
    progFault st code pos s =
      logRec { recAddr false r.prog.addr (moduleId (bcsFlag st 4 (progEnd st s)))
        (recWho (bcsFlag st 4 (progEnd st s)) code (whoBcs st r)) with arg2 := pos } (bcsFlag st 4 (progEnd st s)) := by
  rw [progFault, h]

/-- No program runs on the stack after a fault. -/
theorem getRun_progFault (st code pos : Nat) (s : Sled) : getRun (progFault st code pos s) st = none := by
  cases h : getRun s st with
  | none => rwa [progFault, h]
  | some r => rw [progFault_of_run h, getRun_logRec, getRun_bcsFlag, getRun_progEnd]

/-- Settles O20: the banks' rows are closed and no command is held, so the row's check decides; the fault ends the
program whatever its issued commands did. -/
theorem openOutsideTheTenantsRowsEndsTheProgram : Obligations.OpenOutsideTheTenantsRowsEndsTheProgram := by
  unfold Obligations.OpenOutsideTheTenantsRowsEndsTheProgram
  refine ⟨fun s st r x hat hready hop hrow hheld hclosed => ?_, fun s t row => ?_, fun s st pos r hrun => ?_⟩
  · rw [exec_bcsOpen_next, fxBcsOpen_of_not_rowAllowed hat hready hop hrow hheld hclosed]
  · rw [rowAllowed_iff]
    simp only [inBand_iff, and_imp]
  · exact ⟨getRun_progFault st _ pos s, progFault_of_run hrun _ pos⟩

end Sys2Proof.Machine

/-! Adds and takes on semaphores (spec/12, R230). Logging and answering leave the semaphores as they are, so what `semAdd`
does to an object of this sled is what SEMAPHORE_ADD and SEMAPHORE_AMOADD do to it; a wait's first poll, which decides a
take, subtracts exactly where the count suffices. -/

namespace Sys2Proof.Machine

open Sys2Proof

/-! ## Operands of 32 bits and failed slots -/

/-- An operand below 2^31 is its own signed value. -/
theorem sNat_of_lt {x : Nat} (hx : x < 2 ^ 31) : sNat 32 x = x := by
  unfold sNat
  split <;> omega

/-- The signed value of 32 bits has those bits. -/
theorem iNat_sNat {x : Nat} (hx : x < 2 ^ 32) : iNat 32 (sNat 32 x) = x := by
  unfold iNat sNat
  split <;> omega

theorem sNat_ne_zero {x : Nat} (h0 : x ≠ 0) (hx : x < 2 ^ 32) : sNat 32 x ≠ 0 := fun h =>
  h0 (by rw [← iNat_sNat hx, h]; rfl)

/-- A failed slot has bit 63 set. -/
theorem bitAt_failed (slot : Nat) : bitAt (failed slot) 63 = true := by
  rw [bitAt, failed, beq_iff_eq]
  omega

/-- What an AMO turned away for another reason than its tenant answers is the failed slot. -/
theorem amoFail_of_ne {code : Nat} (h : code ≠ 0x1002) (slot : Nat) : amoFail code slot = failed slot := if_neg h

/-! ## What leaves the semaphores as they are -/

@[simp] theorem logSyncAt_sem (m code : Nat) (w : Who) (kind i a1 a2 : Nat) (s : Sled) :
    (logSyncAt m code w kind i a1 a2 s).sem = s.sem := by
  simp only [logSyncAt, logRec_sem, apply_ite Sled.sem, bump_sem, ite_self]

@[simp] theorem logSync_sem (code : Nat) (w : Who) (kind i a1 a2 : Nat) (s : Sled) :
    (logSync code w kind i a1 a2 s).sem = s.sem := logSyncAt_sem ..

@[simp] theorem wakeSe_sem (w : Who) (s : Sled) : (wakeSe w s).sem = s.sem := by
  unfold wakeSe
  split <;> rfl

@[simp] theorem returnVal_sem (w : Who) (v : Nat) (s : Sled) : (returnVal w v s).sem = s.sem := wakeSe_sem ..

@[simp] theorem setDescs_sem (u : Nat) (l : List Desc) (s : Sled) : (setDescs u l s).sem = s.sem := by
  unfold setDescs
  split <;> rfl

@[simp] theorem stallSe_sem (w : Who) (s : Sled) : (stallSe w s).sem = s.sem := by
  unfold stallSe
  split <;> rfl

/-- A semaphore is read from the list of semaphores alone. -/
theorem getSem_congr {s t : Sled} (h : t.sem = s.sem) (i : Nat) : getSem t i = getSem s i := by
  rw [getSem, h, getSem]

/-- Who may act on a semaphore depends on the semaphores alone. -/
theorem objCheck_sem_congr {s t : Sled} (h : t.sem = s.sem) (w : Who) (i : Nat) :
    objCheck t w true i = objCheck s w true i := by
  have hhead : objHead t true i = objHead s true i := by simp only [objHead, getSem_congr h, if_true]
  rw [objCheck, hhead, objCheck]

@[simp] theorem getSem_setSem_same (i : Nat) (c : Sem) (s : Sled) : getSem (setSem i c s) i = c :=
  fget_fset_same ..

/-! ## An add by a requester that may act -/

section add

variable {s : Sled} {w : Who} {i : Nat} {x : Int} (hx : x ≠ 0) (hcheck : objCheck s w true i = none)
include hx hcheck

/-- Beyond 2^31 - 1 the add is not applied and an overflow is logged. -/
theorem semAdd_overflow (h : 2 ^ 31 - 1 < (getSem s i).count + x) :
    semAdd w i x s = (some 0x1006, logSync 0x1006 w 1 i (iNat 32 x) 0 s) := by
  rw [semAdd, if_neg hx, hcheck]
  exact if_pos h

/-- Below -2^31 the add is not applied and an underflow is logged. -/
theorem semAdd_underflow (h : (getSem s i).count + x < -(2 ^ 31)) :
    semAdd w i x s = (some 0x1005, logSync 0x1005 w 1 i (iNat 32 x) 0 s) := by
  rw [semAdd, if_neg hx, hcheck]
  exact (if_neg (by omega)).trans (if_pos h)

/-- Within the range the add is applied. -/
theorem semAdd_inRange (hlo : -(2 ^ 31) ≤ (getSem s i).count + x) (hhi : (getSem s i).count + x ≤ 2 ^ 31 - 1) :
    semAdd w i x s =
      (none, setSem i { getSem s i with count := (getSem s i).count + x } (objProgress 1 i s)) := by
  rw [semAdd, if_neg hx, hcheck]
  exact (if_neg (by omega)).trans (if_neg (by omega))

end add

/-! ## Commands on an object of this sled -/

theorem exec_semaphoreAdd (a : Agent) (m : BitVec 8) (i : BitVec 16) (wide : Bool) (x : Word) (s : State) :
    exec (.semaphoreAdd a m i wide x) s =
      .next { s with sled := fxSemaphoreAdd a m.toNat i.toNat wide x.toNat s.sled } := rfl

theorem exec_semaphoreAmoadd (a : Agent) (m : BitVec 8) (i : BitVec 16) (x : BitVec 32) (s : State) :
    exec (.semaphoreAmoadd a m i x) s = .next { s with sled := fxSemaphoreAmoadd a m.toNat i.toNat x.toNat s.sled } := rfl

theorem exec_semaphoreTake (a : Agent) (m : BitVec 8) (i : BitVec 16) (n : Word) (s : State) :
    exec (.semaphoreTake a m i n) s = .next { s with sled := fxSemaphoreTake a m.toNat i.toNat n.toNat s.sled } := rfl

section here

variable {s : State} {a : Agent} {m : BitVec 8} (hsync : canSync s.sled a = true) (hmod : m.toNat = moduleId s.sled)
  (hnoc : islRuns s.sled iNOC = true)
include hsync hmod hnoc

/-- A command on an object of this sled acts at once. -/
theorem syncCmd_here (off kind i x : Nat) (bad badValue : Bool) (here there : Who → Sled → Sled) :
    syncCmd a m.toNat off kind i x bad here badValue there s.sled = here (whoAgent s.sled a) s.sled := by
  simp [syncCmd, onStore, hsync, hmod, hnoc]

/-- A 4-byte SEMAPHORE_ADD of a nonzero addend is the add. -/
theorem exec_semaphoreAdd_here (i : BitVec 16) {x : BitVec 32} (hx : x ≠ 0) :
    exec (.semaphoreAdd a m i false (x.setWidth 64)) s =
      .next { s with sled := (semAdd (whoAgent s.sled a) i.toNat (sNat 32 x.toNat) s.sled).2 } := by
  have hval : (x.setWidth 64).toNat = x.toNat := BitVec.toNat_setWidth_of_le (by decide)
  have hne : x.toNat % 2 ^ 32 ≠ 0 := by
    rw [Nat.mod_eq_of_lt x.isLt]
    exact fun h => hx (BitVec.eq_of_toNat_eq h)
  rw [exec_semaphoreAdd, fxSemaphoreAdd, syncCmd_here hsync hmod hnoc, hval]
  simp only [Bool.false_and, Bool.false_or, decide_eq_true_eq, if_neg hne]

/-- SEMAPHORE_AMOADD whose add is turned away answers so. -/
theorem exec_semaphoreAmoadd_failed {i : BitVec 16} {x : BitVec 32} {code : Nat} {u : Sled}
    (hadd : semAdd (whoAgent s.sled a) i.toNat (sNat 32 x.toNat) s.sled = (some code, u)) :
    exec (.semaphoreAmoadd a m i x) s = .next { s with
      sled := returnVal (whoAgent s.sled a) (amoFail code (semSlot (getSem s.sled i.toNat))) u } := by
  rw [exec_semaphoreAmoadd, fxSemaphoreAmoadd, syncCmd_here hsync hmod hnoc]
  simp only [hadd]

/-- SEMAPHORE_AMOADD whose add is applied answers the count before it. -/
theorem exec_semaphoreAmoadd_applied {i : BitVec 16} {x : BitVec 32} {u : Sled}
    (hadd : semAdd (whoAgent s.sled a) i.toNat (sNat 32 x.toNat) s.sled = (none, u)) :
    exec (.semaphoreAmoadd a m i x) s = .next { s with
      sled := returnVal (whoAgent s.sled a) (iNat 32 (getSem s.sled i.toNat).count) u } := by
  rw [exec_semaphoreAmoadd, fxSemaphoreAmoadd, syncCmd_here hsync hmod hnoc]
  simp only [hadd]

/-- An add that only logs: so does SEMAPHORE_ADD, and SEMAPHORE_AMOADD answers with bit 63 besides. -/
theorem exec_add_logged {i : BitVec 16} {x : BitVec 32} {code : Nat} (hx : x ≠ 0) (hcode : code ≠ 0x1002)
    (hadd : semAdd (whoAgent s.sled a) i.toNat (sNat 32 x.toNat) s.sled =
      (some code, logSync code (whoAgent s.sled a) 1 i.toNat (iNat 32 (sNat 32 x.toNat)) 0 s.sled)) :
    exec (.semaphoreAdd a m i false (x.setWidth 64)) s =
      .next { s with sled := logSync code (whoAgent s.sled a) 1 i.toNat x.toNat 0 s.sled } ∧
    ∃ t v, exec (.semaphoreAmoadd a m i x) s = .next t ∧ t.sled.sem = s.sled.sem ∧
      t.sled = returnVal (whoAgent s.sled a) v (logSync code (whoAgent s.sled a) 1 i.toNat x.toNat 0 s.sled) ∧
      bitAt v 63 = true := by
  rw [iNat_sNat x.isLt] at hadd
  refine ⟨?_, _, _, exec_semaphoreAmoadd_failed hsync hmod hnoc hadd, ?_, rfl, ?_⟩
  · rw [exec_semaphoreAdd_here hsync hmod hnoc i hx, hadd]
  · rw [returnVal_sem, logSync_sem]
  · rw [amoFail_of_ne hcode]
    exact bitAt_failed _

/-- SEMAPHORE_TAKE of an operand in range begins a wait, for every agent but a host function. -/
theorem exec_semaphoreTake_here (hvf : ∀ k, a ≠ .vf k) (i : BitVec 16) {n : Word} (hpos : 0 < n.toNat)
    (hn : n.toNat < 2 ^ 31) :
    exec (.semaphoreTake a m i n) s = .next { s with
      sled := beginWait (whoAgent s.sled a) .semTake i.toNat n.toNat (stallSe (whoAgent s.sled a) s.sled) } := by
  have hbad : (decide (n.toNat = 0) || decide (0x7FFFFFFF < n.toNat)) = false := by
    simp only [Bool.or_eq_false_iff, decide_eq_false_iff_not]
    omega
  rw [exec_semaphoreTake, fxSemaphoreTake, hbad, sNat_of_lt hn]
  cases a with
  | vf k => exact absurd rfl (hvf k)
  | pf => simp [canSync] at hsync
  | cc _ | keeper | se _ =>
    rw [coreWait, syncCmd_here hsync hmod hnoc]
    rfl

end here

/-! ## Takes -/

/-- A satisfied take subtracts its operand. -/
theorem getSem_meetWait_take {y : Wait} (hk : y.kind = .semTake) (s : Sled) :
    getSem (meetWait y s) y.idx = { getSem s y.idx with count := (getSem s y.idx).count - y.target } := by
  have hsem : (meetWait y s).sem = (takeSem y.kind y.idx y.target s).sem := by
    unfold meetWait
    dsimp only
    split
    · rw [returnVal_sem]
    · split
      · rw [setDescs_sem]
      · rfl
  rw [getSem_congr hsem, hk]
  exact getSem_setSem_same ..

/-- A poll of a take that may act subtracts what is there, and else leaves the count. -/
theorem getSem_count_pollWait_take {y : Wait} (hk : y.kind = .semTake) {s : Sled}
    (hcheck : objCheck s y.who true y.idx = none) :
    (getSem (pollWait y s) y.idx).count =
      if y.target ≤ (getSem s y.idx).count then (getSem s y.idx).count - y.target else (getSem s y.idx).count := by
  have hcheck' : objCheck s y.who (decide (y.kind.obj = 1)) y.idx = none := by rwa [hk]
  have hmet : waitMet s y.kind y.idx y.target = decide (y.target ≤ (getSem s y.idx).count) := by rw [hk]; rfl
  rw [pollWait, hcheck']
  simp only [hmet, decide_eq_true_eq]
  split
  · rw [getSem_meetWait_take hk]
  · rfl

/-- So does the poll that begins a take. -/
theorem getSem_count_beginWait_take {w : Who} {i : Nat} (target : Int) {s : Sled}
    (hcheck : objCheck s w true i = none) :
    (getSem (beginWait w .semTake i target s) i).count =
      if target ≤ (getSem s i).count then (getSem s i).count - target else (getSem s i).count :=
  getSem_count_pollWait_take (y := { who := w, kind := .semTake, idx := i, target := target, start := s.now }) rfl
    ((objCheck_sem_congr rfl w i).trans hcheck)

/-- Settles O33: the check passes, so the sum's range decides the add and the count the take's first poll. -/
theorem addsOutsideTheRangeAreNotApplied : Obligations.AddsOutsideTheRangeAreNotApplied := by
  unfold Obligations.AddsOutsideTheRangeAreNotApplied
  refine ⟨?_, fun s w i x hx hcheck => ⟨semAdd_overflow hx hcheck, semAdd_underflow hx hcheck⟩,
    fun s c w k i a b => logSync_sem c w k i a b s, ?_⟩
  · rintro s a m i x _ hsync hmod hnoc hx hcheck rfl
    have hne : sNat 32 x.toNat ≠ 0 := sNat_ne_zero (fun h => hx (BitVec.eq_of_toNat_eq h)) x.isLt
    refine ⟨fun h => ?_, fun h => ?_, fun hlo hhi => ?_⟩
    · exact exec_add_logged hsync hmod hnoc hx (by decide) (semAdd_overflow hne hcheck h)
    · exact exec_add_logged hsync hmod hnoc hx (by decide) (semAdd_underflow hne hcheck h)
    · refine ⟨_, exec_semaphoreAmoadd_applied hsync hmod hnoc (semAdd_inRange hne hcheck hlo hhi), ?_⟩
      rw [getSem_congr (returnVal_sem ..), getSem_setSem_same]
  · intro s a m i n hsync hvf hmod hnoc hpos hn hcheck _
    have hstall := stallSe_sem (whoAgent s.sled a) s.sled
    refine ⟨_, exec_semaphoreTake_here hsync hmod hnoc hvf i hpos hn, ?_⟩
    rw [getSem_count_beginWait_take _ ((objCheck_sem_congr hstall _ _).trans hcheck), getSem_congr hstall]

end Sys2Proof.Machine

/-! Levels at the end of a housekeeping round (spec/19, R373, R375, R376). Of what the round end does, only `stepLevels`
touches the levels; a level's step depends only on where its slots read between the thresholds of Table 19-2. -/

namespace Sys2Proof.Machine

open Sys2Proof

/-! ## The round end steps the levels once -/

theorem fget_foldl_fset {α : Type} [DecidableEq α] (l : List Nat) (v : Nat → α) (m : FMap α) (d : α) (k : Nat) :
    fget (l.foldl (fun m j => fset m d j (v j)) m) d k = if k ∈ l then v k else fget m d k := by
  induction l generalizing m with
  | nil => rfl
  | cons j l ih =>
    rw [List.foldl_cons, ih, fget_fset]
    grind

/-- Many steps that only log, only log. -/
theorem LogsOnly.foldl {α : Type} {f : Sled → α → Sled} (hf : ∀ s x, LogsOnly s (f s x)) (l : List α) (s : Sled) :
    LogsOnly s (l.foldl f s) :=
  List.foldlRecOn l f (.refl s) fun t ht x _ => ht.trans (hf t x)

/-- The engine levels and the pause levels. -/
def levels (s : Sled) : FMap Nat × FMap Nat := (s.thm.eng, s.thm.pause)

theorem LogsOnly.levels {s t : Sled} (h : LogsOnly s t) : levels t = levels s :=
  congrArg (fun u => (u.thm.eng, u.thm.pause)) h.rest

theorem logsOnly_bump (blk off : Nat) (s : Sled) : LogsOnly s (bump blk off s) := .of_coll_eq rfl rfl

/-- What leaves level 0 is logged and counted, no more. -/
theorem logsOnly_withLevels (f : Sled → Sled) (s : Sled) : LogsOnly (f s) (withLevels f s) := by
  unfold withLevels
  refine (LogsOnly.foldl (fun u j => ?_) (List.range 10) (f s)).trans (.foldl (fun u st => ?_) (List.range 9) _)
  · exact .ite ((logsOnly_logRec _ u).trans (logsOnly_bump _ _ _)) (.refl u)
  · exact .ite (logsOnly_logRec _ u) (.refl u)

theorem levels_coolRound (s : Sled) : levels (coolRound s) = levels s :=
  (LogsOnly.foldl (fun _ _ => .ite (logsOnly_logRec _ _) (.refl _)) _ _).levels

theorem levels_crossings (s : Sled) : levels (crossings s) = levels s :=
  (LogsOnly.foldl (fun _ _ => .ite (logsOnly_platEvent _ _ _) (.refl _)) _ _).levels

section round

variable {s : Sled} (haon : aonRuns s = true) (hslot : s.thm.slot = 100) (hrun : s.kpr.phase = .running)

include haon hslot hrun

theorem levels_fxHousekeepingRoundEnd : levels (fxHousekeepingRoundEnd s) = levels (stepLevels s) := by
  have hdue : ¬ ((!aonRuns s) = true ∨ s.thm.slot ≠ 100) := by simp [haon, hslot]
  have hkpr : ¬ s.kpr.phase ≠ .running := not_not.mpr hrun
  rw [fxHousekeepingRoundEnd, if_neg hdue]
  dsimp only
  rw [if_neg hkpr, levels_crossings]
  calc levels (coolRound (withLevels stepLevels _))
    _ = levels (withLevels stepLevels _) := levels_coolRound _
    _ = levels (stepLevels _) := (logsOnly_withLevels _ _).levels

theorem fget_eng_fxHousekeepingRoundEnd {j : Nat} (hj : j < 10) :
    fget (fxHousekeepingRoundEnd s).thm.eng 0 j = stepLevel s (engSlots j) (fget s.thm.eng 0 j) := by
  have heng : (fxHousekeepingRoundEnd s).thm.eng = (stepLevels s).thm.eng :=
    congrArg Prod.fst (levels_fxHousekeepingRoundEnd haon hslot hrun)
  rw [heng, stepLevels, fget_foldl_fset, if_pos (List.mem_range.mpr hj)]

theorem fget_pause_fxHousekeepingRoundEnd {st : Nat} (hst : st < 9) :
    fget (fxHousekeepingRoundEnd s).thm.pause 0 st = stepLevel s (pauseSlots st) (fget s.thm.pause 0 st) := by
  have hpause : (fxHousekeepingRoundEnd s).thm.pause = (stepLevels s).thm.pause :=
    congrArg Prod.snd (levels_fxHousekeepingRoundEnd haon hslot hrun)
  rw [hpause, stepLevels, fget_foldl_fset, if_pos (List.mem_range.mpr hst)]

end round

/-! ## A level's step among valid readings -/

section valid

variable {s : Sled} (hvalid : ∀ i, (sensor s i).broken = false)

include hvalid

theorem hotSlot_iff {i : Nat} : hotSlot s i = true ↔ ∃ x, throttleAt s i = some x ∧ x ≤ (sensor s i).reading := by
  rw [hotSlot, hvalid, Bool.false_or]
  cases throttleAt s i <;> simp

theorem coolSlot_iff {i : Nat} : coolSlot s i = true ↔ (sensor s i).reading ≤ releaseAt s i := by
  simp [coolSlot, hvalid]

theorem hotSlot_any_eq_false {slots : List Nat}
    (h : ∀ i ∈ slots, ∀ x, throttleAt s i = some x → (sensor s i).reading < x) : slots.any (hotSlot s) = false :=
  List.any_eq_false.mpr fun i hi hhot =>
    have ⟨x, hx, hle⟩ := (hotSlot_iff hvalid).mp hhot
    (h i hi x hx).not_ge hle

theorem stepLevel_rises {slots : List Nat} {l : Nat} (hl : l < 8)
    (h : ∃ i ∈ slots, ∃ x, throttleAt s i = some x ∧ x ≤ (sensor s i).reading) : stepLevel s slots l = l + 1 := by
  obtain ⟨i, hi, hhot⟩ := h
  rw [stepLevel, if_pos (List.any_eq_true.mpr ⟨i, hi, (hotSlot_iff hvalid).mpr hhot⟩)]
  exact min_eq_right hl

theorem stepLevel_falls {slots : List Nat} (l : Nat) (hcool : ∀ i ∈ slots, (sensor s i).reading ≤ releaseAt s i)
    (hbelow : ∀ i ∈ slots, ∀ x, throttleAt s i = some x → (sensor s i).reading < x) :
    stepLevel s slots l = l - 1 := by
  have hall : slots.all (coolSlot s) = true := List.all_eq_true.mpr fun i hi => (coolSlot_iff hvalid).mpr (hcool i hi)
  rw [stepLevel, hotSlot_any_eq_false hvalid hbelow, if_neg Bool.false_ne_true, if_pos hall]

theorem stepLevel_holds {slots : List Nat} (l : Nat)
    (hbelow : ∀ i ∈ slots, ∀ x, throttleAt s i = some x → (sensor s i).reading < x)
    (habove : ∃ i ∈ slots, releaseAt s i < (sensor s i).reading) : stepLevel s slots l = l := by
  have hnot : ¬ slots.all (coolSlot s) = true := fun hall =>
    have ⟨i, hi, hlt⟩ := habove
    hlt.not_ge ((coolSlot_iff hvalid).mp (List.all_eq_true.mp hall i hi))
  rw [stepLevel, hotSlot_any_eq_false hvalid hbelow, if_neg Bool.false_ne_true, if_neg hnot]

end valid

/-! ## Table 19-2 -/

/-- With `THM_LIMIT` at its reset value every row has the thresholds of Table 19-2; slots of no row have none. -/
theorem thresholds_of_limit {s : Sled} (h : rGet s bTHM 0x400 = 0x6E6064) (i : Nat) :
    (i < 36 → throttleAt s i = some 100 ∧ releaseAt s i = 96 ∧ critAt i = some 112) ∧
    (36 ≤ i → i < 72 → throttleAt s i = some 96 ∧ releaseAt s i = 91 ∧ critAt i = some 105) ∧
    (i = 72 → throttleAt s i = some 46 ∧ releaseAt s i = 44 ∧ critAt i = some 55) ∧
    (87 ≤ i → i ≤ 90 → throttleAt s i = some 110 ∧ releaseAt s i = 105 ∧ critAt i = some 125) ∧
    (i = 73 ∨ (74 ≤ i ∧ i < 87) ∨ 91 ≤ i → throttleAt s i = none ∧ critAt i = none) := by
  have hkeystone : rField s bTHM 0x400 0 8 = 100 := by rw [rField, h]; rfl
  have hdram : rField s bTHM 0x400 8 8 = 96 := by rw [rField, h]; rfl
  have hconv : rField s bTHM 0x400 16 8 = 110 := by rw [rField, h]; rfl
  unfold releaseAt throttleAt critAt
  rw [hkeystone, hdram, hconv]
  refine ⟨fun h36 => ?_, fun h36 h72 => ?_, fun h72 => ?_, fun h87 h90 => ?_, fun hnone => ?_⟩
  · simp [h36]
  · simp [h36.not_gt, h72, h72.ne]
  · simp [h72]
  · simp [show ¬ i < 36 by omega, show ¬ i < 72 by omega, show i ≠ 72 by omega, h87, h90]
  · simp [show ¬ i < 36 by omega, show ¬ i < 72 by omega, show i ≠ 72 by omega, show ¬ (87 ≤ i ∧ i ≤ 90) by omega]

/-- Settles O53: at the round's end every level is stepped once, by its own slots. -/
theorem levelsRiseFallOrHoldByTheirThresholds : Obligations.LevelsRiseFallOrHoldByTheirThresholds := by
  unfold Obligations.LevelsRiseFallOrHoldByTheirThresholds
  refine ⟨fun s haon hslot hrun hvalid => ?_, fun s i h => thresholds_of_limit h i⟩
  refine ⟨{ s with sled := fxHousekeepingRoundEnd s.sled }, rfl, rfl, ?_, ?_⟩
  · rintro j l hj rfl hl
    rw [fget_eng_fxHousekeepingRoundEnd haon hslot hrun hj]
    exact ⟨stepLevel_rises hvalid hl, stepLevel_falls hvalid _, stepLevel_holds hvalid _⟩
  · rintro st l hst rfl hl
    rw [fget_pause_fxHousekeepingRoundEnd haon hslot hrun hst]
    exact ⟨stepLevel_rises hvalid hl, stepLevel_falls hvalid _, stepLevel_holds hvalid _⟩

end Sys2Proof.Machine

/-! Bank words (spec/08, Tables 8-2, 8-4, 8-6; spec/21, Table 21-6). An encoding is built from its lowest field up,
`low + 2 ^ k * rest`; reading it back is two rules, one for the lowest field and one for a field of the rest. -/

namespace Sys2Proof.Machine

open Sys2Proof

/-! ## Fields of a word built from its lowest field up -/

/-- The lowest field is read back. -/
theorem bitsOf_add_zero {a k : Nat} (r : Nat) (h : a < 2 ^ k) : bitsOf (a + 2 ^ k * r) 0 k = a := by
  rw [bitsOf, pow_zero, Nat.div_one, Nat.add_mul_mod_self_left, Nat.mod_eq_of_lt h]

/-- A field above the lowest is a field of the rest. -/
theorem bitsOf_add_high {a k lo : Nat} (r len : Nat) (h : a < 2 ^ k) (hk : k ≤ lo) :
    bitsOf (a + 2 ^ k * r) lo len = bitsOf r (lo - k) len := by
  obtain ⟨j, rfl⟩ := Nat.exists_eq_add_of_le hk
  rw [bitsOf, pow_add, ← Nat.div_div_eq_div_mul, Nat.add_mul_div_left _ _ (Nat.two_pow_pos k), Nat.div_eq_of_lt h,
    Nat.zero_add, Nat.add_sub_cancel_left, bitsOf]

/-- Two neighbouring fields are one field. -/
theorem bitsOf_add_len (x lo m n : Nat) : bitsOf x lo (m + n) = bitsOf x lo m + 2 ^ m * bitsOf x (lo + m) n := by
  rw [bitsOf, bitsOf, bitsOf, pow_add, Nat.mod_mul, pow_add, Nat.div_div_eq_div_mul]

theorem bitsOf_zero_of_lt {x n : Nat} (h : x < 2 ^ n) : bitsOf x 0 n = x := by
  rw [bitsOf, pow_zero, Nat.div_one, Nat.mod_eq_of_lt h]

theorem add_two_pow_mul_lt {a k r n : Nat} (ha : a < 2 ^ k) (hr : r < 2 ^ n) : a + 2 ^ k * r < 2 ^ (k + n) := by
  rw [pow_add]
  calc a + 2 ^ k * r < 2 ^ k * (r + 1) := by rw [Nat.mul_succ]; omega
    _ ≤ 2 ^ k * 2 ^ n := Nat.mul_le_mul_left _ hr

theorem b2n_lt (b : Bool) : b2n b < 2 ^ 1 := Nat.lt_succ_of_le (b2n_le_one b)

theorem bitAt_eq (x i : Nat) : bitAt x i = (bitsOf x i 1 == 1) := rfl

theorem b2n_beq_one (b : Bool) : (b2n b == 1) = b := by cases b <;> rfl

/-! ## The BAU command word -/

/-- The word with its factors as powers, one per field. -/
theorem bauWord_eq (code : Nat) (f : BauFields) :
    bauWord code f = code + 2 ^ 6 * (f.col.toNat + 2 ^ 5 * (b2n f.h + 2 ^ 1 * (f.x.toNat + 2 ^ 3 * (f.y.toNat +
      2 ^ 3 * (f.z.toNat + 2 ^ 3 * (f.fmt.toNat + 2 ^ 3 * (f.l.toNat + 2 ^ 4 * (b2n f.a + 2 ^ 1 * (b2n f.m +
      2 ^ 1 * (b2n f.linc + 2 ^ 1 * f.cnt.toNat)))))))))) := rfl

section

variable {code : Nat} (hcode : code < 2 ^ 6) (f : BauFields)

include hcode

theorem bauWord_op : bitsOf (bauWord code f) 0 6 = code := bitsOf_add_zero _ hcode

/-- The fields above OP are read back, and the reserved bits are 0. -/
theorem bauFields_bauWord : bauFields (bauWord code f) = f ∧ bauRsv (bauWord code f) = 0 := by
  simp only [bauFields, bauRsv, bauWord_eq, bitAt_eq, bitsOf_add_high, bitsOf_add_zero, bitsOf_zero_of_lt, hcode, BitVec.isLt, b2n_lt,
    Nat.reduceLeDiff, Nat.reduceSub, Nat.sub_self, Nat.le_refl, BitVec.ofNat_toNat, BitVec.setWidth_eq, b2n_beq_one]
  exact ⟨trivial, by rw [bitsOf, Nat.div_eq_of_lt f.cnt.isLt, Nat.zero_mod]⟩

theorem bauWord_lt : bauWord code f < 2 ^ 40 := by
  have h36 : bauWord code f < 2 ^ (6 + (5 + (1 + (3 + (3 + (3 + (3 + (4 + (1 + (1 + (1 + 5))))))))))) := by
    rw [bauWord_eq]
    exact add_two_pow_mul_lt hcode <| add_two_pow_mul_lt f.col.isLt <| add_two_pow_mul_lt (b2n_lt _) <|
    add_two_pow_mul_lt f.x.isLt <| add_two_pow_mul_lt f.y.isLt <| add_two_pow_mul_lt f.z.isLt <|
    add_two_pow_mul_lt f.fmt.isLt <| add_two_pow_mul_lt f.l.isLt <| add_two_pow_mul_lt (b2n_lt _) <|
    add_two_pow_mul_lt (b2n_lt _) <| add_two_pow_mul_lt (b2n_lt _) f.cnt.isLt
  exact h36.trans (by decide)

end

/-- The OP code of an operation fits its field and names the operation again, in either mode (Table 21-6). -/
theorem opOf_codeOf {op : Nat} (h : opOf false op = some op) (kt : Bool) :
    codeOf kt op < 2 ^ 6 ∧ opOf kt (codeOf kt op) = some op := by
  have hop : op < 0x21 := by
    by_contra hge
    rw [opOf, if_neg Bool.false_ne_true, if_neg (by omega)] at h
    cases h
  have hall : ∀ kt, ∀ op < 0x21, opOf false op = some op →
      codeOf kt op < 2 ^ 6 ∧ opOf kt (codeOf kt op) = some op := by decide
  exact hall kt op hop h

/-! ## The BCS instruction -/

/-- An instruction within the widths of its fields (Table 8-6). -/
structure BcsInstr.Fits (i : BcsInstr) : Prop where
  iop : i.iop < 2 ^ 4
  chmask : i.chmask < 2 ^ 16
  group : i.group < 2 ^ 2
  banks : i.banks < 2 ^ 16
  arg : i.arg < 2 ^ 16
  data : i.data < 2 ^ 64
  rsv : i.rsv < 2 ^ 10

theorem BcsInstr.Fits.rsvLow {i : BcsInstr} : i.rsv % 16 < 2 ^ 4 := Nat.mod_lt _ (by decide)

theorem BcsInstr.Fits.rsvHigh {i : BcsInstr} (h : i.Fits) : i.rsv / 16 < 2 ^ 6 := Nat.div_lt_of_lt_mul h.rsv

theorem bcsDecode_bcsEncode {i : BcsInstr} (h : i.Fits) : bcsDecode (bcsEncode i) = i := by
  simp only [bcsDecode, bcsEncode, bitsOf_add_high, bitsOf_add_zero, bitsOf_zero_of_lt, h.iop, h.chmask, h.group, h.banks,
    h.arg, h.data, BcsInstr.Fits.rsvLow, h.rsvHigh, Nat.reduceLeDiff, Nat.reduceSub, Nat.sub_self, Nat.le_refl,
    Nat.mod_add_div]

theorem bcsEncode_lt {i : BcsInstr} (h : i.Fits) : bcsEncode i < 2 ^ 128 :=
  show bcsEncode i < 2 ^ (4 + (4 + (16 + (2 + (6 + (16 + (16 + 64))))))) from
    add_two_pow_mul_lt h.iop <| add_two_pow_mul_lt BcsInstr.Fits.rsvLow <| add_two_pow_mul_lt h.chmask <|
    add_two_pow_mul_lt h.group <| add_two_pow_mul_lt h.rsvHigh <| add_two_pow_mul_lt h.banks <|
    add_two_pow_mul_lt h.arg h.data

/-- A word is its fields in their order, so none of its bits is dropped. -/
theorem bcsEncode_bcsDecode {x : Nat} (h : x < 2 ^ 128) : bcsEncode (bcsDecode x) = x := by
  have hlow : bitsOf x 4 4 < 16 := bitsOf_lt x 4 4
  have hmod : (bitsOf x 4 4 + 16 * bitsOf x 26 6) % 16 = bitsOf x 4 4 := by omega
  have hdiv : (bitsOf x 4 4 + 16 * bitsOf x 26 6) / 16 = bitsOf x 26 6 := by omega
  calc bcsEncode (bcsDecode x)
    _ = bitsOf x 0 (4 + (4 + (16 + (2 + (6 + (16 + (16 + 64))))))) := by
      rw [bcsEncode, bcsDecode, hmod, hdiv]
      simp only [bitsOf_add_len]
    _ = x := bitsOf_zero_of_lt h

/-- Settles O22: both encodings are read back field by field. -/
theorem bankWordsDecodeToWhatWasEncoded : Obligations.BankWordsDecodeToWhatWasEncoded := by
  unfold Obligations.BankWordsDecodeToWhatWasEncoded
  refine ⟨fun kt op f hop => ?_, fun i hiop hch hgr hba harg hda hrsv => ?_, fun x hx => bcsEncode_bcsDecode hx⟩
  · obtain ⟨hcode, hback⟩ := opOf_codeOf hop kt
    obtain ⟨hfields, hreserved⟩ := bauFields_bauWord hcode f
    exact ⟨hfields, (bauWord_op hcode f).symm ▸ hback, hreserved, bauWord_lt hcode f⟩
  · have hfits : i.Fits := ⟨hiop, hch, hgr, hba, harg, hda, hrsv⟩
    exact ⟨bcsDecode_bcsEncode hfits, bcsEncode_lt hfits⟩

end Sys2Proof.Machine

/-! The queue (notes/assumptions/2). Every command is an effect on the sled alone, at once or held back. -/

namespace Sys2Proof.Machine

open Sys2Proof

/-- Every command is an effect on the sled: one that takes place at once, or one whose accesses may have to wait. -/
theorem exec_eq_lift (c : Instr) : (∃ f, exec c = lift f) ∨ ∃ f, exec c = liftHold f := by
  cases c <;> first | exact .inl ⟨_, rfl⟩ | exact .inr ⟨_, rfl⟩

/-- So a command's effect on the sled is a function of the sled, and the queue stays. -/
theorem exec_eq_next (c : Instr) : ∃ f : Sled → Sled, ∀ s, exec c s = .next { s with sled := f s.sled } := by
  obtain ⟨f, hf⟩ | ⟨f, hf⟩ := exec_eq_lift c
  · exact ⟨f, fun s => congrFun hf s⟩
  · refine ⟨fun u => if (f u).stall = u.stall then f u else u, fun s => ?_⟩
    rw [hf, liftHold]
    dsimp only
    split
    · rfl
    · rfl

/-- A run whose first step goes on is that step and the rest of the run. -/
theorem run_succ_of_step {s t : State} (h : step s = .next t) (k : Nat) : core.run (k + 1) s = core.run k t := by
  have hstep : core.step s = .next t := h
  exact (Host.Core.run.eq_2 core s k).trans (by rw [hstep])

/-- The commands of a queue run in their order, as if each had been sent alone. -/
theorem run_pending (cs : List Instr) (s : State) (h : s.pending = cs) :
    ∃ t, core.run cs.length s = .next t ∧ t.pending = [] ∧ execAll cs { s with pending := [] } = .next t := by
  induction cs generalizing s with
  | nil =>
    obtain ⟨u, q⟩ := s
    subst h
    exact ⟨_, rfl, rfl, rfl⟩
  | cons c cs ih =>
    obtain ⟨f, hf⟩ := exec_eq_next c
    obtain ⟨t, hrun, hempty, hall⟩ := ih { sled := f s.sled, pending := cs } rfl
    have hstep : step s = .next { sled := f s.sled, pending := cs } := by
      rw [step, h]
      exact hf _
    refine ⟨t, ?_, hempty, ?_⟩
    · exact (run_succ_of_step hstep cs.length).trans hrun
    · rw [execAll, hf]
      exact hall

/-- Settles O2: each command is a function of the sled, so the queue runs as its commands one by one. -/
theorem commandsCompleteInOrderAndAnEmptyQueueIdles : Obligations.CommandsCompleteInOrderAndAnEmptyQueueIdles := by
  unfold Obligations.CommandsCompleteInOrderAndAnEmptyQueueIdles
  refine ⟨fun c s => ?_, fun cs s h => ?_, fun s h => ?_⟩
  · obtain ⟨f, hf⟩ := exec_eq_next c
    exact ⟨_, hf s, rfl⟩
  · obtain ⟨t, hrun, hempty, hall⟩ := run_pending cs s h
    exact ⟨t, hrun, hempty, hall, t, hrun⟩
  · rw [step, h]
    simp only [idle, h]

end Sys2Proof.Machine

namespace Sys2Proof.Machine

open Sys2Proof

/-! ## What leaves the memory alone

One equation per function of the model that no byte of memory depends on, in the model's order. -/

theorem foldl_mem {α : Type} {f : Sled → α → Sled} (h : ∀ s x, (f s x).mem = s.mem) (l : List α) (s : Sled) :
    (l.foldl f s).mem = s.mem :=
  List.foldlRecOn (motive := fun t => t.mem = s.mem) l f rfl fun t ht x _ => (h t x).trans ht

@[simp] theorem kt3Clamp_mem (s : Sled) : (kt3Clamp s).mem = s.mem := by
  simp -implicitDefEqProofs [kt3Clamp, apply_ite Sled.mem, foldl_mem]

@[simp] theorem nextFree_mem (s : Sled) : (nextFree s).2.mem = s.mem := by
  simp -implicitDefEqProofs [nextFree]

@[simp] theorem fxStrapWindowEnd_mem (samples : List (BitVec 11)) (s : Sled) :
    (fxStrapWindowEnd samples s).mem = s.mem := by
  unfold fxStrapWindowEnd
  split <;> simp -implicitDefEqProofs [apply_ite Sled.mem]

@[simp] theorem sessionFails_mem (s : Sled) : (sessionFails s).mem = s.mem := by
  unfold sessionFails
  split <;> simp -implicitDefEqProofs

@[simp] theorem fxUpdLockNDebounced_mem (asserted : Bool) (s : Sled) :
    (fxUpdLockNDebounced asserted s).mem = s.mem := by
  simp -implicitDefEqProofs [fxUpdLockNDebounced, apply_ite Sled.mem]

@[simp] theorem quiesceBegin_mem (s : Sled) : (quiesceBegin s).mem = s.mem := by
  simp -implicitDefEqProofs [quiesceBegin, apply_ite Sled.mem, foldl_mem]

@[simp] theorem fxRemoveReqNDebounced_mem (asserted : Bool) (s : Sled) :
    (fxRemoveReqNDebounced asserted s).mem = s.mem := by
  simp -implicitDefEqProofs [fxRemoveReqNDebounced]

@[simp] theorem cycleRegs_mem (s : Sled) : (cycleRegs s).mem = s.mem := by
  simp -implicitDefEqProofs [cycleRegs]

@[simp] theorem setTrials_mem (m : FMap Nat) (s : Sled) : (setTrials m s).mem = s.mem := by
  simp -implicitDefEqProofs [setTrials]

@[simp] theorem dirWrite_mem (f : Dir → Dir) (s : Sled) : (dirWrite f s).mem = s.mem := by
  simp -implicitDefEqProofs [dirWrite, apply_ite Sled.mem]

@[simp] theorem trialFail_mem (comp used : Nat) (s : Sled) : (trialFail comp used s).mem = s.mem := by
  simp -implicitDefEqProofs [trialFail, apply_ite Sled.mem]

@[simp] theorem startTrialsFail_mem (s : Sled) : (startTrialsFail s).mem = s.mem := by
  simp -implicitDefEqProofs [startTrialsFail, apply_ite Sled.mem]

@[simp] theorem forgetDesc_mem (id : Nat) (s : Sled) : (forgetDesc id s).mem = s.mem := by
  simp -implicitDefEqProofs [forgetDesc]

@[simp] theorem setDescs_mem (u : Nat) (l : List Desc) (s : Sled) : (setDescs u l s).mem = s.mem := by
  simp -implicitDefEqProofs [setDescs, apply_ite Sled.mem]

@[simp] theorem dropQueue_mem (u q : Nat) (s : Sled) : (dropQueue u q s).mem = s.mem := by
  simp -implicitDefEqProofs [dropQueue, apply_ite Sled.mem, foldl_mem]

@[simp] theorem seDrop_mem (core : Nat) (s : Sled) : (seDrop core s).mem = s.mem := by
  simp -implicitDefEqProofs [seDrop]

@[simp] theorem seStopOp_mem (core : Nat) (s : Sled) : (seStopOp core s).mem = s.mem := by
  simp -implicitDefEqProofs [seStopOp, apply_ite Sled.mem]

@[simp] theorem setRun_mem (st : Nat) (r : Option Run) (s : Sled) : (setRun st r s).mem = s.mem := by
  simp -implicitDefEqProofs [setRun]

@[simp] theorem updBt_mem (st c b : Nat) (f : BankT → BankT) (s : Sled) : (updBt st c b f s).mem = s.mem := by
  simp -implicitDefEqProofs [updBt]

@[simp] theorem clearReop_mem (half k : Nat) (s : Sled) : (clearReop half k s).mem = s.mem := by
  simp -implicitDefEqProofs [clearReop, apply_ite Sled.mem]

@[simp] theorem setBank_mem (k : Nat) (b : BankU) (s : Sled) : (setBank k b s).mem = s.mem := by
  simp -implicitDefEqProofs [setBank]

@[simp] theorem setTm_mem (k : Nat) (m : BankTm) (s : Sled) : (setTm k m s).mem = s.mem := by
  simp -implicitDefEqProofs [setTm]

@[simp] theorem closeHalf_mem (half k : Nat) (s : Sled) : (closeHalf half k s).mem = s.mem := by
  simp -implicitDefEqProofs [closeHalf]

@[simp] theorem pushRetry_mem (st c : Nat) (e : RetryEnt) (s : Sled) : (pushRetry st c e s).mem = s.mem := by
  simp -implicitDefEqProofs [pushRetry]

@[simp] theorem useSlots_mem (st c : Nat) (pre n : Nat) (s : Sled) : (useSlots st c pre n s).mem = s.mem := by
  simp -implicitDefEqProofs [useSlots]

@[simp] theorem leaveBcm_mem (st c : Nat) (s : Sled) : (leaveBcm st c s).mem = s.mem := by
  simp -implicitDefEqProofs [leaveBcm, apply_ite Sled.mem]

@[simp] theorem progClose_mem (st : Nat) (s : Sled) : (progClose st s).mem = s.mem := by
  simp -implicitDefEqProofs [progClose, apply_ite Sled.mem, foldl_mem]

@[simp] theorem progProgress_mem (src : Nat) (s : Sled) : (progProgress src s).mem = s.mem := by
  unfold progProgress
  split <;> simp -implicitDefEqProofs

@[simp] theorem stepTime_mem (k op : Nat) (f : BauFields) (s : Sled) : (stepTime k op f s).mem = s.mem := by
  simp -implicitDefEqProofs [stepTime]

@[simp] theorem logBauPoison_mem (src c addr : Nat) (s : Sled) : (logBauPoison src c addr s).mem = s.mem := by
  unfold logBauPoison
  split <;> simp -implicitDefEqProofs [apply_ite Sled.mem]

@[simp] theorem spareFails_mem (k : Nat) (s : Sled) : (spareFails k s).mem = s.mem := by
  simp only [spareFails]
  split <;> simp -implicitDefEqProofs [apply_ite Sled.mem]

@[simp] theorem spareTrigger_mem (st r : Nat) (fatal : Bool) (s : Sled) :
    (spareTrigger st r fatal s).2.mem = s.mem := by
  simp only [spareTrigger]
  repeat' split
  all_goals simp -implicitDefEqProofs

@[simp] theorem freshUe_mem (c : Coord) (s : Sled) : (freshUe c s).mem = s.mem := by
  simp -implicitDefEqProofs [freshUe, apply_ite Sled.mem]

@[simp] theorem sramUe_mem (w : Nat) (s : Sled) : (sramUe w s).mem = s.mem := by
  simp -implicitDefEqProofs [sramUe]

@[simp] theorem bumpMc_mem (st c k : Nat) (s : Sled) : (bumpMc st c k s).mem = s.mem := by
  simp -implicitDefEqProofs [bumpMc]

@[simp] theorem addRepair_mem (st c : Nat) (it : ScrubItem) (s : Sled) :
    (addRepair st c it s).mem = s.mem := by
  simp -implicitDefEqProofs [addRepair, apply_ite Sled.mem]

@[simp] theorem readOperand_mem (p : Nat) (s : Sled) : (readOperand p s).2.mem = s.mem := by
  simp only [readOperand]
  repeat' split
  all_goals simp -implicitDefEqProofs

@[simp] theorem loseObjects_mem (t : Nat) (s : Sled) : (loseObjects t s).mem = s.mem := by
  simp -implicitDefEqProofs [loseObjects]

@[simp] theorem logSyncAt_mem (m code : Nat) (w : Who) (kind i : Nat) (a1 a2 : Nat) (s : Sled) :
    (logSyncAt m code w kind i a1 a2 s).mem = s.mem := by
  simp -implicitDefEqProofs [logSyncAt, apply_ite Sled.mem]

@[simp] theorem wakeSe_mem (w : Who) (s : Sled) : (wakeSe w s).mem = s.mem := by
  simp -implicitDefEqProofs [wakeSe, apply_ite Sled.mem]

@[simp] theorem returnVal_mem (w : Who) (v : Nat) (s : Sled) : (returnVal w v s).mem = s.mem := by
  simp -implicitDefEqProofs [returnVal]

@[simp] theorem descStop_mem (u : Nat) (d : Desc) (s : Sled) : (descStop u d s).mem = s.mem := by
  simp -implicitDefEqProofs [descStop, apply_ite Sled.mem]

@[simp] theorem failWait_mem (w : Wait) (code : Nat) (s : Sled) : (failWait w code s).mem = s.mem := by
  simp only [failWait]
  repeat' split
  all_goals simp -implicitDefEqProofs

@[simp] theorem failWaits_mem (p : Wait → Bool) (code : Nat) (s : Sled) :
    (failWaits p code s).mem = s.mem := by
  simp -implicitDefEqProofs [failWaits, foldl_mem]

@[simp] theorem fxFirstPwrDemandWrite_mem (watts : Nat) (s : Sled) :
    (fxFirstPwrDemandWrite watts s).mem = s.mem := by
  simp -implicitDefEqProofs [fxFirstPwrDemandWrite, apply_ite Sled.mem]

@[simp] theorem loadRuntime_mem (k : Nat) (s : Sled) : (loadRuntime k s).mem = s.mem := by
  simp -implicitDefEqProofs [loadRuntime]

@[simp] theorem hbStart_mem (i : Nat) (s : Sled) : (hbStart i s).mem = s.mem := by
  simp -implicitDefEqProofs [hbStart]

@[simp] theorem modeWrites_mem (st c : Nat) (s : Sled) : (modeWrites st c s).mem = s.mem := by
  simp -implicitDefEqProofs [modeWrites, apply_ite Sled.mem, foldl_mem]

@[simp] theorem refreshAnew_mem (st c : Nat) (s : Sled) : (refreshAnew st c s).mem = s.mem := by
  simp -implicitDefEqProofs [refreshAnew]

@[simp] theorem stackWakes_mem (s : Sled) (st : Nat) : (stackWakes s st).mem = s.mem := by
  simp -implicitDefEqProofs [stackWakes, foldl_mem]

@[simp] theorem stackInit_mem (s : Sled) (st : Nat) : (stackInit s st).mem = s.mem := by
  simp only [stackInit]
  repeat' split
  all_goals simp -implicitDefEqProofs [foldl_mem]

@[simp] theorem setSpareReg_mem (k : Nat) (e : Option SpareEnt) (s : Sled) :
    (setSpareReg k e s).mem = s.mem := by
  simp -implicitDefEqProofs [setSpareReg]

@[simp] theorem loadSpareMap_mem (s : Sled) : (loadSpareMap s).mem = s.mem := by
  simp -implicitDefEqProofs [loadSpareMap, foldl_mem]

@[simp] theorem runtimeSlot_mem (s : Sled) : (runtimeSlot s).2.mem = s.mem := by
  simp only [runtimeSlot]
  repeat' split
  all_goals simp -implicitDefEqProofs

@[simp] theorem unmappedReg_mem (a : Agent) (blk off : Nat) (s : Sled) :
    (unmappedReg a blk off s).mem = s.mem := by
  simp -implicitDefEqProofs [unmappedReg]

@[simp] theorem regAccess_mem (a : Agent) (blk off : Nat) {f : Sled → Sled} (hf : ∀ t, (f t).mem = t.mem) (s :
    Sled) :
    (regAccess a blk off f s).mem = s.mem := by
  simp -implicitDefEqProofs [regAccess, apply_ite Sled.mem, hf]

@[simp] theorem setCause_mem (kind trigger id : Nat) (s : Sled) :
    (setCause kind trigger id s).mem = s.mem := by
  simp -implicitDefEqProofs [setCause]

@[simp] theorem warmRegs_mem (s : Sled) : (warmRegs s).mem = s.mem := by
  simp -implicitDefEqProofs [warmRegs, foldl_mem]

@[simp] theorem crossingsLost_mem (s : Sled) : (crossingsLost s).mem = s.mem := by
  simp -implicitDefEqProofs [crossingsLost, foldl_mem]

@[simp] theorem landReads_mem (st c t : Nat) (s : Sled) : (landReads st c t s).mem = s.mem := by
  unfold landReads
  grind [foldl_mem, emit_mem, updChan_mem]

@[simp] theorem landAll_mem (st c : Nat) (s : Sled) : (landAll st c s).mem = s.mem := by
  simp -implicitDefEqProofs [landAll]

@[simp] theorem lockHit_mem (s : Sled) : (lockHit s).mem = s.mem := by
  simp -implicitDefEqProofs [lockHit]

@[simp] theorem swField_mem (blk off : Nat) (lo len v : Nat) (s : Sled) :
    (swField blk off lo len v s).mem = s.mem := by
  simp -implicitDefEqProofs [swField, apply_ite Sled.mem]

@[simp] theorem glbField_mem (lo v : Nat) (s : Sled) : (glbField lo v s).mem = s.mem := by
  simp -implicitDefEqProofs [glbField]

@[simp] theorem clearX_mem (core : Nat) (s : Sled) : (clearX core s).mem = s.mem := by
  simp -implicitDefEqProofs [clearX]

@[simp] theorem restoreBlk_mem (blk : Nat) (keep : Nat → Bool) (s : Sled) :
    (restoreBlk blk keep s).mem = s.mem := by
  simp -implicitDefEqProofs [restoreBlk]

@[simp] theorem vcClear_mem (n : Nat) (s : Sled) : (vcClear n s).mem = s.mem := by
  simp -implicitDefEqProofs [vcClear, foldl_mem]

@[simp] theorem ccDrop_mem (i : Nat) (s : Sled) : (ccDrop i s).mem = s.mem := by
  simp -implicitDefEqProofs [ccDrop]

@[simp] theorem coreResetBegin_mem (core : Nat) (byReg : Bool) (s : Sled) :
    (coreResetBegin core byReg s).mem = s.mem := by
  simp -implicitDefEqProofs [coreResetBegin, apply_ite Sled.mem]

@[simp] theorem glbCore_mem (core : Nat) (s : Sled) : (glbCore core s).mem = s.mem := by
  simp -implicitDefEqProofs [glbCore, apply_ite Sled.mem]

@[simp] theorem fxCoreRst_mem (a : Agent) (core : Nat) (s : Sled) : (fxCoreRst a core s).mem = s.mem := by
  simp -implicitDefEqProofs [fxCoreRst]

@[simp] theorem fieldWrite_mem (blk off : Nat) (mask v : Nat) (f : Fld) (s : Sled) :
    (fieldWrite blk off mask v f s).mem = s.mem := by
  unfold fieldWrite
  split <;> simp -implicitDefEqProofs [apply_ite Sled.mem]

@[simp] theorem ownerSet_mem (st c : Nat) (s : Sled) : (ownerSet st c s).mem = s.mem := by
  simp -implicitDefEqProofs [ownerSet]

@[simp] theorem lkWrite_mem (blk off : Nat) (mask v : Nat) (fs : List Fld) (s : Sled) :
    (lkWrite blk off mask v fs s).mem = s.mem := by
  simp -implicitDefEqProofs [lkWrite, apply_ite Sled.mem, foldl_mem]

@[simp] theorem compatWrite_mem (mask v : Nat) (s : Sled) : (compatWrite mask v s).mem = s.mem := by
  simp -implicitDefEqProofs [compatWrite, apply_ite Sled.mem]

@[simp] theorem probeGo_mem (s : Sled) : (probeGo s).mem = s.mem := by
  simp -implicitDefEqProofs [probeGo]

@[simp] theorem helperNext_mem (st : Nat) (s : Sled) : (helperNext st s).mem = s.mem := by
  simp -implicitDefEqProofs [helperNext, apply_ite Sled.mem]

@[simp] theorem trainGo_mem (st c : Nat) (stp rank : Nat) (s : Sled) :
    (trainGo st c stp rank s).mem = s.mem := by
  simp -implicitDefEqProofs [trainGo, apply_ite Sled.mem]

@[simp] theorem dlyWrite_mem (st taps : Nat) (s : Sled) : (dlyWrite st taps s).mem = s.mem := by
  simp only [dlyWrite]
  repeat' split
  all_goals simp -implicitDefEqProofs

@[simp] theorem speedGo_mem (st bin : Nat) (s : Sled) : (speedGo st bin s).mem = s.mem := by
  simp -implicitDefEqProofs [speedGo, apply_ite Sled.mem]

@[simp] theorem migEnd_mem (st : Nat) (s : Sled) : (migEnd st s).mem = s.mem := by
  simp -implicitDefEqProofs [migEnd]

@[simp] theorem spareGo0_mem (st : Nat) (s : Sled) : (spareGo0 st s).mem = s.mem := by
  simp only [spareGo0]
  repeat' split
  all_goals simp -implicitDefEqProofs

@[simp] theorem bcsFlag_mem (st bit : Nat) (s : Sled) : (bcsFlag st bit s).mem = s.mem := by
  simp -implicitDefEqProofs [bcsFlag]

@[simp] theorem bcsEnqueue_mem (st q : Nat) (p : Prog) (s : Sled) : (bcsEnqueue st q p s).mem = s.mem := by
  simp -implicitDefEqProofs [bcsEnqueue, apply_ite Sled.mem]

@[simp] theorem logSync_mem (code : Nat) (w : Who) (kind i : Nat) (a1 a2 : Nat) (s : Sled) :
    (logSync code w kind i a1 a2 s).mem = s.mem := by
  simp -implicitDefEqProofs [logSync]

@[simp] theorem setSem_mem (i : Nat) (c : Sem) (s : Sled) : (setSem i c s).mem = s.mem := by
  simp -implicitDefEqProofs [setSem]

@[simp] theorem setCtr_mem (i : Nat) (c : Ctr) (s : Sled) : (setCtr i c s).mem = s.mem := by
  simp -implicitDefEqProofs [setCtr]

@[simp] theorem adminAct_mem (action : Nat) (sem : Bool) (i owner : Nat) (s : Sled) :
    (adminAct action sem i owner s).mem = s.mem := by
  simp -implicitDefEqProofs [adminAct, apply_ite Sled.mem]

@[simp] theorem adminWrite_mem (a : Agent) (sem : Bool) (i action owner : Nat) (s : Sled) :
    (adminWrite a sem i action owner s).mem = s.mem := by
  simp only [adminWrite]
  repeat' split
  all_goals simp -implicitDefEqProofs

@[simp] theorem adminCmd_mem (a : Agent) (v : Nat) (s : Sled) : (adminCmd a v s).mem = s.mem := by
  simp -implicitDefEqProofs [adminCmd]

@[simp] theorem qcfgWrite_mem (u q v : Nat) (s : Sled) : (qcfgWrite u q v s).mem = s.mem := by
  simp -implicitDefEqProofs [qcfgWrite, apply_ite Sled.mem]

@[simp] theorem tailWrite_mem (u q v : Nat) (s : Sled) : (tailWrite u q v s).mem = s.mem := by
  simp -implicitDefEqProofs [tailWrite, apply_ite Sled.mem]

@[simp] theorem queueWrite_mem (u off : Nat) (mask v : Nat) (s : Sled) :
    (queueWrite u off mask v s).mem = s.mem := by
  simp -implicitDefEqProofs [queueWrite, apply_ite Sled.mem]

@[simp] theorem seGoOp_mem (core t entry : Nat) (s : Sled) : (seGoOp core t entry s).mem = s.mem := by
  simp -implicitDefEqProofs [seGoOp, apply_ite Sled.mem]

@[simp] theorem logHole_mem (w : Who) (a n : Nat) (s : Sled) : (logHole w a n s).mem = s.mem := by
  unfold logHole
  split <;> simp -implicitDefEqProofs

@[simp] theorem loadCurve_mem (i : Nat) (img : List Byte) (s : Sled) : (loadCurve i img s).mem = s.mem := by
  simp -implicitDefEqProofs [loadCurve, apply_ite Sled.mem]

@[simp] theorem updLnk_mem (l : Nat) (f : Lnk → Lnk) (s : Sled) : (updLnk l f s).mem = s.mem := by
  simp -implicitDefEqProofs [updLnk]

@[simp] theorem pushTx_mem (l : Nat) (m : Msg) (s : Sled) : (pushTx l m s).mem = s.mem := by
  simp -implicitDefEqProofs [pushTx]

@[simp] theorem respond_mem (kind : Nat) (m : MsgIn) (arg : Nat) (data : List Byte) (pois : Nat) (inner :
    Option (Nat × MsgIn)) (s : Sled) :
    (respond kind m arg data pois inner s).mem = s.mem := by
  simp -implicitDefEqProofs [respond, apply_ite Sled.mem]

@[simp] theorem unreachMsg_mem (possibly : Bool) (kind : Nat) (m : MsgIn) (s : Sled) :
    (unreachMsg possibly kind m s).mem = s.mem := by
  simp -implicitDefEqProofs [unreachMsg, apply_ite Sled.mem]

@[simp] theorem closeTag_mem (tag : Nat) (s : Sled) : (closeTag tag s).mem = s.mem := by
  simp -implicitDefEqProofs [closeTag]

@[simp] theorem descFault_mem (u : Nat) (d : Desc) (code a2 : Nat) (s : Sled) :
    (descFault u d code a2 s).mem = s.mem := by
  simp -implicitDefEqProofs [descFault, apply_ite Sled.mem]

@[simp] theorem logRemoteSync_mem (code : Nat) (w : Who) (o : Outst) (s : Sled) :
    (logRemoteSync code w o s).mem = s.mem := by
  simp -implicitDefEqProofs [logRemoteSync]

@[simp] theorem loadFail_mem (code : Nat) (s : Sled) : (loadFail code s).2.mem = s.mem := by
  unfold loadFail
  split <;> simp -implicitDefEqProofs

@[simp] theorem setX_mem (core rd v : Nat) (s : Sled) : (setX core rd v s).mem = s.mem := by
  simp -implicitDefEqProofs [setX, apply_ite Sled.mem]

@[simp] theorem seFault_mem (c cause tval : Nat) (s : Sled) : (seFault c cause tval s).mem = s.mem := by
  simp -implicitDefEqProofs [seFault, apply_ite Sled.mem]

/-- The search of `findDesc` is kept out of the proof, for the kernel would else run it where it compares the branches. -/
@[simp] theorem contFail_mem (code : Nat) (o : Outst) (s : Sled) : (contFail code o s).mem = s.mem := by
  unfold contFail
  generalize findDesc = find
  as_aux_lemma =>
    dsimp only
    split
    · split <;> simp -implicitDefEqProofs [apply_ite Sled.mem]
    · split <;> simp -implicitDefEqProofs [apply_ite Sled.mem]
    · split <;> simp -implicitDefEqProofs
    · simp -implicitDefEqProofs [apply_ite Sled.mem]
    · simp -implicitDefEqProofs
    · simp -implicitDefEqProofs
    · simp -implicitDefEqProofs [apply_ite Sled.mem]
    · split <;> simp -implicitDefEqProofs [apply_ite Sled.mem]

@[simp] theorem sendVia_mem (l hops tag : Nat) (o : Outst) (s : Sled) :
    (sendVia l hops tag o s).mem = s.mem := by
  simp -implicitDefEqProofs [sendVia]

@[simp] theorem holdReq_mem (tag : Nat) (o : Outst) (s : Sled) : (holdReq tag o s).mem = s.mem := by
  simp -implicitDefEqProofs [holdReq]

@[simp] theorem sendOrHold_mem (l hops tag : Nat) (o : Outst) (s : Sled) :
    (sendOrHold l hops tag o s).mem = s.mem := by
  simp -implicitDefEqProofs [sendOrHold, apply_ite Sled.mem]

@[simp] theorem reroute_mem (tag : Nat) (o : Outst) (s : Sled) : (reroute tag o s).mem = s.mem := by
  simp -implicitDefEqProofs [reroute, apply_ite Sled.mem]

@[simp] theorem linkReturned_mem (m : Msg) (s : Sled) : (linkReturned m s).mem = s.mem := by
  simp only [linkReturned]
  repeat' split
  all_goals simp -implicitDefEqProofs

@[simp] theorem linkUnsent_mem (m : Msg) (s : Sled) : (linkUnsent m s).mem = s.mem := by
  simp only [linkUnsent]
  repeat' split
  all_goals simp -implicitDefEqProofs

@[simp] theorem linkEmpty_mem (l : Nat) (s : Sled) : (linkEmpty l s).mem = s.mem := by
  simp -implicitDefEqProofs [linkEmpty, foldl_mem]

@[simp] theorem setLink_mem (l st : Nat) (s : Sled) : (setLink l st s).mem = s.mem := by
  simp -implicitDefEqProofs [setLink]

@[simp] theorem linkEnable_mem (l : Nat) (en : Bool) (s : Sled) : (linkEnable l en s).mem = s.mem := by
  simp -implicitDefEqProofs [linkEnable, apply_ite Sled.mem]

@[simp] theorem bumpLink_mem (l k n : Nat) (s : Sled) : (bumpLink l k n s).mem = s.mem := by
  simp -implicitDefEqProofs [bumpLink]

@[simp] theorem linkRecover_mem (l : Nat) (s : Sled) : (linkRecover l s).mem = s.mem := by
  simp -implicitDefEqProofs [linkRecover, apply_ite Sled.mem]

@[simp] theorem linkRetrain_mem (l : Nat) (s : Sled) : (linkRetrain l s).mem = s.mem := by
  simp -implicitDefEqProofs [linkRetrain, apply_ite Sled.mem]

@[simp] theorem thmLimit_mem (v : Nat) (s : Sled) : (thmLimit v s).mem = s.mem := by
  simp -implicitDefEqProofs [thmLimit, apply_ite Sled.mem]

@[simp] theorem rdmaGo_mem (n : Nat) (s : Sled) : (rdmaGo n s).mem = s.mem := by
  simp -implicitDefEqProofs [rdmaGo, apply_ite Sled.mem]

@[simp] theorem clampField_mem (blk off : Nat) (lo len : Nat) (a b : Nat) (s : Sled) :
    (clampField blk off lo len a b s).mem = s.mem := by
  simp -implicitDefEqProofs [clampField]

@[simp] theorem clampReg_mem (blk off : Nat) (s : Sled) : (clampReg blk off s).mem = s.mem := by
  simp -implicitDefEqProofs [clampReg, apply_ite Sled.mem]

@[simp] theorem fxUnmappedAccess_mem (a : Agent) (addr : Nat) (write : Bool) (s : Sled) :
    (fxUnmappedAccess a addr write s).mem = s.mem := by
  simp only [fxUnmappedAccess]
  repeat' split
  all_goals simp -implicitDefEqProofs

@[simp] theorem fxGlbCompatWrite_mem (a : Agent) (k lock : Bool) (s : Sled) :
    (fxGlbCompatWrite a k lock s).mem = s.mem := by
  simp -implicitDefEqProofs [fxGlbCompatWrite]

@[simp] theorem fxMapProbe_mem (a : Agent) (addr : Nat) (s : Sled) : (fxMapProbe a addr s).mem = s.mem := by
  simp -implicitDefEqProofs [fxMapProbe, apply_ite Sled.mem]

@[simp] theorem refuseReq_mem (port addr : Nat) (wr : Option (BitVec 32 × BitVec 256)) (s : Sled) :
    (refuseReq port addr wr s).mem = s.mem := by
  simp -implicitDefEqProofs [refuseReq, apply_ite Sled.mem]

@[simp] theorem slotTick_mem (st c t : Nat) (s : Sled) : (slotTick st c t s).mem = s.mem := by
  simp -implicitDefEqProofs [slotTick]

@[simp] theorem pauseStart_mem (st c : Nat) (s : Sled) : (pauseStart st c s).mem = s.mem := by
  simp -implicitDefEqProofs [pauseStart]

@[simp] theorem doRefresh_mem (st c : Nat) (b t : Nat) (forced : Bool) (s : Sled) :
    (doRefresh st c b t forced s).mem = s.mem := by
  simp -implicitDefEqProofs [doRefresh, apply_ite Sled.mem]

@[simp] theorem doTake_mem (st c : Nat) (b t : Nat) (urgent : Bool) (s : Sled) :
    (doTake st c b t urgent s).mem = s.mem := by
  simp -implicitDefEqProofs [doTake, apply_ite Sled.mem]

@[simp] theorem doAct_mem (st c : Nat) (i t : Nat) (s : Sled) : (doAct st c i t s).mem = s.mem := by
  unfold doAct
  split <;> simp -implicitDefEqProofs

@[simp] theorem doReopen_mem (st c : Nat) (b t : Nat) (s : Sled) : (doReopen st c b t s).mem = s.mem := by
  simp -implicitDefEqProofs [doReopen]

@[simp] theorem issued_mem (st j : Nat) (s : Sled) : (issued st j s).mem = s.mem := by
  unfold issued
  split <;> simp -implicitDefEqProofs

@[simp] theorem enterBcm_mem (p : Nat) (s : Sled) : (enterBcm p s).mem = s.mem := by
  simp -implicitDefEqProofs [enterBcm, apply_ite Sled.mem]

@[simp] theorem cmdIssue_mem (st : Nat) (chs : List Nat) (keys : List Nat) (n : Nat) (cmd : ChCmd) (s : Sled)
    :
    (cmdIssue st chs keys n cmd s).mem = s.mem := by
  simp -implicitDefEqProofs [cmdIssue, foldl_mem]

@[simp] theorem openGap_mem (ps : List Nat) (s : Sled) : (openGap ps s).mem = s.mem := by
  simp -implicitDefEqProofs [openGap, foldl_mem]

@[simp] theorem openRow_mem (st t : Nat) (row k : Nat) (s : Sled) : (openRow st t row k s).mem = s.mem := by
  simp -implicitDefEqProofs [openRow]

@[simp] theorem bankPush_mem (k : Nat) (c : BankCmd) (s : Sled) : (bankPush k c s).mem = s.mem := by
  simp -implicitDefEqProofs [bankPush]

@[simp] theorem bankTenant_mem (t k : Nat) (s : Sled) : (bankTenant t k s).mem = s.mem := by
  simp -implicitDefEqProofs [bankTenant]

@[simp] theorem bankBcw_mem (k : Nat) (d : BitVec 256) (po : Bool) (s : Sled) :
    (bankBcw k d po s).mem = s.mem := by
  simp -implicitDefEqProofs [bankBcw]

@[simp] theorem fxUrgencyRaise_mem (st c entry : Nat) (s : Sled) :
    (fxUrgencyRaise st c entry s).mem = s.mem := by
  unfold fxUrgencyRaise
  split <;> simp -implicitDefEqProofs

@[simp] theorem fxBatchWindowClose_mem (st c b : Nat) (s : Sled) :
    (fxBatchWindowClose st c b s).mem = s.mem := by
  simp -implicitDefEqProofs [fxBatchWindowClose, apply_ite Sled.mem]

@[simp] theorem fxRefreshOwedIncrement_mem (st c b : Nat) (s : Sled) :
    (fxRefreshOwedIncrement st c b s).mem = s.mem := by
  simp -implicitDefEqProofs [fxRefreshOwedIncrement, apply_ite Sled.mem]

@[simp] theorem mw5Set_mem (st c r : Nat) (f : Nat → Nat) (s : Sled) : (mw5Set st c r f s).mem = s.mem := by
  simp -implicitDefEqProofs [mw5Set]

@[simp] theorem fxCaparRecovWaitEnd_mem (st c : Nat) (s : Sled) :
    (fxCaparRecovWaitEnd st c s).mem = s.mem := by
  unfold fxCaparRecovWaitEnd
  split <;> simp -implicitDefEqProofs [apply_ite Sled.mem]

@[simp] theorem fxCaparReplayWindowEnd_mem (st c : Nat) (s : Sled) :
    (fxCaparReplayWindowEnd st c s).mem = s.mem := by
  unfold fxCaparReplayWindowEnd
  split <;> simp -implicitDefEqProofs [apply_ite Sled.mem]

@[simp] theorem fxTrainStepGo_mem (st c : Nat) (stp rank : Nat) (fin : Bool) (s : Sled) :
    (fxTrainStepGo st c stp rank fin s).mem = s.mem := by
  simp -implicitDefEqProofs [fxTrainStepGo, apply_ite Sled.mem]

@[simp] theorem chanUp_mem (st c : Nat) (s : Sled) : (chanUp st c s).mem = s.mem := by
  simp -implicitDefEqProofs [chanUp, apply_ite Sled.mem]

@[simp] theorem fxMcDlyDataWrite_mem (st taps : Nat) (s : Sled) :
    (fxMcDlyDataWrite st taps s).mem = s.mem := by
  simp -implicitDefEqProofs [fxMcDlyDataWrite, apply_ite Sled.mem]

@[simp] theorem fxRetrainPauseDue_mem (st c : Nat) (s : Sled) : (fxRetrainPauseDue st c s).mem = s.mem := by
  simp -implicitDefEqProofs [fxRetrainPauseDue, apply_ite Sled.mem, foldl_mem]

@[simp] theorem fxSpeedChangeRequest_mem (st bin : Nat) (s : Sled) :
    (fxSpeedChangeRequest st bin s).mem = s.mem := by
  simp -implicitDefEqProofs [fxSpeedChangeRequest, apply_ite Sled.mem]

@[simp] theorem mustReopen_mem (k : Nat) (s : Sled) : (mustReopen k s).mem = s.mem := by
  simp -implicitDefEqProofs [mustReopen, apply_ite Sled.mem]

@[simp] theorem chanSleeps_mem (st c : Nat) (s : Sled) : (chanSleeps st c s).mem = s.mem := by
  simp -implicitDefEqProofs [chanSleeps, foldl_mem]

@[simp] theorem fxSpeedChangeStart_mem (st : Nat) (s : Sled) : (fxSpeedChangeStart st s).mem = s.mem := by
  simp only [fxSpeedChangeStart]
  repeat' split
  all_goals simp -implicitDefEqProofs [foldl_mem]

@[simp] theorem speedEnd_mem (st : Nat) (s : Sled) : (speedEnd st s).mem = s.mem := by
  simp -implicitDefEqProofs [speedEnd, foldl_mem]

@[simp] theorem pllConfirmed_mem (st : Nat) (s : Sled) : (pllConfirmed st s).mem = s.mem := by
  simp only [pllConfirmed]
  repeat' split
  all_goals simp -implicitDefEqProofs [apply_ite Sled.mem, foldl_mem]

@[simp] theorem pllTimeout_mem (st : Nat) (s : Sled) : (pllTimeout st s).mem = s.mem := by
  unfold pllTimeout
  split <;> simp -implicitDefEqProofs [apply_ite Sled.mem]

@[simp] theorem fxBcsQdoor_mem (a : Agent) (st q v : Nat) (s : Sled) :
    (fxBcsQdoor a st q v s).mem = s.mem := by
  simp -implicitDefEqProofs [fxBcsQdoor, apply_ite Sled.mem]

@[simp] theorem fxBcsProgramStart_mem (st : Nat) (s : Sled) : (fxBcsProgramStart st s).mem = s.mem := by
  simp only [fxBcsProgramStart]
  repeat' split
  all_goals simp -implicitDefEqProofs

@[simp] theorem objProgress_mem (kind i : Nat) (s : Sled) : (objProgress kind i s).mem = s.mem := by
  unfold objProgress
  grind [foldl_mem, progress_mem]

@[simp] theorem ctrAdd_mem (w : Who) (i inc : Nat) (s : Sled) : (ctrAdd w i inc s).mem = s.mem := by
  simp -implicitDefEqProofs [ctrAdd, apply_ite Sled.mem]

@[simp] theorem ctrSignal_mem (w : Who) (i inc : Nat) (s : Sled) : (ctrSignal w i inc s).2.mem = s.mem := by
  simp only [ctrSignal]
  repeat' split
  all_goals simp -implicitDefEqProofs

@[simp] theorem fxBcw_mem (b : BankSel) (d : BitVec 256) (po : Bool) (s : Sled) :
    (fxBcw b d po s).mem = s.mem := by
  simp -implicitDefEqProofs [fxBcw, apply_ite Sled.mem, foldl_mem]

@[simp] theorem scrubSlots_mem (k n : Nat) (it : ScrubItem) (s : Sled) :
    (scrubSlots k n it s).mem = s.mem := by
  simp -implicitDefEqProofs [scrubSlots]

@[simp] theorem fxLayQcfgWrite_mem (a : Agent) (core q v : Nat) (s : Sled) :
    (fxLayQcfgWrite a core q v s).mem = s.mem := by
  simp -implicitDefEqProofs [fxLayQcfgWrite]

@[simp] theorem fxLayQtailDoorbell_mem (a : Agent) (core q tail : Nat) (s : Sled) :
    (fxLayQtailDoorbell a core q tail s).mem = s.mem := by
  simp -implicitDefEqProofs [fxLayQtailDoorbell]

@[simp] theorem errClear_mem (u q : Nat) (s : Sled) : (errClear u q s).mem = s.mem := by
  simp -implicitDefEqProofs [errClear]

@[simp] theorem fxLayQstatErrClear_mem (a : Agent) (core q : Nat) (s : Sled) :
    (fxLayQstatErrClear a core q s).mem = s.mem := by
  simp -implicitDefEqProofs [fxLayQstatErrClear]

@[simp] theorem takeSem_mem (k : WaitKind) (i : Nat) (n : ℤ) (s : Sled) : (takeSem k i n s).mem = s.mem := by
  unfold takeSem
  split <;> simp -implicitDefEqProofs

@[simp] theorem meetWait_mem (w : Wait) (s : Sled) : (meetWait w s).mem = s.mem := by
  simp only [meetWait]
  repeat' split
  all_goals simp -implicitDefEqProofs

@[simp] theorem pollWait_mem (w : Wait) (s : Sled) : (pollWait w s).mem = s.mem := by
  unfold pollWait
  split <;> simp -implicitDefEqProofs [apply_ite Sled.mem]

@[simp] theorem beginWait_mem (who : Who) (k : WaitKind) (i : Nat) (target : ℤ) (s : Sled) :
    (beginWait who k i target s).mem = s.mem := by
  simp -implicitDefEqProofs [beginWait]

@[simp] theorem startDesc_mem (u : Nat) (d : Desc) (s : Sled) : (startDesc u d s).mem = s.mem := by
  simp -implicitDefEqProofs [startDesc]

@[simp] theorem doStart_mem (u : Nat) (d : Desc) (s : Sled) : (doStart u d s).mem = s.mem := by
  simp -implicitDefEqProofs [doStart, apply_ite Sled.mem]

@[simp] theorem startQ_mem (u q : Nat) (s : Sled) : (startQ u q s).mem = s.mem := by
  simp only [startQ]
  repeat' split
  all_goals simp -implicitDefEqProofs

@[simp] theorem fxDescriptorStart_mem (u : QUnit) (s : Sled) : (fxDescriptorStart u s).mem = s.mem := by
  simp -implicitDefEqProofs [fxDescriptorStart]

@[simp] theorem dropDesc_mem (u id : Nat) (s : Sled) : (dropDesc u id s).mem = s.mem := by
  simp -implicitDefEqProofs [dropDesc]

@[simp] theorem sendActive_mem (tag : Nat) (o : Outst) (s : Sled) : (sendActive tag o s).mem = s.mem := by
  simp -implicitDefEqProofs [sendActive, apply_ite Sled.mem]

@[simp] theorem issue_mem (dest kind : Nat) (tenant addr arg : Nat) (data : List Byte) (pois : Nat) (cont :
    Cont) (rem : Nat) (s : Sled) :
    (issue dest kind tenant addr arg data pois cont rem s).mem = s.mem := by
  simp -implicitDefEqProofs [issue, apply_ite Sled.mem]

@[simp] theorem signalDesc_mem (u : Nat) (d : Desc) (s : Sled) : (signalDesc u d s).mem = s.mem := by
  unfold signalDesc
  grind [foldl_mem, dropDesc_mem, issue_mem, ctrSignal_mem, descStop_mem]

@[simp] theorem releaseStaging_mem (u id : Nat) (s : Sled) : (releaseStaging u id s).mem = s.mem := by
  simp -implicitDefEqProofs [releaseStaging, apply_ite Sled.mem]

@[simp] theorem fxDescriptorComplete_mem (u : QUnit) (k : Nat) (s : Sled) :
    (fxDescriptorComplete u k s).mem = s.mem := by
  unfold fxDescriptorComplete
  split <;> simp -implicitDefEqProofs [apply_ite Sled.mem]

@[simp] theorem onStarted_mem (u q k op : Nat) {f : Desc → Sled → Sled} (hf : ∀ d t, (f d t).mem = t.mem) (s :
    Sled) :
    (onStarted u q k op f s).mem = s.mem := by
  simp only [onStarted]
  split
  · simp -implicitDefEqProofs [apply_ite Sled.mem, hf]
  · rfl

@[simp] theorem opDone_mem (u id : Nat) (s : Sled) : (opDone u id s).mem = s.mem := by
  simp -implicitDefEqProofs [opDone]

@[simp] theorem runRows_mem (u : Nat) (d : Desc) {row : Nat → Sled → Bool × Sled} (hrow : ∀ r t, (row r
    t).2.mem = t.mem)
    (n r : Nat) (s : Sled) : (runRows u d row n r s).mem = s.mem := by
  induction n generalizing r s with
  | zero => simp -implicitDefEqProofs [runRows]
  | succ n ih =>
    rw [runRows]
    split
    next h => simp -implicitDefEqProofs [← hrow r s, h]
    next h => simp -implicitDefEqProofs [apply_ite Sled.mem, ih, ← hrow r s, h]

@[simp] theorem queueLocal_mem (id dst : Nat) (l : List (Byte × Bool)) (s : Sled) :
    (queueLocal id dst l s).mem = s.mem := by
  simp -implicitDefEqProofs [queueLocal]

@[simp] theorem logPoison_mem (u id : Nat) (s : Sled) : (logPoison u id s).mem = s.mem := by
  unfold logPoison
  split <;> simp -implicitDefEqProofs [apply_ite Sled.mem]

@[simp] theorem issueReduces_mem (fuel : Nat) (f : Fmt) (dest tenant addr : Nat) (l : List (Byte × Bool))
    (cont : Cont)
    (s : Sled) : (issueReduces fuel f dest tenant addr l cont s).mem = s.mem := by
  induction fuel generalizing addr l s with
  | zero => rfl
  | succ fuel ih => simp -implicitDefEqProofs [issueReduces, apply_ite Sled.mem, ih]

@[simp] theorem issueWrites_mem (fuel dest tenant addr : Nat) (l : List (Byte × Bool)) (cont : Cont) (s :
    Sled) :
    (issueWrites fuel dest tenant addr l cont s).mem = s.mem := by
  induction fuel generalizing addr l s with
  | zero => rfl
  | succ fuel ih => simp -implicitDefEqProofs [issueWrites, apply_ite Sled.mem, ih]

@[simp] theorem issueReads_mem (fuel dest tenant addr n dst id : Nat) (s : Sled) :
    (issueReads fuel dest tenant addr n dst id s).mem = s.mem := by
  induction fuel generalizing addr n dst s with
  | zero => rfl
  | succ fuel ih => simp -implicitDefEqProofs [issueReads, apply_ite Sled.mem, ih]

@[simp] theorem fxNop_mem (u : QUnit) (k : Nat) (s : Sled) : (fxNop u k s).mem = s.mem := by
  simp -implicitDefEqProofs [fxNop]

@[simp] theorem onEngine_mem (u q op : Nat) {f : Desc → Sled → Sled} (hf : ∀ d t, (f d t).mem = t.mem) (s :
    Sled) :
    (onEngine u q op f s).mem = s.mem := by
  unfold onEngine
  split
  · simp -implicitDefEqProofs [apply_ite Sled.mem, hf]
  · rfl

@[simp] theorem setLu_mem (core id : Nat) (r : LuRun) (s : Sled) : (setLu core id r s).mem = s.mem := by
  simp -implicitDefEqProofs [setLu]

@[simp] theorem luPause_mem (c : LuCtx) (d : Desc) (i : Nat) (r : LuRun) (s : Sled) :
    (luPause c d i r s).mem = s.mem := by
  simp -implicitDefEqProofs [luPause, apply_ite Sled.mem]

@[simp] theorem luRead_mem (c : LuCtx) (d : Desc) (o : LuIn) (r : LuRun) (s : Sled) :
    (luRead c d o r s).2.mem = s.mem := by
  simp -implicitDefEqProofs [luRead]

@[simp] theorem keepRead_mem (u : Nat) (d : Desc) (off : Nat) (l : List (Byte × Bool)) (s : Sled) :
    (keepRead u d off l s).mem = s.mem := by
  simp -implicitDefEqProofs [keepRead]

@[simp] theorem holdStaging_mem (core id : Nat) (s : Sled) : (holdStaging core id s).mem = s.mem := by
  simp -implicitDefEqProofs [holdStaging]

@[simp] theorem fxSeGo_mem (a : Agent) (core t entry : Nat) (s : Sled) :
    (fxSeGo a core t entry s).mem = s.mem := by
  simp -implicitDefEqProofs [fxSeGo]

@[simp] theorem fxSeStop_mem (a : Agent) (core : Nat) (s : Sled) : (fxSeStop a core s).mem = s.mem := by
  simp -implicitDefEqProofs [fxSeStop]

@[simp] theorem seIllegal_mem (c : Nat) (s : Sled) : (seIllegal c s).mem = s.mem := by
  simp -implicitDefEqProofs [seIllegal]

@[simp] theorem seAddrFault_mem (c a : Nat) (store : Bool) (s : Sled) :
    (seAddrFault c a store s).mem = s.mem := by
  simp -implicitDefEqProofs [seAddrFault]

@[simp] theorem stallSe_mem (w : Who) (s : Sled) : (stallSe w s).mem = s.mem := by
  simp -implicitDefEqProofs [stallSe, apply_ite Sled.mem]

@[simp] theorem seRemoteLoad_mem (c m : Nat) (rd f3 : Nat) (l n : Nat) (s : Sled) :
    (seRemoteLoad c m rd f3 l n s).mem = s.mem := by
  simp -implicitDefEqProofs [seRemoteLoad, apply_ite Sled.mem]

@[simp] theorem semAdd_mem (w : Who) (i : Nat) (x : ℤ) (s : Sled) : (semAdd w i x s).2.mem = s.mem := by
  simp only [semAdd]
  repeat' split
  all_goals simp -implicitDefEqProofs

@[simp] theorem syncAccess_mem (w : Who) (off acc x : Nat) (s : Sled) :
    (syncAccess w off acc x s).2.mem = s.mem := by
  unfold syncAccess
  grind [foldl_mem, logSync_mem, ctrSignal_mem, semAdd_mem, takeSem_mem, setSem_mem, setCtr_mem,
    logUnmapped_mem]

@[simp] theorem seSyncLoad_mem (c rd : Nat) (f3 off n : Nat) (s : Sled) :
    (seSyncLoad c rd f3 off n s).mem = s.mem := by
  unfold seSyncLoad
  grind [foldl_mem, setX_mem, logUnmapped_mem, syncAccess_mem, loadFail_mem]

@[simp] theorem regLoad_mem (a : Agent) (addr n : Nat) (s : Sled) : (regLoad a addr n s).2.mem = s.mem := by
  simp only [regLoad]
  repeat' split
  all_goals simp -implicitDefEqProofs

@[simp] theorem sePoison_mem (c a : Nat) (s : Sled) : (sePoison c a s).mem = s.mem := by
  simp -implicitDefEqProofs [sePoison]

@[simp] theorem seResult_mem (c rd : Nat) (f3 a : Nat) (l : List (Byte × Bool)) (s : Sled) :
    (seResult c rd f3 a l s).mem = s.mem := by
  simp -implicitDefEqProofs [seResult, apply_ite Sled.mem]

@[simp] theorem setLine_mem (c k : Nat) (x : Option Line) (s : Sled) : (setLine c k x s).mem = s.mem := by
  simp -implicitDefEqProofs [setLine]

@[simp] theorem dropLine_mem (c k : Nat) (s : Sled) : (dropLine c k s).mem = s.mem := by
  simp -implicitDefEqProofs [dropLine]

@[simp] theorem onStore_mem (a : Agent) (off : Nat) {f : Who → Sled → Sled} (hf : ∀ w t, (f w t).mem = t.mem)
    (s : Sled) :
    (onStore a off f s).mem = s.mem := by
  simp -implicitDefEqProofs [onStore, apply_ite Sled.mem, hf]

@[simp] theorem syncCmd_mem (a : Agent) (m off kind i x : Nat) (bad badValue : Bool) {here there : Who → Sled
    → Sled}
    (hhere : ∀ w t, (here w t).mem = t.mem) (hthere : ∀ w t, (there w t).mem = t.mem) (s : Sled) :
    (syncCmd a m off kind i x bad here badValue there s).mem = s.mem := by
  simp -implicitDefEqProofs [syncCmd, apply_ite Sled.mem, hhere, hthere]

@[simp] theorem sendSync_mem (m : Nat) (w : Who) (kind off : Nat) (acc arg x : Nat) (cont : Cont) (s : Sled) :
    (sendSync m w kind off acc arg x cont s).mem = s.mem := by
  simp -implicitDefEqProofs [sendSync]

@[simp] theorem fxCounterSignal_mem (a : Agent) (m i : Nat) (wide : Bool) (data : Nat) (s : Sled) :
    (fxCounterSignal a m i wide data s).mem = s.mem := by
  simp -implicitDefEqProofs [fxCounterSignal]

@[simp] theorem fxSemaphoreAdd_mem (a : Agent) (m i : Nat) (wide : Bool) (x : Nat) (s : Sled) :
    (fxSemaphoreAdd a m i wide x s).mem = s.mem := by
  simp -implicitDefEqProofs [fxSemaphoreAdd, apply_ite Sled.mem]

@[simp] theorem seRemoteStore_mem (c m : Nat) (l n v : Nat) (s : Sled) :
    (seRemoteStore c m l n v s).mem = s.mem := by
  simp -implicitDefEqProofs [seRemoteStore, apply_ite Sled.mem]

@[simp] theorem seSyncStore_mem (c off : Nat) (n v : Nat) (s : Sled) :
    (seSyncStore c off n v s).mem = s.mem := by
  simp -implicitDefEqProofs [seSyncStore, apply_ite Sled.mem]

@[simp] theorem onLine_mem (c a : Nat) {f : Nat → Sled → Sled} (hf : ∀ k t, (f k t).mem = t.mem) (s : Sled) :
    (onLine c a f s).mem = s.mem := by
  unfold onLine
  split
  · rfl
  · split
    · simp -implicitDefEqProofs [apply_ite Sled.mem, hf]
    · rfl

@[simp] theorem fxScInv_mem (c a : Nat) (s : Sled) : (fxScInv c a s).mem = s.mem := by
  simp -implicitDefEqProofs [fxScInv]

@[simp] theorem fxCounterAmoadd_mem (a : Agent) (m i x : Nat) (s : Sled) :
    (fxCounterAmoadd a m i x s).mem = s.mem := by
  unfold fxCounterAmoadd
  grind [foldl_mem, syncCmd_mem, ctrSignal_mem, returnVal_mem, sendSync_mem]

@[simp] theorem pollRemote_mem (w : Wait) (m : Nat) (s : Sled) : (pollRemote w m s).mem = s.mem := by
  simp -implicitDefEqProofs [pollRemote, apply_ite Sled.mem]

@[simp] theorem coreWait_mem (a : Agent) (m : Nat) (k : WaitKind) (i x : Nat) (bad : Bool) (target : ℤ) (s :
    Sled) :
    (coreWait a m k i x bad target s).mem = s.mem := by
  unfold coreWait
  split <;> simp -implicitDefEqProofs [apply_ite Sled.mem]

@[simp] theorem fxCounterWait_mem (a : Agent) (m i x : Nat) (s : Sled) :
    (fxCounterWait a m i x s).mem = s.mem := by
  simp -implicitDefEqProofs [fxCounterWait]

@[simp] theorem loadSlot_mem (w : Who) (sem : Bool) (i v : Nat) (s : Sled) :
    (loadSlot w sem i v s).mem = s.mem := by
  unfold loadSlot
  split <;> simp -implicitDefEqProofs

@[simp] theorem fxCounterRead_mem (a : Agent) (m i : Nat) (wide : Bool) (s : Sled) :
    (fxCounterRead a m i wide s).mem = s.mem := by
  simp -implicitDefEqProofs [fxCounterRead]

@[simp] theorem fxSemaphoreAmoadd_mem (a : Agent) (m i x : Nat) (s : Sled) :
    (fxSemaphoreAmoadd a m i x s).mem = s.mem := by
  unfold fxSemaphoreAmoadd
  grind [foldl_mem, syncCmd_mem, semAdd_mem, returnVal_mem, sendSync_mem]

@[simp] theorem fxSemaphoreWait_mem (a : Agent) (m i x : Nat) (s : Sled) :
    (fxSemaphoreWait a m i x s).mem = s.mem := by
  simp -implicitDefEqProofs [fxSemaphoreWait]

@[simp] theorem fxSemaphoreTake_mem (a : Agent) (m i x : Nat) (s : Sled) :
    (fxSemaphoreTake a m i x s).mem = s.mem := by
  simp -implicitDefEqProofs [fxSemaphoreTake]

@[simp] theorem fxSemaphoreRead_mem (a : Agent) (m i : Nat) (wide : Bool) (s : Sled) :
    (fxSemaphoreRead a m i wide s).mem = s.mem := by
  simp -implicitDefEqProofs [fxSemaphoreRead]

@[simp] theorem fxPeerMaskRead_mem (a : Agent) (m : Nat) (sem : Bool) (i : Nat) (s : Sled) :
    (fxPeerMaskRead a m sem i s).mem = s.mem := by
  unfold fxPeerMaskRead
  grind [foldl_mem, syncCmd_mem, loadFail_mem, logSync_mem, returnVal_mem, sendSync_mem]

@[simp] theorem fxPeerMaskWrite_mem (a : Agent) (m : Nat) (sem : Bool) (i mask : Nat) (s : Sled) :
    (fxPeerMaskWrite a m sem i mask s).mem = s.mem := by
  simp -implicitDefEqProofs [fxPeerMaskWrite, apply_ite Sled.mem]

@[simp] theorem fxWaitPoll_mem (k : Nat) (s : Sled) : (fxWaitPoll k s).mem = s.mem := by
  simp only [fxWaitPoll]
  repeat' split
  all_goals simp -implicitDefEqProofs

@[simp] theorem fxWaitTimeout_mem (k : Nat) (s : Sled) : (fxWaitTimeout k s).mem = s.mem := by
  unfold fxWaitTimeout
  split <;> simp -implicitDefEqProofs [apply_ite Sled.mem]

@[simp] theorem fxAlloc_mem (a : Agent) (sem : Bool) (i owner : Nat) (s : Sled) :
    (fxAlloc a sem i owner s).mem = s.mem := by
  simp -implicitDefEqProofs [fxAlloc]

@[simp] theorem fxSetval_mem (a : Agent) (sem : Bool) (i : Nat) (s : Sled) :
    (fxSetval a sem i s).mem = s.mem := by
  simp -implicitDefEqProofs [fxSetval]

@[simp] theorem fxFree_mem (a : Agent) (sem : Bool) (i : Nat) (s : Sled) :
    (fxFree a sem i s).mem = s.mem := by
  simp -implicitDefEqProofs [fxFree]

@[simp] theorem fxClrlost_mem (a : Agent) (sem : Bool) (i : Nat) (s : Sled) :
    (fxClrlost a sem i s).mem = s.mem := by
  simp -implicitDefEqProofs [fxClrlost]

@[simp] theorem fxAdminIgnoredAction_mem (a : Agent) (sem : Bool) (i : Nat) (action : Fin 4) (s : Sled) :
    (fxAdminIgnoredAction a sem i action s).mem = s.mem := by
  simp -implicitDefEqProofs [fxAdminIgnoredAction]

@[simp] theorem putStrm_mem (id : Nat) (t : Strm) (s : Sled) : (putStrm id t s).mem = s.mem := by
  simp -implicitDefEqProofs [putStrm]

@[simp] theorem endStrm_mem (id : Nat) (s : Sled) : (endStrm id s).mem = s.mem := by
  simp -implicitDefEqProofs [endStrm]

@[simp] theorem pauseEffect_mem (resume : Bool) (d : Desc) (t : Strm) (s : Sled) :
    (pauseEffect resume d t s).mem = s.mem := by
  simp -implicitDefEqProofs [pauseEffect]

@[simp] theorem fxLnkCtlEnWrite_mem (a : Agent) (l : Nat) (en : Bool) (s : Sled) :
    (fxLnkCtlEnWrite a l en s).mem = s.mem := by
  simp -implicitDefEqProofs [fxLnkCtlEnWrite]

@[simp] theorem whenS_mem (c : Sled → Bool) {f : Sled → Sled} (hf : ∀ t, (f t).mem = t.mem) (s : Sled) :
    (whenS c f s).mem = s.mem := by
  simp -implicitDefEqProofs [whenS, apply_ite Sled.mem, hf]

@[simp] theorem inState_mem (l st : Nat) {f : Sled → Sled} (hf : ∀ t, (f t).mem = t.mem) (s : Sled) :
    (inState l st f s).mem = s.mem := by
  simp -implicitDefEqProofs [inState, hf]

@[simp] theorem fxLinkDetectStart_mem (l : Nat) (s : Sled) : (fxLinkDetectStart l s).mem = s.mem := by
  simp -implicitDefEqProofs [fxLinkDetectStart]

@[simp] theorem fxLinkTerminationFound_mem (l : Nat) (s : Sled) :
    (fxLinkTerminationFound l s).mem = s.mem := by
  simp -implicitDefEqProofs [fxLinkTerminationFound]

@[simp] theorem linkDown_mem (l : Nat) (s : Sled) : (linkDown l s).mem = s.mem := by
  simp -implicitDefEqProofs [linkDown]

@[simp] theorem fxLinkTrained_mem (l : Nat) (r : LinkTrain) (s : Sled) :
    (fxLinkTrained l r s).mem = s.mem := by
  simp -implicitDefEqProofs [fxLinkTrained, apply_ite Sled.mem]

@[simp] theorem fxLinkAligned_mem (l : Nat) (s : Sled) : (fxLinkAligned l s).mem = s.mem := by
  simp -implicitDefEqProofs [fxLinkAligned]

@[simp] theorem linkProtocol_mem (l : Nat) (s : Sled) : (linkProtocol l s).mem = s.mem := by
  simp -implicitDefEqProofs [linkProtocol]

@[simp] theorem fxLinkConfigAgreed_mem (l : Nat) (o : LinkOffer) (s : Sled) :
    (fxLinkConfigAgreed l o s).mem = s.mem := by
  unfold fxLinkConfigAgreed
  grind [foldl_mem, inState_mem, updLnk_mem, linkProtocol_mem, nextFree_mem]

@[simp] theorem linkActive_mem (l : Nat) (s : Sled) : (linkActive l s).mem = s.mem := by
  simp -implicitDefEqProofs [linkActive]

@[simp] theorem fxLinkAuthVerified_mem (l : Nat) (m : AuthMsg) (s : Sled) :
    (fxLinkAuthVerified l m s).mem = s.mem := by
  simp -implicitDefEqProofs [fxLinkAuthVerified, apply_ite Sled.mem]

@[simp] theorem fxLinkDownRetry_mem (l : Nat) (s : Sled) : (fxLinkDownRetry l s).mem = s.mem := by
  simp -implicitDefEqProofs [fxLinkDownRetry]

@[simp] theorem sendFlit_mem (l type : Nat) (vc seq : Nat) (payload : List Byte) (s : Sled) :
    (sendFlit l type vc seq payload s).mem = s.mem := by
  simp -implicitDefEqProofs [sendFlit]

@[simp] theorem sendData_mem (l : Nat) (v : Fin 4) (s : Sled) : (sendData l v s).mem = s.mem := by
  simp -implicitDefEqProofs [sendData]

@[simp] theorem sendConfig_mem (l : Nat) (s : Sled) : (sendConfig l s).mem = s.mem := by
  simp -implicitDefEqProofs [sendConfig]

@[simp] theorem sendAuth_mem (l : Nat) (s : Sled) : (sendAuth l s).mem = s.mem := by
  simp -implicitDefEqProofs [sendAuth]

@[simp] theorem fxFlitTimeSend_mem (l : Nat) (s : Sled) : (fxFlitTimeSend l s).mem = s.mem := by
  simp only [fxFlitTimeSend]
  repeat' split
  all_goals simp -implicitDefEqProofs

@[simp] theorem flitLost_mem (l : Nat) (s : Sled) : (flitLost l s).mem = s.mem := by
  simp -implicitDefEqProofs [flitLost]

@[simp] theorem recvAck_mem (l ack : Nat) (s : Sled) : (recvAck l ack s).mem = s.mem := by
  simp only [recvAck]
  split <;> simp -implicitDefEqProofs [apply_ite Sled.mem]

@[simp] theorem recvCredit_mem (l : Nat) (v : Fin 4) (c : Nat) (s : Sled) :
    (recvCredit l v c s).mem = s.mem := by
  simp only [recvCredit]
  split <;> simp -implicitDefEqProofs [apply_ite Sled.mem]

@[simp] theorem recvAuth_mem (l : Nat) (p : List Byte) (s : Sled) : (recvAuth l p s).mem = s.mem := by
  simp -implicitDefEqProofs [recvAuth]

@[simp] theorem recvControl_mem (l : Nat) (p : List Byte) (s : Sled) : (recvControl l p s).mem = s.mem := by
  simp -implicitDefEqProofs [recvControl, apply_ite Sled.mem]

@[simp] theorem recvData_mem (l seq vc : Nat) (msgs : List Msg) (s : Sled) :
    (recvData l seq vc msgs s).mem = s.mem := by
  simp -implicitDefEqProofs [recvData, apply_ite Sled.mem]

@[simp] theorem recvNak_mem (l seq : Nat) (s : Sled) : (recvNak l seq s).mem = s.mem := by
  simp -implicitDefEqProofs [recvNak, apply_ite Sled.mem]

@[simp] theorem recvGood_mem (l : Nat) (f : Flit) (pois : List (BitVec 8)) (s : Sled) :
    (recvGood l f pois s).mem = s.mem := by
  simp -implicitDefEqProofs [recvGood, apply_ite Sled.mem, foldl_mem]

@[simp] theorem recvFlit_mem (l : Nat) (f : FlitIn) (s : Sled) : (recvFlit l f s).mem = s.mem := by
  simp only [recvFlit]
  repeat' split
  all_goals simp -implicitDefEqProofs

@[simp] theorem fxFecBlockReceive_mem (l : Nat) (lo : List (Fin 1088)) (hi : List (Fin 1088)) (flits : List
    FlitIn) (s : Sled) :
    (fxFecBlockReceive l lo hi flits s).mem = s.mem := by
  simp -implicitDefEqProofs [fxFecBlockReceive, apply_ite Sled.mem, foldl_mem]

@[simp] theorem forward_mem (l kind : Nat) (m : MsgIn) (inner : Option (Nat × MsgIn)) (s : Sled) :
    (forward l kind m inner s).mem = s.mem := by
  simp -implicitDefEqProofs [forward, apply_ite Sled.mem]

@[simp] theorem arrive_mem (l : LinkId) (kind : Nat) (m : MsgIn) {f : Sled → Sled} (hf : ∀ t, (f t).mem =
    t.mem) (s : Sled) :
    (arrive l kind m f s).mem = s.mem := by
  simp -implicitDefEqProofs [arrive, apply_ite Sled.mem, hf]

@[simp] theorem refuseMsg_mem (code : Nat) (m : MsgIn) (s : Sled) : (refuseMsg code m s).mem = s.mem := by
  simp -implicitDefEqProofs [refuseMsg]

@[simp] theorem readAnswers_mem (fuel : Nat) (m : MsgIn) (off : Nat) (l : List (Byte × Bool)) (s : Sled) :
    (readAnswers fuel m off l s).mem = s.mem := by
  induction fuel generalizing off l s with
  | zero => rfl
  | succ fuel ih => simp -implicitDefEqProofs [readAnswers, apply_ite Sled.mem, ih]

@[simp] theorem ackPrimary_mem (dest : Nat) (s : Sled) : (ackPrimary dest s).mem = s.mem := by
  simp -implicitDefEqProofs [ackPrimary, apply_ite Sled.mem]

@[simp] theorem fxFabSignal_mem (l : LinkId) (m : MsgIn) (s : Sled) : (fxFabSignal l m s).mem = s.mem := by
  unfold fxFabSignal
  grind [foldl_mem, arrive_mem, ctrSignal_mem, respond_mem, refuseMsg_mem]

@[simp] theorem fxSyncOp_mem (l : LinkId) (m : MsgIn) (s : Sled) : (fxSyncOp l m s).mem = s.mem := by
  refine arrive_mem l 7 m (fun t => ?_) s
  split
  · have hacc := syncAccess_mem (whoFabric l.val m) (m.addr.toNat - 0x8100000000) (bitsOf m.arg.toNat 0 4)
      (leNat (m.data.take 8)) t
    split
    next h => simp -implicitDefEqProofs [← hacc, h]
    next h => simp -implicitDefEqProofs [← hacc, h]
  · simp -implicitDefEqProofs

@[simp] theorem fxRefuse_mem (l : LinkId) (m : MsgIn) (s : Sled) : (fxRefuse l m s).mem = s.mem := by
  unfold fxRefuse
  grind [foldl_mem, arrive_mem, contFail_mem, closeTag_mem, ackPrimary_mem]

@[simp] theorem fxUnreach_mem (l : LinkId) (m : MsgIn) (kind : Nat) (inner : MsgIn) (s : Sled) :
    (fxUnreach l m kind inner s).mem = s.mem := by
  simp only [fxUnreach]
  repeat' split
  all_goals simp -implicitDefEqProofs

@[simp] theorem moduleGone_mem (isl n : Nat) (s : Sled) : (moduleGone isl n s).mem = s.mem := by
  simp -implicitDefEqProofs [moduleGone, apply_ite Sled.mem, foldl_mem]

@[simp] theorem fxLeave_mem (l : LinkId) (m : MsgIn) (s : Sled) : (fxLeave l m s).mem = s.mem := by
  simp -implicitDefEqProofs [fxLeave]

@[simp] theorem fxReservedKindMessage_mem (l : LinkId) (kind : Nat) (vc : Fin 4) (m : MsgIn) (s : Sled) :
    (fxReservedKindMessage l kind vc m s).mem = s.mem := by
  simp -implicitDefEqProofs [fxReservedKindMessage, apply_ite Sled.mem]

@[simp] theorem fxNakRepeatTimeout_mem (l : Nat) (s : Sled) : (fxNakRepeatTimeout l s).mem = s.mem := by
  simp -implicitDefEqProofs [fxNakRepeatTimeout]

@[simp] theorem replayAll_mem (l : Nat) (s : Sled) : (replayAll l s).mem = s.mem := by
  simp -implicitDefEqProofs [replayAll, apply_ite Sled.mem]

@[simp] theorem fxReplayAckTimeout_mem (l : Nat) (s : Sled) : (fxReplayAckTimeout l s).mem = s.mem := by
  simp -implicitDefEqProofs [fxReplayAckTimeout]

@[simp] theorem fxLnkRetrain_mem (a : Agent) (l : Nat) (s : Sled) : (fxLnkRetrain a l s).mem = s.mem := by
  simp -implicitDefEqProofs [fxLnkRetrain]

@[simp] theorem fxLaneLockLoss_mem (l i : Nat) (s : Sled) : (fxLaneLockLoss l i s).mem = s.mem := by
  simp -implicitDefEqProofs [fxLaneLockLoss, apply_ite Sled.mem]

@[simp] theorem fxLaneErrorWindow_mem (l i count : Nat) (s : Sled) :
    (fxLaneErrorWindow l i count s).mem = s.mem := by
  simp -implicitDefEqProofs [fxLaneErrorWindow, apply_ite Sled.mem]

@[simp] theorem linkResume_mem (l : Nat) (w : Option Bool) (s : Sled) : (linkResume l w s).mem = s.mem := by
  simp -implicitDefEqProofs [linkResume]

@[simp] theorem fxRecoverCheckEnd_mem (l : Nat) (lock : BitVec 8) (errors : List Nat) (s : Sled) :
    (fxRecoverCheckEnd l lock errors s).mem = s.mem := by
  simp -implicitDefEqProofs [fxRecoverCheckEnd, apply_ite Sled.mem]

@[simp] theorem fxRecoverTimeout_mem (l : Nat) (s : Sled) : (fxRecoverTimeout l s).mem = s.mem := by
  simp -implicitDefEqProofs [fxRecoverTimeout]

@[simp] theorem fxLinkLockLoss_mem (l : Nat) (s : Sled) : (fxLinkLockLoss l s).mem = s.mem := by
  simp -implicitDefEqProofs [fxLinkLockLoss, apply_ite Sled.mem]

@[simp] theorem fxAutoWidenTick_mem (l : Nat) (s : Sled) : (fxAutoWidenTick l s).mem = s.mem := by
  simp -implicitDefEqProofs [fxAutoWidenTick, apply_ite Sled.mem]

@[simp] theorem fxAutoWidenPass_mem (l : Nat) (s : Sled) : (fxAutoWidenPass l s).mem = s.mem := by
  simp -implicitDefEqProofs [fxAutoWidenPass, apply_ite Sled.mem]

@[simp] theorem fxFabricRequestTimeout_mem (tag : BitVec 16) (s : Sled) :
    (fxFabricRequestTimeout tag s).mem = s.mem := by
  simp only [fxFabricRequestTimeout]
  repeat' split
  all_goals simp -implicitDefEqProofs

@[simp] theorem fxRouteChangeSend_mem (n : BitVec 8) (s : Sled) : (fxRouteChangeSend n s).mem = s.mem := by
  simp -implicitDefEqProofs [fxRouteChangeSend, apply_ite Sled.mem, foldl_mem]

@[simp] theorem fxRouteReturnTimer_mem (n : BitVec 8) (s : Sled) : (fxRouteReturnTimer n s).mem = s.mem := by
  simp -implicitDefEqProofs [fxRouteReturnTimer, apply_ite Sled.mem]

@[simp] theorem fxModuleGoneTimeout_mem (n : BitVec 8) (s : Sled) :
    (fxModuleGoneTimeout n s).mem = s.mem := by
  simp -implicitDefEqProofs [fxModuleGoneTimeout, apply_ite Sled.mem]

@[simp] theorem complete_mem (fn status : Nat) (ep : Bool) (d : List Byte) (s : Sled) :
    (complete fn status ep d s).mem = s.mem := by
  simp -implicitDefEqProofs [complete]

@[simp] theorem aerSet_mem (fn b : Nat) (s : Sled) : (aerSet fn b s).mem = s.mem := by
  simp -implicitDefEqProofs [aerSet]

@[simp] theorem hostFail_mem (fn status : Nat) (posted : Bool) (s : Sled) :
    (hostFail fn status posted s).mem = s.mem := by
  simp -implicitDefEqProofs [hostFail, apply_ite Sled.mem]

@[simp] theorem vfConfigClear_mem (s : Sled) : (vfConfigClear s).mem = s.mem := by
  simp -implicitDefEqProofs [vfConfigClear, foldl_mem]

@[simp] theorem msixFlush_mem (fn : Nat) (s : Sled) : (msixFlush fn s).mem = s.mem := by
  simp -implicitDefEqProofs [msixFlush, apply_ite Sled.mem, foldl_mem]

@[simp] theorem fxHostConfigRequest_mem (fn : Nat) (op : CfgOp) (s : Sled) :
    (fxHostConfigRequest fn op s).mem = s.mem := by
  simp only [fxHostConfigRequest]
  repeat' split
  all_goals simp -implicitDefEqProofs

@[simp] theorem poisonIn_mem (fn : Nat) (s : Sled) : (poisonIn fn s).mem = s.mem := by
  simp -implicitDefEqProofs [poisonIn]

@[simp] theorem hostSync_mem (fn off : Nat) (acc x : Nat) (s : Sled) :
    (hostSync fn off acc x s).2.mem = s.mem := by
  unfold hostSync
  split <;> simp -implicitDefEqProofs

@[simp] theorem hostSyncWrite_mem (fn off : Nat) (d : List Byte) (s : Sled) :
    (hostSyncWrite fn off d s).mem = s.mem := by
  unfold hostSyncWrite
  grind [foldl_mem, hostSync_mem, hostFail_mem]

@[simp] theorem msixWrite_mem (fn i : Nat) (mask v : Nat) (s : Sled) :
    (msixWrite fn i mask v s).mem = s.mem := by
  simp -implicitDefEqProofs [msixWrite]

@[simp] theorem hdmWrite_mem (i mask v : Nat) (s : Sled) : (hdmWrite i mask v s).mem = s.mem := by
  simp -implicitDefEqProofs [hdmWrite, apply_ite Sled.mem]

@[simp] theorem setWatch_mem (k w : Nat) (x : Watch) (s : Sled) : (setWatch k w x s).mem = s.mem := by
  simp -implicitDefEqProofs [setWatch]

@[simp] theorem watchRead_mem (k w : Nat) (s : Sled) : (watchRead k w s).mem = s.mem := by
  simp -implicitDefEqProofs [watchRead, apply_ite Sled.mem]

@[simp] theorem watchWrite_mem (k w : Nat) (mask v : Nat) (s : Sled) :
    (watchWrite k w mask v s).mem = s.mem := by
  simp -implicitDefEqProofs [watchWrite]

@[simp] theorem rawBell_mem (k st v : Nat) (s : Sled) : (rawBell k st v s).mem = s.mem := by
  simp -implicitDefEqProofs [rawBell, apply_ite Sled.mem]

@[simp] theorem bar0Store_mem (fn off : Nat) (mask v : Nat) (s : Sled) :
    (bar0Store fn off mask v s).mem = s.mem := by
  simp only [bar0Store]
  repeat' split
  all_goals simp -implicitDefEqProofs

@[simp] theorem bar0Put_mem (fn fuel off : Nat) (l : List Byte) (s : Sled) :
    (bar0Put fn fuel off l s).mem = s.mem := by
  induction fuel generalizing off l s with
  | zero => rfl
  | succ fuel ih => simp -implicitDefEqProofs [bar0Put, apply_ite Sled.mem, ih]

@[simp] theorem hostHole_mem (fn off n : Nat) (s : Sled) : (hostHole fn off n s).mem = s.mem := by
  simp -implicitDefEqProofs [hostHole, apply_ite Sled.mem]

@[simp] theorem reachFault_mem (fn addr : Nat) (posted : Bool) (s : Sled) :
    (reachFault fn addr posted s).mem = s.mem := by
  simp -implicitDefEqProofs [reachFault]

@[simp] theorem hostSyncRead_mem (fn off n : Nat) (s : Sled) : (hostSyncRead fn off n s).mem = s.mem := by
  unfold hostSyncRead
  grind [foldl_mem, hostSync_mem, complete_mem, hostFail_mem]

@[simp] theorem rawStatus_mem (k st : Nat) (s : Sled) : (rawStatus k st s).2.mem = s.mem := by
  unfold rawStatus
  split <;> simp -implicitDefEqProofs

@[simp] theorem bar0Word_mem (fn off : Nat) (s : Sled) : (bar0Word fn off s).2.mem = s.mem := by
  unfold bar0Word
  grind [foldl_mem, rawStatus_mem]

@[simp] theorem bar0Bytes_mem (fn fuel off n : Nat) (s : Sled) :
    (bar0Bytes fn fuel off n s).2.mem = s.mem := by
  induction fuel generalizing off n s with
  | zero => rfl
  | succ fuel ih =>
    simp only [bar0Bytes]
    split
    · rfl
    · simp -implicitDefEqProofs [ih]

@[simp] theorem hostAtomic_mem (fn : Nat) (b : Bar) (off n : Nat) (acc x : Nat) (swap : Bool) (s : Sled) :
    (hostAtomic fn b off n acc x swap s).mem = s.mem := by
  unfold hostAtomic
  grind [foldl_mem, hostFail_mem, reachFault_mem, hostSync_mem, complete_mem]

@[simp] theorem fxFetchadd_mem (fn : Nat) (b : Bar) (off : Nat) (wide : Bool) (x : Nat) (s : Sled) :
    (fxFetchadd fn b off wide x s).mem = s.mem := by
  unfold fxFetchadd
  split <;> simp -implicitDefEqProofs

@[simp] theorem fxSwap_mem (fn : Nat) (b : Bar) (off : Nat) (wide : Bool) (x : Nat) (s : Sled) :
    (fxSwap fn b off wide x s).mem = s.mem := by
  unfold fxSwap
  split <;> simp -implicitDefEqProofs

@[simp] theorem fxCas_mem (fn : Nat) (s : Sled) : (fxCas fn s).mem = s.mem := by
  simp only [fxCas]
  repeat' split
  all_goals simp -implicitDefEqProofs

@[simp] theorem fxWatchArm_mem (k w : Nat) (counter target : Nat) (arm : Bool) (s : Sled) :
    (fxWatchArm k w counter target arm s).mem = s.mem := by
  simp only [fxWatchArm]
  repeat' split
  all_goals simp -implicitDefEqProofs

@[simp] theorem fxWatchPoll_mem (k w : Nat) (s : Sled) : (fxWatchPoll k w s).mem = s.mem := by
  simp -implicitDefEqProofs [fxWatchPoll, apply_ite Sled.mem]

@[simp] theorem fxRawDoorbell_mem (k st v : Nat) (s : Sled) : (fxRawDoorbell k st v s).mem = s.mem := by
  simp only [fxRawDoorbell]
  repeat' split
  all_goals simp -implicitDefEqProofs

@[simp] theorem fxRawDoorbellStatusRead_mem (k st : Nat) (s : Sled) :
    (fxRawDoorbellStatusRead k st s).mem = s.mem := by
  simp only [fxRawDoorbellStatusRead]
  repeat' split
  all_goals simp -implicitDefEqProofs

@[simp] theorem fxCxlMailboxCommand_mem (c : MboxCmd) (s : Sled) : (fxCxlMailboxCommand c s).mem = s.mem := by
  simp only [fxCxlMailboxCommand]
  repeat' split
  all_goals simp -implicitDefEqProofs

@[simp] theorem reportLost_mem (s : Sled) : (reportLost s).mem = s.mem := by
  simp -implicitDefEqProofs [reportLost, apply_ite Sled.mem]

@[simp] theorem dropCtl_mem (s : Sled) : (dropCtl s).mem = s.mem := by
  simp -implicitDefEqProofs [dropCtl]

@[simp] theorem fxKeeperRecordMove_mem (i : Nat) (s : Sled) : (fxKeeperRecordMove i s).mem = s.mem := by
  unfold fxKeeperRecordMove
  split <;> simp -implicitDefEqProofs [apply_ite Sled.mem]

@[simp] theorem fxSpareEnd_mem (st : Nat) (s : Sled) : (fxSpareEnd st s).mem = s.mem := by
  simp -implicitDefEqProofs [fxSpareEnd, apply_ite Sled.mem]

@[simp] theorem noteWait_mem (st c b : Nat) (s : Sled) : (noteWait st c b s).mem = s.mem := by
  simp -implicitDefEqProofs [noteWait, apply_ite Sled.mem]

@[simp] theorem moveReqs_mem (st c : Nat) (r k : Nat) (s : Sled) : (moveReqs st c r k s).mem = s.mem := by
  simp -implicitDefEqProofs [moveReqs]

@[simp] theorem cutChannel_mem (st c : Nat) (m : Mig) (s : Sled) : (cutChannel st c m s).mem = s.mem := by
  simp -implicitDefEqProofs [cutChannel, apply_ite Sled.mem, foldl_mem]

@[simp] theorem fxSpareMapCommit_mem (st : Nat) (s : Sled) : (fxSpareMapCommit st s).mem = s.mem := by
  unfold fxSpareMapCommit
  split <;> simp -implicitDefEqProofs [apply_ite Sled.mem]

@[simp] theorem fxRescueDmaGo_mem (n src : Nat) (dst len : Nat) (fill sig : Bool) (s : Sled) :
    (fxRescueDmaGo n src dst len fill sig s).mem = s.mem := by
  simp -implicitDefEqProofs [fxRescueDmaGo, apply_ite Sled.mem]

@[simp] theorem sensorNext_mem (s : Sled) : (sensorNext s).mem = s.mem := by
  simp -implicitDefEqProofs [sensorNext]

@[simp] theorem updSensor_mem (i : Nat) (f : Sensor → Sensor) (s : Sled) : (updSensor i f s).mem = s.mem := by
  simp -implicitDefEqProofs [updSensor]

@[simp] theorem setFast_mem (i : Nat) (on : Bool) (s : Sled) : (setFast i on s).mem = s.mem := by
  unfold setFast
  split <;> simp -implicitDefEqProofs

@[simp] theorem sensorBreaks_mem (i : Nat) (s : Sled) : (sensorBreaks i s).mem = s.mem := by
  simp -implicitDefEqProofs [sensorBreaks, apply_ite Sled.mem]

@[simp] theorem sensorStale_mem (i : Nat) (s : Sled) : (sensorStale i s).mem = s.mem := by
  simp -implicitDefEqProofs [sensorStale, apply_ite Sled.mem]

@[simp] theorem withLevels_mem {f : Sled → Sled} (hf : ∀ t, (f t).mem = t.mem) (s : Sled) :
    (withLevels f s).mem = s.mem := by
  simp -implicitDefEqProofs [withLevels, apply_ite Sled.mem, foldl_mem, hf]

@[simp] theorem setStep_mem (n : Nat) (s : Sled) : (setStep n s).mem = s.mem := by
  simp -implicitDefEqProofs [setStep, apply_ite Sled.mem]

@[simp] theorem fxPowerSample_mem (watts : Nat) (s : Sled) : (fxPowerSample watts s).mem = s.mem := by
  simp -implicitDefEqProofs [fxPowerSample, apply_ite Sled.mem]

@[simp] theorem fxPausePeriodStart_mem (st c : Nat) (s : Sled) : (fxPausePeriodStart st c s).mem = s.mem := by
  simp -implicitDefEqProofs [fxPausePeriodStart, apply_ite Sled.mem]

@[simp] theorem fxThmLimitWrite_mem (a : Agent) (v : Nat) (s : Sled) :
    (fxThmLimitWrite a v s).mem = s.mem := by
  simp -implicitDefEqProofs [fxThmLimitWrite]

@[simp] theorem reply_mem (t : Transport) (proto cmd code : Nat) (body : List Byte) (s : Sled) :
    (reply t proto cmd code body s).mem = s.mem := by
  simp -implicitDefEqProofs [reply]

@[simp] theorem fxGetIdentity_mem (t : Transport) (s : Sled) : (fxGetIdentity t s).mem = s.mem := by
  simp -implicitDefEqProofs [fxGetIdentity, apply_ite Sled.mem]

@[simp] theorem kprCmd_mem (t : Transport) (cmd : Nat) {f : Sled → (Nat × List Byte) × Sled}
    (hf : ∀ u, (f u).2.mem = u.mem) (s : Sled) : (kprCmd t cmd f s).mem = s.mem := by
  simp -implicitDefEqProofs [kprCmd, apply_ite Sled.mem, hf]

@[simp] theorem fxGetStatus_mem (t : Transport) (s : Sled) : (fxGetStatus t s).mem = s.mem := by
  simp -implicitDefEqProofs [fxGetStatus]

@[simp] theorem fxReadLog_mem (t : Transport) (q : Nat) (s : Sled) : (fxReadLog t q s).mem = s.mem := by
  simp -implicitDefEqProofs [fxReadLog]

@[simp] theorem fxClearFault_mem (t : Transport) (s : Sled) : (fxClearFault t s).mem = s.mem := by
  simp -implicitDefEqProofs [fxClearFault]

@[simp] theorem fxLocate_mem (t : Transport) (on : Bool) (s : Sled) : (fxLocate t on s).mem = s.mem := by
  simp -implicitDefEqProofs [fxLocate]

@[simp] theorem rangeCheck_mem (s : Sled) : (rangeCheck s).mem = s.mem := by
  simp only [rangeCheck]
  repeat' split
  all_goals simp -implicitDefEqProofs

@[simp] theorem fxSetCap_mem (t : Transport) (watts : Nat) (s : Sled) : (fxSetCap t watts s).mem = s.mem := by
  unfold fxSetCap
  split <;> simp -implicitDefEqProofs

@[simp] theorem fxSetOverride_mem (t : Transport) (p : Nat) (s : Sled) :
    (fxSetOverride t p s).mem = s.mem := by
  unfold fxSetOverride
  grind [foldl_mem, kprCmd_mem]

@[simp] theorem kprCmdC_mem (t : Transport) (cmd : Nat) {f : Sled → (Nat × List Byte) × Sled}
    (hf : ∀ u, (f u).2.mem = u.mem) (s : Sled) : (kprCmdC t cmd f s).mem = s.mem := by
  have hguard : ∀ u : Sled, (if u.kpr.tier ≠ 2 then ((codeTier, ([] : List Byte)), u) else f u).2.mem = u.mem
    := fun u => by
    split
    · rfl
    · exact hf u
  exact kprCmd_mem t cmd hguard s

@[simp] theorem fxKeeperResetCore_mem (t : Transport) (core : Nat) (s : Sled) :
    (fxKeeperResetCore t core s).mem = s.mem := by
  unfold fxKeeperResetCore
  grind [foldl_mem, kprCmdC_mem, coreResetBegin_mem, setCause_mem]

@[simp] theorem kprCmdRails_mem (t : Transport) (cmd : Nat) {f : Sled → (Nat × List Byte) × Sled}
    (hf : ∀ u, (f u).2.mem = u.mem) (s : Sled) : (kprCmdRails t cmd f s).mem = s.mem := by
  have hguard : ∀ u : Sled, (if u.plat.rails ≠ .up then ((codeTier, ([] : List Byte)), u) else f u).2.mem =
    u.mem := fun u => by
    split
    · rfl
    · exact hf u
  exact kprCmd_mem t cmd hguard s

@[simp] theorem forceSemOp_mem (i : Nat) (v : ℤ) (s : Sled) : (forceSemOp i v s).mem = s.mem := by
  simp -implicitDefEqProofs [forceSemOp, apply_ite Sled.mem, foldl_mem]

@[simp] theorem fxForceSem_mem (t : Transport) (i v : Nat) (s : Sled) : (fxForceSem t i v s).mem = s.mem := by
  unfold fxForceSem
  grind [foldl_mem, kprCmdRails_mem, forceSemOp_mem]

@[simp] theorem fxRescueDma_mem (t : Transport) (n src : Nat) (dst len : Nat) (fill sig : Bool) (s : Sled) :
    (fxRescueDma t n src dst len fill sig s).mem = s.mem := by
  unfold fxRescueDma
  grind [foldl_mem, kprCmdRails_mem, fxRescueDmaGo_mem]

@[simp] theorem fxSpareMapRead_mem (t : Transport) (s : Sled) : (fxSpareMapRead t s).mem = s.mem := by
  simp -implicitDefEqProofs [fxSpareMapRead]

@[simp] theorem fxSpareMapClear_mem (t : Transport) (k : Nat) (s : Sled) :
    (fxSpareMapClear t k s).mem = s.mem := by
  unfold fxSpareMapClear
  grind [foldl_mem, kprCmd_mem]

@[simp] theorem fxReadReg_mem (t : Transport) (addr : Nat) (s : Sled) : (fxReadReg t addr s).mem = s.mem := by
  unfold fxReadReg
  split <;> simp -implicitDefEqProofs

@[simp] theorem fxRollback_mem (t : Transport) (c : Component) (s : Sled) :
    (fxRollback t c s).mem = s.mem := by
  unfold fxRollback
  grind [foldl_mem, kprCmd_mem, dirWrite_mem]

@[simp] theorem keeperRestartBegin_mem (s : Sled) : (keeperRestartBegin s).mem = s.mem := by
  simp -implicitDefEqProofs [keeperRestartBegin, apply_ite Sled.mem]

@[simp] theorem fxKeeperRestart_mem (t : Transport) (s : Sled) : (fxKeeperRestart t s).mem = s.mem := by
  simp -implicitDefEqProofs [fxKeeperRestart, apply_ite Sled.mem]

@[simp] theorem fxUnknownCommand_mem (t : Transport) (code : Nat) (s : Sled) :
    (fxUnknownCommand t code s).mem = s.mem := by
  simp -implicitDefEqProofs [fxUnknownCommand, apply_ite Sled.mem]

@[simp] theorem mctp_mem (t : Transport) (cmd : Nat) {f : Sled → (Nat × List Byte) × Sled}
    (hf : ∀ u, (f u).2.mem = u.mem) (s : Sled) : (mctp t cmd f s).mem = s.mem := by
  simp -implicitDefEqProofs [mctp, apply_ite Sled.mem, hf]

@[simp] theorem fxSetEndpointId_mem (t : Transport) (eid : Nat) (s : Sled) :
    (fxSetEndpointId t eid s).mem = s.mem := by
  unfold fxSetEndpointId
  split <;> simp -implicitDefEqProofs

@[simp] theorem fxGetEndpointId_mem (t : Transport) (s : Sled) : (fxGetEndpointId t s).mem = s.mem := by
  simp -implicitDefEqProofs [fxGetEndpointId]

@[simp] theorem fxGetMctpVersionSupport_mem (t : Transport) (s : Sled) :
    (fxGetMctpVersionSupport t s).mem = s.mem := by
  simp -implicitDefEqProofs [fxGetMctpVersionSupport]

@[simp] theorem fxGetMessageTypeSupport_mem (t : Transport) (s : Sled) :
    (fxGetMessageTypeSupport t s).mem = s.mem := by
  simp -implicitDefEqProofs [fxGetMessageTypeSupport]

@[simp] theorem fxGetVendorDefinedMsgSupport_mem (t : Transport) (s : Sled) :
    (fxGetVendorDefinedMsgSupport t s).mem = s.mem := by
  simp -implicitDefEqProofs [fxGetVendorDefinedMsgSupport]

@[simp] theorem pldm_mem (t : Transport) (type cmd : Nat) {f : Sled → (Nat × List Byte) × Sled}
    (hf : ∀ u, (f u).2.mem = u.mem) (s : Sled) : (pldm t type cmd f s).mem = s.mem := by
  simp -implicitDefEqProofs [pldm, apply_ite Sled.mem, hf]

@[simp] theorem fxGetTid_mem (t : Transport) (s : Sled) : (fxGetTid t s).mem = s.mem := by
  simp -implicitDefEqProofs [fxGetTid]

@[simp] theorem fxSetTid_mem (t : Transport) (tid : Nat) (s : Sled) : (fxSetTid t tid s).mem = s.mem := by
  unfold fxSetTid
  split <;> simp -implicitDefEqProofs

@[simp] theorem fxGetPldmVersion_mem (t : Transport) (s : Sled) : (fxGetPldmVersion t s).mem = s.mem := by
  simp -implicitDefEqProofs [fxGetPldmVersion]

@[simp] theorem fxGetPldmTypes_mem (t : Transport) (s : Sled) : (fxGetPldmTypes t s).mem = s.mem := by
  simp -implicitDefEqProofs [fxGetPldmTypes]

@[simp] theorem fxGetPldmCommands_mem (t : Transport) (type : Nat) (s : Sled) :
    (fxGetPldmCommands t type s).mem = s.mem := by
  unfold fxGetPldmCommands
  split <;> simp -implicitDefEqProofs

@[simp] theorem fxGetPdrRepositoryInfo_mem (t : Transport) (s : Sled) :
    (fxGetPdrRepositoryInfo t s).mem = s.mem := by
  simp -implicitDefEqProofs [fxGetPdrRepositoryInfo]

@[simp] theorem fxGetPdr_mem (t : Transport) (h : Nat) (s : Sled) : (fxGetPdr t h s).mem = s.mem := by
  unfold fxGetPdr
  split <;> simp -implicitDefEqProofs

@[simp] theorem fxGetSensorReading_mem (t : Transport) (id : Nat) (s : Sled) :
    (fxGetSensorReading t id s).mem = s.mem := by
  simp only [fxGetSensorReading]
  repeat' split
  all_goals simp -implicitDefEqProofs

@[simp] theorem fxGetStateSensorReadings_mem (t : Transport) (id : Nat) (s : Sled) :
    (fxGetStateSensorReadings t id s).mem = s.mem := by
  unfold fxGetStateSensorReadings
  split <;> simp -implicitDefEqProofs

@[simp] theorem fxSetEventReceiver_mem (t : Transport) (on : Bool) (eid : Nat) (s : Sled) :
    (fxSetEventReceiver t on eid s).mem = s.mem := by
  simp -implicitDefEqProofs [fxSetEventReceiver]

@[simp] theorem fxQueryDeviceIdentifiers_mem (t : Transport) (s : Sled) :
    (fxQueryDeviceIdentifiers t s).mem = s.mem := by
  simp -implicitDefEqProofs [fxQueryDeviceIdentifiers]

@[simp] theorem fxGetFirmwareParameters_mem (t : Transport) (s : Sled) :
    (fxGetFirmwareParameters t s).mem = s.mem := by
  simp -implicitDefEqProofs [fxGetFirmwareParameters]

@[simp] theorem setSession_mem (x : Session) (s : Sled) : (setSession x s).mem = s.mem := by
  simp -implicitDefEqProofs [setSession]

@[simp] theorem fxRequestUpdate_mem (t : Transport) (s : Sled) : (fxRequestUpdate t s).mem = s.mem := by
  unfold fxRequestUpdate
  grind [foldl_mem, pldm_mem, setSession_mem]

@[simp] theorem fxPassComponentTable_mem (t : Transport) (c : Component) (s : Sled) :
    (fxPassComponentTable t c s).mem = s.mem := by
  unfold fxPassComponentTable
  grind [foldl_mem, pldm_mem, setSession_mem]

@[simp] theorem fxUpdateComponent_mem (t : Transport) (c : Component) (size : Nat) (img : UpdImage) (s : Sled)
    :
    (fxUpdateComponent t c size img s).mem = s.mem := by
  unfold fxUpdateComponent
  grind [foldl_mem, pldm_mem, emit_mem, setSession_mem]

@[simp] theorem fxRequestFirmwareData_mem (t : Transport) (len : Nat) (s : Sled) :
    (fxRequestFirmwareData t len s).mem = s.mem := by
  unfold fxRequestFirmwareData
  split <;> simp -implicitDefEqProofs [apply_ite Sled.mem]

@[simp] theorem fxActivateFirmware_mem (t : Transport) (s : Sled) : (fxActivateFirmware t s).mem = s.mem := by
  simp only [fxActivateFirmware]
  repeat' split
  all_goals simp -implicitDefEqProofs

@[simp] theorem fxPldmGetStatus_mem (t : Transport) (s : Sled) : (fxPldmGetStatus t s).mem = s.mem := by
  unfold fxPldmGetStatus
  grind [foldl_mem, pldm_mem]

@[simp] theorem dropPieces_mem (s : Sled) : (dropPieces s).mem = s.mem := by
  simp -implicitDefEqProofs [dropPieces]

@[simp] theorem fxCancelUpdateComponent_mem (t : Transport) (s : Sled) :
    (fxCancelUpdateComponent t s).mem = s.mem := by
  unfold fxCancelUpdateComponent
  grind [foldl_mem, pldm_mem, dropPieces_mem, setSession_mem]

@[simp] theorem fxCancelUpdate_mem (t : Transport) (s : Sled) : (fxCancelUpdate t s).mem = s.mem := by
  unfold fxCancelUpdate
  grind [foldl_mem, pldm_mem, dropPieces_mem]

@[simp] theorem spdm_mem (t : Transport) (cmd : Nat) {f : Sled → Option (List Byte × Sled)}
    (hf : ∀ u r, f u = some r → r.2.mem = u.mem) (s : Sled) : (spdm t cmd f s).mem = s.mem := by
  unfold spdm
  split
  · rfl
  · split
    next h => simpa -implicitDefEqProofs using hf _ _ h
    next => simp -implicitDefEqProofs

@[simp] theorem setSpdm_mem (n : Nat) (s : Sled) : (setSpdm n s).mem = s.mem := by
  simp -implicitDefEqProofs [setSpdm]

@[simp] theorem fxGetVersion_mem (t : Transport) (s : Sled) : (fxGetVersion t s).mem = s.mem := by
  simp -implicitDefEqProofs [fxGetVersion]

@[simp] theorem fxGetCapabilities_mem (t : Transport) (s : Sled) : (fxGetCapabilities t s).mem = s.mem := by
  simp -implicitDefEqProofs [fxGetCapabilities]

@[simp] theorem fxNegotiateAlgorithms_mem (t : Transport) (ecdsa sha : Bool) (s : Sled) :
    (fxNegotiateAlgorithms t ecdsa sha s).mem = s.mem := by
  unfold fxNegotiateAlgorithms
  grind [foldl_mem, spdm_mem, setSpdm_mem]

@[simp] theorem fxGetDigests_mem (t : Transport) (s : Sled) : (fxGetDigests t s).mem = s.mem := by
  simp -implicitDefEqProofs [fxGetDigests]

@[simp] theorem fxGetCertificate_mem (t : Transport) (slot off len : Nat) (s : Sled) :
    (fxGetCertificate t slot off len s).mem = s.mem := by
  simp -implicitDefEqProofs [fxGetCertificate]

@[simp] theorem fxChallenge_mem (t : Transport) (slot nonce : Nat) (s : Sled) :
    (fxChallenge t slot nonce s).mem = s.mem := by
  simp -implicitDefEqProofs [fxChallenge]

@[simp] theorem fxGetMeasurements_mem (t : Transport) (i nonce : Nat) (s : Sled) :
    (fxGetMeasurements t i nonce s).mem = s.mem := by
  simp -implicitDefEqProofs [fxGetMeasurements]

@[simp] theorem fxHostLinkUp_mem (speed width : Nat) (flit : Bool) (s : Sled) :
    (fxHostLinkUp speed width flit s).mem = s.mem := by
  simp -implicitDefEqProofs [fxHostLinkUp, apply_ite Sled.mem]

@[simp] theorem fxTenantResetDone_mem (t : Nat) (s : Sled) : (fxTenantResetDone t s).mem = s.mem := by
  simp -implicitDefEqProofs [fxTenantResetDone, apply_ite Sled.mem]

@[simp] theorem fxCoreResetDone_mem (core : Nat) (s : Sled) : (fxCoreResetDone core s).mem = s.mem := by
  simp -implicitDefEqProofs [fxCoreResetDone, apply_ite Sled.mem]

@[simp] theorem fxEntdaa_mem (addr : Nat) (s : Sled) : (fxEntdaa addr s).mem = s.mem := by
  simp -implicitDefEqProofs [fxEntdaa, apply_ite Sled.mem]

@[simp] theorem aonRise_mem (s : Sled) : (aonRise s).mem = s.mem := by
  simp -implicitDefEqProofs [aonRise, apply_ite Sled.mem]

@[simp] theorem fxModResetNDeassert_mem (s : Sled) : (fxModResetNDeassert s).mem = s.mem := by
  simp -implicitDefEqProofs [fxModResetNDeassert, apply_ite Sled.mem]

@[simp] theorem railsStart_mem (s : Sled) : (railsStart s).mem = s.mem := by
  simp -implicitDefEqProofs [railsStart, apply_ite Sled.mem]

@[simp] theorem logPut_mem (e : LogEnt) (s : Sled) : (logPut e s).mem = s.mem := by
  simp -implicitDefEqProofs [logPut, apply_ite Sled.mem]

@[simp] theorem holdCommit_mem (r : Rec) (s : Sled) : (holdCommit r s).mem = s.mem := by
  simp -implicitDefEqProofs [holdCommit, apply_ite Sled.mem]

@[simp] theorem narrowRegs_mem (blk : Nat) (s : Sled) : (narrowRegs blk s).mem = s.mem := by
  simp -implicitDefEqProofs [narrowRegs]

@[simp] theorem hostReset_mem (s : Sled) : (hostReset s).mem = s.mem := by
  simp -implicitDefEqProofs [hostReset]

@[simp] theorem fxPerstNAssert_mem (s : Sled) : (fxPerstNAssert s).mem = s.mem := by
  simp -implicitDefEqProofs [fxPerstNAssert, apply_ite Sled.mem]

@[simp] theorem fxPerstNDeassert_mem (s : Sled) : (fxPerstNDeassert s).mem = s.mem := by
  simp -implicitDefEqProofs [fxPerstNDeassert, apply_ite Sled.mem]

@[simp] theorem drainLink_mem (l fuel : Nat) (s : Sled) : (drainLink l fuel s).mem = s.mem := by
  induction fuel generalizing s with
  | zero => rfl
  | succ fuel ih => simp -implicitDefEqProofs [drainLink, apply_ite Sled.mem, ih]

@[simp] theorem linksLeave_mem (s : Sled) : (linksLeave s).mem = s.mem := by
  simp -implicitDefEqProofs [linksLeave, apply_ite Sled.mem, foldl_mem]

@[simp] theorem fxQuiesceSafeToRemove_mem (s : Sled) : (fxQuiesceSafeToRemove s).mem = s.mem := by
  simp -implicitDefEqProofs [fxQuiesceSafeToRemove, apply_ite Sled.mem]

@[simp] theorem fxInputLowTimeout_mem (s : Sled) : (fxInputLowTimeout s).mem = s.mem := by
  simp -implicitDefEqProofs [fxInputLowTimeout, apply_ite Sled.mem]

@[simp] theorem fxInputLowRecover_mem (s : Sled) : (fxInputLowRecover s).mem = s.mem := by
  simp -implicitDefEqProofs [fxInputLowRecover, apply_ite Sled.mem]

@[simp] theorem seven_mem {f : Sled → Sled} (hf : ∀ t, (f t).mem = t.mem) (s : Sled) :
    (seven f s).mem = s.mem := by
  simp -implicitDefEqProofs [seven, foldl_mem, hf]

@[simp] theorem railRise_mem (s : Sled) : (railRise s).mem = s.mem := by
  simp -implicitDefEqProofs [railRise, apply_ite Sled.mem]

@[simp] theorem fxMainRailsInRegulation_mem (s : Sled) : (fxMainRailsInRegulation s).mem = s.mem := by
  simp -implicitDefEqProofs [fxMainRailsInRegulation, apply_ite Sled.mem, foldl_mem]

@[simp] theorem keeperRecovers_mem (s : Sled) : (keeperRecovers s).mem = s.mem := by
  simp -implicitDefEqProofs [keeperRecovers]

@[simp] theorem keeperTrial_mem (s : Sled) : (keeperTrial s).mem = s.mem := by
  simp -implicitDefEqProofs [keeperTrial, apply_ite Sled.mem]

@[simp] theorem keeperRuns_mem (slot : Nat) (s : Sled) : (keeperRuns slot s).mem = s.mem := by
  simp -implicitDefEqProofs [keeperRuns, apply_ite Sled.mem]

@[simp] theorem fxKeeperRailEnable_mem (s : Sled) : (fxKeeperRailEnable s).mem = s.mem := by
  simp -implicitDefEqProofs [fxKeeperRailEnable, apply_ite Sled.mem]

@[simp] theorem takeOverride_mem (s : Sled) : (takeOverride s).mem = s.mem := by
  unfold takeOverride
  split <;> simp -implicitDefEqProofs

@[simp] theorem startProfile_mem (n c : Nat) (p : Ppi) (s : Sled) : (startProfile n c p s).mem = s.mem := by
  simp -implicitDefEqProofs [startProfile, apply_ite Sled.mem, foldl_mem]

@[simp] theorem ppiBad_mem (n c reason : Nat) (s : Sled) : (ppiBad n c reason s).mem = s.mem := by
  simp -implicitDefEqProofs [ppiBad]

@[simp] theorem chanEnd_mem (st c : Nat) (s : Sled) : (chanEnd st c s).mem = s.mem := by
  simp -implicitDefEqProofs [chanEnd, apply_ite Sled.mem]

@[simp] theorem lockMapping_mem (s : Sled) : (lockMapping s).mem = s.mem := by
  simp -implicitDefEqProofs [lockMapping, apply_ite Sled.mem, foldl_mem]

@[simp] theorem fwSet_mem (blk off v : Nat) (s : Sled) : (fwSet blk off v s).mem = s.mem := by
  unfold fwSet
  split <;> simp -implicitDefEqProofs [apply_ite Sled.mem]

@[simp] theorem allocTenant_mem (t : Nat) (c : TenantCfg) (s : Sled) : (allocTenant t c s).mem = s.mem := by
  simp -implicitDefEqProofs [allocTenant]

@[simp] theorem applySections_mem (p : Ppi) (s : Sled) : (applySections p s).mem = s.mem := by
  simp -implicitDefEqProofs [applySections, apply_ite Sled.mem, foldl_mem]

@[simp] theorem trialCommit_mem (comp used sec : Nat) (s : Sled) :
    (trialCommit comp used sec s).mem = s.mem := by
  simp -implicitDefEqProofs [trialCommit, apply_ite Sled.mem]

@[simp] theorem startCommits_mem (p : Ppi) (s : Sled) : (startCommits p s).mem = s.mem := by
  simp -implicitDefEqProofs [startCommits]

@[simp] theorem serviceUp_mem (s : Sled) : (serviceUp s).mem = s.mem := by
  simp -implicitDefEqProofs [serviceUp, apply_ite Sled.mem]

@[simp] theorem startPorts_mem (c : ProfileCfg) (s : Sled) : (startPorts c s).mem = s.mem := by
  simp -implicitDefEqProofs [startPorts, apply_ite Sled.mem, foldl_mem]

@[simp] theorem scanTenant_mem (t : Nat) (s : Sled) : (scanTenant t s).mem = s.mem := by
  simp only [scanTenant]
  repeat' split
  all_goals simp -implicitDefEqProofs

@[simp] theorem fxDeadlockScan_mem (s : Sled) : (fxDeadlockScan s).mem = s.mem := by
  simp -implicitDefEqProofs [fxDeadlockScan, apply_ite Sled.mem, foldl_mem]

@[simp] theorem fxStreamQuantumExpire_mem (s : Sled) : (fxStreamQuantumExpire s).mem = s.mem := by
  simp -implicitDefEqProofs [fxStreamQuantumExpire]

@[simp] theorem fxFlrPf_mem (s : Sled) : (fxFlrPf s).mem = s.mem := by
  simp -implicitDefEqProofs [fxFlrPf, apply_ite Sled.mem]

@[simp] theorem fxHostLinkDown_mem (s : Sled) : (fxHostLinkDown s).mem = s.mem := by
  simp -implicitDefEqProofs [fxHostLinkDown, apply_ite Sled.mem]

@[simp] theorem fxKeeperWatchdog_mem (s : Sled) : (fxKeeperWatchdog s).mem = s.mem := by
  simp -implicitDefEqProofs [fxKeeperWatchdog, apply_ite Sled.mem]

@[simp] theorem coolRound_mem (s : Sled) : (coolRound s).mem = s.mem := by
  simp -implicitDefEqProofs [coolRound, apply_ite Sled.mem, foldl_mem]

@[simp] theorem stepLevels_mem (s : Sled) : (stepLevels s).mem = s.mem := by
  simp -implicitDefEqProofs [stepLevels]

@[simp] theorem crossings_mem (s : Sled) : (crossings s).mem = s.mem := by
  simp -implicitDefEqProofs [crossings, apply_ite Sled.mem, foldl_mem]

@[simp] theorem fxHousekeepingRoundEnd_mem (s : Sled) : (fxHousekeepingRoundEnd s).mem = s.mem := by
  simp -implicitDefEqProofs [fxHousekeepingRoundEnd, apply_ite Sled.mem]

@[simp] theorem fxPowerLoopTick_mem (s : Sled) : (fxPowerLoopTick s).mem = s.mem := by
  simp -implicitDefEqProofs [fxPowerLoopTick, apply_ite Sled.mem]

@[simp] theorem fxPwrRangeStep_mem (s : Sled) : (fxPwrRangeStep s).mem = s.mem := by
  unfold fxPwrRangeStep
  split <;> simp -implicitDefEqProofs [apply_ite Sled.mem]

@[simp] theorem fxPwrRangeResume_mem (s : Sled) : (fxPwrRangeResume s).mem = s.mem := by
  unfold fxPwrRangeResume
  split <;> simp -implicitDefEqProofs [apply_ite Sled.mem]

@[simp] theorem logWrite_mem (n : Nat) (r : Rec) (s : Sled) : (logWrite n r s).mem = s.mem := by
  simp -implicitDefEqProofs [logWrite]

@[simp] theorem updErase_mem (c : Nat) (s : Sled) : (updErase c s).mem = s.mem := by
  simp -implicitDefEqProofs [updErase, apply_ite Sled.mem]

@[simp] theorem updApply_mem (c : Nat) (img : UpdImage) (x : Session) (s : Sled) :
    (updApply c img x s).mem = s.mem := by
  unfold updApply
  split <;> simp -implicitDefEqProofs [apply_ite Sled.mem]

@[simp] theorem pieceDone_mem (bytes : Nat) (s : Sled) : (pieceDone bytes s).mem = s.mem := by
  simp only [pieceDone]
  repeat' split
  all_goals simp -implicitDefEqProofs

@[simp] theorem fxKeeperTrialCommit_mem (s : Sled) : (fxKeeperTrialCommit s).mem = s.mem := by
  simp -implicitDefEqProofs [fxKeeperTrialCommit, apply_ite Sled.mem]

@[simp] theorem fxSmbusAlertResponse_mem (s : Sled) : (fxSmbusAlertResponse s).mem = s.mem := by
  simp -implicitDefEqProofs [fxSmbusAlertResponse, apply_ite Sled.mem]

@[simp] theorem railFall_mem (s : Sled) : (railFall s).mem = s.mem := by
  simp -implicitDefEqProofs [railFall, apply_ite Sled.mem]

@[simp] theorem fxMainRailsOff_mem (s : Sled) : (fxMainRailsOff s).mem = s.mem := by
  simp -implicitDefEqProofs [fxMainRailsOff, apply_ite Sled.mem]

@[simp] theorem fxLtssmRecoveryEntry_mem (s : Sled) : (fxLtssmRecoveryEntry s).mem = s.mem := by
  simp -implicitDefEqProofs [fxLtssmRecoveryEntry, apply_ite Sled.mem]

end Sys2Proof.Machine

namespace Sys2Proof.Machine

open Sys2Proof

/-! ## What writes the memory keeps its canonical form

One lemma per function of the model that can reach the memory, in the model's order: it is carried by
`memWrite_wf` and `memDrop_wf`. -/

theorem foldl_wf {α : Type} {f : Sled → α → Sled}
    (hf : ∀ s x, Memory.wf s.mem = true → Memory.wf (f s x).mem = true) (l : List α) {s : Sled}
    (h : Memory.wf s.mem = true) : Memory.wf (l.foldl f s).mem = true :=
  List.foldlRecOn (motive := fun t => Memory.wf t.mem = true) l f h fun t ht x _ => hf t x ht

theorem foldl_wf_snd {α β : Type} {f : β × Sled → α → β × Sled}
    (hf : ∀ x y, Memory.wf x.2.mem = true → Memory.wf (f x y).2.mem = true) (l : List α) {x : β × Sled}
    (h : Memory.wf x.2.mem = true) : Memory.wf (l.foldl f x).2.mem = true :=
  List.foldlRecOn (motive := fun t => Memory.wf t.2.mem = true) l f h fun t ht y _ => hf t y ht

theorem mainLost_wf  {s : Sled} (h : Memory.wf s.mem = true) : Memory.wf (mainLost s).mem = true := by
  rfl

theorem railsDown_wf {s : Sled} (h : Memory.wf s.mem = true) : Memory.wf (railsDown s).mem = true := by
  unfold railsDown
  grind [mainLost_wf]

theorem poisonAt_wf (p : Nat) {s : Sled} (h : Memory.wf s.mem = true) :
    Memory.wf (poisonAt p s).mem = true := by
  simp -implicitDefEqProofs [poisonAt, h, memWrite_wf]

theorem poisonRaw_wf (p : Nat) {s : Sled} (h : Memory.wf s.mem = true) :
    Memory.wf (poisonRaw p s).mem = true := by
  unfold poisonRaw
  grind [poisonAt_wf]

theorem readRaw_wf (p : Nat) {s : Sled} (h : Memory.wf s.mem = true) :
    Memory.wf (readRaw p s).2.mem = true := by
  unfold readRaw
  grind [freshUe_mem, sramUe_mem, poisonAt_wf]

theorem storeWord_wf (p mask : Nat) (d : List Byte) {s : Sled} (h : Memory.wf s.mem = true) :
    Memory.wf (storeWord p mask d s).mem = true := by
  unfold storeWord
  grind [memWrite_wf, readRaw_wf]

theorem writeRaw_wf (p mask : Nat) (d : List Byte) {s : Sled} (h : Memory.wf s.mem = true) :
    Memory.wf (writeRaw p mask d s).mem = true := by
  unfold writeRaw
  grind [updMcs_mem, storeWord_wf]

theorem bauStep_wf (src k op : Nat) (f : BauFields) (i : Nat) {s : Sled} (h : Memory.wf s.mem = true) :
    Memory.wf (bauStep src k op f i s).mem = true := by
  unfold bauStep
  grind [foldl_wf, foldl_mem, logBauPoison_mem, emit_mem, readOperand_mem, setBank_mem, poisonRaw_wf,
    writeRaw_wf]

theorem bankStep_wf (k : Nat) {s : Sled} (h : Memory.wf s.mem = true) :
    Memory.wf (bankStep k s).mem = true := by
  unfold bankStep
  grind [setBank_mem, progProgress_mem, stepTime_mem, bauStep_wf]

theorem bankDrain.go_wf (k n : Nat) {s : Sled} (h : Memory.wf s.mem = true) :
    Memory.wf (bankDrain.go k n s).mem = true := by
  induction n generalizing s with
  | zero => exact h
  | succ n ih =>
    rw [bankDrain.go]
    split
    · exact h
    · exact ih (bankStep_wf k h)

theorem bankDrain_wf (k : Nat) {s : Sled} (h : Memory.wf s.mem = true) :
    Memory.wf (bankDrain k s).mem = true := by
  simp -implicitDefEqProofs [bankDrain, h, bankDrain.go_wf]

theorem progDrain_wf (st : Nat) {s : Sled} (h : Memory.wf s.mem = true) :
    Memory.wf (progDrain st s).mem = true := by
  unfold progDrain
  grind [foldl_wf, foldl_mem, bankDrain_wf]

theorem progEnd_wf (st : Nat) {s : Sled} (h : Memory.wf s.mem = true) :
    Memory.wf (progEnd st s).mem = true := by
  simp -implicitDefEqProofs [progEnd, h, progDrain_wf]

theorem tenantEnd_wf (t : Nat) {s : Sled} (h : Memory.wf s.mem = true) :
    Memory.wf (tenantEnd t s).mem = true := by
  unfold tenantEnd
  grind [foldl_wf, foldl_mem, dropQueue_mem, seStopOp_mem, loseObjects_mem, failWaits_mem, progEnd_wf]

theorem tenantResetBegin_wf (t : Nat) (byReg : Bool) {s : Sled} (h : Memory.wf s.mem = true) :
    Memory.wf (tenantResetBegin t byReg s).mem = true := by
  unfold tenantResetBegin
  grind [tenantEnd_wf]

theorem watchOnly_wf (cause : Nat) {s : Sled} (h : Memory.wf s.mem = true) :
    Memory.wf (watchOnly cause s).mem = true := by
  unfold watchOnly
  grind [foldl_wf, foldl_mem, startTrialsFail_mem, logRec_mem, platEvent_mem, alertOn_mem, vfEvent_mem,
    tenantResetBegin_wf]

theorem fxMainRailFault_wf (rail : Nat) {s : Sled} (h : Memory.wf s.mem = true) :
    Memory.wf (fxMainRailFault rail s).mem = true := by
  unfold fxMainRailFault
  grind [logRec_mem, railsDown_mem, railsDown_wf, watchOnly_wf]

theorem strandedReset_wf (core : Nat) {s : Sled} (h : Memory.wf s.mem = true) :
    Memory.wf (strandedReset core s).mem = true := by
  unfold strandedReset
  grind [foldl_wf, foldl_mem, tenantResetBegin_wf]

theorem unitGone_wf (island : Nat) {s : Sled} (h : Memory.wf s.mem = true) :
    Memory.wf (unitGone island s).mem = true := by
  unfold unitGone
  grind [logRec_mem, strandedReset_wf, watchOnly_wf]

theorem ccGone_wf (i : Nat) {s : Sled} (h : Memory.wf s.mem = true) : Memory.wf (ccGone i s).mem = true := by
  simp -implicitDefEqProofs [ccGone, h, unitGone_wf]

theorem selfTest_wf (mask i : Nat) {s : Sled} (h : Memory.wf s.mem = true) :
    Memory.wf (selfTest mask s i).mem = true := by
  unfold selfTest
  grind [foldl_wf, foldl_mem, logRec_mem, updChan_mem, setIsl_mem, ccGone_wf, watchOnly_wf, unitGone_wf]

theorem clearSrams_wf {s : Sled} (h : Memory.wf s.mem = true) :
    Memory.wf (clearSrams s).mem = true := by
  simp only [clearSrams]
  exact memDrop_wf _ h

theorem releaseCores_wf (warm : Bool) (tests k : Nat) {s : Sled} (h : Memory.wf s.mem = true) :
    Memory.wf (releaseCores warm tests k s).mem = true := by
  unfold releaseCores
  grind [foldl_wf, foldl_mem, loadRuntime_mem, hbStart_mem, stackWakes_mem, stackInit_mem, loadSpareMap_mem,
    selfTest_wf, clearSrams_wf]

theorem fxRuntimeRelease_wf (tests : Nat) {s : Sled} (h : Memory.wf s.mem = true) :
    Memory.wf (fxRuntimeRelease tests s).mem = true := by
  unfold fxRuntimeRelease
  grind [runtimeSlot_mem, trialFail_mem, releaseCores_wf, watchOnly_wf]

theorem regAccess_wf (a : Agent) (blk off : Nat) {f : Sled → Sled} (hf : ∀ t, Memory.wf t.mem = true →
    Memory.wf (f t).mem = true)
    {s : Sled} (h : Memory.wf s.mem = true) : Memory.wf (regAccess a blk off f s).mem = true := by
  unfold regAccess
  have hs := hf s h
  grind [setStall_mem, unmappedReg_mem]

theorem doData_wf (r : Req) {s : Sled} (h : Memory.wf s.mem = true) :
    Memory.wf (doData r s).2.mem = true := by
  unfold doData
  grind [readRaw_wf, writeRaw_wf]

theorem answerReq_wf (r : Req) {s : Sled} (h : Memory.wf s.mem = true) :
    Memory.wf (answerReq r s).mem = true := by
  unfold answerReq
  grind [emit_mem, doData_wf]

theorem acceptedDone_wf {s : Sled} (h : Memory.wf s.mem = true) : Memory.wf (acceptedDone s).mem = true := by
  unfold acceptedDone
  grind [foldl_wf, foldl_mem, landAll_mem, answerReq_wf]

theorem warmClear_wf {s : Sled} (h : Memory.wf s.mem = true) : Memory.wf (warmClear s).mem = true := by
  unfold warmClear
  grind [foldl_wf, foldl_mem, warmRegs_mem, crossingsLost_mem, updMcs_mem, rSetField_mem, acceptedDone_wf]

theorem warmReset_wf (trigger : Nat) {s : Sled} (h : Memory.wf s.mem = true) :
    Memory.wf (warmReset trigger s).mem = true := by
  unfold warmReset
  grind [setCause_mem, logRec_mem, warmClear_wf, watchOnly_wf]

theorem fxGlbResetWarm_wf (a : Agent) {s : Sled} (h : Memory.wf s.mem = true) :
    Memory.wf (fxGlbResetWarm a s).mem = true := by
  unfold fxGlbResetWarm
  grind [regAccess_mem, regAccess_wf, warmReset_wf]

theorem glbTenant_wf (t : Nat) {s : Sled} (h : Memory.wf s.mem = true) :
    Memory.wf (glbTenant t s).mem = true := by
  unfold glbTenant
  grind [tenantResetBegin_wf]

theorem fxTenantRst_wf (a : Agent) (t : Nat) {s : Sled} (h : Memory.wf s.mem = true) :
    Memory.wf (fxTenantRst a t s).mem = true := by
  unfold fxTenantRst
  grind [regAccess_mem, glbField_mem, regAccess_wf, glbTenant_wf]

theorem glbReset_wf (v : Nat) {s : Sled} (h : Memory.wf s.mem = true) :
    Memory.wf (glbReset v s).mem = true := by
  unfold glbReset
  grind [coreResetBegin_mem, setCause_mem, tenantResetBegin_wf, warmReset_wf]

theorem resolveDead_wf (st c r : Nat) {s : Sled} (h : Memory.wf s.mem = true) :
    Memory.wf (resolveDead st c r s).mem = true := by
  unfold resolveDead
  grind [foldl_wf, foldl_mem, updChan_mem, answerReq_wf]

theorem spareGo_wf (st r k : Nat) {s : Sled} (h : Memory.wf s.mem = true) :
    Memory.wf (spareGo st r k s).mem = true := by
  unfold spareGo
  grind [foldl_wf, foldl_mem, lockHit_mem, rSetField_mem, updMcs_mem, logRec_mem, resolveDead_wf]

theorem readWord_wf (p : Nat) {s : Sled} (h : Memory.wf s.mem = true) :
    Memory.wf (readWord p s).2.mem = true := by
  unfold readWord
  grind [setStall_mem, readRaw_wf]

theorem readBytes_wf (fuel a n : Nat) {s : Sled} (h : Memory.wf s.mem = true) :
    Memory.wf (readBytes fuel a n s).2.mem = true := by
  induction fuel generalizing a n s with
  | zero => exact h
  | succ fuel ih =>
    simp only [readBytes]
    split
    · exact h
    · split
      next p _ => exact ih _ _ (readWord_wf p h)
      next => exact ih _ _ h

theorem readLocal_wf (a n : Nat) {s : Sled} (h : Memory.wf s.mem = true) :
    Memory.wf (readLocal a n s).2.mem = true := by
  simp -implicitDefEqProofs [readLocal, h, readBytes_wf]

theorem readFor_wf (w : Who) (a n : Nat) {s : Sled} (h : Memory.wf s.mem = true) :
    Memory.wf (readFor w a n s).2.mem = true := by
  simp -implicitDefEqProofs [readFor, h, readLocal_wf]

theorem pwlGo_wf (w : Who) (i addr : Nat) {s : Sled} (h : Memory.wf s.mem = true) :
    Memory.wf (pwlGo w i addr s).mem = true := by
  unfold pwlGo
  grind [swField_mem, loadCurve_mem, logRec_mem, readFor_wf]

/-- Of the registers' triggers only resets, GO of a migration and a load of a curve reach memory. -/
theorem regAct_wf (a : Agent) (blk off mask v : Nat) {s : Sled} (h : Memory.wf s.mem = true) :
    Memory.wf (regAct a blk off mask v s).mem = true := by
  simp -implicitDefEqProofs only [regAct, apply_ite Sled.mem, apply_ite Memory.wf, compatWrite_mem,
    probeGo_mem, trainGo_mem, dlyWrite_mem, speedGo_mem, spareGo0_mem, swField_mem, bcsEnqueue_mem,
    adminCmd_mem, queueWrite_mem, seGoOp_mem, seStopOp_mem, linkEnable_mem, linkRetrain_mem,
    thmLimit_mem, glbReset_wf _ h, spareGo_wf _ _ _ h, pwlGo_wf _ _ _ h, h, ite_self]
  cases idxIn off 0x50 0x18 4 <;> simp -implicitDefEqProofs [apply_ite Sled.mem, h]

theorem regStore_wf (a : Agent) (blk off : Nat) (mask v : Nat) {s : Sled} (h : Memory.wf s.mem = true) :
    Memory.wf (regStore a blk off mask v s).mem = true := by
  unfold regStore
  grind [foldl_wf, foldl_mem, lkWrite_mem, fieldWrite_mem, clampReg_mem, regAct_wf]

theorem regWrite_wf (a : Agent) (addr n v : Nat) {s : Sled} (h : Memory.wf s.mem = true) :
    Memory.wf (regWrite a addr n v s).mem = true := by
  unfold regWrite
  grind [unmappedReg_mem, regStore_wf]

theorem fxRegisterWrite_wf (a : Agent) (addr : Nat) (size : AccSize) (v : Nat) {s : Sled} (h : Memory.wf s.mem
    = true) :
    Memory.wf (fxRegisterWrite a addr size v s).mem = true := by
  unfold fxRegisterWrite
  grind [regWrite_wf]

theorem fxRequestEnqueue_wf (port addr : Nat) (wr : Option (BitVec 32 × BitVec 256)) {s : Sled} (h : Memory.wf
    s.mem = true) :
    Memory.wf (fxRequestEnqueue port addr wr s).mem = true := by
  unfold fxRequestEnqueue
  grind [refuseReq_mem, updChan_mem, answerReq_wf]

theorem replayOne_wf (st c t : Nat) (r : Replay) {s : Sled} (h : Memory.wf s.mem = true) :
    Memory.wf (replayOne st c t r s).mem = true := by
  unfold replayOne
  grind [pushRetry_mem, updChan_mem, doData_wf]

theorem doCol_wf (st c : Nat) (i t : Nat) {s : Sled} (h : Memory.wf s.mem = true) :
    Memory.wf (doCol st c i t s).mem = true := by
  unfold doCol
  grind [updChan_mem, updBt_mem, bumpMc_mem, pushRetry_mem, doData_wf]

theorem progFault_wf (st code i : Nat) {s : Sled} (h : Memory.wf s.mem = true) :
    Memory.wf (progFault st code i s).mem = true := by
  unfold progFault
  grind [bcsFlag_mem, logRec_mem, progEnd_wf]

theorem fetchTouch_wf (p : Prog) (i : Nat) {s : Sled} (h : Memory.wf s.mem = true) :
    Memory.wf (fetchTouch p i s).mem = true := by
  simp -implicitDefEqProofs [fetchTouch, h, readLocal_wf]

theorem faultOut_wf (st code i : Nat) {s : Sled} (h : Memory.wf s.mem = true) :
    Memory.wf (faultOut st code i s).mem = true := by
  unfold faultOut
  grind [progFault_wf]

theorem onInstr_wf (st iop ahead : Nat) {f : Nat → BcsInstr → Run → Sled → Sled}
    (hf : ∀ j x r t, Memory.wf t.mem = true → Memory.wf (f j x r t).mem = true) {s : Sled} (h : Memory.wf
      s.mem = true) :
    Memory.wf (onInstr st iop ahead f s).mem = true := by
  simp only [onInstr]
  split
  · exact h
  next r _ =>
    split
    · exact h
    · split
      · split
        · exact progFault_wf _ _ _ (fetchTouch_wf _ _ h)
        · exact h
      next x _ =>
        split
        · split
          · exact faultOut_wf _ _ _ h
          · exact h
        · split
          · exact hf _ x r s h
          · exact h

theorem onBanks_wf (st iop ahead : Nat) {f : Nat → BcsInstr → Run → List Nat → Sled → Sled}
    (hf : ∀ j x r l t, Memory.wf t.mem = true → Memory.wf (f j x r l t).mem = true) {s : Sled} (h : Memory.wf
      s.mem = true) :
    Memory.wf (onBanks st iop ahead f s).mem = true := by
  refine onInstr_wf _ _ _ (fun j x r t ht => ?_) h
  split
  · rwa [issued_mem]
  · split
    · exact faultOut_wf _ _ _ ht
    · dsimp only
      split
      · exact hf _ _ _ _ _ ht
      · exact ht

theorem fxBcsOpen_wf (st ahead : Nat) {s : Sled} (h : Memory.wf s.mem = true) :
    Memory.wf (fxBcsOpen st ahead s).mem = true := by
  refine onBanks_wf st iopOPEN ahead (fun j x r keys t ht => ?_) h
  dsimp only
  simp -implicitDefEqProofs [apply_ite Sled.mem, apply_ite Memory.wf, ht, faultOut_wf, foldl_mem]

theorem fxBcsClose_wf (st ahead : Nat) {s : Sled} (h : Memory.wf s.mem = true) :
    Memory.wf (fxBcsClose st ahead s).mem = true := by
  refine onBanks_wf st iopCLOSE ahead (fun j x r keys t ht => ?_) h
  rw [issued_mem]
  refine foldl_wf (fun u k hu => ?_) _ (by rwa [cmdIssue_mem])
  rw [closeHalf_mem]
  exact bankDrain_wf _ hu

theorem fxBcsBau_wf (st ahead : Nat) {s : Sled} (h : Memory.wf s.mem = true) :
    Memory.wf (fxBcsBau st ahead s).mem = true := by
  refine onBanks_wf st iopBAU ahead (fun j x r keys t ht => ?_) h
  dsimp only
  split
  · exact faultOut_wf _ _ _ ht
  · split
    · exact faultOut_wf _ _ _ ht
    · split
      · exact ht
      · simpa -implicitDefEqProofs [foldl_mem, apply_ite Sled.mem] using ht

theorem fxBcsBcw_wf (st ahead busErrors : Nat) {s : Sled} (h : Memory.wf s.mem = true) :
    Memory.wf (fxBcsBcw st ahead busErrors s).mem = true := by
  refine onBanks_wf st iopBCW ahead (fun j x r keys t ht => ?_) h
  dsimp only
  split
  · exact faultOut_wf _ _ _ ht
  · split
    · exact ht
    · rw [issued_mem]
      refine foldl_wf (fun u c hu => ?_) _ (by rwa [cmdIssue_mem])
      rw [foldl_mem fun v k => by rw [bankBcw_mem, bankTenant_mem]]
      refine readLocal_wf _ _ ?_
      rwa [apply_ite Sled.mem, cmdIssue_mem, ite_self]

theorem writePoison_wf (p : Nat) {s : Sled} (h : Memory.wf s.mem = true) :
    Memory.wf (writePoison p s).mem = true := by
  unfold writePoison
  grind [setStall_mem, poisonRaw_wf]

theorem writeWord_wf (p mask : Nat) (d : List Byte) {s : Sled} (h : Memory.wf s.mem = true) :
    Memory.wf (writeWord p mask d s).mem = true := by
  unfold writeWord
  grind [setStall_mem, writeRaw_wf]

theorem writeBytes_wf (fuel a : Nat) (l : List (Byte × Bool)) {s : Sled} (h : Memory.wf s.mem = true) :
    Memory.wf (writeBytes fuel a l s).mem = true := by
  induction fuel generalizing a l s with
  | zero => exact h
  | succ fuel ih =>
    simp only [writeBytes]
    split
    · exact h
    · refine ih _ _ ?_
      split
      next p _ =>
        split
        · exact writePoison_wf p h
        · exact writeWord_wf p _ _ h
      next => exact h

theorem writeLocal_wf (a : Nat) (l : List (Byte × Bool)) {s : Sled} (h : Memory.wf s.mem = true) :
    Memory.wf (writeLocal a l s).mem = true := by
  simp -implicitDefEqProofs [writeLocal, h, writeBytes_wf]

theorem fxBcsRead_wf (st ahead : Nat) {s : Sled} (h : Memory.wf s.mem = true) :
    Memory.wf (fxBcsRead st ahead s).mem = true := by
  refine onBanks_wf st iopREAD ahead (fun j x r keys t ht => ?_) h
  dsimp only
  split
  · exact faultOut_wf _ _ _ ht
  · split
    · exact ht
    · rw [issued_mem]
      refine foldl_wf (fun u c hu => foldl_wf (fun v b hv => ?_) _ hu) _ ht
      refine writeLocal_wf _ _ ?_
      rw [apply_ite Sled.mem, logBauPoison_mem, ite_self]
      exact bankDrain_wf _ (by rwa [cmdIssue_mem])

theorem bcsNext_wf (st : Nat) {s : Sled} (h : Memory.wf s.mem = true) :
    Memory.wf (bcsNext st s).mem = true := by
  unfold bcsNext
  grind [fxBcsOpen_wf, fxBcsClose_wf, fxBcsBau_wf, fxBcsBcw_wf, fxBcsRead_wf]

theorem doProgram_wf (st c t : Nat) {s : Sled} (h : Memory.wf s.mem = true) :
    Memory.wf (doProgram st c t s).mem = true := by
  unfold doProgram
  grind [slotTick_mem, bcsNext_wf]

theorem fxChannelSlotArbitrate_wf (st c : Nat) {s : Sled} (h : Memory.wf s.mem = true) :
    Memory.wf (fxChannelSlotArbitrate st c s).mem = true := by
  unfold fxChannelSlotArbitrate
  grind [landReads_mem, slotTick_mem, pauseStart_mem, updChan_mem, doRefresh_mem, doTake_mem, doAct_mem,
    doReopen_mem, replayOne_wf, doCol_wf, doProgram_wf]

theorem migLoses_wf (st c r : Nat) {s : Sled} (h : Memory.wf s.mem = true) :
    Memory.wf (migLoses st c r s).mem = true := by
  unfold migLoses
  grind [updMcs_mem, logRec_mem, resolveDead_wf]

theorem chanOffline_wf (st c r : Nat) {s : Sled} (h : Memory.wf s.mem = true) :
    Memory.wf (chanOffline st c r s).mem = true := by
  unfold chanOffline
  grind [foldl_wf, foldl_mem, landAll_mem, updChan_mem, logRec_mem, logUnmapped_mem, emit_mem, unitGone_wf]

theorem rankFatal_wf (st c r : Nat) {s : Sled} (h : Memory.wf s.mem = true) :
    Memory.wf (rankFatal st c r s).mem = true := by
  unfold rankFatal
  grind [spareTrigger_mem, chanOffline_wf]

theorem attemptFails_wf (st c : Nat) {s : Sled} (h : Memory.wf s.mem = true) :
    Memory.wf (attemptFails st c s).2.mem = true := by
  unfold attemptFails
  grind [bumpMc_mem, updChan_mem, logRec_mem, migLoses_wf, rankFatal_wf]

theorem readDiscard_wf (st c n : Nat) (reads : List (Option (BitVec 6))) {s : Sled} (h : Memory.wf s.mem =
    true) :
    Memory.wf (readDiscard st c n reads s).mem = true := by
  induction n generalizing reads s with
  | zero => exact h
  | succ n ih =>
    rw [readDiscard]
    split
    · exact h
    next r _ =>
      extract_lets d t u
      have ht : Memory.wf t.mem = true := by
        simpa -implicitDefEqProofs [t, apply_ite Sled.mem] using h
      have hu : u.mem = t.mem := mw5Set_mem ..
      clear_value t u
      by_cases hd : d ≤ buffered (getChan t st c) r.rank
      · rw [if_pos hd]
        simpa -implicitDefEqProofs [hu] using ht
      · have hfail := attemptFails_wf st c ht
        rw [if_neg hd]
        split
        next heq => exact ih _ (by rwa [heq] at hfail)
        next heq => rwa [heq] at hfail

theorem fxCaparAlert_wf (st c r : Nat) (reads : List (Option (BitVec 6))) {s : Sled} (h : Memory.wf s.mem =
    true) :
    Memory.wf (fxCaparAlert st c r reads s).mem = true := by
  unfold fxCaparAlert
  grind [mw5Set_mem, bumpMc_mem, updChan_mem, readDiscard_wf, attemptFails_wf]

theorem trainFail_wf (st c r : Nat) {s : Sled} (h : Memory.wf s.mem = true) :
    Memory.wf (trainFail st c r s).mem = true := by
  simp -implicitDefEqProofs [trainFail, h, rankFatal_wf]

theorem fxTrainStepDone_wf (st c : Nat) (res : TrainResult) {s : Sled} (h : Memory.wf s.mem = true) :
    Memory.wf (fxTrainStepDone st c res s).mem = true := by
  simp only [fxTrainStepDone]
  repeat' split
  all_goals simp -implicitDefEqProofs [h, trainFail_wf]

theorem fxRetrainPauseEnd_wf (st c : Nat) (res : PauseResult) {s : Sled} (h : Memory.wf s.mem = true) :
    Memory.wf (fxRetrainPauseEnd st c res s).mem = true := by
  unfold fxRetrainPauseEnd
  grind [foldl_wf, foldl_mem, updMcs_mem, rSetField_mem, updChan_mem, logRec_mem, helperNext_mem,
    trainFail_wf]

theorem crossWrites_wf (st : Nat) {s : Sled} (h : Memory.wf s.mem = true) :
    Memory.wf (crossWrites st s).mem = true := by
  unfold crossWrites
  grind [foldl_wf, foldl_mem, regWrite_wf]

theorem fxPllLockConfirmed_wf (st : Nat) {s : Sled} (h : Memory.wf s.mem = true) :
    Memory.wf (fxPllLockConfirmed st s).mem = true := by
  simp -implicitDefEqProofs [fxPllLockConfirmed, h, crossWrites_wf]

theorem fxPllLockTimeout_wf (st : Nat) {s : Sled} (h : Memory.wf s.mem = true) :
    Memory.wf (fxPllLockTimeout st s).mem = true := by
  simp -implicitDefEqProofs [fxPllLockTimeout, h, crossWrites_wf]

theorem fxBcsSet_wf (st : Nat) {s : Sled} (h : Memory.wf s.mem = true) :
    Memory.wf (fxBcsSet st s).mem = true := by
  refine onInstr_wf _ _ _ (fun j x r t ht => ?_) h
  simpa -implicitDefEqProofs using ht

theorem fxBcsSignal_wf (st : Nat) {s : Sled} (h : Memory.wf s.mem = true) :
    Memory.wf (fxBcsSignal st s).mem = true := by
  refine onInstr_wf _ _ _ (fun j x r t ht => ?_) h
  split
  · exact ht
  · dsimp only
    have hsig := ctrSignal_mem (whoBcs st r) (bitsOf x.data 0 14) x.arg (progDrain st t)
    have hdrain := progDrain_wf st ht
    generalize ctrSignal _ _ _ _ = a at hsig ⊢
    obtain ⟨_ | code, u⟩ := a
    · simpa -implicitDefEqProofs using hsig ▸ hdrain
    · exact progFault_wf _ _ _ (hsig ▸ hdrain)

theorem fxBcsEnd_wf (st : Nat) {s : Sled} (h : Memory.wf s.mem = true) :
    Memory.wf (fxBcsEnd st s).mem = true := by
  unfold fxBcsEnd
  grind [progEnd_wf, onInstr_wf]

theorem bauRun_wf (op : Nat) (b : BankSel) (f : BauFields) {s : Sled} (h : Memory.wf s.mem = true) :
    Memory.wf (bauRun op b f s).mem = true := by
  unfold bauRun
  grind [foldl_wf, foldl_mem, cmdIssue_mem, bankPush_mem, bankDrain_wf]

theorem fxBld_wf (b : BankSel) (f : BauFields) {s : Sled} (h : Memory.wf s.mem = true) :
    Memory.wf (fxBld b f s).mem = true := by
  simp -implicitDefEqProofs [fxBld, h, bauRun_wf]

theorem fxBst_wf (b : BankSel) (f : BauFields) {s : Sled} (h : Memory.wf s.mem = true) :
    Memory.wf (fxBst b f s).mem = true := by
  simp -implicitDefEqProofs [fxBst, h, bauRun_wf]

theorem fxBmac_wf (b : BankSel) (f : BauFields) {s : Sled} (h : Memory.wf s.mem = true) :
    Memory.wf (fxBmac b f s).mem = true := by
  simp -implicitDefEqProofs [fxBmac, h, bauRun_wf]

theorem fxBdot_wf (b : BankSel) (f : BauFields) {s : Sled} (h : Memory.wf s.mem = true) :
    Memory.wf (fxBdot b f s).mem = true := by
  simp -implicitDefEqProofs [fxBdot, h, bauRun_wf]

theorem fxBadd_wf (b : BankSel) (f : BauFields) {s : Sled} (h : Memory.wf s.mem = true) :
    Memory.wf (fxBadd b f s).mem = true := by
  simp -implicitDefEqProofs [fxBadd, h, bauRun_wf]

theorem fxBmul_wf (b : BankSel) (f : BauFields) {s : Sled} (h : Memory.wf s.mem = true) :
    Memory.wf (fxBmul b f s).mem = true := by
  simp -implicitDefEqProofs [fxBmul, h, bauRun_wf]

theorem fxBfma_wf (b : BankSel) (f : BauFields) {s : Sled} (h : Memory.wf s.mem = true) :
    Memory.wf (fxBfma b f s).mem = true := by
  simp -implicitDefEqProofs [fxBfma, h, bauRun_wf]

theorem fxBema_wf (b : BankSel) (f : BauFields) {s : Sled} (h : Memory.wf s.mem = true) :
    Memory.wf (fxBema b f s).mem = true := by
  simp -implicitDefEqProofs [fxBema, h, bauRun_wf]

theorem fxBscale_wf (b : BankSel) (f : BauFields) {s : Sled} (h : Memory.wf s.mem = true) :
    Memory.wf (fxBscale b f s).mem = true := by
  simp -implicitDefEqProofs [fxBscale, h, bauRun_wf]

theorem fxBcvtDequantise_wf (b : BankSel) (f : BauFields) {s : Sled} (h : Memory.wf s.mem = true) :
    Memory.wf (fxBcvtDequantise b f s).mem = true := by
  simp -implicitDefEqProofs [fxBcvtDequantise, h, bauRun_wf]

theorem fxBcvtNarrow_wf (b : BankSel) (f : BauFields) {s : Sled} (h : Memory.wf s.mem = true) :
    Memory.wf (fxBcvtNarrow b f s).mem = true := by
  simp -implicitDefEqProofs [fxBcvtNarrow, h, bauRun_wf]

theorem fxBmax_wf (b : BankSel) (f : BauFields) {s : Sled} (h : Memory.wf s.mem = true) :
    Memory.wf (fxBmax b f s).mem = true := by
  simp -implicitDefEqProofs [fxBmax, h, bauRun_wf]

theorem fxBmin_wf (b : BankSel) (f : BauFields) {s : Sled} (h : Memory.wf s.mem = true) :
    Memory.wf (fxBmin b f s).mem = true := by
  simp -implicitDefEqProofs [fxBmin, h, bauRun_wf]

theorem fxBred_wf (b : BankSel) (f : BauFields) {s : Sled} (h : Memory.wf s.mem = true) :
    Memory.wf (fxBred b f s).mem = true := by
  simp -implicitDefEqProofs [fxBred, h, bauRun_wf]

theorem fxBrdacc_wf (b : BankSel) (f : BauFields) {s : Sled} (h : Memory.wf s.mem = true) :
    Memory.wf (fxBrdacc b f s).mem = true := by
  simp -implicitDefEqProofs [fxBrdacc, h, bauRun_wf]

theorem fxBclr_wf (b : BankSel) (f : BauFields) {s : Sled} (h : Memory.wf s.mem = true) :
    Memory.wf (fxBclr b f s).mem = true := by
  simp -implicitDefEqProofs [fxBclr, h, bauRun_wf]

theorem fxBsel_wf (b : BankSel) (f : BauFields) {s : Sled} (h : Memory.wf s.mem = true) :
    Memory.wf (fxBsel b f s).mem = true := by
  simp -implicitDefEqProofs [fxBsel, h, bauRun_wf]

theorem fxBcStagingMove_wf (b : BankSel) {s : Sled} (h : Memory.wf s.mem = true) :
    Memory.wf (fxBcStagingMove b s).mem = true := by
  unfold fxBcStagingMove
  grind [foldl_wf, foldl_mem, bankStep_wf]

theorem scrubWord_wf (st c p : Nat) {s : Sled} (h : Memory.wf s.mem = true) :
    Memory.wf (scrubWord st c p s).mem = true := by
  unfold scrubWord
  grind [bumpMc_mem, logLimited_mem, freshUe_mem, poisonRaw_wf]

theorem scrubItem_wf (st c : Nat) (it : ScrubItem) {s : Sled} (h : Memory.wf s.mem = true) :
    Memory.wf (scrubItem st c it s).mem = true := by
  unfold scrubItem
  grind [foldl_wf, foldl_mem, scrubSlots_mem, scrubWord_wf]

theorem scrubOne_wf (st c : Nat) (it : ScrubItem) {s : Sled} (h : Memory.wf s.mem = true) :
    Memory.wf (scrubOne st c it s).2.mem = true := by
  unfold scrubOne
  grind [updChan_mem, scrubItem_wf]

theorem fxPatrolScrubTick_wf (st c : Nat) {s : Sled} (h : Memory.wf s.mem = true) :
    Memory.wf (fxPatrolScrubTick st c s).mem = true := by
  unfold fxPatrolScrubTick
  grind [foldl_wf, foldl_mem, updChan_mem, bumpMc_mem, scrubOne_wf]

theorem fetchQ_wf (u q : Nat) {s : Sled} (h : Memory.wf s.mem = true) :
    Memory.wf (fetchQ u q s).mem = true := by
  unfold fetchQ
  grind [logRec_mem, rSetField_mem, setDescs_mem, descFault_mem, readLocal_wf]

theorem fxDescriptorFetch_wf (u : QUnit) {s : Sled} (h : Memory.wf s.mem = true) :
    Memory.wf (fxDescriptorFetch u s).mem = true := by
  simp -implicitDefEqProofs [fxDescriptorFetch, h, fetchQ_wf]

theorem onStarted_wf (u q k op : Nat) {f : Desc → Sled → Sled}
    (hf : ∀ d t, Memory.wf t.mem = true → Memory.wf (f d t).mem = true) {s : Sled} (h : Memory.wf s.mem =
      true) :
    Memory.wf (onStarted u q k op f s).mem = true := by
  unfold onStarted
  extract_lets isl
  split
  next d _ =>
    split
    · exact hf d s h
    · exact h
  · exact h

theorem runRows_wf (u : Nat) (d : Desc) {row : Nat → Sled → Bool × Sled}
    (hrow : ∀ r t, Memory.wf t.mem = true → Memory.wf (row r t).2.mem = true) (n r : Nat) {s : Sled} (h :
      Memory.wf s.mem = true) :
    Memory.wf (runRows u d row n r s).mem = true := by
  induction n generalizing r s with
  | zero => rwa [runRows, opDone_mem]
  | succ n ih =>
    have hr := hrow r s h
    rw [runRows]
    split
    next heq => rw [heq] at hr; rwa [descFault_mem]
    next heq =>
      rw [heq] at hr
      split
      · exact ih _ hr
      · exact hr

theorem reduceLocal_wf (f : Fmt) (a : Nat) (src : List (Byte × Bool)) {s : Sled} (h : Memory.wf s.mem = true)
    :
    Memory.wf (reduceLocal f a src s).2.mem = true := by
  simp -implicitDefEqProofs [reduceLocal, h, readLocal_wf, writeLocal_wf]

theorem reduceGlobal_wf (u : Nat) (d : Desc) (g : Nat) (l : List (Byte × Bool)) {s : Sled} (h : Memory.wf
    s.mem = true) :
    Memory.wf (reduceGlobal u d g l s).mem = true := by
  unfold reduceGlobal
  grind [logPoison_mem, issueReduces_mem, reduceLocal_wf]

theorem writeGlobal_wf (id tenant g : Nat) (l : List (Byte × Bool)) {s : Sled} (h : Memory.wf s.mem = true) :
    Memory.wf (writeGlobal id tenant g l s).mem = true := by
  unfold writeGlobal
  grind [issueWrites_mem, writeLocal_wf]

theorem landRow_wf (core : Nat) (d : Desc) (dst : Nat) (l : List (Byte × Bool)) {s : Sled} (h : Memory.wf
    s.mem = true) :
    Memory.wf (landRow core d dst l s).mem = true := by
  unfold landRow
  grind [queueLocal_mem, progress_mem, reduceGlobal_wf, writeGlobal_wf]

theorem fxCopy_wf (core q k : Nat) {s : Sled} (h : Memory.wf s.mem = true) :
    Memory.wf (fxCopy core q k s).mem = true := by
  unfold fxCopy
  grind [onStarted_mem, runRows_mem, issueReads_mem, onStarted_wf, runRows_wf, readLocal_wf, landRow_wf]

theorem fxFill_wf (core q k : Nat) {s : Sled} (h : Memory.wf s.mem = true) :
    Memory.wf (fxFill core q k s).mem = true := by
  unfold fxFill
  grind [onStarted_mem, runRows_mem, onStarted_wf, runRows_wf, landRow_wf]

theorem fxReduce_wf (core q k : Nat) {s : Sled} (h : Memory.wf s.mem = true) :
    Memory.wf (fxReduce core q k s).mem = true := by
  unfold fxReduce
  grind [onStarted_mem, runRows_mem, issueReads_mem, onStarted_wf, runRows_wf, readLocal_wf, landRow_wf]

theorem onEngine_wf (u q op : Nat) {f : Desc → Sled → Sled}
    (hf : ∀ d t, Memory.wf t.mem = true → Memory.wf (f d t).mem = true) {s : Sled} (h : Memory.wf s.mem =
      true) :
    Memory.wf (onEngine u q op f s).mem = true := by
  unfold onEngine
  split
  next d _ =>
    split
    · exact hf d s h
    · exact h
  · exact h

theorem readRows_wf (core off ld len n : Nat) {s : Sled} (h : Memory.wf s.mem = true) :
    Memory.wf (readRows core off ld len n s).2.mem = true := by
  induction n generalizing off s with
  | zero => exact h
  | succ n ih =>
    simp only [readRows]
    exact ih _ (readLocal_wf _ _ h)

theorem writeRows_wf (core off ld : Nat) (l : List (List (Byte × Bool))) {s : Sled} (h : Memory.wf s.mem =
    true) :
    Memory.wf (writeRows core off ld l s).mem = true := by
  induction l generalizing off s with
  | nil => exact h
  | cons row l ih => exact ih _ (writeLocal_wf _ _ h)

theorem fxGemm_wf (core q : Nat) {s : Sled} (h : Memory.wf s.mem = true) :
    Memory.wf (fxGemm core q s).mem = true := by
  unfold fxGemm
  grind [onEngine_mem, descFault_mem, logPoison_mem, opDone_mem, onEngine_wf, readRows_wf, readLocal_wf,
    writeRows_wf]

theorem fxVop_wf (core q : Nat) {s : Sled} (h : Memory.wf s.mem = true) :
    Memory.wf (fxVop core q s).mem = true := by
  refine onEngine_wf core (20 + q) 0x40 (fun d t ht => ?_) h
  extract_lets op cols rows fi fo wi wo isInt red oc b2 b3 srcs od ldd
  split
  · rwa [descFault_mem]
  · rw [opDone_mem, apply_ite Sled.mem, logPoison_mem, ite_self]
    refine writeRows_wf _ _ _ _ ?_
    dsimp only
    refine foldl_wf_snd (fun x y hx => ?_) _ ht
    exact readRows_wf _ _ _ _ _ hx

theorem landBytes_wf (u : Nat) (d : Desc) (dst : Nat) (l : List (Byte × Bool)) {s : Sled} (h : Memory.wf s.mem
    = true) :
    Memory.wf (landBytes u d dst l s).mem = true := by
  unfold landBytes
  grind [progress_mem, keepRead_mem, logPoison_mem, reduceGlobal_wf, writeGlobal_wf]

theorem landOrdered_wf (id : Nat) (all : Bool) (fuel : Nat) {s : Sled} (h : Memory.wf s.mem = true) :
    Memory.wf (landOrdered id all fuel s).mem = true := by
  induction fuel generalizing s with
  | zero => exact h
  | succ fuel ih =>
    rw [landOrdered]
    split
    · exact h
    · extract_lets rs g
      clear_value g
      cases g with
      | nil => exact h
      | cons o g =>
        dsimp only
        split
        · exact h
        · refine ih (landBytes_wf _ _ _ _ ?_)
          rwa [foldl_mem (f := fun t (x : Nat × Outst) => closeTag x.1 t) fun t x => closeTag_mem x.1 t]

theorem luLand_wf (c : LuCtx) (d : Desc) (r : LuRun) (all : Bool) {s : Sled} (h : Memory.wf s.mem = true) :
    Memory.wf (luLand c d r all s).mem = true := by
  simp -implicitDefEqProofs [luLand, h, landOrdered_wf]

theorem luGo.luEnd_wf (c : LuCtx) (d : Desc) (r : LuRun) {s : Sled} (h : Memory.wf s.mem = true) :
    Memory.wf (luGo.luEnd c d r s).mem = true := by
  unfold luGo.luEnd
  grind [opDone_mem, luLand_wf]

theorem luWrite_wf (c : LuCtx) (d : Desc) (late : Bool) (o : LuOut) {s : Sled} (h : Memory.wf s.mem = true) :
    Memory.wf (luWrite c d late o s).mem = true := by
  unfold luWrite
  grind [queueLocal_mem, progress_mem, writeGlobal_wf]

theorem luEntry_wf {id : Nat} {w : Who} {sd : Side} {isDst : Bool} {ot : OwnerTab} {ix : List Nat} {r : LuRun}
    {s : Sled} {p : LuRun × Sled} (h : Memory.wf s.mem = true) (he : luEntry id w sd isDst ot ix r s = some p)
      :
    Memory.wf p.2.mem = true := by
  simp only [luEntry] at he
  split at he
  · cases he
    exact h
  · split at he
    · cases he
    · cases he
      exact readFor_wf _ _ _ h

theorem luEntries_wf {c : LuCtx} {id : Nat} {w : Who} {i : Nat} {r : LuRun} {s : Sled} {p : LuRun × Sled}
    (h : Memory.wf s.mem = true) (he : luEntries c id w i r s = some p) : Memory.wf p.2.mem = true := by
  unfold luEntries at he
  split at he
  · cases he
    exact h
  · split at he
    · cases he
    next r' t hsrc => exact luEntry_wf (luEntry_wf h hsrc) he

theorem luFault_wf (c : LuCtx) (d : Desc) (code i : Nat) (r : LuRun) {s : Sled} (h : Memory.wf s.mem = true) :
    Memory.wf (luFault c d code i r s).mem = true := by
  unfold luFault
  grind [luPause_mem, descFault_mem, luLand_wf]

theorem luGo_wf (c : LuCtx) (d : Desc) (n : Nat) (out : LuOut) (inp : Option LuIn) (r : LuRun) {s : Sled} (h :
    Memory.wf s.mem = true) :
    Memory.wf (luGo c d n out inp r s).mem = true := by
  induction n generalizing out inp r s with
  | zero =>
    cases inp with
    | some o =>
      rw [luGo]
      split
      · rwa [luPause_mem]
      · refine luGo.luEnd_wf _ _ _ ?_
        rwa [issue_mem]
    | none => exact luGo.luEnd_wf _ _ _ (luWrite_wf _ _ _ _ h)
  | succ n ih =>
    rw [luGo]
    split
    · exact h
    · extract_lets stop
      have hstop {r : LuRun} {s : Sled} {f : Nat → LuRun → Sled → Sled} (h : Memory.wf s.mem = true)
          (hf : ∀ i r t, Memory.wf t.mem = true → Memory.wf (f i r t).mem = true) :
          Memory.wf (stop r s f).mem = true := by
        simp only [stop]
        split
        · split
          · rwa [luPause_mem]
          · refine hf _ _ _ ?_
            rwa [luRead_mem]
        · exact hf _ _ _ (luWrite_wf _ _ _ _ h)
      clear_value stop
      split
      · refine hstop h fun i r t ht => ?_
        rwa [luPause_mem]
      next r' t hents =>
        have ht := luEntries_wf h hents
        split
        · exact hstop ht fun i r u hu => luFault_wf _ _ _ _ _ hu
        · exact ih _ _ _ ht
        next p _ =>
          extract_lets remote a new late gather
          clear_value remote a new late
          split
          · split
            next o _ =>
              split
              · exact ih _ _ _ ht
              · split
                · rwa [luPause_mem]
                · refine ih _ _ _ ?_
                  rwa [issue_mem]
            next => exact ih _ _ _ (luWrite_wf _ _ _ _ ht)
          · have hgather {r : LuRun} {s : Sled} (h : Memory.wf s.mem = true) : Memory.wf (gather r s).mem =
            true := by
              simp only [gather]
              have hout {t : Sled} {bs : List (Byte × Bool)} (ht : Memory.wf t.mem = true) :
                  Memory.wf (if out.2.isEmpty then luGo c d n (p.dst, bs) none r t
                    else if p.dst = out.1 + out.2.length then luGo c d n (out.1, out.2 ++ bs) none r t
                    else luGo c d n (p.dst, bs) none r (luWrite c d false out t)).mem = true := by
                split
                · exact ih _ _ _ ht
                · split
                  · exact ih _ _ _ ht
                  · exact ih _ _ _ (luWrite_wf _ _ _ _ ht)
              refine hout ?_
              rw [apply_ite Sled.mem, logPoison_mem, ite_self]
              split
              · exact h
              · exact readLocal_wf _ _ h
              · exact h
              · exact h
            clear_value gather
            split
            next o _ =>
              split
              · rwa [luPause_mem]
              · refine hgather ?_
                rwa [issue_mem]
            next => exact hgather ht

theorem luResume_wf (core : Nat) (d : Desc) (r : LuRun) {s : Sled} (h : Memory.wf s.mem = true) :
    Memory.wf (luResume core d r s).mem = true := by
  simp -implicitDefEqProofs [luResume, h, luGo_wf]

theorem readOwnerTab_wf (core : Nat) (w : Who) (sd : Side) {s : Sled} (h : Memory.wf s.mem = true) :
    Memory.wf (readOwnerTab core w sd s).2.mem = true := by
  unfold readOwnerTab
  grind [readFor_wf]

theorem layoutStart_wf (core : Nat) (d : Desc) {s : Sled} (h : Memory.wf s.mem = true) :
    Memory.wf (layoutStart core d s).2.mem = true := by
  unfold layoutStart
  grind [readLocal_wf, readOwnerTab_wf, readRows_wf]

theorem luStage_wf (c : LuCtx) (n i : Nat) {s : Sled} (h : Memory.wf s.mem = true) :
    Memory.wf (luStage c n i s).2.mem = true := by
  induction n generalizing i s with
  | zero => exact h
  | succ n ih =>
    rw [luStage]
    split
    · exact h
    · refine ih _ ?_
      split
      · split
        · exact readLocal_wf _ _ h
        · exact h
      · exact h

theorem luBegin_wf (core : Nat) (d : Desc) (r : LuRun) {s : Sled} (h : Memory.wf s.mem = true) :
    Memory.wf (luBegin core d r s).mem = true := by
  unfold luBegin
  grind [luStage_wf, luGo_wf]

theorem fxLayout_wf (core q k : Nat) {s : Sled} (h : Memory.wf s.mem = true) :
    Memory.wf (fxLayout core q k s).mem = true := by
  unfold fxLayout
  grind [onStarted_mem, descFault_mem, holdStaging_mem, setLu_mem, onStarted_wf, luResume_wf, layoutStart_wf,
    luBegin_wf]

theorem fxLayoutStagingGrant_wf (core : Nat) {s : Sled} (h : Memory.wf s.mem = true) :
    Memory.wf (fxLayoutStagingGrant core s).mem = true := by
  unfold fxLayoutStagingGrant
  grind [holdStaging_mem, luBegin_wf]

theorem uncachedLoad_wf (c rd : Nat) (f3 a : Nat) (l n : Nat) {s : Sled} (h : Memory.wf s.mem = true) :
    Memory.wf (uncachedLoad c rd f3 a l n s).mem = true := by
  unfold uncachedLoad
  grind [seSyncLoad_mem, regLoad_mem, setX_mem, seResult_mem, seAddrFault_mem, readLocal_wf]

theorem flushHalf_wf (c k y : Nat) (l : Line) {s : Sled} (h : Memory.wf s.mem = true) :
    Memory.wf (flushHalf c k y l s).mem = true := by
  unfold flushHalf
  grind [logUnmapped_mem, writeWord_wf]

theorem flushLine_wf (c k : Nat) {s : Sled} (h : Memory.wf s.mem = true) :
    Memory.wf (flushLine c k s).mem = true := by
  unfold flushLine
  grind [setLine_mem, flushHalf_wf]

theorem fillLine_wf (c k : Nat) {s : Sled} (h : Memory.wf s.mem = true) :
    Memory.wf (fillLine c k s).mem = true := by
  unfold fillLine
  grind [nextFree_mem, dropLine_mem, setLine_mem, flushLine_wf, readLocal_wf]

theorem cacheLoad_wf (c fuel a n : Nat) {s : Sled} (h : Memory.wf s.mem = true) :
    Memory.wf (cacheLoad c fuel a n s).2.mem = true := by
  induction fuel generalizing a n s with
  | zero => exact h
  | succ fuel ih =>
    simp only [cacheLoad]
    split
    · exact h
    · exact ih _ _ (fillLine_wf _ _ h)

theorem seLoadOp_wf (vol : Bool) (c f3 : Nat) (rd a : Nat) {s : Sled} (h : Memory.wf s.mem = true) :
    Memory.wf (seLoadOp vol c f3 rd a s).mem = true := by
  unfold seLoadOp
  grind [seIllegal_mem, seAddrFault_mem, seRemoteLoad_mem, seResult_mem, uncachedLoad_wf, flushLine_wf,
    cacheLoad_wf]

theorem fxSeLoad_wf (c f3 : Nat) (rd a : Nat) {s : Sled} (h : Memory.wf s.mem = true) :
    Memory.wf (fxSeLoad c f3 rd a s).mem = true := by
  simp -implicitDefEqProofs [fxSeLoad, h, seLoadOp_wf]

theorem uncachedStore_wf (c a : Nat) (l n v : Nat) {s : Sled} (h : Memory.wf s.mem = true) :
    Memory.wf (uncachedStore c a l n v s).mem = true := by
  unfold uncachedStore
  grind [seSyncStore_mem, seAddrFault_mem, regWrite_wf, writeLocal_wf]

theorem cacheStore_wf (c fuel a : Nat) (d : List Byte) {s : Sled} (h : Memory.wf s.mem = true) :
    Memory.wf (cacheStore c fuel a d s).mem = true := by
  induction fuel generalizing a d s with
  | zero => exact h
  | succ fuel ih =>
    simp only [cacheStore]
    split
    · exact h
    · refine ih _ _ ?_
      have hfill := fillLine_wf c (a / 64) h
      split
      · rwa [setLine_mem]
      · exact hfill

theorem seStoreOp_wf (vol : Bool) (c f3 : Nat) (a v : Nat) {s : Sled} (h : Memory.wf s.mem = true) :
    Memory.wf (seStoreOp vol c f3 a v s).mem = true := by
  unfold seStoreOp
  grind [seIllegal_mem, seAddrFault_mem, seRemoteStore_mem, dropLine_mem, uncachedStore_wf, flushLine_wf,
    cacheStore_wf]

theorem fxSeStore_wf (c f3 : Nat) (a v : Nat) {s : Sled} (h : Memory.wf s.mem = true) :
    Memory.wf (fxSeStore c f3 a v s).mem = true := by
  simp -implicitDefEqProofs [fxSeStore, h, seStoreOp_wf]

theorem onLine_wf (c a : Nat) {f : Nat → Sled → Sled} (hf : ∀ k t, Memory.wf t.mem = true → Memory.wf (f k
    t).mem = true)
    {s : Sled} (h : Memory.wf s.mem = true) : Memory.wf (onLine c a f s).mem = true := by
  unfold onLine
  split
  · exact h
  · split
    next k _ =>
      split
      · exact hf k s h
      · exact h
    · exact h

theorem fxScFlush_wf (c a : Nat) {s : Sled} (h : Memory.wf s.mem = true) :
    Memory.wf (fxScFlush c a s).mem = true := by
  unfold fxScFlush
  grind [onLine_mem, onLine_wf, flushLine_wf]

theorem fxScFlinv_wf (c a : Nat) {s : Sled} (h : Memory.wf s.mem = true) :
    Memory.wf (fxScFlinv c a s).mem = true := by
  unfold fxScFlinv
  grind [onLine_mem, dropLine_mem, onLine_wf, flushLine_wf]

theorem fxScAll_wf (c imm : Nat) {s : Sled} (h : Memory.wf s.mem = true) :
    Memory.wf (fxScAll c imm s).mem = true := by
  unfold fxScAll
  grind [foldl_wf, foldl_mem, seIllegal_mem, dropLine_mem, flushLine_wf]

theorem fxLdv_wf (c f3 : Nat) (rd a : Nat) {s : Sled} (h : Memory.wf s.mem = true) :
    Memory.wf (fxLdv c f3 rd a s).mem = true := by
  simp -implicitDefEqProofs [fxLdv, h, seLoadOp_wf]

theorem fxSdv_wf (c f3 : Nat) (a v : Nat) {s : Sled} (h : Memory.wf s.mem = true) :
    Memory.wf (fxSdv c f3 a v s).mem = true := by
  simp -implicitDefEqProofs [fxSdv, h, seStoreOp_wf]

theorem readSlots_wf (l : List Nat) (n : Nat) {s : Sled} (h : Memory.wf s.mem = true) :
    Memory.wf (readSlots l n s).2.mem = true := by
  induction l generalizing n s with
  | nil => exact h
  | cons i l ih => exact ih _ (readLocal_wf _ _ h)

theorem readBody_wf (w : Who) (t : Strm) {s : Sled} (h : Memory.wf s.mem = true) :
    Memory.wf (readBody w t s).2.mem = true := by
  unfold readBody
  grind [bump_mem, readSlots_wf, readFor_wf]

theorem writeFor_wf (w : Who) (a : Nat) (l : List (Byte × Bool)) {s : Sled} (h : Memory.wf s.mem = true) :
    Memory.wf (writeFor w a l s).mem = true := by
  simp -implicitDefEqProofs [writeFor, h, writeLocal_wf]

theorem evict_wf (w : Who) (id : Nat) {s : Sled} (h : Memory.wf s.mem = true) :
    Memory.wf (evict w id s).mem = true := by
  unfold evict
  grind [bump_mem, putStrm_mem, readBody_wf, writeFor_wf]

theorem evictUntil_wf (w : Who) (t need : Nat) (l : List (Nat × Strm)) {s : Sled} (h : Memory.wf s.mem = true)
    :
    Memory.wf (evictUntil w t need l s).mem = true := by
  induction l generalizing s with
  | nil => exact h
  | cons v l ih =>
    rw [evictUntil]
    split
    · exact h
    · exact ih (evict_wf w v.1 h)

theorem writeSlots_wf (l : List Nat) (b : List (Byte × Bool)) {s : Sled} (h : Memory.wf s.mem = true) :
    Memory.wf (writeSlots l b s).mem = true := by
  induction l generalizing b s with
  | nil => exact h
  | cons i l ih => exact ih _ (writeLocal_wf _ _ h)

theorem register_wf (d : Desc) (id : Nat) (t : Strm) (body : List (Byte × Bool)) {s : Sled} (h : Memory.wf
    s.mem = true) :
    Memory.wf (register d id t body s).mem = true := by
  unfold register
  grind [putStrm_mem, evictUntil_wf, writeSlots_wf, writeFor_wf]

theorem fxSreg_wf (q k : Nat) {s : Sled} (h : Memory.wf s.mem = true) :
    Memory.wf (fxSreg q k s).mem = true := by
  unfold fxSreg
  grind [onStarted_mem, descFault_mem, opDone_mem, onStarted_wf, readLocal_wf, register_wf]

theorem swapIn_wf (w : Who) (id : Nat) (t : Strm) {s : Sled} (h : Memory.wf s.mem = true) :
    Memory.wf (swapIn w id t s).mem = true := by
  simp -implicitDefEqProofs [swapIn, h, readBody_wf, writeSlots_wf]

theorem onStream_wf (d : Desc) (resident : Bool) (bar : Strm → Sled → Nat) {f : Strm → Sled → Sled}
    (hf : ∀ x t, Memory.wf t.mem = true → Memory.wf (f x t).mem = true) {s : Sled} (h : Memory.wf s.mem =
      true) :
    Memory.wf (onStream d resident bar f s).mem = true := by
  unfold onStream
  split
  · exact h
  · split
    · rwa [descFault_mem]
    next x _ =>
      split
      · rwa [descFault_mem]
      · split
        · exact hf x s h
        · extract_lets w v t x' u' u
          have hev : Memory.wf t.mem = true := evictUntil_wf _ _ _ _ h
          have hin : Memory.wf u.mem = true := swapIn_wf _ _ _ hev
          clear_value w v u
          split
          · rwa [descFault_mem]
          · split
            · split
              · exact hev
              · rw [bump_mem]
                exact hev
            · split
              · exact hf _ u hin
              · exact hin

theorem stepRun_wf (t : Strm) (d : Desc) (ps : List (List FVal × Bool)) (n i : Nat) (st : List (List FVal ×
    Bool)) (m : StepMet) {s : Sled} (h : Memory.wf s.mem = true) :
    Memory.wf (stepRun t d ps n i st m s).2.2.mem = true := by
  induction n generalizing i st m s with
  | zero => exact h
  | succ n ih =>
    simp only [stepRun]
    refine ih _ _ _ ?_
    have hx := readLocal_wf (dField d 0x20 8 + i * dField d 0x38 4) (t.c * stepInBytes (d.fmt % 16)) h
    split
    · split
      · exact readLocal_wf _ _ hx
      · exact hx
    · refine writeLocal_wf _ _ ?_
      split
      · exact readLocal_wf _ _ hx
      · exact hx

theorem stepEffect_wf (d : Desc) (t : Strm) {s : Sled} (h : Memory.wf s.mem = true) :
    Memory.wf (stepEffect d t s).mem = true := by
  unfold stepEffect
  grind [bump_mem, logRec_mem, logPoison_mem, putStrm_mem, opDone_mem, progress_mem, readBody_wf, stepRun_wf,
    writeSlots_wf]

theorem fxStep_wf (q k : Nat) {s : Sled} (h : Memory.wf s.mem = true) :
    Memory.wf (fxStep q k s).mem = true := by
  unfold fxStep
  grind [onStarted_mem, onStarted_wf, onStream_wf, stepEffect_wf]

theorem capsule_wf (w : Who) (id ver : Nat) (t : Strm) {s : Sled} (h : Memory.wf s.mem = true) :
    Memory.wf (capsule w id ver t s).2.mem = true := by
  simp -implicitDefEqProofs [capsule, h, readBody_wf]

theorem exportEffect_wf (d : Desc) (t : Strm) {s : Sled} (h : Memory.wf s.mem = true) :
    Memory.wf (exportEffect d t s).mem = true := by
  unfold exportEffect
  grind [descFault_mem, opDone_mem, endStrm_mem, capsule_wf, writeGlobal_wf]

theorem fxStrExport_wf (q k : Nat) {s : Sled} (h : Memory.wf s.mem = true) :
    Memory.wf (fxStrExport q k s).mem = true := by
  unfold fxStrExport
  grind [onStarted_mem, onStarted_wf, onStream_wf, exportEffect_wf]

theorem importEffect_wf (d : Desc) (l : List (Byte × Bool)) {s : Sled} (h : Memory.wf s.mem = true) :
    Memory.wf (importEffect d l s).mem = true := by
  unfold importEffect
  grind [descFault_mem, bump_mem, opDone_mem, register_wf]

theorem fxStrImport_wf (q k : Nat) {s : Sled} (h : Memory.wf s.mem = true) :
    Memory.wf (fxStrImport q k s).mem = true := by
  unfold fxStrImport
  grind [onStarted_mem, descFault_mem, bump_mem, issueReads_mem, onStarted_wf, readLocal_wf, importEffect_wf]

theorem fxPause_wf (q k : Nat) {s : Sled} (h : Memory.wf s.mem = true) :
    Memory.wf (fxPause q k s).mem = true := by
  unfold fxPause
  grind [onStarted_mem, pauseEffect_mem, onStarted_wf, onStream_wf]

theorem fxPauseResume_wf (q k : Nat) {s : Sled} (h : Memory.wf s.mem = true) :
    Memory.wf (fxPauseResume q k s).mem = true := by
  unfold fxPauseResume
  grind [onStarted_mem, pauseEffect_mem, onStarted_wf, onStream_wf]

theorem sendEffect_wf (d : Desc) (t : Strm) {s : Sled} (h : Memory.wf s.mem = true) :
    Memory.wf (sendEffect d t s).mem = true := by
  unfold sendEffect
  grind [opDone_mem, endStrm_mem, readBody_wf, writeFor_wf]

theorem fxSend_wf (q k : Nat) {s : Sled} (h : Memory.wf s.mem = true) :
    Memory.wf (fxSend q k s).mem = true := by
  unfold fxSend
  grind [onStarted_mem, onStarted_wf, onStream_wf, sendEffect_wf]

theorem fxPwlLoad_wf (a : Agent) (i addr : Nat) {s : Sled} (h : Memory.wf s.mem = true) :
    Memory.wf (fxPwlLoad a i addr s).mem = true := by
  unfold fxPwlLoad
  grind [regAccess_mem, regAccess_wf, pwlGo_wf]

theorem whenS_wf (c : Sled → Bool) {f : Sled → Sled} (hf : ∀ t, Memory.wf t.mem = true → Memory.wf (f t).mem =
    true) {s : Sled}
    (h : Memory.wf s.mem = true) : Memory.wf (whenS c f s).mem = true := by
  unfold whenS
  split
  · exact hf s h
  · exact h

theorem inState_wf (l st : Nat) {f : Sled → Sled} (hf : ∀ t, Memory.wf t.mem = true → Memory.wf (f t).mem =
    true) {s : Sled}
    (h : Memory.wf s.mem = true) : Memory.wf (inState l st f s).mem = true := by
  exact whenS_wf _ hf h

theorem arrive_wf (l : LinkId) (kind : Nat) (m : MsgIn) {f : Sled → Sled}
    (hf : ∀ t, Memory.wf t.mem = true → Memory.wf (f t).mem = true) {s : Sled} (h : Memory.wf s.mem = true) :
    Memory.wf (arrive l kind m f s).mem = true := by
  unfold arrive
  grind [forward_mem]

theorem fxFabWriteHere_wf (m : MsgIn) {s : Sled} (h : Memory.wf s.mem = true) :
    Memory.wf (fxFabWriteHere m s).mem = true := by
  unfold fxFabWriteHere
  grind [progress_mem, respond_mem, refuseMsg_mem, writeLocal_wf]

theorem fxFabWrite_wf (l : LinkId) (m : MsgIn) {s : Sled} (h : Memory.wf s.mem = true) :
    Memory.wf (fxFabWrite l m s).mem = true := by
  unfold fxFabWrite
  grind [arrive_mem, arrive_wf, fxFabWriteHere_wf]

theorem fxFabRead_wf (l : LinkId) (m : MsgIn) {s : Sled} (h : Memory.wf s.mem = true) :
    Memory.wf (fxFabRead l m s).mem = true := by
  unfold fxFabRead
  grind [arrive_mem, readAnswers_mem, refuseMsg_mem, arrive_wf, readLocal_wf]

theorem fxFabricReduce_wf (l : LinkId) (m : MsgIn) {s : Sled} (h : Memory.wf s.mem = true) :
    Memory.wf (fxFabricReduce l m s).mem = true := by
  unfold fxFabricReduce
  grind [arrive_mem, progress_mem, respond_mem, refuseMsg_mem, arrive_wf, reduceLocal_wf]

theorem contDone_wf (o : Outst) (m : MsgIn) {s : Sled} (h : Memory.wf s.mem = true) :
    Memory.wf (contDone o m s).mem = true := by
  unfold contDone
  grind [dropDesc_mem, logPoison_mem, seFault_mem, logRec_mem, setX_mem, wakeSe_mem, returnVal_mem,
    landBytes_wf]

theorem fxReadData_wf (l : LinkId) (m : MsgIn) {s : Sled} (h : Memory.wf s.mem = true) :
    Memory.wf (fxReadData l m s).mem = true := by
  unfold fxReadData
  grind [arrive_mem, ackPrimary_mem, closeTag_mem, arrive_wf, landOrdered_wf, contDone_wf]

theorem fxWriteAck_wf (l : LinkId) (m : MsgIn) {s : Sled} (h : Memory.wf s.mem = true) :
    Memory.wf (fxWriteAck l m s).mem = true := by
  unfold fxWriteAck
  grind [arrive_mem, closeTag_mem, ackPrimary_mem, arrive_wf, contDone_wf]

theorem fxSyncResp_wf (l : LinkId) (m : MsgIn) {s : Sled} (h : Memory.wf s.mem = true) :
    Memory.wf (fxSyncResp l m s).mem = true := by
  unfold fxSyncResp
  grind [arrive_mem, closeTag_mem, ackPrimary_mem, arrive_wf, contDone_wf]

theorem deliver_wf (l : LinkId) (vc : Fin 4) (m : Msg) {s : Sled} (h : Memory.wf s.mem = true) :
    Memory.wf (deliver l vc m s).mem = true := by
  unfold deliver
  grind [fxFabSignal_mem, fxSyncOp_mem, fxRefuse_mem, fxUnreach_mem, fxLeave_mem, fxReservedKindMessage_mem,
    fxFabWrite_wf, fxFabRead_wf, fxFabricReduce_wf, fxReadData_wf, fxWriteAck_wf, fxSyncResp_wf]

theorem fxCreditRelease_wf (l : LinkId) (vc : Fin 4) {s : Sled} (h : Memory.wf s.mem = true) :
    Memory.wf (fxCreditRelease l vc s).mem = true := by
  unfold fxCreditRelease
  grind [foldl_wf, foldl_mem, updLnk_mem, deliver_wf]

theorem fxHostMemoryWrite_wf (fn : Nat) (b : Bar) (off : Nat) (d : List Byte) (ep : Bool) {s : Sled} (h :
    Memory.wf s.mem = true) :
    Memory.wf (fxHostMemoryWrite fn b off d ep s).mem = true := by
  unfold fxHostMemoryWrite
  grind [hostFail_mem, poisonIn_mem, hostSyncWrite_mem, bar0Put_mem, hostHole_mem, progress_mem,
    reachFault_mem, writeLocal_wf]

theorem fxHostMemoryRead_wf (fn : Nat) (b : Bar) (off n : Nat) {s : Sled} (h : Memory.wf s.mem = true) :
    Memory.wf (fxHostMemoryRead fn b off n s).mem = true := by
  unfold fxHostMemoryRead
  grind [hostFail_mem, hostSyncRead_mem, bar0Bytes_mem, complete_mem, hostHole_mem, bump_mem, reachFault_mem,
    readLocal_wf]

theorem fxFlrVf_wf (k : Nat) {s : Sled} (h : Memory.wf s.mem = true) :
    Memory.wf (fxFlrVf k s).mem = true := by
  unfold fxFlrVf
  grind [tenantResetBegin_wf]

theorem cxlHalf_wf (a mask : Nat) (d : List Byte) (poison : Bool) {s : Sled} (h : Memory.wf s.mem = true) :
    Memory.wf (cxlHalf a mask d poison s).mem = true := by
  unfold cxlHalf
  grind [foldl_wf, foldl_mem, writeLocal_wf]

theorem fxCxlMemRequest_wf (hpa : Nat) (wr : Option (Nat × List Byte)) (poison : Bool) {s : Sled} (h :
    Memory.wf s.mem = true) :
    Memory.wf (fxCxlMemRequest hpa wr poison s).mem = true := by
  unfold fxCxlMemRequest
  grind [foldl_wf, foldl_mem, hostFail_mem, poisonIn_mem, hostHole_mem, complete_mem, progress_mem, bump_mem,
    cxlHalf_wf, readLocal_wf]

theorem fxSpareGo_wf (st r k : Nat) {s : Sled} (h : Memory.wf s.mem = true) :
    Memory.wf (fxSpareGo st r k s).mem = true := by
  unfold fxSpareGo
  grind [setStall_mem, logRec_mem, spareGo_wf]

theorem copyWord_wf (dead : Bool) (src dst : Nat) {s : Sled} (h : Memory.wf s.mem = true) :
    Memory.wf (copyWord dead src dst s).mem = true := by
  unfold copyWord
  grind [freshUe_mem, poisonAt_wf, storeWord_wf]

theorem flushHeld_wf (st : Nat) (p : Coord → Bool) {s : Sled} (h : Memory.wf s.mem = true) :
    Memory.wf (flushHeld st p s).mem = true := by
  unfold flushHeld
  grind [foldl_wf, foldl_mem, updMcs_mem, writeRaw_wf]

theorem copyBanks_wf (st c : Nat) (p : Nat → Bool) {s : Sled} (h : Memory.wf s.mem = true) :
    Memory.wf (copyBanks st c p s).mem = true := by
  unfold copyBanks
  grind [foldl_wf, foldl_mem, updMcs_mem, copyWord_wf, flushHeld_wf]

theorem fxMigrationCopyRow_wf (st c : Nat) {s : Sled} (h : Memory.wf s.mem = true) :
    Memory.wf (fxMigrationCopyRow st c s).mem = true := by
  unfold fxMigrationCopyRow
  grind [foldl_wf, foldl_mem, noteWait_mem, copyBanks_wf]

theorem fxMigrationRowBreak_wf (st c b : Nat) {s : Sled} (h : Memory.wf s.mem = true) :
    Memory.wf (fxMigrationRowBreak st c b s).mem = true := by
  unfold fxMigrationRowBreak
  grind [mustReopen_mem, bumpMc_mem, copyBanks_wf]

theorem fxMigrationCutover_wf (st : Nat) {s : Sled} (h : Memory.wf s.mem = true) :
    Memory.wf (fxMigrationCutover st s).mem = true := by
  unfold fxMigrationCutover
  grind [foldl_wf, foldl_mem, cutChannel_mem, updMcs_mem, ctrAdd_mem, flushHeld_wf]

/-- `syncAccess` is kept out of the step's equation: the kernel would else run it on an address that is not known. -/
theorem rdmaRead_wf (n fuel a len : Nat) {s : Sled} (h : Memory.wf s.mem = true) :
    Memory.wf (rdmaRead n fuel a len s).2.mem = true := by
  have hacc (w : Who) (off acc x : Nat) (t : Sled) : (syncAccess w off acc x t).2.mem = t.mem :=
    syncAccess_mem w off acc x t
  delta rdmaRead rdmaRead._f
  revert hacc
  generalize syncAccess = access
  as_aux_lemma =>
    intro hacc
    induction fuel generalizing a len s with
    | zero => exact h
    | succ fuel ih =>
      dsimp only
      split
      · exact h
      · split
        · refine ih _ _ ?_
          rwa [hacc]
        · exact ih _ _ (readLocal_wf _ _ h)

theorem rdmaWrite_wf (n fuel a : Nat) (l : List (Byte × Bool)) {s : Sled} (h : Memory.wf s.mem = true) :
    Memory.wf (rdmaWrite n fuel a l s).mem = true := by
  induction fuel generalizing a l s with
  | zero => exact h
  | succ fuel ih =>
    simp only [rdmaWrite]
    split
    · exact h
    · split
      · refine ih _ _ ?_
        rwa [syncAccess_mem]
      · exact ih _ _ (writeLocal_wf _ _ h)

theorem rdmaMove_wf (d : Rdma) (fuel pos : Nat) {s : Sled} (h : Memory.wf s.mem = true) :
    Memory.wf (rdmaMove d fuel pos s).2.mem = true := by
  induction fuel generalizing pos s with
  | zero => exact h
  | succ fuel ih =>
    rw [rdmaMove]
    split
    · exact h
    · extract_lets k
      split
      · exact h
      · exact h
      · refine ih _ (rdmaWrite_wf _ _ _ _ ?_)
        cases d.fill with
        | true => exact h
        | false => exact rdmaRead_wf _ _ _ _ h

theorem fxRescueDmaDone_wf (n : Nat) {s : Sled} (h : Memory.wf s.mem = true) :
    Memory.wf (fxRescueDmaDone n s).mem = true := by
  have hmove := fun d {u : Sled} (hu : Memory.wf u.mem = true) => rdmaMove_wf d 4097 0 hu
  delta fxRescueDmaDone
  generalize rdmaMove = g at hmove ⊢
  generalize 4097 = fuel at hmove ⊢
  as_aux_lemma =>
    grind [ctrAdd_mem, bump_mem, rSetField_mem, logRec_mem]

theorem critShutdown_wf (i : Nat) {s : Sled} (h : Memory.wf s.mem = true) :
    Memory.wf (critShutdown i s).mem = true := by
  unfold critShutdown
  grind [foldl_wf, foldl_mem, bump_mem, linkDown_mem, railsDown_mem, logRec_mem, railsDown_wf, watchOnly_wf]

theorem sensorReads_wf (i v : Nat) {s : Sled} (h : Memory.wf s.mem = true) :
    Memory.wf (sensorReads i v s).mem = true := by
  unfold sensorReads
  grind [updSensor_mem, setFast_mem, critShutdown_wf]

theorem fxSensorSlotRead_wf (i : Nat) (v : SensorIn) {s : Sled} (h : Memory.wf s.mem = true) :
    Memory.wf (fxSensorSlotRead i v s).mem = true := by
  unfold fxSensorSlotRead
  grind [sensorNext_mem, sensorBreaks_mem, updSensor_mem, sensorStale_mem, sensorReads_wf]

theorem fxCriticalComparator_wf (i : Nat) {s : Sled} (h : Memory.wf s.mem = true) :
    Memory.wf (fxCriticalComparator i s).mem = true := by
  unfold fxCriticalComparator
  grind [critShutdown_wf]

theorem kprCmd_wf (t : Transport) (cmd : Nat) {f : Sled → (Nat × List Byte) × Sled}
    (hf : ∀ u, Memory.wf u.mem = true → Memory.wf (f u).2.mem = true) {s : Sled} (h : Memory.wf s.mem = true)
      :
    Memory.wf (kprCmd t cmd f s).mem = true := by
  simp only [kprCmd, apply_ite Sled.mem, reply_mem]
  split
  · exact h
  · split
    · exact h
    · exact hf s h

theorem kprCmdC_wf (t : Transport) (cmd : Nat) {f : Sled → (Nat × List Byte) × Sled}
    (hf : ∀ u, Memory.wf u.mem = true → Memory.wf (f u).2.mem = true) {s : Sled} (h : Memory.wf s.mem = true)
      :
    Memory.wf (kprCmdC t cmd f s).mem = true := by
  refine kprCmd_wf t cmd (fun u hu => ?_) h
  split
  · exact hu
  · exact hf u hu

theorem fxKeeperResetWarm_wf (t : Transport) {s : Sled} (h : Memory.wf s.mem = true) :
    Memory.wf (fxKeeperResetWarm t s).mem = true := by
  unfold fxKeeperResetWarm
  grind [kprCmdC_mem, kprCmdC_wf, warmReset_wf]

theorem fxKeeperResetTenant_wf (t : Transport) (n : Nat) {s : Sled} (h : Memory.wf s.mem = true) :
    Memory.wf (fxKeeperResetTenant t n s).mem = true := by
  unfold fxKeeperResetTenant
  grind [kprCmdC_mem, kprCmdC_wf, tenantResetBegin_wf]

theorem bankColumn.moves_wf (k n : Nat) {s : Sled} (h : Memory.wf s.mem = true) :
    Memory.wf (bankColumn.moves k n s).mem = true := by
  induction n generalizing s with
  | zero => exact h
  | succ n ih =>
    rw [bankColumn.moves]
    split
    · exact ih (bankStep_wf k h)
    · exact h

theorem bankColumn_wf (k : Nat) {s : Sled} (h : Memory.wf s.mem = true) :
    Memory.wf (bankColumn k s).mem = true := by
  simp -implicitDefEqProofs [bankColumn, h, bankStep_wf, bankColumn.moves_wf]

theorem fxColumnStep_wf (st : Nat) {s : Sled} (h : Memory.wf s.mem = true) :
    Memory.wf (fxColumnStep st s).mem = true := by
  unfold fxColumnStep
  grind [foldl_wf, foldl_mem, bankColumn_wf]

theorem freshSled_wf  {s : Sled} (h : Memory.wf s.mem = true) : Memory.wf (freshSled s).mem = true := by
  rfl

theorem fxInsertionPrecharge_wf {s : Sled} (h : Memory.wf s.mem = true) :
    Memory.wf (fxInsertionPrecharge s).mem = true := by
  unfold fxInsertionPrecharge
  grind [freshSled_wf]

theorem fxPowerOnReset_wf {s : Sled} (h : Memory.wf s.mem = true) :
    Memory.wf (fxPowerOnReset s).mem = true := by
  unfold fxPowerOnReset
  grind [aonRise_mem, freshSled_wf]

theorem fxModResetNAssert_wf {s : Sled} (h : Memory.wf s.mem = true) :
    Memory.wf (fxModResetNAssert s).mem = true := by
  unfold fxModResetNAssert
  grind [setCause_mem, freshSled_wf]

theorem strapTier_wf {s : Sled} (h : Memory.wf s.mem = true) : Memory.wf (strapTier s).mem = true := by
  unfold strapTier
  grind [watchOnly_wf]

theorem fxPwrEnAssert_wf {s : Sled} (h : Memory.wf s.mem = true) :
    Memory.wf (fxPwrEnAssert s).mem = true := by
  unfold fxPwrEnAssert
  grind [railsStart_mem, alertOn_mem, setCause_mem, strapTier_wf]

theorem fxPwrEnDeassert_wf {s : Sled} (h : Memory.wf s.mem = true) :
    Memory.wf (fxPwrEnDeassert s).mem = true := by
  unfold fxPwrEnDeassert
  grind [railsDown_mem, holdCommit_mem, railsDown_wf]

theorem exportAll_wf  {s : Sled} (h : Memory.wf s.mem = true) : Memory.wf (exportAll s).mem = true := by
  unfold exportAll
  split
  · exact h
  · split
    · exact h
    · exact foldl_wf_snd (fun x y hx => writeGlobal_wf _ _ _ _ (capsule_wf _ _ _ _ hx)) _ h

theorem quiescePower_wf {s : Sled} (h : Memory.wf s.mem = true) : Memory.wf (quiescePower s).mem = true := by
  unfold quiescePower
  grind [railsDown_mem, railsDown_wf]

theorem fxQuiesceTqExpire_wf {s : Sled} (h : Memory.wf s.mem = true) :
    Memory.wf (fxQuiesceTqExpire s).mem = true := by
  unfold fxQuiesceTqExpire
  grind [foldl_wf, foldl_mem, linksLeave_mem, exportAll_wf, tenantResetBegin_wf, quiescePower_wf]

theorem stageOpens_wf (overV : Bool) (code : Nat) {s : Sled} (h : Memory.wf s.mem = true) :
    Memory.wf (stageOpens overV code s).mem = true := by
  unfold stageOpens
  grind [railsDown_mem, holdCommit_mem, railsDown_wf]

theorem fxInputFall37v_wf {s : Sled} (h : Memory.wf s.mem = true) :
    Memory.wf (fxInputFall37v s).mem = true := by
  simp -implicitDefEqProofs [fxInputFall37v, h, stageOpens_wf]

theorem fxInputRise62v_wf {s : Sled} (h : Memory.wf s.mem = true) :
    Memory.wf (fxInputRise62v s).mem = true := by
  simp -implicitDefEqProofs [fxInputRise62v, h, stageOpens_wf]

theorem fxInputFall61v_wf {s : Sled} (h : Memory.wf s.mem = true) :
    Memory.wf (fxInputFall61v s).mem = true := by
  unfold fxInputFall61v
  grind [freshSled_wf]

theorem fxKeeperRomStart_wf {s : Sled} (h : Memory.wf s.mem = true) :
    Memory.wf (fxKeeperRomStart s).mem = true := by
  unfold fxKeeperRomStart
  grind [keeperRecovers_mem, keeperTrial_mem, loadSpareMap_mem, keeperRuns_mem, logRec_mem, strapTier_wf]

theorem fxProfileSelect_wf {s : Sled} (h : Memory.wf s.mem = true) :
    Memory.wf (fxProfileSelect s).mem = true := by
  unfold fxProfileSelect
  grind [takeOverride_mem, startProfile_mem, ppiBad_mem, logRec_mem, watchOnly_wf]

theorem zeroFill_wf (st : Nat) {s : Sled} (h : Memory.wf s.mem = true) :
    Memory.wf (zeroFill st s).mem = true := by
  simp only [zeroFill, apply_ite Sled.mem]
  split
  · exact h
  · exact memDrop_wf _ h

theorem trainEnd_wf (st : Nat) {s : Sled} (h : Memory.wf s.mem = true) :
    Memory.wf (trainEnd s st).mem = true := by
  unfold trainEnd
  grind [foldl_wf, foldl_mem, chanEnd_mem, ownerSet_mem, zeroFill_wf]

theorem preloadOne_wf (e : Preload) {s : Sled} (h : Memory.wf s.mem = true) :
    Memory.wf (preloadOne s e).mem = true := by
  have hw := regWrite_wf (.cc 0) (regAddr e.block e.offset) 8 e.value.toNat h
  delta preloadOne
  generalize regWrite (.cc 0) (regAddr e.block e.offset) 8 e.value.toNat s = t at hw ⊢
  as_aux_lemma =>
    extract_lets w k u
    have hu : Memory.wf u.mem = true := by
      unfold u
      split <;> exact hw
    split
    · exact hw
    · split
      · rw [rSetField_mem]
        exact hu
      · exact hu

theorem fxReadyRaise_wf {s : Sled} (h : Memory.wf s.mem = true) : Memory.wf (fxReadyRaise s).mem = true := by
  unfold fxReadyRaise
  grind [foldl_wf, foldl_mem, lockMapping_mem, applySections_mem, startCommits_mem, serviceUp_mem,
    startPorts_mem, trainEnd_wf, watchOnly_wf, preloadOne_wf]

theorem fxBootTimeout_wf {s : Sled} (h : Memory.wf s.mem = true) :
    Memory.wf (fxBootTimeout s).mem = true := by
  unfold fxBootTimeout
  grind [logRec_mem, watchOnly_wf]

theorem fxTrainingCacheWrite_wf {s : Sled} (h : Memory.wf s.mem = true) :
    Memory.wf (fxTrainingCacheWrite s).mem = true := by
  unfold fxTrainingCacheWrite
  grind [foldl_wf, foldl_mem, dirWrite_mem, quiescePower_wf]

theorem fxStreamEvictWaitEnd_wf {s : Sled} (h : Memory.wf s.mem = true) :
    Memory.wf (fxStreamEvictWaitEnd s).mem = true := by
  unfold fxStreamEvictWaitEnd
  grind [pauseEffect_mem, onStream_wf, stepEffect_wf, exportEffect_wf]

theorem coreHangs_wf (i : Nat) {s : Sled} (h : Memory.wf s.mem = true) :
    Memory.wf (coreHangs i s).mem = true := by
  unfold coreHangs
  grind [bump_mem, logRec_mem, forceSemOp_mem, clearX_mem, ccDrop_mem, setCause_mem, coreResetBegin_mem,
    ccGone_wf]

theorem heartbeat_wf (i : Nat) {s : Sled} (h : Memory.wf s.mem = true) :
    Memory.wf (heartbeat i s).mem = true := by
  unfold heartbeat
  grind [coreHangs_wf]

theorem fxHeartbeatCheck_wf {s : Sled} (h : Memory.wf s.mem = true) :
    Memory.wf (fxHeartbeatCheck s).mem = true := by
  unfold fxHeartbeatCheck
  grind [foldl_wf, foldl_mem, heartbeat_wf]

theorem fxFlashOperationDone_wf {s : Sled} (h : Memory.wf s.mem = true) :
    Memory.wf (fxFlashOperationDone s).mem = true := by
  unfold fxFlashOperationDone
  grind [logWrite_mem, pieceDone_mem, quiescePower_wf]

theorem fxAlwaysOnSupplyLost_wf {s : Sled} (h : Memory.wf s.mem = true) :
    Memory.wf (fxAlwaysOnSupplyLost s).mem = true := by
  unfold fxAlwaysOnSupplyLost
  grind [freshSled_wf]

theorem fxKeeperRestartComplete_wf {s : Sled} (h : Memory.wf s.mem = true) :
    Memory.wf (fxKeeperRestartComplete s).mem = true := by
  unfold fxKeeperRestartComplete
  grind [keeperTrial_mem, keeperRuns_mem, fxKeeperRomStart_wf]

end Sys2Proof.Machine

namespace Sys2Proof.Machine

open Sys2Proof

/-! ## Every step keeps the memory canonical -/

/-- What a command does to the sled keeps the memory canonical. -/
def KeepsCanonical (f : Sled → Sled) : Prop := ∀ s : Sled, Memory.wf s.mem = true → Memory.wf (f s).mem = true

/-- What leaves the memory alone keeps it canonical. -/
theorem KeepsCanonical.of_mem_eq {f : Sled → Sled} (hf : ∀ s, (f s).mem = s.mem) : KeepsCanonical f :=
  fun s h => (congrArg Memory.wf (hf s)).trans h

theorem KeepsCanonical.lift {f : Sled → Sled} (hf : KeepsCanonical f) {s t : State}
    (h : Memory.wf s.sled.mem = true) (ht : lift f s = .next t) : Memory.wf t.sled.mem = true := by
  cases ht
  exact hf _ h

/-- A command that an access makes wait changes nothing. -/
theorem KeepsCanonical.liftHold {f : Sled → Sled} (hf : KeepsCanonical f) {s t : State}
    (h : Memory.wf s.sled.mem = true) (ht : liftHold f s = .next t) : Memory.wf t.sled.mem = true := by
  unfold Machine.liftHold at ht
  split at ht <;> cases ht
  · exact hf _ h
  · exact h

/-- Every command keeps the memory canonical: most do not reach it, the others write canonically. -/
theorem exec_keeps_canonical (c : Instr) {s t : State} (h : Memory.wf s.sled.mem = true) (ht : exec c s = .next t) :
    Memory.wf t.sled.mem = true := by
  cases c with
  | strapWindowEnd => exact KeepsCanonical.lift (.of_mem_eq fun _ => fxStrapWindowEnd_mem ..) h ht
  | updLockNDebounced => exact KeepsCanonical.lift (.of_mem_eq fun _ => fxUpdLockNDebounced_mem ..) h ht
  | removeReqNDebounced => exact KeepsCanonical.lift (.of_mem_eq fun _ => fxRemoveReqNDebounced_mem ..) h ht
  | mainRailFault => exact KeepsCanonical.lift (fun _ => fxMainRailFault_wf _) h ht
  | firstPwrDemandWrite => exact KeepsCanonical.lift (.of_mem_eq fun _ => fxFirstPwrDemandWrite_mem ..) h ht
  | runtimeRelease => exact KeepsCanonical.lift (fun _ => fxRuntimeRelease_wf _) h ht
  | glbResetWarm => exact KeepsCanonical.lift (fun _ => fxGlbResetWarm_wf _) h ht
  | tenantRst => exact KeepsCanonical.lift (fun _ => fxTenantRst_wf _ _) h ht
  | coreRst => exact KeepsCanonical.lift (.of_mem_eq fun _ => fxCoreRst_mem ..) h ht
  | registerWrite => exact KeepsCanonical.liftHold (fun _ => fxRegisterWrite_wf _ _ _ _) h ht
  | unmappedAccess => exact KeepsCanonical.lift (.of_mem_eq fun _ => fxUnmappedAccess_mem ..) h ht
  | glbCompatWrite => exact KeepsCanonical.lift (.of_mem_eq fun _ => fxGlbCompatWrite_mem ..) h ht
  | mapProbe => exact KeepsCanonical.lift (.of_mem_eq fun _ => fxMapProbe_mem ..) h ht
  | requestEnqueue => exact KeepsCanonical.lift (fun _ => fxRequestEnqueue_wf _ _ _) h ht
  | channelSlotArbitrate => exact KeepsCanonical.lift (fun _ => fxChannelSlotArbitrate_wf _ _) h ht
  | urgencyRaise => exact KeepsCanonical.lift (.of_mem_eq fun _ => fxUrgencyRaise_mem ..) h ht
  | batchWindowClose => exact KeepsCanonical.lift (.of_mem_eq fun _ => fxBatchWindowClose_mem ..) h ht
  | refreshOwedIncrement => exact KeepsCanonical.lift (.of_mem_eq fun _ => fxRefreshOwedIncrement_mem ..) h ht
  | caparAlert => exact KeepsCanonical.lift (fun _ => fxCaparAlert_wf _ _ _ _) h ht
  | caparRecovWaitEnd => exact KeepsCanonical.lift (.of_mem_eq fun _ => fxCaparRecovWaitEnd_mem ..) h ht
  | caparReplayWindowEnd => exact KeepsCanonical.lift (.of_mem_eq fun _ => fxCaparReplayWindowEnd_mem ..) h ht
  | trainStepGo => exact KeepsCanonical.liftHold (.of_mem_eq fun _ => fxTrainStepGo_mem ..) h ht
  | trainStepDone => exact KeepsCanonical.lift (fun _ => fxTrainStepDone_wf _ _ _) h ht
  | mcDlyDataWrite => exact KeepsCanonical.liftHold (.of_mem_eq fun _ => fxMcDlyDataWrite_mem ..) h ht
  | retrainPauseDue => exact KeepsCanonical.lift (.of_mem_eq fun _ => fxRetrainPauseDue_mem ..) h ht
  | retrainPauseEnd => exact KeepsCanonical.lift (fun _ => fxRetrainPauseEnd_wf _ _ _) h ht
  | speedChangeRequest => exact KeepsCanonical.liftHold (.of_mem_eq fun _ => fxSpeedChangeRequest_mem ..) h ht
  | speedChangeStart => exact KeepsCanonical.lift (.of_mem_eq fun _ => fxSpeedChangeStart_mem ..) h ht
  | pllLockConfirmed => exact KeepsCanonical.lift (fun _ => fxPllLockConfirmed_wf _) h ht
  | pllLockTimeout => exact KeepsCanonical.lift (fun _ => fxPllLockTimeout_wf _) h ht
  | bcsQdoor => exact KeepsCanonical.liftHold (.of_mem_eq fun _ => fxBcsQdoor_mem ..) h ht
  | bcsProgramStart => exact KeepsCanonical.lift (.of_mem_eq fun _ => fxBcsProgramStart_mem ..) h ht
  | bcsOpen => exact KeepsCanonical.lift (fun _ => fxBcsOpen_wf _ _) h ht
  | bcsClose => exact KeepsCanonical.lift (fun _ => fxBcsClose_wf _ _) h ht
  | bcsBau => exact KeepsCanonical.lift (fun _ => fxBcsBau_wf _ _) h ht
  | bcsBcw => exact KeepsCanonical.liftHold (fun _ => fxBcsBcw_wf _ _ _) h ht
  | bcsRead => exact KeepsCanonical.liftHold (fun _ => fxBcsRead_wf _ _) h ht
  | bcsSet => exact KeepsCanonical.lift (fun _ => fxBcsSet_wf _) h ht
  | bcsSignal => exact KeepsCanonical.lift (fun _ => fxBcsSignal_wf _) h ht
  | bcsEnd => exact KeepsCanonical.lift (fun _ => fxBcsEnd_wf _) h ht
  | bld => exact KeepsCanonical.lift (fun _ => fxBld_wf _ _) h ht
  | bst => exact KeepsCanonical.lift (fun _ => fxBst_wf _ _) h ht
  | bmac => exact KeepsCanonical.lift (fun _ => fxBmac_wf _ _) h ht
  | bdot => exact KeepsCanonical.lift (fun _ => fxBdot_wf _ _) h ht
  | badd => exact KeepsCanonical.lift (fun _ => fxBadd_wf _ _) h ht
  | bmul => exact KeepsCanonical.lift (fun _ => fxBmul_wf _ _) h ht
  | bfma => exact KeepsCanonical.lift (fun _ => fxBfma_wf _ _) h ht
  | bema => exact KeepsCanonical.lift (fun _ => fxBema_wf _ _) h ht
  | bscale => exact KeepsCanonical.lift (fun _ => fxBscale_wf _ _) h ht
  | bcvtDequantise => exact KeepsCanonical.lift (fun _ => fxBcvtDequantise_wf _ _) h ht
  | bcvtNarrow => exact KeepsCanonical.lift (fun _ => fxBcvtNarrow_wf _ _) h ht
  | bmax => exact KeepsCanonical.lift (fun _ => fxBmax_wf _ _) h ht
  | bmin => exact KeepsCanonical.lift (fun _ => fxBmin_wf _ _) h ht
  | bred => exact KeepsCanonical.lift (fun _ => fxBred_wf _ _) h ht
  | brdacc => exact KeepsCanonical.lift (fun _ => fxBrdacc_wf _ _) h ht
  | bclr => exact KeepsCanonical.lift (fun _ => fxBclr_wf _ _) h ht
  | bsel => exact KeepsCanonical.lift (fun _ => fxBsel_wf _ _) h ht
  | bcw => exact KeepsCanonical.lift (.of_mem_eq fun _ => fxBcw_mem ..) h ht
  | bcStagingMove => exact KeepsCanonical.lift (fun _ => fxBcStagingMove_wf _) h ht
  | patrolScrubTick => exact KeepsCanonical.lift (fun _ => fxPatrolScrubTick_wf _ _) h ht
  | layQcfgWrite => exact KeepsCanonical.lift (.of_mem_eq fun _ => fxLayQcfgWrite_mem ..) h ht
  | layQtailDoorbell => exact KeepsCanonical.lift (.of_mem_eq fun _ => fxLayQtailDoorbell_mem ..) h ht
  | layQstatErrClear => exact KeepsCanonical.lift (.of_mem_eq fun _ => fxLayQstatErrClear_mem ..) h ht
  | descriptorFetch => exact KeepsCanonical.liftHold (fun _ => fxDescriptorFetch_wf _) h ht
  | descriptorStart => exact KeepsCanonical.lift (.of_mem_eq fun _ => fxDescriptorStart_mem ..) h ht
  | descriptorComplete => exact KeepsCanonical.lift (.of_mem_eq fun _ => fxDescriptorComplete_mem ..) h ht
  | copy => exact KeepsCanonical.liftHold (fun _ => fxCopy_wf _ _ _) h ht
  | fill => exact KeepsCanonical.liftHold (fun _ => fxFill_wf _ _ _) h ht
  | reduce => exact KeepsCanonical.liftHold (fun _ => fxReduce_wf _ _ _) h ht
  | nop => exact KeepsCanonical.lift (.of_mem_eq fun _ => fxNop_mem ..) h ht
  | gemm => exact KeepsCanonical.liftHold (fun _ => fxGemm_wf _ _) h ht
  | vop => exact KeepsCanonical.liftHold (fun _ => fxVop_wf _ _) h ht
  | layout => exact KeepsCanonical.liftHold (fun _ => fxLayout_wf _ _ _) h ht
  | layoutStagingGrant => exact KeepsCanonical.liftHold (fun _ => fxLayoutStagingGrant_wf _) h ht
  | seGo => exact KeepsCanonical.lift (.of_mem_eq fun _ => fxSeGo_mem ..) h ht
  | seStop => exact KeepsCanonical.lift (.of_mem_eq fun _ => fxSeStop_mem ..) h ht
  | seLoad => exact KeepsCanonical.liftHold (fun _ => fxSeLoad_wf _ _ _ _) h ht
  | seStore => exact KeepsCanonical.liftHold (fun _ => fxSeStore_wf _ _ _ _) h ht
  | scInv => exact KeepsCanonical.liftHold (.of_mem_eq fun _ => fxScInv_mem ..) h ht
  | scFlush => exact KeepsCanonical.liftHold (fun _ => fxScFlush_wf _ _) h ht
  | scFlinv => exact KeepsCanonical.liftHold (fun _ => fxScFlinv_wf _ _) h ht
  | scAll => exact KeepsCanonical.liftHold (fun _ => fxScAll_wf _ _) h ht
  | ldv => exact KeepsCanonical.liftHold (fun _ => fxLdv_wf _ _ _ _) h ht
  | sdv => exact KeepsCanonical.liftHold (fun _ => fxSdv_wf _ _ _ _) h ht
  | counterSignal => exact KeepsCanonical.lift (.of_mem_eq fun _ => fxCounterSignal_mem ..) h ht
  | counterAmoadd => exact KeepsCanonical.lift (.of_mem_eq fun _ => fxCounterAmoadd_mem ..) h ht
  | counterWait => exact KeepsCanonical.lift (.of_mem_eq fun _ => fxCounterWait_mem ..) h ht
  | counterRead => exact KeepsCanonical.lift (.of_mem_eq fun _ => fxCounterRead_mem ..) h ht
  | semaphoreAdd => exact KeepsCanonical.lift (.of_mem_eq fun _ => fxSemaphoreAdd_mem ..) h ht
  | semaphoreAmoadd => exact KeepsCanonical.lift (.of_mem_eq fun _ => fxSemaphoreAmoadd_mem ..) h ht
  | semaphoreWait => exact KeepsCanonical.lift (.of_mem_eq fun _ => fxSemaphoreWait_mem ..) h ht
  | semaphoreTake => exact KeepsCanonical.lift (.of_mem_eq fun _ => fxSemaphoreTake_mem ..) h ht
  | semaphoreRead => exact KeepsCanonical.lift (.of_mem_eq fun _ => fxSemaphoreRead_mem ..) h ht
  | peerMaskRead => exact KeepsCanonical.lift (.of_mem_eq fun _ => fxPeerMaskRead_mem ..) h ht
  | peerMaskWrite => exact KeepsCanonical.lift (.of_mem_eq fun _ => fxPeerMaskWrite_mem ..) h ht
  | waitPoll => exact KeepsCanonical.lift (.of_mem_eq fun _ => fxWaitPoll_mem ..) h ht
  | waitTimeout => exact KeepsCanonical.lift (.of_mem_eq fun _ => fxWaitTimeout_mem ..) h ht
  | alloc => exact KeepsCanonical.lift (.of_mem_eq fun _ => fxAlloc_mem ..) h ht
  | setval => exact KeepsCanonical.lift (.of_mem_eq fun _ => fxSetval_mem ..) h ht
  | free => exact KeepsCanonical.lift (.of_mem_eq fun _ => fxFree_mem ..) h ht
  | clrlost => exact KeepsCanonical.lift (.of_mem_eq fun _ => fxClrlost_mem ..) h ht
  | adminIgnoredAction => exact KeepsCanonical.lift (.of_mem_eq fun _ => fxAdminIgnoredAction_mem ..) h ht
  | sreg => exact KeepsCanonical.liftHold (fun _ => fxSreg_wf _ _) h ht
  | step => exact KeepsCanonical.liftHold (fun _ => fxStep_wf _ _) h ht
  | strExport => exact KeepsCanonical.liftHold (fun _ => fxStrExport_wf _ _) h ht
  | strImport => exact KeepsCanonical.liftHold (fun _ => fxStrImport_wf _ _) h ht
  | pause => exact KeepsCanonical.liftHold (fun _ => fxPause_wf _ _) h ht
  | pauseResume => exact KeepsCanonical.liftHold (fun _ => fxPauseResume_wf _ _) h ht
  | send => exact KeepsCanonical.liftHold (fun _ => fxSend_wf _ _) h ht
  | pwlLoad => exact KeepsCanonical.liftHold (fun _ => fxPwlLoad_wf _ _ _) h ht
  | lnkCtlEnWrite => exact KeepsCanonical.lift (.of_mem_eq fun _ => fxLnkCtlEnWrite_mem ..) h ht
  | linkDetectStart => exact KeepsCanonical.lift (.of_mem_eq fun _ => fxLinkDetectStart_mem ..) h ht
  | linkTerminationFound => exact KeepsCanonical.lift (.of_mem_eq fun _ => fxLinkTerminationFound_mem ..) h ht
  | linkTrained => exact KeepsCanonical.lift (.of_mem_eq fun _ => fxLinkTrained_mem ..) h ht
  | linkAligned => exact KeepsCanonical.lift (.of_mem_eq fun _ => fxLinkAligned_mem ..) h ht
  | linkConfigAgreed => exact KeepsCanonical.lift (.of_mem_eq fun _ => fxLinkConfigAgreed_mem ..) h ht
  | linkAuthVerified => exact KeepsCanonical.lift (.of_mem_eq fun _ => fxLinkAuthVerified_mem ..) h ht
  | linkDownRetry => exact KeepsCanonical.lift (.of_mem_eq fun _ => fxLinkDownRetry_mem ..) h ht
  | flitTimeSend => exact KeepsCanonical.lift (.of_mem_eq fun _ => fxFlitTimeSend_mem ..) h ht
  | fecBlockReceive => exact KeepsCanonical.lift (.of_mem_eq fun _ => fxFecBlockReceive_mem ..) h ht
  | creditRelease => exact KeepsCanonical.liftHold (fun _ => fxCreditRelease_wf _ _) h ht
  | nakRepeatTimeout => exact KeepsCanonical.lift (.of_mem_eq fun _ => fxNakRepeatTimeout_mem ..) h ht
  | replayAckTimeout => exact KeepsCanonical.lift (.of_mem_eq fun _ => fxReplayAckTimeout_mem ..) h ht
  | lnkRetrain => exact KeepsCanonical.lift (.of_mem_eq fun _ => fxLnkRetrain_mem ..) h ht
  | laneLockLoss => exact KeepsCanonical.lift (.of_mem_eq fun _ => fxLaneLockLoss_mem ..) h ht
  | laneErrorWindow => exact KeepsCanonical.lift (.of_mem_eq fun _ => fxLaneErrorWindow_mem ..) h ht
  | recoverCheckEnd => exact KeepsCanonical.lift (.of_mem_eq fun _ => fxRecoverCheckEnd_mem ..) h ht
  | recoverTimeout => exact KeepsCanonical.lift (.of_mem_eq fun _ => fxRecoverTimeout_mem ..) h ht
  | linkLockLoss => exact KeepsCanonical.lift (.of_mem_eq fun _ => fxLinkLockLoss_mem ..) h ht
  | autoWidenTick => exact KeepsCanonical.lift (.of_mem_eq fun _ => fxAutoWidenTick_mem ..) h ht
  | autoWidenPass => exact KeepsCanonical.lift (.of_mem_eq fun _ => fxAutoWidenPass_mem ..) h ht
  | fabWrite => exact KeepsCanonical.liftHold (fun _ => fxFabWrite_wf _ _) h ht
  | fabRead => exact KeepsCanonical.liftHold (fun _ => fxFabRead_wf _ _) h ht
  | fabricReduce => exact KeepsCanonical.liftHold (fun _ => fxFabricReduce_wf _ _) h ht
  | readData => exact KeepsCanonical.liftHold (fun _ => fxReadData_wf _ _) h ht
  | writeAck => exact KeepsCanonical.liftHold (fun _ => fxWriteAck_wf _ _) h ht
  | fabSignal => exact KeepsCanonical.lift (.of_mem_eq fun _ => fxFabSignal_mem ..) h ht
  | syncOp => exact KeepsCanonical.lift (.of_mem_eq fun _ => fxSyncOp_mem ..) h ht
  | syncResp => exact KeepsCanonical.liftHold (fun _ => fxSyncResp_wf _ _) h ht
  | refuse => exact KeepsCanonical.lift (.of_mem_eq fun _ => fxRefuse_mem ..) h ht
  | unreach => exact KeepsCanonical.lift (.of_mem_eq fun _ => fxUnreach_mem ..) h ht
  | leave => exact KeepsCanonical.lift (.of_mem_eq fun _ => fxLeave_mem ..) h ht
  | reservedKindMessage => exact KeepsCanonical.lift (.of_mem_eq fun _ => fxReservedKindMessage_mem ..) h ht
  | fabricRequestTimeout => exact KeepsCanonical.lift (.of_mem_eq fun _ => fxFabricRequestTimeout_mem ..) h ht
  | routeChangeSend => exact KeepsCanonical.lift (.of_mem_eq fun _ => fxRouteChangeSend_mem ..) h ht
  | routeReturnTimer => exact KeepsCanonical.lift (.of_mem_eq fun _ => fxRouteReturnTimer_mem ..) h ht
  | moduleGoneTimeout => exact KeepsCanonical.lift (.of_mem_eq fun _ => fxModuleGoneTimeout_mem ..) h ht
  | hostConfigRequest => exact KeepsCanonical.lift (.of_mem_eq fun _ => fxHostConfigRequest_mem ..) h ht
  | hostMemoryWrite => exact KeepsCanonical.liftHold (fun _ => fxHostMemoryWrite_wf _ _ _ _ _) h ht
  | hostMemoryRead => exact KeepsCanonical.liftHold (fun _ => fxHostMemoryRead_wf _ _ _ _) h ht
  | fetchadd => exact KeepsCanonical.lift (.of_mem_eq fun _ => fxFetchadd_mem ..) h ht
  | swap => exact KeepsCanonical.lift (.of_mem_eq fun _ => fxSwap_mem ..) h ht
  | cas => exact KeepsCanonical.lift (.of_mem_eq fun _ => fxCas_mem ..) h ht
  | flrVf => exact KeepsCanonical.lift (fun _ => fxFlrVf_wf _) h ht
  | watchArm => exact KeepsCanonical.lift (.of_mem_eq fun _ => fxWatchArm_mem ..) h ht
  | watchPoll => exact KeepsCanonical.lift (.of_mem_eq fun _ => fxWatchPoll_mem ..) h ht
  | rawDoorbell => exact KeepsCanonical.liftHold (.of_mem_eq fun _ => fxRawDoorbell_mem ..) h ht
  | rawDoorbellStatusRead => exact KeepsCanonical.lift (.of_mem_eq fun _ => fxRawDoorbellStatusRead_mem ..) h ht
  | cxlMemRequest => exact KeepsCanonical.liftHold (fun _ => fxCxlMemRequest_wf _ _ _) h ht
  | cxlMailboxCommand => exact KeepsCanonical.lift (.of_mem_eq fun _ => fxCxlMailboxCommand_mem ..) h ht
  | keeperRecordMove => exact KeepsCanonical.lift (.of_mem_eq fun _ => fxKeeperRecordMove_mem ..) h ht
  | spareGo => exact KeepsCanonical.liftHold (fun _ => fxSpareGo_wf _ _ _) h ht
  | spareEnd => exact KeepsCanonical.liftHold (.of_mem_eq fun _ => fxSpareEnd_mem ..) h ht
  | migrationCopyRow => exact KeepsCanonical.lift (fun _ => fxMigrationCopyRow_wf _ _) h ht
  | migrationRowBreak => exact KeepsCanonical.lift (fun _ => fxMigrationRowBreak_wf _ _ _) h ht
  | migrationCutover => exact KeepsCanonical.lift (fun _ => fxMigrationCutover_wf _) h ht
  | spareMapCommit => exact KeepsCanonical.lift (.of_mem_eq fun _ => fxSpareMapCommit_mem ..) h ht
  | rescueDmaGo => exact KeepsCanonical.lift (.of_mem_eq fun _ => fxRescueDmaGo_mem ..) h ht
  | rescueDmaDone => exact KeepsCanonical.liftHold (fun _ => fxRescueDmaDone_wf _) h ht
  | sensorSlotRead => exact KeepsCanonical.lift (fun _ => fxSensorSlotRead_wf _ _) h ht
  | criticalComparator => exact KeepsCanonical.lift (fun _ => fxCriticalComparator_wf _) h ht
  | powerSample => exact KeepsCanonical.lift (.of_mem_eq fun _ => fxPowerSample_mem ..) h ht
  | pausePeriodStart => exact KeepsCanonical.lift (.of_mem_eq fun _ => fxPausePeriodStart_mem ..) h ht
  | thmLimitWrite => exact KeepsCanonical.lift (.of_mem_eq fun _ => fxThmLimitWrite_mem ..) h ht
  | getIdentity => exact KeepsCanonical.lift (.of_mem_eq fun _ => fxGetIdentity_mem ..) h ht
  | getStatus => exact KeepsCanonical.lift (.of_mem_eq fun _ => fxGetStatus_mem ..) h ht
  | readLog => exact KeepsCanonical.lift (.of_mem_eq fun _ => fxReadLog_mem ..) h ht
  | clearFault => exact KeepsCanonical.lift (.of_mem_eq fun _ => fxClearFault_mem ..) h ht
  | locate => exact KeepsCanonical.lift (.of_mem_eq fun _ => fxLocate_mem ..) h ht
  | setCap => exact KeepsCanonical.lift (.of_mem_eq fun _ => fxSetCap_mem ..) h ht
  | setOverride => exact KeepsCanonical.lift (.of_mem_eq fun _ => fxSetOverride_mem ..) h ht
  | keeperResetWarm => exact KeepsCanonical.lift (fun _ => fxKeeperResetWarm_wf _) h ht
  | keeperResetTenant => exact KeepsCanonical.lift (fun _ => fxKeeperResetTenant_wf _ _) h ht
  | keeperResetCore => exact KeepsCanonical.lift (.of_mem_eq fun _ => fxKeeperResetCore_mem ..) h ht
  | forceSem => exact KeepsCanonical.lift (.of_mem_eq fun _ => fxForceSem_mem ..) h ht
  | rescueDma => exact KeepsCanonical.lift (.of_mem_eq fun _ => fxRescueDma_mem ..) h ht
  | spareMapRead => exact KeepsCanonical.lift (.of_mem_eq fun _ => fxSpareMapRead_mem ..) h ht
  | spareMapClear => exact KeepsCanonical.lift (.of_mem_eq fun _ => fxSpareMapClear_mem ..) h ht
  | readReg => exact KeepsCanonical.liftHold (.of_mem_eq fun _ => fxReadReg_mem ..) h ht
  | rollback => exact KeepsCanonical.lift (.of_mem_eq fun _ => fxRollback_mem ..) h ht
  | keeperRestart => exact KeepsCanonical.lift (.of_mem_eq fun _ => fxKeeperRestart_mem ..) h ht
  | unknownCommand => exact KeepsCanonical.lift (.of_mem_eq fun _ => fxUnknownCommand_mem ..) h ht
  | setEndpointId => exact KeepsCanonical.lift (.of_mem_eq fun _ => fxSetEndpointId_mem ..) h ht
  | getEndpointId => exact KeepsCanonical.lift (.of_mem_eq fun _ => fxGetEndpointId_mem ..) h ht
  | getMctpVersionSupport => exact KeepsCanonical.lift (.of_mem_eq fun _ => fxGetMctpVersionSupport_mem ..) h ht
  | getMessageTypeSupport => exact KeepsCanonical.lift (.of_mem_eq fun _ => fxGetMessageTypeSupport_mem ..) h ht
  | getVendorDefinedMsgSupport => exact KeepsCanonical.lift (.of_mem_eq fun _ => fxGetVendorDefinedMsgSupport_mem ..) h ht
  | getTid => exact KeepsCanonical.lift (.of_mem_eq fun _ => fxGetTid_mem ..) h ht
  | setTid => exact KeepsCanonical.lift (.of_mem_eq fun _ => fxSetTid_mem ..) h ht
  | getPldmVersion => exact KeepsCanonical.lift (.of_mem_eq fun _ => fxGetPldmVersion_mem ..) h ht
  | getPldmTypes => exact KeepsCanonical.lift (.of_mem_eq fun _ => fxGetPldmTypes_mem ..) h ht
  | getPldmCommands => exact KeepsCanonical.lift (.of_mem_eq fun _ => fxGetPldmCommands_mem ..) h ht
  | getPdrRepositoryInfo => exact KeepsCanonical.lift (.of_mem_eq fun _ => fxGetPdrRepositoryInfo_mem ..) h ht
  | getPdr => exact KeepsCanonical.lift (.of_mem_eq fun _ => fxGetPdr_mem ..) h ht
  | getSensorReading => exact KeepsCanonical.lift (.of_mem_eq fun _ => fxGetSensorReading_mem ..) h ht
  | getStateSensorReadings => exact KeepsCanonical.lift (.of_mem_eq fun _ => fxGetStateSensorReadings_mem ..) h ht
  | setEventReceiver => exact KeepsCanonical.lift (.of_mem_eq fun _ => fxSetEventReceiver_mem ..) h ht
  | queryDeviceIdentifiers => exact KeepsCanonical.lift (.of_mem_eq fun _ => fxQueryDeviceIdentifiers_mem ..) h ht
  | getFirmwareParameters => exact KeepsCanonical.lift (.of_mem_eq fun _ => fxGetFirmwareParameters_mem ..) h ht
  | requestUpdate => exact KeepsCanonical.lift (.of_mem_eq fun _ => fxRequestUpdate_mem ..) h ht
  | passComponentTable => exact KeepsCanonical.lift (.of_mem_eq fun _ => fxPassComponentTable_mem ..) h ht
  | updateComponent => exact KeepsCanonical.lift (.of_mem_eq fun _ => fxUpdateComponent_mem ..) h ht
  | requestFirmwareData => exact KeepsCanonical.lift (.of_mem_eq fun _ => fxRequestFirmwareData_mem ..) h ht
  | activateFirmware => exact KeepsCanonical.lift (.of_mem_eq fun _ => fxActivateFirmware_mem ..) h ht
  | pldmGetStatus => exact KeepsCanonical.lift (.of_mem_eq fun _ => fxPldmGetStatus_mem ..) h ht
  | cancelUpdateComponent => exact KeepsCanonical.lift (.of_mem_eq fun _ => fxCancelUpdateComponent_mem ..) h ht
  | cancelUpdate => exact KeepsCanonical.lift (.of_mem_eq fun _ => fxCancelUpdate_mem ..) h ht
  | getVersion => exact KeepsCanonical.lift (.of_mem_eq fun _ => fxGetVersion_mem ..) h ht
  | getCapabilities => exact KeepsCanonical.lift (.of_mem_eq fun _ => fxGetCapabilities_mem ..) h ht
  | negotiateAlgorithms => exact KeepsCanonical.lift (.of_mem_eq fun _ => fxNegotiateAlgorithms_mem ..) h ht
  | getDigests => exact KeepsCanonical.lift (.of_mem_eq fun _ => fxGetDigests_mem ..) h ht
  | getCertificate => exact KeepsCanonical.lift (.of_mem_eq fun _ => fxGetCertificate_mem ..) h ht
  | challenge => exact KeepsCanonical.lift (.of_mem_eq fun _ => fxChallenge_mem ..) h ht
  | getMeasurements => exact KeepsCanonical.lift (.of_mem_eq fun _ => fxGetMeasurements_mem ..) h ht
  | hostLinkUp => exact KeepsCanonical.lift (.of_mem_eq fun _ => fxHostLinkUp_mem ..) h ht
  | tenantResetDone => exact KeepsCanonical.lift (.of_mem_eq fun _ => fxTenantResetDone_mem ..) h ht
  | coreResetDone => exact KeepsCanonical.lift (.of_mem_eq fun _ => fxCoreResetDone_mem ..) h ht
  | columnStep => exact KeepsCanonical.lift (fun _ => fxColumnStep_wf _) h ht
  | entdaa => exact KeepsCanonical.lift (.of_mem_eq fun _ => fxEntdaa_mem ..) h ht
  | insertionPrecharge => exact KeepsCanonical.lift (fun _ => fxInsertionPrecharge_wf) h ht
  | powerOnReset => exact KeepsCanonical.lift (fun _ => fxPowerOnReset_wf) h ht
  | modResetNAssert => exact KeepsCanonical.lift (fun _ => fxModResetNAssert_wf) h ht
  | modResetNDeassert => exact KeepsCanonical.lift (.of_mem_eq fun _ => fxModResetNDeassert_mem ..) h ht
  | pwrEnAssert => exact KeepsCanonical.lift (fun _ => fxPwrEnAssert_wf) h ht
  | pwrEnDeassert => exact KeepsCanonical.lift (fun _ => fxPwrEnDeassert_wf) h ht
  | perstNAssert => exact KeepsCanonical.lift (.of_mem_eq fun _ => fxPerstNAssert_mem ..) h ht
  | perstNDeassert => exact KeepsCanonical.lift (.of_mem_eq fun _ => fxPerstNDeassert_mem ..) h ht
  | quiesceTqExpire => exact KeepsCanonical.liftHold (fun _ => fxQuiesceTqExpire_wf) h ht
  | quiesceSafeToRemove => exact KeepsCanonical.lift (.of_mem_eq fun _ => fxQuiesceSafeToRemove_mem ..) h ht
  | inputLowTimeout => exact KeepsCanonical.lift (.of_mem_eq fun _ => fxInputLowTimeout_mem ..) h ht
  | inputLowRecover => exact KeepsCanonical.lift (.of_mem_eq fun _ => fxInputLowRecover_mem ..) h ht
  | inputFall37v => exact KeepsCanonical.lift (fun _ => fxInputFall37v_wf) h ht
  | inputRise62v => exact KeepsCanonical.lift (fun _ => fxInputRise62v_wf) h ht
  | inputFall61v => exact KeepsCanonical.lift (fun _ => fxInputFall61v_wf) h ht
  | mainRailsInRegulation => exact KeepsCanonical.lift (.of_mem_eq fun _ => fxMainRailsInRegulation_mem ..) h ht
  | keeperRomStart => exact KeepsCanonical.lift (fun _ => fxKeeperRomStart_wf) h ht
  | keeperRailEnable => exact KeepsCanonical.lift (.of_mem_eq fun _ => fxKeeperRailEnable_mem ..) h ht
  | profileSelect => exact KeepsCanonical.lift (fun _ => fxProfileSelect_wf) h ht
  | readyRaise => exact KeepsCanonical.liftHold (fun _ => fxReadyRaise_wf) h ht
  | bootTimeout => exact KeepsCanonical.lift (fun _ => fxBootTimeout_wf) h ht
  | trainingCacheWrite => exact KeepsCanonical.lift (fun _ => fxTrainingCacheWrite_wf) h ht
  | deadlockScan => exact KeepsCanonical.lift (.of_mem_eq fun _ => fxDeadlockScan_mem ..) h ht
  | streamEvictWaitEnd => exact KeepsCanonical.liftHold (fun _ => fxStreamEvictWaitEnd_wf) h ht
  | streamQuantumExpire => exact KeepsCanonical.lift (.of_mem_eq fun _ => fxStreamQuantumExpire_mem ..) h ht
  | flrPf => exact KeepsCanonical.lift (.of_mem_eq fun _ => fxFlrPf_mem ..) h ht
  | hostLinkDown => exact KeepsCanonical.lift (.of_mem_eq fun _ => fxHostLinkDown_mem ..) h ht
  | heartbeatCheck => exact KeepsCanonical.lift (fun _ => fxHeartbeatCheck_wf) h ht
  | keeperWatchdog => exact KeepsCanonical.lift (.of_mem_eq fun _ => fxKeeperWatchdog_mem ..) h ht
  | housekeepingRoundEnd => exact KeepsCanonical.lift (.of_mem_eq fun _ => fxHousekeepingRoundEnd_mem ..) h ht
  | powerLoopTick => exact KeepsCanonical.lift (.of_mem_eq fun _ => fxPowerLoopTick_mem ..) h ht
  | pwrRangeStep => exact KeepsCanonical.lift (.of_mem_eq fun _ => fxPwrRangeStep_mem ..) h ht
  | pwrRangeResume => exact KeepsCanonical.lift (.of_mem_eq fun _ => fxPwrRangeResume_mem ..) h ht
  | flashOperationDone => exact KeepsCanonical.lift (fun _ => fxFlashOperationDone_wf) h ht
  | keeperTrialCommit => exact KeepsCanonical.lift (.of_mem_eq fun _ => fxKeeperTrialCommit_mem ..) h ht
  | smbusAlertResponse => exact KeepsCanonical.lift (.of_mem_eq fun _ => fxSmbusAlertResponse_mem ..) h ht
  | mainRailsOff => exact KeepsCanonical.lift (.of_mem_eq fun _ => fxMainRailsOff_mem ..) h ht
  | alwaysOnSupplyLost => exact KeepsCanonical.lift (fun _ => fxAlwaysOnSupplyLost_wf) h ht
  | ltssmRecoveryEntry => exact KeepsCanonical.lift (.of_mem_eq fun _ => fxLtssmRecoveryEntry_mem ..) h ht
  | keeperRestartComplete => exact KeepsCanonical.lift (fun _ => fxKeeperRestartComplete_wf) h ht

/-- Settles O59: a step runs one command, or lets a unit of time pass. -/
theorem everyStepKeepsTheMemoryCanonical : Obligations.EveryStepKeepsTheMemoryCanonical := by
  unfold Obligations.EveryStepKeepsTheMemoryCanonical
  intro s t h ht
  unfold step at ht
  split at ht
  · cases ht
    exact h
  next rest _ => exact exec_keeps_canonical _ (s := { s with pending := rest }) h ht

end Sys2Proof.Machine

/-! Bytes of a scratchpad (spec/01, Table 1-1; notes/assumptions/6). A local address of a running core's scratchpad is a
place of the memory of its own, so a store of bytes, cut into 32-byte words and merged into them by mask, is a store of
the same bytes at that place. -/

namespace Sys2Proof.Machine

open Sys2Proof

/-! ## Lists of bytes in memory -/

@[simp] theorem length_memRead (m : List Host.Cell) (a n : Nat) : (memRead m a n).length = n := by
  induction n generalizing a with
  | zero => rfl
  | succ n ih => rw [memRead, List.length_cons, ih]

@[simp] theorem getElem_memRead (m : List Host.Cell) (a n i : Nat) (h : i < (memRead m a n).length) :
    (memRead m a n)[i] = memGet m (a + i) := by
  induction n generalizing a i with
  | zero => simp at h
  | succ n ih =>
    cases i with
    | zero => rfl
    | succ i => simp [memRead, ih, Nat.add_comm 1, Nat.add_assoc]

/-- A part of a run of bytes is a run. -/
theorem memRead_drop_take (m : List Host.Cell) (a n o k : Nat) (h : o + k ≤ n) :
    ((memRead m a n).drop o).take k = memRead m (a + o) k := by
  refine List.ext_getElem (by simp; omega) fun i _ _ => ?_
  simp [Nat.add_assoc]

/-- The byte at `x` after a store of a run from `a` on. -/
theorem memGet_memWrite (m : List Host.Cell) (a : Nat) (l : List Byte) (x : Nat) :
    memGet (memWrite m a l) x = if h : a ≤ x ∧ x - a < l.length then l[x - a]'h.2 else memGet m x := by
  split
  next h =>
    have hin := memGet_memWrite_in m a l (x - a) h.2
    rwa [Nat.add_sub_cancel' h.1] at hin
  next h => exact memGet_memWrite_out m a l (by omega)

/-! ## Bytes without poison -/

@[simp] theorem length_cleanBytes (l : List Byte) : (cleanBytes l).length = l.length := by simp [cleanBytes]

@[simp] theorem any_cleanBytes (l : List Byte) : (cleanBytes l).any (·.2) = false := by simp [cleanBytes]

@[simp] theorem map_fst_cleanBytes (l : List Byte) : (cleanBytes l).map (·.1) = l := by
  simp [cleanBytes, Function.comp_def]

theorem take_cleanBytes (k : Nat) (l : List Byte) : (cleanBytes l).take k = cleanBytes (l.take k) := by
  simp [cleanBytes, List.map_take]

theorem drop_cleanBytes (k : Nat) (l : List Byte) : (cleanBytes l).drop k = cleanBytes (l.drop k) := by
  simp [cleanBytes, List.map_drop]

/-! ## Merging by mask -/

@[simp] theorem length_mergeBytes (mask : Nat) (os ns : List Byte) : (mergeBytes mask os ns).length = os.length := by
  induction os generalizing mask ns with
  | nil => rfl
  | cons o os ih => cases ns <;> simp [mergeBytes, ih]

/-- A merged byte is the new one where its mask bit is 1. -/
theorem getElem_mergeBytes (mask : Nat) (os ns : List Byte) (i : Nat) (ho : i < os.length) (hn : i < ns.length) :
    (mergeBytes mask os ns)[i]'(by simpa using ho) = if bitAt mask i then ns[i] else os[i] := by
  induction os generalizing mask ns i with
  | nil => simp at ho
  | cons o os ih =>
    cases ns with
    | nil => simp at hn
    | cons n ns =>
      cases i with
      | zero => simp [mergeBytes, bitAt]
      | succ i =>
        have hbit : bitAt mask (i + 1) = bitAt (mask / 2) i := by
          rw [bitAt, bitAt, Nat.pow_succ', Nat.div_div_eq_div_mul]
        simp only [mergeBytes, List.getElem_cons_succ, hbit]
        exact ih _ _ _ (by simpa using ho) (by simpa using hn)

/-- The mask of `k` bytes from byte `o` on. -/
theorem bitAt_byteMask (k o i : Nat) : bitAt ((2 ^ k - 1) * 2 ^ o) i = decide (o ≤ i ∧ i < o + k) := by
  have htest : bitAt ((2 ^ k - 1) * 2 ^ o) i = ((2 ^ k - 1) * 2 ^ o).testBit i := by
    rw [Nat.testBit_eq_decide_div_mod_eq]
    rfl
  rw [htest, Nat.testBit_mul_two_pow, Nat.testBit_two_pow_sub_one, ← Bool.decide_and]
  exact decide_eq_decide.mpr (by omega)

/-- A store by mask of `d` from byte `o` of the word at `w` is a store of `d` there. -/
theorem memGet_merge (m : List Host.Cell) (w o : Nat) (d : List Byte) (pad : Nat) (hd : o + d.length + pad = 32)
    (x : Nat) :
    memGet (memWrite m w (mergeBytes ((2 ^ d.length - 1) * 2 ^ o) (memRead m w 32)
      (List.replicate o 0 ++ d ++ List.replicate pad 0))) x = memGet (memWrite m (w + o) d) x := by
  rw [memGet_memWrite, memGet_memWrite]
  simp only [length_mergeBytes, length_memRead]
  by_cases hx : w ≤ x ∧ x - w < 32
  · rw [dif_pos hx, getElem_mergeBytes _ _ _ _ (by simpa using hx.2) (by simp; omega), bitAt_byteMask]
    by_cases hin : o ≤ x - w ∧ x - w < o + d.length
    · have hget : (List.replicate o (0 : Byte) ++ d ++ List.replicate pad 0)[x - w]'(by simp; omega) =
          d[x - w - o]'(by omega) := by
        rw [List.getElem_append_left (by simp; omega), List.getElem_append_right (by simp; omega)]
        simp
      rw [dif_pos ⟨by omega, by omega⟩, decide_eq_true hin, if_pos rfl, hget]
      congr 1
      omega
    · rw [dif_neg (by omega), decide_eq_false hin, if_neg Bool.false_ne_true, getElem_memRead, Nat.add_sub_cancel' hx.1]
  · rw [dif_neg hx, dif_neg (by omega)]

/-! ## Words of a scratchpad -/

/-- Only the mask of all 32 bytes is that of the whole word. -/
theorem length_of_byteMask {k o : Nat} (h : (2 ^ k - 1) * 2 ^ o = 2 ^ 32 - 1) : k = 32 ∧ o = 0 := by
  have hbit : ∀ i, decide (o ≤ i ∧ i < o + k) = decide (i < 32) := fun i => by
    rw [← bitAt_byteMask, h]
    simpa using bitAt_byteMask 32 0 i
  have h0 := decide_eq_decide.mp (hbit 0)
  have h31 := decide_eq_decide.mp (hbit 31)
  have h32 := decide_eq_decide.mp (hbit 32)
  omega

/-- A word of memory without an error or poison reads its bytes. -/
theorem readRaw_clean {p : Nat} {s : Sled} (hp : 2 ^ 40 ≤ p / 32 * 32) (hecc : s.ecc = []) :
    readRaw p s = ((memRead s.mem (p / 32 * 32) 32, false), s) := by
  have hat : eccAt s (p / 32 * 32) = 0 := by
    rw [eccAt, hecc]
    rfl
  simp only [readRaw, hat, Nat.not_lt.mpr hp, false_and, if_false, ePoison, eFresh, eSingle, OfNat.zero_ne_ofNat,
    zero_ne_one]

/-- What a store of `d` from `a` on makes of the memory `m₀` with the error states `e₀`: `m` holds the bytes of
`memWrite`, and no error appears where there was none. -/
def Stores (m₀ : List Host.Cell) (e₀ : FMap Nat) (a : Nat) (d : List Byte) (m : List Host.Cell) (e : FMap Nat) : Prop :=
  (e₀ = [] → e = []) ∧ ∀ x, memGet m x = memGet (memWrite m₀ a d) x

/-- A store of part of a word needs the old bytes, so a word free of errors; one of the whole word does not. -/
theorem writeWord_scratch {w o pad : Nat} {d : List Byte} {s : Sled} (hw : w % 32 = 0) (hlo : 2 ^ 40 ≤ w)
    (hd : o + d.length + pad = 32) (hd0 : 0 < d.length) (hclear : s.clearing = false)
    (hold : s.ecc = [] ∨ d.length = 32) :
    ∃ m e, writeWord (w + o) ((2 ^ d.length - 1) * 2 ^ o) (List.replicate o 0 ++ d ++ List.replicate pad 0) s =
      { s with mem := m, ecc := e } ∧ Stores s.mem s.ecc (w + o) d m e := by
  have hword : (w + o) / 32 * 32 = w := by omega
  have hraw : writeWord (w + o) ((2 ^ d.length - 1) * 2 ^ o) (List.replicate o 0 ++ d ++ List.replicate pad 0) s =
      storeWord w ((2 ^ d.length - 1) * 2 ^ o) (List.replicate o 0 ++ d ++ List.replicate pad 0) s := by
    simp only [writeWord, heldWrite, writeRaw, hword, if_neg (Nat.not_lt.mpr hlo), hclear, Bool.false_eq_true, if_false,
      storeWord, Nat.div_mul_cancel (Nat.dvd_of_mod_eq_zero hw)]
  have hself : w / 32 * 32 = w := by omega
  have hecc : s.ecc = [] → fset s.ecc 0 (w / 32) eClean = [] := fun h => by
    rw [h]
    rfl
  rw [hraw, storeWord, hself]
  by_cases hfull : (2 ^ d.length - 1) * 2 ^ o = 2 ^ 32 - 1
  · obtain ⟨hlen, rfl⟩ := length_of_byteMask hfull
    obtain rfl : pad = 0 := by omega
    refine ⟨_, _, if_pos hfull, hecc, fun x => ?_⟩
    simp
  · have hclean : s.ecc = [] := hold.resolve_right fun hlen => hfull (by
      obtain rfl : o = 0 := by omega
      rw [hlen]
      rfl)
    refine ⟨_, _, ?_, hecc, memGet_merge s.mem w o d pad hd⟩
    simp only [if_neg hfull, readRaw_clean (hself.symm ▸ hlo) hclean, hself]

/-! ## Places of a scratchpad -/

section scratch

variable {s : Sled} {core : Nat}

/-- An address of a scratchpad lies in that of its core. -/
theorem scratchOf_own {x : Nat} (hcore : core < 8) (hlo : 0x8000000000 + core * 0x1800000 ≤ x)
    (hhi : x < 0x8000000000 + (core + 1) * 0x1800000) : scratchOf x = some core := by
  have hdiv : (x - 0x8000000000) / 0x1800000 = core := Nat.div_eq_of_lt_le (by omega) (by omega)
  rw [scratchOf, if_pos (by omega), hdiv]

theorem placeOf_own {x : Nat} (hcore : core < 8) (hruns : islRuns s (iVC core) = true)
    (hlo : 0x8000000000 + core * 0x1800000 ≤ x) (hhi : x < 0x8000000000 + (core + 1) * 0x1800000) :
    placeOf s x = some (2 ^ 40 + x) := by
  rw [placeOf, if_neg (by omega), scratchOf_own hcore hlo hhi]
  simp only [hruns, if_true]

/-- Bytes from `a` on, in order. -/
theorem memWrite_append (m : List Host.Cell) (a : Nat) (l l' : List Byte) :
    memWrite m a (l ++ l') = memWrite (memWrite m a l) (a + l.length) l' := by
  induction l generalizing m a with
  | nil => rfl
  | cons b l ih => simp [memWrite, ih, Nat.add_assoc, Nat.add_comm 1]

/-- Memories with the same bytes have them after a store, too. -/
theorem memGet_memWrite_congr {m m' : List Host.Cell} (h : ∀ x, memGet m x = memGet m' x) (a : Nat) (l : List Byte)
    (x : Nat) : memGet (memWrite m a l) x = memGet (memWrite m' a l) x := by
  rw [memGet_memWrite, memGet_memWrite, h]

theorem memRead_congr {m m' : List Host.Cell} {a n : Nat} (h : ∀ i < n, memGet m (a + i) = memGet m' (a + i)) :
    memRead m a n = memRead m' a n := by
  refine List.ext_getElem (by simp) fun i hi _ => ?_
  simpa using h i (by simpa using hi)

/-- Bytes of a run that two memories share. -/
theorem Stores.trans {m₀ m₁ m₂ : List Host.Cell} {e₀ e₁ e₂ : FMap Nat} {a : Nat} {l l' : List Byte}
    (h : Stores m₀ e₀ a l m₁ e₁) (h' : Stores m₁ e₁ (a + l.length) l' m₂ e₂) : Stores m₀ e₀ a (l ++ l') m₂ e₂ :=
  ⟨fun he => h'.1 (h.1 he), fun x => by rw [h'.2, memWrite_append, memGet_memWrite_congr h.2]⟩

/-- The bytes after a store. -/
theorem Stores.get {m₀ m : List Host.Cell} {e₀ e : FMap Nat} {a : Nat} {l : List Byte} (h : Stores m₀ e₀ a l m e)
    (x : Nat) : memGet m x = if a ≤ x ∧ x < a + l.length then l.getD (x - a) 0 else memGet m₀ x := by
  rw [h.2, memGet_memWrite]
  by_cases hx : a ≤ x ∧ x < a + l.length
  · rw [dif_pos ⟨hx.1, by omega⟩, if_pos hx, List.getD_eq_getElem]
  · rw [dif_neg (by omega), if_neg hx]

/-- The stored bytes read back. -/
theorem Stores.read {m₀ m : List Host.Cell} {e₀ e : FMap Nat} {a : Nat} {l : List Byte} (h : Stores m₀ e₀ a l m e) :
    memRead m a l.length = l :=
  (memRead_congr fun _ _ => h.2 _).trans (memRead_memWrite ..)

theorem Stores.get_out {m₀ m : List Host.Cell} {e₀ e : FMap Nat} {a x : Nat} {l : List Byte} (h : Stores m₀ e₀ a l m e)
    (hx : x < a ∨ a + l.length ≤ x) : memGet m x = memGet m₀ x := by
  rw [h.2, memGet_memWrite_out _ _ _ hx]

theorem writeBytes_scratch {fuel a : Nat} {l : List Byte} (hcore : core < 8) (hruns : islRuns s (iVC core) = true)
    (hown : ownScratch core a l.length) (hclear : s.clearing = false)
    (hold : s.ecc = [] ∨ a % 32 = 0 ∧ l.length % 32 = 0) (hfuel : l.length ≤ fuel) :
    ∃ m e, writeBytes fuel a (cleanBytes l) s = { s with mem := m, ecc := e } ∧ Stores s.mem s.ecc (2 ^ 40 + a) l m e := by
  induction fuel generalizing a l s with
  | zero =>
    obtain rfl : l = [] := List.length_eq_zero_iff.mp (by omega)
    exact ⟨_, _, rfl, id, fun _ => rfl⟩
  | succ fuel ih =>
    by_cases hl : l = []
    · subst hl
      exact ⟨_, _, rfl, id, fun _ => rfl⟩
    · have hpos : 0 < l.length := List.length_pos_iff.mpr hl
      obtain ⟨hlo, hhi⟩ := hown
      set k := min (32 - a % 32) l.length with hk
      have hplace := placeOf_own hcore hruns (x := a) hlo (by omega)
      have htake : (l.take k).length = k := by simp [hk]
      have hdrop : (l.drop k).length = l.length - k := List.length_drop
      obtain ⟨m₁, e₁, hstep, hst⟩ := writeWord_scratch (w := 2 ^ 40 + a / 32 * 32) (o := a % 32)
        (pad := 32 - a % 32 - k) (d := l.take k) (s := s) (by omega) (by omega) (by omega) (by omega) hclear
        (hold.imp_right fun h => by omega)
      have hpa : 2 ^ 40 + a / 32 * 32 + a % 32 = 2 ^ 40 + a := by omega
      rw [hpa] at hst hstep
      obtain ⟨m, e, hrest, hst'⟩ := ih (s := { s with mem := m₁, ecc := e₁ }) (a := a + k) (l := l.drop k) hruns
        ⟨by omega, by omega⟩ hclear (hold.imp hst.1 fun h => by omega) (by omega)
      refine ⟨m, e, ?_, ?_⟩
      · have hne : (cleanBytes l).isEmpty = false := by simpa [cleanBytes] using hl
        rw [writeBytes]
        simp only [hne, length_cleanBytes, ← hk, take_cleanBytes, drop_cleanBytes, any_cleanBytes, map_fst_cleanBytes, hplace,
          Bool.false_eq_true, if_false]
        rw [htake] at hstep
        rw [hstep, hrest]
      · have hsplit := hst.trans (l' := l.drop k) (by rw [htake]; rwa [Nat.add_assoc])
        rwa [List.take_append_drop] at hsplit

/-- A store of bytes in the scratchpad of a running core. -/
theorem writeLocal_scratch {a : Nat} {l : List Byte} (hcore : core < 8) (hruns : islRuns s (iVC core) = true)
    (hown : ownScratch core a l.length) (hclear : s.clearing = false)
    (hold : s.ecc = [] ∨ a % 32 = 0 ∧ l.length % 32 = 0) :
    ∃ m e, writeLocal a (cleanBytes l) s = { s with mem := m, ecc := e } ∧ Stores s.mem s.ecc (2 ^ 40 + a) l m e :=
  writeBytes_scratch hcore hruns hown hclear hold (by simp [cleanBytes])

/-- Bytes of the scratchpad of a running core read as they stand. -/
theorem readBytes_scratch {fuel a n : Nat} (hcore : core < 8) (hruns : islRuns s (iVC core) = true)
    (hown : ownScratch core a n) (hclear : s.clearing = false) (hecc : s.ecc = []) (hfuel : n ≤ fuel) :
    readBytes fuel a n s = ((cleanBytes (memRead s.mem (2 ^ 40 + a) n), true), s) := by
  induction fuel generalizing a n with
  | zero =>
    obtain rfl : n = 0 := by omega
    rfl
  | succ fuel ih =>
    by_cases hn : n = 0
    · subst hn
      rfl
    · obtain ⟨hlo, hhi⟩ := hown
      have hplace := placeOf_own hcore hruns (x := a) hlo (by omega)
      have hword : (2 ^ 40 + a) / 32 * 32 = 2 ^ 40 + a / 32 * 32 := by omega
      have hheld : heldRead s ((2 ^ 40 + a) / 32 * 32) = false := by
        rw [hword, heldRead, if_neg (by omega), hclear]
      have hread : readWord (2 ^ 40 + a) s = ((memRead s.mem (2 ^ 40 + a / 32 * 32) 32, false), s) := by
        rw [readWord, hheld, if_neg Bool.false_ne_true, readRaw_clean (by omega) hecc, hword]
      have hrest := ih (a := a + min (32 - a % 32) n) (n := n - min (32 - a % 32) n) ⟨by omega, by omega⟩ (by omega)
      rw [readBytes]
      simp only [if_neg hn, hplace, hread, memRead_drop_take _ _ 32 (a % 32) (min (32 - a % 32) n) (by omega), hrest,
        Bool.and_self]
      have hpa : 2 ^ 40 + a / 32 * 32 + a % 32 = 2 ^ 40 + a := by omega
      have hsplit : memRead s.mem (2 ^ 40 + a) n = memRead s.mem (2 ^ 40 + a) (min (32 - a % 32) n) ++
          memRead s.mem (2 ^ 40 + (a + min (32 - a % 32) n)) (n - min (32 - a % 32) n) := by
        refine List.ext_getElem (by simp) fun i hi _ => ?_
        rw [List.getElem_append]
        split
        · simp
        · simp only [getElem_memRead, length_memRead]
          congr 1
          simp at *
          omega
      rw [hpa, hsplit]
      simp [cleanBytes]

theorem readLocal_scratch {a n : Nat} (hcore : core < 8) (hruns : islRuns s (iVC core) = true)
    (hown : ownScratch core a n) (hclear : s.clearing = false) (hecc : s.ecc = []) :
    readLocal a n s = ((cleanBytes (memRead s.mem (2 ^ 40 + a) n), true), s) :=
  readBytes_scratch hcore hruns hown hclear hecc le_rfl

end scratch

/-- Settles O58: the bytes stored are the bytes read. -/
theorem scratchpadReadsBackWhatWasWritten : Obligations.ScratchpadReadsBackWhatWasWritten := by
  unfold Obligations.ScratchpadReadsBackWhatWasWritten
  intro s core a l hcore hruns hown hecc hclear
  obtain ⟨m, e, hw, hst⟩ := writeLocal_scratch hcore hruns hown hclear (.inl hecc)
  obtain rfl := hst.1 hecc
  refine ⟨_, hw, ?_, fun x hx => hst.get_out hx, by rw [← hecc]⟩
  rw [readLocal_scratch (s := { s with mem := m, ecc := [] }) hcore hruns hown hclear rfl, hst.read]

end Sys2Proof.Machine

/-! Numbers in memory: little-endian bytes, and the size of an encoded value (spec/01, R22). -/

namespace Sys2Proof.Machine

open Sys2Proof

@[simp] theorem length_leBytes (n x : Nat) : (leBytes n x).length = n := by
  induction n generalizing x with
  | zero => rfl
  | succ n ih => rw [leBytes, List.length_cons, ih]

/-- Bytes written little-endian read back, as far as they are wide enough. -/
theorem leNat_leBytes (n x : Nat) : leNat (leBytes n x) = x % 256 ^ n := by
  induction n generalizing x with
  | zero => simp [leBytes, leNat, Nat.mod_one]
  | succ n ih =>
    rw [leBytes, leNat, ih, BitVec.toNat_ofNat, Nat.pow_succ' (m := 256), Nat.mod_mul]

theorem leNat_leBytes_of_lt {n x : Nat} (h : x < 256 ^ n) : leNat (leBytes n x) = x := by
  rw [leNat_leBytes, Nat.mod_eq_of_lt h]

theorem leNat_lt (l : List Byte) : leNat l < 256 ^ l.length := by
  induction l with
  | nil => simp [leNat]
  | cons b l ih =>
    rw [leNat, List.length_cons, Nat.pow_succ']
    have := b.isLt
    omega

/-- The bytes of a list's little-endian number are the list. -/
theorem leBytes_leNat (l : List Byte) : leBytes l.length (leNat l) = l := by
  induction l with
  | nil => rfl
  | cons b l ih =>
    have hb := b.isLt
    have hlow : BitVec.ofNat 8 (b.toNat + 256 * leNat l) = b := by
      apply BitVec.eq_of_toNat_eq
      rw [BitVec.toNat_ofNat]
      omega
    rw [leNat, List.length_cons, leBytes, hlow, Nat.add_mul_div_left _ _ (by decide), Nat.div_eq_of_lt hb, Nat.zero_add,
      ih]

/-- An encoded value fits its format. -/
theorem encodeF_lt (f : Fmt) (v : FVal) : encodeF f v < 2 ^ f.width := by
  have hwidth : 2 ^ f.width = 2 * 2 ^ (f.eb + f.mb) := Nat.pow_succ'
  have hpos := Nat.two_pow_pos (f.eb + f.mb)
  have hsgn : ∀ b, b2n b * 2 ^ (f.eb + f.mb) ≤ 2 ^ (f.eb + f.mb) := fun b => by cases b <;> simp [b2n]
  have hinf : (2 ^ f.eb - 1) * 2 ^ f.mb = 2 ^ (f.eb + f.mb) - 2 ^ f.mb := by
    rw [Nat.sub_mul, one_mul, Nat.pow_add]
  have hmb := Nat.two_pow_pos f.mb
  have hmost : (if f.hasInf then (2 ^ f.eb - 1) * 2 ^ f.mb else 2 ^ (f.eb + f.mb) - 2) < 2 ^ (f.eb + f.mb) := by
    split <;> omega
  rw [hwidth]
  cases v with
  | nan =>
    have hhalf : 2 ^ (f.mb - 1) ≤ 2 ^ f.mb := Nat.pow_le_pow_right (by omega) (by omega)
    have hle : 2 ^ f.mb ≤ 2 ^ (f.eb + f.mb) := Nat.pow_le_pow_right (by omega) (by omega)
    rw [encodeF, Fmt.qnan]
    split <;> omega
  | inf neg =>
    have := hsgn neg
    rw [encodeF]
    omega
  | fin neg m e =>
    have := hsgn neg
    rw [encodeF]
    extract_lets top q n field bits most
    have : most < 2 ^ (f.eb + f.mb) := hmost
    split <;> omega

theorem encodeF_fp32_lt (v : FVal) : encodeF fp32 v < 256 ^ 4 := encodeF_lt fp32 v

end Sys2Proof.Machine

/-! The DMA operations on the own scratchpad (spec/10, R189, R194 to R196): how an operation of a started descriptor
runs its one row, where the row lands, and what ends it. -/

namespace Sys2Proof.Machine

open Sys2Proof

/-! ## Started descriptors -/

theorem mem_descs_of_started {s : Sled} {u q k : Nat} {d : Desc} (h : (started s u q)[k]? = some d) : d ∈ descs s u :=
  (List.mem_filter.mp (List.mem_of_getElem? h)).1

/-- The operation of a started descriptor of a running core acts. -/
theorem onStarted_run {s : Sled} {core q k op : Nat} {d : Desc} {f : Desc → Sled → Sled}
    (h : runsDesc s core q k d op) : onStarted core q k op f s = f d s := by
  obtain ⟨hk, hruns, hstage, hop, hcore⟩ := h
  simp [onStarted, hk, hruns, hstage, hop, Nat.ne_of_lt hcore]

/-- The bookkeeping of a vault core's descriptors is its own. -/
theorem opDone_vault {u : Nat} (hu : u < 8) (id : Nat) (s : Sled) : ∃ v, opDone u id s = { s with vc := v } := by
  rw [opDone, setDescs, if_neg (by omega)]
  exact ⟨_, rfl⟩

theorem descs_setDescs (u : Nat) (l : List Desc) (s : Sled) : descs (setDescs u l s) u = l := by
  unfold setDescs descs
  split <;> simp

/-- A descriptor whose operation is done waits for its completion only. -/
theorem stage_opDone {u id : Nat} {s : Sled} {e : Desc} (h : e ∈ descs (opDone u id s) u) (hid : e.id = id) :
    e.stage = 2 := by
  rw [opDone, descs_setDescs, List.mem_map] at h
  obtain ⟨x, -, rfl⟩ := h
  split at hid
  next hx => rw [if_pos hx]
  next hx => exact absurd hid hx

/-! ## One row -/

theorem runRows_one {u : Nat} {d : Desc} {row : Nat → Sled → Bool × Sled} {s t : Sled} (h : row 0 s = (true, t))
    (hd : d ∈ descs t u) : runRows u d row 1 0 s = opDone u d.id t := by
  have hany : (descs t u).any (fun e => e.id = d.id) = true := List.any_eq_true.mpr ⟨d, hd, decide_eq_true rfl⟩
  rw [runRows, h]
  simp only [hany, if_true, runRows]

theorem dField_lt (d : Desc) (off len : Nat) : dField d off len < 2 ^ (8 * len) := bitsOf_lt ..

theorem rowAddr_zero {base : Nat} (h : base < 2 ^ 64) (stride : Nat) : rowAddr base stride 0 = base := by
  rw [rowAddr, Nat.zero_mul, Nat.add_zero, Nat.mod_eq_of_lt h]

theorem ownScratch_lt {core a len : Nat} (hcore : core < 8) (h : ownScratch core a len) : a + len < 2 ^ 40 := by
  obtain ⟨hlo, hhi⟩ := h
  omega

/-- The address of a place of the sled `m`. -/
theorem global_div {m a : Nat} (h : a < 2 ^ 40) : (m * 2 ^ 40 + a) / 2 ^ 40 = m := by omega

theorem global_mod {m a : Nat} (h : a < 2 ^ 40) : (m * 2 ^ 40 + a) % 2 ^ 40 = a := by omega

/-- A row for the own memory is stored at once where no earlier row is still on its way. -/
theorem landRow_own {s : Sled} {core b : Nat} {d : Desc} (l : List (Byte × Bool)) (hb : b < 2 ^ 40)
    (hreads : hasReads s d.id = false) (hop : d.opc ≠ 4) :
    landRow core d (moduleId s * 2 ^ 40 + b) l s = writeLocal b l (progress (qTen s core d.q) s) := by
  have hmod : moduleId (progress (qTen s core d.q) s) = moduleId s := rfl
  simp only [landRow, hreads, Bool.false_eq_true, if_false, hop, writeGlobal, hmod, global_div hb, global_mod hb, if_true]

/-- A row of FILL. -/
theorem fillRow_eq (len x : Nat) :
    (List.range len).map (fun i => ((leBytes 8 x).getD (i % 8) 0, false)) =
      cleanBytes ((List.range len).map fun i => (leBytes 8 x).getD (i % 8) 0) := by
  simp [cleanBytes, Function.comp_def]

/-- What FILL does with one row of the own sled. -/
theorem fxFill_row {s : Sled} {core q k : Nat} {d : Desc} {b : Nat} {t : Sled}
    (hd : runsDesc s core q k d 0x02) (hrows : dField d 0x2C 4 = 1) (hdst : dField d 0x20 8 = moduleId s * 2 ^ 40 + b)
    (hb : b < 2 ^ 40) (hok : rowOk s (qTen s core q) (dField d 0x20 8) (dField d 0x28 4) = true)
    (hreads : hasReads s d.id = false)
    (ht : writeLocal b (cleanBytes ((List.range (dField d 0x28 4)).map fun i => (leBytes 8 (dField d 0x18 8)).getD (i % 8) 0))
      (progress (qTen s core d.q) s) = t) (hmem : d ∈ descs t core) :
    fxFill core q k s = opDone core d.id t := by
  have hop : d.opc = 2 := hd.2.2.2.1
  rw [fxFill, onStarted_run hd]
  simp only [hrows]
  refine runRows_one ?_ hmem
  rw [rowAddr_zero (dField_lt d 0x20 8), hok, hdst, fillRow_eq, landRow_own _ hb hreads (by omega), ht]
  rfl

/-- No byte is undefined where no row overlaps. -/
theorem markUndefined_none {p : Nat → Bool} (a n : Nat) {l : List (Byte × Bool)} (h : ∀ i < l.length, p i = false) :
    markUndefined p a n l = l := by
  refine List.ext_getElem (by simp [markUndefined]) fun i hi _ => ?_
  have hp := h i (by simpa [markUndefined] using hi)
  simp [markUndefined, hp]

/-- A byte outside a row is in none of its one row. -/
theorem inRows_one_false {base stride len x : Nat} (hbase : base < 2 ^ 64) (h : x < base ∨ base + len ≤ x) :
    inRows base stride len 1 x = false := by
  simp only [inRows, List.range_one, List.any_cons, List.any_nil, Bool.or_false, rowAddr_zero hbase,
    Bool.and_eq_false_iff, decide_eq_false_iff_not]
  omega

/-- What COPY does with one row within the own sled. -/
theorem fxCopy_row {s t : Sled} {core q k a b len : Nat} {d : Desc} {l : List Byte}
    (hd : runsDesc s core q k d 0x01) (hrows : dField d 0x2C 4 = 1) (hlen : len = dField d 0x28 4)
    (hsrc : dField d 0x18 8 = moduleId s * 2 ^ 40 + a) (hdst : dField d 0x20 8 = moduleId s * 2 ^ 40 + b)
    (ha : a < 2 ^ 40) (hb : b < 2 ^ 40) (hap : a + len ≤ b ∨ b + len ≤ a)
    (hoka : rowOk s (qTen s core q) (dField d 0x18 8) len = true)
    (hokb : rowOk s (qTen s core q) (dField d 0x20 8) len = true) (hreads : hasReads s d.id = false)
    (hl : readLocal a len { s with free := s.free + 1 } = ((cleanBytes l, true), { s with free := s.free + 1 }))
    (hll : l.length = len)
    (ht : writeLocal b (cleanBytes l) (progress (qTen s core d.q) { s with free := s.free + 1 }) = t)
    (hmem : d ∈ descs t core) : fxCopy core q k s = opDone core d.id t := by
  have hop : d.opc = 1 := hd.2.2.2.1
  have hmod : moduleId { s with free := s.free + 1 } = moduleId s := rfl
  have hoka' : rowOk { s with free := s.free + 1 } (qTen s core q) (dField d 0x18 8) len = true := hoka
  have hokb' : rowOk { s with free := s.free + 1 } (qTen s core q) (dField d 0x20 8) len = true := hokb
  rw [fxCopy, onStarted_run hd]
  simp only [hrows, ← hlen]
  refine runRows_one ?_ hmem
  have hapart : ∀ i < l.length, (fun i => inRows (dField d 0x20 8) (dField d 0x38 8) len 1 (dField d 0x18 8 + i) ||
      inRows (dField d 0x18 8) (dField d 0x30 8) len 1 (dField d 0x20 8 + i)) i = false := fun i hi => by
    dsimp only
    rw [inRows_one_false (dField_lt d 0x20 8) (by omega), inRows_one_false (dField_lt d 0x18 8) (by omega)]
    rfl
  have hmark := markUndefined_none (dField d 0x20 8) s.free (l := cleanBytes l) (by rwa [length_cleanBytes])
  rw [rowAddr_zero (dField_lt d 0x18 8), rowAddr_zero (dField_lt d 0x20 8), hoka', hokb']
  rw [hsrc, hdst] at hmark ⊢
  rw [hmod, global_div ha, global_mod ha, hl]
  simp only [Bool.and_self, Bool.not_true, Bool.false_eq_true, if_false, if_true, hmark]
  rw [← hmod, landRow_own (s := { s with free := s.free + 1 }) _ hb hreads (by omega)]
  exact congrArg _ ht

/-- Elements of one element's bytes. -/
theorem elems_one {w : Nat} (hw : 0 < w) {l : List (Byte × Bool)} (hl : l.length = w) :
    elems w w l = [(leNat (l.map (·.1)), l.any (·.2))] := by
  obtain ⟨w, rfl⟩ := Nat.exists_eq_succ_of_ne_zero (Nat.ne_of_gt hw)
  have hdrop : l.drop (w + 1) = [] := List.drop_eq_nil_of_le (by omega)
  have htake : l.take (w + 1) = l := List.take_of_length_le (by omega)
  rw [elems, if_neg (by omega), htake, hdrop]
  cases w with
  | zero => rfl
  | succ w => simp [elems]

/-- The sum that a reduction leaves in one element. -/
def sumOf (f : Fmt) (old new : List Byte) : Nat := encodeF f ((decodeF f (leNat old)).add (decodeF f (leNat new)))

/-- A reduction of one element into the own memory. -/
theorem reduceLocal_one {s t : Sled} {f : Fmt} {b : Nat} {old new : List Byte} (hf : 0 < f.bytes)
    (hnew : new.length = f.bytes) (hold : old.length = f.bytes)
    (hread : readLocal b f.bytes s = ((cleanBytes old, true), s))
    (ht : writeLocal b (cleanBytes (leBytes f.bytes (sumOf f old new))) s = t) :
    reduceLocal f b (cleanBytes new) s = (false, t) := by
  simp only [reduceLocal, length_cleanBytes, hnew, hread]
  rw [elems_one hf (by simpa using hold), elems_one hf (by simpa using hnew)]
  simp only [any_cleanBytes, map_fst_cleanBytes]
  simpa [cleanBytes, sumOf, Function.comp_def] using ht

/-- What REDUCE does with one element within the own sled. -/
theorem fxReduce_row {s t : Sled} {core q k a b : Nat} {d : Desc} {old new : List Byte}
    (hd : runsDesc s core q k d 0x04) (hfmt : d.fmt = 1) (hrows : dField d 0x2C 4 = 1) (hlen : dField d 0x28 4 = 4)
    (hsrc : dField d 0x18 8 = moduleId s * 2 ^ 40 + a) (hdst : dField d 0x20 8 = moduleId s * 2 ^ 40 + b)
    (ha : a < 2 ^ 40) (hb : b < 2 ^ 40)
    (hoka : rowOk s (qTen s core q) (dField d 0x18 8) 4 = true)
    (hokb : rowOk s (qTen s core q) (dField d 0x20 8) 4 = true) (hreads : hasReads s d.id = false)
    (hnew : readLocal a 4 s = ((cleanBytes new, true), s)) (hnl : new.length = 4) (hol : old.length = 4)
    (hold : readLocal b 4 (progress (qTen s core d.q) s) = ((cleanBytes old, true), progress (qTen s core d.q) s))
    (ht : writeLocal b (cleanBytes (leBytes 4 (sumOf fp32 old new))) (progress (qTen s core d.q) s) = t)
    (hmem : d ∈ descs t core) : fxReduce core q k s = opDone core d.id t := by
  have hop : d.opc = 4 := hd.2.2.2.1
  have hmod : moduleId (progress (qTen s core d.q) s) = moduleId s := rfl
  rw [fxReduce, onStarted_run hd]
  simp only [hrows, hlen]
  refine runRows_one ?_ hmem
  rw [rowAddr_zero (dField_lt d 0x18 8), rowAddr_zero (dField_lt d 0x20 8), hoka, hokb, hsrc, hdst, global_div ha,
    global_mod ha, hnew]
  simp only [Bool.and_self, Bool.not_true, Bool.false_eq_true, if_false, if_true, landRow, hreads, hop, reduceGlobal, hmod,
    hfmt, global_div hb, global_mod hb]
  rw [show (if 1 % 16 = 0 then bf16 else fp32) = fp32 from rfl, reduceLocal_one (f := fp32) (by decide) hnl hol hold ht]
  rfl

/-- Settles O28: one row within the own scratchpad, and NOP. -/
theorem dmaOperationsWriteTheirRow : Obligations.DmaOperationsWriteTheirRow := by
  unfold Obligations.DmaOperationsWriteTheirRow
  refine ⟨?fill, ?copy, ?reduce, ?nop⟩
  case fill =>
    intro s core q k d b len hd hrows hlen hdst hown hl hb hclear hreads hok
    subst hlen
    obtain ⟨m, e, hw, hst⟩ := writeLocal_scratch (s := progress (qTen s.sled core d.q) s.sled)
      (l := (List.range (dField d 0x28 4)).map fun i => (leBytes 8 (dField d 0x18 8)).getD (i % 8) 0) hd.2.2.2.2 hd.2.1
      (by simpa using hown) hclear (.inr ⟨hb, by simpa using hl⟩)
    have hlt := ownScratch_lt hd.2.2.2.2 hown
    have hfx := fxFill_row hd hrows hdst (by omega) hok hreads hw (mem_descs_of_started hd.1)
    obtain ⟨v, hv⟩ := opDone_vault core.isLt d.id { progress (qTen s.sled core d.q) s.sled with mem := m, ecc := e }
    refine ⟨{ s with sled := fxFill core q k s.sled }, liftHold_eq ?_, rfl, fun x => ?_, fun e he => ?_, ?_⟩
    · rw [hfx, hv]; rfl
    · rw [hfx, hv]
      refine (hst.get x).trans ?_
      rw [List.length_map, List.length_range]
      split
      next hx => rw [List.getD_eq_getElem _ _ (by simp; omega), List.getElem_map, List.getElem_range]
      next => rfl
    · rw [hfx] at he
      exact stage_opDone he
    · rw [hfx, hv]
      rfl
  case copy =>
    intro s core q k d a b len hd hrows hlen hsrc hdst howna hownb hap hl ha hb hecc hclear hreads hoka hokb
    obtain ⟨m, e, hw, hst⟩ := writeLocal_scratch (s := progress (qTen s.sled core d.q) { s.sled with free := s.sled.free + 1 })
      (l := memRead s.sled.mem (2 ^ 40 + a) len) hd.2.2.2.2 hd.2.1 (by simpa using hownb) hclear (.inl hecc)
    have hla := ownScratch_lt hd.2.2.2.2 howna
    have hlb := ownScratch_lt hd.2.2.2.2 hownb
    have hfx := fxCopy_row hd hrows hlen hsrc hdst (by omega) (by omega) hap hoka hokb hreads
      (readLocal_scratch (s := { s.sled with free := s.sled.free + 1 }) hd.2.2.2.2 hd.2.1 howna hclear hecc)
      (length_memRead ..) hw (mem_descs_of_started hd.1)
    obtain ⟨v, hv⟩ := opDone_vault core.isLt d.id
      { progress (qTen s.sled core d.q) { s.sled with free := s.sled.free + 1 } with mem := m, ecc := e }
    refine ⟨{ s with sled := fxCopy core q k s.sled }, liftHold_eq ?_, rfl, fun x => ?_, fun e he => ?_, ?_⟩
    · rw [hfx, hv]; rfl
    · rw [hfx, hv]
      refine (hst.get x).trans ?_
      rw [length_memRead]
      split
      next hx =>
        rw [List.getD_eq_getElem _ _ (by simp; omega), getElem_memRead]
        congr 1
        omega
      next => rfl
    · rw [hfx] at he
      exact stage_opDone he
    · rw [hfx, hv]
      rfl
  case reduce =>
    intro s core q k d a b hd hfmt hrows hlen hsrc hdst howna hownb hap ha hb hecc hclear hreads hoka hokb
    set old := memRead s.sled.mem (2 ^ 40 + b) 4
    set new := memRead s.sled.mem (2 ^ 40 + a) 4
    obtain ⟨m, e, hw, hst⟩ := writeLocal_scratch (s := progress (qTen s.sled core d.q) s.sled)
      (l := leBytes 4 (sumOf fp32 old new)) hd.2.2.2.2 hd.2.1 (by simpa using hownb) hclear (.inl hecc)
    have hla := ownScratch_lt hd.2.2.2.2 howna
    have hlb := ownScratch_lt hd.2.2.2.2 hownb
    have hfx := fxReduce_row hd hfmt hrows hlen hsrc hdst (by omega) (by omega) hoka hokb hreads
      (readLocal_scratch hd.2.2.2.2 hd.2.1 howna hclear hecc) (length_memRead ..) (length_memRead ..)
      (readLocal_scratch (s := progress (qTen s.sled core d.q) s.sled) hd.2.2.2.2 hd.2.1 hownb hclear hecc) hw
      (mem_descs_of_started hd.1)
    obtain ⟨v, hv⟩ := opDone_vault core.isLt d.id { progress (qTen s.sled core d.q) s.sled with mem := m, ecc := e }
    refine ⟨{ s with sled := fxReduce core q k s.sled }, liftHold_eq ?_, rfl, ?_, fun x hx => ?_, ?_⟩
    · rw [hfx, hv]; rfl
    · rw [hfx, hv]
      refine (congrArg leNat ?_).trans (leNat_leBytes_of_lt (encodeF_fp32_lt _))
      exact (length_leBytes 4 _) ▸ hst.read
    · rw [hfx, hv]
      exact hst.get_out (by simpa using hx)
    · rw [hfx, hv]
      exact hst.1 hecc
  case nop =>
    intro s u k d hk hruns hstage hop
    refine ⟨?_, fun e he hid => stage_opDone he hid⟩
    have hstart : fxNop u k s.sled = opDone u.unit d.id s.sled := by
      rw [unitRuns] at hruns
      simp [fxNop, onStarted, hk, hruns, hstage, hop]
    rw [← hstart]
    rfl

end Sys2Proof.Machine

/-! The matrix and the vector engine on the own scratchpad (spec/10, R197 to R202): rows read and written, an element of
a row, the exact product of integers. -/

namespace Sys2Proof.Machine

open Sys2Proof

theorem mem_descs_of_find {s : Sled} {u q : Nat} {p : Desc → Bool} {d : Desc} (h : (started s u q).find? p = some d) :
    d ∈ descs s u :=
  (List.mem_filter.mp (List.mem_of_find?_eq_some h)).1

theorem onEngine_run {s : Sled} {u q op : Nat} {d : Desc} {f : Desc → Sled → Sled}
    (h : (started s u q).find? (fun e => e.stage = 1 && e.opc = op) = some d) (hruns : islRuns s (iVC u) = true) :
    onEngine u q op f s = f d s := by
  simp only [onEngine, h, hruns, if_true]

theorem ownScratch_scratchAddr {core off n : Nat} (h : off + n ≤ scratchSize) :
    ownScratch core (scratchAddr core off) n := by
  rw [scratchSize] at h
  simp only [ownScratch, scratchAddr, scratchSize]
  omega

theorem rowsInside_one {off ld len : Nat} (h : off + len ≤ scratchSize) : rowsInside off ld len 1 = true := by
  simpa [rowsInside] using h

theorem readRows_one {s : Sled} {core off ld n : Nat} (hcore : core < 8) (hruns : islRuns s (iVC core) = true)
    (hin : off + n ≤ scratchSize) (hclear : s.clearing = false) (hecc : s.ecc = []) :
    readRows core off ld n 1 s = ([cleanBytes (memRead s.mem (2 ^ 40 + scratchAddr core off) n)], s) := by
  simp only [readRows, readLocal_scratch hcore hruns (ownScratch_scratchAddr hin) hclear hecc]

theorem readLocal_zero (a : Nat) (s : Sled) : readLocal a 0 s = (([], true), s) := rfl

theorem writeRows_one (core off ld : Nat) (l : List (Byte × Bool)) (s : Sled) :
    writeRows core off ld [l] s = writeLocal (scratchAddr core off) l s := rfl

theorem take_singleton {α : Type} (n : Nat) (x : α) : [x].take (n + 1) = [x] := by simp

theorem any_const_false {α : Type} (l : List α) : l.any (fun _ => false) = false := by simp

/-- An element of whole bytes. -/
theorem rowElem_bytes (w : Nat) (l : List Byte) (i : Nat) :
    rowElem (8 * w) (cleanBytes l) i = (leNat ((l.drop (i * w)).take w) % 2 ^ (8 * w), false) := by
  have hlo : i * (8 * w) / 8 = i * w := by rw [Nat.mul_left_comm, Nat.mul_div_cancel_left _ (by decide)]
  have hoff : i * (8 * w) % 8 = 0 := by rw [Nat.mul_left_comm, Nat.mul_mod_right]
  have hn : (8 * w + 7) / 8 = w := by omega
  simp only [rowElem, hlo, hoff, hn, drop_cleanBytes, take_cleanBytes, map_fst_cleanBytes, any_cleanBytes, bitsOf,
    Nat.pow_zero, Nat.div_one]

theorem rowElem_one (l : List Byte) (i : Nat) (hi : i < l.length) : rowElem 8 (cleanBytes l) i = (l[i].toNat, false) := by
  have hpart : (l.drop (i * 1)).take 1 = [l[i]] := by
    rw [Nat.mul_one, List.take_one_drop_eq_of_lt_length hi]
    rfl
  have h := rowElem_bytes 1 l i
  rw [hpart] at h
  rw [h, leNat, leNat, Nat.mul_zero, Nat.add_zero, Nat.mod_eq_of_lt (l[i].isLt)]

/-- A row of one element. -/
theorem rowElem_zero {w : Nat} {l : List Byte} (hl : l.length = w) :
    rowElem (8 * w) (cleanBytes l) 0 = (leNat l, false) := by
  have hlt := leNat_lt l
  rw [hl, show 256 = 2 ^ 8 from rfl, ← Nat.pow_mul] at hlt
  rw [rowElem_bytes, Nat.zero_mul, List.drop_zero, List.take_of_length_le (by omega), Nat.mod_eq_of_lt hlt]

/-! ## The integer dot product -/

/-- A product from the signs and the sizes. -/
theorem sign_natAbs_mul (a b : Int) :
    (if (decide (a < 0) ^^ decide (b < 0)) = true then -((a.natAbs * b.natAbs : Nat) : Int)
      else (a.natAbs * b.natAbs : Nat)) = a * b := by
  by_cases ha : a < 0 <;> by_cases hb : b < 0 <;> simp [ha, hb, abs_of_neg, abs_of_nonneg, Int.not_lt.mp]

/-- The product of small integers is exact. -/
theorem toIntSat_mul_ofInt {a b : Int} (h : (a * b).natAbs < 2 ^ 31) :
    ((FVal.ofInt a).mul (FVal.ofInt b)).toIntSat 32 = a * b := by
  have hsign := sign_natAbs_mul a b
  simp only [FVal.ofInt, FVal.mul, FVal.toIntSat, Int.add_zero, Int.le_refl, if_true, Int.toNat_zero, Nat.pow_zero,
    Nat.mul_one, hsign]
  omega

theorem sNat_natAbs_le (x : Nat) : (sNat 8 x).natAbs ≤ 2 ^ 7 := by
  rw [sNat]
  split <;> omega

/-- Bytes as signed integers multiply exactly. -/
theorem toIntSat_mul_sNat (x y : Nat) :
    ((FVal.ofInt (sNat 8 x)).mul (FVal.ofInt (sNat 8 y))).toIntSat 32 = sNat 8 x * sNat 8 y := by
  refine toIntSat_mul_ofInt ?_
  rw [Int.natAbs_mul]
  exact Nat.lt_of_le_of_lt (Nat.mul_le_mul (sNat_natAbs_le x) (sNat_natAbs_le y)) (by decide)

/-- The shape of an INT8 GEMM of one row and one column over `n` steps. -/
def dotDims (n : Nat) : GemmDims := { m := 1, n := 1, k := n, fa := 5, fb := 5, ta := false, tb := true, acc := false }

theorem gemmElem_dot (n : Nat) (isB : Bool) {l : List Byte} (sc : List (Byte × Bool)) {i : Nat} (hi : i < l.length) :
    gemmElem (dotDims n) isB [cleanBytes l] sc 0 i = (.ofInt (sNat 8 l[i].toNat), false) := by
  cases isB <;> simp [gemmElem, dotDims, gemmBits, rowElem_one l i hi, gemmVal]

theorem foldl_toIntSat {l : List FVal} (x : Int) :
    l.foldl (fun acc p => acc + p.toIntSat 32) x = x + (l.map (FVal.toIntSat 32)).sum := by
  induction l generalizing x with
  | nil => simp
  | cons p l ih => rw [List.foldl_cons, ih, List.map_cons, List.sum_cons, Int.add_assoc]

/-- The signed bytes' dot product. -/
def dotBytes (as bs : List Byte) : Int := ((as.zip bs).map fun x => sNat 8 x.1.toNat * sNat 8 x.2.toNat).sum

/-- The element that the engine writes is the dot product. -/
theorem gemmOut_dot (n old : Nat) (as bs : List Byte) :
    gemmOut (dotDims n) (as.map fun x => .ofInt (sNat 8 x.toNat)) (bs.map fun x => .ofInt (sNat 8 x.toNat)) old =
      iNat 32 (dotBytes as bs) := by
  have hsum : ((as.map fun x => FVal.ofInt (sNat 8 x.toNat)).zip (bs.map fun x => FVal.ofInt (sNat 8 x.toNat))).map
      (fun p => (p.1.mul p.2).toIntSat 32) = (as.zip bs).map fun x => sNat 8 x.1.toNat * sNat 8 x.2.toNat := by
    rw [List.zip_map, List.map_map]
    exact List.map_congr_left fun x _ => toIntSat_mul_sNat _ _
  simp only [gemmOut, dotDims, if_true, Bool.false_eq_true, if_false]
  rw [foldl_toIntSat, List.map_map, Int.zero_add]
  exact congrArg (fun l => iNat 32 l.sum) hsum

/-- The operands' elements. -/
theorem map_gemmElem_dot {n : Nat} (isB : Bool) {l : List Byte} (hl : l.length = n) (sc : List (Byte × Bool)) :
    (List.range n).map (fun i => gemmElem (dotDims n) isB [cleanBytes l] sc 0 i) =
      l.map fun x => (.ofInt (sNat 8 x.toNat), false) := by
  subst hl
  refine List.ext_getElem (by simp) fun i hi _ => ?_
  have hi' : i < l.length := by simpa using hi
  simp [gemmElem_dot _ _ _ hi']

/-- What GEMM does with one row and one column of bytes. -/
theorem fxGemm_dot {s t : Sled} {core q n oa ob oc : Nat} {d : Desc}
    (hd : (started s core (16 + q)).find? (fun e => e.stage = 1 && e.opc = 0x20) = some d) (hcore : core < 8)
    (hruns : islRuns s (iVC core) = true) (hfmt : d.fmt = 0x55) (hflags : d.flags = 0x40) (hm : dField d 0x2C 2 = 1)
    (hn : dField d 0x2E 2 = 1) (hk : dField d 0x30 4 = n) (hoa : oa = dField d 0x18 4) (hob : ob = dField d 0x1C 4)
    (hoc : oc = dField d 0x20 4) (hosa : dField d 0x24 4 = 0) (hosb : dField d 0x28 4 = 0)
    (hina : oa + n ≤ scratchSize) (hinb : ob + n ≤ scratchSize) (hinc : oc + 4 ≤ scratchSize)
    (hapa : oc + 4 ≤ oa ∨ oa + n ≤ oc) (hapb : oc + 4 ≤ ob ∨ ob + n ≤ oc) (hecc : s.ecc = []) (hclear : s.clearing = false)
    (ht : writeLocal (scratchAddr core oc) (cleanBytes (leBytes 4 (iNat 32 (dotBytes
      (memRead s.mem (2 ^ 40 + scratchAddr core oa) n) (memRead s.mem (2 ^ 40 + scratchAddr core ob) n)))))
      { s with free := s.free + 1 } = t) : fxGemm core q s = opDone core d.id t := by
  have hdims : gemmDims d = dotDims n := by
    simp [gemmDims, dotDims, hm, hn, hk, hfmt, hflags, bitAt]
  have hA : gemmStored (dotDims n) false = (1, n) := by simp [gemmStored, dotDims, gemmBits]; omega
  have hB : gemmStored (dotDims n) true = (1, n) := by simp [gemmStored, dotDims, gemmBits]; omega
  rw [fxGemm, onEngine_run hd hruns]
  simp only [hdims, hA, hB, hosa, hosb, ← hoa, ← hob, ← hoc]
  have hmx : ((dotDims n).fa = 6) = False := by simp [dotDims]
  have h1 : (dotDims n).m = 1 := rfl
  have h2 : (dotDims n).n = 1 := rfl
  have h3 : (dotDims n).acc = false := rfl
  have h4 : (dotDims n).ta = false := rfl
  have h5 : (dotDims n).tb = true := rfl
  have h6 : (dotDims n).k = n := rfl
  simp only [hmx, h1, h2, h3, h4, h5, h6, Bool.false_eq_true, if_false, if_true, Nat.mul_one,
    rowsInside_one hina, rowsInside_one hinb, rowsInside_one hinc, readRows_one hcore hruns hina hclear hecc,
    readRows_one hcore hruns hinb hclear hecc, readRows_one hcore hruns hinc hclear hecc, readLocal_zero,
    map_gemmElem_dot false (length_memRead s.mem (2 ^ 40 + scratchAddr core oa) n),
    map_gemmElem_dot true (length_memRead s.mem (2 ^ 40 + scratchAddr core ob) n),
    show (1 + 127) / 128 = 1 from rfl, List.range_one, List.map_cons, List.map_nil, List.map_map, Nat.mul_zero,
    Nat.zero_mul, Nat.add_zero, Nat.zero_div, Nat.zero_le, decide_true, List.drop_zero, take_singleton,
    Bool.false_and, Bool.and_false, List.any_map, List.any_cons, List.any_nil, any_const_false, id_eq, Function.comp_def,
    List.getD_cons_zero, List.flatMap_cons, List.flatMap_nil, List.append_nil, Bool.or_false, Bool.and_self, Bool.not_true]
  rw [gemmOut_dot, markUndefined_none, writeRows_one]
  · exact congrArg _ ht
  · intro i hi
    have hi4 : i < 4 := by simpa using hi
    have hlt := dField_lt d 0x18 4
    have hlt' := dField_lt d 0x1C 4
    have hlt'' := dField_lt d 0x20 4
    have houtA : (List.range n).any (fun x => inRows oc (dField d 0x3C 4) 4 1 (oa + x)) = false :=
      List.any_eq_false.mpr fun x hx => by
        rw [List.mem_range] at hx
        rw [inRows_one_false (by omega) (by omega)]
        exact Bool.false_ne_true
    have houtB : (List.range n).any (fun x => inRows oc (dField d 0x3C 4) 4 1 (ob + x)) = false :=
      List.any_eq_false.mpr fun x hx => by
        rw [List.mem_range] at hx
        rw [inRows_one_false (by omega) (by omega)]
        exact Bool.false_ne_true
    rw [houtA, houtB, inRows_one_false (by omega) (by omega), inRows_one_false (by omega) (by omega)]
    rfl

/-! ## One element of a vector operation -/

/-- What an operation reads of its `k`-th source, a single FP32 element at `o`; 0 where it has no such source. -/
def vopSrc (s : Sled) (core op k o : Nat) : FVal :=
  if k < vopArity op then decodeF fp32 (leNat (memRead s.mem (2 ^ 40 + scratchAddr core o) 4)) else decodeF fp32 0

/-- The value of one element before it is rounded to FP32. -/
def vopOne (s : Sled) (core op oa ob oc : Nat) : FVal :=
  vopElem op false (s.free + 1) (vopSrc s core op 0 oa) (vopSrc s core op 1 ob) (vopSrc s core op 2 oc)

/-- A place of a source or of D that is the element's own is at no other position. -/
theorem not_other_position {b x : Nat} : (decide (b ≤ x) && decide (x < b + 4) && !decide ((x - b) / 4 = 0)) = false := by
  by_cases hx : b ≤ x ∧ x < b + 4
  · have : (x - b) / 4 = 0 := by omega
    simp [this]
  · simp; omega

theorem fxVop_one {s t : Sled} {core q op oa ob oc od : Nat} {d : Desc}
    (hd : (started s core (20 + q)).find? (fun e => e.stage = 1 && e.opc = 0x40) = some d) (hcore : core < 8)
    (hruns : islRuns s (iVC core) = true) (hfmt : d.fmt = 0x44) (hflags : d.flags = 0) (hcols : dField d 0x28 4 = 1)
    (hrows : dField d 0x2C 4 = 1) (hop : op = dField d 0x3C 1) (hred : op ≠ 0x20 ∧ op ≠ 0x21)
    (hoa : oa = dField d 0x18 4) (hob : ob = dField d 0x1C 4) (hoc : oc = dField d 0x20 4) (hod : od = dField d 0x24 4)
    (hina : oa + 4 ≤ scratchSize) (hinb : ob + 4 ≤ scratchSize) (hinc : oc + 4 ≤ scratchSize)
    (hind : od + 4 ≤ scratchSize) (hecc : s.ecc = []) (hclear : s.clearing = false)
    (ht : writeLocal (scratchAddr core od) (cleanBytes (leBytes 4 (encodeF fp32 (vopOne s core op oa ob oc))))
      { s with free := s.free + 2 } = t) : fxVop core q s = opDone core d.id t := by
  have hbit4 : bitAt d.flags 4 = false := by rw [hflags]; rfl
  have hbit5 : bitAt d.flags 5 = false := by rw [hflags]; rfl
  have hw : vopBytes 4 = 4 := rfl
  rw [fxVop, onEngine_run hd hruns]
  generalize dField d = field at *
  have harity : vopArity op = 1 ∨ vopArity op = 2 ∨ vopArity op = 3 := by
    rw [vopArity]
    split
    · exact .inr (.inr rfl)
    · split
      · exact .inr (.inl rfl)
      · exact .inl rfl
  simp only [hfmt, hcols, hrows, ← hop, ← hoa, ← hob, ← hoc, ← hod, hbit4, hbit5, show 0x44 % 16 = 4 from rfl,
    show 0x44 / 16 = 4 from rfl, hw, hred, decide_false, Bool.or_false, Bool.false_eq_true, if_false, Nat.one_mul]
  have hnoD : ∀ o i, (decide (od ≤ o + i) && decide (o + i < od + 4) && !decide ((o + i - od) / 4 = 0)) = false :=
    fun o i => not_other_position
  have hnoS : ∀ o x, (decide (o ≤ od + x) && decide (od + x < o + 4) && !decide ((od + x - o) / 4 = 0)) = false :=
    fun o x => not_other_position
  have hval : ∀ x, vopVal 4 x = decodeF fp32 x := fun _ => rfl
  have henc : ∀ x, vopEncode 4 x = encodeF fp32 x := fun _ => rfl
  have hnil : rowElem (8 * 4) [] 0 = (0, false) := rfl
  have hmark : ∀ a n l, markUndefined (fun _ => false) a n l = l := fun a n l => markUndefined_none a n fun _ _ => rfl
  have hclean : ∀ l : List Byte, l.map (fun b => (b, false)) = cleanBytes l := fun _ => rfl
  obtain ha | ha | ha := harity <;>
  · simp only [vopOne, vopSrc, ha, show 0 < 1 by decide, show ¬ 1 < 1 by decide, show ¬ 2 < 1 by decide,
      show 0 < 2 by decide, show 1 < 2 by decide, show ¬ 2 < 2 by decide, show 0 < 3 by decide, show 1 < 3 by decide,
      show 2 < 3 by decide, if_true, if_false] at ht
    simp only [ha, List.take, List.all_cons, List.all_nil, ite_self, rowsInside_one hina, rowsInside_one hinb,
      rowsInside_one hinc, rowsInside_one hind, List.foldl_cons, List.foldl_nil,
      readRows_one hcore hruns hina hclear hecc, readRows_one hcore hruns hinb hclear hecc,
      readRows_one hcore hruns hinc hclear hecc, Nat.zero_mul, List.range_one, List.map_cons, List.map_nil,
      List.any_cons, List.any_nil, List.length_cons, List.length_nil, Nat.add_zero, Nat.zero_add, hnoD, hnoS, hval, henc, hnil,
      decide_true, Bool.true_and, Bool.false_or, Bool.or_false, any_const_false, Bool.and_self, Bool.not_true,
      Bool.false_eq_true, if_false, List.nil_append, List.cons_append, List.getD_cons_zero, List.getD_cons_succ,
      List.getD_nil, List.flatMap_cons, List.flatMap_nil, List.append_nil, 
      rowElem_zero (length_memRead s.mem (2 ^ 40 + scratchAddr core oa) 4),
      rowElem_zero (length_memRead s.mem (2 ^ 40 + scratchAddr core ob) 4),
      rowElem_zero (length_memRead s.mem (2 ^ 40 + scratchAddr core oc) 4), anyPoison, writeRows_one, show List.range (1 + 1) = [0, 1] from rfl,
      show List.range (1 + 1 + 1) = [0, 1, 2] from rfl, hmark, hclean, any_cleanBytes, Nat.reduceEqDiff]
    exact congrArg _ ht

/-- The seven operations on FP32 elements (Table 10-9). -/
theorem vopOne_eq {s : Sled} {core op oa ob oc : Nat} (hop : op ∈ [0x01, 0x02, 0x03, 0x04, 0x05, 0x06, 0x07]) :
    encodeF fp32 (vopOne s core op oa ob oc) =
      (let a := decodeF fp32 (leNat (memRead s.mem (2 ^ 40 + scratchAddr core oa) 4))
       let b := decodeF fp32 (leNat (memRead s.mem (2 ^ 40 + scratchAddr core ob) 4))
       let c := decodeF fp32 (leNat (memRead s.mem (2 ^ 40 + scratchAddr core oc) 4))
       encodeF fp32 (
         if op = 0x01 then roundF fp32 (a.add b) else if op = 0x02 then roundF fp32 (a.sub b)
         else if op = 0x03 then roundF fp32 (a.mul b) else if op = 0x04 then a.maxNum b
         else if op = 0x05 then a.minNum b else if op = 0x06 then roundF fp32 ((a.mul b).add c) else a)) := by
  simp only [List.mem_cons, List.not_mem_nil, or_false] at hop
  obtain rfl | rfl | rfl | rfl | rfl | rfl | rfl := hop <;> rfl

theorem iNat_lt (x : Int) : iNat 32 x < 256 ^ 4 := by
  rw [iNat]
  omega

/-- The dot product of two runs of memory. -/
theorem dotBytes_memRead (m : List Host.Cell) (a b n : Nat) :
    dotBytes (memRead m a n) (memRead m b n) =
      ((List.range n).map fun i => sNat 8 (memGet m (a + i)).toNat * sNat 8 (memGet m (b + i)).toNat).sum := by
  rw [dotBytes]
  refine congrArg List.sum (List.ext_getElem (by simp) fun i _ _ => ?_)
  simp

/-- Settles O29: a dot product of bytes, and one FP32 element. -/
theorem matrixAndVectorOperationsWriteResults : Obligations.MatrixAndVectorOperationsWriteResults := by
  unfold Obligations.MatrixAndVectorOperationsWriteResults
  refine ⟨?gemm, ?vop⟩
  case gemm =>
    intro s core q d n oa ob oc hd hruns hfmt hflags hm hn hk _ hoa hob hoc hosa hosb hina hinb hinc _ hapa hapb hecc
      hclear
    obtain ⟨m, e, hw, hst⟩ := writeLocal_scratch (s := { s.sled with free := s.sled.free + 1 })
      (l := leBytes 4 (iNat 32 (dotBytes (memRead s.sled.mem (2 ^ 40 + scratchAddr core oa) n)
        (memRead s.sled.mem (2 ^ 40 + scratchAddr core ob) n)))) core.isLt hruns
      (ownScratch_scratchAddr (by simpa using hinc)) hclear (.inl hecc)
    have hfx := fxGemm_dot hd core.isLt hruns hfmt hflags hm hn hk hoa hob hoc hosa hosb hina hinb hinc hapa hapb hecc
      hclear hw
    obtain ⟨v, hv⟩ := opDone_vault core.isLt d.id { s.sled with free := s.sled.free + 1, mem := m, ecc := e }
    refine ⟨{ s with sled := fxGemm core q s.sled }, liftHold_eq ?_, rfl, ?_, fun x hx => ?_, fun e he => ?_, ?_⟩
    · rw [hfx, hv]
    · rw [hfx, hv, ← dotBytes_memRead]
      exact (congrArg leNat (length_leBytes 4 _ ▸ hst.read)).trans (leNat_leBytes_of_lt (iNat_lt _))
    · rw [hfx, hv]
      exact hst.get_out (by simpa using hx)
    · rw [hfx] at he
      exact stage_opDone he
    · rw [hfx, hv]
  case vop =>
    intro s core q d op oa ob oc od hd hruns hfmt hflags hcols hrows hop hops hoa hob hoc hod hina hinb hinc hind
      _ _ _ _ hecc hclear
    obtain ⟨m, e, hw, hst⟩ := writeLocal_scratch (s := { s.sled with free := s.sled.free + 2 })
      (l := leBytes 4 (encodeF fp32 (vopOne s.sled core op oa ob oc))) core.isLt hruns
      (ownScratch_scratchAddr (by simpa using hind)) hclear (.inl hecc)
    have hred : op ≠ 0x20 ∧ op ≠ 0x21 := by
      constructor <;> rintro rfl <;> exact absurd hops (by decide)
    have hfx := fxVop_one hd core.isLt hruns hfmt hflags hcols hrows hop hred hoa hob hoc hod hina hinb hinc hind hecc
      hclear hw
    obtain ⟨v, hv⟩ := opDone_vault core.isLt d.id { s.sled with free := s.sled.free + 2, mem := m, ecc := e }
    refine ⟨{ s with sled := fxVop core q s.sled }, liftHold_eq ?_, rfl, ?_, fun x hx => ?_, ?_⟩
    · rw [hfx, hv]
    · rw [hfx, hv, ← vopOne_eq hops]
      exact (congrArg leNat (length_leBytes 4 _ ▸ hst.read)).trans (leNat_leBytes_of_lt (encodeF_fp32_lt _))
    · rw [hfx, hv]
      exact hst.get_out (by simpa using hx)
    · rw [hfx, hv]

end Sys2Proof.Machine

/-! Straps, the debounced inputs and the quiesced state (spec/02, R31, R35, R37; spec/03, R55, R56). -/

namespace Sys2Proof.Machine

open Sys2Proof

/-! ## Strap samples -/

/-- A bit differs where some sample's does. -/
theorem getLsbD_foldl_diff (x d : BitVec 11) (l : List (BitVec 11)) (i : Nat) :
    (l.foldl (fun d y => d ||| (x ^^^ y)) d).getLsbD i = (d.getLsbD i || l.any fun y => x.getLsbD i ^^ y.getLsbD i) := by
  induction l generalizing d with
  | nil => simp
  | cons y l ih => rw [List.foldl_cons, ih, BitVec.getLsbD_or, BitVec.getLsbD_xor, List.any_cons, Bool.or_assoc]

/-- Samples agree where no bit differs. -/
theorem foldl_diff_eq_zero {x : BitVec 11} {l : List (BitVec 11)} :
    l.foldl (fun d y => d ||| (x ^^^ y)) 0 = 0 ↔ ∀ y ∈ l, y = x := by
  constructor
  · intro h y hy
    refine BitVec.eq_of_getLsbD_eq fun i _ => ?_
    have hi := getLsbD_foldl_diff x 0 l i
    rw [h] at hi
    have hany : (l.any fun y => x.getLsbD i ^^ y.getLsbD i) = false := by simpa using hi.symm
    have := List.any_eq_false.mp hany y hy
    exact (by simpa using this : x.getLsbD i = y.getLsbD i).symm
  · intro h
    refine BitVec.eq_of_getLsbD_eq fun i _ => ?_
    rw [getLsbD_foldl_diff, List.any_eq_false.mpr fun y hy => by simp [h y hy]]
    simp

/-- A stable bit is latched as sampled. -/
theorem getLsbD_latched (x v : BitVec 11) {diff : BitVec 11} {i : Nat} (hi : i < 11) (h : diff.getLsbD i = false) :
    ((x &&& ~~~diff) ||| (v &&& diff)).getLsbD i = x.getLsbD i := by
  rw [BitVec.getLsbD_or, BitVec.getLsbD_and, BitVec.getLsbD_and, BitVec.getLsbD_not, h]
  simp [hi]

/-- A window counts while the straps are sampled under power. -/
theorem sampling_goes_on {s : Sled} (hsamp : s.plat.sampling = true) (hon : s.plat.supply = .on)
    (hmod : s.plat.modReset = false) : ¬ (!s.plat.sampling ∨ s.plat.supply ≠ .on ∨ s.plat.modReset) := by
  simp [hsamp, hon, hmod]

theorem kt3Clamp_frame (s : Sled) : ∃ r, kt3Clamp s = { s with regs := r } := by
  unfold kt3Clamp
  split
  · exact ⟨_, rfl⟩
  · refine List.foldlRecOn (motive := fun (t : Sled) => ∃ r, t = { s with regs := r }) _ _ ⟨s.regs, rfl⟩ fun t ht kv _ => ?_
    obtain ⟨r, rfl⟩ := ht
    split <;> exact ⟨_, rfl⟩

/-- Outside KT3 mode no counter is cut. -/
theorem kt3Clamp_of_not_kt3 {s : Sled} (h : kt3 s = false) : kt3Clamp s = s := by simp [kt3Clamp, h]

/-! ## Events of every function -/

theorem foldl_vfEvent_frame (b : Nat) (l : List Nat) (s : Sled) :
    ∃ r h o, l.foldl (fun s t => vfEvent t b s) s = { s with regs := r, hst := h, outs := o } := by
  induction l generalizing s with
  | nil => exact ⟨_, _, _, rfl⟩
  | cons t l ih =>
    obtain ⟨r, h, o, hl⟩ := ih (vfEvent t b s)
    exact ⟨r, h, o, by rw [List.foldl_cons, hl, vfEvent_frame]⟩

/-- A removal request starts the drain: READY falls, the alert rises, and the functions and the platform learn of it. -/
theorem quiesceBegin_frame {s : Sled} (hreq : s.plat.removeReq = true) (hq : s.plat.quiesce = .none)
    (hrun : s.kpr.phase = .running) : ∃ r h o, quiesceBegin s = { s with
      plat := { s.plat with quiesce := .draining, ready := false }, kpr := { s.kpr with alert := true }
      regs := r, hst := h, outs := o } := by
  obtain ⟨r, h, o, hf⟩ := foldl_vfEvent_frame 1 (List.range 16)
    (alertOn { s with plat := { s.plat with quiesce := .draining, ready := false } })
  have hbegin : quiesceBegin s = platEvent 3 0 { alertOn { s with plat := { s.plat with
      quiesce := .draining, ready := false } } with regs := r, hst := h, outs := o } := by
    rw [← hf]
    simp only [quiesceBegin, hreq, hq, hrun, Bool.not_true, Bool.false_eq_true, ne_eq, not_true, or_self, if_false]
  exact ⟨r, h, _, by rw [hbegin, platEvent_frame]; rfl⟩

/-! ## The host link of a quiesced sled -/

theorem railsDown_hst_down {s : Sled} (h : s.hst.up = false ∧ s.hst.speed = 0 ∧ s.hst.width = 0) :
    (railsDown s).hst.up = false ∧ (railsDown s).hst.speed = 0 ∧ (railsDown s).hst.width = 0 := by
  unfold railsDown
  split
  · dsimp only
    split <;> exact ⟨rfl, rfl, rfl⟩
  · exact h

theorem quiescePower_hst_down {s : Sled} (h : s.hst.up = false ∧ s.hst.speed = 0 ∧ s.hst.width = 0) :
    (quiescePower s).hst.up = false ∧ (quiescePower s).hst.speed = 0 ∧ (quiescePower s).hst.width = 0 := by
  unfold quiescePower
  split
  · exact railsDown_hst_down h
  · exact h

/-- Settles O6. -/
theorem strapsDebouncedInputsAndQuiesce : Obligations.StrapsDebouncedInputsAndQuiesce := by
  unfold Obligations.StrapsDebouncedInputsAndQuiesce
  refine ⟨?agree, ?differ, ?third, ?lock, ?session, ?release, ?request, ?expire, ?safe⟩
  case agree =>
    intro s x rest hsamp hon hmod hrest hx hglb
    have hkt3 : ∀ p : Plat, p.strap = x → kt3 { s.sled with plat := p } = false := fun p hp => by
      rw [kt3, hp, hx, Bool.false_or]
      exact hglb
    have hfx : fxStrapWindowEnd (x :: rest) s.sled = { s.sled with plat := { s.sled.plat with
        strap := x, windows := s.sled.plat.windows + 1, sampling := false, unstable := false, unstableMask := 0 } } := by
      simp only [fxStrapWindowEnd, hsamp, hon, hmod, foldl_diff_eq_zero.mpr hrest]
      exact kt3Clamp_of_not_kt3 (hkt3 _ rfl)
    rw [← hfx]
    rfl
  case differ =>
    intro s x y rest hsamp hon hmod hy hne hw
    have hdiff := mt foldl_diff_eq_zero.mp fun h => hne (h y hy)
    have hfx : fxStrapWindowEnd (x :: rest) s.sled = { s.sled with plat := { s.sled.plat with
        windows := s.sled.plat.windows + 1 } } := by
      simp only [fxStrapWindowEnd, if_neg (sampling_goes_on hsamp hon hmod),
        if_neg hdiff]
      rw [if_pos (by omega)]
    rw [← hfx]
    rfl
  case third =>
    intro s x y rest hsamp hon hmod hy hne hw
    set diff := rest.foldl (fun d y => d ||| (x ^^^ y)) 0 with hdiff
    have hne0 : diff ≠ 0 := mt foldl_diff_eq_zero.mp fun h => hne (h y hy)
    let u : Sled := { s.sled with
      free := s.sled.free + 1
      plat := { s.sled.plat with
        strap := (x &&& ~~~diff) ||| (BitVec.ofNat 11 (Config.freeValue s.sled.free) &&& diff)
        windows := s.sled.plat.windows + 1, sampling := false, unstable := true, unstableMask := diff } }
    obtain ⟨r, hr⟩ := kt3Clamp_frame u
    have hfx : fxStrapWindowEnd (x :: rest) s.sled = kt3Clamp u := by
      simp only [fxStrapWindowEnd, if_neg (sampling_goes_on hsamp hon hmod),
        ← hdiff, if_neg hne0, nextFree]
      rw [if_neg (by omega)]
    refine ⟨{ s with sled := fxStrapWindowEnd (x :: rest) s.sled }, rfl, rfl, ?_⟩
    rw [hfx, hr]
    refine ⟨rfl, rfl, fun i hi => ?_, rfl⟩
    have hbit : diff.getLsbD i = false := by
      rw [hdiff, getLsbD_foldl_diff, List.any_eq_false.mpr fun z hz => by rw [hi z hz, Bool.xor_self]; exact Bool.false_ne_true]
      simp
    exact ⟨getLsbD_latched x _ i.isLt hbit, hbit⟩
  case lock =>
    intro s b hs
    have hfx : fxUpdLockNDebounced b s.sled = { s.sled with plat := { s.sled.plat with updLock := b } } := by
      cases b <;> simp [fxUpdLockNDebounced, sessionFails, hs]
    rw [← hfx]
    rfl
  case session =>
    intro s x hs hcoll
    let u : Sled := { s.sled with
      plat := { s.sled.plat with updLock := true }
      kpr := { s.sled.kpr with
        session := none
        ops := s.sled.kpr.ops.filter fun o => match o with
          | .updatePiece _ _ => false
          | _ => true } }
    have hfx : fxUpdLockNDebounced true s.sled = logRec (mkRec 0xA002 0) u := by
      simp only [fxUpdLockNDebounced, if_true, sessionFails, hs]
      rfl
    have hlog := logsOnly_logRec (mkRec 0xA002 0) u
    refine ⟨{ s with sled := fxUpdLockNDebounced true s.sled }, rfl, rfl, ?_⟩
    rw [hfx]
    refine ⟨by rw [logRec_plat], congrArg (·.kpr.session) hlog.rest, fun c n hmem => ?_, logRec_coll _ u hcoll, logRec_fl ..⟩
    rw [show (logRec (mkRec 0xA002 0) u).kpr.ops = u.kpr.ops from congrArg (·.kpr.ops) hlog.rest] at hmem
    simp [u] at hmem
  case release =>
    intro s
    rfl
  case request =>
    intro s hq hrun
    obtain ⟨r, h, o, hf⟩ := quiesceBegin_frame (s := { s.sled with plat := { s.sled.plat with removeReq := true } }) rfl hq hrun
    refine ⟨{ s with sled := fxRemoveReqNDebounced true s.sled }, rfl, rfl, ?_⟩
    rw [fxRemoveReqNDebounced, hf]
    exact ⟨rfl, rfl, rfl⟩
  case expire =>
    intro s hq hstall
    refine ⟨{ s with sled := fxQuiesceTqExpire s.sled }, liftHold_eq hstall, rfl, ?_⟩
    simp only [fxQuiesceTqExpire, hq, ne_eq, not_true, if_false]
    exact quiescePower_hst_down ⟨rfl, rfl, rfl⟩
  case safe =>
    intro s hq hr hops hrun
    have hfx : fxQuiesceSafeToRemove s.sled = { s.sled with
        plat := { s.sled.plat with quiesce := .safe, quiesced := true }, kpr := { s.sled.kpr with alert := true } } := by
      simp [fxQuiesceSafeToRemove, hq, hr, hops, hrun, alertOn]
    rw [← hfx]
    rfl

end Sys2Proof.Machine

/-! The release of the runtime, READY and the training cache (spec/04, R81, R82, R87; spec/18, R443). -/

namespace Sys2Proof.Machine

open Sys2Proof

/-! ## Maps -/

theorem ffind_fput_same {α : Type} (m : FMap α) (k : Nat) (v : α) : ffind (fput m k v) k = some v := by
  induction m with
  | nil => simp [fput, ffind]
  | cons p m ih =>
    obtain ⟨a, w⟩ := p
    rw [fput]
    split
    · simp [ffind]
    · split
      · simp [ffind]
      next hne => rw [ffind, if_neg (by omega), ih]

theorem ffind_fput_other {α : Type} (m : FMap α) {k j : Nat} (v : α) (h : j ≠ k) :
    ffind (fput m k v) j = ffind m j := by
  induction m with
  | nil => simp [fput, ffind, Ne.symm h]
  | cons p m ih =>
    obtain ⟨a, w⟩ := p
    rw [fput]
    split
    · rw [ffind, if_neg (Ne.symm h)]
    · split
      next hk =>
        subst hk
        rw [ffind, ffind, if_neg (Ne.symm h), if_neg (Ne.symm h)]
      · rw [ffind, ffind, ih]

/-- What is dropped reads as the default. -/
theorem fget_fdrop {α : Type} (m : FMap α) (p : Nat → Bool) (d : α) (k : Nat) :
    fget (fdrop m fun a _ => p a) d k = if p k then d else fget m d k := by
  induction m with
  | nil => simp [fdrop]
  | cons x m ih =>
    obtain ⟨a, w⟩ := x
    rw [fdrop] at ih ⊢
    rw [List.filter_cons]
    by_cases hk : a = k
    · subst hk
      cases hp : p a <;> simp [hp, fget, ih]
    · cases hp : p a <;> simp [fget, hk, ih]

/-! ## The directory's copies (spec/20) -/

theorem xor_lt_32 {x y : Nat} (hx : x < 2 ^ 32) (hy : y < 2 ^ 32) : x ^^^ y < 2 ^ 32 := Nat.xor_lt_two_pow hx hy

theorem crcShift_lt (n : Nat) {c : Nat} (h : c < 2 ^ 32) : crcShift n c < 2 ^ 32 := by
  induction n generalizing c with
  | zero => exact h
  | succ n ih =>
    refine ih ?_
    split
    · exact xor_lt_32 (by omega) (by decide)
    · omega

theorem crc32c_lt (l : List Byte) : crc32c l < 256 ^ 4 := by
  refine xor_lt_32 (List.foldlRecOn (motive := fun c => c < 2 ^ 32) l _ (by decide) fun c hc b _ => ?_) (by decide)
  exact crcShift_lt 8 (xor_lt_32 hc (by have := b.isLt; omega))

theorem byteField_head {a : List Byte} {n : Nat} (b : List Byte) (h : a.length = n) :
    byteField (a ++ b) 0 n = leNat a := by
  rw [byteField, List.drop_zero, List.take_left' h]

theorem byteField_skip {a : List Byte} {k : Nat} (b : List Byte) (n : Nat) (h : a.length = k) :
    byteField (a ++ b) k n = byteField b 0 n := by
  rw [byteField, byteField, List.drop_left' h, List.drop_zero]

theorem length_dirBody (d : Dir) : (dirBody d).length = 60 := by simp [dirBody, List.range, List.range.loop]

/-- A written copy is valid. -/
theorem dirParse_dirBytes (d : Dir) : dirParse (dirBytes d) = some (dirFields (dirBytes d)) := by
  have hlen : (dirBytes d).length = 64 := by simp [dirBytes, length_dirBody]
  have hmagic : byteField (dirBytes d) 0 4 = 0x4E5A4449 := by
    simp only [dirBytes, dirBody, List.append_assoc]
    rw [byteField_head _ (length_leBytes ..), leNat_leBytes_of_lt (by decide)]
  have hcrc : byteField (dirBytes d) 0x3C 4 = crc32c (dirBody d) := by
    rw [dirBytes, byteField_skip _ _ (length_dirBody d), byteField, List.drop_zero, List.take_of_length_le (by simp),
      leNat_leBytes_of_lt (crc32c_lt _)]
  have htake : (dirBytes d).take 0x3C = dirBody d := List.take_left' (length_dirBody d)
  rw [dirParse, if_pos]
  simp [dirValid, hlen, hmagic, hcrc, htake]

theorem dirFields_dirBytes_seq {d : Dir} (h : d.seq < 2 ^ 32) : (dirFields (dirBytes d)).seq = d.seq := by
  simp only [dirFields, dirBytes, dirBody, List.append_assoc]
  rw [byteField_skip _ _ (length_leBytes ..), byteField_head _ (length_leBytes ..), leNat_leBytes_of_lt h]

/-- A change of the directory writes flash only. -/
theorem dirWrite_frame (f : Dir → Dir) (s : Sled) :
    ∃ a b, dirWrite f s = { s with fl := { s.fl with dir0 := a, dir1 := b } } := by
  rw [dirWrite]
  dsimp only
  repeat' split
  all_goals exact ⟨_, _, rfl⟩

/-- The copy written is the one in use. -/
theorem dirOf_dirWrite {f : Dir → Dir} {s : Sled} (h : (dirOf s).seq + 1 < 2 ^ 32) :
    dirOf (dirWrite f s) = dirFields (dirBytes { f (dirOf s) with seq := (dirOf s).seq + 1 }) := by
  have hparse := dirParse_dirBytes { f (dirOf s) with seq := (dirOf s).seq + 1 }
  have hseq := dirFields_dirBytes_seq (d := { f (dirOf s) with seq := (dirOf s).seq + 1 }) h
  rw [dirWrite]
  generalize dirBytes { f (dirOf s) with seq := (dirOf s).seq + 1 } = bytes at hparse hseq ⊢
  generalize dirFields bytes = d at hparse hseq ⊢
  replace hseq : d.seq = (dirOf s).seq + 1 := hseq
  generalize hn : (dirOf s).seq = n at hseq ⊢
  cases h0 : dirParse s.fl.dir0 with
  | none =>
    cases h1 : dirParse s.fl.dir1 with
    | none => simp [dirOf, dirCur, h1, hparse]
    | some y =>
      have hy : n = y.seq := by rw [← hn, dirOf, dirCur, h0, h1]; rfl
      have hnew : ¬ n + 1 < y.seq := by omega
      simp [dirOf, dirCur, h1, hparse, hnew, hseq]
  | some x =>
    cases h1 : dirParse s.fl.dir1 with
    | none =>
      have hx : n = x.seq := by rw [← hn, dirOf, dirCur, h0, h1]; rfl
      have hnew : x.seq ≤ n := by omega
      simp [dirOf, dirCur, h0, hparse, hnew, hseq]
    | some y =>
      have hmax : n = if x.seq < y.seq then y.seq else x.seq := by
        rw [← hn, dirOf, dirCur, h0, h1, ← apply_ite Dir.seq]
        rfl
      by_cases hle : y.seq ≤ x.seq
      · have hnew : x.seq ≤ n := by rw [hmax, if_neg (by omega)]
        simp [dirOf, dirCur, h0, hle, hparse, hnew, hseq]
      · have hnew : ¬ n + 1 < y.seq := by
          rw [hmax, if_pos (by omega)]
          omega
        simp [dirOf, dirCur, h1, hle, hparse, hnew, hseq]

/-- It has the next sequence number. -/
theorem dirOf_dirWrite_seq {f : Dir → Dir} {s : Sled} (h : (dirOf s).seq + 1 < 2 ^ 32) :
    (dirOf (dirWrite f s)).seq = (dirOf s).seq + 1 := by
  rw [dirOf_dirWrite h]
  exact dirFields_dirBytes_seq (d := { f (dirOf s) with seq := (dirOf s).seq + 1 }) h

/-! ## The release of the runtime -/

/-- What a release of the runtime leaves for the control cores. -/
structure BootView where
  ccRunning : BitVec 4
  ccOffline : BitVec 4
  rtSlot : Nat
  digRt : Option Nat
  ctlMem : Option FwImage
  clearing : Bool
  mem : List Host.Cell
  tier : Nat

def bootView (s : Sled) : BootView :=
  { ccRunning := s.ccRunning, ccOffline := s.ccOffline, rtSlot := s.kpr.rtSlot, digRt := s.kpr.digRt, ctlMem := s.ctlMem
    clearing := s.clearing, mem := s.mem, tier := s.kpr.tier }

theorem LogsOnly.bootView_eq {s t : Sled} (h : LogsOnly s t) : bootView t = bootView s :=
  show bootView (withoutLog t) = bootView (withoutLog s) from congrArg _ h.rest

theorem foldl_bootView {α : Type} {f : Sled → α → Sled} (l : List α) (hf : ∀ s, ∀ x ∈ l, bootView (f s x) = bootView s)
    (s : Sled) : bootView (l.foldl f s) = bootView s :=
  List.foldlRecOn (motive := fun t => bootView t = bootView s) l f rfl fun t ht x hx => (hf t x hx).trans ht

/-- A unit that passes its test only shows it. -/
theorem bootView_selfTest_pass {mask i : Nat} (h : bitAt mask i = true) (s : Sled) :
    bootView (selfTest mask s i) = bootView s := by
  unfold selfTest
  split
  · rfl
  · simp only [h, if_true]
    rfl

theorem bootView_updChan (st c : Nat) (f : Chan → Chan) (s : Sled) : bootView (updChan st c f s) = bootView s := rfl

theorem bootView_stackInit (s : Sled) (st : Nat) : bootView (stackInit s st) = bootView s := by
  unfold stackInit
  split
  · rfl
  · extract_lets t u k v
    have hu : bootView u = bootView t := foldl_bootView _ (fun _ _ _ => bootView_updChan ..) t
    clear_value u
    have hv : bootView v = bootView s := hu
    split
    · exact hv
    · exact (logsOnly_logRec ..).bootView_eq.trans hv

theorem bootView_loadSpareMap (s : Sled) : bootView (loadSpareMap s) = bootView s := by
  unfold loadSpareMap
  extract_lets m
  exact foldl_bootView (f := fun s k => setSpareReg k (ffind m k) s) _ (fun _ _ _ => rfl) s

/-- With every test passed the runtime starts on all control cores that are not offline, the SRAMs zero. -/
theorem bootView_releaseCores {s : Sled} (k : Nat) (htier : s.kpr.tier ≠ 1) :
    bootView (releaseCores false (BitVec.allOnes 38).toNat k s) =
      { ccRunning := s.ccOffline ^^^ 15, ccOffline := s.ccOffline, rtSlot := k
        digRt := (ffind s.fl.runtime (runtimeAt k)).map (fun i => Config.digest i.id)
        ctlMem := ffind s.fl.runtime (runtimeAt k), clearing := false, mem := fdrop s.mem fun k _ => 2 ^ 40 ≤ k
        tier := s.kpr.tier } := by
  unfold releaseCores
  have htests : bootView ((List.range 38).foldl (selfTest (BitVec.allOnes 38).toNat) (clearSrams (loadRuntime k s))) =
      bootView (clearSrams (loadRuntime k s)) :=
    foldl_bootView _ (fun t i hi => bootView_selfTest_pass (by
      rw [BitVec.toNat_allOnes]
      exact (bitAt_byteMask 38 0 i).trans (decide_eq_true (by simpa using hi))) t) _
  generalize (List.range 38).foldl (selfTest (BitVec.allOnes 38).toNat) (clearSrams (loadRuntime k s)) = u at htests
  have htier' : u.kpr.tier = s.kpr.tier := congrArg BootView.tier htests
  simp only [htier', if_neg htier, Bool.false_eq_true, if_false]
  rw [foldl_bootView _ (fun t st _ => bootView_stackInit t st), bootView_loadSpareMap,
    foldl_bootView (f := fun s i => hbStart i s) _ (fun _ _ _ => rfl)]
  have hset : ∀ c, bootView { u with ccRunning := c } = { bootView u with ccRunning := c } := fun _ => rfl
  rw [hset, htests, show u.ccOffline = s.ccOffline from congrArg BootView.ccOffline htests]
  rfl

/-! ## READY -/

theorem trialCommit_frame (comp used sec : Nat) (s : Sled) : ∃ f, trialCommit comp used sec s = { s with fl := f } := by
  unfold trialCommit
  split <;> exact ⟨_, rfl⟩

theorem startCommits_frame (p : Ppi) (s : Sled) : ∃ f, startCommits p s = { s with fl := f } := by
  unfold startCommits
  extract_lets sec
  obtain ⟨f, hf⟩ := trialCommit_frame 2 s.kpr.rtSlot sec s
  obtain ⟨g, hg⟩ := trialCommit_frame (0x10 + s.kpr.prof) s.kpr.copy p.secVersion (trialCommit 2 s.kpr.rtSlot sec s)
  exact ⟨g, by rw [hg, hf]⟩

theorem serviceUp_facts (s : Sled) :
    (serviceUp s).plat.ready = true ∧ (serviceUp s).kpr.tier = 2 ∧ (serviceUp s).kpr.booted = true := by
  unfold serviceUp
  extract_lets was k p t
  split
  · exact ⟨rfl, rfl, rfl⟩
  · rw [platEvent_plat, platEvent_kpr]
    exact ⟨rfl, rfl, rfl⟩

/-! ## The training cache -/

/-- The flash with the records of some stacks written into their other generation. -/
def cacheWritten (s : Sled) (gen : Nat) (sts : List Nat) : Sled :=
  sts.foldl (fun t st =>
    { t with fl := { t.fl with train := fput t.fl.train (trainAt (1 - bitsOf gen st 1) st) (trainRecOf s st) } }) s

theorem cacheWritten_eq (s : Sled) (gen : Nat) (sts : List Nat) : cacheWritten s gen sts = { s with fl := { s.fl with
    train := sts.foldl (fun m st => fput m (trainAt (1 - bitsOf gen st 1) st) (trainRecOf s st)) s.fl.train } } := by
  have hgen : ∀ t : Sled, sts.foldl (fun t st => { t with fl := { t.fl with
        train := fput t.fl.train (trainAt (1 - bitsOf gen st 1) st) (trainRecOf s st) } }) t = { t with fl := { t.fl with
      train := sts.foldl (fun m st => fput m (trainAt (1 - bitsOf gen st 1) st) (trainRecOf s st)) t.fl.train } } := by
    induction sts with
    | nil => exact fun _ => rfl
    | cons st sts ih => exact fun t => ih _
  exact hgen s

theorem trainAt_inj {g g' st st' : Nat} (hst : st < 9) (hst' : st' < 9) (h : trainAt g st = trainAt g' st') :
    st = st' := by
  unfold trainAt at h
  omega

/-- The entries of a list of keys, each written once. -/
theorem ffind_foldl_fput {α : Type} {key : Nat → Nat} {v : Nat → α} {l : List Nat} {m : FMap α} {k : Nat}
    (hinj : ∀ x ∈ l, key x = key k → x = k) (hk : k ∈ l ∨ ffind m (key k) = some (v k)) :
    ffind (l.foldl (fun m x => fput m (key x) (v x)) m) (key k) = some (v k) := by
  induction l generalizing m with
  | nil => exact hk.resolve_left (List.not_mem_nil)
  | cons x l ih =>
    refine ih (fun y hy => hinj y (List.mem_cons_of_mem _ hy)) ?_
    by_cases hx : x = k
    · subst hx
      exact .inr (ffind_fput_same ..)
    · refine hk.imp (fun h => (List.mem_cons.mp h).resolve_left (Ne.symm hx)) fun h => ?_
      rwa [ffind_fput_other _ _ fun he => hx (hinj x List.mem_cons_self he.symm)]

theorem ffind_train_cacheWritten (s : Sled) (gen : Nat) {sts : List Nat} (hsts : ∀ x ∈ sts, x < 9) {st : Nat}
    (hst : st ∈ sts) : ffind (cacheWritten s gen sts).fl.train (trainAt (1 - bitsOf gen st 1) st) = some (trainRecOf s st) := by
  rw [cacheWritten_eq]
  exact ffind_foldl_fput (key := fun st => trainAt (1 - bitsOf gen st 1) st) (v := trainRecOf s)
    (fun x hx => trainAt_inj (hsts x hx) (hsts st hst)) (.inl hst)

theorem quiescePower_of_ne {s : Sled} (h : s.plat.quiesce ≠ .expired) : quiescePower s = s := by simp [quiescePower, h]

/-- The directory after the pending records are written. -/
def cacheDir (s : Sled) (d : Dir) : Dir :=
  let gen := (dirOf s).trainGen
  { d with trainGen := (maskList 9 s.kpr.cachePend).foldl (fun g st => setBit g st (bitsOf gen st 1 = 0)) gen }

theorem fxTrainingCacheWrite_eq {s : Sled} (hrun : s.kpr.phase = .running) (hboot : s.kpr.booted = true)
    (hpend : s.kpr.cachePend ≠ 0) (hq : s.plat.quiesce ≠ .expired) :
    fxTrainingCacheWrite s = { dirWrite (cacheDir s) (cacheWritten s (dirOf s).trainGen (maskList 9 s.kpr.cachePend)) with
      kpr := { s.kpr with cachePend := 0 } } := by
  obtain ⟨a, b, hw⟩ := dirWrite_frame (cacheDir s) (cacheWritten s (dirOf s).trainGen (maskList 9 s.kpr.cachePend))
  have hwritten := cacheWritten_eq s (dirOf s).trainGen (maskList 9 s.kpr.cachePend)
  have hgo : ¬ (s.kpr.phase ≠ .running ∨ !s.kpr.booted ∨ s.kpr.cachePend = 0) := by simp [hrun, hboot, hpend]
  rw [fxTrainingCacheWrite, if_neg hgo]
  refine (quiescePower_of_ne (s := { dirWrite (cacheDir s) (cacheWritten s (dirOf s).trainGen
    (maskList 9 s.kpr.cachePend)) with kpr := { (dirWrite (cacheDir s) (cacheWritten s (dirOf s).trainGen
    (maskList 9 s.kpr.cachePend))).kpr with cachePend := 0 } }) ?_).trans ?_
  · rw [hw, hwritten]
    exact hq
  · rw [hw, hwritten]

theorem exec_runtimeRelease (x : BitVec 38) (s : State) :
    exec (.runtimeRelease x) s = .next { s with sled := fxRuntimeRelease x.toNat s.sled } := rfl

/-- Settles O8. -/
theorem runtimeReleaseReadyAndTrainingCache : Obligations.RuntimeReleaseReadyAndTrainingCache := by
  unfold Obligations.RuntimeReleaseReadyAndTrainingCache
  refine ⟨?release, ?ready, ?cache⟩
  case release =>
    intro s k hrun hrails hprof hchosen htier hboot hcc hoff hdem hdig hslot
    have hfx : fxRuntimeRelease (BitVec.allOnes 38).toNat s.sled = releaseCores false (BitVec.allOnes 38).toNat k s.sled := by
      have hprof' : s.sled.prof.isNone = false := by simpa using hprof
      have hdem' : s.sled.plat.demand.isNone = false := by simpa using hdem
      simp [fxRuntimeRelease, hrun, hrails, hprof', hchosen, htier, hboot, hcc, hdem', hdig, hslot]
    have hview := bootView_releaseCores k htier (s := s.sled)
    refine ⟨{ s with sled := releaseCores false (BitVec.allOnes 38).toNat k s.sled }, ?_, rfl, ?_⟩
    · rw [exec_runtimeRelease, hfx]
    generalize releaseCores false _ k s.sled = u at hview
    refine ⟨(congrArg BootView.ccRunning hview).trans (by rw [hoff]; rfl), congrArg BootView.rtSlot hview,
      congrArg BootView.digRt hview, congrArg BootView.ctlMem hview, congrArg BootView.clearing hview, fun a => ?_⟩
    rw [show u.mem = _ from congrArg BootView.mem hview, memGet,
      fget_fdrop s.sled.mem (fun k => decide (2 ^ 40 ≤ k))]
    simp only [decide_eq_true_eq]
    rfl
  case ready =>
    intro s p hcc hboot htier hrails hq hrun hp hset hstall
    refine ⟨{ s with sled := fxReadyRaise s.sled }, liftHold_eq hstall, rfl, ?_⟩
    simp only [fxReadyRaise, hcc, hboot, htier, hrails, hq, hrun, hp, hset, Bool.false_eq_true, ne_eq, not_true, or_self,
      if_false, Bool.not_true]
    generalize startPorts p.cfg _ = u
    obtain ⟨hready, htier', hboot'⟩ := serviceUp_facts u
    obtain ⟨f, hf⟩ := startCommits_frame p (serviceUp u)
    rw [hf]
    exact ⟨hready, htier', hboot'⟩
  case cache =>
    intro s hrun hboot hpend hq hseq
    set gen := (dirOf s.sled).trainGen
    set sts := maskList 9 s.sled.kpr.cachePend
    have hlt : ∀ x ∈ sts, x < 9 := fun x hx => List.mem_range.mp (List.mem_filter.mp hx).1
    have hwritten := cacheWritten_eq s.sled gen sts
    have htrain := fun st hst => ffind_train_cacheWritten s.sled gen (st := st) hlt hst
    have hfx := fxTrainingCacheWrite_eq hrun hboot hpend hq
    have hdir : dirOf (cacheWritten s.sled gen sts) = dirOf s.sled := by rw [hwritten]; rfl
    obtain ⟨a, b, hw⟩ := dirWrite_frame (cacheDir s.sled) (cacheWritten s.sled gen sts)
    refine ⟨{ s with sled := fxTrainingCacheWrite s.sled }, rfl, rfl, ?_⟩
    rw [hfx]
    refine ⟨?_, fun st hst => ?_, ?_⟩
    · rw [hw, hwritten]
    · rw [hw]
      exact htrain st (List.mem_filter.mpr ⟨List.mem_range.mpr st.isLt, hst⟩)
    · have hseq' := dirOf_dirWrite_seq (f := cacheDir s.sled) (s := cacheWritten s.sled gen sts) (by rwa [hdir])
      rw [hdir] at hseq'
      exact hseq'

end Sys2Proof.Machine

/-! One field of the sled through a loop. -/

namespace Sys2Proof.Machine

open Sys2Proof

/-- What every round of a loop leaves alone, the loop leaves alone. -/
theorem foldl_proj {α β : Type} (F : Sled → β) {f : Sled → α → Sled} (h : ∀ s x, F (f s x) = F s) (l : List α) (s : Sled) :
    F (l.foldl f s) = F s :=
  List.foldlRecOn (motive := fun t => F t = F s) l f rfl fun t ht x _ => (h t x).trans ht

end Sys2Proof.Machine

/-! ## The step's shape and the reset state (O1, O3) -/
namespace Sys2Proof.Machine
open Sys2Proof

/-- Settles O1, by the definition of a step on a queue that is not empty. -/
theorem stepRunsTheFrontCommand : Obligations.StepRunsTheFrontCommand := by
  intro c rest s
  simp only [step]

/-- Settles O3: every clause is a value of the reset state. -/
theorem resetLeavesTheTabledValues : Obligations.ResetLeavesTheTabledValues := by
  refine ⟨rfl, ?_, ?_, ?_, ?_, ?_, ?_, rfl, rfl, rfl, rfl, ?_, rfl, rfl, rfl, rfl⟩ <;> decide
end Sys2Proof.Machine

/-! ## Bit fields of registers (spec/21) -/
namespace Sys2Proof.Machine
open Sys2Proof

theorem testBit_bitsOf (x lo len i : Nat) : (bitsOf x lo len).testBit i = (decide (i < len) && x.testBit (lo + i)) := by
  rw [bitsOf, Nat.testBit_mod_two_pow, Nat.testBit_div_two_pow, Nat.add_comm]

theorem bitAt_eq_testBit (x i : Nat) : bitAt x i = x.testBit i := by
  rw [bitAt, Nat.testBit_eq_decide_div_mod_eq]; rfl

/-- A word is its bits above a field, the field and its bits below. -/
theorem setBits_eq (x lo len v : Nat) :
    setBits x lo len v = 2 ^ lo * (2 ^ len * (x / 2 ^ lo / 2 ^ len) + v % 2 ^ len) + x % 2 ^ lo := by
  have hx := Nat.div_add_mod x (2 ^ lo)
  have hy := Nat.div_add_mod (x / 2 ^ lo) (2 ^ len)
  have hsplit : x = 2 ^ lo * (2 ^ len * (x / 2 ^ lo / 2 ^ len)) + 2 ^ lo * bitsOf x lo len + x % 2 ^ lo := by
    rw [bitsOf, ← Nat.mul_add, hy, hx]
  rw [setBits, Nat.mul_comm (bitsOf x lo len), Nat.mul_comm (v % 2 ^ len), Nat.mul_add]
  omega

theorem testBit_setBits (x lo len v i : Nat) :
    (setBits x lo len v).testBit i = if lo ≤ i ∧ i < lo + len then v.testBit (i - lo) else x.testBit i := by
  rw [setBits_eq, Nat.testBit_two_pow_mul_add _ (Nat.mod_lt _ (Nat.two_pow_pos lo)),
    Nat.testBit_two_pow_mul_add _ (Nat.mod_lt _ (Nat.two_pow_pos len))]
  simp only [Nat.testBit_mod_two_pow, Nat.testBit_div_two_pow]
  by_cases h1 : i < lo
  · simp [h1, Nat.not_le.2 h1]
  · by_cases h2 : i < lo + len
    · simp [h1, show i - lo < len by omega, show lo ≤ i ∧ i < lo + len by omega]
    · simp [h1, show ¬ i - lo < len by omega, show ¬ (lo ≤ i ∧ i < lo + len) by omega,
        show i - lo - len + (lo + len) = i by omega, show i - lo - len + len + lo = i by omega]

@[simp] theorem bitsOf_setBits_same (x lo len v : Nat) : bitsOf (setBits x lo len v) lo len = v % 2 ^ len := by
  refine Nat.eq_of_testBit_eq fun i => ?_
  rw [testBit_bitsOf, testBit_setBits, Nat.testBit_mod_two_pow]
  by_cases h : i < len <;> simp [h]

/-- Setting a field leaves the fields beside it. -/
theorem bitsOf_setBits_other (x lo len v : Nat) {lo' len' : Nat} (h : lo' + len' ≤ lo ∨ lo + len ≤ lo') :
    bitsOf (setBits x lo len v) lo' len' = bitsOf x lo' len' := by
  refine Nat.eq_of_testBit_eq fun i => ?_
  rw [testBit_bitsOf, testBit_bitsOf, testBit_setBits]
  by_cases hi : i < len'
  · rw [if_neg (by omega)]
  · simp [hi]

theorem setBits_lt {x lo len v n : Nat} (hx : x < 2 ^ n) (h : lo + len ≤ n) : setBits x lo len v < 2 ^ n := by
  refine Nat.lt_pow_two_of_testBit _ fun i hi => ?_
  rw [testBit_setBits, if_neg (by omega), Nat.testBit_lt_two_pow (hx.trans_le (Nat.pow_le_pow_right (by omega) hi))]

/-- A register whose field is set keeps its other bits. -/
theorem rGet_rSetField (blk off lo len v : Nat) (s : Sled) (h : lo + len ≤ 64) :
    rGet (rSetField blk off lo len v s) blk off = setBits (rGet s blk off) lo len v := by
  rw [rSetField, rGet_rSet_same, Nat.mod_eq_of_lt (setBits_lt (rGet_lt s blk off) h)]

theorem rField_rSetField_same (blk off lo len v : Nat) (s : Sled) (h : lo + len ≤ 64) :
    rField (rSetField blk off lo len v s) blk off lo len = v % 2 ^ len := by
  rw [rField, rGet_rSetField _ _ _ _ _ _ h, bitsOf_setBits_same]

/-! ### Finite maps under a map of their values -/

theorem fget_map {α β : Type} (g : α → β) (m : FMap α) (d : α) (k : Nat) :
    fget (m.map fun p => (p.1, g p.2)) (g d) k = g (fget m d k) := by
  induction m with
  | nil => rfl
  | cons p m ih =>
    obtain ⟨a, v⟩ := p
    simp only [List.map_cons, fget, ih]
    split <;> rfl

end Sys2Proof.Machine

/-! ## What the end of a tenant leaves: platform, flash and profile (spec/03, R61) -/
namespace Sys2Proof.Machine
open Sys2Proof

theorem foldl_power {α : Type} {f : Sled → α → Sled} (h : ∀ s x, (f s x).plat = s.plat ∧ (f s x).fl = s.fl ∧
    (f s x).prof = s.prof) (l : List α) (s : Sled) : (l.foldl f s).plat = s.plat ∧ (l.foldl f s).fl = s.fl ∧
    (l.foldl f s).prof = s.prof := ⟨foldl_proj (·.plat) (fun s x => (h s x).1) l s, foldl_proj (·.fl) (fun s x
    => (h s x).2.1) l s, foldl_proj (·.prof) (fun s x => (h s x).2.2) l s⟩

@[simp] theorem forgetDesc_power (id : Nat) (s : Sled) : (forgetDesc id s).plat = s.plat ∧ (forgetDesc id
    s).fl = s.fl ∧ (forgetDesc id s).prof = s.prof := ⟨rfl, rfl, rfl⟩

@[simp] theorem setDescs_power (u : Nat) (l : List Desc) (s : Sled) :
    (setDescs u l s).plat = s.plat ∧ (setDescs u l s).fl = s.fl ∧ (setDescs u l s).prof = s.prof := by
  simp -implicitDefEqProofs [setDescs, apply_ite Sled.plat, apply_ite Sled.fl, apply_ite Sled.prof]

@[simp] theorem dropQueue_power (u q : Nat) (s : Sled) :
    (dropQueue u q s).plat = s.plat ∧ (dropQueue u q s).fl = s.fl ∧ (dropQueue u q s).prof = s.prof := by
  simp -implicitDefEqProofs [dropQueue, apply_ite Sled.plat, apply_ite Sled.fl, apply_ite Sled.prof,
    foldl_power]

@[simp] theorem seDrop_power (core : Nat) (s : Sled) : (seDrop core s).plat = s.plat ∧ (seDrop core s).fl =
    s.fl ∧ (seDrop core s).prof = s.prof := ⟨rfl, rfl, rfl⟩

@[simp] theorem seStopOp_power (core : Nat) (s : Sled) :
    (seStopOp core s).plat = s.plat ∧ (seStopOp core s).fl = s.fl ∧ (seStopOp core s).prof = s.prof := by
  simp -implicitDefEqProofs [seStopOp, apply_ite Sled.plat, apply_ite Sled.fl, apply_ite Sled.prof]

@[simp] theorem setRun_power (st : Nat) (r : Option Run) (s : Sled) : (setRun st r s).plat = s.plat ∧ (setRun
    st r s).fl = s.fl ∧ (setRun st r s).prof = s.prof := ⟨rfl, rfl, rfl⟩

@[simp] theorem updBt_power (st c b : Nat) (f : BankT → BankT) (s : Sled) : (updBt st c b f s).plat = s.plat ∧
    (updBt st c b f s).fl = s.fl ∧ (updBt st c b f s).prof = s.prof := ⟨rfl, rfl, rfl⟩

@[simp] theorem clearReop_power (half k : Nat) (s : Sled) :
    (clearReop half k s).plat = s.plat ∧ (clearReop half k s).fl = s.fl ∧ (clearReop half k s).prof = s.prof
      := by
  simp -implicitDefEqProofs [clearReop, apply_ite Sled.plat, apply_ite Sled.fl, apply_ite Sled.prof]

@[simp] theorem setBank_power (k : Nat) (b : BankU) (s : Sled) : (setBank k b s).plat = s.plat ∧ (setBank k b
    s).fl = s.fl ∧ (setBank k b s).prof = s.prof := ⟨rfl, rfl, rfl⟩

@[simp] theorem setTm_power (k : Nat) (m : BankTm) (s : Sled) : (setTm k m s).plat = s.plat ∧ (setTm k m s).fl
    = s.fl ∧ (setTm k m s).prof = s.prof := ⟨rfl, rfl, rfl⟩

@[simp] theorem closeHalf_power (half k : Nat) (s : Sled) :
    (closeHalf half k s).plat = s.plat ∧ (closeHalf half k s).fl = s.fl ∧ (closeHalf half k s).prof = s.prof
      := by
  simp -implicitDefEqProofs [closeHalf]

@[simp] theorem pushRetry_power (st c : Nat) (e : RetryEnt) (s : Sled) : (pushRetry st c e s).plat = s.plat ∧
    (pushRetry st c e s).fl = s.fl ∧ (pushRetry st c e s).prof = s.prof := ⟨rfl, rfl, rfl⟩

@[simp] theorem useSlots_power (st c : Nat) (pre n : Nat) (s : Sled) : (useSlots st c pre n s).plat = s.plat ∧
    (useSlots st c pre n s).fl = s.fl ∧ (useSlots st c pre n s).prof = s.prof := ⟨rfl, rfl, rfl⟩

@[simp] theorem leaveBcm_power (st c : Nat) (s : Sled) :
    (leaveBcm st c s).plat = s.plat ∧ (leaveBcm st c s).fl = s.fl ∧ (leaveBcm st c s).prof = s.prof := by
  simp -implicitDefEqProofs [leaveBcm, apply_ite Sled.plat, apply_ite Sled.fl, apply_ite Sled.prof]

@[simp] theorem progClose_power (st : Nat) (s : Sled) :
    (progClose st s).plat = s.plat ∧ (progClose st s).fl = s.fl ∧ (progClose st s).prof = s.prof := by
  simp -implicitDefEqProofs [progClose, apply_ite Sled.plat, apply_ite Sled.fl, apply_ite Sled.prof,
    foldl_power]

@[simp] theorem progProgress_power (src : Nat) (s : Sled) :
    (progProgress src s).plat = s.plat ∧ (progProgress src s).fl = s.fl ∧ (progProgress src s).prof = s.prof
      := by
  unfold progProgress
  split <;> simp -implicitDefEqProofs [apply_ite Sled.plat, apply_ite Sled.fl, apply_ite Sled.prof]

@[simp] theorem stepTime_power (k op : Nat) (f : BauFields) (s : Sled) : (stepTime k op f s).plat = s.plat ∧
    (stepTime k op f s).fl = s.fl ∧ (stepTime k op f s).prof = s.prof := ⟨rfl, rfl, rfl⟩

@[simp] theorem logBauPoison_power (src c addr : Nat) (s : Sled) :
    (logBauPoison src c addr s).plat = s.plat ∧ (logBauPoison src c addr s).fl = s.fl ∧ (logBauPoison src c
      addr s).prof = s.prof := by
  unfold logBauPoison
  split <;> simp -implicitDefEqProofs [apply_ite Sled.plat, apply_ite Sled.fl, apply_ite Sled.prof]

@[simp] theorem poisonAt_power (p : Nat) (s : Sled) :
    (poisonAt p s).plat = s.plat ∧ (poisonAt p s).fl = s.fl ∧ (poisonAt p s).prof = s.prof := by
  simp -implicitDefEqProofs [poisonAt]

@[simp] theorem poisonRaw_power (p : Nat) (s : Sled) :
    (poisonRaw p s).plat = s.plat ∧ (poisonRaw p s).fl = s.fl ∧ (poisonRaw p s).prof = s.prof := by
  unfold poisonRaw
  split <;> simp -implicitDefEqProofs [apply_ite Sled.plat, apply_ite Sled.fl, apply_ite Sled.prof]

@[simp] theorem spareFails_power (k : Nat) (s : Sled) :
    (spareFails k s).plat = s.plat ∧ (spareFails k s).fl = s.fl ∧ (spareFails k s).prof = s.prof := by
  simp only [spareFails]
  split <;> simp -implicitDefEqProofs [apply_ite Sled.plat, apply_ite Sled.fl, apply_ite Sled.prof]

@[simp] theorem spareTrigger_power (st r : Nat) (fatal : Bool) (s : Sled) :
    (spareTrigger st r fatal s).2.plat = s.plat ∧ (spareTrigger st r fatal s).2.fl = s.fl ∧ (spareTrigger st r
      fatal s).2.prof = s.prof := by
  simp only [spareTrigger]
  repeat' split
  all_goals simp -implicitDefEqProofs [apply_ite Sled.plat, apply_ite Sled.fl, apply_ite Sled.prof]

@[simp] theorem freshUe_power (c : Coord) (s : Sled) :
    (freshUe c s).plat = s.plat ∧ (freshUe c s).fl = s.fl ∧ (freshUe c s).prof = s.prof := by
  simp -implicitDefEqProofs [freshUe, apply_ite Sled.plat, apply_ite Sled.fl, apply_ite Sled.prof]

@[simp] theorem sramUe_power (w : Nat) (s : Sled) :
    (sramUe w s).plat = s.plat ∧ (sramUe w s).fl = s.fl ∧ (sramUe w s).prof = s.prof := by
  simp -implicitDefEqProofs [sramUe]

@[simp] theorem readRaw_power (p : Nat) (s : Sled) :
    (readRaw p s).2.plat = s.plat ∧ (readRaw p s).2.fl = s.fl ∧ (readRaw p s).2.prof = s.prof := by
  simp only [readRaw]
  repeat' split
  all_goals simp -implicitDefEqProofs [apply_ite Sled.plat, apply_ite Sled.fl, apply_ite Sled.prof]

@[simp] theorem storeWord_power (p mask : Nat) (d : List Byte) (s : Sled) :
    (storeWord p mask d s).plat = s.plat ∧ (storeWord p mask d s).fl = s.fl ∧ (storeWord p mask d s).prof =
      s.prof := by
  unfold storeWord
  refine ⟨?_, ?_, ?_⟩ <;>
  grind [foldl_power, readRaw_power]

@[simp] theorem writeRaw_power (p mask : Nat) (d : List Byte) (s : Sled) :
    (writeRaw p mask d s).plat = s.plat ∧ (writeRaw p mask d s).fl = s.fl ∧ (writeRaw p mask d s).prof =
      s.prof := by
  simp only [writeRaw]
  repeat' split
  all_goals simp -implicitDefEqProofs [apply_ite Sled.plat, apply_ite Sled.fl, apply_ite Sled.prof]

@[simp] theorem bumpMc_power (st c k : Nat) (s : Sled) : (bumpMc st c k s).plat = s.plat ∧ (bumpMc st c k
    s).fl = s.fl ∧ (bumpMc st c k s).prof = s.prof := ⟨rfl, rfl, rfl⟩

@[simp] theorem addRepair_power (st c : Nat) (it : ScrubItem) (s : Sled) :
    (addRepair st c it s).plat = s.plat ∧ (addRepair st c it s).fl = s.fl ∧ (addRepair st c it s).prof =
      s.prof := by
  simp -implicitDefEqProofs [addRepair, apply_ite Sled.plat, apply_ite Sled.fl, apply_ite Sled.prof]

@[simp] theorem readOperand_power (p : Nat) (s : Sled) :
    (readOperand p s).2.plat = s.plat ∧ (readOperand p s).2.fl = s.fl ∧ (readOperand p s).2.prof = s.prof :=
      by
  simp only [readOperand]
  repeat' split
  all_goals simp -implicitDefEqProofs [apply_ite Sled.plat, apply_ite Sled.fl, apply_ite Sled.prof]

@[simp] theorem bauStep_power (src k op : Nat) (f : BauFields) (i : Nat) (s : Sled) :
    (bauStep src k op f i s).plat = s.plat ∧ (bauStep src k op f i s).fl = s.fl ∧ (bauStep src k op f i
      s).prof = s.prof := by
  simp only [bauStep]
  repeat' split
  all_goals simp -implicitDefEqProofs [apply_ite Sled.plat, apply_ite Sled.fl, apply_ite Sled.prof,
    foldl_power]

@[simp] theorem bankStep_power (k : Nat) (s : Sled) :
    (bankStep k s).plat = s.plat ∧ (bankStep k s).fl = s.fl ∧ (bankStep k s).prof = s.prof := by
  simp only [bankStep]
  split <;> simp -implicitDefEqProofs [apply_ite Sled.plat, apply_ite Sled.fl, apply_ite Sled.prof]

@[simp] theorem bankDrain.go_power (k n : Nat) (s : Sled) :
    (bankDrain.go k n s).plat = s.plat ∧ (bankDrain.go k n s).fl = s.fl ∧ (bankDrain.go k n s).prof = s.prof
      := by
  induction n generalizing s with
  | zero => exact ⟨rfl, rfl, rfl⟩
  | succ n ih =>
    rw [bankDrain.go]
    split
    · exact ⟨rfl, rfl, rfl⟩
    · simpa using ih (bankStep k s)

@[simp] theorem bankDrain_power (k : Nat) (s : Sled) :
    (bankDrain k s).plat = s.plat ∧ (bankDrain k s).fl = s.fl ∧ (bankDrain k s).prof = s.prof := by
  simp -implicitDefEqProofs [bankDrain]

@[simp] theorem progDrain_power (st : Nat) (s : Sled) :
    (progDrain st s).plat = s.plat ∧ (progDrain st s).fl = s.fl ∧ (progDrain st s).prof = s.prof := by
  simp -implicitDefEqProofs [progDrain, apply_ite Sled.plat, apply_ite Sled.fl, apply_ite Sled.prof,
    foldl_power]

@[simp] theorem progEnd_power (st : Nat) (s : Sled) :
    (progEnd st s).plat = s.plat ∧ (progEnd st s).fl = s.fl ∧ (progEnd st s).prof = s.prof := by
  simp -implicitDefEqProofs [progEnd]

@[simp] theorem loseObjects_power (t : Nat) (s : Sled) : (loseObjects t s).plat = s.plat ∧ (loseObjects t
    s).fl = s.fl ∧ (loseObjects t s).prof = s.prof := ⟨rfl, rfl, rfl⟩

@[simp] theorem logSyncAt_power (m code : Nat) (w : Who) (kind i : Nat) (a1 a2 : Nat) (s : Sled) :
    (logSyncAt m code w kind i a1 a2 s).plat = s.plat ∧ (logSyncAt m code w kind i a1 a2 s).fl = s.fl ∧
      (logSyncAt m code w kind i a1 a2 s).prof = s.prof := by
  simp -implicitDefEqProofs [logSyncAt, apply_ite Sled.plat, apply_ite Sled.fl, apply_ite Sled.prof]

@[simp] theorem wakeSe_power (w : Who) (s : Sled) :
    (wakeSe w s).plat = s.plat ∧ (wakeSe w s).fl = s.fl ∧ (wakeSe w s).prof = s.prof := by
  simp -implicitDefEqProofs [wakeSe, apply_ite Sled.plat, apply_ite Sled.fl, apply_ite Sled.prof]

@[simp] theorem returnVal_power (w : Who) (v : Nat) (s : Sled) :
    (returnVal w v s).plat = s.plat ∧ (returnVal w v s).fl = s.fl ∧ (returnVal w v s).prof = s.prof := by
  simp -implicitDefEqProofs [returnVal]

@[simp] theorem descStop_power (u : Nat) (d : Desc) (s : Sled) :
    (descStop u d s).plat = s.plat ∧ (descStop u d s).fl = s.fl ∧ (descStop u d s).prof = s.prof := by
  simp -implicitDefEqProofs [descStop, apply_ite Sled.plat, apply_ite Sled.fl, apply_ite Sled.prof]

@[simp] theorem failWait_power (w : Wait) (code : Nat) (s : Sled) :
    (failWait w code s).plat = s.plat ∧ (failWait w code s).fl = s.fl ∧ (failWait w code s).prof = s.prof :=
      by
  simp only [failWait]
  repeat' split
  all_goals simp -implicitDefEqProofs [apply_ite Sled.plat, apply_ite Sled.fl, apply_ite Sled.prof]

@[simp] theorem failWaits_power (p : Wait → Bool) (code : Nat) (s : Sled) :
    (failWaits p code s).plat = s.plat ∧ (failWaits p code s).fl = s.fl ∧ (failWaits p code s).prof = s.prof
      := by
  simp -implicitDefEqProofs [failWaits, apply_ite Sled.plat, apply_ite Sled.fl, apply_ite Sled.prof,
    foldl_power]

theorem tenantEnd_power (t : Nat) (s : Sled) :
    (tenantEnd t s).plat = s.plat ∧ (tenantEnd t s).fl = s.fl ∧ (tenantEnd t s).prof = s.prof := by
  unfold tenantEnd
  extract_lets s1 s2 s3 s4 src5 s5 s6 s7
  have h1 : s1.plat = s.plat ∧ s1.fl = s.fl ∧ s1.prof = s.prof :=
    foldl_power (fun u c => foldl_power (fun v q => by split <;> simp) _ _) _ _
  clear_value s1
  have h2 : s2.plat = s1.plat ∧ s2.fl = s1.fl ∧ s2.prof = s1.prof :=
    foldl_power (fun u c => by split <;> simp) _ _
  clear_value s2
  have h3 : s3.plat = s2.plat ∧ s3.fl = s2.fl ∧ s3.prof = s2.prof := ⟨rfl, rfl, rfl⟩
  clear_value s3
  have h4 : s4.plat = s3.plat ∧ s4.fl = s3.fl ∧ s4.prof = s3.prof :=
    foldl_power (fun u c => by dsimp only; split <;> (try split) <;> simp) _ _
  clear_value s4
  have h7 : s7.plat = s4.plat ∧ s7.fl = s4.fl ∧ s7.prof = s4.prof := ⟨rfl, rfl, rfl⟩
  clear_value s7
  have h8 := failWaits_power (fun w => waitLost s7 w && w.who.tenant.isSome) 0x1003 s7
  exact ⟨h8.1.trans (h7.1.trans (h4.1.trans (h3.1.trans (h2.1.trans h1.1)))),
    h8.2.1.trans (h7.2.1.trans (h4.2.1.trans (h3.2.1.trans (h2.2.1.trans h1.2.1)))),
    h8.2.2.trans (h7.2.2.trans (h4.2.2.trans (h3.2.2.trans (h2.2.2.trans h1.2.2))))⟩
end Sys2Proof.Machine

/-! ## Warm, tenant and core reset (O10: spec/03, R61, R63; spec/22, R424) -/
namespace Sys2Proof.Machine
open Sys2Proof

/-! ### Accesses to GLB -/

/-- A control core that can act takes effect at a GLB register at once. -/
theorem regAccess_glb {s : Sled} {i : Fin 4} (hact : canAct s (.cc i) = true) (hrun : islRuns s 0 = true) (off
    : Nat)
    (f : Sled → Sled) : regAccess (.cc i) bGLB off f s = f s := by
  have hopen : regOpen s bGLB off = true := by simp [regOpen, blkIsland, bGLB, hrun]
  have hheld : crossHeld s bGLB = false := rfl
  have hreach : blkReach (.cc i) bGLB = true := rfl
  simp [regAccess, hact, hreach, hopen, hheld]

/-- A GLB_RESET field that is not locked takes the value written. -/
theorem glbField_of_unlocked {s : Sled} (h : s.locked = []) (lo v : Nat) :
    glbField lo v s = rSetField bGLB 0x18 lo 4 v s := by
  simp [glbField, swField, lockedReg, h]

/-! ### Warm reset -/

/-- With nothing read back still under way, warm reset answers no request. -/
theorem acceptedDone_of_quiet {s : Sled} (h : ∀ p ∈ s.chan, p.2.q = [] ∧ ∀ e ∈ p.2.retry, e.out = none) :
    acceptedDone s = s := by
  refine List.foldl_fixed' (fun p => ?_) s.chan
  obtain ⟨hq, hretry⟩ := fget_forall (fun c : Chan => c.q = [] ∧ ∀ e ∈ c.retry, e.out = none) {} (chanKey (p.1
    / 16) (p.1 % 16))
    ⟨rfl, by simp⟩ s.chan h
  have hland : landAll (p.1 / 16) (p.1 % 16) s = s := by
    simp only [landAll, landReads, getChan]
    refine if_pos ?_
    simpa using fun e he => by simp [hretry e he]
  rw [hland, getChan, hq, List.foldl_nil]

theorem crossingsLost_of_none {s : Sled} (h : s.xing = []) : crossingsLost s = s := by
  simp only [crossingsLost, h, List.foldl_nil]
  rw [← h]

/-- A fold whose steps change registers only changes registers only. -/
theorem foldl_regs_frame {α : Type} {f : Sled → α → Sled} (h : ∀ s x, f s x = { s with regs := (f s x).regs })
    (l : List α)
    (s : Sled) : l.foldl f s = { s with regs := (l.foldl f s).regs } := by
  induction l generalizing s with
  | nil => rfl
  | cons x l ih =>
    rw [List.foldl_cons, ih, h]

theorem warmRegs_frame (s : Sled) : warmRegs s = { s with regs := (warmRegs s).regs, locked := [] } := by
  simp only [warmRegs]
  rw [foldl_regs_frame (fun t kv => rfl)]

/-- One stack enters self-refresh. -/
def enterSelfRefresh (s : Sled) (st : Nat) : Sled :=
  if (fget s.mcs {} st).selfRefresh then s else updMcs st (fun m => { m with selfRefresh := true }) s

theorem enterSelfRefresh_frame (s : Sled) (st : Nat) :
    enterSelfRefresh s st = { s with mcs := (enterSelfRefresh s st).mcs } := by
  rw [enterSelfRefresh]
  split <;> rfl

theorem enterSelfRefresh_mcs (s : Sled) (st k : Nat) :
    fget (enterSelfRefresh s st).mcs {} k =
      { fget s.mcs {} k with selfRefresh := (fget s.mcs {} k).selfRefresh || decide (k = st) } := by
  rw [enterSelfRefresh]
  by_cases hk : k = st
  · subst hk
    split
    case isTrue h => simp [← h]
    case isFalse h => simp [updMcs, fget_fset_same]
  · split <;> simp [updMcs, fget_fset_other _ _ _ hk, hk]

theorem foldl_enterSelfRefresh_frame (l : List Nat) (s : Sled) :
    l.foldl enterSelfRefresh s = { s with mcs := (l.foldl enterSelfRefresh s).mcs } := by
  induction l generalizing s with
  | nil => rfl
  | cons st l ih => rw [List.foldl_cons, ih, enterSelfRefresh_frame]

theorem foldl_enterSelfRefresh_mcs (l : List Nat) (s : Sled) (k : Nat) :
    fget (l.foldl enterSelfRefresh s).mcs {} k =
      { fget s.mcs {} k with selfRefresh := (fget s.mcs {} k).selfRefresh || decide (k ∈ l) } := by
  induction l generalizing s with
  | nil => simp
  | cons st l ih => rw [List.foldl_cons, ih, enterSelfRefresh_mcs]; simp [Bool.or_assoc]

/-- The migrations that go on are entered in their stacks' registers again. -/
def enterMig (s : Sled) (st : Nat) : Sled :=
  match (fget s.mcs {} st).mig with
  | some m => rSetField (bMC st) offSpare 0 5 (m.rank + 4 * m.spare + 16) s
  | none => s

theorem enterMig_frame (s : Sled) (st : Nat) : enterMig s st = { s with regs := (enterMig s st).regs } := by
  rw [enterMig]
  split <;> rfl

/-- What warm reset clears at once, before the stacks enter self-refresh. -/
def warmCleared (s : Sled) : Sled :=
  { s with
    isl := s.isl.map fun (p : Nat × Isl) => if p.1 = 0 ∨ p.1 = iHST ∨ p.2.state = 0 then p else (p.1, { p.2
      with state := 2 })
    ccRunning := 0, ccOffline := 0, clearing := true, cpu := []
    chan := (s.chan.map fun (p : Nat × Chan) => (p.1, warmChan p.2)).filter fun (p : Nat × Chan) => decide
      (p.2 ≠ ({} : Chan))
    mcs := s.mcs.map fun (p : Nat × Mcs) => (p.1, { p.2 with
      speed := none, selfRefresh := true, helper := none, helperQ := [], heldDly := [], ownerLock := 0, mig :=
        warmMig p.2.mig })
    speedQ := [], bank := [], btm := [], bcs := [], vc := [], ctr := [], sem := [], waits := [], dld := [],
      ste := {}
    lnk := [], fab := {}
    kpr := { s.kpr with ctlq := [], hb := [], rdma := [], outstanding := 0, booted := false, bootAt := s.now }
    plat := { s.plat with coreReset := [], tenantReset := [] } }

theorem warmClear_eq (s : Sled) :
    warmClear s = (List.range 9).foldl enterMig ((List.range 9).foldl enterSelfRefresh
      (warmCleared (warmRegs (crossingsLost (acceptedDone s))))) := by
  simp only [warmClear, warmCleared]
  rfl

/-- A projection that a map of the values keeps is kept by what is found. -/
theorem fget_map_proj {α β : Type} {F : α → β} {g : α → α} (h : ∀ v, F (g v) = F v) (m : FMap α) (d : α) (k :
    Nat) :
    F (fget (m.map fun p => (p.1, g p.2)) d k) = F (fget m d k) := by
  induction m with
  | nil => rfl
  | cons p m ih =>
    obtain ⟨a, v⟩ := p
    simp only [List.map_cons, fget]
    split
    · exact h v
    · exact ih

section quiet

variable {s : Sled} (hx : s.xing = []) (hc : ∀ p ∈ s.chan, p.2.q = [] ∧ ∀ e ∈ p.2.retry, e.out = none)
include hx hc

theorem warmClear_of_quiet :
    warmClear s = { warmCleared s with regs := (warmClear s).regs, locked := [], mcs := (warmClear s).mcs } :=
      by
  rw [warmClear_eq, acceptedDone_of_quiet hc, crossingsLost_of_none hx, foldl_regs_frame enterMig_frame,
    foldl_enterSelfRefresh_frame, warmRegs_frame]
  generalize List.range 9 = l
  rfl

/-- A stack after warm reset: in self-refresh, with its delays. -/
theorem warmClear_mcs {st : Nat} (hst : st < 9) :
    (fget (warmClear s).mcs {} st).selfRefresh = true ∧
      (fget (warmClear s).mcs {} st).dlyLive = (fget s.mcs {} st).dlyLive := by
  have h : fget (warmClear s).mcs {} st =
      { fget (warmCleared s).mcs {} st with selfRefresh := true } := by
    rw [warmClear_eq, acceptedDone_of_quiet hc, crossingsLost_of_none hx, foldl_regs_frame enterMig_frame,
      foldl_enterSelfRefresh_mcs, warmRegs_frame]
    simp [hst, warmCleared]
  rw [h]
  exact ⟨rfl, fget_map_proj (F := Mcs.dlyLive) (g := fun m => { m with
      speed := none, selfRefresh := true, helper := none, helperQ := [], heldDly := [], ownerLock := 0, mig :=
        warmMig m.mig })
    (fun _ => rfl) s.mcs {} st⟩

end quiet

theorem warmReset_of_quiet {s : Sled} (hr : s.plat.rails = .up) (hp : s.prof.isSome = true) (hb : digestBad s
    = none) :
    warmReset 1 s = setCause 4 1 0 (warmClear s) := by
  rw [warmReset, if_neg (by simp [hr, Option.isSome_iff_ne_none.1 hp]), hb]

/-! ### Tenant and core reset -/

/-- A tenant reset enters the list and leaves flash and the profile. -/
theorem tenantResetBegin_power {t : Nat} {b : Bool} {s : Sled} (ht : s.plat.tenantReset = []) (hr :
    s.plat.rails = .up) :
    (tenantResetBegin t b s).plat = { s.plat with tenantReset := [(t, b)] } ∧ (tenantResetBegin t b s).fl =
      s.fl ∧
      (tenantResetBegin t b s).prof = s.prof := by
  rw [tenantResetBegin, if_neg (by simp [ht, hr])]
  simpa [ht] using tenantEnd_power t { s with plat := { s.plat with tenantReset := s.plat.tenantReset ++ [(t,
    b)] } }

theorem foldl_forgetDesc_frame (l : List Desc) (s : Sled) :
    l.foldl (fun s d => forgetDesc d.id s) s = { s with fab := (l.foldl (fun s d => forgetDesc d.id s) s).fab
      } := by
  induction l generalizing s with
  | nil => rfl
  | cons d l ih => rw [List.foldl_cons, ih]; rfl

theorem vcClear_frame (n : Nat) (s : Sled) :
    vcClear n s = { s with regs := (vcClear n s).regs, cpu := (vcClear n s).cpu, vc := ferase s.vc n
                           waits := (vcClear n s).waits, fab := (vcClear n s).fab } := by
  simp only [vcClear]
  rw [foldl_forgetDesc_frame]
  rfl

@[simp] theorem vcClear_plat (n : Nat) (s : Sled) : (vcClear n s).plat = s.plat := by rw [vcClear_frame]

/-- The reset of a running vault core with no core reset under way. -/
theorem coreResetBegin_vc (core : Fin 8) {s : Sled} (hc : s.plat.coreReset = []) (hvc : islRuns s (iVC core) =
    true)
    (b : Bool) : coreResetBegin core.val b s = setIsl (iVC core) 1 (vcClear core.val { s with
        plat := { s.plat with coreReset := [(core.val, b)] } }) := by
  rw [coreResetBegin, if_neg (by simp [hc]; omega), if_pos core.isLt, if_neg (by simp [hvc]), hc]
  rfl

/-- A set bit of a core mask is read back. -/
theorem getLsbD_setBit_same : ∀ (i : Fin 4) (x : BitVec 4), (BitVec.ofNat 4 (setBit x.toNat i true)).getLsbD i
    = true := by
  decide

/-- Settles O10, clause by clause: warm reset in quiet conditions clears and keeps by the lists of its definition, the
tenant reset by what the tenant's end leaves, the core reset by what clearing a core leaves. -/
theorem warmTenantAndCoreReset : Obligations.WarmTenantAndCoreReset := by
  refine ⟨?_, ?_, ?_, ?_, ?_, ?_⟩
  · intro s i hact hrun hr hp hb hx hc
    have hfx : fxGlbResetWarm (.cc i) s.sled = setCause 4 1 0 (warmClear s.sled) := by
      rw [fxGlbResetWarm, regAccess_glb hact hrun, warmReset_of_quiet hr hp hb]
    have hmcs : ∀ st : Fin 9, _ := fun st => warmClear_mcs hx hc st.isLt
    have hcl := warmClear_of_quiet hx hc
    refine ⟨{ s with sled := fxGlbResetWarm (.cc i) s.sled }, rfl, rfl, ?_⟩
    rw [hfx]
    generalize warmClear s.sled = w at hmcs hcl ⊢
    have hset : setCause 4 1 0 w = { w with regs := (setCause 4 1 0 w).regs } := rfl
    have hcause : rField (setCause 4 1 0 w) bKPR 0 0 4 = 4 := by
      rw [rField, setCause, rGet_rSet_same]
      decide
    refine ⟨?_, ?_, ?_, ?_, ?_, ?_, ?_, ?_, ?_, ?_, ?_, ?_, ?_, ?_, ?_, ?_, ?_, ?_, ?_, hmcs, hcause⟩
    all_goals rw [hset, hcl]; rfl
  · intro s i t hact hrun hlock ht hc hr
    have hfx : fxTenantRst (.cc i) t.val s.sled =
        tenantResetBegin t.val true (rSetField bGLB 0x18 4 4 t.val s.sled) := by
      rw [fxTenantRst, regAccess_glb hact hrun]
      simp only [glbField_of_unlocked hlock, rField_rSetField_same bGLB 0x18 4 4 t.val s.sled (by omega)]
      rw [glbTenant, if_neg (by simp [glbBusy, ht, hc]), Nat.mod_eq_of_lt (show t.val < 2 ^ 4 from t.isLt)]
    refine ⟨{ s with sled := fxTenantRst (.cc i) t.val s.sled }, rfl, rfl, ?_⟩
    rw [hfx]
    exact tenantResetBegin_power ht hr
  · intro s i core hact hrun hlock ht hc hvc
    have hcore : (Fin.ofNat 16 core.val).val = core.val := Nat.mod_eq_of_lt (by omega)
    have hfx : fxCoreRst (.cc i) (Fin.ofNat 16 core.val).val s.sled =
        setCause 6 1 core.val (coreResetBegin core.val true (rSetField bGLB 0x18 12 4 core.val s.sled)) := by
      rw [fxCoreRst, regAccess_glb hact hrun, hcore]
      simp only [glbField_of_unlocked hlock, rField_rSetField_same bGLB 0x18 12 4 core.val s.sled (by omega)]
      rw [glbCore, if_neg (by simp [glbBusy, ht, hc]), Nat.mod_eq_of_lt (show core.val < 2 ^ 4 by omega)]
      refine if_neg ?_
      rw [coreResetBegin_vc core (s := rSetField bGLB 0x18 12 4 core.val s.sled) hc hvc]
      simp [hc, vcClear_plat]
    refine ⟨{ s with sled := fxCoreRst (.cc i) (Fin.ofNat 16 core.val).val s.sled }, rfl, rfl, ?_⟩
    rw [hfx, coreResetBegin_vc core (s := rSetField bGLB 0x18 12 4 core.val s.sled) hc hvc, vcClear_frame]
    refine ⟨rfl, islState_setIsl _ _ _, fun j hj => islState_setIsl_other _ _ _ hj, fget_ferase_same _ _ _,
      rfl, rfl, rfl,
      rfl, ?_⟩
    rw [rField, setCause, rGet_rSet_same, bitsOf]
    omega
  · intro s t ht hc
    have hfx : fxTenantResetDone t.val s.sled = vfEvent t.val 0 { s.sled with
        plat := { s.sled.plat with tenantReset := s.sled.plat.tenantReset.filter fun x => x.1 ≠ t.val } } :=
          by
      rw [fxTenantResetDone, if_neg]
      rw [Bool.not_eq_true, Bool.or_eq_false_iff, ht]
      refine ⟨rfl, ?_⟩
      simpa only [List.any_eq_false, Bool.and_eq_true, decide_eq_true_eq, not_and, Bool.not_eq_true] using hc
    refine ⟨{ s with sled := fxTenantResetDone t.val s.sled }, rfl, rfl, ?_, ?_⟩
    all_goals rw [hfx, vfEvent_frame]
  · intro s core hc
    have hcore : (Fin.ofNat 12 core.val).val = core.val := Nat.mod_eq_of_lt (by omega)
    have hfx : fxCoreResetDone (Fin.ofNat 12 core.val).val s.sled = setIsl (iVC core) 2 { s.sled with
        plat := { s.sled.plat with coreReset := s.sled.plat.coreReset.filter fun x => x.1 ≠ core.val } } := by
      simp only [fxCoreResetDone, hcore, hc, core.isLt, if_true, Bool.not_true, Bool.false_eq_true, if_false]
    rw [← hfx]
    rfl
  · intro s i hc hoff
    have hi : (Fin.ofNat 12 (8 + i.val)).val = 8 + i.val := Nat.mod_eq_of_lt (by omega)
    have hfx : fxCoreResetDone (Fin.ofNat 12 (8 + i.val)).val s.sled = hbStart i { s.sled with
        plat := { s.sled.plat with coreReset := s.sled.plat.coreReset.filter fun x => x.1 ≠ 8 + i.val }
        ccRunning := BitVec.ofNat 4 (setBit s.sled.ccRunning.toNat i true) } := by
      rw [hi]
      simp [fxCoreResetDone, hc, hoff, -BitVec.getLsbD_eq_getElem]
    refine ⟨{ s with sled := fxCoreResetDone (Fin.ofNat 12 (8 + i.val)).val s.sled }, rfl, rfl, ?_, ?_⟩
    all_goals rw [hfx]
    · exact getLsbD_setBit_same i s.sled.ccRunning
    · rfl
end Sys2Proof.Machine

/-! ## Register accesses by class and map (O11: spec/21, spec/05, R404 to R414) -/
namespace Sys2Proof.Machine
open Sys2Proof

/-! ### Fields under a write's mask -/

/-- The mask of a field. -/
def fieldMask (lo len : Nat) : Nat := (2 ^ len - 1) * 2 ^ lo

theorem testBit_fieldMask (lo len i : Nat) :
    (fieldMask lo len).testBit i = decide (lo ≤ i ∧ i < lo + len) := by
  rw [fieldMask, Nat.mul_comm, Nat.testBit_two_pow_mul, Nat.testBit_two_pow_sub_one]
  by_cases h : lo ≤ i <;> simp [h]
  omega

theorem fieldMask_lt {lo len n : Nat} (h : lo + len ≤ n) : fieldMask lo len < 2 ^ n := by
  refine Nat.lt_pow_two_of_testBit _ fun i hi => ?_
  rw [testBit_fieldMask]
  simp
  omega

theorem testBit_fieldBits {old v m : Nat} (hold : old < 2 ^ 64) (hm : m < 2 ^ 64) (i : Nat) :
    (fieldBits old v m).testBit i = if m.testBit i then v.testBit i else old.testBit i := by
  have hsub : 2 ^ 64 - 1 - m = 2 ^ 64 - (m + 1) := by omega
  rw [fieldBits, Nat.testBit_or, Nat.testBit_and, Nat.testBit_and, hsub, Nat.testBit_two_pow_sub_succ hm]
  by_cases hi : i < 64
  · cases m.testBit i <;> simp [hi]
  · have h := Nat.testBit_lt_two_pow (hold.trans_le (Nat.pow_le_pow_right (by omega) (Nat.le_of_not_lt hi)))
    have h' := Nat.testBit_lt_two_pow (hm.trans_le (Nat.pow_le_pow_right (by omega) (Nat.le_of_not_lt hi)))
    simp [h, h']

/-- A write through a field's mask sets that field. -/
theorem fieldBits_fieldMask {old v lo len : Nat} (hold : old < 2 ^ 64) (h : lo + len ≤ 64) :
    fieldBits old v (fieldMask lo len) = setBits old lo len (bitsOf v lo len) := by
  refine Nat.eq_of_testBit_eq fun i => ?_
  rw [testBit_fieldBits hold (fieldMask_lt h), testBit_setBits, testBit_fieldMask]
  by_cases hi : lo ≤ i ∧ i < lo + len
  · rw [if_pos (by simpa using hi), if_pos hi, testBit_bitsOf, show lo + (i - lo) = i by omega]
    simp
    omega
  · rw [if_neg (by simpa using hi), if_neg hi]

/-- A mask that covers a field leaves it whole. -/
theorem fieldMask_and {lo len n : Nat} (h : lo + len ≤ n) :
    fieldMask lo len &&& (2 ^ n - 1) = fieldMask lo len := by
  rw [Nat.and_two_pow_sub_one_eq_mod, Nat.mod_eq_of_lt (fieldMask_lt h)]

theorem fieldMask_ne_zero {lo len : Nat} (h : 0 < len) : fieldMask lo len ≠ 0 := by
  have : 2 ≤ 2 ^ len := by simpa using Nat.pow_le_pow_right (n := 2) (by omega) h
  exact Nat.mul_ne_zero (by omega) (Nat.two_pow_pos lo).ne'

section covered

variable {blk off lo len n v : Nat} (s : Sled) (hlen : 0 < len) (hn : lo + len ≤ n) (h64 : n ≤ 64)
include hlen hn h64

theorem fieldWrite_rw : fieldWrite blk off (2 ^ n - 1) v (rw lo len) s =
    if lockedReg s blk off then lockHit s else rSetField blk off lo len (bitsOf v lo len) s := by
  have hmask : ((2 ^ len - 1) * 2 ^ lo) &&& (2 ^ n - 1) = fieldMask lo len := fieldMask_and hn
  simp only [fieldWrite, rw, hmask, if_neg (fieldMask_ne_zero hlen), rSetField,
    fieldBits_fieldMask (rGet_lt s blk off) (hn.trans h64)]

theorem fieldWrite_lk : fieldWrite blk off (2 ^ n - 1) v (lk lo len) s =
    rSetField blk off lo len (bitsOf v lo len) s := by
  have hmask : ((2 ^ len - 1) * 2 ^ lo) &&& (2 ^ n - 1) = fieldMask lo len := fieldMask_and hn
  simp only [fieldWrite, lk, hmask, if_neg (fieldMask_ne_zero hlen), rSetField,
    fieldBits_fieldMask (rGet_lt s blk off) (hn.trans h64)]

theorem fieldWrite_cnt (hk : kt3 s = false) : fieldWrite blk off (2 ^ n - 1) v ⟨lo, len, .cnt⟩ s =
    rSetField blk off lo len (bitsOf v lo len) s := by
  have hmask : ((2 ^ len - 1) * 2 ^ lo) &&& (2 ^ n - 1) = fieldMask lo len := fieldMask_and hn
  simp only [fieldWrite, hk, hmask, if_neg (fieldMask_ne_zero hlen), rSetField,
    fieldBits_fieldMask (rGet_lt s blk off) (hn.trans h64), Bool.false_eq_true, if_false]

end covered

theorem fieldWrite_w1c {blk off lo n v : Nat} (s : Sled) (hn : lo + 1 ≤ n) :
    fieldWrite blk off (2 ^ n - 1) v (w1c lo) s =
      rSet blk off (rGet s blk off &&& (2 ^ 64 - 1 - (v &&& fieldMask lo 1))) s := by
  have hmask : ((2 ^ 1 - 1) * 2 ^ lo) &&& (2 ^ n - 1) = fieldMask lo 1 := fieldMask_and hn
  simp only [fieldWrite, w1c, hmask, if_neg (fieldMask_ne_zero Nat.one_pos)]

/-- Clearing a W1C bit clears it where 1 is written, and nothing else. -/
theorem testBit_w1c {old v lo : Nat} (hold : old < 2 ^ 64) (hlo : lo < 64) (i : Nat) :
    (old &&& (2 ^ 64 - 1 - (v &&& fieldMask lo 1))).testBit i = (old.testBit i && !(decide (i = lo) &&
      v.testBit i)) := by
  have hm : v &&& fieldMask lo 1 < 2 ^ 64 := Nat.lt_of_le_of_lt Nat.and_le_right (fieldMask_lt (by omega))
  have hsub : 2 ^ 64 - 1 - (v &&& fieldMask lo 1) = 2 ^ 64 - ((v &&& fieldMask lo 1) + 1) := by omega
  rw [Nat.testBit_and, hsub, Nat.testBit_two_pow_sub_succ hm, Nat.testBit_and, testBit_fieldMask]
  have hone : decide (lo ≤ i ∧ i < lo + 1) = decide (i = lo) := by rw [decide_eq_decide]; omega
  rw [hone, Bool.and_comm (v.testBit i)]
  by_cases hi : i < 64
  · simp [hi]
  · simp [Nat.testBit_lt_two_pow (hold.trans_le (Nat.pow_le_pow_right (by omega) (Nat.le_of_not_lt hi)))]

/-! ### Writes through the map -/

theorem fxRegisterWrite_eq {a : Agent} {s : Sled} (h : canAct s a = true) (addr : Nat) (size : AccSize) (v :
    Nat) :
    fxRegisterWrite a addr size v s = regWrite a addr size.bytes v s := if_pos h

/-- A write of a whole register, or of its low half, that the map lets through. -/
theorem regWrite_eq {a : Agent} {s : Sled} {addr n blk off v : Nat} (hn : n = 4 ∨ n = 8) (hs : regSplit addr =
    some (blk, off))
    (hal : addr % n = 0) (h8 : off % 8 = 0) (hf : (regFields blk off).isSome = true)
    (hreach : blkReach a blk = true) (hopen : regOpen s blk off = true) (hw : mayWrite s a blk off = true)
    (hx : crossHeld s blk = false) :
    regWrite a addr n v s = regStore a blk off (2 ^ (8 * n) - 1) (v % 2 ^ (8 * n)) s := by
  have ho : off / 8 * 8 = off := by omega
  have hm : regMapped s a addr n = true := by
    simp only [regMapped, hs, ho, hreach, hf, hopen, hal, Bool.and_true]
    simpa using hn
  simp [regWrite, hs, ho, hm, hw, hx, h8]

/-- Accesses at SYN proceed while the NOC island runs. -/
theorem regOpen_syn {s : Sled} (hrun : islRuns s iNOC = true) (off : Nat) : regOpen s bSYN off = true := by
  simp [regOpen, blkIsland, bSYN, bMAP, bGLB, bISL, bTHM, bKPR, hrun]

theorem regOpen_mc0 {s : Sled} (hrun : islRuns s (iMC 0) = true) (off : Nat) :
    regOpen s (bMC 0) off = true := by
  simp [regOpen, blkIsland, bMC, bSYN, bMAP, bGLB, bISL, bTHM, bKPR, hrun]

theorem mayWrite_of_ne {s : Sled} {a : Agent} {blk off : Nat} (h : blk < 0x20 ∨ 0x28 < blk) (hk : blk ≠ bKPR)
    :
    mayWrite s a blk off = true := by
  rw [mayWrite, if_neg hk, if_neg (by omega)]

theorem word_mod (v : Word) : v.toNat % 2 ^ (8 * 8) = v.toNat := Nat.mod_eq_of_lt v.isLt

/-! ### The registers of the cases -/

section syn

variable {a : Agent} {s : Sled} (v : Word) (hact : canAct s a = true) (hreach : blkReach a bSYN = true)
  (hrun : islRuns s iNOC = true)
include hact hreach hrun

/-- SYN_ADMIN_DATA is one RW field. -/
theorem registerWrite_synAdminData : fxRegisterWrite a 0xF003000008 .b8 v.toNat s =
    if lockedReg s bSYN 8 then lockHit s else rSetField bSYN 8 0 48 (bitsOf v.toNat 0 48) s := by
  have hs : regSplit 0xF003000008 = some (bSYN, 8) := by decide
  rw [fxRegisterWrite_eq hact, AccSize.bytes, regWrite_eq (.inr rfl) hs rfl rfl rfl hreach (regOpen_syn hrun
    8)
    (mayWrite_of_ne (by decide) (by decide)) rfl, word_mod]
  have hfs : regFields bSYN 8 = some [rw 0 48] := rfl
  have hf := fieldWrite_rw (blk := bSYN) (off := 8) (v := v.toNat) s (show 0 < 48 by omega) (show 0 + 48 ≤ 8 *
    8 by omega)
    (by omega)
  simp only [regStore, hfs]
  exact hf

/-- A trouble counter is one CNT field. -/
theorem registerWrite_synCounter (hk : kt3 s = false) : fxRegisterWrite a 0xF003000300 .b4 v.toNat s =
    rSetField bSYN 0x300 0 32 (bitsOf (v.toNat % 2 ^ 32) 0 32) s := by
  have hs : regSplit 0xF003000300 = some (bSYN, 0x300) := by decide
  rw [fxRegisterWrite_eq hact, AccSize.bytes, regWrite_eq (.inl rfl) hs rfl rfl rfl hreach (regOpen_syn hrun
    0x300)
    (mayWrite_of_ne (by decide) (by decide)) rfl]
  have hfs : regFields bSYN 0x300 = some cnt32 := rfl
  have hf := fieldWrite_cnt (blk := bSYN) (off := 0x300) (v := v.toNat % 2 ^ 32) s (show 0 < 32 by omega)
    (show 0 + 32 ≤ 8 * 4 by omega) (by omega) hk
  simp only [regStore, hfs]
  exact hf

end syn

/-- An error-capture register is one W1C bit. -/
theorem registerWrite_errCapture {a : Agent} {s : Sled} (v : Word) (hact : canAct s a = true)
    (hreach : blkReach a (bMC 0) = true) (hrun : islRuns s (iMC 0) = true) (hx : crossHeld s (bMC 0) = false)
      :
    fxRegisterWrite a 0xF001000400 .b8 v.toNat s =
      rSet (bMC 0) 0x400 (rGet s (bMC 0) 0x400 &&& (2 ^ 64 - 1 - (v.toNat &&& fieldMask 48 1))) s := by
  have hs : regSplit 0xF001000400 = some (bMC 0, 0x400) := by decide
  rw [fxRegisterWrite_eq hact, AccSize.bytes, regWrite_eq (.inr rfl) hs rfl rfl rfl hreach (regOpen_mc0 hrun
    0x400)
    (mayWrite_of_ne (by decide) (by decide)) hx, word_mod]
  have hfs : regFields (bMC 0) 0x400 = some [w1c 48] := rfl
  have hf := fieldWrite_w1c (blk := bMC 0) (off := 0x400) (v := v.toNat) s (show 48 + 1 ≤ 8 * 8 by omega)
  simp only [regStore, hfs]
  exact hf

section mapRoute

variable {a : Agent} {s : Sled} (v : Word) (hact : canAct s a = true) (hreach : blkReach a bMAP = true)
  (hrun : islRuns s iNOC = true)
include hact hreach hrun

/-- MAP_ROUTE is two LK fields, of which one is LOCK. -/
theorem registerWrite_mapRoute : fxRegisterWrite a 0xF000200800 .b8 v.toNat s =
    if lkLocked s bMAP 0x800 then lockHit s else
      rSetField bMAP 0x800 63 1 (bitsOf v.toNat 63 1) (rSetField bMAP 0x800 0 23 (bitsOf v.toNat 0 23) s) :=
        by
  have hs : regSplit 0xF000200800 = some (bMAP, 0x800) := by decide
  rw [fxRegisterWrite_eq hact, AccSize.bytes, regWrite_eq (.inr rfl) hs rfl rfl rfl hreach (regOpen_map hrun
    0x800)
    (mayWrite_of_ne (by decide) (by decide)) rfl, word_mod]
  have hfs : regFields bMAP 0x800 = some [lk 0 23, lk 63 1] := rfl
  have h1 := fieldWrite_lk (blk := bMAP) (off := 0x800) (v := v.toNat) s (show 0 < 23 by omega)
    (show 0 + 23 ≤ 8 * 8 by omega) (by omega)
  have h2 := fieldWrite_lk (blk := bMAP) (off := 0x800) (v := v.toNat) (rSetField bMAP 0x800 0 23 (bitsOf
    v.toNat 0 23) s)
    (show 0 < 1 by omega) (show 63 + 1 ≤ 8 * 8 by omega) (by omega)
  have hlk : lkWrite bMAP 0x800 (2 ^ (8 * 8) - 1) v.toNat [lk 0 23, lk 63 1] s =
      if lkLocked s bMAP 0x800 then lockHit s else
        fieldWrite bMAP 0x800 (2 ^ (8 * 8) - 1) v.toNat (lk 63 1)
          (fieldWrite bMAP 0x800 (2 ^ (8 * 8) - 1) v.toNat (lk 0 23) s) := rfl
  rw [h1, h2] at hlk
  simp only [regStore, hfs, hlk]
  rfl

end mapRoute

/-- Setting two fields of a register changes registers only. -/
theorem rSetField_twice_frame (blk off lo len v lo' len' v' : Nat) (s : Sled) :
    rSetField blk off lo' len' v' (rSetField blk off lo len v s) =
      { s with regs := (rSetField blk off lo' len' v' (rSetField blk off lo len v s)).regs } := by
  have h (lo len v : Nat) (s : Sled) : rSetField blk off lo len v s = { s with regs := (rSetField blk off lo
    len v s).regs } :=
    rfl
  conv_lhs => rw [h lo' len', h lo len]
  simp only [← h lo len]

theorem lkLocked_mapRoute (s : Sled) :
    lkLocked s bMAP 0x800 = (lockedReg s bMAP 0x800 || bitAt (rGet s bMAP 0x800) 63) := by
  have h1 : isLk bMAP 0x800 = true := rfl
  have h2 : isTrain bMAP 0x800 = false := rfl
  simp [lkLocked, h1, h2]

/-! ### The registers of a link that is not enabled -/

theorem regAddr_lnkCrc (l : LinkId) : regAddr (bLNK l) 0x10 = 0xF000000000 + ((0x60 + l.val) * 0x100000 +
    0x10) := rfl

theorem toNat_lnkCrc (l : LinkId) :
    (BitVec.ofNat 40 (regAddr (bLNK l) 0x10)).toNat = regAddr (bLNK l) 0x10 := by
  rw [BitVec.toNat_ofNat, regAddr_lnkCrc, Nat.mod_eq_of_lt (by omega)]

theorem regSplit_lnkCrc (l : LinkId) : regSplit (regAddr (bLNK l) 0x10) = some (bLNK l, 0x10) := by
  rw [regAddr_lnkCrc, regSplit, if_pos (by omega), bLNK]
  simp only [Option.some.injEq, Prod.mk.injEq]
  omega

/-- A link's registers beside LNK_CTL are closed while EN = 0. -/
theorem regOpen_lnk_disabled {s : Sled} {l : LinkId} (hen : rField s (bLNK l) 0 0 1 = 0) :
    regOpen s (bLNK l) 0x10 = false := by
  have hlo : 0x60 ≤ bLNK l := Nat.le_add_right ..
  have hhi : bLNK l ≤ 0x6F := by have := l.isLt; rw [bLNK]; omega
  rw [regOpen]
  split
  · simp [hlo, hhi, hen]
  · rfl

/-- A register write that no register or no agent meets is logged. -/
theorem registerWrite_unmapped {a : Agent} {s : Sled} (hact : canAct s a = true) {addr blk off : Nat} {size :
    AccSize} (v : Nat)
    (hs : regSplit addr = some (blk, off)) (hm : regMapped s a addr size.bytes = false) :
    fxRegisterWrite a addr size v s = unmappedReg a blk off s := by
  rw [fxRegisterWrite_eq hact, regWrite, hs]
  simp [hm]

/-- A register write whose effect does not wait takes it. -/
theorem exec_registerWrite {a : Agent} {addr : LAddr} {size : AccSize} {v : Word} {s : State} {u : Sled}
    (h : fxRegisterWrite a addr.toNat size v.toNat s.sled = u) (hs : u.stall = s.sled.stall) :
    exec (.registerWrite a addr size v) s = .next { s with sled := u } := by
  subst h
  exact liftHold_eq hs

theorem exec_unmappedAccess {a : Agent} {g : GAddr} {w : Bool} {s : State} {u : Sled}
    (h : fxUnmappedAccess a g.toNat w s.sled = u) : exec (.unmappedAccess a g w) s = .next { s with sled := u
      } := by
  subst h
  rfl

theorem exec_glbCompatWrite {a : Agent} {k l : Bool} {s : State} {u : Sled}
    (h : fxGlbCompatWrite a k l s.sled = u) : exec (.glbCompatWrite a k l) s = .next { s with sled := u } :=
      by
  subst h
  rfl

theorem unmappedReg_stall (a : Agent) (blk off : Nat) (s : Sled) : (unmappedReg a blk off s).stall = s.stall
    :=
  logUnmapped_stall ..

/-! ### GLB_COMPAT -/

/-- What GLB_COMPAT's KT3 and LOCK bits are in the word written. -/
theorem compat_bits (k l : Bool) : bitsOf (b2n k + 9223372036854775808 * b2n l) 0 1 = b2n k ∧
    bitAt (b2n k + 9223372036854775808 * b2n l) 63 = l := by
  cases k <;> cases l <;> decide

theorem regAccess_glb_of {a : Agent} {s : Sled} (hact : canAct s a = true) (hreach : blkReach a bGLB = true)
    (hrun : islRuns s 0 = true) (off : Nat) (f : Sled → Sled) : regAccess a bGLB off f s = f s := by
  have hopen : regOpen s bGLB off = true := by simp [regOpen, blkIsland, bGLB, hrun]
  have hheld : crossHeld s bGLB = false := rfl
  simp [regAccess, hact, hreach, hopen, hheld]

/-- Settles O11: each class by the rule of its fields, the unmapped cases by the map's test, GLB_COMPAT by its own
rule. -/
theorem registerAccessesFollowClassesAndMap : Obligations.RegisterAccessesFollowClassesAndMap := by
  refine ⟨?_, ?_, ?_, ?_, ?_, ?_, ?_, ?_, ?_, ?_, ?_, ?_, ?_, ?_, ?_⟩
  · intro s a v hact hreach hrun hfree
    have hfx := registerWrite_synAdminData v hact hreach hrun
    rw [hfree, if_neg Bool.false_ne_true] at hfx
    refine ⟨_, exec_registerWrite hfx rfl, rfl, ?_⟩
    refine ⟨?_, rfl, fun blk off hoff hne => rGet_rSet_ne _ _ hoff (by decide) hne⟩
    rw [rGet_rSetField _ _ _ _ _ _ (by omega), bitsOf_setBits_same, bitsOf, Nat.pow_zero, Nat.div_one,
      Nat.mod_mod]
  · intro s a v hact hreach hrun hlock
    have hfx := registerWrite_synAdminData v hact hreach hrun
    rw [hlock, if_pos rfl] at hfx
    exact exec_registerWrite hfx rfl
  · intro s a v hact hreach hrun hx
    have hfx := registerWrite_errCapture v hact hreach hrun hx
    refine ⟨_, exec_registerWrite hfx rfl, rfl, ?_⟩
    have hlt : rGet s.sled (bMC 0) 0x400 &&& (2 ^ 64 - 1 - (v.toNat &&& fieldMask 48 1)) < 2 ^ 64 :=
      Nat.lt_of_le_of_lt Nat.and_le_left (rGet_lt ..)
    rw [rGet_rSet_same, Nat.mod_eq_of_lt hlt]
    have hbit := testBit_w1c (v := v.toNat) (rGet_lt s.sled (bMC 0) 0x400) (show 48 < 64 by omega)
    refine ⟨?_, ?_, rfl⟩
    · rw [bitAt_eq_testBit, bitAt_eq_testBit, hbit]
      simp [BitVec.testBit_toNat]
    · refine Nat.eq_of_testBit_eq fun i => ?_
      rw [testBit_bitsOf, testBit_bitsOf, hbit]
      by_cases hi : i < 48
      · simp [show i ≠ 48 by omega]
      · simp [hi]
  · intro s a v hact hreach hrun hfree hbit
    have hfx := registerWrite_mapRoute v hact hreach hrun
    rw [lkLocked_mapRoute, hfree, hbit, if_neg (by decide)] at hfx
    refine ⟨_, exec_registerWrite hfx ((rSetField_stall ..).trans (rSetField_stall ..)), rfl, ?_⟩
    refine ⟨?_, ?_, rSetField_twice_frame ..⟩
    · rw [rGet_rSetField _ _ _ _ _ _ (by omega), bitsOf_setBits_other _ _ _ _ (.inl (by omega)),
        rGet_rSetField _ _ _ _ _ _ (by omega), bitsOf_setBits_same, bitsOf, Nat.pow_zero, Nat.div_one,
          Nat.mod_mod]
    · rw [rGet_rSetField _ _ _ _ _ _ (by omega), bitAt_eq_testBit, testBit_setBits]
      rw [if_pos (by omega), testBit_bitsOf, BitVec.testBit_toNat]
      rfl
  · intro s a v hact hreach hrun hbit
    have hfx := registerWrite_mapRoute v hact hreach hrun
    rw [lkLocked_mapRoute, hbit, Bool.or_true, if_pos rfl] at hfx
    exact exec_registerWrite hfx rfl
  · intro s a v hact hreach hrun hk
    have hfx := registerWrite_synCounter v hact hreach hrun hk
    refine ⟨_, exec_registerWrite hfx rfl, rfl, ?_⟩
    refine ⟨?_, rfl⟩
    rw [rGet_rSetField _ _ _ _ _ _ (by omega), bitsOf_setBits_same, bitsOf, Nat.pow_zero, Nat.div_one,
      Nat.mod_mod,
      Nat.mod_mod]
  · intro s a v hact hreach hrun hx
    have hs : regSplit 0xF001000400 = some (bMC 0, 0x400) := by decide
    have hfx : fxRegisterWrite a 0xF001000400 .b8 v.toNat s.sled = { s.sled with
        xing := s.sled.xing ++ [{ stack := 0, agent := a, addr := 0xF001000400, bytes := 8, value := v.toNat
          }] } := by
      have hm : regMapped s.sled a 0xF001000400 8 = true := by
        have hfs : (regFields (bMC 0) 0x400).isSome = true := rfl
        simp [regMapped, hs, hreach, regOpen_mc0 hrun, hfs]
      have hw : mayWrite s.sled a (bMC 0) 0x400 = true := mayWrite_of_ne (by decide) (by decide)
      rw [fxRegisterWrite_eq hact, regWrite, hs]
      simp only [AccSize.bytes, hm, hw, hx, Bool.and_self, if_true, Nat.reduceDiv, Nat.reduceMul]
      rfl
    exact exec_registerWrite hfx rfl
  · intro s a l v hact hen
    have hm : regMapped s.sled a (regAddr (bLNK l) 0x10) 8 = false := by
      rw [regMapped, regSplit_lnkCrc]
      simp only [Nat.reduceDiv, Nat.reduceMul, regOpen_lnk_disabled hen, Bool.and_false]
    have hfx := registerWrite_unmapped (size := .b8) hact v.toNat (regSplit_lnkCrc l) hm
    exact exec_registerWrite (by rw [toNat_lnkCrc, hfx]) (unmappedReg_stall ..)
  · intro s a addr v size blk off hact hs hcase
    have hm : regMapped s.sled a addr.toNat size.bytes = false := by
      rw [regMapped, hs]
      rcases hcase with h | h | h | h <;> simp [h, AccSize.bytes]
    have hfx := registerWrite_unmapped (size := size) hact v.toNat hs hm
    exact exec_registerWrite hfx (unmappedReg_stall ..)
  · intro s a l g hact hs hp hrange hg u
    have hdiv : g.toNat / 2 ^ 40 = moduleId s.sled := by have := l.isLt; omega
    have hmod : g.toNat % 2 ^ 40 = l.toNat := by have := l.isLt; omega
    have hun : isUnmapped s.sled a l.toNat = true := by
      rw [isUnmapped, hs, if_neg (by simp), if_neg (by omega), hp]
      rfl
    have hfx (w : Bool) : fxUnmappedAccess a g.toNat w s.sled = if w then u else returnVal (whoAgent u a) 0 u
      := by
      rw [fxUnmappedAccess, hdiv, hmod, if_neg (by simp [hact, hun])]
      simp only [hs]
      rfl
    exact ⟨exec_unmappedAccess (hfx true), exec_unmappedAccess (hfx false)⟩
  · intro s a addr n hm
    rw [regLoad]
    split
    · simp [hm]
    · rfl
  · intro s a k p hact hreach hrun hp hallow hstrap hfree hbit
    have hfx : fxGlbCompatWrite a k false s.sled = kt3Clamp (rSetField bGLB 0x20 0 1 (b2n k) s.sled) := by
      rw [fxGlbCompatWrite, regAccess_glb_of hact hreach hrun]
      have hm0 : bitAt 18446744073709551615 0 = true := by decide
      simp [compatWrite, hfree, hbit, hp, hallow, hstrap, compat_bits, hm0, -BitVec.getLsbD_eq_getElem]
    exact exec_glbCompatWrite hfx
  · intro s a k hact hreach hrun hstrap hfree hbit
    have hfx (l : Bool) : fxGlbCompatWrite a k l s.sled = if l then rSetField bGLB 0x20 63 1 1 s.sled else
      s.sled := by
      rw [fxGlbCompatWrite, regAccess_glb_of hact hreach hrun]
      have hm63 : bitAt 18446744073709551615 63 = true := by decide
      simp [compatWrite, hfree, hbit, hstrap, compat_bits, hm63, -BitVec.getLsbD_eq_getElem]
    exact ⟨exec_glbCompatWrite (hfx false), exec_glbCompatWrite (hfx true)⟩
  · intro s a k l hact hreach hrun hbit
    have hfx : fxGlbCompatWrite a k l s.sled = lockHit s.sled := by
      rw [fxGlbCompatWrite, regAccess_glb_of hact hreach hrun]
      have hm0 : bitAt 18446744073709551615 0 = true := by decide
      simp [compatWrite, hbit, hm0]
    exact exec_glbCompatWrite hfx
  · intro s hstrap
    rw [kt3, hstrap, Bool.true_or]

end Sys2Proof.Machine

/-! ## Channels, banks and their updates (spec/06) -/
namespace Sys2Proof.Machine
open Sys2Proof

/-- A command whose effect is `f` answers with the sled that `f` gives. -/
theorem lift_next {f : Sled → Sled} {s : State} {u : Sled} (h : f s.sled = u) :
    lift f s = .next { s with sled := u } := by
  rw [lift, h]

@[simp] theorem getChan_updChan_same (st c : Nat) (f : Chan → Chan) (s : Sled) :
    getChan (updChan st c f s) st c = f (getChan s st c) := fget_fset_same _ _ _ _

theorem getChan_updChan_other {st c st' c' : Nat} (f : Chan → Chan) (s : Sled) (h : chanKey st' c' ≠ chanKey
    st c) :
    getChan (updChan st c f s) st' c' = getChan s st' c' := fget_fset_other _ _ _ h

theorem updChan_frame (st c : Nat) (f : Chan → Chan) (s : Sled) :
    updChan st c f s = { s with chan := (updChan st c f s).chan } := rfl

/-- A bank of a channel whose table has one bank set. -/
theorem getBt_set (ch : Chan) (b k : Nat) (x : BankT) :
    getBt { ch with bank := fset ch.bank {} b x } k = if k = b then x else getBt ch k := by
  by_cases h : k = b
  · subst h
    rw [if_pos rfl]
    exact fget_fset_same _ _ _ _
  · rw [if_neg h]
    exact fget_fset_other _ _ _ h

theorem getChan_updBt_same (st c b : Nat) (f : BankT → BankT) (s : Sled) :
    getChan (updBt st c b f s) st c =
      { getChan s st c with bank := fset (getChan s st c).bank {} b (f (getBt (getChan s st c) b)) } :=
        fget_fset_same _ _ _ _

@[simp] theorem getBt_updBt_same (st c b : Nat) (f : BankT → BankT) (s : Sled) :
    getBt (getChan (updBt st c b f s) st c) b = f (getBt (getChan s st c) b) := by
  rw [getChan_updBt_same, getBt_set, if_pos rfl]

theorem getBt_updBt_other {st c b k : Nat} (f : BankT → BankT) (s : Sled) (h : k ≠ b) :
    getBt (getChan (updBt st c b f s) st c) k = getBt (getChan s st c) k := by
  rw [getChan_updBt_same, getBt_set, if_neg h]

/-! ### Urgency -/

theorem slotLen_pos (bin : Nat) : 0 < slotLen bin := by
  unfold slotLen
  repeat' split
  all_goals decide

theorem clocksIn_mono {bin t t' : Nat} (h : t ≤ t') : clocksIn bin t ≤ clocksIn bin t' := Nat.div_le_div_right
    h

theorem urgencyOf_mono (s : Sled) (st p : Nat) {age age' : Nat} (h : age ≤ age') :
    urgencyOf s st p age ≤ urgencyOf s st p age' := by
  have := clocksIn_mono (bin := binOf s st) h
  simp only [urgencyOf]
  split
  · exact le_rfl
  · repeat' split
    all_goals omega

theorem inherit_getElem? (q : List Req) (i : Nat) :
    (inherit_ q)[i]? = (q[i]?).map fun r =>
      { r with u := (inherit_ (q.drop (i + 1))).foldl (fun u x => if reqOverlap r x then max u x.u else u) r.u
        } := by
  induction q generalizing i with
  | nil => simp [inherit_]
  | cons r q ih =>
    cases i with
    | zero => simp [inherit_]
    | succ i => simpa [inherit_] using ih i

/-- The urgency that a request takes over is at least its own. -/
theorem le_foldl_inherit (r : Req) (l : List Req) (u : Nat) :
    u ≤ l.foldl (fun u x => if reqOverlap r x then max u x.u else u) u := by
  induction l generalizing u with
  | nil => exact le_rfl
  | cons x l ih =>
    refine le_trans ?_ (ih _)
    dsimp only
    split
    · exact Nat.le_max_left ..
    · exact le_rfl

/-- A request takes over the urgency of every younger one that it overlaps. -/
theorem le_foldl_inherit_of_mem {r x : Req} {l : List Req} (u : Nat) (hx : x ∈ l) (ho : reqOverlap r x = true)
    :
    x.u ≤ l.foldl (fun u x => if reqOverlap r x then max u x.u else u) u := by
  induction l generalizing u with
  | nil => cases hx
  | cons y l ih =>
    rcases List.mem_cons.1 hx with rfl | hx
    · refine le_trans ?_ (le_foldl_inherit r l _)
      dsimp only
      rw [if_pos ho]
      exact Nat.le_max_right ..
    · exact ih _ hx

theorem inherit_overlap {q : List Req} {i j : Nat} {x y a b : Req} (hij : i < j) (hx : q[i]? = some x) (hy :
    q[j]? = some y)
    (ho : reqOverlap x y = true) (ha : (inherit_ q)[i]? = some a) (hb : (inherit_ q)[j]? = some b) :
    b.u ≤ a.u ∧ a = { x with u := a.u } := by
  rw [inherit_getElem?, hx] at ha
  obtain rfl := Option.some.inj ha
  refine ⟨?_, rfl⟩
  have hmem : (inherit_ (q.drop (i + 1)))[j - (i + 1)]? = some b := by
    rw [inherit_getElem?, hy] at hb
    rw [inherit_getElem?, List.getElem?_drop, show i + 1 + (j - (i + 1)) = j by omega, hy, List.drop_drop,
      show i + 1 + (j - (i + 1) + 1) = j + 1 by omega]
    exact hb
  have hov : reqOverlap x b = true := by
    rw [inherit_getElem?, hy] at hb
    obtain rfl := Option.some.inj hb
    exact ho
  exact le_foldl_inherit_of_mem _ (List.mem_of_getElem? hmem) hov

/-! ### The oldest request first -/

/-- What a slot's choice among the requests of one urgency has seen: the first of the requests that pass. -/
def pickBest (q : List Req) (u : Nat) (p : Nat → Req → Bool) (a : Option Nat) (i : Nat) : Option Nat :=
  match q[i]? with
  | none => a
  | some r =>
    if r.u ≠ u || !p i r then a
    else match a.bind fun j => q[j]? with
      | none => some i
      | some x => if r.at_ < x.at_ ∨ (r.at_ = x.at_ ∧ r.port < x.port) then some i else a

/-- The choice is right for the requests below `n`. -/
def IsBest (q : List Req) (u : Nat) (p : Nat → Req → Bool) (n : Nat) : Option Nat → Prop
  | none => ∀ j x, j < n → q[j]? = some x → x.u = u → p j x = false
  | some i => ∃ r, q[i]? = some r ∧ r.u = u ∧ p i r = true ∧
      ∀ j x, j < n → q[j]? = some x → x.u = u → p j x = true → r.at_ < x.at_ ∨ (r.at_ = x.at_ ∧ r.port ≤
        x.port)

theorem isBest_pickBest {q : List Req} {u : Nat} {p : Nat → Req → Bool} {n : Nat} {a : Option Nat} (h : IsBest
    q u p n a) :
    IsBest q u p (n + 1) (pickBest q u p a n) := by
  have hlt {j : Nat} : j < n + 1 → j < n ∨ j = n := by omega
  unfold pickBest
  split
  case h_1 hn =>
    cases a with
    | none =>
      intro j x hj hx
      rcases hlt hj with hj | rfl
      · exact h j x hj hx
      · simp [hn] at hx
    | some i =>
      obtain ⟨r, hr, hu, hp, hbest⟩ := h
      refine ⟨r, hr, hu, hp, fun j x hj hx => ?_⟩
      rcases hlt hj with hj | rfl
      · exact hbest j x hj hx
      · simp [hn] at hx
  case h_2 r hn =>
    split
    case isTrue hno =>
      have hno : r.u = u → p n r = false := by simpa [← imp_iff_not_or] using hno
      cases a with
      | none =>
        intro j x hj hx hxu
        rcases hlt hj with hj | rfl
        · exact h j x hj hx hxu
        · obtain rfl := Option.some.inj (hn.symm.trans hx)
          exact hno hxu
      | some i =>
        obtain ⟨r', hr, hu, hp, hbest⟩ := h
        refine ⟨r', hr, hu, hp, fun j x hj hx hxu hxp => ?_⟩
        rcases hlt hj with hj | rfl
        · exact hbest j x hj hx hxu hxp
        · obtain rfl := Option.some.inj (hn.symm.trans hx)
          simp [hno hxu] at hxp
    case isFalse hyes =>
      obtain ⟨hu, hp⟩ : r.u = u ∧ p n r = true := by simpa using hyes
      cases a with
      | none =>
        refine ⟨r, hn, hu, hp, fun j x hj hx hxu hxp => ?_⟩
        rcases hlt hj with hj | rfl
        · simp [h j x hj hx hxu] at hxp
        · obtain rfl := Option.some.inj (hn.symm.trans hx)
          exact .inr ⟨rfl, le_rfl⟩
      | some i =>
        obtain ⟨r', hr, hu', hp', hbest⟩ := h
        simp only [Option.bind_some, hr]
        split
        case isTrue hless =>
          refine ⟨r, hn, hu, hp, fun j x hj hx hxu hxp => ?_⟩
          rcases hlt hj with hj | rfl
          · have := hbest j x hj hx hxu hxp
            omega
          · obtain rfl := Option.some.inj (hn.symm.trans hx)
            exact .inr ⟨rfl, le_rfl⟩
        case isFalse hless =>
          refine ⟨r', hr, hu', hp', fun j x hj hx hxu hxp => ?_⟩
          rcases hlt hj with hj | rfl
          · exact hbest j x hj hx hxu hxp
          · obtain rfl := Option.some.inj (hn.symm.trans hx)
            omega

theorem isBest_foldl (q : List Req) (u : Nat) (p : Nat → Req → Bool) (n : Nat) :
    IsBest q u p n ((List.range n).foldl (pickBest q u p) none) := by
  induction n with
  | zero => exact fun j x hj => absurd hj (Nat.not_lt_zero j)
  | succ n ih =>
    rw [List.range_succ, List.foldl_append]
    exact isBest_pickBest ih

/-- A slot's pick among the requests of an urgency, with the choice by its name. -/
theorem pickReq_eq (s : Sled) (st c t u : Nat) :
    pickReq s st c t u =
      let q := (getChan s st c).q
      match (List.range q.length).foldl (pickBest q u (colReady s st c t)) none with
      | some i => .col i
      | none =>
        match (List.range q.length).foldl (pickBest q u fun _ r => actReady s st c t r || takeReady s st c r)
          none with
        | some i =>
          match q[i]? with
          | some r => if actReady s st c t r then .act i else .take r.bank true
          | none => .idle
        | none => .idle := rfl

theorem lt_length_of_getElem? {α : Type} {l : List α} {i : Nat} {x : α} (h : l[i]? = some x) : i < l.length :=
  (List.getElem?_eq_some_iff.1 h).1

theorem pickReq_col {s : Sled} {st c t u i : Nat} (h : pickReq s st c t u = .col i) :
    ∃ r, (getChan s st c).q[i]? = some r ∧ r.u = u ∧ colReady s st c t i r = true ∧
      ∀ j x, (getChan s st c).q[j]? = some x → x.u = u → colReady s st c t j x = true →
        r.at_ < x.at_ ∨ (r.at_ = x.at_ ∧ r.port ≤ x.port) := by
  have hbest := isBest_foldl (getChan s st c).q u (colReady s st c t) (getChan s st c).q.length
  rw [pickReq_eq] at h
  dsimp only at h
  split at h
  case h_1 k hk =>
    obtain rfl := SlotAct.col.inj h
    rw [hk] at hbest
    obtain ⟨r, hr, hu, hp, hall⟩ := hbest
    exact ⟨r, hr, hu, hp, fun j x hx => hall j x (lt_length_of_getElem? hx) hx⟩
  case h_2 =>
    repeat' split at h
    all_goals cases h

theorem pickReq_act {s : Sled} {st c t u i : Nat} (h : pickReq s st c t u = .act i) {j : Nat} {x : Req}
    (hx : (getChan s st c).q[j]? = some x) (hu : x.u = u) : colReady s st c t j x = false := by
  have hbest := isBest_foldl (getChan s st c).q u (colReady s st c t) (getChan s st c).q.length
  rw [pickReq_eq] at h
  dsimp only at h
  split at h
  case h_1 => cases h
  case h_2 hnone =>
    rw [hnone] at hbest
    exact hbest j x (lt_length_of_getElem? hx) hx hu

/-! ### What a slot sees of the channels: the channel of each place, not the list -/

section congr

variable {s : Sled} {m : FMap Chan} (h : ∀ st c, getChan { s with chan := m } st c = getChan s st c)
include h
theorem unreadable_chan {st c r} : unreadable { s with chan := m } st c r = unreadable s st c r := by
  simp only [unreadable, h]

theorem rankOn_chan {st c b} : rankOn { s with chan := m } st c b = rankOn s st c b := by
  simp only [rankOn, h, unreadable_chan h]

theorem rankHeld_chan {st c r} : rankHeld { s with chan := m } st c r = rankHeld s st c r := by
  simp only [rankHeld, h]

theorem rowsOpen_chan {st c b} : rowsOpen { s with chan := m } st c b = rowsOpen s st c b := by
  simp only [rowsOpen, h]
  rfl

theorem chTime_chan {st c} : chTime { s with chan := m } st c = chTime s st c := by
  simp only [chTime, h]

theorem nextSlot_chan {st c} : nextSlot { s with chan := m } st c = nextSlot s st c := by
  simp only [nextSlot, h]
  rfl

theorem inPauseSlot_chan {st c} : inPauseSlot { s with chan := m } st c = inPauseSlot s st c := by
  simp only [inPauseSlot, h, chTime_chan h]

theorem chanFree_chan {st c} : chanFree { s with chan := m } st c = chanFree s st c := by
  simp only [chanFree, h, inPauseSlot_chan h]

theorem bankIdle_chan {st c b t} : bankIdle { s with chan := m } st c b t = bankIdle s st c b t := by
  simp only [bankIdle, h, rowsOpen_chan h, rankOn_chan h]
  rfl

theorem bankIdleFor_chan {st c b t} : reopenAct.bankIdleFor { s with chan := m } st c b t = reopenAct.bankIdleFor s st c b t := by
  simp only [reopenAct.bankIdleFor, h, rankOn_chan h]
  rfl

theorem reopenAct_chan {st c t} : reopenAct { s with chan := m } st c t = reopenAct s st c t := by
  simp only [reopenAct, h, chanFree_chan h, bankIdleFor_chan h]

theorem colReady_chan {st c t i r} : colReady { s with chan := m } st c t i r = colReady s st c t i r := by
  simp only [colReady, h, rankOn_chan h]

theorem actReady_chan {st c t r} : actReady { s with chan := m } st c t r = actReady s st c t r := by
  simp only [actReady, h, bankIdle_chan h]
  rfl

theorem takeReady_chan {st c r} : takeReady { s with chan := m } st c r = takeReady s st c r := by
  simp only [takeReady, h, rowsOpen_chan h, rankOn_chan h]

theorem pickReq_chan {st c t u} : pickReq { s with chan := m } st c t u = pickReq s st c t u := by
  simp only [pickReq, h, colReady_chan h, actReady_chan h, takeReady_chan h]

theorem forcedAct_chan {st c t} : forcedAct { s with chan := m } st c t = forcedAct s st c t := by
  simp only [forcedAct, h, bankIdle_chan h, rowsOpen_chan h, rankOn_chan h]

theorem firstAct_chan {st c t} : firstAct { s with chan := m } st c t = firstAct s st c t := by
  simp only [firstAct, h, forcedAct_chan h, pickReq_chan h]

theorem progSlot_chan {st c} : progSlot { s with chan := m } st c = progSlot s st c := by
  simp only [progSlot, h, chanFree_chan h, nextSlot_chan h, firstAct_chan h]

theorem eligible_chan {st c t b} : eligible { s with chan := m } st c t b = eligible s st c t b := by
  simp only [eligible, h, bankIdle_chan h]
  rfl

theorem bankHeld_chan {k} : bankHeld { s with chan := m } k = bankHeld s k := by
  simp only [bankHeld, h, unreadable_chan h]
  rfl

theorem slotsFree_chan {st x} : slotsFree { s with chan := m } st x = slotsFree s st x := by
  simp only [slotsFree, h, progSlot_chan h]
  rfl

theorem translate_chan {a} : translate { s with chan := m } a = translate s a := by
  simp only [translate, h]
  rfl

theorem placeOf_chan {a} : placeOf { s with chan := m } a = placeOf s a := by
  simp only [placeOf, h, translate_chan h]
  rfl

theorem heldRead_chan {p} : heldRead { s with chan := m } p = heldRead s p := by
  simp only [heldRead, h, rankHeld_chan h]

theorem fetchHeld_chan {p i} : fetchHeld { s with chan := m } p i = fetchHeld s p i := by
  simp only [fetchHeld, h, placeOf_chan h, heldRead_chan h]

theorem instrAt_chan {p i} : instrAt { s with chan := m } p i = instrAt s p i := by
  simp only [instrAt, h, placeOf_chan h, unreadable_chan h]
  rfl

theorem bcsWants_chan {st c} : bcsWants { s with chan := m } st c = bcsWants s st c := by
  simp only [bcsWants, h, fetchHeld_chan h, instrAt_chan h, slotsFree_chan h, bankHeld_chan h]
  rfl

theorem arbitrate_chan {st c t} : arbitrate { s with chan := m } st c t = arbitrate s st c t := by
  have he : eligible { s with chan := m } st c t = eligible s st c t := funext fun _ => eligible_chan h
  simp only [arbitrate, h, firstAct_chan h, reopenAct_chan h, bcsWants_chan h, pickReq_chan h, he]

end congr

end Sys2Proof.Machine

/-! ## Requests, their urgency and the oldest row hit (O13: spec/05, R96; spec/06, R109 to R113) -/
namespace Sys2Proof.Machine
open Sys2Proof

/-- The request that a port's access makes. -/
def requestOf (s : Sled) (port : Nat) (wr : Option (BitVec 32 × BitVec 256)) (d : Coord) : Req :=
  { port := port, bank := d.rank * 16 + d.bank, row := d.row, col := d.col, wr := wr, at_ := chTime s d.stack d.chan,
    u := if port = 11 then 3 else 0, phys := d.phys / 32 * 32
    join := mayJoin (getChan s d.stack d.chan) (d.rank * 16 + d.bank) d.row (chTime s d.stack d.chan) }

theorem fxRequestEnqueue_enters {s : Sled} {port addr : Nat} {wr : Option (BitVec 32 × BitVec 256)} {c d :
    Coord} {n : Nat}
    (ht : translate s addr = some (c, n)) (hd : c.redirected s = d) (hnoc : islRuns s iNOC = true)
    (hmc : islRuns s (iMC d.stack) = true) (hroom : queueRoom (getChan s d.stack d.chan).q port = true)
    (hread : unreadable s d.stack d.chan d.rank = false ∨ rankHeld s d.stack d.chan d.rank = true) :
    fxRequestEnqueue port addr wr s = updChan d.stack d.chan
      (fun ch => { ch with q := inherit_ (ch.q ++ [requestOf s port wr d]) }) s := by
  have hans : ¬ (unreadable s d.stack d.chan d.rank && !rankHeld s d.stack d.chan d.rank) = true := by
    rcases hread with h | h <;> simp [h]
  simp only [fxRequestEnqueue, hnoc, ht, hd, hmc, hroom, Bool.not_true, Bool.false_eq_true, if_false, if_neg
    hans]
  rfl

/-- Settles O13: the queue by its update, urgency by the order of ages, the slot's choice by the fold over the queue. -/
theorem requestsQueueAndTheOldestRowHitGoesFirst : Obligations.RequestsQueueAndTheOldestRowHitGoesFirst := by
  refine ⟨?_, ?_, ?_, ?_, ?_, ?_, ?_, ?_, ?_⟩
  · intro s port addr wr c d n ht hd hnoc hmc hroom hread
    have hfx := fxRequestEnqueue_enters (wr := wr) ht hd hnoc hmc hroom hread
    refine ⟨{ s with sled := fxRequestEnqueue port addr.toNat wr s.sled }, requestOf s.sled port wr d, rfl,
      rfl, ?_⟩
    rw [hfx]
    exact ⟨congrArg Chan.q (getChan_updChan_same ..), rfl, rfl, rfl, rfl, rfl, rfl, rfl, rfl, rfl,
      fun st k hk => getChan_updChan_other _ _ hk⟩
  · intro s port addr wr c n ht hmc hroom
    have hfx : fxRequestEnqueue port addr.toNat wr s.sled = s.sled := by
      simp [fxRequestEnqueue, ht, hmc, hroom]
    exact lift_next hfx
  · intro s port addr d ht hnoc u
    have hfx (wr : Option (BitVec 32 × BitVec 256)) :
        fxRequestEnqueue port addr.toNat wr s.sled = refuseReq port addr.toNat wr s.sled := by
      simp [fxRequestEnqueue, ht, hnoc]
    exact ⟨lift_next (hfx (some d)),
      lift_next (hfx none)⟩
  · intro q i j x y a b
    exact inherit_overlap
  · intro s st c i r hr a u
    have hfx : fxUrgencyRaise st c i s.sled = u := by
      simp only [fxUrgencyRaise, hr]
      rfl
    refine ⟨lift_next hfx, Nat.le_max_left .., fun hp => ?_, fun t ht => ?_⟩
    · exact le_trans (by rw [urgencyOf, if_pos hp]) (Nat.le_max_right ..)
    · exact max_le_max le_rfl (urgencyOf_mono _ _ _ (by omega))
  · intro s st p htgt hbin
    have hp : p.val ≠ 11 := by omega
    simp only [urgencyOf, htgt, hbin, if_neg hp]
    decide
  · intro s st c b row hrow
    have hfx : fxBatchWindowClose st c b s.sled = updBt st c b (fun x => { x with closed := true }) s.sled :=
      if_pos (by rw [hrow]; rfl)
    exact lift_next hfx
  · intro s st c t u i
    exact pickReq_col
  · intro s st c t u i h j x
    exact pickReq_act h

end Sys2Proof.Machine

/-! ## The command slot and refresh debt (O14: spec/06, R106 to R123) -/
namespace Sys2Proof.Machine
open Sys2Proof

/-! ### What a slot chooses -/

theorem SlotAct.idle_orElse (b : SlotAct) : SlotAct.idle.orElse_ b = b := if_pos rfl

theorem SlotAct.orElse_of_ne {a : SlotAct} (h : a ≠ .idle) (b : SlotAct) : a.orElse_ b = a := if_neg h

theorem foldl_mostOwed {ch : Chan} {l : List Nat} (h : ∀ x ∈ l, (getBt ch x).owed = 8) {a : Nat} (ha : (getBt
    ch a).owed = 8) :
    l.foldl (fun best b => match best with
      | none => some b
      | some a => if (getBt ch a).owed < (getBt ch b).owed then some b else best) (some a) = some a := by
  induction l with
  | nil => rfl
  | cons b l ih =>
    have hb := h b List.mem_cons_self
    rw [List.foldl_cons]
    dsimp only
    rw [if_neg (by omega)]
    exact ih fun x hx => h x (List.mem_cons_of_mem _ hx)

/-- Among banks that all owe eight the first is taken. -/
theorem mostOwed_eq {ch : Chan} {p : Nat → Bool} (h : ∀ x < 64, p x = true → (getBt ch x).owed = 8) :
    mostOwed ch p = (List.range 64).find? p := by
  rw [← List.head?_filter, mostOwed]
  have hall : ∀ x ∈ (List.range 64).filter p, (getBt ch x).owed = 8 := fun x hx => by
    obtain ⟨hx, hp⟩ := List.mem_filter.1 hx
    exact h x (List.mem_range.1 hx) hp
  generalize (List.range 64).filter p = l at hall ⊢
  cases l with
  | nil => rfl
  | cons a l => exact foldl_mostOwed (fun x hx => hall x (List.mem_cons_of_mem _ hx)) (hall a
    List.mem_cons_self)

theorem mostOwed_none {ch : Chan} {p : Nat → Bool} (h : ∀ x < 64, p x = false) : mostOwed ch p = none := by
  rw [mostOwed, List.filter_eq_nil_iff.2 fun x hx => by simp [h x (List.mem_range.1 hx)]]
  rfl

/-- With no pause due, a bank's refresh is forced where it owes eight. -/
theorem mustRefresh_of_quiet {ch : Chan} (hd : ch.due = 0) (hx : ch.dueX = false) (b : Nat) :
    mustRefresh ch b = decide ((getBt ch b).owed = 8) := by
  simp [mustRefresh, hd, hx]

theorem pickReq_single {s : Sled} {st c : Nat} {r : Req} (hq : (getChan s st c).q = [r]) (t u : Nat) :
    pickReq s st c t u = if r.u ≠ u then .idle
      else if colReady s st c t 0 r then .col 0
      else if actReady s st c t r then .act 0
      else if takeReady s st c r then .take r.bank true else .idle := by
  rw [pickReq_eq]
  simp only [hq, List.length_singleton, List.range_one, List.foldl_cons, List.foldl_nil, pickBest,
    List.getElem?_cons_zero, Option.bind_none]
  by_cases hu : r.u = u
  · by_cases hc : colReady s st c t 0 r = true
    · simp [hu, hc]
    · by_cases ha : actReady s st c t r = true
      · simp [hu, hc, ha]
      · by_cases ht : takeReady s st c r = true <;> simp [hu, hc, ha, ht]
  · simp [hu]

/-- A bank that owes eight and is idle is refreshed first. -/
theorem arbitrate_forced {s : Sled} {st c b t : Nat} {ch : Chan} (hch : ch = getChan s st c) (hd : ch.due = 0)
    (hx : ch.dueX = false) (hr : ch.rdyCmd ≤ t) (hb : b < 64) (howed : (getBt ch b).owed = 8)
    (hfirst : ∀ x < b, (getBt ch x).owed ≠ 8) (hidle : bankIdle s st c b t = true) (href : ch.rdyRef ≤ t) :
    arbitrate s st c t = .ref b true := by
  have hforced : forcedAct s st c t = .ref b true := by
    have hfind : mostOwed ch (fun b => mustRefresh ch b && ((bankIdle s st c b t && ch.rdyRef ≤ t) ||
        rowsOpen s st c b ≠ 0 && rankOn s st c b)) = some b := by
      rw [mostOwed_eq fun x _ hp => by simpa [mustRefresh_of_quiet hd hx] using (Bool.and_eq_true_iff.1 hp).1]
      refine List.find?_range_eq_some.2 ⟨by simp [mustRefresh_of_quiet hd hx, howed, hidle, href],
        List.mem_range.2 hb, ?_⟩
      intro x hxb
      simp [mustRefresh_of_quiet hd hx, hfirst x hxb]
    simp only [forcedAct, ← hch, hfind]
    simp [hidle, href]
  rw [arbitrate, ← hch, if_neg (by omega), firstAct, hforced]
  rfl

/-- With no refresh owed, no row to reopen and no program, a slot goes to the one request queued. -/
theorem arbitrate_single {s : Sled} {st c t : Nat} {ch : Chan} {r : Req} {a : SlotAct} (hch : ch = getChan s
    st c) (hd : ch.due = 0)
    (hx : ch.dueX = false) (hr : ch.rdyCmd ≤ t) (howed : ∀ x < 64, (getBt ch x).owed = 0)
    (hreop : ∀ x < 64, (getBt ch x).reop = 0) (hbcs : bcsWants s st c = false) (hu : r.u ≤ 3) (hne : a ≠
      .idle)
    (hpick : ∀ u, pickReq s st c t u = if r.u ≠ u then .idle else a) : arbitrate s st c t = a := by
  have hforced : forcedAct s st c t = .idle := by
    have hnone : mostOwed ch (fun b => mustRefresh ch b && ((bankIdle s st c b t && ch.rdyRef ≤ t) ||
        rowsOpen s st c b ≠ 0 && rankOn s st c b)) = none := mostOwed_none fun x hx' => by
      simp [mustRefresh_of_quiet hd hx, howed x hx']
    simp only [forcedAct, ← hch, hnone]
  have hreopen : reopenAct s st c t = .idle := by
    have hfind : (List.range 64).find? (fun b => (getBt ch b).reop ≠ 0 && !(getBt ch b).taken &&
        reopenAct.bankIdleFor s st c b t && !mustRefresh ch b) = none := by
      refine List.find?_eq_none.2 fun x hx' => ?_
      simp [hreop x (List.mem_range.1 hx')]
    simp only [reopenAct, ← hch, hfind]
    split <;> rfl
  have hopp : mostOwed ch (eligible s st c t) = none := mostOwed_none fun x hx' => by
    simp [eligible, ← hch, howed x hx']
  simp only [arbitrate, ← hch, if_neg (Nat.not_lt.2 hr), firstAct, hforced, hreopen, hbcs, hopp,
    SlotAct.idle_orElse,
    Bool.false_eq_true, if_false, hpick]
  have hcases : r.u = 3 ∨ r.u = 2 ∨ r.u = 1 ∨ r.u = 0 := by omega
  rcases hcases with h | h | h | h <;> simp [h, SlotAct.orElse_, hne]

/-! ### What a slot does -/

/-- What the choice of a slot does. -/
def slotDo (st c t : Nat) (s : Sled) : SlotAct → Sled
  | .ref b f => doRefresh st c b t f (slotTick st c t s)
  | .take b u => doTake st c b t u (slotTick st c t s)
  | .act i => doAct st c i t (slotTick st c t s)
  | .col i => doCol st c i t (slotTick st c t s)
  | .reopen b => doReopen st c b t (slotTick st c t s)
  | .program => doProgram st c t s
  | .idle => slotTick st c t s

theorem landReads_of_none {s : Sled} {st c : Nat} (h : ∀ e ∈ (getChan s st c).retry, e.out = none) (t : Nat) :
    landReads st c t s = s := by
  simp only [landReads]
  refine if_pos ?_
  simpa using fun e he => by simp [h e he]

section slot

variable {s : Sled} {st c t : Nat} {ch : Chan}

/-- A slot in a replay or in a pause. -/
theorem slot_replay (h : slotAt s st c ch t) {r : Replay} (hr : ch.replay = some r) :
    fxChannelSlotArbitrate st c s =
      if r.phase = 2 ∧ ch.rdyCmd ≤ t then replayOne st c t r (slotTick st c t s) else slotTick st c t s := by
  obtain ⟨rfl, rfl, hrun, hsr, hout⟩ := h
  rw [fxChannelSlotArbitrate, if_neg (by simp [hrun, hsr])]
  simp only [landReads_of_none hout, hr]

theorem slot_pause (h : slotAt s st c ch t) (hr : ch.replay = none) (hp : ch.pause.isSome = true) :
    fxChannelSlotArbitrate st c s = slotTick st c t s := by
  obtain ⟨rfl, rfl, hrun, hsr, hout⟩ := h
  rw [fxChannelSlotArbitrate, if_neg (by simp [hrun, hsr])]
  simp only [landReads_of_none hout, hr, hp, if_true]

theorem pauseReady_of_quiet (hd : (getChan s st c).due = 0) (hx : (getChan s st c).dueX = false) :
    pauseReady s st c = false := by
  simp [pauseReady, hd, hx]

/-- Setting a channel to what it is changes no channel. -/
theorem getChan_updChan_self (q : List Req) (hq : q = (getChan s st c).q) (st' c' : Nat) :
    getChan (updChan st c (fun x => { x with q := q }) s) st' c' = getChan s st' c' := by
  by_cases h : chanKey st' c' = chanKey st c
  · subst hq
    simp only [getChan, updChan, h]
    exact fget_fset_same ..
  · exact getChan_updChan_other _ _ h

/-- The state in which a free slot chooses. -/
def slotAged (s : Sled) (st c : Nat) (ch : Chan) : Sled := updChan st c (fun x => { x with q := ch.q }) s

theorem slot_free (h : slotFree s st c ch t) :
    fxChannelSlotArbitrate st c s = slotDo st c t (slotAged s st c ch) (arbitrate s st c t) := by
  obtain ⟨⟨rfl, rfl, hrun, hsr, hout⟩, hr, hp, hd, hx, hcmd, hreop, hq⟩ := h
  rw [fxChannelSlotArbitrate, if_neg (by simp [hrun, hsr])]
  have hself := getChan_updChan_self (s := s) (st := st) (c := c) _ rfl
  have harb : arbitrate (slotAged s st c (getChan s st c)) st c (nextSlot s st c) = arbitrate s st c (nextSlot
    s st c) :=
    arbitrate_chan hself
  simp only [landReads_of_none hout, hr, hp, Option.isSome_none, Bool.false_eq_true, if_false,
    pauseReady_of_quiet hd hx, hq]
  rw [← harb]
  simp only [slotAged]
  generalize arbitrate _ st c (nextSlot s st c) = a
  cases a <;> rfl

end slot


/-! ### What the commands of a slot do to their channel -/

theorem getChan_slotAged (s : Sled) (st c st' c' : Nat) :
    getChan (slotAged s st c (getChan s st c)) st' c' = getChan s st' c' := getChan_updChan_self _ rfl st' c'

@[simp] theorem getChan_pushRetry (st c : Nat) (e : RetryEnt) (s : Sled) :
    getChan (pushRetry st c e s) st c = { getChan s st c with retry := (e :: (getChan s st c).retry).take 32 }
      :=
  getChan_updChan_same ..

@[simp] theorem getChan_slotTick (st c t : Nat) (s : Sled) :
    getChan (slotTick st c t s) st c = { getChan s st c with clk := t } := getChan_updChan_same ..

@[simp] theorem getChan_bumpMc (st c k st' c' : Nat) (s : Sled) : getChan (bumpMc st c k s) st' c' = getChan s
    st' c' := rfl

theorem bumpMc_frame (st c k : Nat) (s : Sled) : bumpMc st c k s = { s with regs := (bumpMc st c k s).regs }
    := rfl

theorem rGet_bumpMc (st c k : Nat) (s : Sled) : rGet (bumpMc st c k s) (bMC st) (0x1000 + 0x80 * c + 8 * k) =
    min (rGet s (bMC st) (0x1000 + 0x80 * c + 8 * k) + 1) (if kt3 s then 0xFFFF else 0xFFFFFFFF) := rGet_bumpN
      ..

theorem getChan_doRefresh (st c b t : Nat) (f : Bool) (s : Sled) :
    getChan (doRefresh st c b t f s) st c = { getChan s st c with
      retry := ({ ranks := 2 ^ (b / 16), cmd := .ref b } :: (getChan s st c).retry).take 32
      rdyRef := t + tRREFD
      bank := fset (getChan s st c).bank {} b (giveBack s st c b
        { getBt (getChan s st c) b with owed := (getBt (getChan s st c) b).owed - 1, rdyAct := t + tRFCpb }) }
          := by
  have hf : getChan (doRefresh st c b t f s) st c = getChan (doRefresh st c b t false s) st c := by
    cases f <;> rfl
  rw [hf]
  simp only [doRefresh, Bool.false_eq_true, if_false, getChan_updChan_same, getChan_updBt_same,
    getChan_pushRetry]
  rfl

theorem getChan_doAct {st c i t : Nat} {s : Sled} {r : Req} (hq : (getChan s st c).q[i]? = some r) :
    getChan (doAct st c i t s) st c = { getChan s st c with
      retry := ({ ranks := 2 ^ (r.bank / 16), cmd := .act r.bank r.row } :: (getChan s st c).retry).take 32
      rdyAct := t + tRRD
      rdyOpen := max (getChan s st c).rdyOpen (t + tRRD)
      q := markBatch (computeOpen s st c r.bank) i r 0 8 (getChan s st c).q
      bank := fset (getChan s st c).bank {} r.bank { getBt (getChan s st c) r.bank with
        row := some r.row, joined := 0, actAt := t, closed := false, rdyCol := t + tRCD } } := by
  simp only [doAct, hq, getChan_updChan_same, getChan_updBt_same, getChan_pushRetry]
  rfl

/-- A word that is readable and has no error reads as it is stored. -/
theorem readRaw_eClean {p : Nat} {s : Sled} (hecc : eccAt s (p / 32 * 32) = eClean)
    (hun : unreadable s (coordOf (p / 32 * 32)).stack (coordOf (p / 32 * 32)).chan (coordOf (p / 32 *
      32)).rank = false) :
    readRaw p s = ((memRead s.mem (p / 32 * 32) 32, false), s) := by
  simp [readRaw, hecc, hun, ePoison, eFresh, eSingle, eClean]

/-- The channel after the column command of its only request, before the read's data. -/
def colIssued (st c t : Nat) (r : Req) (s : Sled) : Sled :=
  let u := updChan st c (fun ch => { ch with q := [], rdyWr := max ch.rdyWr (t + tRTW) }) s
  updBt st c r.bank (fun x => giveBack u st c r.bank { x with
    row := none, joined := 0, closed := false
    rdyAct := max ((getBt (getChan s st c) r.bank).actAt + tRAS) (t + tRTP) + tRP }) u

/-- What an update of one channel keeps of it, it keeps of every channel. -/
theorem getChan_updChan_proj {α : Type} {F : Chan → α} {f : Chan → Chan} {s : Sled} {st c : Nat}
    (h : F (f (getChan s st c)) = F (getChan s st c)) (st' c' : Nat) :
    F (getChan (updChan st c f s) st' c') = F (getChan s st' c') := by
  by_cases hk : chanKey st' c' = chanKey st c
  · have hsame (s : Sled) : getChan s st' c' = getChan s st c := by rw [getChan, getChan, hk]
    rw [hsame, getChan_updChan_same, h, hsame]
  · rw [getChan_updChan_other _ _ hk]

theorem unreadable_congr {s u : Sled} (hm : u.mcs = s.mcs)
    (hd : ∀ st c, (getChan u st c).dead = (getChan s st c).dead) (st c r : Nat) :
    unreadable u st c r = unreadable s st c r := by
  rw [unreadable, unreadable, hd, hm]

theorem colIssued_dead (st c t : Nat) (r : Req) (s : Sled) (st' c' : Nat) :
    (getChan (colIssued st c t r s) st' c').dead = (getChan s st' c').dead :=
  (getChan_updChan_proj rfl st' c').trans (getChan_updChan_proj rfl st' c')

/-- The column issued, and counted where its request was urgent. -/
def colCounted (st c t : Nat) (r : Req) (s : Sled) : Sled :=
  if r.u = 3 ∧ r.port ≠ 11 then bumpMc st c 4 (colIssued st c t r s) else colIssued st c t r s

theorem colCounted_frame (st c t : Nat) (r : Req) (s : Sled) :
    colCounted st c t r s = { colIssued st c t r s with regs := (colCounted st c t r s).regs } := by
  unfold colCounted
  split <;> rfl

theorem readRaw_colCounted {st c t : Nat} {r : Req} {s : Sled} (hecc : eccAt s (r.phys / 32 * 32) = eClean)
    (hun : unreadable s (coordOf (r.phys / 32 * 32)).stack (coordOf (r.phys / 32 * 32)).chan
      (coordOf (r.phys / 32 * 32)).rank = false) :
    readRaw r.phys (colCounted st c t r s) =
      ((memRead s.mem (r.phys / 32 * 32) 32, false), colCounted st c t r s) := by
  have hf := colCounted_frame st c t r s
  have hmem : (colCounted st c t r s).mem = s.mem := by rw [hf]; rfl
  have hecc' : (colCounted st c t r s).ecc = s.ecc := by rw [hf]; rfl
  have hmcs : (colCounted st c t r s).mcs = s.mcs := by rw [hf]; rfl
  have hdead (st' c' : Nat) : (getChan (colCounted st c t r s) st' c').dead = (getChan s st' c').dead := by
    rw [hf]
    exact colIssued_dead st c t r s st' c'
  rw [readRaw_eClean, hmem]
  · rwa [eccAt, hecc']
  · rwa [unreadable_congr hmcs hdead]

/-- The read of the only request of a channel: its row closes behind it. -/
theorem doCol_single {st c t : Nat} {s : Sled} {r : Req} (hq : (getChan s st c).q = [r]) (hwr : r.wr = none)
    (hecc : eccAt s (r.phys / 32 * 32) = eClean)
    (hun : unreadable s (coordOf (r.phys / 32 * 32)).stack (coordOf (r.phys / 32 * 32)).chan
      (coordOf (r.phys / 32 * 32)).rank = false) :
    doCol st c 0 t s =
      pushRetry st c { ranks := 2 ^ (r.bank / 16), cmd := .col r, due := t + tRL + slotLen (binOf s st)
                       out := some (r.port, BitVec.ofNat 256 (leNat (memRead s.mem (r.phys / 32 * 32) 32)),
                         false) }
        (colCounted st c t r s) := by
  have hbin : binOf (colCounted st c t r s) st = binOf s st := by
    rw [colCounted_frame]
    rfl
  have hread := readRaw_colCounted (st := st) (c := c) (t := t) hecc hun
  have hissued : updBt st c r.bank (fun x => giveBack (updChan st c (fun ch => { ch with
      q := [], rdyWr := max ch.rdyWr (t + tRTW) }) s) st c r.bank { x with
        row := none, joined := 0, closed := false
        rdyAct := max ((getBt (getChan s st c) r.bank).actAt + tRAS) (t + tRTP) + tRP })
      (updChan st c (fun ch => { ch with q := [], rdyWr := max ch.rdyWr (t + tRTW) }) s) = colIssued st c t r
        s := rfl
  simp only [doCol, hq, List.getElem?_cons_zero, List.eraseIdx_cons_zero, List.any_nil, Bool.not_false,
    Bool.or_true,
    Bool.true_or, if_true, hwr, Option.isSome_none, Bool.false_eq_true, if_false, List.map_nil, hissued]
  have hcounted : (if r.u = 3 ∧ r.port ≠ 11 then bumpMc st c 4 (colIssued st c t r s) else colIssued st c t r
    s) =
      colCounted st c t r s := rfl
  simp only [hcounted, doData, hwr, hread, Option.map_some, hbin]

theorem getChan_colCounted (st c t : Nat) (r : Req) (s : Sled) :
    getChan (colCounted st c t r s) st c = { getChan s st c with
      q := [], rdyWr := max (getChan s st c).rdyWr (t + tRTW)
      bank := fset (getChan s st c).bank {} r.bank (giveBack s st c r.bank { getBt (getChan s st c) r.bank
        with
        row := none, joined := 0, closed := false
        rdyAct := max ((getBt (getChan s st c) r.bank).actAt + tRAS) (t + tRTP) + tRP }) } := by
  have h : getChan (colCounted st c t r s) st c = getChan (colIssued st c t r s) st c := by
    rw [colCounted_frame]
    rfl
  rw [h]
  simp only [colIssued, getChan_updBt_same, getChan_updChan_same]
  rfl

theorem giveBack_row (s : Sled) (st c b : Nat) (x : BankT) : (giveBack s st c b x).row = x.row := by
  unfold giveBack
  split <;> rfl

/-! A chain of channel updates changes channels only; with counters, registers too. -/

section frames

variable {s t : Sled} (st c : Nat)

theorem chanOnly_updChan (f : Chan → Chan) (h : t = { s with chan := t.chan }) :
    updChan st c f t = { s with chan := (updChan st c f t).chan } := by
  generalize t.chan = m at h
  subst h
  rfl

theorem chanOnly_pushRetry (e : RetryEnt) (h : t = { s with chan := t.chan }) :
    pushRetry st c e t = { s with chan := (pushRetry st c e t).chan } := chanOnly_updChan st c _ h

theorem chanOnly_slotTick (n : Nat) (h : t = { s with chan := t.chan }) :
    slotTick st c n t = { s with chan := (slotTick st c n t).chan } := chanOnly_updChan st c _ h

theorem chanOnly_updBt (b : Nat) (f : BankT → BankT) (h : t = { s with chan := t.chan }) :
    updBt st c b f t = { s with chan := (updBt st c b f t).chan } := chanOnly_updChan st c _ h

theorem chanOnly_slotAged (ch : Chan) : slotAged s st c ch = { s with chan := (slotAged s st c ch).chan } :=
    rfl

theorem chanRegs_bumpMc (k : Nat) (h : t = { s with chan := t.chan }) :
    bumpMc st c k t = { s with chan := (bumpMc st c k t).chan, regs := (bumpMc st c k t).regs } := by
  generalize t.chan = m at h
  subst h
  rfl

theorem chanRegs_pushRetry (e : RetryEnt) (h : t = { s with chan := t.chan, regs := t.regs }) :
    pushRetry st c e t = { s with chan := (pushRetry st c e t).chan, regs := (pushRetry st c e t).regs } := by
  generalize t.chan = m, t.regs = n at h
  subst h
  rfl

end frames

theorem colCounted_chanRegs {s u : Sled} (h : u = { s with chan := u.chan }) (st c t : Nat) (r : Req) :
    colCounted st c t r u =
      { s with chan := (colCounted st c t r u).chan, regs := (colCounted st c t r u).regs } := by
  generalize u.chan = m at h
  subst h
  unfold colCounted
  split <;> rfl

theorem rGet_chanOnly {s u : Sled} (h : u = { s with chan := u.chan }) (blk off : Nat) :
    rGet u blk off = rGet s blk off := by
  rw [h]
  rfl

theorem kt3_chanOnly {s u : Sled} (h : u = { s with chan := u.chan }) : kt3 u = kt3 s := by
  rw [h]
  rfl

/-- What a refresh does before a forced one is counted changes channels only. -/
theorem doRefresh_chanOnly {s u : Sled} (st c b t : Nat) (h : u = { s with chan := u.chan }) :
    doRefresh st c b t false u = { s with chan := (doRefresh st c b t false u).chan } := by
  simp only [doRefresh, Bool.false_eq_true, if_false]
  exact chanOnly_updChan st c _ (chanOnly_updBt st c b _ (chanOnly_pushRetry st c _ h))

theorem doRefresh_forced (st c b t : Nat) (u : Sled) :
    doRefresh st c b t true u = bumpMc st c 2 (doRefresh st c b t false u) := rfl

theorem doRefresh_frame {s u : Sled} (st c b t : Nat) (h : u = { s with chan := u.chan }) :
    doRefresh st c b t true u =
      { s with chan := (doRefresh st c b t true u).chan, regs := (doRefresh st c b t true u).regs } := by
  rw [doRefresh_forced]
  exact chanRegs_bumpMc st c 2 (doRefresh_chanOnly st c b t h)

theorem rGet_doRefresh_forced {s u : Sled} (st c b t : Nat) (h : u = { s with chan := u.chan }) :
    rGet (doRefresh st c b t true u) (bMC st) (0x1010 + 0x80 * c) =
      min (rGet s (bMC st) (0x1010 + 0x80 * c) + 1) (if kt3 s then 0xFFFF else 0xFFFFFFFF) := by
  have hf := doRefresh_chanOnly st c b t h
  rw [doRefresh_forced, show 0x1010 + 0x80 * c = 0x1000 + 0x80 * c + 8 * 2 by omega, rGet_bumpMc,
    rGet_chanOnly hf,
    kt3_chanOnly hf]

theorem doAct_frame {s u : Sled} {st c i t : Nat} {r : Req} (hq : (getChan u st c).q[i]? = some r)
    (h : u = { s with chan := u.chan }) : doAct st c i t u = { s with chan := (doAct st c i t u).chan } := by
  simp only [doAct, hq]
  exact chanOnly_updChan st c _ (chanOnly_updBt st c _ _ (chanOnly_pushRetry st c _ h))

/-- A read whose data is due lands. -/
theorem landReads_one {s : Sled} {st c t : Nat} {e : RetryEnt} {p : Nat} {d : BitVec 256} {po : Bool}
    (hretry : (getChan s st c).retry = [e]) (hout : e.out = some (p, d, po)) (hdue : e.due ≤ t) :
    landReads st c t s = updChan st c (fun ch => { ch with retry := [{ e with out := none }] }) (emit (.data p
      d po) s) := by
  have hch (o : Out) : getChan (emit o s) st c = getChan s st c := rfl
  simp [landReads, hretry, hout, hdue, updChan, hch]

theorem getChan_landReads_one {s : Sled} {st c t : Nat} {e : RetryEnt} {p : Nat} {d : BitVec 256} {po : Bool}
    (hretry : (getChan s st c).retry = [e]) (hout : e.out = some (p, d, po)) (hdue : e.due ≤ t) :
    getChan (landReads st c t s) st c = { getChan s st c with retry := [{ e with out := none }] } := by
  rw [landReads_one hretry hout hdue, getChan_updChan_same]
  rfl

theorem slotTick_aged_dead (s : Sled) (st c t st' c' : Nat) :
    (getChan (slotTick st c t (slotAged s st c (getChan s st c))) st' c').dead = (getChan s st' c').dead :=
  (getChan_updChan_proj rfl st' c').trans (congrArg Chan.dead (getChan_slotAged s st c st' c'))

/-- The first record of its kind is logged. -/
theorem logLimited_first {period key : Nat} {r : Rec} {s : Sled} (h : ffind s.kpr.rate (r.code * 2 ^ 40 + key)
    = none) :
    logLimited period key r s =
      logRec r { s with kpr := { s.kpr with rate := fput s.kpr.rate (r.code * 2 ^ 40 + key) s.now } } := by
  simp only [logLimited, h]

/-- A record of no tenant that finds room changes no register. -/
theorem logRec_regs_of_room {r : Rec} {s : Sled} (ht : r.tenant = none) (h : (fget s.kpr.coll []
    r.island).length < 16) :
    (logRec r s).regs = s.regs := by
  have hc : (recCount r s).kpr.coll = s.kpr.coll := by unfold recCount; split <;> rfl
  rw [logRec, recPlace, if_pos (by rw [hc]; exact h), recTell]
  simp [recStamp, ht]

/-- Settles O14: a slot does what it chooses (`slot_free`), each command by what it does to its channel; the increments by
their update of the bank. -/
theorem commandSlotIssuesRefreshActAndColumn : Obligations.CommandSlotIssuesRefreshActAndColumn := by
  refine ⟨?_, ?_, ?_, ?_, ?_, ?_, ?_, ?_, ?_, ?_⟩
  · intro s st c ch t h hcase
    refine lift_next ?_
    rcases hcase with ⟨r, hr, hwait⟩ | ⟨hr, hp⟩
    · rw [slot_replay h hr]
      split
      case isTrue hgo =>
        obtain hph | htodo | hlt := hwait
        · exact absurd hgo.1 hph
        · simp [replayOne, htodo, slotTick]
        · exact absurd hgo.2 (Nat.not_le.2 hlt)
      case isFalse => rfl
    · exact slot_pause h hr hp
  · intro s st c ch t r e rest h hr hph htodo hout hcmd
    have hfx := slot_replay h hr
    rw [if_pos ⟨hph, hcmd⟩] at hfx
    refine ⟨_, lift_next hfx, rfl, ?_, ?_⟩
    · obtain ⟨rfl, -⟩ := h
      simp only [replayOne, htodo, hout]
      cases hcmd' : e.cmd <;> simp only [getChan_updChan_same, getChan_pushRetry, getChan_slotTick, hcmd'] <;>
        rfl
    · have hframe (x : RetryEnt) (f : Chan → Chan) := chanOnly_updChan st c f
        (chanOnly_pushRetry st c x (chanOnly_slotTick (s := s.sled) (t := s.sled) st c t rfl))
      simp only [replayOne, htodo, hout]
      cases e.cmd <;> exact hframe _ _
  · intro s st c ch e p d po hch hrun hsr hr hp hretry hout hdue
    subst hch
    have hfx : fxChannelSlotArbitrate st c s.sled = slotTick st c (nextSlot s.sled st c)
        (landReads st c (nextSlot s.sled st c) s.sled) := by
      rw [fxChannelSlotArbitrate, if_neg (by simp [hrun, hsr])]
      simp only [getChan_landReads_one hretry hout hdue, hr, hp, if_true]
    refine ⟨_, lift_next hfx, rfl, ?_⟩
    rw [getChan_slotTick, getChan_landReads_one hretry hout hdue, landReads_one hretry hout hdue]
    exact ⟨rfl, rfl, rfl⟩
  · intro s st c b ch t h howed hfirst hidle href
    have h' := h
    obtain ⟨⟨rfl, -⟩, hr, hp, hd, hx, hcmd, -⟩ := h'
    have hfx := slot_free h
    rw [arbitrate_forced rfl hd hx hcmd b.isLt howed (fun x hxb => hfirst ⟨x, by omega⟩ hxb) hidle href] at hfx
    refine ⟨_, lift_next hfx, rfl, ?_⟩
    have hch := getChan_doRefresh st c b t true (slotTick st c t (slotAged s.sled st c (getChan s.sled st c)))
    rw [getChan_slotTick, getChan_slotAged] at hch
    dsimp only [slotDo]
    rw [hch]
    have hclk (x : Chan) (k : Nat) : getBt { x with clk := t } k = getBt x k := rfl
    refine ⟨?_, fun x hx => ?_, rfl, rfl, rfl, rfl, ?_, ?_⟩
    · refine (fget_fset_same ..).trans ?_
      rw [hclk, howed]
      rfl
    · exact fget_fset_other _ _ _ (fun h => hx (Fin.ext h))
    · exact rGet_doRefresh_forced st c b t (chanOnly_slotTick st c t (chanOnly_slotAged st c _))
    · exact doRefresh_frame st c b t (chanOnly_slotTick st c t (chanOnly_slotAged st c _))
  · intro s st c ch r t h howed hbcs hq hu hb hjoin hact
    have h' := h
    obtain ⟨⟨rfl, -⟩, hr, hp, hd, hx, hcmd, hreop, -⟩ := h'
    have hfx := slot_free h
    have hcol : colReady s.sled st c t 0 r = false := by simp [colReady, hjoin]
    rw [arbitrate_single (a := .act 0) rfl hd hx hcmd (fun x hx => howed ⟨x, hx⟩) (fun x hx => hreop ⟨x, hx⟩)
      hbcs hu (by simp)
      fun u => by simp [pickReq_single hq, hcol, hact]] at hfx
    refine ⟨_, lift_next hfx, rfl, ?_⟩
    have hq0 : (getChan (slotTick st c t (slotAged s.sled st c (getChan s.sled st c))) st c).q[0]? = some r :=
      by
      rw [getChan_slotTick, getChan_slotAged]
      simp [hq]
    have hch := getChan_doAct (t := t) hq0
    rw [getChan_slotTick, getChan_slotAged] at hch
    dsimp only [slotDo]
    rw [hch]
    refine ⟨?_, ?_, rfl, rfl, rfl, ?_⟩
    · simp only [getBt, fget_fset_same]
    · simp [hq, markBatch]
    · exact doAct_frame hq0 (chanOnly_slotTick st c t (chanOnly_slotAged st c _))
  · intro s st c ch r t h howed hbcs hq hu hb hwr hcol hecc hun
    have h' := h
    obtain ⟨⟨rfl, -⟩, hr, hp, hd, hx, hcmd, hreop, -⟩ := h'
    have hfx := slot_free h
    rw [arbitrate_single (a := .col 0) rfl hd hx hcmd (fun x hx => howed ⟨x, hx⟩) (fun x hx => hreop ⟨x, hx⟩)
      hbcs hu (by simp)
      fun u => by simp [pickReq_single hq, hcol]] at hfx
    refine ⟨_, lift_next hfx, rfl, ?_⟩
    have hdo : slotDo st c t (slotAged s.sled st c (getChan s.sled st c)) (.col 0) =
        doCol st c 0 t (slotTick st c t (slotAged s.sled st c (getChan s.sled st c))) := rfl
    have hframe := chanOnly_slotTick st c t (chanOnly_slotAged (s := s.sled) st c (getChan s.sled st c))
    have hch := getChan_slotTick st c t (slotAged s.sled st c (getChan s.sled st c))
    have hdead := slotTick_aged_dead s.sled st c t
    rw [getChan_slotAged] at hch
    generalize slotTick st c t (slotAged s.sled st c (getChan s.sled st c)) = v at hdo hframe hch hdead
    have hcounted := colCounted_chanRegs hframe st c t r
    obtain ⟨hbin, hmem, hecc', hmcs⟩ : binOf v st = binOf s.sled st ∧ v.mem = s.sled.mem ∧ v.ecc = s.sled.ecc
      ∧
        v.mcs = s.sled.mcs := by
      rw [hframe]
      exact ⟨rfl, rfl, rfl, rfl⟩
    rw [hdo, doCol_single (by rw [hch]; exact hq) hwr (by rwa [eccAt, hecc']) (by rwa [unreadable_congr hmcs
      hdead]),
      getChan_pushRetry, getChan_colCounted, hch, hbin, hmem]
    refine ⟨rfl, rfl, ?_, rfl, rfl, ?_⟩
    · simp only [getBt, fget_fset_same, giveBack_row]
    · exact chanRegs_pushRetry st c _ hcounted
  · intro s st c b hrun hsr howed hdue
    have hfx : fxRefreshOwedIncrement st c b s.sled = updBt st c b (fun x => { x with
        owed := min 8 (x.owed + 1), fast := bitAt (fget s.sled.mcs {} st).fast (b.val / 16)
        next := some (refreshDue s.sled st c b + tREFI (bitAt (fget s.sled.mcs {} st).fast (b.val / 16))) })
          s.sled := by
      rw [fxRefreshOwedIncrement, if_neg (by simp [hrun, hsr]; omega)]
      exact if_pos howed
    refine ⟨_, lift_next hfx, rfl, ?_, fun x hx => getBt_updBt_other _ _ fun h => hx (Fin.ext h), rfl⟩
    rw [getBt_updBt_same, Nat.min_eq_right howed]
    rfl
  · intro s st c b hrun hsr howed hdue hrate hroom
    let v := bumpMc st c 3 (updBt st c b (fun x => { x with
        owed := min 8 (x.owed + 1), fast := bitAt (fget s.sled.mcs {} st).fast (b.val / 16)
        next := some (refreshDue s.sled st c b + tREFI (bitAt (fget s.sled.mcs {} st).fast (b.val / 16))) })
          s.sled)
    let r := { mkRec 0x3004 (iMC st) with object := b.val % 16 + b.val / 16 * 16 + c.val * 64 + st.val * 1024
      }
    have hfx : fxRefreshOwedIncrement st c b s.sled =
        logRec r { v with kpr := { v.kpr with rate := fput v.kpr.rate (0x3004 * 2 ^ 40 + chanBankKey st c b) v.now } } := by
      rw [fxRefreshOwedIncrement, if_neg (by simp [hrun, hsr]; omega)]
      refine (if_neg (by omega)).trans ?_
      exact logLimited_first hrate
    refine ⟨_, lift_next hfx, rfl, ?_, ?_, ?_, ?_⟩
    · rw [getChan, logRec_chan]
      have hsame := getBt_updBt_same st c b (fun x => { x with
        owed := min 8 (x.owed + 1), fast := bitAt (fget s.sled.mcs {} st).fast (b.val / 16)
        next := some (refreshDue s.sled st c b + tREFI (bitAt (fget s.sled.mcs {} st).fast (b.val / 16))) })
          s.sled
      refine (congrArg BankT.owed hsame).trans ?_
      rw [howed]
      rfl
    · exact logRec_coll _ _ hroom
    · rw [rGet, logRec_regs_of_room rfl hroom, show 0x1018 + 0x80 * c.val = 0x1000 + 0x80 * c.val + 8 * 3 by
      omega]
      exact rGet_bumpMc st c 3 _
    · exact logRec_mem ..
  · intro s st c b hlt
    exact lift_next (if_pos (by simp [hlt]))
  · intro s st c b hsr
    exact lift_next (if_pos (by simp [hsr]))

end Sys2Proof.Machine

/-! ## Parity replay and patrol scrub (O15: spec/06, R121 to R125; spec/09, R178, R179) -/
namespace Sys2Proof.Machine
open Sys2Proof

/-! ### Single bits -/

/-- Setting a bit is setting the field of that bit. -/
theorem setBit_eq_setBits (x i : Nat) (b : Bool) : setBit x i b = setBits x i 1 (b2n b) := by
  have hpow : 0 < 2 ^ i := Nat.two_pow_pos i
  have hdiv : x / 2 ^ i % 2 * 2 ^ i ≤ x :=
    (Nat.mul_le_mul_right _ (Nat.mod_le _ _)).trans (Nat.div_mul_le_self _ _)
  have hbit : x / 2 ^ i % 2 = 0 ∨ x / 2 ^ i % 2 = 1 := by omega
  rcases hbit with h | h <;> cases b <;> simp [setBit, setBits, bitAt, bitsOf, h, b2n] at hdiv ⊢
  omega

theorem testBit_setBit (x i : Nat) (b : Bool) (j : Nat) :
    (setBit x i b).testBit j = if j = i then b else x.testBit j := by
  rw [setBit_eq_setBits, testBit_setBits]
  by_cases h : j = i
  · subst h
    cases b <;> simp [b2n]
  · rw [if_neg (by omega), if_neg h]

@[simp] theorem bitAt_setBit_same (x i : Nat) (b : Bool) : bitAt (setBit x i b) i = b := by
  rw [bitAt_eq_testBit, testBit_setBit, if_pos rfl]

theorem bitAt_setBit_other (x : Nat) {i j : Nat} (b : Bool) (h : j ≠ i) : bitAt (setBit x i b) j = bitAt x j := by
  rw [bitAt_eq_testBit, testBit_setBit, if_neg h, bitAt_eq_testBit]

theorem bitsOf_setBit_other (x : Nat) {i lo len : Nat} (b : Bool) (h : i < lo ∨ lo + len ≤ i) :
    bitsOf (setBit x i b) lo len = bitsOf x lo len := by
  rw [setBit_eq_setBits, bitsOf_setBits_other _ _ _ _ (by omega)]

theorem bitAt_setBits_other (x lo len v : Nat) {i : Nat} (h : i < lo ∨ lo + len ≤ i) :
    bitAt (setBits x lo len v) i = bitAt x i := by
  rw [bitAt_eq_testBit, testBit_setBits, if_neg (by omega), bitAt_eq_testBit]

/-! ### The alert and its replay -/

/-- MW5 of a rank of a channel whose MW5 is set. -/
theorem mw5_set (ch : Chan) (r v : Nat) : mw5 { ch with mw5 := fset ch.mw5 0 r v } r = v := fget_fset_same ..

@[simp] theorem getChan_mw5Set (st c r : Nat) (f : Nat → Nat) (s : Sled) :
    getChan (mw5Set st c r f s) st c = { getChan s st c with mw5 := fset (getChan s st c).mw5 0 r (f (mw5 (getChan s st c) r)) } :=
  getChan_updChan_same ..

theorem chTime_mw5Set (st c r : Nat) (f : Nat → Nat) (s : Sled) : chTime (mw5Set st c r f s) st c = chTime s st c := by
  rw [chTime, getChan_mw5Set]
  rfl

/-- An alert of a rank that checks parity, with no replay under way, starts one. -/
def alertStarted (st c r : Nat) (s : Sled) : Sled :=
  updChan st c (fun ch => { ch with replay := some { rank := r, d := 0, attempts := 0, phase := 0 } })
    (bumpMc st c 0 (mw5Set st c r (fun w => setBit w 1 true) s))

theorem getChan_alertStarted (st c r : Nat) (s : Sled) :
    getChan (alertStarted st c r s) st c = { getChan s st c with
      replay := some { rank := r, d := 0, attempts := 0, phase := 0 }
      mw5 := fset (getChan s st c).mw5 0 r (setBit (mw5 (getChan s st c) r) 1 true) } := by
  rw [alertStarted, getChan_updChan_same, getChan_bumpMc, getChan_mw5Set]

theorem fxCaparAlert_starts {s : Sled} {st c r : Nat} (hrun : islRuns s (iMC st) = true)
    (hdead : bitAt (getChan s st c).dead r = false) (hen : bitAt (mw5 (getChan s st c) r) 0 = true)
    (hp : (getChan s st c).pause = none) (hr : (getChan s st c).replay = none) (reads : List (Option (BitVec 6))) :
    fxCaparAlert st c r reads s = readDiscard st c 4 reads (alertStarted st c r s) := by
  have hrep : (getChan (mw5Set st c r (fun w => setBit w 1 true) s) st c).replay.isNone = true := by
    rw [getChan_mw5Set]
    exact hr ▸ rfl
  simp only [fxCaparAlert, hrun, hdead, hen, hp, Option.isSome_none, Bool.not_true, Bool.or_self, Bool.false_eq_true,
    if_false, hr, Option.isNone_none, if_true]
  rfl

/-- The DISCARD that the first read gives; beyond any buffer where it failed. -/
def discardOf (reads : List (Option (BitVec 6))) : Nat :=
  match reads.head? with
  | some (some d) => d.toNat
  | _ => 64

/-- What the replay `r` makes of a read's DISCARD, with `n` reads left. -/
def discardTaken (st c n : Nat) (reads : List (Option (BitVec 6))) (r : Replay) (d : Nat) (s : Sled) : Sled :=
  let s := if d < 64 then mw5Set st c r.rank (fun w => setBits w 2 6 d) s else s
  if d ≤ buffered (getChan s st c) r.rank then
    let sp := splitIgnored r.rank d (getChan s st c).retry
    let s := mw5Set st c r.rank (fun w => setBit w 1 false) s
    updChan st c (fun ch => { ch with
      replay := some { r with phase := 1, d := d, todo := sp.1.reverse ++ r.todo }
      retry := sp.2, rdyCmd := chTime s st c + tMRR + tParRecov }) s
  else
    match attemptFails st c s with
    | (true, s) => readDiscard st c n reads.tail s
    | (false, s) => s

theorem readDiscard_eq {s : Sled} {st c n : Nat} {r : Replay} (hr : (getChan s st c).replay = some r)
    (reads : List (Option (BitVec 6))) :
    readDiscard st c (n + 1) reads s = discardTaken st c n reads r (discardOf reads) s := by
  simp only [readDiscard, hr]
  rfl

/-- A DISCARD that the buffer holds gives the commands to replay. -/
theorem readDiscard_some {s : Sled} {st c n : Nat} {r : Replay} {d : BitVec 6} {more : List (Option (BitVec 6))}
    (hr : (getChan s st c).replay = some r) (hd : d.toNat ≤ buffered (getChan s st c) r.rank) :
    readDiscard st c (n + 1) (some d :: more) s =
      let sp := splitIgnored r.rank d.toNat (getChan s st c).retry
      updChan st c (fun ch => { ch with
        replay := some { r with phase := 1, d := d.toNat, todo := sp.1.reverse ++ r.todo }
        retry := sp.2, rdyCmd := chTime s st c + tMRR + tParRecov })
        (mw5Set st c r.rank (fun w => setBit w 1 false) (mw5Set st c r.rank (fun w => setBits w 2 6 d.toNat) s)) := by
  have hlt : d.toNat < 64 := d.isLt
  have hbuf : d.toNat ≤ buffered (getChan (mw5Set st c r.rank (fun w => setBits w 2 6 d.toNat) s) st c) r.rank := by
    rw [getChan_mw5Set]
    exact hd
  have hout : discardOf (some d :: more) = d.toNat := rfl
  rw [readDiscard_eq hr, hout]
  simp only [discardTaken, if_pos hlt, if_pos hbuf, chTime_mw5Set]
  rw [getChan_mw5Set]

/-- An attempt that fails is counted, and another follows it before the fourth. -/
theorem attemptFails_again {s : Sled} {st c : Nat} {r : Replay} (hr : (getChan s st c).replay = some r)
    (ha : r.attempts + 1 < 4) :
    attemptFails st c s = (true, updChan st c (fun ch => { ch with
      replay := some { r with attempts := r.attempts + 1, phase := 0 } }) (bumpMc st c 1 s)) := by
  simp only [attemptFails, hr, if_pos ha]

/-- A failed read before the fourth attempt: the next one reads again. -/
theorem readDiscard_none_again {s : Sled} {st c n : Nat} {r : Replay} {more : List (Option (BitVec 6))}
    (hr : (getChan s st c).replay = some r) (hb : buffered (getChan s st c) r.rank < 64) (ha : r.attempts + 1 < 4) :
    readDiscard st c (n + 1) (none :: more) s =
      readDiscard st c n more (updChan st c (fun ch => { ch with
        replay := some { r with attempts := r.attempts + 1, phase := 0 } }) (bumpMc st c 1 s)) := by
  have hout : discardOf (none :: more) = 64 := rfl
  rw [readDiscard_eq hr, hout]
  simp only [discardTaken, Nat.lt_irrefl, if_false, if_neg (Nat.not_le.2 hb), attemptFails_again hr ha, List.tail_cons]

/-- The fourth failed read ends the replay. -/
theorem readDiscard_none_last {s : Sled} {st c n : Nat} {r : Replay} {more : List (Option (BitVec 6))}
    (hr : (getChan s st c).replay = some r) (hb : buffered (getChan s st c) r.rank < 64) (ha : r.attempts = 3) :
    readDiscard st c (n + 1) (none :: more) s =
      migLoses st c r.rank (rankFatal st c r.rank
        (logRec { mkRec 0x3003 (iMC st) with object := r.rank * 16 + c * 64 + st * 1024 }
          (updChan st c (fun ch => { ch with
            replay := none, dead := setBit ch.dead r.rank true
            q := takenBack ch r.rank r.todo ++ ch.q
            retry := ch.retry.map fun e => if bitAt e.ranks r.rank then { e with out := none } else e })
            (bumpMc st c 1 s)))) := by
  have hout : discardOf (none :: more) = 64 := rfl
  rw [readDiscard_eq hr, hout]
  simp only [discardTaken, Nat.lt_irrefl, if_false, if_neg (Nat.not_le.2 hb), attemptFails, hr, ha]

theorem buffered_le (ch : Chan) (r : Nat) : buffered ch r ≤ ch.retry.length := List.length_filter_le ..

/-- The replay of an alert whose four reads fail, before its last failure is taken. -/
def alertFailed (st c r n : Nat) (s : Sled) : Sled :=
  match n with
  | 0 => alertStarted st c r s
  | n + 1 => updChan st c (fun ch => { ch with replay := some { rank := r, d := 0, attempts := n + 1, phase := 0 } })
      (bumpMc st c 1 (alertFailed st c r n s))

theorem getChan_alertFailed (st c r n : Nat) (s : Sled) :
    getChan (alertFailed st c r n s) st c = { getChan s st c with
      replay := some { rank := r, d := 0, attempts := n, phase := 0 }
      mw5 := fset (getChan s st c).mw5 0 r (setBit (mw5 (getChan s st c) r) 1 true) } := by
  induction n with
  | zero => exact getChan_alertStarted st c r s
  | succ n ih => rw [alertFailed, getChan_updChan_same, getChan_bumpMc, ih]

theorem alertFailed_frame (st c r n : Nat) (s : Sled) :
    alertFailed st c r n s =
      { s with chan := (alertFailed st c r n s).chan, regs := (alertFailed st c r n s).regs } := by
  induction n with
  | zero => rfl
  | succ n ih =>
    rw [alertFailed]
    generalize alertFailed st c r n s = t at ih ⊢
    rw [ih]
    rfl

/-- Four failed reads take the rank out of service. -/
theorem readDiscard_four {s : Sled} {st c r : Nat} (hlen : (getChan s st c).retry.length ≤ 32) :
    readDiscard st c 4 [none, none, none, none] (alertStarted st c r s) =
      migLoses st c r (rankFatal st c r
        (logRec { mkRec 0x3003 (iMC st) with object := r * 16 + c * 64 + st * 1024 }
          (updChan st c (fun ch => { ch with
            replay := none, dead := setBit ch.dead r true
            q := takenBack ch r [] ++ ch.q
            retry := ch.retry.map fun e => if bitAt e.ranks r then { e with out := none } else e })
            (bumpMc st c 1 (alertFailed st c r 3 s))))) := by
  have hr (n : Nat) : (getChan (alertFailed st c r n s) st c).replay =
      some { rank := r, d := 0, attempts := n, phase := 0 } := by rw [getChan_alertFailed]
  have hb (n : Nat) : buffered (getChan (alertFailed st c r n s) st c) r < 64 := by
    refine Nat.lt_of_le_of_lt (buffered_le _ _) ?_
    rw [getChan_alertFailed]
    exact Nat.lt_of_le_of_lt hlen (by omega)
  have hstep (n k : Nat) (more : List (Option (BitVec 6))) (hn : n + 1 < 4) :
      readDiscard st c (k + 1) (none :: more) (alertFailed st c r n s) =
        readDiscard st c k more (alertFailed st c r (n + 1) s) := by
    rw [readDiscard_none_again (hr n) (hb n) hn, alertFailed]
  have hstart : alertStarted st c r s = alertFailed st c r 0 s := by rw [alertFailed]
  rw [hstart, hstep 0 _ _ (by decide), hstep 1 _ _ (by decide), hstep 2 _ _ (by decide), readDiscard_none_last (hr 3) (hb 3) rfl]

theorem migLoses_of_none {s : Sled} {st : Nat} (h : (fget s.mcs {} st).mig = none) (c r : Nat) :
    migLoses st c r s = s := by
  simp only [migLoses, h]

/-- A rank that has its spare already triggers nothing more. -/
theorem rankFatal_of_taken {s : Sled} {st r : Nat} (hst : st < 8) (h : spareTaken s st r = true) (c : Nat) :
    rankFatal st c r s = s := by
  have ht : spareTrigger st r true s = (false, s) := by
    rw [spareTrigger, if_neg (fun h => absurd h.1 (by omega)), if_pos h]
  simp only [rankFatal, ht]

theorem spareTaken_congr {s t : Sled} (hp : t.kpr.pendingMig = s.kpr.pendingMig)
    (hm : ∀ n, (fget t.mcs {} n).mig = (fget s.mcs {} n).mig)
    (he : ∀ k < 4, rGet t bKPR (8 + 8 * k) = rGet s bKPR (8 + 8 * k)) (st r : Nat) : spareTaken t st r = spareTaken s st r := by
  have hent : ∀ k ∈ List.range 4, spareEnt t k = spareEnt s k := fun k hk => by
    rw [spareEnt, spareEnt, he k (List.mem_range.1 hk)]
  have hany : ((List.range 4).any fun k => spareEnt t k = some { stack := st, rank := r }) =
      (List.range 4).any fun k => spareEnt s k = some { stack := st, rank := r } := by
    rw [Bool.eq_iff_iff, List.any_eq_true, List.any_eq_true]
    exact exists_congr fun k => and_congr_right fun hk => by rw [hent k hk]
  rw [spareTaken, spareTaken, hp, hm, hany]

/-- A memory controller's counters are no register of the keeper. -/
theorem rGet_bumpMc_kpr {st c k o : Nat} (s : Sled) (hst : st < 9) (hc : c < 16) (hk : k < 16) (ho : o < 0x100000) :
    rGet (bumpMc st c k s) bKPR o = rGet s bKPR o := by
  refine rGet_rSet_ne _ _ ho (by omega) fun h => ?_
  have := (Prod.mk.inj h).1
  simp only [bKPR, bMC] at this
  omega

theorem rGet_alertFailed_kpr {st c r o : Nat} (n : Nat) (s : Sled) (hst : st < 9) (hc : c < 16) (ho : o < 0x100000) :
    rGet (alertFailed st c r n s) bKPR o = rGet s bKPR o := by
  induction n with
  | zero => exact rGet_bumpMc_kpr _ hst hc (by omega) ho
  | succ n ih => exact (rGet_bumpMc_kpr _ hst hc (by omega) ho).trans ih

/-! ### Patrol scrub -/

/-- What scrubbing makes of a word's error: a single-bit one is rewritten, a fresh uncorrectable one becomes poison. -/
def scrubbedErr (e : Nat) : Nat := if e = eSingle then eClean else if e = eFresh then ePoison else e

theorem scrubbedErr_ne_fresh (e : Nat) : scrubbedErr e ≠ eFresh := by
  unfold scrubbedErr
  split
  · decide
  · split
    · decide
    · assumption

/-- What a word's scrub keeps: all but the memory, its errors, the registers and the log. -/
structure ScrubKeeps (s t : Sled) : Prop where
  chan : t.chan = s.chan
  mcs : t.mcs = s.mcs
  ctr : t.ctr = s.ctr
  sem : t.sem = s.sem
  fl : t.fl = s.fl

theorem ScrubKeeps.trans {s t u : Sled} (h : ScrubKeeps s t) (h' : ScrubKeeps t u) : ScrubKeeps s u where
  chan := h'.chan.trans h.chan
  mcs := h'.mcs.trans h.mcs
  ctr := h'.ctr.trans h.ctr
  sem := h'.sem.trans h.sem
  fl := h'.fl.trans h.fl

/-- `t` is `s` with the `n` words from word `x` on scrubbed. -/
structure Scrubbed (x n : Nat) (s t : Sled) : Prop where
  keeps : ScrubKeeps s t
  ecc : ∀ w, fget t.ecc 0 w = if x ≤ w ∧ w < x + n then scrubbedErr (fget s.ecc 0 w) else fget s.ecc 0 w
  mem : ∀ a, fget s.ecc 0 (a / 32) ≠ eFresh → memGet t.mem a = memGet s.mem a

theorem Scrubbed.append {x n : Nat} {s t u : Sled} (h : Scrubbed x n s t) (h' : Scrubbed (x + n) 1 t u) :
    Scrubbed x (n + 1) s u where
  keeps := h.keeps.trans h'.keeps
  ecc w := by
    rw [h'.ecc, h.ecc]
    by_cases h1 : x ≤ w ∧ w < x + n
    · rw [if_neg (by omega), if_pos h1, if_pos (by omega)]
    · rw [if_neg h1]
      by_cases h2 : w = x + n
      · rw [if_pos (by omega), if_pos (by omega)]
      · rw [if_neg (by omega), if_neg (by omega)]
  mem a ha := by
    refine (h'.mem a ?_).trans (h.mem a ha)
    rw [h.ecc]
    split
    · exact scrubbedErr_ne_fresh _
    · exact ha

theorem logRec_keeps (r : Rec) (s : Sled) : ScrubKeeps s (logRec r s) := ⟨by simp, by simp, by simp, by simp, by simp⟩

/-- A trigger that is not fatal only notes it. -/
theorem spareTrigger_keeps (st r : Nat) (s : Sled) : ScrubKeeps s (spareTrigger st r false s).2 ∧
    (spareTrigger st r false s).2.ecc = s.ecc ∧ (spareTrigger st r false s).2.mem = s.mem := by
  have hrefl : ScrubKeeps s s := ⟨rfl, rfl, rfl, rfl, rfl⟩
  unfold spareTrigger
  split
  · exact ⟨hrefl, rfl, rfl⟩
  · split
    · exact ⟨hrefl, rfl, rfl⟩
    · split
      · exact ⟨⟨rfl, rfl, rfl, rfl, rfl⟩, rfl, rfl⟩
      · exact ⟨logRec_keeps _ s, logRec_ecc .., logRec_mem ..⟩

theorem freshUe_keeps (c : Coord) (s : Sled) :
    ScrubKeeps s (freshUe c s) ∧ (freshUe c s).ecc = s.ecc ∧ (freshUe c s).mem = s.mem := by
  have hset (blk off v : Nat) : ScrubKeeps s (rSet blk off v s) := ⟨rfl, rfl, rfl, rfl, rfl⟩
  simp only [freshUe]
  generalize hu : rSet _ _ _ s = u
  have hu' : ScrubKeeps s u ∧ u.ecc = s.ecc ∧ u.mem = s.mem := by
    subst hu
    exact ⟨hset _ _ _, rSet_ecc .., rSet_mem ..⟩
  have hlog : ScrubKeeps s (logRec (recDram 0x3001 c) u) ∧ (logRec (recDram 0x3001 c) u).ecc = s.ecc ∧
      (logRec (recDram 0x3001 c) u).mem = s.mem :=
    ⟨hu'.1.trans (logRec_keeps _ u), (logRec_ecc ..).trans hu'.2.1, (logRec_mem ..).trans hu'.2.2⟩
  generalize logRec (recDram 0x3001 c) u = v at hlog ⊢
  obtain ⟨hk, he, hm⟩ := hlog
  split
  · obtain ⟨hk', he', hm'⟩ := spareTrigger_keeps c.stack c.rank v
    exact ⟨hk.trans hk', he'.trans he, hm'.trans hm⟩
  · exact ⟨hk, he, hm⟩

/-- With no migration under way no place is mirrored. -/
theorem mirrorOf_of_none {s : Sled} (h : ∀ n < 9, (fget s.mcs {} n).mig = none) {p : Nat} (hp : p < 9 * 2 ^ 36) :
    mirrorOf s p = none := by
  have hst : (coordOf p).stack < 9 := by
    simp only [coordOf]
    omega
  simp only [mirrorOf, h _ hst]

theorem poisonAt_ecc (p : Nat) (s : Sled) : (poisonAt p s).ecc = fset s.ecc 0 (p / 32) ePoison := by
  unfold poisonAt
  rfl

theorem poisonAt_mem (p : Nat) (s : Sled) : (poisonAt p s).mem = memWrite s.mem (p / 32 * 32) poisonBytes := by
  unfold poisonAt
  generalize poisonBytes = l
  rfl

theorem withMem_keeps (s : Sled) (m : List Host.Cell) (e : FMap Nat) : ScrubKeeps s { s with mem := m, ecc := e } :=
  ⟨rfl, rfl, rfl, rfl, rfl⟩

theorem poisonAt_keeps (p : Nat) (s : Sled) : ScrubKeeps s (poisonAt p s) := by
  unfold poisonAt
  exact withMem_keeps s _ _

/-- Scrubbing one word. -/
theorem scrubWord_scrubs {s : Sled} (h : ∀ n < 9, (fget s.mcs {} n).mig = none) (st c : Nat) {w : Nat}
    (hw : w * 32 < 9 * 2 ^ 36) : Scrubbed w 1 s (scrubWord st c (w * 32) s) := by
  have hdiv : w * 32 / 32 = w := by omega
  have hone (e : Nat) (v : Nat) : (fget (fset s.ecc 0 w v) 0 e = if w ≤ e ∧ e < w + 1 then v else fget s.ecc 0 e) := by
    by_cases he : e = w
    · subst he
      rw [fget_fset_same, if_pos (by omega)]
    · rw [fget_fset_other _ _ _ he, if_neg (by omega)]
  unfold scrubWord
  simp only [eccAt, hdiv]
  split
  case isTrue hs =>
    refine ⟨⟨logLimited_chan .., logLimited_mcs .., logLimited_ctr .., logLimited_sem .., logLimited_fl ..⟩, fun e => ?_,
      fun a _ => congrArg (memGet · a) (logLimited_mem ..)⟩
    rw [logLimited_ecc]
    refine (hone e eClean).trans ?_
    split
    · have he : e = w := by omega
      rw [he, scrubbedErr, if_pos hs]
    · rfl
  case isFalse hs =>
    split
    case isTrue hf =>
      have hpoison : poisonRaw (w * 32) s = poisonAt (w * 32) s := by
        simp only [poisonRaw, if_pos (show w * 32 < 2 ^ 40 by omega), mirrorOf_of_none h hw]
      obtain ⟨hk, he, hm⟩ := freshUe_keeps (coordOf (w * 32)) (poisonAt (w * 32) s)
      rw [hpoison]
      replace hk := (poisonAt_keeps (w * 32) s).trans hk
      rw [poisonAt_ecc, hdiv] at he
      rw [poisonAt_mem, hdiv] at hm
      generalize freshUe (coordOf (w * 32)) (poisonAt (w * 32) s) = u at hk he hm ⊢
      refine ⟨⟨hk.chan, hk.mcs, hk.ctr, hk.sem, hk.fl⟩, fun e => ?_, fun a ha => ?_⟩
      · have hecc : (bumpMc st c 7 u).ecc = fset s.ecc 0 w ePoison := he
        rw [hecc, hone]
        split
        · have he : e = w := by omega
          rw [he, scrubbedErr, if_neg hs, if_pos hf]
        · rfl
      · have hmem : (bumpMc st c 7 u).mem = memWrite s.mem (w * 32) poisonBytes := hm
        rw [hmem, memGet_memWrite, dif_neg]
        have hlen : poisonBytes.length = 32 := by rw [poisonBytes, length_leBytes]
        rw [hlen]
        intro hin
        exact ha (by rw [show a / 32 = w by omega]; exact hf)
    case isFalse hf =>
      refine ⟨⟨rfl, rfl, rfl, rfl, rfl⟩, fun e => ?_, fun _ _ => rfl⟩
      split
      · have he : e = w := by omega
        rw [he, scrubbedErr, if_neg hs, if_neg hf]
      · rfl

theorem foldl_scrubWord {s : Sled} (h : ∀ n < 9, (fget s.mcs {} n).mig = none) (st c : Nat) {x n : Nat}
    (hx : (x + n) * 32 ≤ 9 * 2 ^ 36) :
    Scrubbed x n s ((List.range n).foldl (fun s k => scrubWord st c (x * 32 + k * 32) s) s) := by
  induction n with
  | zero => exact ⟨⟨rfl, rfl, rfl, rfl, rfl⟩, fun w => by rw [if_neg (by omega)]; rfl, fun _ _ => rfl⟩
  | succ n ih =>
    rw [List.range_succ, List.foldl_append, List.foldl_cons, List.foldl_nil]
    have hn := ih (by omega)
    refine hn.append ?_
    rw [show x * 32 + n * 32 = (x + n) * 32 by omega]
    exact scrubWord_scrubs (by rw [hn.keeps.mcs]; exact h) st c (by omega)

/-- Taking the slots of an item changes channels only: their clocks and retry buffers. -/
theorem scrubSlots_frame (k n : Nat) (it : ScrubItem) (s : Sled) :
    scrubSlots k n it s = { s with chan := (scrubSlots k n it s).chan } := rfl

theorem getChan_scrubSlots_proj {α : Type} {F : Chan → α} (hF : ∀ ch n l, F { ch with clk := n, retry := l } = F ch)
    (k n : Nat) (it : ScrubItem) (s : Sled) (st c : Nat) :
    F (getChan (scrubSlots k n it s) st c) = F (getChan s st c) := by
  have hretry (ch : Chan) (l : List RetryEnt) : F { ch with retry := l } = F ch := hF ch ch.clk l
  have hclk (ch : Chan) (n : Nat) : F { ch with clk := n } = F ch := hF ch n ch.retry
  simp only [scrubSlots, useSlots]
  exact (getChan_updChan_proj (F := F) (hretry _ _) st c).trans (getChan_updChan_proj (F := F) (hclk _ _) st c)

theorem bankKey_lt {s : Sled} {st c r b : Nat} (hst : st < 9) (hc : c < 16) (hr : r < 4) (hb : b < 16)
    (hmig : ∀ n < 9, (fget s.mcs {} n).mig = none) : bankKey s st c r b < 9 * 1024 := by
  have hcut (st' r' : Nat) (h : st' < 9) : cutOver s st' r' = none := by simp only [cutOver, hmig st' h]
  have hred : (redirect s st r).1 < 9 ∧ (redirect s st r).2 < 4 := by
    simp only [redirect]
    cases hk : (List.range 4).find? fun k => decide (spareEnt s k = some { stack := st, rank := r }) with
    | none =>
      simp only [hcut st r hst]
      exact ⟨hst, hr⟩
    | some k =>
      simp only [hcut 8 k (by omega)]
      exact ⟨by omega, List.mem_range.1 (List.mem_of_find?_eq_some hk)⟩
  simp only [bankKey]
  omega

/-- Scrubbing the row of a bank that can be scrubbed. -/
theorem scrubOne_row {s : Sled} {st c : Nat} {it : ScrubItem} (hcol : it.col = none) (hskip : scrubSkips s st c it =
    false)
    (hbusy : itemBusy s st c it = false) :
    (scrubOne st c it s).2 = (List.range 32).foldl (fun u k => scrubWord st c (rowPlace s st c it.bank it.row + k * 32) u)
      (scrubSlots (itemKey s st c it) 32 it s) := by
  simp [scrubOne, hskip, hbusy, scrubItem, hcol]

/-- A channel's lists of items set to none change no other part of a channel. -/
def scrubCleared (st c : Nat) (s : Sled) : Sled :=
  updChan st c (fun ch => { ch with repair := [] }) (updChan st c (fun ch => { ch with deferred := [] }) s)

/-- The cursor moves on to the next bank, and after the last to the next row. -/
def cursorOn (ch : Chan) : Chan :=
  if ch.curBank = 63 then { ch with curBank := 0, curRow := (ch.curRow + 1) % 65536 } else { ch with curBank := ch.curBank + 1 }

section patrol

variable {s : Sled} {st c : Nat} {ch : Chan} (h : scrubFree s st c ch)
include h

theorem getChan_scrubCleared : getChan (scrubCleared st c s) st c = ch := by
  obtain ⟨rfl, -, hd, hr⟩ := h
  rw [scrubCleared, getChan_updChan_same, getChan_updChan_same]
  generalize getChan s st c = ch at hd hr ⊢
  cases ch
  cases hd
  cases hr
  rfl

/-- A tick with nothing deferred scrubs the item at the cursor. -/
theorem fxPatrolScrubTick_free : fxPatrolScrubTick st c s = updChan st c cursorOn
    (scrubOne st c { bank := ch.curBank, row := ch.curRow, col := none } (scrubCleared st c s)).2 := by
  have hcl := getChan_scrubCleared h
  obtain ⟨rfl, hready, hd, hr⟩ := h
  have hrep : (getChan (updChan st c (fun ch => { ch with deferred := [] }) s) st c).repair = [] := by
    rw [getChan_updChan_same]
    exact hr
  rw [fxPatrolScrubTick, if_neg (by simp [hready])]
  simp only [hd, List.foldl_nil, hrep]
  have hcl' : updChan st c (fun ch => { ch with repair := [] }) (updChan st c (fun ch => { ch with deferred := [] }) s) =
      scrubCleared st c s := rfl
  simp only [hcl', hcl, hd, List.length_nil]
  rw [if_neg (by omega)]
  rfl

end patrol

theorem scrubCleared_frame (st c : Nat) (s : Sled) :
    scrubCleared st c s = { s with chan := (scrubCleared st c s).chan } := rfl

theorem scrubCleared_dead (st c : Nat) (s : Sled) (st' c' : Nat) :
    (getChan (scrubCleared st c s) st' c').dead = (getChan s st' c').dead :=
  (getChan_updChan_proj (F := Chan.dead) rfl st' c').trans (getChan_updChan_proj (F := Chan.dead) rfl st' c')

theorem scrubSkips_chan {s : Sled} {m : FMap Chan}
    (hd : ∀ st c, (getChan { s with chan := m } st c).dead = (getChan s st c).dead) (st c : Nat) (it : ScrubItem) :
    scrubSkips { s with chan := m } st c it = scrubSkips s st c it := by
  have hun (a b d : Nat) := unreadable_congr (s := s) (u := { s with chan := m }) rfl hd a b d
  simp only [scrubSkips, hun]
  rfl

/-- Scrubbing a row: its words from its place on, with the clock and buffer of the channel that serves it. -/
theorem scrubOne_scrubs {s : Sled} {st c b row : Nat} (hb : b < 64) (hr : row < 65536) (hst : st < 9) (hc : c < 16)
    (hskip : scrubSkips s st c { bank := b, row := row, col := none } = false)
    (hbusy : itemBusy s st c { bank := b, row := row, col := none } = false) (hmig : ∀ n < 9, (fget s.mcs {} n).mig = none) :
    ∃ m, Scrubbed (rowPlace s st c b row / 32) 32 { s with chan := m }
        (scrubOne st c { bank := b, row := row, col := none } s).2 ∧
      ∀ {α : Type} (F : Chan → α), (∀ ch n l, F { ch with clk := n, retry := l } = F ch) →
        F (getChan { s with chan := m } st c) = F (getChan s st c) := by
  rw [scrubOne_row rfl hskip hbusy]
  have hframe := scrubSlots_frame (itemKey s st c { bank := b, row := row, col := none }) 32
    { bank := b, row := row, col := none } s
  have hproj {α : Type} (F : Chan → α) (hF : ∀ ch n l, F { ch with clk := n, retry := l } = F ch) :=
    getChan_scrubSlots_proj hF (itemKey s st c { bank := b, row := row, col := none }) 32
      { bank := b, row := row, col := none } s st c
  generalize scrubSlots _ 32 _ s = v at hframe hproj ⊢
  generalize v.chan = m at hframe
  subst hframe
  have hkey := bankKey_lt (s := s) (r := b / 16) (b := b % 16) hst hc (by omega) (by omega) hmig
  have hmul : rowPlace s st c b row / 32 * 32 = rowPlace s st c b row := by
    rw [rowPlace]
    omega
  have hend : (rowPlace s st c b row / 32 + 32) * 32 ≤ 9 * 2 ^ 36 := by
    rw [rowPlace]
    omega
  have hscr := foldl_scrubWord (s := { s with chan := m }) hmig st c hend
  rw [hmul] at hscr
  exact ⟨m, hscr, hproj⟩

/-- The tick scrubs the row at the cursor, and leaves its channel as it was but for its clock, buffer and cursor. -/
theorem patrol_scrubs {s : Sled} {st c : Nat} {ch : Chan} (h : scrubFree s st c ch) (hb : ch.curBank < 64)
    (hr : ch.curRow < 65536) (hst : st < 9) (hc : c < 16)
    (hskip : scrubSkips s st c { bank := ch.curBank, row := ch.curRow, col := none } = false)
    (hbusy : itemBusy s st c { bank := ch.curBank, row := ch.curRow, col := none } = false)
    (hmig : ∀ n < 9, (fget s.mcs {} n).mig = none) :
    ∃ u m, fxPatrolScrubTick st c s = updChan st c cursorOn u ∧
      Scrubbed (rowPlace s st c ch.curBank ch.curRow / 32) 32 { s with chan := m } u ∧
      (getChan u st c).q = ch.q ∧ (getChan u st c).deferred = [] ∧ (getChan u st c).curBank = ch.curBank ∧
      (getChan u st c).curRow = ch.curRow := by
  have hch := getChan_scrubCleared h
  have hfx := fxPatrolScrubTick_free h
  have hframe := scrubCleared_frame st c s
  have hdead := scrubCleared_dead st c s
  generalize scrubCleared st c s = v at hch hfx hframe hdead
  generalize v.chan = m₀ at hframe
  subst hframe
  obtain ⟨m, hscr, hproj⟩ := scrubOne_scrubs (s := { s with chan := m₀ }) hb hr hst hc
    ((scrubSkips_chan hdead _ _ _).trans hskip) hbusy hmig
  have hgc : getChan (scrubOne st c { bank := ch.curBank, row := ch.curRow, col := none } { s with chan := m₀ }).2 st c =
      getChan { s with chan := m } st c := by
    rw [getChan, hscr.keeps.chan]
    rfl
  refine ⟨_, m, hfx, hscr, ?_⟩
  rw [hgc]
  have hd : (getChan { s with chan := m } st c).deferred = [] :=
    (hproj Chan.deferred fun _ _ _ => rfl).trans (hch ▸ h.2.2.1)
  exact ⟨(hproj Chan.q fun _ _ _ => rfl).trans (congrArg Chan.q hch), hd,
    (hproj Chan.curBank fun _ _ _ => rfl).trans (congrArg Chan.curBank hch),
    (hproj Chan.curRow fun _ _ _ => rfl).trans (congrArg Chan.curRow hch)⟩

theorem alertStarted_frame (st c r : Nat) (s : Sled) :
    alertStarted st c r s = { s with chan := (alertStarted st c r s).chan, regs := (alertStarted st c r s).regs } := rfl

theorem rGet_alertStarted (st c r : Nat) (s : Sled) : rGet (alertStarted st c r s) (bMC st) (0x1000 + 0x80 * c) =
    min (rGet s (bMC st) (0x1000 + 0x80 * c) + 1) (if kt3 s then 0xFFFF else 0xFFFFFFFF) :=
  rGet_bumpMc st c 0 (mw5Set st c r (fun w => setBit w 1 true) s)

theorem chanRegs_updChan {s t : Sled} (st c : Nat) (f : Chan → Chan) (h : t = { s with chan := t.chan, regs := t.regs })
    :
    updChan st c f t = { s with chan := (updChan st c f t).chan, regs := (updChan st c f t).regs } := by
  generalize t.chan = m, t.regs = n at h
  subst h
  rfl

theorem chanRegs_bumpMc' {s t : Sled} (st c k : Nat) (h : t = { s with chan := t.chan, regs := t.regs }) :
    bumpMc st c k t = { s with chan := (bumpMc st c k t).chan, regs := (bumpMc st c k t).regs } := by
  generalize t.chan = m, t.regs = n at h
  subst h
  rfl

theorem logRec_coll_chanRegs {s u : Sled} {r : Rec} (h : u = { s with chan := u.chan, regs := u.regs })
    (hroom : (fget s.kpr.coll [] r.island).length < 16) :
    fget (logRec r u).kpr.coll [] r.island = fget s.kpr.coll [] r.island ++ [recStamp s r] := by
  generalize u.chan = m, u.regs = n at h
  subst h
  exact logRec_coll _ _ hroom

theorem chanRegs_mw5Set {s t : Sled} (st c r : Nat) (f : Nat → Nat) (h : t = { s with chan := t.chan, regs := t.regs })
    :
    mw5Set st c r f t = { s with chan := (mw5Set st c r f t).chan, regs := (mw5Set st c r f t).regs } :=
  chanRegs_updChan st c _ h

/-- The rank that four failed attempts take out of service has its spare already: only the record is made. -/
theorem rankLost {s u : Sled} {st c r : Nat} {rec : Rec} (hu : u = { s with chan := u.chan, regs := u.regs })
    (hregs : ∀ o < 0x100000, rGet u bKPR o = rGet s bKPR o) (hst : st < 8) (ht : rec.tenant = none)
    (hroom : (fget s.kpr.coll [] rec.island).length < 16) (hmig : (fget s.mcs {} st).mig = none)
    (htaken : spareTaken s st r = true) :
    migLoses st c r (rankFatal st c r (logRec rec u)) = logRec rec u := by
  have hkpr : u.kpr = s.kpr := by rw [hu]
  have hmcs : (logRec rec u).mcs = s.mcs := by rw [logRec_mcs, hu]
  have hpend : (logRec rec u).kpr.pendingMig = s.kpr.pendingMig := by
    have h := congrArg (·.kpr.pendingMig) (logsOnly_logRec rec u).rest
    exact h.trans (congrArg (·.pendingMig) hkpr)
  have hget (k : Nat) (hk : k < 4) : rGet (logRec rec u) bKPR (8 + 8 * k) = rGet s bKPR (8 + 8 * k) := by
    rw [← hregs _ (by omega), rGet, logRec_regs_of_room ht (by rw [hkpr]; exact hroom), rGet]
  rw [rankFatal_of_taken hst (by rw [spareTaken_congr hpend (fun n => by rw [hmcs]) hget]; exact htaken),
    migLoses_of_none (by rw [hmcs]; exact hmig)]

/-- Settles O15: the alert by what its reads give, the scrub by what each word's scrub keeps and changes. -/
theorem parityReplayAndPatrolScrub : Obligations.ParityReplayAndPatrolScrub := by
  refine ⟨?_, ?_, ?_, ?_, ?_, ?_, ?_⟩
  · intro s st c r d more hrun hdead hen hp hr hbuf sp
    have hst := getChan_alertStarted st c r s.sled
    have hfx := fxCaparAlert_starts hrun hdead hen hp hr (some d :: more)
    rw [readDiscard_some (r := { rank := r, d := 0, attempts := 0, phase := 0 }) (by rw [hst]) (by rw [hst]; exact hbuf)] at hfx
    have hframe := alertStarted_frame st c r s.sled
    have hcount := rGet_alertStarted st c r s.sled
    generalize alertStarted st c r s.sled = v at hst hfx hframe hcount
    refine ⟨_, lift_next hfx, rfl, ?_⟩
    have htime : chTime v st c = chTime s.sled st c := by
      rw [chTime, hst, hframe]
      rfl
    rw [getChan_updChan_same, getChan_mw5Set, getChan_mw5Set, hst, htime]
    refine ⟨?_, ?_, ?_, hcount, ?_⟩
    · simp only [List.append_nil]
      rfl
    · simp only [mw5, fget_fset_same]
      rw [bitsOf_setBit_other _ _ (by omega), bitsOf_setBits_same, Nat.mod_eq_of_lt d.isLt]
    · simp only [mw5, fget_fset_same, bitAt_setBit_same]
    · dsimp only
      exact chanRegs_updChan st c _ (chanRegs_mw5Set st c _ _ (chanRegs_mw5Set st c _ _ hframe))
  · intro s st c r hrun hdead hen hp hr hst hlen hmig htaken hroom
    have hfx := fxCaparAlert_starts hrun hdead hen hp hr [none, none, none, none]
    rw [readDiscard_four hlen] at hfx
    have hch := getChan_alertFailed st c r 3 s.sled
    have hframe := alertFailed_frame st c r 3 s.sled
    have hregs (o : Nat) (ho : o < 0x100000) := rGet_alertFailed_kpr (r := r) 3 s.sled st.isLt c.isLt ho
    generalize alertFailed st c r 3 s.sled = v at hfx hch hframe hregs
    have hcount := chanRegs_bumpMc' st c 1 hframe
    have hget (o : Nat) (ho : o < 0x100000) := (rGet_bumpMc_kpr (k := 1) v st.isLt c.isLt (by omega) ho).trans (hregs o ho)
    have hbump : getChan (bumpMc st c 1 v) st c = getChan v st c := getChan_bumpMc ..
    rw [hch] at hbump
    generalize bumpMc st c 1 v = w at hfx hcount hget hbump
    have hlost := chanRegs_updChan st c (fun ch => { ch with
      replay := none, dead := setBit ch.dead r true
      q := takenBack ch r [] ++ ch.q
      retry := ch.retry.map fun e => if bitAt e.ranks r then { e with out := none } else e }) hcount
    rw [rankLost hlost hget hst rfl hroom hmig htaken] at hfx
    refine ⟨_, lift_next hfx, rfl, ?_⟩
    have hkpr : w.kpr = s.sled.kpr := by rw [hcount]
    rw [getChan, logRec_chan, ← getChan, getChan_updChan_same, hbump]
    refine ⟨rfl, rfl, rfl, ?_, ?_, ?_⟩
    · simp only [mw5, fget_fset_same, bitAt_setBit_same]
    · exact logRec_coll_chanRegs hlost hroom
    · refine (logRec_mem ..).trans ?_
      rw [hlost]
  · intro s st c r reads hen
    exact lift_next (if_pos (by simp [hen]))
  · intro s st c r hr hph hcmd u
    refine lift_next ?_
    simp only [fxCaparRecovWaitEnd, hr]
    exact if_pos ⟨hph, hcmd⟩
  · intro s st c r hr hph htodo hcmd ha u
    refine lift_next ?_
    simp only [fxCaparReplayWindowEnd, hr]
    rw [if_neg (by simp [hph, htodo]; omega), if_pos ha]
  · intro s st c r hr hph htodo hcmd ha u v
    refine lift_next ?_
    simp only [fxCaparReplayWindowEnd, hr]
    rw [if_neg (by simp [hph, htodo]; omega), if_neg (by omega)]
  · intro s st c ch it h hit hb hrow hskip hbusy hmig
    subst hit
    obtain ⟨u, m, hfx, hscr, hq, hd, hcb, hcr⟩ :=
      patrol_scrubs h hb hrow st.isLt c.isLt hskip hbusy fun n hn => hmig ⟨n, hn⟩
    refine ⟨_, lift_next hfx, rfl, hscr.ecc, hscr.mem, ?_, ?_, ?_, ?_, hscr.keeps.ctr, hscr.keeps.sem, hscr.keeps.fl⟩
    all_goals rw [getChan_updChan_same, cursorOn]
    · split <;> simp only [hcb] <;> omega
    · split <;> simp_all
    · split <;> exact hq
    · split <;> exact hd

end Sys2Proof.Machine

/-! ## Training steps (O16: spec/07, R128 to R131; spec/22, R428) -/
namespace Sys2Proof.Machine
open Sys2Proof

/-! ### Stacks and register fields -/

@[simp] theorem fget_updMcs_same (st : Nat) (f : Mcs → Mcs) (s : Sled) :
    fget (updMcs st f s).mcs {} st = f (fget s.mcs {} st) := fget_fset_same _ _ _ _

theorem fget_updMcs_other {st st' : Nat} (f : Mcs → Mcs) (s : Sled) (h : st' ≠ st) :
    fget (updMcs st f s).mcs {} st' = fget s.mcs {} st' := fget_fset_other _ _ _ h

theorem rField_rSetField_other {blk off lo len v lo' len' : Nat} (s : Sled) (h64 : lo + len ≤ 64)
    (h : lo' + len' ≤ lo ∨ lo + len ≤ lo') :
    rField (rSetField blk off lo len v s) blk off lo' len' = rField s blk off lo' len' := by
  rw [rField, rGet_rSetField _ _ _ _ _ _ h64, bitsOf_setBits_other _ _ _ _ h, rField]

theorem rSetField_frame (blk off lo len v : Nat) (s : Sled) :
    rSetField blk off lo len v s = { s with regs := (rSetField blk off lo len v s).regs } := rfl

theorem swField_of_unlocked {s : Sled} {blk off : Nat} (h : lockedReg s blk off = false) (lo len v : Nat) :
    swField blk off lo len v s = rSetField blk off lo len v s := by
  rw [swField, h]
  rfl

theorem swField_frame (blk off lo len v : Nat) (s : Sled) :
    swField blk off lo len v s = { s with regs := (swField blk off lo len v s).regs } := by
  unfold swField
  split <;> rfl

/-- A write of one field, taken or refused by the lock, leaves the other fields of a register beside GLB_STATUS. -/
theorem rField_swField_other {blk off lo len v lo' len' : Nat} (s : Sled) (h64 : lo + len ≤ 64)
    (h : lo' + len' ≤ lo ∨ lo + len ≤ lo') (hoff : off < 0x100000) (hblk : blk ≠ bGLB) :
    rField (swField blk off lo len v s) blk off lo' len' = rField s blk off lo' len' := by
  unfold swField
  split
  · rw [rField, lockHit, rSetField, rGet_rSet_ne _ _ hoff (by decide) (fun hp => hblk (Prod.mk.inj hp).1), rField]
  · exact rField_rSetField_other s h64 h

/-! ### The helper's queue -/

theorem mem_queueStep (x y : Nat × Nat × Nat) (l : List (Nat × Nat × Nat)) : y ∈ queueStep x l ↔ y ∈ l ∨ y = x := by
  induction l with
  | nil => simp [queueStep]
  | cons z l ih =>
    rw [queueStep]
    split
    · simp only [List.mem_cons]
      tauto
    · simp only [List.mem_cons, ih]
      tauto

/-- The queue stays in ascending channel order. -/
theorem pairwise_queueStep {x : Nat × Nat × Nat} {l : List (Nat × Nat × Nat)} (hx : ∀ y ∈ l, y.1 ≠ x.1)
    (hl : l.Pairwise fun x y => x.1 < y.1) : (queueStep x l).Pairwise fun x y => x.1 < y.1 := by
  induction l with
  | nil => simp [queueStep]
  | cons z l ih =>
    obtain ⟨hz, hl⟩ := List.pairwise_cons.1 hl
    rw [queueStep]
    split
    case isTrue hlt =>
      refine List.pairwise_cons.2 ⟨fun y hy => ?_, List.pairwise_cons.2 ⟨hz, hl⟩⟩
      rcases List.mem_cons.1 hy with rfl | hy
      · exact hlt
      · exact hlt.trans (hz y hy)
    case isFalse hlt =>
      have hne := hx z List.mem_cons_self
      refine List.pairwise_cons.2 ⟨fun y hy => ?_, ih (fun y hy => hx y (List.mem_cons_of_mem _ hy)) hl⟩
      rcases (mem_queueStep x y l).1 hy with hy | rfl
      · exact hz y hy
      · omega

theorem helperNext_frame (st : Nat) (s : Sled) : helperNext st s = { s with mcs := (helperNext st s).mcs } := by
  unfold helperNext
  split <;> rfl

/-- While a step runs the helper takes no other. -/
theorem fget_helperNext_busy {st : Nat} {s : Sled} {h : Nat × Nat × Nat} (hh : (fget s.mcs {} st).helper = some h) :
    fget (helperNext st s).mcs {} st = fget s.mcs {} st := by
  unfold helperNext
  split
  · rfl
  · rw [fget_updMcs_same, nextStep, hh]

/-- With nothing queued the helper stays as it is. -/
theorem fget_helperNext_empty {st : Nat} {s : Sled} (hq : (fget s.mcs {} st).helperQ = []) :
    fget (helperNext st s).mcs {} st = fget s.mcs {} st := by
  unfold helperNext
  split
  · rfl
  · rw [fget_updMcs_same, nextStep, hq]
    split
    · simp_all
    · rfl

/-! ### The GO -/

/-- The operand fields of a GO, taken with it. -/
def trainOperands (st c stp rank : Nat) (fin : Bool) (s : Sled) : Sled :=
  swField (bMC st) (offTrain c) 0 3 stp (swField (bMC st) (offTrain c) 4 2 rank (swField (bMC st) (offTrain c) 10 1 (b2n fin) s))

theorem fxTrainStepGo_eq {s : Sled} {st : Nat} (hrun : islRuns s (iMC st) = true) (hx : crossHeld s (bMC st) = false)
    (c stp rank : Nat) (fin : Bool) : fxTrainStepGo st c stp rank fin s =
      trainGo st c (rField (trainOperands st c stp rank fin s) (bMC st) (offTrain c) 0 3)
        (rField (trainOperands st c stp rank fin s) (bMC st) (offTrain c) 4 2) (trainOperands st c stp rank fin s) := by
  simp only [fxTrainStepGo, hrun, hx, Bool.not_true, Bool.false_eq_true, if_false]
  rfl

theorem trainOperands_frame (st c stp rank : Nat) (fin : Bool) (s : Sled) :
    trainOperands st c stp rank fin s = { s with regs := (trainOperands st c stp rank fin s).regs } := by
  rw [trainOperands, swField_frame, swField_frame, swField_frame]

theorem offTrain_lt {c : Nat} (hc : c < 16) : offTrain c < 0x100000 := by
  simp only [offTrain]
  omega

theorem bMC_ne_bGLB (st : Nat) : bMC st ≠ bGLB := by
  simp only [bMC, bGLB]
  omega

theorem trainOperands_owner {st c : Nat} (hc : c < 16) (stp rank : Nat) (fin : Bool) (s : Sled) :
    rField (trainOperands st c stp rank fin s) (bMC st) (offTrain c) 11 1 = rField s (bMC st) (offTrain c) 11 1 := by
  have hoff := offTrain_lt hc
  have hblk := bMC_ne_bGLB st
  rw [trainOperands, rField_swField_other _ (by omega) (by omega) hoff hblk,
    rField_swField_other _ (by omega) (by omega) hoff hblk, rField_swField_other _ (by omega) (by omega) hoff hblk]

/-- The operands that a GO reads back are those written with it. -/
theorem trainOperands_fields {st c stp rank : Nat} {fin : Bool} {s : Sled} (hstp : stp < 8) (hr : rank < 4)
    (hfree : lockedReg s (bMC st) (offTrain c) = false) :
    rField (trainOperands st c stp rank fin s) (bMC st) (offTrain c) 0 3 = stp ∧
      rField (trainOperands st c stp rank fin s) (bMC st) (offTrain c) 4 2 = rank ∧
      rField (trainOperands st c stp rank fin s) (bMC st) (offTrain c) 10 1 = b2n fin := by
  have hset : trainOperands st c stp rank fin s = rSetField (bMC st) (offTrain c) 0 3 stp
      (rSetField (bMC st) (offTrain c) 4 2 rank (rSetField (bMC st) (offTrain c) 10 1 (b2n fin) s)) := by
    rw [trainOperands, swField_of_unlocked hfree,
      swField_of_unlocked (s := rSetField (bMC st) (offTrain c) 10 1 (b2n fin) s) hfree,
      swField_of_unlocked (s := rSetField (bMC st) (offTrain c) 4 2 rank (rSetField (bMC st) (offTrain c) 10 1 (b2n fin) s)) hfree]
  have hfin : b2n fin < 2 := by cases fin <;> decide
  rw [hset]
  refine ⟨?_, ?_, ?_⟩
  · rw [rField_rSetField_same _ _ _ _ _ _ (by omega)]
    exact Nat.mod_eq_of_lt hstp
  · rw [rField_rSetField_other _ (by omega) (by omega), rField_rSetField_same _ _ _ _ _ _ (by omega)]
    exact Nat.mod_eq_of_lt hr
  · rw [rField_rSetField_other _ (by omega) (by omega), rField_rSetField_other _ (by omega) (by omega),
      rField_rSetField_same _ _ _ _ _ _ (by omega)]
    exact Nat.mod_eq_of_lt hfin

/-- A GO for a channel with no step of its own queues its step. -/
theorem trainGo_queues {s : Sled} {st c stp rank : Nat} (hown : rField s (bMC st) (offTrain c) 11 1 = 0) (h0 : stp ≠ 0)
    (h7 : stp ≠ 7) (hh : ∀ h, (fget s.mcs {} st).helper = some h → h.1 ≠ c)
    (hq : ∀ x ∈ (fget s.mcs {} st).helperQ, x.1 ≠ c) :
    trainGo st c stp rank s =
      helperNext st (updMcs st (fun m => { m with helperQ := queueStep (c, stp, rank) m.helperQ }) s) := by
  have hno : ((fget s.mcs {} st).helper.any (fun x => x.1 = c) || (fget s.mcs {} st).helperQ.any fun x => x.1 = c) = false := by
    rw [Bool.or_eq_false_iff, List.any_eq_false]
    refine ⟨?_, fun x hx => by simpa using hq x hx⟩
    cases hm : (fget s.mcs {} st).helper with
    | none => rfl
    | some h => simpa using hh h hm
  simp only [trainGo, ownerHw, hown, hno]
  simp [h0, h7]

/-! ### Delay sets -/

/-- Below its first key a canonical map reads its default. -/
theorem fget_of_lt {α : Type} [DecidableEq α] {d : α} {lo : Nat} {m : FMap α} (h : fwfFrom d lo m = true) {k : Nat} (hk
    : k < lo) :
    fget m d k = d := by
  induction m generalizing lo with
  | nil => rfl
  | cons p m ih =>
    obtain ⟨a, v⟩ := p
    simp only [fwfFrom, Bool.and_eq_true, decide_eq_true_eq] at h
    obtain ⟨⟨ha, -⟩, hm⟩ := h
    rw [fget, if_neg (by omega)]
    exact ih hm (by omega)

/-- The keys of a canonical map are at least its bound. -/
theorem le_key_of_fwfFrom {α : Type} [DecidableEq α] {d : α} {lo : Nat} {m : FMap α} (h : fwfFrom d lo m = true)
    {x : Nat × α} (hx : x ∈ m) : lo ≤ x.1 := by
  induction m generalizing lo with
  | nil => cases hx
  | cons p m ih =>
    obtain ⟨a, v⟩ := p
    simp only [fwfFrom, Bool.and_eq_true, decide_eq_true_eq] at h
    obtain ⟨⟨ha, -⟩, hm⟩ := h
    rcases List.mem_cons.1 hx with rfl | hx
    · exact ha
    · exact (Nat.le_succ_of_le ha).trans (ih hm hx)

theorem fget_foldl_other {α : Type} [DecidableEq α] {d : α} {l : FMap α} {k : Nat} (m : FMap α) (h : ∀ x ∈ l, x.1 ≠ k) :
    fget (l.foldl (fun m x => fset m d x.1 x.2) m) d k = fget m d k := by
  induction l generalizing m with
  | nil => rfl
  | cons x l ih =>
    rw [List.foldl_cons, ih _ fun y hy => h y (List.mem_cons_of_mem _ hy),
      fget_fset_other _ _ _ (h x List.mem_cons_self).symm]

/-- Listing some entries of a canonical map in another map, where that one reads the default. -/
theorem fget_foldl_filter {α : Type} [DecidableEq α] {d : α} {lo : Nat} {l : FMap α} (h : fwfFrom d lo l = true) (p :
    Nat → Bool)
    (m : FMap α) (k : Nat) (hm : p k = true → fget m d k = d) :
    fget ((l.filter fun x => p x.1).foldl (fun m x => fset m d x.1 x.2) m) d k = if p k then fget l d k else fget m d k := by
  induction l generalizing lo m with
  | nil =>
    simp only [List.filter_nil, List.foldl_nil, fget_nil]
    split
    case isTrue hp => exact hm hp
    case isFalse => rfl
  | cons x l ih =>
    obtain ⟨a, v⟩ := x
    simp only [fwfFrom, Bool.and_eq_true, decide_eq_true_eq] at h
    obtain ⟨-, hl⟩ := h
    by_cases hk : k = a
    · subst hk
      have hrest (m' : FMap α) : fget ((l.filter fun x => p x.1).foldl (fun m x => fset m d x.1 x.2) m') d k = fget m' d k :=
        fget_foldl_other m' fun x hx => (Nat.ne_of_gt (le_key_of_fwfFrom hl (List.mem_of_mem_filter hx)))
      cases hp : p k with
      | true => simp [hp, hrest, fget]
      | false => simp [hp, hrest]
    · cases hp : p a with
      | true =>
        rw [List.filter_cons_of_pos (by simpa using hp), List.foldl_cons,
          ih hl _ (fun h => by rw [fget_fset_other _ _ _ hk]; exact hm h), fget_fset_other _ _ _ hk, fget,
          if_neg (Ne.symm hk)]
      | false =>
        rw [List.filter_cons_of_neg (by simp [hp]), ih hl _ hm, fget, if_neg (Ne.symm hk)]

/-- After the copy a channel's live set is its shadow set; the others stay. -/
theorem fget_copyShadow {m : Mcs} (h : fwf (0 : Nat) m.dlyShadow = true) (set c k : Nat) :
    fget (copyShadow set c m).dlyLive 0 k = if ofChan set c k then fget m.dlyShadow 0 k else fget m.dlyLive 0 k := by
  have hold : fget (fdrop m.dlyLive fun k _ => ofChan set c k) 0 k = if ofChan set c k then 0 else fget m.dlyLive 0 k :=
    fget_fdrop ..
  rw [copyShadow]
  dsimp only
  rw [fget_foldl_filter h (ofChan set c) _ k (fun hk => by rw [hold, if_pos hk]), hold]
  split <;> rfl

theorem fwf_foldl_fset {α β : Type} [DecidableEq α] {d : α} {m : FMap α} (h : fwf d m = true) (key : β → Nat) (v : FMap
    α → β → α)
    (l : List β) : fwf d (l.foldl (fun m x => fset m d (key x) (v m x)) m) = true := by
  induction l generalizing m with
  | nil => exact h
  | cons x l ih => exact ih (fwf_fset d _ _ h)

/-! ### The end of a step -/

/-- The report of a step in its channel's register. -/
def stepReport (st c : Nat) (pass : Bool) (res : TrainResult) (s : Sled) : Sled :=
  rSetField (bMC st) (offTrain c) 24 8 res.devMax.toNat (rSetField (bMC st) (offTrain c) 16 8 res.eyeMin.toNat
    (rSetField (bMC st) (offTrain c) 12 1 (b2n pass) s))

/-- The sled with the delays of a finished step in the shadow set, and with FINAL in the live set. -/
def stepDelays (st c rank set : Nat) (res : TrainResult) (s : Sled) : Sled :=
  if rField s (bMC st) (offTrain c) 10 1 = 1 then
    updMcs st (copyShadow set c) (updMcs st (writeShadow set c rank res.delays) s)
  else updMcs st (writeShadow set c rank res.delays) s

/-- What the end of a step makes of its stack's held writes, its helper and the steps passed. -/
def stepEnded (c stp rank : Nat) (pass : Bool) (m : Mcs) : Mcs :=
  { m with
    dlyShadow := m.heldDly.foldl (fun d x => if ofChan 0 c x.1 then fset d 0 x.1 x.2 else d) m.dlyShadow
    heldDly := m.heldDly.filter fun x => !ofChan 0 c x.1
    helper := none
    passed := fset m.passed 0 (c * 4 + rank) (setBit (fget m.passed 0 (c * 4 + rank)) stp pass)
    failed := fset m.failed 0 (c * 4 + rank) (setBit (fget m.failed 0 (c * 4 + rank)) stp (!pass)) }

/-- The sled once a step has reported and the helper is free for the next. -/
def stepTaken (st c stp rank : Nat) (pass : Bool) (res : TrainResult) (s : Sled) : Sled :=
  helperNext st (updMcs st (stepEnded c stp rank pass)
    (stepDelays st c rank (liveSet (fget s.mcs {} st)) res (stepReport st c pass res s)))

/-- What the failure of a step brings about. -/
def stepOutcome (st c stp rank : Nat) (pass : Bool) (s : Sled) : Sled :=
  if pass then s
  else if stp = 6 then
    logRec (mkRec 0x9006 iCTL) { s with kpr := { s.kpr with fullTrain := setBit s.kpr.fullTrain st true } }
  else trainFail st c rank s

/-- The channel comes up once it is trained. -/
def upIfTrained (st c : Nat) (s : Sled) : Sled := if chanTrained s st c then chanUp st c s else s

theorem fxTrainStepDone_eq {s : Sled} {st c stp rank : Nat} (hh : (fget s.mcs {} st).helper = some (c, stp, rank))
    (hrun : islRuns s (iMC st) = true) (res : TrainResult) {pass : Bool}
    (hp : (res.pass && (stp = 5 || 24 ≤ res.eyeMin.toNat)) = pass) :
    fxTrainStepDone st c res s = upIfTrained st c (stepOutcome st c stp rank pass (stepTaken st c stp rank pass res s)) := by
  subst hp
  simp only [fxTrainStepDone, hh, hrun, not_true_eq_false, ne_eq, Bool.not_true, Bool.false_eq_true, or_self, if_false]
  rfl

theorem stepReport_frame (st c : Nat) (pass : Bool) (res : TrainResult) (s : Sled) :
    stepReport st c pass res s = { s with regs := (stepReport st c pass res s).regs } := rfl

theorem stepReport_mcs (st c : Nat) (pass : Bool) (res : TrainResult) (s : Sled) :
    (stepReport st c pass res s).mcs = s.mcs := by
  rw [stepReport_frame]

theorem copyShadow_frame (set c : Nat) (m : Mcs) : copyShadow set c m = { m with dlyLive := (copyShadow set c m).dlyLive
    } := rfl

theorem writeShadow_frame (set c rank : Nat) (l : List (Fin 96 × Bool × BitVec 6)) (m : Mcs) :
    writeShadow set c rank l m = { m with dlyShadow := (writeShadow set c rank l m).dlyShadow } := rfl

theorem stepDelays_frame (st c rank set : Nat) (res : TrainResult) (s : Sled) :
    stepDelays st c rank set res s = { s with mcs := (stepDelays st c rank set res s).mcs } := by
  unfold stepDelays
  split <;> rfl

theorem stepTaken_frame (st c stp rank : Nat) (pass : Bool) (res : TrainResult) (s : Sled) :
    stepTaken st c stp rank pass res s =
      { s with mcs := (stepTaken st c stp rank pass res s).mcs, regs := (stepReport st c pass res s).regs } := by
  rw [stepTaken, helperNext_frame, updMcs, stepDelays_frame, stepReport_frame]

theorem rField_congr {s t : Sled} (h : t.regs = s.regs) (blk off lo len : Nat) :
    rField t blk off lo len = rField s blk off lo len := by
  rw [rField, rGet, h, rField, rGet]

theorem stepTaken_regs (st c stp rank : Nat) (pass : Bool) (res : TrainResult) (s : Sled) :
    (stepTaken st c stp rank pass res s).regs = (stepReport st c pass res s).regs := by
  rw [stepTaken_frame]

/-- What the report of a step says; FINAL stays as it was. -/
theorem rField_stepReport (st c : Nat) (pass : Bool) (res : TrainResult) (s : Sled) :
    rField (stepReport st c pass res s) (bMC st) (offTrain c) 12 1 = b2n pass ∧
      rField (stepReport st c pass res s) (bMC st) (offTrain c) 16 8 = res.eyeMin.toNat ∧
      rField (stepReport st c pass res s) (bMC st) (offTrain c) 24 8 = res.devMax.toNat ∧
      rField (stepReport st c pass res s) (bMC st) (offTrain c) 10 1 = rField s (bMC st) (offTrain c) 10 1 := by
  have hpass : b2n pass < 2 := by cases pass <;> decide
  rw [stepReport]
  refine ⟨?_, ?_, ?_, ?_⟩
  · rw [rField_rSetField_other _ (by omega) (by omega), rField_rSetField_other _ (by omega) (by omega),
      rField_rSetField_same _ _ _ _ _ _ (by omega)]
    exact Nat.mod_eq_of_lt hpass
  · rw [rField_rSetField_other _ (by omega) (by omega), rField_rSetField_same _ _ _ _ _ _ (by omega)]
    exact Nat.mod_eq_of_lt res.eyeMin.isLt
  · rw [rField_rSetField_same _ _ _ _ _ _ (by omega)]
    exact Nat.mod_eq_of_lt res.devMax.isLt
  · rw [rField_rSetField_other _ (by omega) (by omega), rField_rSetField_other _ (by omega) (by omega),
      rField_rSetField_other _ (by omega) (by omega)]

/-- The stack's delays after a step, before the writes that waited for it. -/
theorem fget_stepDelays (st c rank set : Nat) (res : TrainResult) (s : Sled) :
    fget (stepDelays st c rank set res s).mcs {} st =
      if rField s (bMC st) (offTrain c) 10 1 = 1 then
        copyShadow set c (writeShadow set c rank res.delays (fget s.mcs {} st))
      else writeShadow set c rank res.delays (fget s.mcs {} st) := by
  unfold stepDelays
  split
  · rw [fget_updMcs_same, fget_updMcs_same]
  · rw [fget_updMcs_same]

/-- A step's delays change nothing else of its stack. -/
theorem stepDelays_keeps (st c rank set : Nat) (pass : Bool) (res : TrainResult) (s : Sled) :
    ∃ live shadow, fget (stepDelays st c rank set res (stepReport st c pass res s)).mcs {} st =
      { fget s.mcs {} st with dlyLive := live, dlyShadow := shadow } := by
  rw [fget_stepDelays, stepReport_mcs]
  split
  · rw [copyShadow_frame, writeShadow_frame]
    exact ⟨_, _, rfl⟩
  · rw [writeShadow_frame]
    exact ⟨_, _, rfl⟩

/-- The stack after a step with nothing queued. -/
theorem fget_stepTaken_quiet {s : Sled} {st : Nat} (hq : (fget s.mcs {} st).helperQ = []) (c stp rank : Nat) (pass :
    Bool)
    (res : TrainResult) : fget (stepTaken st c stp rank pass res s).mcs {} st = stepEnded c stp rank pass
      (fget (stepDelays st c rank (liveSet (fget s.mcs {} st)) res (stepReport st c pass res s)).mcs {} st) := by
  rw [stepTaken, fget_helperNext_empty, fget_updMcs_same]
  obtain ⟨live, shadow, h⟩ := stepDelays_keeps st c rank (liveSet (fget s.mcs {} st)) pass res s
  rw [fget_updMcs_same, h]
  exact hq

theorem nextStep_mig (m : Mcs) : (nextStep m).mig = m.mig := by
  unfold nextStep
  split <;> rfl

theorem helperNext_mig (st n : Nat) (s : Sled) : (fget (helperNext st s).mcs {} n).mig = (fget s.mcs {} n).mig := by
  unfold helperNext
  split
  · rfl
  · by_cases h : n = st
    · subst h
      rw [fget_updMcs_same, nextStep_mig]
    · rw [fget_updMcs_other _ _ h]

theorem fget_helperNext_other {st n : Nat} (h : n ≠ st) (s : Sled) :
    fget (helperNext st s).mcs {} n = fget s.mcs {} n := by
  unfold helperNext
  split
  · rfl
  · rw [fget_updMcs_other _ _ h]

theorem fget_stepDelays_other {st n : Nat} (h : n ≠ st) (c rank set : Nat) (res : TrainResult) (s : Sled) :
    fget (stepDelays st c rank set res s).mcs {} n = fget s.mcs {} n := by
  unfold stepDelays
  split
  · rw [fget_updMcs_other _ _ h, fget_updMcs_other _ _ h]
  · rw [fget_updMcs_other _ _ h]

theorem fget_stepTaken_other {st n : Nat} (h : n ≠ st) (c stp rank : Nat) (pass : Bool) (res : TrainResult) (s : Sled) :
    fget (stepTaken st c stp rank pass res s).mcs {} n = fget s.mcs {} n := by
  rw [stepTaken, fget_helperNext_other h, fget_updMcs_other _ _ h, fget_stepDelays_other h, stepReport_mcs]

/-- A step leaves the migrations of every stack. -/
theorem stepTaken_mig (st c stp rank : Nat) (pass : Bool) (res : TrainResult) (s : Sled) (n : Nat) :
    (fget (stepTaken st c stp rank pass res s).mcs {} n).mig = (fget s.mcs {} n).mig := by
  by_cases h : n = st
  · subst h
    rw [stepTaken, helperNext_mig, fget_updMcs_same]
    obtain ⟨live, shadow, h⟩ := stepDelays_keeps n c rank (liveSet (fget s.mcs {} n)) pass res s
    rw [h, stepEnded]
  · rw [fget_stepTaken_other h]

/-- Neither the report nor the trainings of stack `st` touch what the spares depend on. -/
theorem spareEnt_congr {s t : Sled} (h : ∀ k < 4, rGet t bKPR (8 + 8 * k) = rGet s bKPR (8 + 8 * k)) {k : Nat} (hk : k <
    4) :
    spareEnt t k = spareEnt s k := by
  rw [spareEnt, spareEnt, h k hk]

theorem migInto_congr {s t : Sled} (h : ∀ n, (fget t.mcs {} n).mig = (fget s.mcs {} n).mig) (k : Nat) :
    migInto t k = migInto s k := by
  simp only [migInto, h]

/-- A spare is free as long as its stack's training, the migrations and the spare map stay. -/
theorem spareFree_congr {s t : Sled} (hb : t.kpr.badSpares = s.kpr.badSpares) (h8 : fget t.mcs {} 8 = fget s.mcs {} 8)
    (hm : ∀ n, (fget t.mcs {} n).mig = (fget s.mcs {} n).mig) (he : ∀ k < 4, rGet t bKPR (8 + 8 * k) = rGet s bKPR (8 + 8 * k))
    {k : Nat} (hk : k < 4) : spareFree t k = spareFree s k := by
  simp only [spareFree, trained, hb, h8, spareEnt_congr he hk, migInto_congr hm]

theorem upIfTrained_frame (st c : Nat) (s : Sled) :
    upIfTrained st c s = { s with chan := (upIfTrained st c s).chan } := by
  unfold upIfTrained chanUp
  split
  · split <;> rfl
  · rfl

/-- A trained channel that is not off is up. -/
theorem upIfTrained_online {st c : Nat} {s : Sled} (ht : chanTrained s st c = true) (hoff : (getChan s st c).off =
    false) :
    (getChan (upIfTrained st c s) st c).online = true := by
  rw [upIfTrained, if_pos ht, chanUp, if_neg (by simp [hoff]), getChan_updChan_same]

theorem chanTrained_congr {s t : Sled} (hp : t.kpr.pendingMig = s.kpr.pendingMig) (hm : t.mcs = s.mcs) (hr : t.regs =
    s.regs)
    (st c : Nat) : chanTrained t st c = chanTrained s st c := by
  have htk (r : Nat) : spareTaken t st r = spareTaken s st r :=
    spareTaken_congr hp (fun n => by rw [hm]) (fun k _ => by rw [rGet, rGet, hr]) st r
  simp only [chanTrained, chanUsable, trained, hm, htk]

/-- A fatal trigger with a spare to be had notes the migration. -/
theorem trainFail_pending {s : Sled} {st r : Nat} (hst : st < 8) (ht : spareTaken s st r = false)
    (hfree : s.kpr.pendingMig.length < ((List.range 4).filter (spareFree s)).length) (c : Nat)
    (hroom : (fget s.kpr.coll [] (iMC st)).length < 16) :
    let u := logRec { mkRec 0x3005 (iMC st) with object := r * 16 + c * 64 + st * 1024 } s
    trainFail st c r s = { u with kpr := { u.kpr with pendingMig := s.kpr.pendingMig ++ [(st, r, true)] } } := by
  intro u
  have hlog : LogsOnly s u := logsOnly_logRec _ s
  have hregs : u.regs = s.regs := logRec_regs_of_room rfl hroom
  have hpend : u.kpr.pendingMig = s.kpr.pendingMig := congrArg (·.kpr.pendingMig) hlog.rest
  have hbad : u.kpr.badSpares = s.kpr.badSpares := congrArg (·.kpr.badSpares) hlog.rest
  have hmcs : u.mcs = s.mcs := congrArg (·.mcs) hlog.rest
  have hr (k : Nat) : rGet u bKPR (8 + 8 * k) = rGet s bKPR (8 + 8 * k) := by rw [rGet, rGet, hregs]
  have htk : spareTaken u st r = false := (spareTaken_congr hpend (fun n => by rw [hmcs]) (fun k _ => hr k) st r).trans ht
  have hcount : (List.range 4).filter (spareFree u) = (List.range 4).filter (spareFree s) :=
    List.filter_congr fun k hk =>
      spareFree_congr hbad (by rw [hmcs]) (fun n => by rw [hmcs]) (fun k _ => hr k) (List.mem_range.1 hk)
  have htrig : spareTrigger st r true u =
      (false, { u with kpr := { u.kpr with pendingMig := u.kpr.pendingMig ++ [(st, r, true)] } }) := by
    rw [spareTrigger, if_neg (fun h => absurd h.1 (by omega)), if_neg (by simp [htk]), if_pos (by rw [hcount, hpend]; exact hfree)]
  rw [trainFail, rankFatal, show logRec _ s = u from rfl, htrig, ← hpend]

/-- The end of a step writes no register of the keeper. -/
theorem rGet_stepTaken_kpr {st : Nat} (hst : st < 9) {c : Nat} (hc : c < 16) (stp rank : Nat) (pass : Bool) (res :
    TrainResult)
    (s : Sled) {off : Nat} (ho : off < 0x100000) : rGet (stepTaken st c stp rank pass res s) bKPR off = rGet s bKPR off := by
  have hne (x lo len v : Nat) (u : Sled) : rGet (rSetField (bMC st) (offTrain c) lo len v u) bKPR off = rGet u bKPR off := by
    refine rGet_rSet_ne _ _ ho (offTrain_lt hc) fun h => ?_
    have := (Prod.mk.inj h).1
    simp only [bKPR, bMC] at this
    omega
  rw [rGet, stepTaken_regs, ← rGet, stepReport, hne 0, hne 0, hne 0]

theorem liftHold_next {f : Sled → Sled} {s : State} {u : Sled} (h : f s.sled = u) (hs : u.stall = s.sled.stall) :
    liftHold f s = .next { s with sled := u } := by
  rw [liftHold_eq (by rw [h, hs]), h]

/-- A GO in a channel with no step of its own takes its operands and queues its step. -/
theorem fxTrainStepGo_queues {s : Sled} {st c stp rank : Nat} {fin : Bool} (hc : c < 16) (hstp : stp < 8) (hr : rank <
    4)
    (hrun : islRuns s (iMC st) = true) (hx : crossHeld s (bMC st) = false) (hlock : lockedReg s (bMC st) (offTrain c) = false)
    (hown : rField s (bMC st) (offTrain c) 11 1 = 0) (h0 : stp ≠ 0) (h7 : stp ≠ 7)
    (hh : ∀ h, (fget s.mcs {} st).helper = some h → h.1 ≠ c) (hq : ∀ x ∈ (fget s.mcs {} st).helperQ, x.1 ≠ c) :
    ∃ u, u = { s with regs := u.regs } ∧ rField u (bMC st) (offTrain c) 0 3 = stp ∧ rField u (bMC st) (offTrain c) 4 2 = rank ∧
      rField u (bMC st) (offTrain c) 10 1 = b2n fin ∧ fxTrainStepGo st c stp rank fin s =
        helperNext st (updMcs st (fun m => { m with helperQ := queueStep (c, stp, rank) m.helperQ }) u) := by
  obtain ⟨f0, f4, f10⟩ := trainOperands_fields (fin := fin) hstp hr hlock
  have hfr := trainOperands_frame st c stp rank fin s
  have hfx := fxTrainStepGo_eq hrun hx c stp rank fin
  have hown' := (trainOperands_owner hc stp rank fin s).trans hown
  rw [f0, f4] at hfx
  refine ⟨_, hfr, f0, f4, f10, ?_⟩
  generalize trainOperands st c stp rank fin s = u at *
  have hmcs : u.mcs = s.mcs := by rw [hfr]
  rw [hfx, trainGo_queues hown' h0 h7 (by rw [hmcs]; exact hh) (by rw [hmcs]; exact hq)]

/-- What the helper's queue and the registers become after a GO that is taken. -/
theorem stepQueued_frame {s u : Sled} (hu : u = { s with regs := u.regs }) (st : Nat) (f : Mcs → Mcs) :
    helperNext st (updMcs st f u) =
      { s with mcs := (helperNext st (updMcs st f u)).mcs, regs := (helperNext st (updMcs st f u)).regs } ∧
    (helperNext st (updMcs st f u)).regs = u.regs := by
  have h : helperNext st (updMcs st f u) = { s with mcs := (helperNext st (updMcs st f u)).mcs, regs := u.regs } := by
    rw [helperNext_frame, updMcs]
    generalize (helperNext _ _).mcs = m, u.regs = n at hu ⊢
    subst hu
    rfl
  exact ⟨by rw [h], by rw [h]⟩

theorem stepEnded_dlyShadow {m : Mcs} (h : m.heldDly = []) (c stp rank : Nat) (pass : Bool) :
    (stepEnded c stp rank pass m).dlyShadow = m.dlyShadow := by
  rw [stepEnded, h]
  rfl

/-- A passed step: the stack's delays, its helper and the steps passed. -/
theorem stepTaken_passed {s : Sled} {st : Nat} {m : Mcs} (hm : m = fget s.mcs {} st) (hq : m.helperQ = [])
    (hd : m.heldDly = []) (c stp rank : Nat) (res : TrainResult) :
    let m' := fget (stepTaken st c stp rank true res s).mcs {} st
    let w := writeShadow (liveSet m) c rank res.delays m
    m'.dlyShadow = w.dlyShadow ∧
      m'.dlyLive = (if rField s (bMC st) (offTrain c) 10 1 = 1 then (copyShadow (liveSet m) c w).dlyLive else m.dlyLive) ∧
      m'.helper = none ∧ bitAt (fget m'.passed 0 (c * 4 + rank)) stp = true := by
  intro m' w
  obtain ⟨-, -, -, r10⟩ := rField_stepReport st c true res s
  have hdel := fget_stepDelays st c rank (liveSet m) res (stepReport st c true res s)
  rw [r10, stepReport_mcs, ← hm] at hdel
  have hget : m' = stepEnded c stp rank true (fget (stepDelays st c rank (liveSet m) res (stepReport st c true res s)).mcs {} st) := by
    rw [hm]
    exact fget_stepTaken_quiet (by rw [← hm]; exact hq) ..
  rw [hdel] at hget
  have hbit : bitAt (fget m'.passed 0 (c * 4 + rank)) stp = true := by
    rw [hget, stepEnded]
    dsimp only
    rw [fget_fset_same, bitAt_setBit_same]
  have hhelp : m'.helper = none := by rw [hget, stepEnded]
  refine ⟨?_, ?_, hhelp, hbit⟩
  · rw [hget, stepEnded_dlyShadow]
    · split <;> rfl
    · split <;> exact hd
  · rw [hget, stepEnded]
    split <;> rfl

theorem keeps_of_chanOnly {s t : Sled} (h : t = { s with chan := t.chan }) :
    t.mcs = s.mcs ∧ t.regs = s.regs ∧ t.kpr = s.kpr := by
  generalize t.chan = q at h
  subst h
  exact ⟨rfl, rfl, rfl⟩

/-- The end of a passed step. -/
theorem fxTrainStepDone_passed {s : Sled} {st c stp rank : Nat} {m : Mcs} {res : TrainResult} (hm : m = fget s.mcs {}
    st)
    (hrun : islRuns s (iMC st) = true) (hh : m.helper = some (c, stp, rank)) (hq : m.helperQ = []) (hd : m.heldDly = [])
    (hpass : (res.pass && (stp = 5 || 24 ≤ res.eyeMin.toNat)) = true) {t : Sled} (ht : fxTrainStepDone st c res s = t) :
    t.regs = (stepReport st c true res s).regs ∧
      (fget t.mcs {} st).dlyShadow = (writeShadow (liveSet m) c rank res.delays m).dlyShadow ∧
      (fget t.mcs {} st).dlyLive = (if rField s (bMC st) (offTrain c) 10 1 = 1 then
        (copyShadow (liveSet m) c (writeShadow (liveSet m) c rank res.delays m)).dlyLive else m.dlyLive) ∧
      (fget t.mcs {} st).helper = none ∧ bitAt (fget (fget t.mcs {} st).passed 0 (c * 4 + rank)) stp = true ∧
      (chanTrained t st c = true → (getChan s st c).off = false → (getChan t st c).online = true) ∧
      t = { s with mcs := t.mcs, regs := t.regs, chan := t.chan } := by
  have hfx := fxTrainStepDone_eq (hm ▸ hh) hrun res hpass
  rw [stepOutcome, if_pos rfl, ht] at hfx
  obtain ⟨hshadow, hlive, hnone, hbit⟩ := stepTaken_passed hm hq hd c stp rank res
  have hfr := stepTaken_frame st c stp rank true res s
  have hregs := stepTaken_regs st c stp rank true res s
  clear ht
  generalize stepTaken st c stp rank true res s = u at *
  have hup := upIfTrained_frame st c u
  rw [← hfx] at hup
  obtain ⟨hm', hr', hk'⟩ := keeps_of_chanOnly hup
  rw [hm']
  refine ⟨hr'.trans hregs, hshadow, hlive, hnone, hbit, fun htr hoff => ?_, ?_⟩
  · rw [chanTrained_congr (by rw [hk']) hm' hr'] at htr
    rw [hfx]
    refine upIfTrained_online htr ?_
    rw [getChan, hfr]
    exact hoff
  · generalize t.chan = q at hup
    generalize (stepReport _ _ _ _ _).regs = v at hfr
    rw [hup, hfr]

/-- The live set of a step with FINAL. -/
theorem fget_copyShadow_written {m : Mcs} (h : fwf (0 : Nat) m.dlyShadow = true) (set c rank : Nat)
    (l : List (Fin 96 × Bool × BitVec 6)) (k : Nat) :
    fget (copyShadow set c (writeShadow set c rank l m)).dlyLive 0 k =
      if ofChan set c k then fget (writeShadow set c rank l m).dlyShadow 0 k else fget m.dlyLive 0 k := by
  have hwf : fwf (0 : Nat) (writeShadow set c rank l m).dlyShadow = true :=
    fwf_foldl_fset h (fun x : Fin 96 × Bool × BitVec 6 => dlyKey set c rank x.1.val (b2n x.2.1)) (fun _ x => x.2.2.toNat) _
  rw [fget_copyShadow hwf, writeShadow_frame]

/-- What a step has changed when its outcome is dealt with. -/
structure StepTaken (s u : Sled) : Prop where
  now : u.now = s.now
  plat : u.plat = s.plat
  kpr : u.kpr = s.kpr

theorem stepTaken_keeps (st c stp rank : Nat) (pass : Bool) (res : TrainResult) (s : Sled) :
    StepTaken s (stepTaken st c stp rank pass res s) := by
  have h := stepTaken_frame st c stp rank pass res s
  generalize stepTaken st c stp rank pass res s = u at h ⊢
  generalize u.mcs = m, (stepReport _ _ _ _ _).regs = n at h
  subst h
  exact ⟨rfl, rfl, rfl⟩

theorem recStamp_congr {s u : Sled} (hn : u.now = s.now) (hp : u.plat = s.plat) (r : Rec) :
    recStamp u r = recStamp s r := by
  rw [recStamp, recStamp, hn, hp]

theorem rField_stepTaken_pass (st c stp rank : Nat) (pass : Bool) (res : TrainResult) (s : Sled) :
    rField (stepTaken st c stp rank pass res s) (bMC st) (offTrain c) 12 1 = b2n pass :=
  (rField_congr (stepTaken_regs ..) ..).trans (rField_stepReport ..).1

theorem setFullTrain_keeps {u x : Sled} {v : Nat} (h : x = { u with kpr := { u.kpr with fullTrain := v } }) :
    x.now = u.now ∧ x.plat = u.plat ∧ x.kpr.coll = u.kpr.coll ∧ x.regs = u.regs ∧ x.kpr.fullTrain = v := by
  subst h
  exact ⟨rfl, rfl, rfl, rfl, rfl⟩

theorem setPending_keeps {u x : Sled} {v : List (Nat × Nat × Bool)}
    (h : x = { u with kpr := { u.kpr with pendingMig := v } }) :
    x.regs = u.regs ∧ x.kpr.coll = u.kpr.coll ∧ x.kpr.pendingMig = v := by
  subst h
  exact ⟨rfl, rfl, rfl⟩

/-- A failed verification asks for full training. -/
theorem fxTrainStepDone_verify {s : Sled} {st c rank : Nat} {res : TrainResult} (hrun : islRuns s (iMC st) = true)
    (hh : (fget s.mcs {} st).helper = some (c, 6, rank)) (hp : res.pass = false) (hroom : (fget s.kpr.coll [] iCTL).length < 16)
    {t : Sled} (ht : fxTrainStepDone st c res s = t) :
    rField t (bMC st) (offTrain c) 12 1 = 0 ∧ bitAt t.kpr.fullTrain st = true ∧
      fget t.kpr.coll [] iCTL = fget s.kpr.coll [] iCTL ++ [recStamp s (mkRec 0x9006 iCTL)] := by
  have hfx := fxTrainStepDone_eq hh hrun res (pass := false) (by rw [hp, Bool.false_and])
  rw [stepOutcome, if_neg Bool.false_ne_true, if_pos rfl, ht] at hfx
  obtain ⟨hnow, hplat, hkpr⟩ := stepTaken_keeps st c 6 rank false res s
  have hf := rField_stepTaken_pass st c 6 rank false res s
  clear ht
  generalize stepTaken st c 6 rank false res s = u at *
  obtain ⟨x, hx⟩ : ∃ x, x = { u with kpr := { u.kpr with fullTrain := setBit u.kpr.fullTrain st true } } := ⟨_, rfl⟩
  rw [← hx] at hfx
  obtain ⟨hxnow, hxplat, hxcoll, hxregs, hxfull⟩ := setFullTrain_keeps hx
  rw [hkpr] at hxcoll
  have hxbit : bitAt x.kpr.fullTrain st = true := by rw [hxfull]; exact bitAt_setBit_same ..
  have hxst : recStamp x (mkRec 0x9006 iCTL) = recStamp s (mkRec 0x9006 iCTL) :=
    recStamp_congr (hxnow.trans hnow) (hxplat.trans hplat) _
  have hlog := logsOnly_logRec (mkRec 0x9006 iCTL) x
  have hregs : (logRec (mkRec 0x9006 iCTL) x).regs = x.regs := logRec_regs_of_room rfl (by rw [hxcoll]; exact hroom)
  have hcoll := logRec_coll (mkRec 0x9006 iCTL) x (by rw [hxcoll]; exact hroom)
  generalize logRec (mkRec 0x9006 iCTL) x = y at *
  have hup := upIfTrained_frame st c y
  rw [← hfx] at hup
  obtain ⟨-, hr', hk'⟩ := keeps_of_chanOnly hup
  refine ⟨?_, ?_, ?_⟩
  · rw [rField_congr (hr'.trans (hregs.trans hxregs)), hf]
    rfl
  · rw [hk', show y.kpr.fullTrain = x.kpr.fullTrain from congrArg (·.kpr.fullTrain) hlog.rest]
    exact hxbit
  · rw [hk', ← hxst, ← hxcoll]
    exact hcoll

/-- Another failed step gives its rank to a spare. -/
theorem fxTrainStepDone_spares {s : Sled} {st c stp rank : Nat} {res : TrainResult} (hst : st < 8) (hc : c < 16)
    (hrun : islRuns s (iMC st) = true)
    (hh : (fget s.mcs {} st).helper = some (c, stp, rank)) (hstp : stp < 6) (hp : res.pass = false)
    (htk : spareTaken s st rank = false)
    (hfree : s.kpr.pendingMig.length < ((List.range 4).filter (spareFree s)).length)
    (hroom : (fget s.kpr.coll [] (iMC st)).length < 16) {t : Sled} (ht : fxTrainStepDone st c res s = t) :
    rField t (bMC st) (offTrain c) 12 1 = 0 ∧ t.kpr.pendingMig = s.kpr.pendingMig ++ [(st, rank, true)] ∧
      fget t.kpr.coll [] (iMC st) = fget s.kpr.coll [] (iMC st) ++
        [recStamp s { mkRec 0x3005 (iMC st) with object := rank * 16 + c * 64 + st * 1024 }] := by
  have hfx := fxTrainStepDone_eq hh hrun res (pass := false) (by rw [hp, Bool.false_and])
  rw [stepOutcome, if_neg Bool.false_ne_true, if_neg (by omega), ht] at hfx
  obtain ⟨hnow, hplat, hkpr⟩ := stepTaken_keeps st c stp rank false res s
  have hf := rField_stepTaken_pass st c stp rank false res s
  have hmig := stepTaken_mig st c stp rank false res s
  have h8 := fget_stepTaken_other (n := 8) (by omega : 8 ≠ st) c stp rank false res s
  have hget : ∀ k < 4, rGet (stepTaken st c stp rank false res s) bKPR (8 + 8 * k) = rGet s bKPR (8 + 8 * k) :=
    fun k hk => rGet_stepTaken_kpr (by omega) hc _ _ _ _ _ (by omega)
  clear ht
  generalize stepTaken st c stp rank false res s = u at *
  have hcount : (List.range 4).filter (spareFree u) = (List.range 4).filter (spareFree s) :=
    List.filter_congr fun k hk => spareFree_congr (by rw [hkpr]) h8 hmig hget (List.mem_range.1 hk)
  have hfail := trainFail_pending hst ((spareTaken_congr (by rw [hkpr]) hmig hget st rank).trans htk)
    (by rw [hkpr, hcount]; exact hfree) c (by rw [hkpr]; exact hroom)
  rw [hkpr] at hfail
  have hregs : (logRec { mkRec 0x3005 (iMC st) with object := rank * 16 + c * 64 + st * 1024 } u).regs = u.regs :=
    logRec_regs_of_room rfl (by rw [hkpr]; exact hroom)
  have hcoll := logRec_coll { mkRec 0x3005 (iMC st) with object := rank * 16 + c * 64 + st * 1024 } u (by rw [hkpr]; exact hroom)
  rw [recStamp_congr hnow hplat, hkpr] at hcoll
  generalize logRec _ u = y at *
  have hup := upIfTrained_frame st c (trainFail st c rank u)
  rw [← hfx] at hup
  obtain ⟨-, hr', hk'⟩ := keeps_of_chanOnly hup
  obtain ⟨hxregs, hxcoll, hxpend⟩ := setPending_keeps hfail
  refine ⟨?_, ?_, ?_⟩
  · rw [rField_congr (hr'.trans (hxregs.trans hregs)), hf]
    rfl
  · rw [hk', hxpend]
  · rw [hk', hxcoll]
    exact hcoll

/-- Settles O16: a GO queues its step for the helper, which takes it when free; a passed step reports, writes its
delays and brings its channel up; a failed one asks for full training or a spare. -/
theorem trainingStepsRunReportAndCopy : Obligations.TrainingStepsRunReportAndCopy := by
  refine ⟨?_, ?_, ?_, ?_, ?_, ?_⟩
  · intro s st c stp r fin hrun hlock hown h0 h7 hh hq hx hp
    obtain ⟨u, hu, f0, f4, f10, hfx⟩ := fxTrainStepGo_queues (fin := fin) c.isLt stp.isLt r.isLt hrun hx hlock hown
      (by bv_omega) (by bv_omega) (by simp [hh]) (by simp [hq])
    obtain ⟨hfr, hregs⟩ := stepQueued_frame hu st fun m => { m with helperQ := queueStep (c.val, stp.toNat, r.val) m.helperQ }
    have hmcs : u.mcs = s.sled.mcs := by rw [hu]
    have hpa : stackPauses u st = false := by rw [hu]; exact hp
    have hget : fget (fxTrainStepGo st c stp.toNat r fin s.sled).mcs {} st =
        { fget s.sled.mcs {} st with helper := some (c.val, stp.toNat, r.val) } := by
      have hpa' (f : Mcs → Mcs) : stackPauses (updMcs st f u) st = false := hpa
      rw [hfx, helperNext, hpa', if_neg Bool.false_ne_true, fget_updMcs_same, fget_updMcs_same, hmcs]
      generalize fget s.sled.mcs {} st = m at *
      simp only [nextStep, hh, hq, queueStep]
    have hfld (lo len : Nat) : rField (fxTrainStepGo st c stp.toNat r fin s.sled) (bMC st) (offTrain c) lo len =
        rField u (bMC st) (offTrain c) lo len := rField_congr (by rw [hfx, hregs]) ..
    rw [← hfx] at hfr hregs
    exact ⟨_, liftHold_next rfl (by rw [hfr]), rfl, hget, (hfld 0 3).trans f0, (hfld 4 2).trans f4, (hfld 10 1).trans f10, hfr⟩
  · intro s st c stp r fin h hrun hlock hown h0 h7 hh hne hq hx
    obtain ⟨u, hu, -, -, -, hfx⟩ := fxTrainStepGo_queues (fin := fin) c.isLt stp.isLt r.isLt hrun hx hlock hown
      (by bv_omega) (by bv_omega) (fun h' hh' => by rw [Option.some.inj (hh'.symm.trans hh)]; exact hne) hq
    obtain ⟨hfr, -⟩ := stepQueued_frame hu st fun m => { m with helperQ := queueStep (c.val, stp.toNat, r.val) m.helperQ }
    have hmcs : u.mcs = s.sled.mcs := by rw [hu]
    have hget : fget (fxTrainStepGo st c stp.toNat r fin s.sled).mcs {} st = { fget s.sled.mcs {} st with
        helperQ := queueStep (c.val, stp.toNat, r.val) (fget s.sled.mcs {} st).helperQ } := by
      rw [hfx, fget_helperNext_busy (h := h), fget_updMcs_same, hmcs]
      rw [fget_updMcs_same, hmcs]
      exact hh
    rw [← hfx] at hfr
    refine ⟨_, liftHold_next rfl (by rw [hfr]), rfl, by rw [hget]; exact hh, fun x => ?_, fun hpw => ?_, hfr⟩
    · rw [hget]
      exact mem_queueStep _ _ _
    · rw [hget]
      exact pairwise_queueStep hq hpw
  · intro s st c stp r fin hrun hx hown
    have hfr := trainOperands_frame st c stp.toNat r fin s.sled
    have hown' := (trainOperands_owner c.isLt stp.toNat r fin s.sled).trans hown
    have hfx := fxTrainStepGo_eq hrun hx c stp.toNat r fin
    generalize trainOperands st c stp.toNat r fin s.sled = u at *
    have hgo (p q : Nat) : trainGo st c p q u = rSetField (bMC st) (offTrain c) 12 1 0 u := by
      rw [trainGo]
      exact if_pos (.inl (by rw [ownerHw, hown', decide_eq_true rfl]))
    rw [hgo] at hfx
    have hset : fxTrainStepGo st c stp.toNat r fin s.sled =
        { s.sled with regs := (fxTrainStepGo st c stp.toNat r fin s.sled).regs } := by
      rw [hfx, rSetField_frame]
      generalize (rSetField _ _ _ _ _ _).regs = m, u.regs = n at hfr ⊢
      subst hfr
      rfl
    refine ⟨_, liftHold_next rfl (by rw [hset]), rfl, ?_, hset⟩
    dsimp only
    rw [hfx, rField_rSetField_same _ _ _ _ _ _ (by omega)]
    decide
  · intro s st c res stp rank m fin hm hfin hrun hh hq hd hstp hr hp he
    have hpass : (res.pass && (stp = 5 || 24 ≤ res.eyeMin.toNat)) = true := by simpa [hp] using he
    obtain ⟨r12, r16, r24, -⟩ := rField_stepReport st c true res s.sled
    generalize ht : fxTrainStepDone st c res s.sled = t
    obtain ⟨hregs, hshadow, hlive, hnone, hbit, hon, hfr⟩ := fxTrainStepDone_passed hm hrun hh hq hd hpass ht
    rw [← hfin] at hlive
    refine ⟨_, lift_next ht, rfl, (rField_congr hregs ..).trans r12, (rField_congr hregs ..).trans r16,
      (rField_congr hregs ..).trans r24, hshadow, fun h0 => ?_, fun h1 hws _ k => ?_, hnone, hbit, hon, hfr⟩
    · rw [hlive, if_neg (by omega)]
    · rw [hlive, if_pos h1, hshadow, fget_copyShadow_written hws]
  · intro s st c res rank hrun hh _ hp hroom
    exact ⟨_, lift_next rfl, rfl, fxTrainStepDone_verify hrun hh hp hroom rfl⟩
  · intro s st c res stp rank hrun hh _ hstp hp hst htk hfree hroom
    exact ⟨_, lift_next rfl, rfl, fxTrainStepDone_spares hst c.isLt hrun hh hstp hp htk hfree hroom rfl⟩

end Sys2Proof.Machine

/-! ## Delay writes and retraining pauses (O17: spec/07, R132, R133; spec/22, R428) -/
namespace Sys2Proof.Machine
open Sys2Proof

/-! ### Delay writes -/

/-- A delay write that is neither locked nor ignored. -/
theorem fxMcDlyDataWrite_eq {s : Sled} {st taps : Nat} (hrun : islRuns s (iMC st) = true) (hx : crossHeld s (bMC st) =
    false)
    (hlock : lockedReg s (bMC st) 0x208 = false) {sel : Nat} (hsel : sel = rGet s (bMC st) 0x200)
    (hown : ownerHw s st (bitsOf sel 0 4) = false) (h14 : bitAt sel 14 = false) (hlane : bitsOf sel 6 7 < 96) {k : Nat}
    (hk : dlyKey 0 (bitsOf sel 0 4) (bitsOf sel 4 2) (bitsOf sel 6 7) (bitsOf sel 13 1) = k) :
    fxMcDlyDataWrite st taps s = match (fget s.mcs {} st).helper with
      | some (h, _) =>
        if h = bitsOf sel 0 4 then updMcs st (fun m => { m with heldDly := m.heldDly ++ [(k, taps)] }) s
        else updMcs st (fun m => { m with dlyShadow := fset m.dlyShadow 0 k taps }) s
      | none => updMcs st (fun m => { m with dlyShadow := fset m.dlyShadow 0 k taps }) s := by
  subst hsel hk
  have h96 : ¬ 96 ≤ bitsOf (rGet s (bMC st) 0x200) 6 7 := by omega
  simp only [fxMcDlyDataWrite, hrun, hx, Bool.not_true, Bool.false_eq_true, if_false, dlyWrite, hlock, hown, h14, h96,
    Bool.or_self, decide_false] <;> rfl

theorem updMcs_frame (st : Nat) (f : Mcs → Mcs) (s : Sled) : updMcs st f s = { s with mcs := (updMcs st f s).mcs } := rfl

/-! ### Pauses -/

theorem foldl_eq_self {α β : Type} {f : β → α → β} {l : List α} {s : β} (h : ∀ x ∈ l, f s x = s) : l.foldl f s = s := by
  induction l with
  | nil => rfl
  | cons x l ih =>
    rw [List.foldl_cons, h x List.mem_cons_self]
    exact ih fun y hy => h y (List.mem_cons_of_mem _ hy)

/-- With no extra pause owed, a due one starts if it can. -/
theorem fxRetrainPauseDue_eq {s : Sled} {st c : Nat} (hrun : islRuns s (iMC st) = true) (hown : ownerHw s st c = true)
    (hx : ∀ d : ChanId, (getChan s st d).extra = none) :
    fxRetrainPauseDue st c s =
      let u := updChan st c (fun ch => { ch with due := 1 }) s
      if pauseReady u st c then pauseStart st c u else u := by
  have hfold : (List.range 16).foldl (fun s d =>
      if (getChan s st d).extra.isSome then updChan st d (fun ch => { ch with dueX := true }) s else s) s = s :=
    foldl_eq_self fun d hd => by
      rw [if_neg]
      have := hx ⟨d, List.mem_range.1 hd⟩
      dsimp only at this
      simp [this]
  rw [fxRetrainPauseDue, if_neg (by simp [hrun, hown]), hfold]

theorem pauseReady_iff {s : Sled} {st c : Nat} (h : pauseReady s st c = true) :
    (getChan s st c).replay = none ∧ (getChan s st c).pause = none := by
  simp only [pauseReady, Bool.and_eq_true, Option.isNone_iff_eq_none] at h
  exact ⟨h.1.1.1.1.1.2, h.1.1.1.1.2⟩

/-- Counting a due pause that is counted already changes nothing that the choice of a pause looks at. -/
theorem pauseReady_congr {s u : Sled} (hm : u.mcs = s.mcs) (hc : ∀ st c, getChan u st c = getChan s st c) (st c : Nat) :
    pauseReady u st c = pauseReady s st c := by
  simp only [pauseReady, stackPauses, hm, hc]

theorem getChan_updChan_id {s : Sled} {st c : Nat} {f : Chan → Chan} (h : f (getChan s st c) = getChan s st c) (st' c' :
    Nat) :
    getChan (updChan st c f s) st' c' = getChan s st' c' := by
  by_cases hk : chanKey st' c' = chanKey st c
  · rw [getChan, hk, ← getChan, getChan_updChan_same, h, getChan, getChan, hk]
  · exact getChan_updChan_other _ _ hk

/-- A free slot of a channel with a pause to start begins it. -/
theorem slot_pauseStart {s : Sled} {st c t : Nat} {ch : Chan} (h : slotAt s st c ch t) (hp : pauseReady s st c = true) :
    fxChannelSlotArbitrate st c s = pauseStart st c (slotTick st c t s) := by
  obtain ⟨rfl, rfl, hrun, hsr, hout⟩ := h
  obtain ⟨hr, hpa⟩ := pauseReady_iff hp
  rw [fxChannelSlotArbitrate, if_neg (by simp [hrun, hsr])]
  simp only [landReads_of_none hout, hr, hpa, Option.isSome_none, Bool.false_eq_true, if_false, hp, if_true]

/-- The delay of a lane belongs to its channel. -/
theorem ofChan_dlyKey {set c rank lane : Nat} (hr : rank < 4) (hl : lane < 96) {d : Nat} (hd : d < 2) :
    ofChan set c (dlyKey set c rank lane d) = true := by
  rw [ofChan, dlyKey, decide_eq_true_eq]
  split <;> omega

/-- The delays once a pause has moved one of them. -/
def moved (set c k tap : Nat) (m : Mcs) : Mcs :=
  copyShadow set c { m with dlyShadow := fset m.dlyShadow 0 k (toward (fget m.dlyShadow 0 k) tap) }

/-- The sled when a pause has ended, before what its deviation brings about. -/
def pauseMoved (st c k tap dev : Nat) (x : Option Nat) (s : Sled) : Sled :=
  updChan st c (fun ch => { ch with pause := none, extra := if 8 < dev then x else ch.extra })
    (rSetField (bMC st) (offTrain c) 24 8 dev (updMcs st (moved (liveSet (fget s.mcs {} st)) c k tap) s))

/-- The end of a pause that measured one lane, with a wide eye. -/
theorem fxRetrainPauseEnd_one {s : Sled} {st c rank : Nat} {lane : Fin 96} {w : Bool} {tap : BitVec 6} {eye : BitVec 8}
    (hp : (getChan s st c).pause = some rank) (hl : lane.val < 72) (he : 16 ≤ eye.toNat) {k dev : Nat}
    (hk : k = dlyKey (liveSet (fget s.mcs {} st)) c rank lane (b2n w))
    (hdev : dev = Machine.dist (fget (fget s.mcs {} st).dlyLive 0 k) tap.toNat) :
    fxRetrainPauseEnd st c { centres := [(lane, w, tap)], eyeMin := eye } s =
      let u := pauseMoved st c k tap.toNat dev (some rank) s
      updChan st c (fun ch => { ch with narrow := fset ch.narrow 0 rank 0 })
        (helperNext st (if 8 < dev then logRec (mkRec 0x3006 (iMC st)) u else u)) := by
  subst hk hdev
  have h16 : ¬ eye.toNat < 16 := by omega
  simp only [fxRetrainPauseEnd, hp, List.filter_cons, hl, decide_true, if_true, List.filter_nil, List.map_cons, List.map_nil,
    List.foldl_cons, List.foldl_nil, Nat.zero_max, h16, if_false, Nat.reduceEqDiff, pauseMoved]
  rfl

theorem getChan_congr {s t : Sled} (h : t.chan = s.chan) (st c : Nat) : getChan t st c = getChan s st c := by
  rw [getChan, h, getChan]

theorem fget_helperNext_keeps (st : Nat) (s : Sled) :
    ∃ h q, fget (helperNext st s).mcs {} st = { fget s.mcs {} st with helper := h, helperQ := q } := by
  unfold helperNext
  split
  · exact ⟨_, _, rfl⟩
  · rw [fget_updMcs_same]
    unfold nextStep
    split <;> exact ⟨_, _, rfl⟩

/-- The frame of a command that changes stacks, channels and registers only. -/
theorem stackFrame_updChan {s t : Sled} (h : t = { s with mcs := t.mcs, regs := t.regs, chan := t.chan }) (st c : Nat)
    (f : Chan → Chan) : updChan st c f t =
      { s with mcs := (updChan st c f t).mcs, regs := (updChan st c f t).regs, chan := (updChan st c f t).chan } := by
  unfold updChan
  generalize fset t.chan _ _ _ = q
  generalize t.mcs = m, t.regs = r, t.chan = x at h
  subst h
  rfl

theorem stackFrame_helperNext {s t : Sled} (h : t = { s with mcs := t.mcs, regs := t.regs, chan := t.chan }) (st : Nat)
    :
    helperNext st t =
      { s with mcs := (helperNext st t).mcs, regs := (helperNext st t).regs, chan := (helperNext st t).chan } := by
  rw [helperNext_frame]
  generalize (helperNext st t).mcs = q
  generalize t.mcs = m, t.regs = r, t.chan = x at h
  subst h
  rfl

theorem pauseMoved_frame (st c k tap dev : Nat) (x : Option Nat) (s : Sled) :
    pauseMoved st c k tap dev x s = { s with
      mcs := (pauseMoved st c k tap dev x s).mcs, regs := (pauseMoved st c k tap dev x s).regs
      chan := (pauseMoved st c k tap dev x s).chan } := by
  rw [pauseMoved, rSetField_frame, updMcs_frame]
  exact stackFrame_updChan (s := s) rfl ..

theorem rField_pauseMoved (st c k tap : Nat) {dev : Nat} (hdev : dev < 256) (x : Option Nat) (s : Sled) :
    rField (pauseMoved st c k tap dev x s) (bMC st) (offTrain c) 24 8 = dev := by
  rw [pauseMoved, rField_congr (updChan_regs ..), rField_rSetField_same _ _ _ _ _ _ (by omega)]
  exact Nat.mod_eq_of_lt hdev

theorem fget_pauseMoved (st c k tap dev : Nat) (x : Option Nat) (s : Sled) :
    fget (pauseMoved st c k tap dev x s).mcs {} st = moved (liveSet (fget s.mcs {} st)) c k tap (fget s.mcs {} st) := by
  rw [pauseMoved, updChan_mcs, rSetField_mcs, fget_updMcs_same]

theorem getChan_pauseMoved (st c k tap dev : Nat) (x : Option Nat) (s : Sled) :
    getChan (pauseMoved st c k tap dev x s) st c =
      { getChan s st c with pause := none, extra := if 8 < dev then x else (getChan s st c).extra } := by
  rw [pauseMoved, getChan_updChan_same, getChan_congr (rSetField_chan ..), getChan_congr (updMcs_chan ..)]

theorem dist_toward (x centre : Nat) : Machine.dist (toward x centre) x ≤ 2 ∧
    (Machine.dist x centre ≤ 2 → toward x centre = centre) ∧
    Machine.dist (toward x centre) centre ≤ Machine.dist x centre := by
  unfold toward Machine.dist
  split <;> omega

theorem getChan_helperNext (st : Nat) (s : Sled) (st' c' : Nat) :
    getChan (helperNext st s) st' c' = getChan s st' c' := by
  rw [helperNext_frame, getChan, getChan]

/-- The end of a pause whose deviation is within eight taps. -/
theorem fxRetrainPauseEnd_near {s : Sled} {st c rank : Nat} {lane : Fin 96} {w : Bool} {tap : BitVec 6} {eye : BitVec 8}
    (hp : (getChan s st c).pause = some rank) (hr : rank < 4) (hl : lane.val < 72) (he : 16 ≤ eye.toNat) {m : Mcs} {k : Nat}
    (hm : m = fget s.mcs {} st) (hk : k = dlyKey (liveSet m) c rank lane (b2n w))
    (hdev : Machine.dist (fget m.dlyLive 0 k) tap.toNat ≤ 8) (hws : fwf (0 : Nat) m.dlyShadow = true) {t : Sled}
    (ht : fxRetrainPauseEnd st c { centres := [(lane, w, tap)], eyeMin := eye } s = t) :
    fget (fget t.mcs {} st).dlyLive 0 k = toward (fget m.dlyShadow 0 k) tap.toNat ∧
      (∀ x, x ≠ k → fget (fget t.mcs {} st).dlyShadow 0 x = fget m.dlyShadow 0 x) ∧
      rField t (bMC st) (offTrain c) 24 8 = Machine.dist (fget m.dlyLive 0 k) tap.toNat ∧
      (getChan t st c).pause = none ∧ fget (getChan t st c).narrow 0 rank = 0 ∧
      t = { s with mcs := t.mcs, regs := t.regs, chan := t.chan } := by
  have hfx := fxRetrainPauseEnd_one (w := w) (tap := tap) hp hl he (hm ▸ hk) rfl
  rw [← hm] at hfx
  generalize hd : Machine.dist (fget m.dlyLive 0 k) tap.toNat = dev at *
  simp only [if_neg (Nat.not_lt.2 hdev)] at hfx
  have hmcs := fget_pauseMoved st c k tap.toNat dev (some rank) s
  have hfld := rField_pauseMoved st c k tap.toNat (by omega : dev < 256) (some rank) s
  have hch := getChan_pauseMoved st c k tap.toNat dev (some rank) s
  have hfr := pauseMoved_frame st c k tap.toNat dev (some rank) s
  rw [ht] at hfx
  clear ht
  generalize pauseMoved st c k tap.toNat dev (some rank) s = u at *
  obtain ⟨h, q, hnext⟩ := fget_helperNext_keeps st u
  have hfr' := stackFrame_updChan (stackFrame_helperNext hfr st) st c fun ch => { ch with narrow := fset ch.narrow 0 rank 0 }
  rw [← hfx] at hfr'
  have htm : t.mcs = (helperNext st u).mcs := by rw [hfx, updChan_frame]
  have htr : t.regs = u.regs := by rw [hfx, updChan_frame, helperNext_frame]
  have htc : getChan t st c = { getChan u st c with narrow := fset (getChan u st c).narrow 0 rank 0 } := by
    rw [hfx, getChan_updChan_same, getChan_helperNext]
  have hdir : b2n w < 2 := by cases w <;> decide
  have hof : ofChan (liveSet m) c k = true := by rw [hk]; exact ofChan_dlyKey hr (by omega) hdir
  rw [← hm] at hmcs
  refine ⟨?_, fun x hx => ?_, ?_, ?_, ?_, hfr'⟩
  · rw [htm, hnext, hmcs, moved]
    dsimp only
    rw [fget_copyShadow (fwf_fset 0 _ _ hws), if_pos hof, fget_fset_same]
  · rw [htm, hnext, hmcs, moved, copyShadow_frame]
    exact fget_fset_other _ _ _ hx
  · rw [rField_congr htr, hfld]
  · rw [htc, hch]
  · rw [htc]
    dsimp only
    rw [fget_fset_same]

/-- The end of a pause whose deviation is beyond eight taps. -/
theorem fxRetrainPauseEnd_far {s : Sled} {st c rank : Nat} {lane : Fin 96} {w : Bool} {tap : BitVec 6} {eye : BitVec 8}
    (hp : (getChan s st c).pause = some rank) (hl : lane.val < 72) (he : 16 ≤ eye.toNat)
    (hdev : 8 < Machine.dist (fget (fget s.mcs {} st).dlyLive 0 (dlyKey (liveSet (fget s.mcs {} st)) c rank lane (b2n w)))
      tap.toNat)
    (hroom : (fget s.kpr.coll [] (iMC st)).length < 16) {t : Sled}
    (ht : fxRetrainPauseEnd st c { centres := [(lane, w, tap)], eyeMin := eye } s = t) :
    (getChan t st c).extra = some rank ∧ (getChan t st c).pause = none ∧
      fget t.kpr.coll [] (iMC st) = fget s.kpr.coll [] (iMC st) ++ [recStamp s (mkRec 0x3006 (iMC st))] := by
  have hfx := fxRetrainPauseEnd_one (w := w) (tap := tap) hp hl he rfl rfl
  generalize dlyKey (liveSet (fget s.mcs {} st)) c rank lane (b2n w) = k at *
  generalize hd : Machine.dist (fget (fget s.mcs {} st).dlyLive 0 k) tap.toNat = dev at *
  simp only [if_pos hdev] at hfx
  have hch := getChan_pauseMoved st c k tap.toNat dev (some rank) s
  have hfr := pauseMoved_frame st c k tap.toNat dev (some rank) s
  rw [ht] at hfx
  clear ht
  generalize pauseMoved st c k tap.toNat dev (some rank) s = u at *
  have hkeep : StepTaken s u := by
    generalize u.mcs = m, u.regs = r, u.chan = x at hfr
    subst hfr
    exact ⟨rfl, rfl, rfl⟩
  obtain ⟨hnow, hplat, hkpr⟩ := hkeep
  have hcoll := logRec_coll (mkRec 0x3006 (iMC st)) u (by rw [hkpr]; exact hroom)
  have hlc := logRec_chan (mkRec 0x3006 (iMC st)) u
  generalize logRec (mkRec 0x3006 (iMC st)) u = y at *
  have htk : t.kpr = y.kpr := by rw [hfx, updChan_frame, helperNext_frame]
  have htc : getChan t st c = { getChan u st c with narrow := fset (getChan u st c).narrow 0 rank 0 } := by
    rw [hfx, getChan_updChan_same, getChan_helperNext, getChan, hlc, getChan]
  refine ⟨?_, ?_, ?_⟩
  · rw [htc, hch]
    exact if_pos hdev
  · rw [htc, hch]
  · rw [htk, ← hkpr, ← recStamp_congr hnow hplat]
    exact hcoll

/-- Settles O17: a delay write takes its shadow delay, waits for the step of its channel, or is ignored; a pause
starts under its conditions and moves its delays by at most two taps. -/
theorem delayWritesAndRetrainingPause : Obligations.DelayWritesAndRetrainingPause := by
  refine ⟨?_, ?_, ?_, ?_, ?_, ?_, ?_, ?_, dist_toward⟩
  · intro s st taps sel hsel hrun hlock hown h14 hlane hx hh k
    have hfx := fxMcDlyDataWrite_eq (taps := taps.toNat) hrun hx hlock hsel hown h14 hlane (k := k) rfl
    rw [hh] at hfx
    generalize k = k at *
    refine ⟨_, liftHold_next hfx rfl, rfl, ?_, fun x hne => ?_, ?_, rfl⟩ <;> dsimp only <;> rw [fget_updMcs_same]
    · exact fget_fset_same ..
    · exact fget_fset_other _ _ _ hne
  · intro s st taps sel x hsel hrun hlock hown h14 hlane hx hh k u
    have hfx := fxMcDlyDataWrite_eq (taps := taps.toNat) hrun hx hlock hsel hown h14 hlane (k := k) rfl
    rw [hh] at hfx
    dsimp only at hfx
    rw [if_pos rfl] at hfx
    exact liftHold_next hfx rfl
  · intro s st taps hrun hlock hx hown
    refine liftHold_next (u := s.sled) ?_ rfl
    simp only [fxMcDlyDataWrite, hrun, hx, Bool.not_true, Bool.false_eq_true, if_false, dlyWrite, hlock, hown, Bool.true_or, if_true]
  · intro s st c hrun hown hx hbusy u
    refine lift_next ?_
    rw [fxRetrainPauseDue_eq hrun hown hx]
    refine if_neg fun hready => ?_
    obtain ⟨hr, hp⟩ := pauseReady_iff hready
    rw [getChan_updChan_same] at hr hp
    rcases hbusy with h | h
    · exact absurd h (by rw [show (getChan s.sled st c).replay = none from hr]; decide)
    · exact absurd h (by rw [show (getChan s.sled st c).pause = none from hp]; decide)
  · intro s st c hrun hown hx hdue hready
    have hself : ({ getChan s.sled st c with due := 1 } : Chan) = getChan s.sled st c := by rw [← hdue]
    have hsame (st' c' : Nat) := getChan_updChan_id (s := s.sled) (f := fun ch => { ch with due := 1 }) hself st' c'
    have hfx := fxRetrainPauseDue_eq hrun hown hx
    dsimp only at hfx
    rw [(pauseReady_congr (updChan_mcs ..) hsame st c).trans hready, if_pos rfl] at hfx
    refine ⟨_, lift_next hfx, rfl, ?_, rfl⟩
    dsimp only
    rw [pauseStart, getChan_updChan_same, hsame, if_pos (by omega)]
  · intro s st c ch t r hslot hdue hex hready
    have hch : ch = getChan s.sled st c := hslot.1
    refine ⟨_, lift_next (slot_pauseStart hslot hready), rfl, ?_, rfl⟩
    dsimp only
    rw [pauseStart, getChan_updChan_same, getChan_slotTick, ← hch, if_neg (by simp [hdue]), hex]
    rfl
  · intro s st c rank lane w tap eye m k hm hk hp hr hl he hdev hws _
    exact ⟨_, lift_next rfl, rfl, fxRetrainPauseEnd_near hp hr hl he hm hk hdev hws rfl⟩
  · intro s st c rank lane w tap eye hp _ hl he hdev hroom
    exact ⟨_, lift_next rfl, rfl, fxRetrainPauseEnd_far hp hl he hdev hroom rfl⟩

end Sys2Proof.Machine

/-! ## Speed changes (O18: spec/07, R134 to R138; spec/06, R120) -/
namespace Sys2Proof.Machine
open Sys2Proof

/-! ### Maps of banks -/

/-- Changing the entries of a canonical map and dropping those that became the default. -/
theorem fget_map_filter {α : Type} [DecidableEq α] {d : α} {g : α → α} (hg : g d = d) {lo : Nat} {m : FMap α}
    (h : fwfFrom d lo m = true) (k : Nat) :
    fget ((m.map fun p => (p.1, g p.2)).filter fun p => p.2 ≠ d) d k = g (fget m d k) := by
  induction m generalizing lo with
  | nil => exact hg.symm
  | cons x m ih =>
    obtain ⟨a, v⟩ := x
    simp only [fwfFrom, Bool.and_eq_true, decide_eq_true_eq] at h
    obtain ⟨-, hm⟩ := h
    have ih := ih hm
    rw [List.map_cons, fget]
    by_cases hv : g v = d
    · rw [List.filter_cons_of_neg (by simpa using hv), ih]
      split
      case isTrue hk => rw [fget_of_lt hm (by omega), hg, hv]
      case isFalse => rfl
    · rw [List.filter_cons_of_pos (by simpa using hv), fget]
      split
      · rfl
      · exact ih

/-! ### The channels of a stack in turn -/

section foldChannels

variable {F : Sled → Nat → Sled} {st : Nat}

/-- A pass over the channels of a stack, each of which touches its own only: what a channel's own step finds. -/
theorem getChan_foldl {P : Sled → Prop} (hP : ∀ s c, P s → P (F s c))
    (hF : ∀ s c d, c < 16 → d < 16 → d ≠ c → getChan (F s c) st d = getChan s st d) {s : Sled} (hs : P s) {n : Nat} (hn : n ≤ 16)
    {c : Nat} (hc : c < 16) :
    P ((List.range n).foldl F s) ∧
      if c < n then ∃ u, P u ∧ getChan u st c = getChan s st c ∧ getChan ((List.range n).foldl F s) st c = getChan (F u c) st c
      else getChan ((List.range n).foldl F s) st c = getChan s st c := by
  induction n with
  | zero => exact ⟨hs, rfl⟩
  | succ n ih =>
    obtain ⟨hp, ih⟩ := ih (by omega)
    rw [List.range_succ, List.foldl_append, List.foldl_cons, List.foldl_nil]
    refine ⟨hP _ _ hp, ?_⟩
    by_cases hcn : c = n
    · subst hcn
      rw [if_neg (by omega)] at ih
      rw [if_pos (by omega)]
      exact ⟨_, hp, ih, rfl⟩
    · rw [hF _ _ _ (by omega) hc hcn]
      by_cases hlt : c < n
      · rw [if_pos hlt] at ih
        rwa [if_pos (by omega)]
      · rw [if_neg hlt] at ih
        rwa [if_neg (by omega)]

end foldChannels

theorem getChan_updChan_ne {st c d : Nat} (h : d ≠ c) (f : Chan → Chan) (s : Sled) : getChan (updChan st c f s) st d =
    getChan s st d :=
  getChan_updChan_other _ _ fun hk => h (by simp only [chanKey] at hk; omega)

/-! ### The start -/

/-- The frame of a command that changes channels and output only. -/
def ChanOuts (s t : Sled) : Prop := t = { s with chan := t.chan, outs := t.outs }

theorem ChanOuts.refl (s : Sled) : ChanOuts s s := rfl

theorem ChanOuts.trans {s t u : Sled} (h : ChanOuts s t) (h' : ChanOuts t u) : ChanOuts s u := by
  unfold ChanOuts at *
  generalize u.chan = a, u.outs = b at h'
  generalize t.chan = c, t.outs = d at h
  subst h
  exact h'

theorem chanOuts_updChan (st c : Nat) (f : Chan → Chan) (s : Sled) : ChanOuts s (updChan st c f s) := rfl

theorem chanOuts_foldl {α : Type} {F : Sled → α → Sled} {l : List α} (h : ∀ s, ∀ x ∈ l, ChanOuts s (F s x)) (s : Sled) :
    ChanOuts s (l.foldl F s) := by
  induction l generalizing s with
  | nil => exact .refl s
  | cons x l ih => exact (h s x List.mem_cons_self).trans (ih (fun s y hy => h s y (List.mem_cons_of_mem _ hy)) _)

/-- What landing a channel's reads puts out. -/
def landOut (t : Nat) (s : Sled) (e : RetryEnt) : Sled :=
  match e.out with
  | some (p, d, po) => if e.due ≤ t then emit (.data p d po) s else s
  | none => s

theorem landOut_chan (t : Nat) (e : RetryEnt) (s : Sled) :
    ChanOuts s (landOut t s e) ∧ (landOut t s e).chan = s.chan := by
  unfold landOut
  split
  · split <;> exact ⟨rfl, rfl⟩
  · exact ⟨rfl, rfl⟩

theorem foldl_landOut_chan (t : Nat) (l : List RetryEnt) (s : Sled) : (l.foldl (landOut t) s).chan = s.chan := by
  induction l generalizing s with
  | nil => rfl
  | cons e l ih => rw [List.foldl_cons, ih, (landOut_chan t e s).2]

/-- A read that has come in no longer waits to land. -/
def landed (t : Nat) (e : RetryEnt) : RetryEnt := if e.out.isSome && e.due ≤ t then { e with out := none } else e

theorem landReads_eq (st c t : Nat) (s : Sled) :
    landReads st c t s = if !(getChan s st c).retry.any (fun e => e.out.isSome && e.due ≤ t) then s
      else updChan st c (fun ch => { ch with retry := ch.retry.map (landed t) })
        ((getChan s st c).retry.reverse.foldl (landOut t) s) := rfl

theorem landReads_frame (st c t : Nat) (s : Sled) :
    ChanOuts s (landReads st c t s) ∧ (getChan (landReads st c t s) st c).bank = (getChan s st c).bank ∧
      ∀ d, d ≠ c → getChan (landReads st c t s) st d = getChan s st d := by
  rw [landReads_eq]
  split
  · exact ⟨.refl s, rfl, fun d _ => rfl⟩
  · have hout := chanOuts_foldl (l := (getChan s st c).retry.reverse) (fun s e _ => (landOut_chan t e s).1) s
    have hch := foldl_landOut_chan t (getChan s st c).retry.reverse s
    generalize List.foldl (landOut t) s _ = u at hout hch ⊢
    refine ⟨hout.trans (chanOuts_updChan ..), ?_, fun d hd => ?_⟩
    · rw [getChan_updChan_same, getChan_congr hch]
    · rw [getChan_updChan_ne hd, getChan_congr hch]

/-- A program's rows to be reopened: a flag of its own bank. -/
theorem mustReopen_frame {st c b : Nat} (hc : c < 16) (hb : b < 64) (s : Sled) :
    ChanOuts s (mustReopen (chanBankKey st c b) s) ∧
      (∀ d, d ≠ c → getChan (mustReopen (chanBankKey st c b) s) st d = getChan s st d) ∧
      ∀ x, (getBt (getChan (mustReopen (chanBankKey st c b) s) st c) x).row = (getBt (getChan s st c) x).row ∧
        (getBt (getChan (mustReopen (chanBankKey st c b) s) st c) x).owed = (getBt (getChan s st c) x).owed := by
  have hst : keyStack (chanBankKey st c b) = st := by simp only [keyStack, chanBankKey, chanKey]; omega
  have hch : keyChan (chanBankKey st c b) = c := by simp only [keyChan, chanBankKey, chanKey]; omega
  rw [mustReopen]
  split
  · exact ⟨.refl s, fun _ _ => rfl, fun _ => ⟨rfl, rfl⟩⟩
  · rw [hst, hch]
    generalize keyCBank (chanBankKey st c b) = k
    refine ⟨rfl, fun d hd => getChan_updChan_ne hd _ _, fun x => ?_⟩
    by_cases hx : x = k
    · subst hx
      rw [getChan_updBt_same, getBt_set, if_pos rfl]
      exact ⟨rfl, rfl⟩
    · rw [getBt_updBt_other _ _ hx]
      exact ⟨rfl, rfl⟩

/-- A bank whose rows are closed. -/
def bankSlept (b : BankT) : BankT := { b with row := none, joined := 0, closed := false, taken := false }

theorem chanSleeps_eq (st c : Nat) (s : Sled) : chanSleeps st c s =
    (List.range 64).foldl (fun s b => mustReopen (chanBankKey st c b) s)
      (updChan st c (fun ch => { ch with
        q := ch.q.map fun r => { r with join := false }
        bank := (ch.bank.map fun p => (p.1, bankSlept p.2)).filter fun p => p.2 ≠ {} }) (landAll st c s)) := rfl

theorem foldl_mustReopen_frame {st c : Nat} (hc : c < 16) {n : Nat} (hn : n ≤ 64) (s : Sled) :
    ChanOuts s ((List.range n).foldl (fun s b => mustReopen (chanBankKey st c b) s) s) ∧
      (∀ d, d ≠ c → getChan ((List.range n).foldl (fun s b => mustReopen (chanBankKey st c b) s) s) st d = getChan s st d) ∧
      ∀ x, (getBt (getChan ((List.range n).foldl (fun s b => mustReopen (chanBankKey st c b) s) s) st c) x).row =
          (getBt (getChan s st c) x).row ∧
        (getBt (getChan ((List.range n).foldl (fun s b => mustReopen (chanBankKey st c b) s) s) st c) x).owed =
          (getBt (getChan s st c) x).owed := by
  induction n with
  | zero => exact ⟨.refl s, fun _ _ => rfl, fun _ => ⟨rfl, rfl⟩⟩
  | succ n ih =>
    obtain ⟨hf, ho, hb⟩ := ih (by omega)
    rw [List.range_succ, List.foldl_append, List.foldl_cons, List.foldl_nil]
    obtain ⟨hf', ho', hb'⟩ := mustReopen_frame (st := st) hc (by omega : n < 64)
      ((List.range n).foldl (fun s b => mustReopen (chanBankKey st c b) s) s)
    exact ⟨hf.trans hf', fun d hd => (ho' d hd).trans (ho d hd),
      fun x => ⟨(hb' x).1.trans (hb x).1, (hb' x).2.trans (hb x).2⟩⟩

/-- A channel that goes to sleep closes its rows and keeps its refresh debt; the other channels stay. -/
theorem chanSleeps_frame {st c : Nat} (hc : c < 16) (s : Sled) :
    ChanOuts s (chanSleeps st c s) ∧ (∀ d, d ≠ c → getChan (chanSleeps st c s) st d = getChan s st d) ∧
      (fwf ({} : BankT) (getChan s st c).bank = true → ∀ x, (getBt (getChan (chanSleeps st c s) st c) x).row = none ∧
        (getBt (getChan (chanSleeps st c s) st c) x).owed = (getBt (getChan s st c) x).owed) := by
  obtain ⟨hf, hbank, ho⟩ : ChanOuts s (landAll st c s) ∧ (getChan (landAll st c s) st c).bank = (getChan s st c).bank ∧
      ∀ d, d ≠ c → getChan (landAll st c s) st d = getChan s st d := landReads_frame ..
  rw [chanSleeps_eq]
  generalize landAll st c s = u at *
  generalize hv : updChan st c _ u = v
  obtain ⟨hf', ho', hb'⟩ := foldl_mustReopen_frame (st := st) hc (Nat.le_refl 64) v
  refine ⟨hf.trans (ChanOuts.trans ?_ hf'), fun d hd => (ho' d hd).trans ?_, fun hwf x => ?_⟩
  · rw [← hv]
    exact chanOuts_updChan ..
  · rw [← hv, getChan_updChan_ne hd, ho d hd]
  · have hx : getBt (getChan v st c) x = bankSlept (getBt (getChan s st c) x) := by
      rw [← hv, getChan_updChan_same, getBt, getBt, ← hbank]
      exact fget_map_filter rfl (lo := 0) (by rw [hbank]; exact hwf) x
    rw [(hb' x).1, (hb' x).2, hx]
    exact ⟨rfl, rfl⟩

/-- The start of a change that may run. -/
theorem fxSpeedChangeStart_eq {s : Sled} {st : Nat} {v : Speed} {rest : List Nat} (hv : (fget s.mcs {} st).speed = some
    v)
    (hp : v.phase = 0) (hq : s.speedQ = st :: rest) (hrun : islRuns s (iMC st) = true) (hm : migRuns s st = false)
    (hc : ∀ c : ChanId, (getChan s st c).replay = none ∧ (getChan s st c).pause = none) :
    fxSpeedChangeStart st s =
      updMcs st (fun m => { m with speed := some { v with phase := 1 }, selfRefresh := true })
        ((List.range 16).foldl (fun s c => chanSleeps st c s) s) := by
  have hany : (List.range 16).any (fun c => (getChan s st c).replay.isSome || (getChan s st c).pause.isSome) = false := by
    rw [List.any_eq_false]
    intro c hmem
    have := hc ⟨c, List.mem_range.1 hmem⟩
    dsimp only at this
    simp [this.1, this.2]
  simp only [fxSpeedChangeStart, hv]
  exact if_neg (by simp [hq, hp, hrun, hm, hany])

/-! ### The end -/

theorem crossWrites_nil {s : Sled} (h : s.xing = []) (st : Nat) : crossWrites st s = s := by
  have hx : (s.xing.filter fun x => x.stack ≠ st) = s.xing := by rw [h]; rfl
  rw [crossWrites]
  split
  · rfl
  · simp only [h, List.filter_nil, List.foldl_nil]
    rw [← h]

theorem pushRetry_frame (st c : Nat) (e : RetryEnt) (s : Sled) :
    pushRetry st c e s = { s with chan := (pushRetry st c e s).chan } := rfl

/-- What the mode-word writes leave of the other channels and of the banks. -/
structure ModeKeeps (st c : Nat) (s t : Sled) : Prop where
  frame : t = { s with chan := t.chan }
  other : ∀ d, d ≠ c → getChan t st d = getChan s st d
  bank : (getChan t st c).bank = (getChan s st c).bank

theorem ModeKeeps.trans {st c : Nat} {s t u : Sled} (h : ModeKeeps st c s t) (h' : ModeKeeps st c t u) : ModeKeeps st c
    s u where
  frame := by
    obtain ⟨h, -, -⟩ := h
    obtain ⟨h', -, -⟩ := h'
    generalize u.chan = a at h'
    generalize t.chan = b at h
    subst h
    exact h'
  other d hd := (h'.other d hd).trans (h.other d hd)
  bank := h'.bank.trans h.bank

theorem modeKeeps_updChan {st c : Nat} {f : Chan → Chan} (hf : ∀ ch, (f ch).bank = ch.bank) (s : Sled) :
    ModeKeeps st c s (updChan st c f s) :=
  ⟨rfl, fun _ hd => getChan_updChan_ne hd _ _, by rw [getChan_updChan_same, hf]⟩

theorem modeKeeps_foldl_pushRetry {st c : Nat} {α : Type} (e : α → RetryEnt) (l : List α) (s : Sled) :
    ModeKeeps st c s (l.foldl (fun s w => pushRetry st c (e w) s) s) := by
  induction l generalizing s with
  | nil => exact ⟨rfl, fun _ _ => rfl, rfl⟩
  | cons w l ih => exact (modeKeeps_updChan (f := fun ch => { ch with retry := (e w :: ch.retry).take 32 }) (fun _ => rfl) s).trans (ih _)

theorem modeWrites_keeps (st c : Nat) (s : Sled) :
    ModeKeeps st c s (modeWrites st c s) ∧ (getChan (modeWrites st c s) st c).mwBin = binOf s st := by
  have hpush := modeKeeps_foldl_pushRetry (st := st) (c := c)
    (fun w => { ranks := 15, cmd := .mode w (binOf s st) }) (List.range 4) s
  simp only [modeWrites]
  generalize List.foldl _ s (List.range 4) = u at *
  have hbcm (b : Bool) : ModeKeeps st c s (if b then pushRetry st c { ranks := 15, cmd := .mode 8 1 } u else u) := by
    split
    · refine hpush.trans (modeKeeps_updChan ?_ u)
      exact fun _ => rfl
    · exact hpush
  refine ⟨(hbcm _).trans (modeKeeps_updChan ?_ _), ?_⟩
  · exact fun _ => rfl
  · rw [getChan_updChan_same]

/-- A channel woken from self-refresh owes no refresh and has the mode words of the live bin. -/
theorem channelWakes (st c : Nat) (s : Sled) :
    (modeWrites st c (refreshAnew st c s)) = { s with chan := (modeWrites st c (refreshAnew st c s)).chan } ∧
      (∀ d, d ≠ c → getChan (modeWrites st c (refreshAnew st c s)) st d = getChan s st d) ∧
      (getChan (modeWrites st c (refreshAnew st c s)) st c).mwBin = binOf s st ∧
      (fwf ({} : BankT) (getChan s st c).bank = true → ∀ x,
        (getBt (getChan (modeWrites st c (refreshAnew st c s)) st c) x).owed = 0 ∧
        (getBt (getChan (modeWrites st c (refreshAnew st c s)) st c) x).row = (getBt (getChan s st c) x).row) := by
  obtain ⟨⟨hf, ho, hb⟩, hmw⟩ := modeWrites_keeps st c (refreshAnew st c s)
  have hbin : binOf (refreshAnew st c s) st = binOf s st := rfl
  have hr : refreshAnew st c s = { s with chan := (refreshAnew st c s).chan } := rfl
  have hro (d : Nat) (hd : d ≠ c) : getChan (refreshAnew st c s) st d = getChan s st d := getChan_updChan_ne hd _ _
  have hrb : (getChan (refreshAnew st c s) st c).bank =
      ((getChan s st c).bank.map fun b => (b.1, { b.2 with owed := 0, next := none })).filter fun b => b.2 ≠ {} := by
    rw [refreshAnew, getChan_updChan_same]
  generalize refreshAnew st c s = u at *
  refine ⟨?_, fun d hd => (ho d hd).trans (hro d hd), hmw.trans hbin, fun hwf x => ?_⟩
  · generalize (modeWrites st c u).chan = a at hf
    generalize u.chan = b at hr
    subst hr
    exact hf
  · have hx : getBt (getChan (modeWrites st c u) st c) x = { getBt (getChan s st c) x with owed := 0, next := none } := by
      rw [getBt, hb, hrb]
      exact fget_map_filter (g := fun b : BankT => { b with owed := 0, next := none }) rfl hwf x
    rw [hx]
    exact ⟨rfl, rfl⟩

theorem foldl_chan_frame {F : Sled → Nat → Sled} (hF : ∀ s c, F s c = { s with chan := (F s c).chan }) (l : List Nat) (s
    : Sled) :
    l.foldl F s = { s with chan := (l.foldl F s).chan } := by
  induction l generalizing s with
  | nil => rfl
  | cons c l ih =>
    rw [List.foldl_cons]
    have h := ih (F s c)
    have hc := hF s c
    generalize (l.foldl F (F s c)).chan = a at h
    rw [h]
    generalize (F s c).chan = b at hc
    rw [hc]

/-- The channels woken. -/
def woken (st : Nat) (s : Sled) : Sled := (List.range 16).foldl (fun s c => modeWrites st c (refreshAnew st c s)) s

theorem woken_frame (st : Nat) (s : Sled) : woken st s = { s with chan := (woken st s).chan } :=
  foldl_chan_frame (fun s c => (channelWakes st c s).1) _ s

theorem speedEnd_eq (st : Nat) (s : Sled) : speedEnd st s =
    { woken st (updMcs st (fun m => { m with speed := none, selfRefresh := false }) s) with
      speedQ := s.speedQ.filter fun x => x ≠ st } := by
  have h : (woken st (updMcs st (fun m => { m with speed := none, selfRefresh := false }) s)).speedQ = s.speedQ := by
    rw [woken_frame]
    rfl
  rw [speedEnd, ← woken]
  rw [h]

theorem speedEnd_frame (st : Nat) (s : Sled) : speedEnd st s =
    { s with mcs := (updMcs st (fun m => { m with speed := none, selfRefresh := false }) s).mcs
             chan := (speedEnd st s).chan, speedQ := s.speedQ.filter fun x => x ≠ st } := by
  rw [speedEnd_eq, woken_frame, updMcs]

/-- A channel after a change. -/
theorem getChan_speedEnd {st c : Nat} (hc : c < 16) (s : Sled) :
    (getChan (speedEnd st s) st c).mwBin = binOf s st ∧
      (fwf ({} : BankT) (getChan s st c).bank = true → ∀ x, (getBt (getChan (speedEnd st s) st c) x).owed = 0 ∧
        (getBt (getChan (speedEnd st s) st c) x).row = (getBt (getChan s st c) x).row) := by
  have hch (d : Nat) : getChan (speedEnd st s) st d =
      getChan (woken st (updMcs st (fun m => { m with speed := none, selfRefresh := false }) s)) st d := by
    rw [speedEnd_eq, getChan, getChan]
  have hsame : getChan (updMcs st (fun m => { m with speed := none, selfRefresh := false }) s) st c = getChan s st c := rfl
  have hbin : binOf (updMcs st (fun m => { m with speed := none, selfRefresh := false }) s) st = binOf s st := by
    rw [binOf, fget_updMcs_same, binOf]
  rw [hch]
  generalize updMcs st _ s = u at *
  obtain ⟨-, h⟩ := getChan_foldl (P := fun v => v.mcs = u.mcs)
    (fun v c hv => by rw [(channelWakes st c v).1]; exact hv) (fun v c d _ _ hd => (channelWakes st c v).2.1 d hd) rfl
    (Nat.le_refl 16) hc
  rw [if_pos hc] at h
  obtain ⟨v, hmcs, hget, hres⟩ := h
  obtain ⟨-, -, hmw, hbank⟩ := channelWakes st c v
  rw [show getChan (woken st u) st c = _ from hres, ← hsame, ← hget, ← hbin]
  rw [binOf, ← hmcs, ← binOf]
  exact ⟨hmw, hbank⟩

/-! ### The lock -/

/-- The delays and the rate that a lock makes live. -/
def lockedMcs (target prof now : Nat) (m : Mcs) : Mcs :=
  if target = prof then
    (List.range 16).foldl (fun m c => copyShadow 0 c m) { m with bin := target, setB := false, lowSince := none }
  else
    let conv := (m.dlyLive.filter fun p => p.1 < 16384).map fun p =>
      (p.1 + 16384, min 63 (divRne (p.2 * binRate target) (binRate prof)))
    let load (l : FMap Nat) : FMap Nat :=
      conv.foldl (fun l p => fset l 0 p.1 p.2) (fdrop l fun k _ => 16384 ≤ k)
    { m with bin := target, setB := true, dlyShadow := load m.dlyShadow, dlyLive := load m.dlyLive
             lowSince := if m.lowSince.isSome then m.lowSince else some now }

theorem lockedMcs_fields (target prof now : Nat) (m : Mcs) :
    (lockedMcs target prof now m).bin = target ∧ (lockedMcs target prof now m).setB = decide (target ≠ prof) := by
  have hfold (l : List Nat) (m : Mcs) : (l.foldl (fun m c => copyShadow 0 c m) m).bin = m.bin ∧
      (l.foldl (fun m c => copyShadow 0 c m) m).setB = m.setB := by
    induction l generalizing m with
    | nil => exact ⟨rfl, rfl⟩
    | cons c l ih => exact ih _
  by_cases h : target = prof
  · rw [lockedMcs, if_pos h, (hfold _ _).1, (hfold _ _).2]
    exact ⟨rfl, by simp [h]⟩
  · rw [lockedMcs, if_neg h]
    exact ⟨rfl, by simp [h]⟩

theorem pllConfirmed_eq {s : Sled} {st : Nat} {v : Speed} (hv : (fget s.mcs {} st).speed = some v) (hp : v.phase = 1)
    (hlow : (fget s.mcs {} st).lowSince = none) :
    pllConfirmed st s = speedEnd st (updMcs st (lockedMcs v.target (profBin s) s.now) s) := by
  simp only [pllConfirmed, hv, hp, hlow, Bool.and_false, Bool.false_eq_true, if_false]
  rfl

theorem pllTimeout_eq {s : Sled} {st : Nat} {v : Speed} (hv : (fget s.mcs {} st).speed = some v) (hp : v.phase = 1) :
    pllTimeout st s = logRec (mkRec 0x3007 (iMC st)) (rSetField (bMC st) 0x300 4 1 1 (speedEnd st s)) := by
  rw [pllTimeout, hv]
  exact if_neg (by simp [hp])

/-- The channels asleep. -/
def slept (st : Nat) (s : Sled) : Sled := (List.range 16).foldl (fun s c => chanSleeps st c s) s

theorem getChan_slept {st c : Nat} (hc : c < 16) (s : Sled) (hwf : fwf ({} : BankT) (getChan s st c).bank = true) (x :
    Nat) :
    (getBt (getChan (slept st s) st c) x).row = none ∧
      (getBt (getChan (slept st s) st c) x).owed = (getBt (getChan s st c) x).owed := by
  obtain ⟨-, h⟩ := getChan_foldl (P := fun _ => True) (F := fun s c => chanSleeps st c s) (fun _ _ _ => trivial)
    (fun v c d hc _ hd => (chanSleeps_frame hc v).2.1 d hd) (s := s) trivial (Nat.le_refl 16) hc
  rw [if_pos hc] at h
  obtain ⟨v, -, hget, hres⟩ := h
  obtain ⟨-, -, hb⟩ := chanSleeps_frame (st := st) hc v
  rw [slept, hres, ← hget]
  exact hb (by rw [hget]; exact hwf) x

theorem chanOuts_updMcs {s u : Sled} (h : ChanOuts s u) (st : Nat) (f : Mcs → Mcs) :
    u.mcs = s.mcs ∧ updMcs st f u = { s with mcs := (updMcs st f u).mcs, chan := u.chan, outs := u.outs } := by
  rw [updMcs_frame]
  generalize (updMcs st f u).mcs = a
  unfold ChanOuts at h
  generalize u.chan = b, u.outs = d at h ⊢
  subst h
  exact ⟨rfl, rfl⟩

/-- The start of a change: the stack sleeps with its rows closed and its refresh debt kept. -/
theorem fxSpeedChangeStart_sleeps {s : Sled} {st : Nat} {v : Speed} {rest : List Nat} (hv : (fget s.mcs {} st).speed =
    some v)
    (hp : v.phase = 0) (hq : s.speedQ = st :: rest) (hrun : islRuns s (iMC st) = true) (hm : migRuns s st = false)
    (hc : ∀ c : ChanId, (getChan s st c).replay = none ∧ (getChan s st c).pause = none) {t : Sled}
    (ht : fxSpeedChangeStart st s = t) :
    fget t.mcs {} st = { fget s.mcs {} st with speed := some { v with phase := 1 }, selfRefresh := true } ∧
      (∀ (c : ChanId) (b : CBank), fwf ({} : BankT) (getChan s st c).bank = true →
        (getBt (getChan t st c) b).row = none ∧ (getBt (getChan t st c) b).owed = (getBt (getChan s st c) b).owed) ∧
      t = { s with mcs := t.mcs, chan := t.chan, outs := t.outs } := by
  have hfx := fxSpeedChangeStart_eq hv hp hq hrun hm hc
  have hfr : ChanOuts s (slept st s) :=
    chanOuts_foldl (fun s c hc => (chanSleeps_frame (List.mem_range.1 hc) s).1) s
  have hbank (c : ChanId) := getChan_slept (st := st) c.isLt s
  rw [← slept, ht] at hfx
  clear ht
  generalize slept st s = u at *
  obtain ⟨hmcs, hframe⟩ := chanOuts_updMcs hfr st fun m => { m with speed := some { v with phase := 1 }, selfRefresh := true }
  have hget (c : Nat) : getChan t st c = getChan u st c := getChan_congr (by rw [hfx, updMcs_chan]) ..
  have hch : u.chan = t.chan := by rw [hfx, updMcs_chan]
  have hout : u.outs = t.outs := by rw [hfx, updMcs_outs]
  rw [← hfx, hch, hout] at hframe
  refine ⟨?_, fun c b hwf => ?_, hframe⟩
  · rw [hfx, fget_updMcs_same, hmcs]
  · rw [hget]
    exact hbank c hwf b

/-- The frame of a lock that ends the change. -/
theorem speedLocked_frame (st : Nat) (f : Mcs → Mcs) (s : Sled) :
    speedEnd st (updMcs st f s) =
      { s with mcs := (speedEnd st (updMcs st f s)).mcs, chan := (speedEnd st (updMcs st f s)).chan
               speedQ := s.speedQ.filter fun x => x ≠ st } := by
  rw [speedEnd_frame, updMcs_frame]

theorem fget_speedEnd (st : Nat) (s : Sled) :
    fget (speedEnd st s).mcs {} st = { fget s.mcs {} st with speed := none, selfRefresh := false } := by
  have h : (speedEnd st s).mcs = (updMcs st (fun m => { m with speed := none, selfRefresh := false }) s).mcs := by
    rw [speedEnd_frame]
  rw [h, fget_updMcs_same]

theorem speedGo_taken {s : Sled} {st bin : Nat} (hb : profBin s ≤ min bin 2) (hs : (fget s.mcs {} st).speed = none) :
    speedGo st bin s =
      { updMcs st (fun m => { m with speed := some { target := min bin 2 } }) s with speedQ := s.speedQ ++ [st] } := by
  rw [speedGo]
  exact if_neg (by simp [hs]; omega)

theorem speedGo_refused {s : Sled} {st bin : Nat} (h : min bin 2 < profBin s ∨ (fget s.mcs {} st).speed.isSome = true) :
    speedGo st bin s = rSetField (bMC st) 0x300 4 1 1 s := by
  rw [speedGo]
  exact if_pos h

theorem crossHeld_of_idle {s : Sled} {st : Nat} (hst : st < 9) (h : (fget s.mcs {} st).speed = none) :
    crossHeld s (bMC st) = false := by
  have hmc : bMC st - 0x010 = st := by simp only [bMC]; omega
  have hlt : ¬ 0x020 ≤ bMC st := by
    simp only [bMC]
    omega
  simp [crossHeld, hmc, hlt, h]

/-- A request writes its bin and then acts on it. -/
theorem fxSpeedChangeRequest_eq {s : Sled} {st bin : Nat} (hrun : islRuns s (iMC st) = true)
    (hx : crossHeld s (bMC st) = false) (hlock : lockedReg s (bMC st) 0x300 = false) :
    fxSpeedChangeRequest st bin s = speedGo st (min bin 2) (rSetField (bMC st) 0x300 0 2 (min bin 2) s) ∧
      rField (rSetField (bMC st) 0x300 0 2 (min bin 2) s) (bMC st) 0x300 0 2 = min bin 2 := by
  have hf : rField (rSetField (bMC st) 0x300 0 2 (min bin 2) s) (bMC st) 0x300 0 2 = min bin 2 := by
    rw [rField_rSetField_same _ _ _ _ _ _ (by omega)]
    exact Nat.mod_eq_of_lt (by omega)
  refine ⟨?_, hf⟩
  simp only [fxSpeedChangeRequest, hrun, hx, Bool.not_true, Bool.false_eq_true, if_false, swField_of_unlocked hlock, hf]

/-- Settles O18: a request is taken or refused; its start puts the stack to sleep; a lock makes the rate and its
delays live, and a PLL that does not lock leaves the former ones. -/
theorem speedChangeRunsItsSequence : Obligations.SpeedChangeRunsItsSequence := by
  refine ⟨?_, ?_, ?_, ?_, ?_⟩
  · intro s st bin hrun hlock hb hs
    obtain ⟨hfx, hf⟩ := fxSpeedChangeRequest_eq (bin := bin.toNat) hrun (crossHeld_of_idle st.isLt hs) hlock
    have hfr := rSetField_frame (bMC st) 0x300 0 2 (min bin.toNat 2) s.sled
    generalize rSetField (bMC st) 0x300 0 2 (min bin.toNat 2) s.sled = u at hfx hf hfr
    have hm : u.mcs = s.sled.mcs := by rw [hfr]
    have hq : u.speedQ = s.sled.speedQ := by rw [hfr]
    have hpb : profBin u = profBin s.sled := by rw [hfr]; rfl
    rw [speedGo_taken (by rw [hpb]; omega) (by rw [hm]; exact hs), show min (min bin.toNat 2) 2 = min bin.toNat 2 by omega, hq] at hfx
    have hframe : fxSpeedChangeRequest st bin.toNat s.sled =
        { s.sled with mcs := (fxSpeedChangeRequest st bin.toNat s.sled).mcs, regs := u.regs
                      speedQ := s.sled.speedQ ++ [st.val] } := by
      rw [hfx]
      generalize u.regs = r at hfr ⊢
      subst hfr
      rfl
    have hmcs : (fxSpeedChangeRequest st bin.toNat s.sled).mcs =
        (updMcs st (fun m => { m with speed := some { target := min bin.toNat 2 } }) u).mcs := by rw [hfx]
    have hr : (fxSpeedChangeRequest st bin.toNat s.sled).regs = u.regs := by rw [hframe]
    refine ⟨_, liftHold_next rfl (by rw [hframe]), rfl, (rField_congr hr ..).trans hf, ?_, ?_, ?_⟩
    · dsimp only
      rw [hmcs, fget_updMcs_same, hm]
    · dsimp only
      rw [hframe]
    · dsimp only
      rw [hframe]
  · intro s st bin hrun hlock hx hbad
    obtain ⟨hfx, -⟩ := fxSpeedChangeRequest_eq (bin := bin.toNat) hrun hx hlock
    have hfr := rSetField_frame (bMC st) 0x300 0 2 (min bin.toNat 2) s.sled
    generalize rSetField (bMC st) 0x300 0 2 (min bin.toNat 2) s.sled = u at hfx hfr
    have hm : u.mcs = s.sled.mcs := by rw [hfr]
    have hpb : profBin u = profBin s.sled := by rw [hfr]; rfl
    rw [speedGo_refused (by rw [hpb, hm]; exact hbad.imp_left (by omega))] at hfx
    have hframe : rSetField (bMC st) 0x300 4 1 1 u = { s.sled with regs := (rSetField (bMC st) 0x300 4 1 1 u).regs } := by
      rw [rSetField_frame]
      generalize (rSetField _ _ _ _ _ u).regs = a
      generalize u.regs = b at hfr
      subst hfr
      rfl
    refine ⟨_, liftHold_next hfx (by rw [hframe]), rfl, ?_, hframe⟩
    dsimp only
    rw [rField_rSetField_same _ _ _ _ _ _ (by omega)]
    rfl
  · intro s st v rest hv hp hq hrun hm hc
    exact ⟨_, lift_next rfl, rfl, fxSpeedChangeStart_sleeps hv hp hq hrun hm hc rfl⟩
  · intro s st v hv hp hlow hxing
    obtain ⟨hbin, hset⟩ := lockedMcs_fields v.target (profBin s.sled) s.sled.now (fget s.sled.mcs {} st)
    have hfr := speedLocked_frame st (lockedMcs v.target (profBin s.sled) s.sled.now) s.sled
    have hget := fget_speedEnd st (updMcs st (lockedMcs v.target (profBin s.sled) s.sled.now) s.sled)
    have hch (c : ChanId) := getChan_speedEnd (st := st) c.isLt (updMcs st (lockedMcs v.target (profBin s.sled) s.sled.now) s.sled)
    rw [fget_updMcs_same] at hget
    simp only [binOf, fget_updMcs_same, hbin, getChan_congr (updMcs_chan ..)] at hch
    have hfx := pllConfirmed_eq hv hp hlow
    rw [← hfx] at hfr hget hch
    have hx : (pllConfirmed st s.sled).xing = [] := by rw [hfr]; exact hxing
    generalize hu : pllConfirmed st s.sled = u at *
    have hq : u.speedQ = s.sled.speedQ.filter fun x => x ≠ st.val := by rw [hfr]
    rw [← hq] at hfr
    refine ⟨_, lift_next (u := u) ?_, rfl, ?_, ?_, ?_, ?_, hq, fun c b hwf => (hch c).2 hwf b, fun c => (hch c).1, hfr⟩
    · rw [fxPllLockConfirmed, hu, crossWrites_nil hx]
    all_goals dsimp only; rw [hget]
    · exact hbin
    · exact hset
  · intro s st v hv hp hxing
    have hfx : pllTimeout st s.sled = logRec (mkRec 0x3007 (iMC st)) (rSetField (bMC st) 0x300 4 1 1 (speedEnd st s.sled)) :=
      pllTimeout_eq hv hp
    have hx : (pllTimeout st s.sled).xing = [] := by
      rw [hfx, logRec_xing, rSetField_xing, speedEnd_frame]
      exact hxing
    refine ⟨?_, ?_, ?_, ?_⟩
    · refine lift_next ?_
      rw [fxPllLockTimeout, crossWrites_nil hx, hfx]
    all_goals rw [fget_speedEnd]

end Sys2Proof.Machine

/-! ## Banks, their command slots and the sequencer's run: one rule per operation (spec/08) -/
namespace Sys2Proof.Machine
open Sys2Proof

/-! ### Bank state -/

@[simp] theorem getBank_setBank_same (k : Nat) (b : BankU) (s : Sled) : getBank (setBank k b s) k = b := fget_fset_same
    ..

theorem getBank_setBank_other {k j : Nat} (h : j ≠ k) (b : BankU) (s : Sled) : getBank (setBank k b s) j = getBank s j
    :=
  fget_fset_other _ _ _ h

theorem getBank_setBank (k j : Nat) (b : BankU) (s : Sled) :
    getBank (setBank k b s) j = if j = k then b else getBank s j := by
  split
  case isTrue h =>
    subst h
    exact getBank_setBank_same ..
  case isFalse h => exact getBank_setBank_other h ..

theorem getBank_congr {s t : Sled} (h : t.bank = s.bank) (k : Nat) : getBank t k = getBank s k := by
  rw [getBank, h, getBank]

theorem getTm_congr {s t : Sled} (h : t.btm = s.btm) (k : Nat) : getTm t k = getTm s k := by
  rw [getTm, h, getTm]

/-- A pass over banks, each of which changes its own bank only: what each bank becomes. `P` is what the pass keeps. -/
theorem getBank_foldl {F : Sled → Nat → Sled} {g : Nat → BankU → BankU} {P : Sled → Prop} {l : List Nat}
    (hP : ∀ s, ∀ k ∈ l, P s → P (F s k))
    (hF : ∀ s, ∀ k ∈ l, P s → ∀ j, getBank (F s k) j = if j = k then g k (getBank s k) else getBank s j)
    (hl : l.Nodup ∨ ∀ k b, g k (g k b) = g k b) {s : Sled} (hs : P s) (j : Nat) :
    getBank (l.foldl F s) j = if j ∈ l then g j (getBank s j) else getBank s j := by
  induction l generalizing s with
  | nil => rfl
  | cons k l ih =>
    have hk := hF s k List.mem_cons_self hs
    have ih := ih (fun s i hi => hP s i (List.mem_cons_of_mem _ hi)) (fun s i hi => hF s i (List.mem_cons_of_mem _ hi))
      (hl.imp_left List.Nodup.of_cons) (hP s k List.mem_cons_self hs)
    rw [List.foldl_cons, ih, hk]
    by_cases hj : j = k
    · subst hj
      rw [if_pos rfl, if_pos List.mem_cons_self]
      split
      case isTrue hmem =>
        rcases hl with hl | hl
        · exact absurd hmem (List.nodup_cons.1 hl).1
        · exact hl ..
      case isFalse => rfl
    · rw [if_neg hj]
      simp only [List.mem_cons, hj, false_or]

theorem foldl_keeps {α : Type} {F : Sled → α → Sled} {P : Sled → Prop} {l : List α} (h : ∀ s, ∀ x ∈ l, P s → P (F s x))
    {s : Sled} (hs : P s) : P (l.foldl F s) := by
  induction l generalizing s with
  | nil => exact hs
  | cons x l ih => exact ih (fun s y hy => h s y (List.mem_cons_of_mem _ hy)) (h s x List.mem_cons_self hs)

/-! ### Command slots -/

/-- A command's slots change channels only: their time, their retry buffer and their bank mode, which stays on. -/
structure SlotsOnly (s t : Sled) : Prop where
  frame : t = { s with chan := t.chan }
  only : onlySlots s t
  bcm : ∀ st c, (getChan s st c).bcm = true → (getChan t st c).bcm = true

theorem SlotsOnly.refl (s : Sled) : SlotsOnly s s := ⟨rfl, fun _ _ => rfl, fun _ _ h => h⟩

theorem onlySlots_trans {s t u : Sled} (h : onlySlots s t) (h' : onlySlots t u) : onlySlots s u := fun st c => by
  have h := h st c
  have h' := h' st c
  generalize (getChan t st c).clk = a, (getChan t st c).retry = b, (getChan t st c).bcm = d at h
  rw [h] at h'
  exact h'

theorem SlotsOnly.trans {s t u : Sled} (h : SlotsOnly s t) (h' : SlotsOnly t u) : SlotsOnly s u where
  frame := by
    have h := h.frame
    have h' := h'.frame
    generalize u.chan = a at h'
    generalize t.chan = b at h
    subst h
    exact h'
  only := onlySlots_trans h.only h'.only
  bcm st c hb := h'.bcm st c (h.bcm st c hb)

theorem SlotsOnly.bank {s t : Sled} (h : SlotsOnly s t) : t.bank = s.bank := by rw [h.frame]

theorem SlotsOnly.btm {s t : Sled} (h : SlotsOnly s t) : t.btm = s.btm := by rw [h.frame]

theorem SlotsOnly.bcs {s t : Sled} (h : SlotsOnly s t) : t.bcs = s.bcs := by rw [h.frame]

/-- A change of one channel's time, retry buffer and bank mode. -/
theorem slotsOnly_updChan {f : Chan → Chan} (st c : Nat) (s : Sled)
    (hf : ∀ ch, f ch = { ch with clk := (f ch).clk, retry := (f ch).retry, bcm := (f ch).bcm })
    (hb : ∀ ch, ch.bcm = true → (f ch).bcm = true) : SlotsOnly s (updChan st c f s) where
  frame := rfl
  only st' c' := by
    by_cases hk : chanKey st' c' = chanKey st c
    · have hs : getChan s st' c' = getChan s st c := by rw [getChan, hk, getChan]
      have ht : getChan (updChan st c f s) st' c' = f (getChan s st c) := by
        rw [getChan, hk, ← getChan, getChan_updChan_same]
      rw [ht, hs]
      exact hf _
    · rw [getChan_updChan_other _ _ hk]
  bcm st' c' h := by
    by_cases hk : chanKey st' c' = chanKey st c
    · have hs : getChan s st' c' = getChan s st c := by rw [getChan, hk, getChan]
      rw [getChan, hk, ← getChan, getChan_updChan_same]
      exact hb _ (hs ▸ h)
    · rwa [getChan_updChan_other _ _ hk]

theorem slotsOnly_pushRetry (st c : Nat) (e : RetryEnt) (s : Sled) : SlotsOnly s (pushRetry st c e s) :=
  slotsOnly_updChan st c s (fun _ => rfl) fun _ h => h

theorem slotsOnly_useSlots (st c pre n : Nat) (s : Sled) : SlotsOnly s (useSlots st c pre n s) :=
  slotsOnly_updChan st c s (fun _ => rfl) fun _ h => h

/-- Bank mode is on once a bank command has been sent to the channel. -/
theorem slotsOnly_enterBcm (p : Nat) (s : Sled) :
    SlotsOnly s (enterBcm p s) ∧ (getChan (enterBcm p s) (p / 16) (p % 16)).bcm = true := by
  rw [enterBcm]
  split
  case isTrue h => exact ⟨.refl s, h⟩
  case isFalse h =>
    refine ⟨((slotsOnly_useSlots _ _ _ _ s).trans (slotsOnly_pushRetry ..)).trans
      (slotsOnly_updChan _ _ _ (fun _ => rfl) fun _ _ => rfl), ?_⟩
    rw [getChan_updChan_same]

/-- What a command does on one channel. -/
def slotSent (keys : List Nat) (n : Nat) (cmd : ChCmd) (s : Sled) (p : Nat) : Sled :=
  pushRetry (p / 16) (p % 16) { ranks := rankMask p keys, cmd := cmd } (useSlots (p / 16) (p % 16) 0 n (enterBcm p s))

theorem slotsOnly_slotSent (keys : List Nat) (n : Nat) (cmd : ChCmd) (s : Sled) (p : Nat) :
    SlotsOnly s (slotSent keys n cmd s p) ∧ (getChan (slotSent keys n cmd s p) (p / 16) (p % 16)).bcm = true := by
  obtain ⟨h, hb⟩ := slotsOnly_enterBcm p s
  have h' : SlotsOnly (enterBcm p s) (slotSent keys n cmd s p) := (slotsOnly_useSlots ..).trans (slotsOnly_pushRetry ..)
  exact ⟨h.trans h', h'.bcm _ _ hb⟩

theorem slotsOnly_foldl {α : Type} {F : Sled → α → Sled} (h : ∀ s x, SlotsOnly s (F s x)) (l : List α) (s : Sled) :
    SlotsOnly s (l.foldl F s) := by
  induction l generalizing s with
  | nil => exact .refl s
  | cons x l ih => exact (h s x).trans (ih _)

/-- A command's slots, and the bank mode of the channels that it names. -/
theorem slotsOnly_cmdIssue (st : Nat) (chs keys : List Nat) (n : Nat) (cmd : ChCmd) (s : Sled) :
    SlotsOnly s (cmdIssue st chs keys n cmd s) ∧
      ∀ c ∈ chs, c < 16 → (getChan (cmdIssue st chs keys n cmd s) st c).bcm = true := by
  have hstep (s : Sled) (p : Nat) := slotsOnly_slotSent keys n cmd s p
  have hon : ∀ (l : List Nat) (s : Sled), ∀ p ∈ l, (getChan (l.foldl (slotSent keys n cmd) s) (p / 16) (p % 16)).bcm = true := by
    intro l
    induction l with
    | nil => exact fun s p hp => absurd hp (List.not_mem_nil)
    | cons q l ih =>
      intro s p hp
      rw [List.foldl_cons]
      rcases List.mem_cons.1 hp with rfl | hp
      · exact (slotsOnly_foldl (fun s p => (hstep s p).1) l _).bcm _ _ (hstep s p).2
      · exact ih _ p hp
  refine ⟨slotsOnly_foldl (fun s p => (hstep s p).1) _ s, fun c hc hlt => ?_⟩
  have hmem : chanKey st c ∈ cmdChans st chs keys := List.mem_append_left _ (List.mem_map_of_mem hc)
  have h := hon _ s _ hmem
  rwa [show chanKey st c / 16 = st by rw [chanKey]; omega, show chanKey st c % 16 = c by rw [chanKey]; omega] at h

/-! ### The sequencer's run -/

/-- The first instruction, once issued, is behind the run. -/
theorem getRun_issued {s : Sled} {st : Nat} {r : Run} (hr : getRun s st = some r) (ha : r.ahead = []) :
    getRun (issued st r.pc s) st = some { r with pc := r.pc + 1 } ∧
      issued st r.pc s = { s with bcs := (issued st r.pc s).bcs } := by
  have hadv : issued.advance 65 r.pc [r.pc] = r.pc + 1 := by
    simp [issued.advance]
  have h : issued st r.pc s = setRun st (some { r with pc := r.pc + 1 }) s := by
    have hr' : ({ r with pc := r.pc + 1, ahead := [] } : Run) = { r with pc := r.pc + 1 } := by rw [ha]
    simp [issued, hr, ha, hadv, hr']
  rw [h]
  exact ⟨getRun_setRun_same .., rfl⟩

theorem getRun_congr {s t : Sled} (h : t.bcs = s.bcs) (st : Nat) : getRun t st = getRun s st := by
  rw [getRun, h, getRun]

theorem lt_of_mem_chans {m c : Nat} (h : c ∈ chans m) : c < 16 := List.mem_range.1 (List.mem_filter.1 h).1

theorem bankDrain_nil {k : Nat} {s : Sled} (h : (getBank s k).q = []) : bankDrain k s = s := by
  rw [bankDrain, bankDrain.go, h]
  rfl

end Sys2Proof.Machine

/-! ## The sequencers' queues, OPEN and CLOSE (O19: spec/08, R144 to R146, R154, R156, R157) -/
namespace Sys2Proof.Machine
open Sys2Proof

/-! ### What a bank program may change -/

/-- The frame of a bank instruction. -/
def BankFrame (s t : Sled) : Prop := t = { s with bank := t.bank, chan := t.chan, btm := t.btm, bcs := t.bcs }

theorem BankFrame.refl (s : Sled) : BankFrame s s := rfl

theorem BankFrame.trans {s t u : Sled} (h : BankFrame s t) (h' : BankFrame t u) : BankFrame s u := by
  unfold BankFrame at *
  generalize u.bank = a, u.chan = b, u.btm = c, u.bcs = d at h'
  generalize t.bank = a', t.chan = b', t.btm = c', t.bcs = d' at h
  subst h
  exact h'

theorem bankFrame_foldl {α : Type} {F : Sled → α → Sled} (h : ∀ s x, BankFrame s (F s x)) (l : List α) (s : Sled) :
    BankFrame s (l.foldl F s) := by
  induction l generalizing s with
  | nil => exact .refl s
  | cons x l ih => exact (h s x).trans (ih _)

theorem bankFrame_of_chan {s t : Sled} (h : t = { s with chan := t.chan }) : BankFrame s t := by
  unfold BankFrame
  generalize t.chan = a at h
  subst h
  rfl

theorem bankFrame_of_bcs {s t : Sled} (h : t = { s with bcs := t.bcs }) : BankFrame s t := by
  unfold BankFrame
  generalize t.bcs = a at h
  subst h
  rfl

theorem bankFrame_setBank (k : Nat) (b : BankU) (s : Sled) : BankFrame s (setBank k b s) := rfl

theorem bankFrame_setTm (k : Nat) (m : BankTm) (s : Sled) : BankFrame s (setTm k m s) := rfl

/-! ### OPEN -/

/-- A bank whose half takes a program row: another tenant's registers are cleared first. -/
def bankOpened (st t row : Nat) (b : BankU) : BankU :=
  let c := if b.tenant.isSome && b.tenant ≠ some t then bankClear b else b
  if row % 2 = 0 then { c with own := st, tenant := some t, rowE := some row }
  else { c with own := st, tenant := some t, rowO := some row }

/-- A bank's registers and times change together. -/
theorem setBank_setTm (k : Nat) (b : BankU) (m : BankTm) (s : Sled) :
    (∀ j, getBank (setBank k b (setTm k m s)) j = if j = k then b else getBank s j) ∧
      BankFrame s (setBank k b (setTm k m s)) ∧ (setBank k b (setTm k m s)).bcs = s.bcs ∧
      (setBank k b (setTm k m s)).chan = s.chan :=
  ⟨fun j => getBank_setBank k j b _, rfl, rfl, rfl⟩

theorem openRow_eq (st t row k : Nat) (s : Sled) :
    (∀ j, getBank (openRow st t row k s) j = if j = k then bankOpened st t row (getBank s k) else getBank s j) ∧
      BankFrame s (openRow st t row k s) ∧ (openRow st t row k s).bcs = s.bcs ∧ (openRow st t row k s).chan = s.chan :=
  setBank_setTm k (bankOpened st t row (getBank s k)) _ s

theorem bankOpened_idem (st t row : Nat) (b : BankU) :
    bankOpened st t row (bankOpened st t row b) = bankOpened st t row b := by
  by_cases h : row % 2 = 0 <;> simp [bankOpened, h]

theorem bankOpened_row (st t row : Nat) (b : BankU) :
    (if row % 2 = 0 then (bankOpened st t row b).rowE else (bankOpened st t row b).rowO) = some row ∧
      (bankOpened st t row b).own = st ∧ (bankOpened st t row b).tenant = some t := by
  by_cases h : row % 2 = 0 <;> simp [bankOpened, h]

/-- The tenant's own registers stay; another tenant's are cleared. -/
theorem bankOpened_v (st t row : Nat) (b : BankU) :
    (b.tenant = some t → (bankOpened st t row b).v = b.v) ∧
      (∀ u, b.tenant = some u → u ≠ t → (bankOpened st t row b).v = Vector.replicate 8 0) := by
  refine ⟨fun h => ?_, fun u h hne => ?_⟩ <;> by_cases hrow : row % 2 = 0 <;> simp [bankOpened, hrow, h]
  all_goals simp [hne, bankClear]

theorem openGap_keeps (ps : List Nat) (s : Sled) :
    openGap ps s = { s with chan := (openGap ps s).chan } ∧
      ∀ st c, (getChan (openGap ps s) st c).bcm = (getChan s st c).bcm := by
  rw [openGap]
  induction ps generalizing s with
  | nil => exact ⟨rfl, fun _ _ => rfl⟩
  | cons p ps ih =>
    rw [List.foldl_cons]
    generalize hu : updChan (p / 16) (p % 16) _ s = u
    obtain ⟨hf, hb⟩ := ih u
    refine ⟨?_, fun st c => (hb st c).trans ?_⟩
    · have hfu : u = { s with chan := u.chan } := by rw [← hu]; rfl
      generalize List.foldl _ u ps = v at hf ⊢
      generalize v.chan = a at hf ⊢
      generalize u.chan = b at hfu
      subst hfu
      exact hf
    · rw [← hu]
      exact getChan_updChan_proj (F := fun ch => ch.bcm) rfl ..

/-- What an OPEN that nothing holds back leaves. -/
def opened (st : Nat) (r : Run) (x : BcsInstr) (keys : List Nat) (s : Sled) : Sled :=
  openGap (cmdChans st (chans x.chmask) keys) (keys.foldl (fun s k => openRow st r.prog.tenant x.arg k s)
    (cmdIssue st (chans x.chmask) keys 1 (.prog iopOPEN x.group x.banks x.arg 0) s))

theorem fxBcsOpen_opens {s : Sled} {st : Nat} {r : Run} {x : BcsInstr} (h : atInstr s st r x) (hb : banksReady s st x)
    (hop : x.iop = iopOPEN) (hrow : rowAllowed s r.prog.tenant x.arg = true)
    (hfree : ∀ k ∈ instrKeys s st x, (getBt (getChan s (keyStack k) (keyChan k)) (keyCBank k)).row = none ∧
      (if x.arg % 2 = 0 then (getBank s k).rowE else (getBank s k).rowO) = none)
    (hwin : ∀ c ∈ chans x.chmask, windowAfter s (instrKeys s st x) st c ≤ windowLimit s st)
    (hready : openReady s x.arg (instrKeys s st x) = true) :
    fxBcsOpen st 0 s = issued st r.pc (opened st r x (instrKeys s st x) s) := by
  have hrows : ((instrKeys s st x).any fun k =>
      (getBt (getChan s (keyStack k) (keyChan k)) (keyCBank k)).row.isSome) = false := by
    rw [List.any_eq_false]
    exact fun k hk => by simp [(hfree k hk).1]
  have hhalf : ((instrKeys s st x).any fun k =>
      (if x.arg % 2 = 0 then (getBank s k).rowE else (getBank s k).rowO).isSome) = false := by
    rw [List.any_eq_false]
    exact fun k hk => by simp [(hfree k hk).2]
  have hlim : ((chans x.chmask).any fun c => windowLimit s st < windowAfter s (instrKeys s st x) st c) = false := by
    rw [List.any_eq_false]
    exact fun c hc => by simpa using hwin c hc
  rw [fxBcsOpen, ← hop, onBanks_of_ready h hb]
  simp only [hrows, hhalf, hrow, hlim, hready, Bool.not_true, Bool.or_self, Bool.false_eq_true, if_false]
  rw [opened, hop]

theorem fxBcsOpen_beyond {s : Sled} {st : Nat} {r : Run} {x : BcsInstr} (h : atInstr s st r x) (hb : banksReady s st x)
    (hop : x.iop = iopOPEN) (hrow : rowAllowed s r.prog.tenant x.arg = true) (hheld : progHeld s st = false)
    (hfree : ∀ k ∈ instrKeys s st x, (getBt (getChan s (keyStack k) (keyChan k)) (keyCBank k)).row = none ∧
      (if x.arg % 2 = 0 then (getBank s k).rowE else (getBank s k).rowO) = none) {c : Nat}
    (hc : c ∈ chans x.chmask) (hwin : windowLimit s st < windowAfter s (instrKeys s st x) st c) :
    fxBcsOpen st 0 s = progFault st 0x4002 r.pc s := by
  have hrows : ((instrKeys s st x).any fun k =>
      (getBt (getChan s (keyStack k) (keyChan k)) (keyCBank k)).row.isSome) = false := by
    rw [List.any_eq_false]
    exact fun k hk => by simp [(hfree k hk).1]
  have hhalf : ((instrKeys s st x).any fun k =>
      (if x.arg % 2 = 0 then (getBank s k).rowE else (getBank s k).rowO).isSome) = false := by
    rw [List.any_eq_false]
    exact fun k hk => by simp [(hfree k hk).2]
  have hlim : ((chans x.chmask).any fun c => windowLimit s st < windowAfter s (instrKeys s st x) st c) = true :=
    List.any_eq_true.2 ⟨c, hc, by simpa using hwin⟩
  rw [fxBcsOpen, ← hop, onBanks_of_ready h hb]
  simp only [hrows, hhalf, hrow, hlim, Bool.not_true, Bool.or_self, Bool.false_eq_true, if_false, if_true, unissued_pc,
    List.any_nil, faultOut, hheld]

/-- The banks, the run and the channels after an OPEN. -/
theorem opened_keeps (st : Nat) (r : Run) (x : BcsInstr) (keys : List Nat) (s : Sled) :
    (∀ k, getBank (opened st r x keys s) k =
      if k ∈ keys then bankOpened st r.prog.tenant x.arg (getBank s k) else getBank s k) ∧
      BankFrame s (opened st r x keys s) ∧ (opened st r x keys s).bcs = s.bcs ∧
      ∀ c ∈ chans x.chmask, (getChan (opened st r x keys s) st c).bcm = true := by
  obtain ⟨hslots, hbcm⟩ := slotsOnly_cmdIssue st (chans x.chmask) keys 1 (.prog iopOPEN x.group x.banks x.arg 0) s
  rw [opened]
  generalize cmdIssue _ _ _ _ _ s = u at *
  have hrow (s : Sled) (k : Nat) := openRow_eq st r.prog.tenant x.arg k s
  have hbank := getBank_foldl (P := fun _ => True) (F := fun s k => openRow st r.prog.tenant x.arg k s)
    (g := fun _ => bankOpened st r.prog.tenant x.arg) (l := keys) (fun _ _ _ _ => trivial) (fun s k _ _ => (hrow s k).1)
    (.inr fun _ _ => bankOpened_idem ..) (s := u) trivial
  have hfr := bankFrame_foldl (fun s k => (hrow s k).2.1) keys u
  have hkeep := foldl_keeps (P := fun v => v.bcs = u.bcs ∧ v.chan = u.chan) (l := keys)
    (F := fun s k => openRow st r.prog.tenant x.arg k s)
    (fun s k _ h => ⟨(hrow s k).2.2.1.trans h.1, (hrow s k).2.2.2.trans h.2⟩) (s := u) ⟨rfl, rfl⟩
  generalize List.foldl _ u keys = v at *
  obtain ⟨hgf, hgb⟩ := openGap_keeps (cmdChans st (chans x.chmask) keys) v
  generalize openGap _ v = w at *
  have hwb : w.bank = v.bank := by rw [hgf]
  have hwc : w.bcs = v.bcs := by rw [hgf]
  refine ⟨fun k => ?_, ((bankFrame_of_chan hslots.frame).trans hfr).trans (bankFrame_of_chan hgf), ?_, fun c hc => ?_⟩
  · rw [getBank_congr hwb, hbank, getBank_congr hslots.bank]
  · rw [hwc, hkeep.1, hslots.bcs]
  · rw [hgb, getChan_congr hkeep.2]
    exact hbcm c hc (lt_of_mem_chans hc)

/-! ### CLOSE -/

/-- A bank whose half closes. -/
def bankClosed (half : Nat) (b : BankU) : BankU := if half = 0 then { b with rowE := none } else { b with rowO := none }

theorem clearReop_keeps (half k : Nat) (s : Sled) :
    clearReop half k s = { s with chan := (clearReop half k s).chan } := by
  simp only [clearReop]
  split <;> rfl

theorem closeHalf_eq (half k : Nat) (s : Sled) :
    (∀ j, getBank (closeHalf half k s) j = if j = k then bankClosed half (getBank s k) else getBank s j) ∧
      BankFrame s (closeHalf half k s) ∧ (closeHalf half k s).bcs = s.bcs := by
  simp only [closeHalf]
  generalize ht : setTm k _ s = w
  obtain ⟨hb, hf, hbcs, -⟩ : (∀ j, getBank (setBank k (bankClosed half (getBank s k)) w) j =
        if j = k then bankClosed half (getBank s k) else getBank s j) ∧
      BankFrame s (setBank k (bankClosed half (getBank s k)) w) ∧
      (setBank k (bankClosed half (getBank s k)) w).bcs = s.bcs ∧ _ := by
    rw [← ht]
    exact setBank_setTm ..
  rw [← bankClosed]
  generalize setBank k (bankClosed half (getBank s k)) w = u at *
  have hc := clearReop_keeps half k u
  generalize clearReop half k u = v at *
  have hvb : v.bank = u.bank := by rw [hc]
  have hvc : v.bcs = u.bcs := by rw [hc]
  exact ⟨fun j => (getBank_congr hvb j).trans (hb j), hf.trans (bankFrame_of_chan hc), hvc.trans hbcs⟩

theorem bankClosed_idem (half : Nat) (b : BankU) : bankClosed half (bankClosed half b) = bankClosed half b := by
  unfold bankClosed
  split <;> rfl

theorem bankClosed_q (half : Nat) (b : BankU) : (bankClosed half b).q = b.q := by
  unfold bankClosed
  split <;> rfl

/-- Closing banks with nothing queued. -/
theorem foldl_closeHalf {keys : List Nat} {s : Sled} (h : ∀ k ∈ keys, (getBank s k).q = []) (half : Nat) :
    (∀ j, getBank (keys.foldl (fun s k => closeHalf half k (bankDrain k s)) s) j =
      if j ∈ keys then bankClosed half (getBank s j) else getBank s j) ∧
    BankFrame s (keys.foldl (fun s k => closeHalf half k (bankDrain k s)) s) ∧
    (keys.foldl (fun s k => closeHalf half k (bankDrain k s)) s).bcs = s.bcs := by
  have hstep (v : Sled) (hv : ∀ k ∈ keys, (getBank v k).q = []) (k : Nat) (hk : k ∈ keys) :
      closeHalf half k (bankDrain k v) = closeHalf half k v := by rw [bankDrain_nil (hv k hk)]
  have hkeep : ∀ v, ∀ k ∈ keys, (∀ j ∈ keys, (getBank v j).q = []) ∧ BankFrame s v ∧ v.bcs = s.bcs →
      (∀ j ∈ keys, (getBank (closeHalf half k (bankDrain k v)) j).q = []) ∧
        BankFrame s (closeHalf half k (bankDrain k v)) ∧ (closeHalf half k (bankDrain k v)).bcs = s.bcs := by
    rintro v k hk ⟨hv, hf, hb⟩
    obtain ⟨hg, hf', hb'⟩ := closeHalf_eq half k v
    rw [hstep v hv k hk]
    refine ⟨fun j hj => ?_, hf.trans hf', hb'.trans hb⟩
    rw [hg]
    split
    · rw [bankClosed_q, hv k hk]
    · exact hv j hj
  have hbank := getBank_foldl (g := fun _ => bankClosed half) hkeep
    (fun v k hk hv j => by rw [hstep v hv.1 k hk]; exact (closeHalf_eq half k v).1 j)
    (.inr fun _ _ => bankClosed_idem ..) (s := s) ⟨h, .refl s, rfl⟩
  exact ⟨hbank, (foldl_keeps hkeep (s := s) ⟨h, .refl s, rfl⟩).2⟩

/-- What a CLOSE leaves. -/
def closed (st : Nat) (x : BcsInstr) (keys : List Nat) (s : Sled) : Sled :=
  keys.foldl (fun s k => closeHalf (x.arg % 2) k (bankDrain k s))
    (cmdIssue st (chans x.chmask) keys 1 (.prog iopCLOSE x.group x.banks (x.arg % 2) 0) s)

theorem fxBcsClose_eq {s : Sled} {st : Nat} {r : Run} {x : BcsInstr} (h : atInstr s st r x) (hb : banksReady s st x)
    (hop : x.iop = iopCLOSE) : fxBcsClose st 0 s = issued st r.pc (closed st x (instrKeys s st x) s) := by
  rw [fxBcsClose, ← hop, onBanks_of_ready h hb, closed, hop]

theorem closed_keeps {st : Nat} {x : BcsInstr} {keys : List Nat} {s : Sled} (h : ∀ k ∈ keys, (getBank s k).q = []) :
    (∀ k, getBank (closed st x keys s) k = if k ∈ keys then bankClosed (x.arg % 2) (getBank s k) else getBank s k) ∧
      BankFrame s (closed st x keys s) ∧ (closed st x keys s).bcs = s.bcs := by
  obtain ⟨hslots, -⟩ := slotsOnly_cmdIssue st (chans x.chmask) keys 1 (.prog iopCLOSE x.group x.banks (x.arg % 2) 0) s
  rw [closed]
  generalize cmdIssue _ _ _ _ _ s = u at *
  obtain ⟨hg, hf, hbcs⟩ := foldl_closeHalf (s := u) (fun k hk => by rw [getBank_congr hslots.bank]; exact h k hk) (x.arg % 2)
  refine ⟨fun k => ?_, (bankFrame_of_chan hslots.frame).trans hf, hbcs.trans hslots.bcs⟩
  rw [hg, getBank_congr hslots.bank]

/-- An instruction whose effect keeps the run is issued: the run goes on. -/
theorem issued_keeps {s u : Sled} {st : Nat} {r : Run} {x : BcsInstr} (h : atInstr s st r x) (hf : BankFrame s u)
    (hbcs : u.bcs = s.bcs) : getRun (issued st r.pc u) st = some { r with pc := r.pc + 1 } ∧
      (issued st r.pc u).bank = u.bank ∧ (issued st r.pc u).chan = u.chan ∧ BankFrame s (issued st r.pc u) := by
  obtain ⟨hrun, -, -, -, hahead, -, -, -⟩ := h
  obtain ⟨hr, hi⟩ := getRun_issued ((getRun_congr hbcs st).trans hrun) hahead
  generalize issued st r.pc u = v at *
  exact ⟨hr, by rw [hi], by rw [hi], hf.trans (bankFrame_of_bcs hi)⟩

/-! ### The queues -/

theorem regAccess_bcs {a : Agent} {s : Sled} {st : Nat} (hst : st < 9) (hact : canAct s a = true)
    (hreach : blkReach a (bBCS st) = true) (hx : crossHeld s (bBCS st) = false) (hrun : islRuns s (iMC st) = true) (off : Nat)
    (f : Sled → Sled) : regAccess a (bBCS st) off f s = f s := by
  have hisl : blkIsland (bBCS st) = some (iMC st) := by
    rw [blkIsland, if_neg (by simp only [bBCS, bGLB, bISL, bTHM, bKPR]; omega), if_neg (by simp only [bBCS, bMAP, bSYN]; omega),
      if_neg (by simp only [bBCS]; omega), if_pos (by simp only [bBCS]; omega), show bBCS st - 0x020 = st by simp only [bBCS]; omega]
  have hlt : ¬ 0x060 ≤ bBCS st := by
    simp only [bBCS]
    omega
  have hopen : regOpen s (bBCS st) off = true := by simp [regOpen, hisl, hlt, hrun]
  simp [regAccess, hact, hreach, hopen, hx]

theorem rGet_congr {s t : Sled} (h : t.regs = s.regs) (blk off : Nat) : rGet t blk off = rGet s blk off := by
  rw [rGet, h, rGet]

theorem msixSend_regs_eq (fn vec : Nat) (s : Sled) : (msixSend fn vec s).regs = s.regs := by
  simp only [msixSend]
  split
  · rfl
  · split <;> rfl

/-- A function's event is a register of the host port. -/
theorem rGet_vfEvent {t blk off : Nat} (ht : t < 0x1000) (ho : off < 0x100000) (hb : blk ≠ bHST) (b : Nat) (s : Sled) :
    rGet (vfEvent t b s) blk off = rGet s blk off := by
  simp only [vfEvent]
  split
  · rfl
  · split
    · rfl
    · rw [rGet_congr (msixSend_regs_eq ..)]
      exact rGet_rSet_ne _ _ ho (by omega) fun h => hb (Prod.mk.inj h).1

/-- Logging writes registers of the keeper and of the host port only. -/
theorem rGet_logRec {r : Rec} {blk off : Nat} (ht : ∀ t, r.tenant = some t → t < 0x1000) (ho : off < 0x100000)
    (hb : blk ≠ bHST) (hk : blk ≠ bKPR) (s : Sled) : rGet (logRec r s) blk off = rGet s blk off := by
  have hcount : (recCount r s).regs = s.regs := by
    unfold recCount
    split <;> rfl
  rw [logRec, recPlace]
  split
  · have halert : (recAlert (recStamp s r) (recEnter (recStamp s r) (recCount r s))).regs = (recCount r s).regs := by
      unfold recAlert
      split <;> rfl
    rw [recTell]
    split
    case h_1 t heq => rw [rGet_vfEvent (ht t heq) ho hb, rGet_congr halert, rGet_congr hcount]
    case h_2 => rw [rGet_congr halert, rGet_congr hcount]
  · rw [dropRec, bump, bumpN]
    rw [rGet_rSet_ne _ _ ho (by decide) fun h => hk (Prod.mk.inj h).1]
    exact rGet_congr hcount ..

/-- A queue of a sequencer, once set. -/
theorem getD_setIfInBounds {α : Type} (v : Vector (List α) 4) {q : Nat} (hq : q < 4) (j : Nat) (x : List α) :
    (v.setIfInBounds q x).toList.getD j [] = if j = q then x else v.toList.getD j [] := by
  have hlen : q < v.toList.length := by simpa using hq
  have hset : (v.setIfInBounds q x).toList = v.toList.set q x := by simp
  rw [hset, List.getD_eq_getElem?_getD, List.getElem?_set]
  by_cases h : q = j
  · subst h
    simp [hq]
  · simp [h, Ne.symm h, List.getD_eq_getElem?_getD]

theorem bcsEnqueue_room {s : Sled} {st q : Nat} {p : Prog} (hquiet : s.plat.quiesce = .none)
    (h : ((fget s.bcs {} st).queues.toList.getD q []).length < 16) :
    bcsEnqueue st q p s = { s with bcs := fset s.bcs {} st { fget s.bcs {} st with
      queues := (fget s.bcs {} st).queues.setIfInBounds q ((fget s.bcs {} st).queues.toList.getD q [] ++ [p]) } } := by
  simp only [bcsEnqueue, hquiet, Nat.not_le.2 h, ne_eq, not_true_eq_false, if_false]

theorem bcsEnqueue_full {s : Sled} {st q : Nat} {p : Prog} (hquiet : s.plat.quiesce = .none)
    (h : 16 ≤ ((fget s.bcs {} st).queues.toList.getD q []).length) :
    bcsEnqueue st q p s = logRec (recWho s 0x4006
      { q := q, kind := 5, ix := st, tenant := some p.tenant, island := iMC st }) (bcsFlag st 0 s) := by
  simp only [bcsEnqueue, hquiet, h, ne_eq, not_true_eq_false, if_false, if_true]

theorem fxBcsQdoor_eq {a : Agent} {s : Sled} {st q : Nat} (hst : st < 9) (hact : canAct s a = true)
    (hreach : blkReach a (bBCS st) = true) (hx : crossHeld s (bBCS st) = false) (hrun : islRuns s (iMC st) = true)
    (hhost : q = 3 → hostMode s ≠ 2) (v : Nat) : fxBcsQdoor a st q v s = bcsEnqueue st q (progOf v) s := by
  rw [fxBcsQdoor, regAccess_bcs hst hact hreach hx hrun]
  exact if_neg fun h => hhost h.1 h.2

/-- The queues before the first that holds a program are passed over. -/
theorem find_queue {p : Nat → Bool} {rr q : Nat} (hq : q < 4) (hp : p q = true)
    (h : ∀ i < (q + 3 - rr % 4) % 4, p ((rr + 1 + i) % 4) = false) :
    ((List.range 4).map fun i => (rr + 1 + i) % 4).find? p = some q := by
  have hrange : List.range 4 = [0, 1, 2, 3] := rfl
  have hcases : (q + 3 - rr % 4) % 4 = 0 ∨ (q + 3 - rr % 4) % 4 = 1 ∨ (q + 3 - rr % 4) % 4 = 2 ∨ (q + 3 - rr % 4) % 4 = 3 := by
    omega
  rw [hrange]
  rcases hcases with hd | hd | hd | hd
  · have h0 : (rr + 1 + 0) % 4 = q := by omega
    simp only [List.map_cons, List.find?_cons, h0, hp]
  · have h1 : (rr + 1 + 1) % 4 = q := by omega
    simp only [List.map_cons, List.find?_cons, h1, hp, h 0 (by omega)]
  · have h2 : (rr + 1 + 2) % 4 = q := by omega
    simp only [List.map_cons, List.find?_cons, h2, hp, h 0 (by omega), h 1 (by omega)]
  · have h3 : (rr + 1 + 3) % 4 = q := by omega
    simp only [List.map_cons, List.find?_cons, h3, hp, h 0 (by omega), h 1 (by omega), h 2 (by omega)]

theorem fxBcsProgramStart_eq {s : Sled} {st q : Nat} {p : Prog} {rest : List Prog} (hq : q < 4) (hrun : islRuns s (iMC
    st) = true)
    (hsr : (fget s.mcs {} st).selfRefresh = false) (hidle : (fget s.bcs {} st).run = none)
    (hp : (fget s.bcs {} st).queues.toList.getD q [] = p :: rest)
    (h : ∀ i < (q + 3 - (fget s.bcs {} st).rr % 4) % 4,
      (fget s.bcs {} st).queues.toList.getD (((fget s.bcs {} st).rr + 1 + i) % 4) [] = []) :
    fxBcsProgramStart st s = { s with bcs := fset s.bcs {} st { fget s.bcs {} st with
      queues := (fget s.bcs {} st).queues.setIfInBounds q rest, rr := q, run := some { prog := p, q := q } } } := by
  have hfind := find_queue (p := fun q => !((fget s.bcs {} st).queues.toList.getD q []).isEmpty) (rr := (fget s.bcs {} st).rr) hq
    (by rw [hp]; rfl) (fun i hi => by rw [h i hi]; rfl)
  simp only [fxBcsProgramStart, hrun, hsr, hidle, hfind, hp]
  rfl

/-- Settles O19: a program joins its queue or is dropped, the next queue's head starts, and OPEN and CLOSE set the rows
of the banks that they name. -/
theorem programsQueueStartOpenAndClose : Obligations.ProgramsQueueStartOpenAndClose := by
  refine ⟨?_, ?_, ?_, ?_, ?_, ?_⟩
  · intro s a st q v hact hreach hx hrun hhost hquiet hlen
    have hfx := (fxBcsQdoor_eq st.isLt hact hreach hx hrun hhost v.toNat).trans (bcsEnqueue_room hquiet hlen)
    refine ⟨_, liftHold_next hfx rfl, rfl, ?_, fun j hj => ?_, ?_, rfl⟩ <;> dsimp only <;> rw [fget_fset_same]
    · rw [getD_setIfInBounds _ q.isLt, if_pos rfl]
      rfl
    · rw [getD_setIfInBounds _ q.isLt, if_neg (fun h => hj (Fin.ext h))]
  · intro s a st q v hact hreach hx hrun hhost hquiet hlen hroom
    have hfx := (fxBcsQdoor_eq st.isLt hact hreach hx hrun hhost v.toNat).trans (bcsEnqueue_full hquiet hlen)
    generalize hr : recWho s.sled 0x4006 _ = r at hfx
    have hisl : r.island = iMC st := by rw [← hr]; rfl
    have hten : r.tenant = some (progOf v.toNat).tenant := by rw [← hr]; rfl
    have hlt : (progOf v.toNat).tenant < 0x1000 := (Nat.mod_lt _ (by decide)).trans (by decide : 2 ^ 4 < 0x1000)
    have hbit : bitAt (rGet (bcsFlag st 0 s.sled) (bBCS st) 0x20) 0 = true := by
      rw [bcsFlag, rGet_rSetField _ _ _ _ _ _ (by omega), bitAt_eq_testBit, testBit_setBits]
      rfl
    have hflag : bcsFlag st 0 s.sled = { s.sled with regs := (bcsFlag st 0 s.sled).regs } := rSetField_frame ..
    generalize bcsFlag st 0 s.sled = u at *
    have hk : u.kpr = s.sled.kpr := by rw [hflag]
    have hcoll := logRec_coll r u (by rw [hk, hisl]; exact hroom)
    refine ⟨_, liftHold_next hfx (by rw [logRec_stall, hflag]), rfl, ?_, ?_, ?_⟩
    · rw [logRec_bcs, hflag]
    · rw [rGet_logRec (by rw [hten]; rintro t ⟨⟩; exact hlt) (by decide) (by simp [bBCS, bHST]; omega) (by simp [bBCS, bKPR]; omega)]
      exact hbit
    · rw [← hisl, hcoll, List.length_append, hk]
      rfl
  · intro s st q p rest hrun hsr hidle hp h
    have hfx := fxBcsProgramStart_eq q.isLt hrun hsr hidle hp h
    refine ⟨_, lift_next hfx, rfl, ?_, ?_, ?_, rfl⟩ <;> dsimp only <;> rw [fget_fset_same]
    rw [getD_setIfInBounds _ q.isLt, if_pos rfl]
  · intro s st r x hat hb hop hrow hfree hwin hready
    have hfx := fxBcsOpen_opens hat hb hop hrow hfree hwin hready
    obtain ⟨hbank, hf, hbcs, hbcm⟩ := opened_keeps st r x (instrKeys s.sled st x) s.sled
    obtain ⟨hr, hbk, hch, hf'⟩ := issued_keeps hat hf hbcs
    generalize opened st r x (instrKeys s.sled st x) s.sled = u at *
    have hget (k : Nat) := (getBank_congr hbk k).trans (hbank k)
    refine ⟨_, lift_next hfx, rfl, hr, fun k hk => ?_, fun k hk => ?_, fun c hc => ?_, hf'⟩
    · dsimp only
      rw [hget, if_pos hk]
      obtain ⟨hrow, hown, hten⟩ := bankOpened_row st r.prog.tenant x.arg (getBank s.sled k)
      obtain ⟨hv, hv0⟩ := bankOpened_v st r.prog.tenant x.arg (getBank s.sled k)
      exact ⟨hrow, hown, hten, hv, fun u hu hne i => by rw [hv0 u hu hne]; simp⟩
    · dsimp only
      rw [hget, if_neg hk]
    · dsimp only
      rw [getChan_congr hch]
      exact hbcm c hc
  · intro s st r x c hat hb hop hrow hheld hfree hc hwin
    exact lift_next (fxBcsOpen_beyond hat hb hop hrow hheld hfree hc hwin)
  · intro s st r x hat hb hop hq
    have hfx := fxBcsClose_eq hat hb hop
    obtain ⟨hbank, hf, hbcs⟩ := closed_keeps (st := st) (x := x) hq
    obtain ⟨hr, hbk, -, hf'⟩ := issued_keeps hat hf hbcs
    generalize closed st x (instrKeys s.sled st x) s.sled = u at *
    have hget (k : Nat) := (getBank_congr hbk k).trans (hbank k)
    refine ⟨_, lift_next hfx, rfl, hr, fun k hk => ?_, fun k hk => ?_, hf'⟩
    · dsimp only
      rw [hget, if_pos hk, bankClosed]
    · dsimp only
      rw [hget, if_neg hk]

end Sys2Proof.Machine

/-! ## A READ whose bank stands still (O21: spec/08, R153)

The sequencer gives a READ its slots on the channels that it names and on those of S8 where a spare serves a bank. A
migration state of S8 itself whose spare is no rank of a channel puts the bank on the next channel: a thermal pause slot
there stops the bank, and the READ waits although every condition of the clause holds. -/
namespace Sys2Proof.Machine
open Sys2Proof

/-- READ of one bank on channel 0. -/
def strayInstr : BcsInstr := { iop := iopREAD, chmask := 1, group := 0, banks := 1, arg := 0, data := 0x8000000040 }

/-- The program of that one instruction, in the first scratchpad. -/
def strayRun : Run := { prog := { addr := 0x8000000000, count := 1, tenant := 0 }, q := 0 }

/-- A profile whose tenant 0 has the first vault core. -/
def strayProfile : Ppi :=
  { id := 0, magic := 0, fmt := 0, count := 0, total := 0, profNum := 0, hostMode := 0, rsv0E := 0, secVersion := 0
    product := 0, rsv18 := [], table := [], sigR := 0, sigS := 0, signer := none
    cfg :=
      { bin := 0, ctlClk := 48, vcClk := [], steClk := 60, cap := 0, tq := 0, removal := none, minStacks := 0
        minVc := 0, minCc := 0, minPorts := 0, allowKt3 := false, unused := 0, regions := [], masks := []
        tenants := [{ enabled := true, vcMask := 1, ctrLo := 0, ctrN := 0, semLo := 0, semN := 0, slots := 0, regions := [] }]
        topology := 0, routes := [], peers := [], allowKt3Peers := false, links := 0, hostPort := false, pwl := []
        regBase := 0, preload := [] } }

/-- The program runs on S8, whose rank 0 has moved to a spare beyond the ranks; channel 1 is in a thermal pause slot. -/
def straySled : Sled :=
  { rSet bKPR 8 1 {} with
    isl := [(iMC 8, { state := 2 }), (iVC 0, { state := 2 })], clearing := false, prof := some strayProfile
    mem := memWrite [] (2 ^ 40 + 0x8000000000) (leBytes 16 (bcsEncode strayInstr))
    bcs := [(8, { run := some strayRun })], mcs := [(8, { mig := some { rank := 0, spare := 4, state := 3 } })]
    chan := [(129, { thermal := 1 })] }

theorem straySled_atInstr : atInstr straySled 8 strayRun strayInstr := by decide +kernel

theorem straySled_banksReady : banksReady straySled 8 strayInstr := by decide +kernel

/-- The READ does not issue. -/
theorem getRun_straySled_read : getRun (fxBcsRead 8 0 straySled) 8 = some strayRun := by decide +kernel

/-- Refutes O21: in `straySled` every hypothesis on READ holds, and the run stays where it is. -/
theorem not_programsCommandReadSetSignalAndEnd : ¬ Obligations.ProgramsCommandReadSetSignalAndEnd := by
  rintro ⟨-, -, -, hread, -⟩
  obtain ⟨t, ht, -, hrun, -⟩ := hread ⟨straySled, []⟩ 8 strayRun strayInstr 0 0 0x8000000040 8256 0 straySled_atInstr
    straySled_banksReady rfl rfl rfl rfl (by decide +kernel) (by decide) (by decide) (by decide) (by decide +kernel) rfl
    (by decide +kernel) (by decide +kernel) (by decide +kernel)
  have hstall : (fxBcsRead 8 0 straySled).stall = straySled.stall := by decide +kernel
  have hexec : exec (.bcsRead 8 0) ⟨straySled, []⟩ = .next ⟨fxBcsRead 8 0 straySled, []⟩ := 
    liftHold_next (f := fxBcsRead 8 0) (s := ⟨straySled, []⟩) rfl hstall
  obtain rfl : (⟨fxBcsRead 8 0 straySled, []⟩ : State) = t := Host.Outcome.next.inj (hexec.symm.trans ht)
  exact absurd (getRun_straySled_read.symm.trans hrun) (by decide)

end Sys2Proof.Machine

/-! ## A single BAU command on a free bank (spec/08, R148 to R151) -/
namespace Sys2Proof.Machine
open Sys2Proof

/-! ### The bank's registers do not depend on its queue -/

/-- A bank with its queue and its repeat replaced. -/
def withQueue (q : List BankCmd) (n : Nat) (b : BankU) : BankU := { b with q := q, step := n }

@[simp] theorem getV_withQueue (q : List BankCmd) (n : Nat) (b : BankU) : getV (withQueue q n b) = getV b := rfl

@[simp] theorem getPV_withQueue (q : List BankCmd) (n : Nat) (b : BankU) : getPV (withQueue q n b) = getPV b := rfl

@[simp] theorem getA_withQueue (q : List BankCmd) (n : Nat) (b : BankU) : getA (withQueue q n b) = getA b := rfl

@[simp] theorem getPA_withQueue (q : List BankCmd) (n : Nat) (b : BankU) : getPA (withQueue q n b) = getPA b := rfl

@[simp] theorem accLane_withQueue (q : List BankCmd) (n : Nat) (b : BankU) : accLane (withQueue q n b) = accLane b := rfl

@[simp] theorem bauRow_withQueue (q : List BankCmd) (n : Nat) (b : BankU) : bauRow (withQueue q n b) = bauRow b := rfl

@[simp] theorem bc_withQueue (q : List BankCmd) (n : Nat) (b : BankU) : (withQueue q n b).bc = b.bc := rfl

@[simp] theorem pbc_withQueue (q : List BankCmd) (n : Nat) (b : BankU) : (withQueue q n b).pbc = b.pbc := rfl

@[simp] theorem withQueue_withQueue (q q' : List BankCmd) (n n' : Nat) (b : BankU) :
    withQueue q n (withQueue q' n' b) = withQueue q n b := rfl

theorem withQueue_self {b : BankU} {q : List BankCmd} {n : Nat} (hq : b.q = q) (hn : b.step = n) :
    withQueue q n b = b := by
  subst hq hn
  rfl

theorem setV_withQueue (x : BitVec 3) (w : Nat) (p : Bool) (q : List BankCmd) (n : Nat) (b : BankU) :
    setV x w p (withQueue q n b) = withQueue q n (setV x w p b) := rfl

theorem setA_withQueue (a : Bool) (w : Nat) (p : Bool) (q : List BankCmd) (n : Nat) (b : BankU) :
    setA a w p (withQueue q n b) = withQueue q n (setA a w p b) := by
  cases a <;> rfl

theorem bauAcc_withQueue (f : BauFields) (w : Nat) (pb : Bool) (g : FVal → FVal → FVal) (q : List BankCmd) (n : Nat) (b
    : BankU) :
    bauAcc f w pb g (withQueue q n b) = withQueue q n (bauAcc f w pb g b) := by
  unfold bauAcc
  split <;> simp only [setA_withQueue, accLane_withQueue, getPA_withQueue]

theorem bauApply_withQueue (op : Nat) (f : BauFields) (lane w : Nat) (po : Bool) (q : List BankCmd) (n : Nat) (b :
    BankU) :
    bauApply op f lane w po (withQueue q n b) = withQueue q n (bauApply op f lane w po b) := by
  unfold bauApply
  simp only [getV_withQueue, getPV_withQueue, getA_withQueue, getPA_withQueue, accLane_withQueue, bc_withQueue, pbc_withQueue,
    setV_withQueue, setA_withQueue, bauAcc_withQueue, apply_ite (withQueue q n)]
  rfl

theorem queue_setA (a : Bool) (w : Nat) (p : Bool) (b : BankU) :
    (setA a w p b).q = b.q ∧ (setA a w p b).step = b.step := by
  cases a <;> exact ⟨rfl, rfl⟩

theorem queue_bauApply (op : Nat) (f : BauFields) (lane w : Nat) (po : Bool) (b : BankU) :
    (bauApply op f lane w po b).q = b.q ∧ (bauApply op f lane w po b).step = b.step := by
  have h := bauApply_withQueue op f lane w po b.q b.step b
  rw [withQueue_self rfl rfl] at h
  rw [h]
  exact ⟨rfl, rfl⟩

/-! ### One step of a command -/

/-- The flag of a BAU command's operand word, where its column is clean. -/
def operandFlag (b : BankU) (op : Nat) (f : BauFields) : Bool := if bauColumn op f then false else getPV b f.y

/-- A clean column is read as it stands. -/
theorem readOperand_clean {p : Nat} {s : Sled} (hp : p % 32 = 0) (h : eccAt s p = eClean) :
    readOperand p s = ((leNat (memRead s.mem p 32), false), s) := by
  have hself : p / 32 * 32 = p := by omega
  simp only [readOperand, h, hself]
  rfl

theorem bauPlace_aligned (s : Sled) (k : Nat) (f : BauFields) : bauPlace s k f % 32 = 0 := by
  rw [bauPlace]
  omega

/-- A step that writes the bank's registers. -/
theorem bauStep_writes {src k op : Nat} {f : BauFields} {s : Sled} (hst : op ≠ opBST) (hrd : op ≠ opBRDACC)
    (hclean : bauColumn op f = true → eccAt s (bauPlace s k f) = eClean) :
    bauStep src k op f 0 s =
      setBank k (bauApply op f (bauLane f 0) (bauOperand s k op f) (operandFlag (getBank s k) op f) (getBank s k)) s := by
  have hplace : k * 2 ^ 26 + (bauRow (getBank s k) f).getD 0 * 1024 + (f.col.toNat + 0) * 32 = bauPlace s k f := rfl
  unfold bauStep
  simp only [hplace, if_neg hst, if_neg hrd, bauOperand, operandFlag]
  split
  case isTrue hcol =>
    rw [readOperand_clean (bauPlace_aligned s k f) (hclean hcol)]
  case isFalse => rfl

/-- Only the times of bank steps and the progress of tenants differ. -/
def StepMarks (s t : Sled) : Prop := t = { s with btm := t.btm, dld := t.dld }

/-- A step's time and its progress. -/
def stepMarked (src k op : Nat) (f : BauFields) (s : Sled) : Sled := progProgress src (stepTime k op f s)

theorem stepMarked_marks (src k op : Nat) (f : BauFields) (s : Sled) : StepMarks s (stepMarked src k op f s) := by
  unfold stepMarked progProgress
  split <;> rfl

theorem StepMarks.bank {s t : Sled} (h : StepMarks s t) : t.bank = s.bank := by
  unfold StepMarks at h
  generalize t.btm = a, t.dld = b at h
  subst h
  rfl

/-! ### One bank changes -/

theorem onlyBank_trans {s t u : Sled} {k : Nat} (h : onlyBank s t k) (h' : onlyBank t u k) : onlyBank s u k := by
  obtain ⟨hf, hb, hc⟩ := h
  obtain ⟨hf', hb', hc'⟩ := h'
  refine ⟨?_, fun j hj => (hb' j hj).trans (hb j hj), onlySlots_trans hc hc'⟩
  generalize u.bank = a, u.chan = b, u.btm = c, u.dld = d at hf'
  generalize t.bank = a', t.chan = b', t.btm = c', t.dld = d' at hf
  subst hf
  exact hf'

theorem SlotsOnly.onlyBank {s t : Sled} (h : SlotsOnly s t) (k : Nat) : onlyBank s t k := by
  refine ⟨?_, fun j _ => getBank_congr h.bank j, h.only⟩
  have hf := h.frame
  generalize t.chan = a at hf
  subst hf
  rfl

theorem onlyBank_setBank (k : Nat) (b : BankU) (s : Sled) : onlyBank s (setBank k b s) k :=
  ⟨rfl, fun _ hj => getBank_setBank_other hj .., fun _ _ => rfl⟩

theorem StepMarks.onlyBank {s t : Sled} (h : StepMarks s t) (k : Nat) : onlyBank s t k := by
  unfold StepMarks at h
  generalize t.btm = a, t.dld = b at h
  subst h
  exact ⟨rfl, fun _ _ => rfl, fun _ _ => rfl⟩

/-- The last repeat of the bank's only command. -/
theorem bankDrain_one {src k op : Nat} {f : BauFields} {s : Sled} (hq : (getBank s k).q = [.bau src op f])
    (hstep : (getBank s k).step = 0) (hcnt : f.cnt = 0) {u : Sled} (hu : stepMarked src k op f (bauStep src k op f 0 s) = u) :
    bankDrain k s = setBank k (withQueue [] 0 (getBank u k)) u := by
  have hone : bankStep k s = setBank k (withQueue [] 0 (getBank u k)) u := by
    rw [bankStep]
    simp only [hq, hstep, hcnt]
    unfold stepMarked at hu
    simp only [hu]
    rfl
  have hne : (getBank s k).q.isEmpty = false := by rw [hq]; rfl
  rw [bankDrain, bankDrain.go, hne, if_neg Bool.false_ne_true, hone]
  rw [bankDrain.go, getBank_setBank_same]
  rfl

/-- A ready command is issued and runs to its end. -/
theorem bauRun_of_ready {s : Sled} {b : BankSel} {k op : Nat} {f : BauFields} (h : bauReady s b k op f) :
    ∃ u, SlotsOnly s u ∧ bauRun op b f s = bankDrain k (setBank k (withQueue [.bau b.stack.val op f] 0 (getBank s k)) u) := by
  obtain ⟨hsel, hstop, hfree, hvalid, hq, hstep, -, -⟩ := h
  obtain ⟨hslots, -⟩ := slotsOnly_cmdIssue b.stack.val [b.chan.val] [k] 2
    (.prog iopBAU b.group.val b.banks.toNat op (bauWord op f)) s
  refine ⟨_, hslots, ?_⟩
  have hb := getBank_congr hslots.bank k
  have hdrain : bankDrain k (cmdIssue b.stack.val [b.chan.val] [k] 2
      (.prog iopBAU b.group.val b.banks.toNat op (bauWord op f)) s) = _ := bankDrain_nil (by rw [hb, hq])
  unfold bauRun
  simp only [hsel, List.all_cons, List.all_nil, hstop, hfree, hvalid, Bool.not_false, Bool.and_self, if_true, List.foldl_cons,
    List.foldl_nil, hdrain]
  rw [bankPush, hb, hq, List.nil_append, ← hstep]
  rfl

/-- A ready command's single step: it starts with the command alone in the bank's queue and ends with an empty one. -/
theorem bauRun_steps {s : Sled} {b : BankSel} {k op : Nat} {f : BauFields} (h : bauReady s b k op f) :
    ∃ u m, SlotsOnly s u ∧
      StepMarks (bauStep b.stack.val k op f 0 (setBank k (withQueue [.bau b.stack.val op f] 0 (getBank s k)) u)) m ∧
      bauRun op b f s = setBank k (withQueue [] 0 (getBank m k)) m := by
  obtain ⟨u, hu, hrun⟩ := bauRun_of_ready h
  obtain ⟨-, -, -, -, -, -, hcnt, -⟩ := h
  refine ⟨u, _, hu, stepMarked_marks b.stack.val k op f _, hrun.trans ?_⟩
  exact bankDrain_one (by rw [getBank_setBank_same]; rfl) (by rw [getBank_setBank_same]; rfl) hcnt rfl

/-- What a ready command that writes registers does. -/
theorem bauRun_writes {s : Sled} {b : BankSel} {k op : Nat} {f : BauFields} (h : bauReady s b k op f) (hst : op ≠ opBST)
    (hrd : op ≠ opBRDACC) :
    onlyBank s (bauRun op b f s) k ∧ getBank (bauRun op b f s) k =
      bauApply op f f.l.toNat (bauOperand s k op f) (operandFlag (getBank s k) op f) (getBank s k) := by
  obtain ⟨u, m, hu, hm, hrun⟩ := bauRun_steps h
  obtain ⟨-, -, -, -, hq, hstep, -, hclean⟩ := h
  have hlane : bauLane f 0 = f.l.toNat := by
    have := f.l.isLt
    rw [bauLane]
    split <;> omega
  generalize hw : setBank k (withQueue [.bau b.stack.val op f] 0 (getBank s k)) u = w at hm
  have hwk : getBank w k = withQueue [.bau b.stack.val op f] 0 (getBank s k) := by rw [← hw, getBank_setBank_same]
  have hmem : w.mem = s.mem ∧ w.ecc = s.ecc := by
    have hf := hu.frame
    generalize u.chan = a at hf
    subst hf hw
    exact ⟨rfl, rfl⟩
  have hplace : bauPlace w k f = bauPlace s k f := by
    rw [bauPlace, hwk, bauRow_withQueue, bauPlace]
  have hoper : bauOperand w k op f = bauOperand s k op f := by
    rw [bauOperand, hplace, hmem.1, hwk, getV_withQueue, bauOperand]
  have hflag : operandFlag (getBank w k) op f = operandFlag (getBank s k) op f := by
    rw [hwk, operandFlag, getPV_withQueue, operandFlag]
  have hone := bauStep_writes (src := b.stack.val) (s := w) hst hrd fun hcol => by
    rw [hplace, eccAt, hmem.2]
    exact hclean hcol
  rw [hoper, hflag, hlane, hwk, bauApply_withQueue] at hone
  rw [hone] at hm
  rw [hrun, getBank_congr hm.bank, getBank_setBank_same, getBank_setBank_same, withQueue_withQueue]
  obtain ⟨hq', hstep'⟩ := queue_bauApply op f f.l.toNat (bauOperand s k op f) (operandFlag (getBank s k) op f) (getBank s k)
  refine ⟨?_, withQueue_self (hq'.trans hq) (hstep'.trans hstep)⟩
  have hw' : onlyBank s w k := onlyBank_trans (hu.onlyBank k) (hw ▸ onlyBank_setBank ..)
  exact onlyBank_trans (onlyBank_trans (onlyBank_trans hw' (onlyBank_setBank ..)) (hm.onlyBank k)) (onlyBank_setBank ..)

end Sys2Proof.Machine

/-! ## Bank columns, the staging move and the column step (O23: spec/08, R149, R151, R152, R161) -/
namespace Sys2Proof.Machine
open Sys2Proof

/-! ### BST -/

/-- A whole word that no migration mirrors, in a rank that can be read, is stored as it is. -/
theorem writeRaw_whole {p : Nat} {l : List Byte} {s : Sled} (hp : p % 32 = 0)
    (hread : unreadable s (coordOf p).stack (coordOf p).chan (coordOf p).rank = false) (hmir : mirrorOf s p = none) :
    writeRaw p (2 ^ 32 - 1) l s = { s with mem := memWrite s.mem p l, ecc := fset s.ecc 0 (p / 32) eClean } := by
  have hself : p / 32 * 32 = p := by omega
  have hstore : storeWord p (2 ^ 32 - 1) l s = { s with mem := memWrite s.mem p l, ecc := fset s.ecc 0 (p / 32) eClean } := by
    rw [storeWord, if_pos rfl, hself]
  rw [writeRaw]
  simp only [hself, hmir, hread, Bool.false_eq_true, if_false, hstore, ite_self]

/-- The place of a bank's column lies in the stack, channel and rank of its key. -/
theorem coordOf_bauPlace {s : Sled} {k : Nat} {f : BauFields} (hrow : (bauRow (getBank s k) f).getD 0 < 65536) :
    (coordOf (bauPlace s k f)).stack = keyStack k ∧ (coordOf (bauPlace s k f)).chan = keyChan k ∧
      (coordOf (bauPlace s k f)).rank = keyRank k := by
  have hcol := f.col.isLt
  simp only [coordOf, bauPlace, keyStack, keyChan, keyRank, bitsOf]
  omega

theorem unreadable_of_stopped {s : Sled} {k : Nat} (h : bankStopped s k = false) :
    unreadable s (keyStack k) (keyChan k) (keyRank k) = false := by
  simp only [bankStopped, bankHeld, Bool.or_eq_false_iff] at h
  exact h.1.1.1.1.2

theorem fxBst_stores {s : Sled} {b : BankSel} {k : Nat} {f : BauFields} (h : bauReady s b k opBST f) (hk : k < 9216)
    (hrow : (bauRow (getBank s k) f).getD 0 < 65536) (hpv : getPV (getBank s k) f.x = false)
    (hmig : ∀ n < 9, (fget s.mcs {} n).mig = none) {t : Sled} (ht : fxBst b f s = t) :
    t.mem = memWrite s.mem (bauPlace s k f) (leBytes 32 (getV (getBank s k) f.x)) ∧
      eccAt t (bauPlace s k f) = eClean ∧ (∀ j, getBank t j = getBank s j) ∧ onlySlots s t ∧ t = { s with
        mem := t.mem, ecc := t.ecc, bank := t.bank, chan := t.chan, btm := t.btm, dld := t.dld } := by
  obtain ⟨u, m, hu, hm, hrun⟩ := bauRun_steps h
  obtain ⟨-, hstop, -, -, hq, hstep, -, -⟩ := h
  have hrun : t = setBank k (withQueue [] 0 (getBank m k)) m := ht.symm.trans hrun
  have hplace : bauPlace s k f < 9 * 2 ^ 36 := by
    have := f.col.isLt
    rw [bauPlace]
    omega
  obtain ⟨hst, hch, hrk⟩ := coordOf_bauPlace (s := s) hrow
  generalize hw : setBank k (withQueue [.bau b.stack.val opBST f] 0 (getBank s k)) u = w at hm
  have hwk : getBank w k = withQueue [.bau b.stack.val opBST f] 0 (getBank s k) := by rw [← hw, getBank_setBank_same]
  have hwo (j : Nat) (hj : j ≠ k) : getBank w j = getBank s j := by
    rw [← hw, getBank_setBank_other hj, getBank_congr hu.bank]
  have hframe : w = { s with bank := w.bank, chan := w.chan } ∧ onlySlots s w := by
    have hf := hu.frame
    have ho : onlySlots s w := fun st c => by
      have h := hu.only st c
      rwa [← hw]
    generalize u.chan = a at hf
    subst hf
    subst hw
    exact ⟨rfl, ho⟩
  obtain ⟨hframe, hslots⟩ := hframe
  have hmcs : w.mcs = s.mcs ∧ w.mem = s.mem ∧ w.ecc = s.ecc := by
    generalize w.bank = a, w.chan = b at hframe
    subst hframe
    exact ⟨rfl, rfl, rfl⟩
  obtain ⟨hmcs, hmem, hecc⟩ := hmcs
  have hread : unreadable w (keyStack k) (keyChan k) (keyRank k) = false := by
    rw [unreadable_congr hmcs fun st c => by rw [hslots], unreadable_of_stopped hstop]
  have hmirr : mirrorOf w (bauPlace s k f) = none := mirrorOf_of_none (hmcs ▸ hmig) hplace
  have hbau : bauStep b.stack.val k opBST f 0 w =
      { w with mem := memWrite s.mem (bauPlace s k f) (leBytes 32 (getV (getBank s k) f.x))
               ecc := fset s.ecc 0 (bauPlace s k f / 32) eClean } := by
    have hp : k * 2 ^ 26 + (bauRow (getBank s k) f).getD 0 * 1024 + (f.col.toNat + 0) * 32 = bauPlace s k f := rfl
    rw [bauStep, hwk, if_pos rfl]
    simp only [bauRow_withQueue, getPV_withQueue, getV_withQueue, hp, hpv, Bool.false_eq_true, if_false]
    rw [writeRaw_whole (bauPlace_aligned s k f) (by rw [hst, hch, hrk, hread]) hmirr, hmem, hecc]
  rw [hbau] at hm
  have hmb := getBank_congr hm.bank
  generalize hv : memWrite s.mem (bauPlace s k f) (leBytes 32 (getV (getBank s k) f.x)) = v at hm ⊢
  generalize he : fset s.ecc 0 (bauPlace s k f / 32) eClean = e at hm
  have hmk : withQueue [] 0 (getBank m k) = getBank s k := by
    rw [hmb k]
    change withQueue [] 0 (getBank w k) = _
    rw [hwk, withQueue_withQueue, withQueue_self hq hstep]
  rw [hmk] at hrun
  have hbanks (j : Nat) : getBank t j = getBank s j := by
    rw [hrun, getBank_setBank]
    split
    case isTrue hj => rw [hj]
    case isFalse hj => exact (hmb j).trans (hwo j hj)
  unfold StepMarks at hm
  generalize m.btm = a, m.dld = b' at hm
  generalize w.bank = c, w.chan = d at hframe
  subst hm
  have hecc' : fget e 0 (bauPlace s k f / 32) = eClean := by rw [← he, fget_fset_same]
  refine ⟨by rw [hrun]; rfl, by rw [hrun]; exact hecc', hbanks, ?_, ?_⟩
  · rw [hrun]
    exact hslots
  · subst hframe
    rw [hrun]
    rfl

/-! ### BCW -/

/-- What a BC load leaves of a bank. -/
def bankLoaded (d : BitVec 256) (po : Bool) (b : BankU) : BankU :=
  { b with stg := d, pstg := po, stgFull := true, q := b.q ++ [.move] }

theorem getBank_bankBcw (k : Nat) (d : BitVec 256) (po : Bool) (s : Sled) (j : Nat) :
    getBank (bankBcw k d po s) j = if j = k then bankLoaded d po (getBank s k) else getBank s j := by
  rw [bankBcw]
  exact getBank_setBank ..

theorem fxBcw_loads {s : Sled} {b : BankSel} {d : BitVec 256} {po : Bool} (hroom : bankRoom s (selOf s b) = true)
    (hfull : ∀ k ∈ selOf s b, (getBank s k).stgFull = false) (hnd : (selOf s b).Nodup)
    (hfree : chanFree s b.stack b.chan = true) {t : Sled} (ht : fxBcw b d po s = t) :
    onlySlots s t ∧ t = { s with bank := t.bank, chan := t.chan, btm := t.btm } ∧
      ∀ k, getBank t k = if k ∈ selOf s b then bankLoaded d po (getBank s k) else getBank s k := by
  have hstg : ((selOf s b).all fun k => !(getBank s k).stgFull) = true :=
    List.all_eq_true.2 fun k hk => by simp [hfull k hk]
  obtain ⟨hu, -⟩ := slotsOnly_cmdIssue b.stack.val [b.chan.val] (selOf s b) 1
    (.prog iopBCW b.group.val b.banks.toNat 0 d.toNat) s
  rw [fxBcw] at ht
  simp only [hroom, hfree, hstg, Bool.and_self, if_true] at ht
  generalize cmdIssue b.stack.val [b.chan.val] (selOf s b) 1 (.prog iopBCW b.group.val b.banks.toNat 0 d.toNat) s = u at hu ht
  have hpass (k : Nat) := getBank_foldl (F := fun s k => bankBcw k d po s) (g := fun _ => bankLoaded d po) (P := fun _ => True)
    (fun _ _ _ h => h) (fun s k _ _ j => getBank_bankBcw k d po s j) (.inl hnd) (s := u) trivial k
  have hchan : (t.chan = u.chan) ∧ t = { u with bank := t.bank, btm := t.btm } := by
    subst ht
    exact foldl_keeps (F := fun s k => bankBcw k d po s) (P := fun t => t.chan = u.chan ∧ t = { u with bank := t.bank, btm := t.btm })
      (fun v k _ hv => ⟨hv.1, by
        obtain ⟨-, hv⟩ := hv
        generalize v.bank = a, v.btm = b at hv
        subst hv
        rfl⟩) ⟨rfl, rfl⟩
  rw [ht] at hpass
  refine ⟨fun st c => ?_, ?_, fun k => ?_⟩
  · have h := hu.only st c
    rwa [show getChan t st c = getChan u st c by rw [getChan, hchan.1, getChan]]
  · have hf := hu.frame
    obtain ⟨-, ht⟩ := hchan
    generalize t.bank = a, t.btm = b at ht
    generalize u.chan = c at hf
    subst hf
    subst ht
    rfl
  · rw [hpass, getBank_congr hu.bank]

/-! ### The column step -/

/-- A bank with nothing queued takes no column step. -/
theorem bankColumn_nil {k : Nat} {s : Sled} (h : (getBank s k).q = []) : bankColumn k s = s := by
  have hm : ∀ n, bankColumn.moves k n s = s := fun n => by
    cases n with
    | zero => rfl
    | succ n =>
      rw [bankColumn.moves, h]
      rfl
  rw [bankColumn, hm, bankStep]
  simp only [h]

/-- A bank whose first command is a BAU operation takes its step. -/
theorem bankColumn_bau {k src op : Nat} {f : BauFields} {q : List BankCmd} {s : Sled} (h : (getBank s k).q = .bau src op
    f :: q) :
    bankColumn k s = bankStep k s := by
  rw [bankColumn, bankColumn.moves, h]
  rfl

/-- One step of an operation on registers alone. -/
theorem bankStep_registers {k src op : Nat} {f : BauFields} {q : List BankCmd} {s : Sled}
    (hop : op = opBADD ∨ op = opBMUL ∨ op = opBFMA ∨ op = opBCLR) (h : (getBank s k).q = .bau src op f :: q) :
    onlyBank s (bankStep k s) k ∧
      ((getBank s k).step < f.cnt.toNat →
        (getBank (bankStep k s) k).q = .bau src op f :: q ∧ (getBank (bankStep k s) k).step = (getBank s k).step + 1) ∧
      (f.cnt.toNat ≤ (getBank s k).step → (getBank (bankStep k s) k).q = q ∧ (getBank (bankStep k s) k).step = 0) := by
  have hcol : bauColumn op f = false := by
    rcases hop with rfl | rfl | rfl | rfl <;> simp [bauColumn, opBADD, opBMUL, opBFMA, opBCLR, opBLD, opBST, opBMAC, opBDOT, opBEMA,
      opBMAX, opBMIN, opBCVT]
  have hst : op ≠ opBST ∧ op ≠ opBRDACC := by
    rcases hop with rfl | rfl | rfl | rfl <;> decide
  obtain ⟨r, hr⟩ : ∃ r : Nat × Bool, bauStep src k op f (getBank s k).step s =
      setBank k (bauApply op f (bauLane f (getBank s k).step) r.1 r.2 (getBank s k)) s := by
    refine ⟨(getV (getBank s k) f.y, getPV (getBank s k) f.y), ?_⟩
    unfold bauStep
    simp only [if_neg hst.1, if_neg hst.2, hcol, Bool.false_eq_true, if_false]
  obtain ⟨hq, hn⟩ := queue_bauApply op f (bauLane f (getBank s k).step) r.1 r.2 (getBank s k)
  have hm := stepMarked_marks src k op f (bauStep src k op f (getBank s k).step s)
  generalize hu : stepMarked src k op f (bauStep src k op f (getBank s k).step s) = m at hm
  rw [hr] at hm
  have hmk : getBank m k = bauApply op f (bauLane f (getBank s k).step) r.1 r.2 (getBank s k) := by
    rw [getBank_congr hm.bank, getBank_setBank_same]
  rw [← hmk] at hq hn
  have hone : bankStep k s = setBank k (if (getBank m k).step < f.cnt.toNat then { getBank m k with step := (getBank m k).step + 1 }
      else { getBank m k with q := q, step := 0 }) m := by
    rw [bankStep]
    unfold stepMarked at hu
    simp only [h, hu]
  refine ⟨?_, fun hlt => ?_, fun hle => ?_⟩
  · rw [hone]
    exact onlyBank_trans (onlyBank_trans (onlyBank_setBank ..) (hm.onlyBank k)) (onlyBank_setBank ..)
  · rw [hone, getBank_setBank_same, hn, if_pos hlt]
    exact ⟨hq.trans h, rfl⟩
  · rw [hone, getBank_setBank_same, hn, if_neg (Nat.not_lt.2 hle)]
    exact ⟨rfl, rfl⟩

/-- Of the banks of a pass only one has a command. -/
theorem foldl_bankColumn {k : Nat} {l : List Nat} (hk : k ∈ l) (hl : l.Nodup) {s : Sled} (h : ∀ j, j ≠ k → (getBank s
    j).q = [])
    (hstep : ∀ j, j ≠ k → getBank (bankColumn k s) j = getBank s j) :
    l.foldl (fun s k => bankColumn k s) s = bankColumn k s := by
  have hidle : ∀ (l : List Nat) (t : Sled), k ∉ l → (∀ j, j ≠ k → (getBank t j).q = []) →
      l.foldl (fun s k => bankColumn k s) t = t := by
    intro l
    induction l with
    | nil => exact fun _ _ _ => rfl
    | cons j l ih =>
      intro t hk ht
      obtain ⟨hj, hk⟩ := not_or.1 (List.mem_cons.not.1 hk)
      rw [List.foldl_cons, bankColumn_nil (ht j (Ne.symm hj)), ih t hk ht]
  obtain ⟨l₁, l₂, rfl⟩ := List.append_of_mem hk
  rw [List.nodup_append] at hl
  obtain ⟨-, hl₂, hdis⟩ := hl
  have h₁ : k ∉ l₁ := fun hm => hdis k hm k List.mem_cons_self rfl
  rw [List.foldl_append, hidle l₁ s h₁ h, List.foldl_cons, hidle l₂ _ (List.nodup_cons.1 hl₂).1]
  intro j hj
  rw [hstep j hj, h j hj]

/-- The keys of a map in its one form are listed once, and every key that holds something is among them. -/
theorem keys_of_fwfFrom {α : Type} [DecidableEq α] {d : α} {lo : Nat} {m : FMap α} (h : fwfFrom d lo m = true) :
    (m.map (·.1)).Nodup ∧ ∀ k, fget m d k ≠ d → k ∈ m.map (·.1) := by
  induction m generalizing lo with
  | nil => exact ⟨List.nodup_nil, fun _ hk => absurd rfl hk⟩
  | cons p m ih =>
    obtain ⟨a, v⟩ := p
    simp only [fwfFrom, Bool.and_eq_true] at h
    obtain ⟨hnd, hmem⟩ := ih h.2
    have ha : a ∉ m.map (·.1) := fun hin => by
      obtain ⟨x, hx, rfl⟩ := List.mem_map.1 hin
      exact absurd (le_key_of_fwfFrom h.2 hx) (by omega)
    refine ⟨List.nodup_cons.2 ⟨ha, hnd⟩, fun k hk => ?_⟩
    rw [fget] at hk
    split at hk
    case isTrue heq => exact heq ▸ List.mem_cons_self
    case isFalse => exact List.mem_cons_of_mem _ (hmem k hk)

theorem fxColumnStep_eq {s : Sled} {st k : Nat} (hst : keyStack k = st) (hwf : fwf ({} : BankU) s.bank = true)
    (hne : getBank s k ≠ {}) (hstop : bankStopped s k = false) (hidle : ∀ j, j ≠ k → (getBank s j).q = [])
    (hstep : ∀ j, j ≠ k → getBank (bankColumn k s) j = getBank s j) : fxColumnStep st s = bankColumn k s := by
  obtain ⟨hnd, hmem⟩ := keys_of_fwfFrom hwf
  refine foldl_bankColumn (List.mem_filter.2 ⟨hmem k hne, ?_⟩) (hnd.filter _) hidle hstep
  simp [hst, hstop]

/-- Settles O23: each command's effect on its one bank. -/
theorem bankLoadStoreAndStagingMoveColumns : Obligations.BankLoadStoreAndStagingMoveColumns := by
  unfold Obligations.BankLoadStoreAndStagingMoveColumns
  refine ⟨?_, ?_, ?_, ?_, ?_, ?_⟩
  · intro s b f k h
    obtain ⟨honly, hbank⟩ := bauRun_writes h (by decide) (by decide)
    refine ⟨_, lift_next rfl, rfl, honly, hbank.trans ?_⟩
    rw [bauOperand, operandFlag]
    rfl
  · intro s b f k h hk hrow hpv hmig
    exact ⟨_, lift_next rfl, rfl, fxBst_stores h hk hrow hpv (fun n hn => hmig ⟨n, hn⟩) rfl⟩
  · intro s b d po hroom hfull hnd hfree
    exact ⟨_, lift_next rfl, rfl, fxBcw_loads hroom hfull hnd hfree rfl⟩
  · intro s b k q hsel hheld hq
    have hfx : fxBcStagingMove b s.sled = setBank k { getBank s.sled k with
        bc := (getBank s.sled k).stg, pbc := (getBank s.sled k).pstg, stg := 0, pstg := false, stgFull := false, q := q } s.sled := by
      rw [fxBcStagingMove, hsel, List.foldl_cons, List.foldl_nil, bankStep]
      simp only [hheld, hq, List.head?_cons, decide_true, Bool.not_false, Bool.and_self, if_true]
    refine ⟨_, lift_next hfx, rfl, onlyBank_setBank .., getBank_setBank_same ..⟩
  · intro s st k op src f q hst hwf hne hheld hth hq hop hidle
    obtain ⟨honly, hlt, hle⟩ := bankStep_registers hop hq
    rw [← bankColumn_bau hq] at honly hlt hle
    have hstop : bankStopped s.sled k = false := by
      rw [bankStopped, hheld, hst, inPauseSlot]
      simpa using hth
    exact ⟨_, lift_next (fxColumnStep_eq hst hwf hne hstop hidle honly.2.1), rfl, honly, hlt, hle⟩
  · intro s st hheld
    have hnone : ((s.sled.bank.map (·.1)).filter fun k => keyStack k = st.val && !bankStopped s.sled k) = [] :=
      List.filter_eq_nil_iff.2 fun k _ => by
        by_cases hk : keyStack k = st.val
        · simp [bankStopped, hheld k hk]
        · simp [hk]
    have hfx : fxColumnStep st.val s.sled = s.sled := by
      rw [fxColumnStep, hnone]
      rfl
    exact lift_next hfx

end Sys2Proof.Machine

/-! ## Bank arithmetic: lanes and registers (O24, O25: spec/08, R149, R150, R153) -/
namespace Sys2Proof.Machine
open Sys2Proof

/-! ### Lanes -/

theorem packLanes_lt (w : Nat) (l : List Nat) : packLanes w l < 2 ^ (w * l.length) := by
  induction l with
  | nil => simp [packLanes]
  | cons x l ih =>
    have hx := Nat.mod_lt x (Nat.two_pow_pos w)
    rw [packLanes, List.length_cons, Nat.mul_succ, Nat.add_comm (w * l.length), Nat.pow_add]
    calc x % 2 ^ w + 2 ^ w * packLanes w l < 2 ^ w * (packLanes w l + 1) := by rw [Nat.mul_succ]; omega
      _ ≤ 2 ^ w * 2 ^ (w * l.length) := Nat.mul_le_mul_left _ ih

/-- A packed lane reads back, as far as it is wide enough. -/
theorem laneOf_packLanes (w : Nat) (l : List Nat) {i : Nat} (hi : i < l.length) :
    laneOf w (packLanes w l) i = l[i] % 2 ^ w := by
  induction l generalizing i with
  | nil => exact absurd hi (Nat.not_lt_zero i)
  | cons x l ih =>
    have hx := Nat.mod_lt x (Nat.two_pow_pos w)
    rw [laneOf, bitsOf, packLanes]
    cases i with
    | zero => rw [Nat.mul_zero, pow_zero, Nat.div_one, Nat.add_mul_mod_self_left, Nat.mod_mod, List.getElem_cons_zero]
    | succ i =>
      have h := ih (Nat.lt_of_succ_lt_succ hi)
      rw [laneOf, bitsOf] at h
      rw [Nat.mul_succ, Nat.add_comm (w * i), Nat.pow_add, ← Nat.div_div_eq_div_mul, Nat.add_mul_div_left _ _ (Nat.two_pow_pos w),
        Nat.div_eq_of_lt hx, Nat.zero_add, h, List.getElem_cons_succ]

theorem laneOf_accOf (g : Nat → FVal) {i : Nat} (hi : i < 16) : laneOf 32 (accOf g) i = encodeF fp32 (g i) := by
  have hlt : encodeF fp32 (g i) < 2 ^ 32 := encodeF_lt fp32 (g i)
  rw [accOf, laneOf_packLanes _ _ (by simpa using hi), List.getElem_map, List.getElem_range, Nat.mod_eq_of_lt hlt]

theorem laneOf_vecOf (g : Nat → FVal) {i : Nat} (hi : i < 16) : laneOf 16 (vecOf g) i = encodeF bf16 (g i) := by
  have hlt : encodeF bf16 (g i) < 2 ^ 16 := encodeF_lt bf16 (g i)
  rw [vecOf, laneOf_packLanes _ _ (by simpa using hi), List.getElem_map, List.getElem_range, Nat.mod_eq_of_lt hlt]

theorem accOf_lt (g : Nat → FVal) : accOf g < 2 ^ 512 := by
  have h := packLanes_lt 32 ((List.range 16).map fun i => encodeF fp32 (g i))
  rw [List.length_map, List.length_range] at h
  exact h.trans_eq (congrArg (2 ^ ·) (rfl : 32 * 16 = 512))

theorem vecOf_lt (g : Nat → FVal) : vecOf g < 2 ^ 256 := by
  simpa [vecOf] using packLanes_lt 16 ((List.range 16).map fun i => encodeF bf16 (g i))

theorem laneOf_setLane_same (w : Nat) (v : FVal) (i : Nat) :
    laneOf 32 (setLane w i (encodeF fp32 v)) i = encodeF fp32 v := by
  have hlt : encodeF fp32 v < 2 ^ 32 := encodeF_lt fp32 v
  rw [laneOf, setLane, bitsOf_setBits_same, Nat.mod_eq_of_lt hlt]

theorem laneOf_setLane_other {i j : Nat} (h : j ≠ i) (w v : Nat) : laneOf 32 (setLane w i v) j = laneOf 32 w j := by
  rw [laneOf, setLane, bitsOf_setBits_other _ _ _ _ (by omega), laneOf]

theorem setLane_lt {w i v : Nat} (hw : w < 2 ^ 512) (hi : i < 16) : setLane w i v < 2 ^ 512 :=
  setBits_lt hw (by clear hw; omega)

/-! ### Registers -/

theorem getA_lt (b : BankU) (a : Bool) : getA b a < 2 ^ 512 := by
  rw [getA]
  split
  · exact b.a1.isLt
  · exact b.a0.isLt

theorem getA_setA_same {w : Nat} (hw : w < 2 ^ 512) (a p : Bool) (b : BankU) : getA (setA a w p b) a = w := by
  have h : (BitVec.ofNat 512 w).toNat = w := (BitVec.toNat_ofNat ..).trans (Nat.mod_eq_of_lt hw)
  cases a
  · exact h
  · exact h

theorem getA_setA_other {a a' : Bool} (h : a' = !a) (p : Bool) (w : Nat) (b : BankU) :
    getA (setA a w p b) a' = getA b a' := by
  subst h
  cases a <;> rfl

@[simp] theorem getPA_setA_same (a p : Bool) (w : Nat) (b : BankU) : getPA (setA a w p b) a = p := by
  cases a <;> rfl

@[simp] theorem v_setA (a p : Bool) (w : Nat) (b : BankU) : (setA a w p b).v = b.v := by
  cases a <;> rfl

@[simp] theorem bc_setA (a p : Bool) (w : Nat) (b : BankU) : (setA a w p b).bc = b.bc := by
  cases a <;> rfl

theorem getV_setV_same {w : Nat} (hw : w < 2 ^ 256) (x : BitVec 3) (p : Bool) (b : BankU) :
    getV (setV x w p b) x = w := by
  rw [getV, setV, Vector.getElem_set_self, BitVec.toNat_ofNat, Nat.mod_eq_of_lt hw]

theorem getV_setV_other {x r : BitVec 3} (h : r ≠ x) (w : Nat) (p : Bool) (b : BankU) :
    getV (setV x w p b) r = getV b r := by
  have hne : x.toNat ≠ r.toNat := fun he => h (BitVec.eq_of_toNat_eq he.symm)
  rw [getV, setV, Vector.getElem_set_ne _ _ hne, getV]

theorem getPV_setV_same (x : BitVec 3) (w : Nat) (p : Bool) (b : BankU) : getPV (setV x w p b) x = p := by
  have hx := x.isLt
  rw [getPV, setV, BitVec.getLsbD_ofNat, ← bitAt_eq_testBit, bitAt_setBit_same]
  simp [hx]

theorem laneOf_getA_setA {g : Nat → FVal} {i : Nat} (hi : i < 16) (a p : Bool) (b : BankU) :
    laneOf 32 (getA (setA a (accOf g) p b) a) i = encodeF fp32 (g i) := by
  rw [getA_setA_same (accOf_lt g), laneOf_accOf g hi]

theorem laneOf_getV_setV {g : Nat → FVal} {i : Nat} (hi : i < 16) (x : BitVec 3) (p : Bool) (b : BankU) :
    laneOf 16 (getV (setV x (vecOf g) p b) x) i = encodeF bf16 (g i) := by
  rw [getV_setV_same (vecOf_lt g), laneOf_vecOf g hi]

/-- One lane of an accumulator is set. -/
theorem laneOf_getA_setLane {j : Nat} (hj : j < 16) (i : Nat) (v : FVal) (a a' p : Bool) (b b' : BankU) :
    laneOf 32 (getA (setA a (setLane (getA b a') j (encodeF fp32 v)) p b') a) i =
      if i = j then encodeF fp32 v else laneOf 32 (getA b a') i := by
  rw [getA_setA_same (setLane_lt (getA_lt b a') hj)]
  split
  case isTrue h => rw [h, laneOf_setLane_same]
  case isFalse h => exact laneOf_setLane_other h ..

/-! ### Accumulations -/

/-- An accumulation of BF16 words fills the named accumulator. -/
theorem bauAcc_bf16 {f : BauFields} (h : isFp8 f = false) {w : Nat} {pb : Bool} {g : FVal → FVal → FVal} {b : BankU} {i
    : Nat}
    (hi : i < 16) :
    laneOf 32 (getA (bauAcc f w pb g b) f.a) i = encodeF fp32 (g (accLane b f.a i) (bauElem f.fmt.toNat w i)) ∧
      getA (bauAcc f w pb g b) (!f.a) = getA b (!f.a) := by
  unfold bauAcc
  simp only [h, Bool.false_eq_true, if_false]
  rw [laneOf_getA_setA hi, getA_setA_other rfl, Nat.zero_add]
  exact ⟨rfl, rfl⟩

/-- One of FP8 words fills both, sixteen elements each. -/
theorem bauAcc_fp8 {f : BauFields} (h : isFp8 f = true) {w : Nat} {pb : Bool} {g : FVal → FVal → FVal} {b : BankU} {i :
    Nat}
    (hi : i < 16) (a : Bool) :
    laneOf 32 (getA (bauAcc f w pb g b) a) i = encodeF fp32 (g (accLane b a i) (bauElem f.fmt.toNat w (16 * b2n a + i))) := by
  unfold bauAcc
  simp only [h, if_true]
  cases a with
  | true =>
    rw [laneOf_getA_setA hi, accLane, getA_setA_other (a := false) (a' := true) rfl]
    rfl
  | false =>
    rw [getA_setA_other (a := true) (a' := false) rfl, laneOf_getA_setA hi]
    rfl

theorem bauAcc_keeps (f : BauFields) (w : Nat) (pb : Bool) (g : FVal → FVal → FVal) (b : BankU) :
    (bauAcc f w pb g b).v = b.v ∧ (bauAcc f w pb g b).bc = b.bc := by
  unfold bauAcc
  split <;> simp only [v_setA, bc_setA, and_self]

/-! ### The operations (Table 8-4) -/

section
variable (f : BauFields) (lane w : Nat) (po : Bool) (b : BankU)

theorem bauApply_mac : bauApply opBMAC f lane w po b =
    bauAcc f w (po || b.pbc) (fun acc e => acc.add (e.mul (decodeF bf16 (laneOf 16 b.bc.toNat lane)))) b := rfl

theorem bauApply_max : bauApply opBMAX f lane w po b = bauAcc f w po (fun acc e => acc.maxNum e) b := rfl

theorem bauApply_min : bauApply opBMIN f lane w po b = bauAcc f w po (fun acc e => acc.minNum e) b := rfl

theorem bauApply_dot : bauApply opBDOT f lane w po b =
    setA f.a (setLane (getA b f.a) lane (encodeF fp32 ((accLane b f.a lane).add (sumF ((List.range (bauCount f.fmt.toNat)).map
      fun e => (bauElem f.fmt.toNat w e).mul (bauElem f.fmt.toNat b.bc.toNat e)))))) (getPA b f.a || po || b.pbc) b := rfl

theorem bauApply_ema : bauApply opBEMA f lane w po b =
    setA f.a (accOf fun i => ((decodeF bf16 (laneOf 16 b.bc.toNat lane)).mul (accLane b f.a i)).add
      (((FVal.ofInt 1).sub (decodeF bf16 (laneOf 16 b.bc.toNat lane))).mul (decodeF bf16 (laneOf 16 w i))))
      (getPA b f.a || po || b.pbc) b := rfl

theorem bauApply_scale : bauApply opBSCALE f lane w po b =
    setA f.a (accOf fun i => (accLane b f.a i).mul (decodeF bf16 (laneOf 16 (getV b f.y) i))) (getPA b f.a || getPV b f.y) b :=
  rfl

theorem bauApply_add : bauApply opBADD f lane w po b =
    setV f.x (vecOf fun i => (decodeF bf16 (laneOf 16 (getV b f.y) i)).add (decodeF bf16 (laneOf 16 (getV b f.z) i)))
      (getPV b f.y || getPV b f.z) b := rfl

theorem bauApply_mul : bauApply opBMUL f lane w po b =
    setV f.x (vecOf fun i => (decodeF bf16 (laneOf 16 (getV b f.y) i)).mul (decodeF bf16 (laneOf 16 (getV b f.z) i)))
      (getPV b f.y || getPV b f.z) b := rfl

theorem bauApply_fma : bauApply opBFMA f lane w po b =
    setV f.x (vecOf fun i => ((decodeF bf16 (laneOf 16 (getV b f.y) i)).mul (decodeF bf16 (laneOf 16 (getV b f.z) i))).add
      (decodeF bf16 (laneOf 16 (getV b f.x) i))) (getPV b f.x || getPV b f.y || getPV b f.z) b := rfl

/-- Whether BSEL takes its first operand in a lane of BC: a value other than zero (R149). -/
def laneSet (x : Nat) : Bool :=
  match decodeF bf16 x with
  | .fin _ m _ => decide (m ≠ 0)
  | _ => true

theorem bauApply_sel : bauApply opBSEL f lane w po b =
    setV f.x (vecOf fun i => if laneSet (laneOf 16 b.bc.toNat i) then decodeF bf16 (laneOf 16 (getV b f.y) i)
      else decodeF bf16 (laneOf 16 (getV b f.z) i)) (getPV b f.y || getPV b f.z || b.pbc) b := rfl

theorem bauApply_dequantise (hz : f.z = 0) (h8 : isFp8 f = true) : bauApply opBCVT f lane w po b =
    setV f.x (vecOf fun i => bauElem f.fmt.toNat w (16 * (lane % 2) + i)) po b := by
  change (if f.z = 0 then _ else _) = _
  rw [if_pos hz, if_pos h8]

theorem bauApply_narrow (hz : f.z = 1) (hfmt : f.fmt = 0) : bauApply opBCVT f lane w po b =
    setV f.x (vecOf fun i => accLane b f.a i) (getPA b f.a) b := by
  change (if f.z = 0 then _ else if f.fmt.toNat = 0 then _ else _) = _
  rw [if_neg (by rw [hz]; decide), if_pos (by rw [hfmt]; rfl)]

end

/-- A lane of BC is taken as set where a bit beside its sign is. -/
theorem laneSet_iff (x : Nat) : laneSet x = true ↔ bitsOf x 0 15 ≠ 0 := by
  have hsplit : bitsOf x 0 15 = bitsOf x 0 7 + 2 ^ 7 * bitsOf x 7 8 := by
    simp only [bitsOf]
    omega
  have hm : bitsOf x 0 7 < 2 ^ 7 := Nat.mod_lt _ (by decide)
  unfold laneSet decodeF
  simp only [bf16, Bool.true_and, Bool.not_true, Bool.false_and, Bool.false_eq_true, if_false]
  by_cases h255 : bitsOf x 7 8 = 2 ^ 8 - 1
  · simp only [h255, decide_true, if_true]
    by_cases h0 : bitsOf x 0 7 = 0
    · simp only [h0, if_true, true_iff]
      omega
    · simp only [h0, if_false, true_iff]
      omega
  · simp only [h255, decide_false, Bool.false_eq_true, if_false]
    by_cases he : bitsOf x 7 8 = 0
    · simp only [he, if_true, decide_eq_true_eq]
      omega
    · simp only [he, if_false, decide_eq_true_eq]
      omega

/-- A ready command that writes registers, as a command of the block. -/
theorem exec_bau {c : Instr} {s : State} {b : BankSel} {k op : Nat} {f : BauFields} (hc : exec c s = lift (bauRun op b
    f) s)
    (h : bauReady s.sled b k op f) (hst : op ≠ opBST) (hrd : op ≠ opBRDACC) :
    ∃ t, exec c s = .next t ∧ t.pending = s.pending ∧ onlyBank s.sled t.sled k ∧ getBank t.sled k =
      bauApply op f f.l.toNat (bauOperand s.sled k op f) (operandFlag (getBank s.sled k) op f) (getBank s.sled k) := by
  obtain ⟨honly, hbank⟩ := bauRun_writes h hst hrd
  exact ⟨_, hc.trans (lift_next rfl), rfl, honly, hbank⟩

/-- Settles O24: each operation's lanes are its exact result rounded once. -/
theorem bankResultsAreRoundedOnce : Obligations.BankResultsAreRoundedOnce := by
  unfold Obligations.BankResultsAreRoundedOnce
  refine ⟨?_, ?_, ?_, ?_, ?_, ?_, ?_, ?_, ?_, ?_, ?_, ?_⟩
  · intro s b f k i h hi
    obtain ⟨t, ht, hpend, honly, hbank⟩ := exec_bau (c := .bmac b f) rfl h (by decide) (by decide)
    rw [bauApply_mac] at hbank
    obtain ⟨hv, hbc⟩ := bauAcc_keeps f (bauOperand s.sled k opBMAC f) (operandFlag (getBank s.sled k) opBMAC f || (getBank s.sled k).pbc)
      (fun acc e => acc.add (e.mul (decodeF bf16 (laneOf 16 (getBank s.sled k).bc.toNat f.l.toNat)))) (getBank s.sled k)
    refine ⟨t, ht, hpend, honly, fun h8 => ?_, fun h8 a => ?_, ?_, ?_⟩
    · rw [hbank]
      exact bauAcc_bf16 h8 hi
    · rw [hbank]
      exact bauAcc_fp8 h8 hi a
    · rw [hbank, hv]
    · rw [hbank, hbc]
  · intro s b f k i h hi
    obtain ⟨t, ht, hpend, honly, hbank⟩ := exec_bau (c := .bdot b f) rfl h (by decide) (by decide)
    rw [bauApply_dot] at hbank
    refine ⟨t, ht, hpend, honly, ?_⟩
    rw [hbank, laneOf_getA_setLane f.l.isLt, getA_setA_other rfl]
    split
    case isTrue h => exact ⟨by rw [h], rfl⟩
    case isFalse => exact ⟨rfl, rfl⟩
  · intro s b f k i h hi
    obtain ⟨t, ht, hpend, honly, hbank⟩ := exec_bau (c := .bema b f) rfl h (by decide) (by decide)
    rw [bauApply_ema] at hbank
    refine ⟨t, ht, hpend, honly, ?_⟩
    rw [hbank, laneOf_getA_setA hi]
  · intro s b f k i h hi
    obtain ⟨t, ht, hpend, honly, hbank⟩ := exec_bau (c := .bscale b f) rfl h (by decide) (by decide)
    rw [bauApply_scale] at hbank
    refine ⟨t, ht, hpend, honly, ?_⟩
    rw [hbank, laneOf_getA_setA hi]
  · intro s b f k i h h8 hi
    obtain ⟨t, ht, hpend, honly, hbank⟩ := exec_bau (c := .bmax b f) rfl h (by decide) (by decide)
    rw [bauApply_max] at hbank
    refine ⟨t, ht, hpend, honly, ?_⟩
    rw [hbank]
    exact (bauAcc_bf16 h8 hi).1
  · intro s b f k i h h8 hi
    obtain ⟨t, ht, hpend, honly, hbank⟩ := exec_bau (c := .bmin b f) rfl h (by decide) (by decide)
    rw [bauApply_min] at hbank
    refine ⟨t, ht, hpend, honly, ?_⟩
    rw [hbank]
    exact (bauAcc_bf16 h8 hi).1
  · intro s b f k i h hi
    obtain ⟨t, ht, hpend, honly, hbank⟩ := exec_bau (c := .badd b f) rfl h (by decide) (by decide)
    rw [bauApply_add] at hbank
    refine ⟨t, ht, hpend, honly, ?_⟩
    rw [hbank]
    exact ⟨laneOf_getV_setV hi .., fun r hr => getV_setV_other hr .., getPV_setV_same ..⟩
  · intro s b f k i h hi
    obtain ⟨t, ht, hpend, honly, hbank⟩ := exec_bau (c := .bmul b f) rfl h (by decide) (by decide)
    rw [bauApply_mul] at hbank
    refine ⟨t, ht, hpend, honly, ?_⟩
    rw [hbank]
    exact ⟨laneOf_getV_setV hi .., fun r hr => getV_setV_other hr ..⟩
  · intro s b f k i h hi
    obtain ⟨t, ht, hpend, honly, hbank⟩ := exec_bau (c := .bfma b f) rfl h (by decide) (by decide)
    rw [bauApply_fma] at hbank
    refine ⟨t, ht, hpend, honly, ?_⟩
    rw [hbank, laneOf_getV_setV hi]
  · intro s b f k i h hi
    obtain ⟨t, ht, hpend, honly, hbank⟩ := exec_bau (c := .bsel b f) rfl h (by decide) (by decide)
    rw [bauApply_sel] at hbank
    refine ⟨t, ht, hpend, honly, ?_⟩
    rw [hbank, laneOf_getV_setV hi]
    refine ⟨fun h0 => ?_, fun h1 => ?_⟩
    · rw [if_neg fun hs => (laneSet_iff _).1 hs h0]
    · rw [if_pos ((laneSet_iff _).2 h1)]
  · intro s b f k i hz h h8 hi
    have hf : { f with z := 0 } = f := by rw [← hz]
    obtain ⟨t, ht, hpend, honly, hbank⟩ := exec_bau (c := .bcvtDequantise b f) (congrArg (fun f => lift (bauRun opBCVT b f) s) hf) h
      (by decide) (by decide)
    rw [bauApply_dequantise _ _ _ _ _ hz h8] at hbank
    refine ⟨t, ht, hpend, honly, ?_⟩
    rw [hbank, laneOf_getV_setV hi]
  · intro s b f k i hz h hfmt hi
    have hf : { f with z := 1 } = f := by rw [← hz]
    obtain ⟨t, ht, hpend, honly, hbank⟩ := exec_bau (c := .bcvtNarrow b f) (congrArg (fun f => lift (bauRun opBCVT b f) s) hf) h
      (by decide) (by decide)
    rw [bauApply_narrow _ _ _ _ _ hz hfmt] at hbank
    refine ⟨t, ht, hpend, honly, ?_⟩
    rw [hbank]
    exact ⟨laneOf_getV_setV hi .., getPV_setV_same ..⟩

end Sys2Proof.Machine

/-! ## Reduction, the read of an accumulator and clearing (O25: spec/08, R149, R153; spec/09, R174) -/
namespace Sys2Proof.Machine
open Sys2Proof

/-- The reduction that BRED's Z names. -/
def redOf (z : BitVec 3) (l : List FVal) : FVal :=
  if z = 0 then sumF l
  else if z = 1 then l.tail.foldl FVal.maxNum (l.headD .nan) else l.tail.foldl FVal.minNum (l.headD .nan)

theorem bauApply_red (f : BauFields) (lane w : Nat) (po : Bool) (b : BankU) : bauApply opBRED f lane w po b =
    setA (!f.a) (setLane (getA b (!f.a)) lane (encodeF fp32 (redOf f.z ((List.range 16).map (accLane b f.a)))))
      (getPA b (!f.a) || getPA b f.a) b := rfl

theorem bauApply_clr (f : BauFields) (lane w : Nat) (po : Bool) (b : BankU) : bauApply opBCLR f lane w po b =
    if f.z = 0 then setA f.a 0 false b
    else if f.z = 1 then setA f.a (accOf fun _ => .inf true) false b
    else if f.z = 2 then setV f.x 0 false b
    else { b with bc := 0, pbc := false } := rfl

theorem emitted_eq (l : List (BitVec 256 × Bool)) (s : Sled) :
    l.foldl (fun s w => emit (.data 12 w.1 w.2) s) s = { s with outs := s.outs ++ l.map fun w => .data 12 w.1 w.2 } := by
  induction l generalizing s with
  | nil => rw [List.map_nil, List.append_nil]; rfl
  | cons x l ih => rw [List.foldl_cons, ih, emit, List.map_cons, List.append_assoc]; rfl

/-- An unflagged accumulator leaves in two words. -/
theorem brdWords_acc {b : BankU} {f : BauFields} (hm : f.m = false) (hp : getPA b f.a = false) :
    brdWords b f = [(BitVec.ofNat 256 (getA b f.a % 2 ^ 256), false), (BitVec.ofNat 256 (getA b f.a / 2 ^ 256), false)] := by
  simp only [brdWords, hm, hp, Bool.false_eq_true, if_false]

theorem fxBrdacc_drives {s : Sled} {b : BankSel} {k : Nat} {f : BauFields} (h : bauReady s b k opBRDACC f) {t : Sled}
    (ht : fxBrdacc b f s = t) :
    t.outs = s.outs ++ (brdWords (getBank s k) f).map (fun w => .data 12 w.1 w.2) ∧
      (∀ j, getBank t j = getBank s j) ∧ onlySlots s t ∧ t = { s with
        outs := t.outs, bank := t.bank, chan := t.chan, btm := t.btm, dld := t.dld } := by
  obtain ⟨u, m, hu, hm, hrun⟩ := bauRun_steps h
  obtain ⟨-, -, -, -, hq, hstep, -, -⟩ := h
  have hrun : t = setBank k (withQueue [] 0 (getBank m k)) m := ht.symm.trans hrun
  generalize hw : setBank k (withQueue [.bau b.stack.val opBRDACC f] 0 (getBank s k)) u = w at hm
  have hwk : getBank w k = withQueue [.bau b.stack.val opBRDACC f] 0 (getBank s k) := by rw [← hw, getBank_setBank_same]
  have hwo (j : Nat) (hj : j ≠ k) : getBank w j = getBank s j := by
    rw [← hw, getBank_setBank_other hj, getBank_congr hu.bank]
  have hframe : w = { s with bank := w.bank, chan := w.chan } ∧ onlySlots s w := by
    have hf := hu.frame
    have ho : onlySlots s w := fun st c => by
      have h := hu.only st c
      rwa [← hw]
    generalize u.chan = a at hf
    subst hf
    subst hw
    exact ⟨rfl, ho⟩
  obtain ⟨hframe, hslots⟩ := hframe
  have hbau : bauStep b.stack.val k opBRDACC f 0 w =
      { w with outs := w.outs ++ (brdWords (getBank s k) f).map fun x => .data 12 x.1 x.2 } := by
    rw [← emitted_eq]
    unfold bauStep
    rw [hwk]
    rfl
  rw [hbau] at hm
  generalize (brdWords (getBank s k) f).map (fun x => Out.data 12 x.1 x.2) = l at hm ⊢
  have hmb := getBank_congr hm.bank
  have hmk : withQueue [] 0 (getBank m k) = getBank s k := by
    rw [hmb k]
    change withQueue [] 0 (getBank w k) = _
    rw [hwk, withQueue_withQueue, withQueue_self hq hstep]
  rw [hmk] at hrun
  have hbanks (j : Nat) : getBank t j = getBank s j := by
    rw [hrun, getBank_setBank]
    split
    case isTrue hj => rw [hj]
    case isFalse hj => exact (hmb j).trans (hwo j hj)
  unfold StepMarks at hm
  generalize m.btm = a, m.dld = b' at hm
  generalize w.bank = c, w.chan = d at hframe
  subst hm hframe
  refine ⟨by rw [hrun]; rfl, hbanks, ?_, ?_⟩
  · rw [hrun]
    exact hslots
  · rw [hrun]
    rfl

/-- Settles O25: the reduced lane, the words driven and the register cleared. -/
theorem bankReduceReadAndClear : Obligations.BankReduceReadAndClear := by
  unfold Obligations.BankReduceReadAndClear
  refine ⟨?_, ?_, ?_⟩
  · intro s b f k i h hi
    obtain ⟨t, ht, hpend, honly, hbank⟩ := exec_bau (c := .bred b f) rfl h (by decide) (by decide)
    rw [bauApply_red] at hbank
    have hlane : laneOf 32 (getA (getBank t.sled k) (!f.a)) f.l.toNat =
        encodeF fp32 (redOf f.z ((List.range 16).map (accLane (getBank s.sled k) f.a))) := by
      rw [hbank, laneOf_getA_setLane f.l.isLt, if_pos rfl]
    refine ⟨t, ht, hpend, honly, ?_, fun hne => ?_, fun hz => ?_, fun hz => ?_, fun hz => ?_⟩
    · rw [hbank, getA_setA_other (Bool.not_not f.a).symm]
    · rw [hbank, laneOf_getA_setLane f.l.isLt, if_neg hne]
    · rw [hlane, hz]
      rfl
    · rw [hlane, hz]
      rfl
    · rw [hlane, hz]
      rfl
  · intro s b f k h hm hp
    obtain ⟨houts, hrest⟩ := fxBrdacc_drives h rfl
    rw [brdWords_acc hm hp] at houts
    exact ⟨_, lift_next rfl, rfl, houts, hrest⟩
  · intro s b f k h
    obtain ⟨t, ht, hpend, honly, hbank⟩ := exec_bau (c := .bclr b f) rfl h (by decide) (by decide)
    rw [bauApply_clr] at hbank
    refine ⟨t, ht, hpend, honly, fun hz => ?_, fun hz i => ?_, fun hz => ?_, fun hz => ?_⟩
    · rw [hbank, if_pos hz, getA_setA_same (Nat.two_pow_pos 512), getPA_setA_same, v_setA]
      exact ⟨rfl, rfl, rfl⟩
    · rw [hbank, hz, if_neg (by decide), if_pos rfl, laneOf_getA_setA i.isLt]
      rfl
    · rw [hbank, hz, if_neg (by decide), if_neg (by decide), if_pos rfl, getV_setV_same (Nat.two_pow_pos 256), getPV_setV_same]
      exact ⟨rfl, rfl⟩
    · rw [hbank, hz]
      exact ⟨rfl, rfl⟩

end Sys2Proof.Machine

/-! ## Queue registers and descriptor fetch (O26: spec/10, R181 to R184, R190, R191) -/
namespace Sys2Proof.Machine
open Sys2Proof

/-! ### Registers of a vault core -/

theorem regAccess_lay {a : Agent} {s : Sled} {core : Nat} (hcore : core < 8) (hact : canAct s a = true)
    (hreach : blkReach a (bLAY core) = true) (hrun : islRuns s (iVC core) = true) (off : Nat) (f : Sled → Sled) :
    regAccess a (bLAY core) off f s = f s := by
  have hblk : bLAY core = 0x40 + core := rfl
  have hisl : blkIsland (bLAY core) = some (iVC core) := by
    rw [blkIsland, if_neg (by simp only [hblk, bGLB, bISL, bTHM, bKPR]; omega), if_neg (by simp only [hblk, bMAP, bSYN]; omega),
      if_neg (by omega), if_neg (by omega), if_pos (by omega), show bLAY core - 0x040 = core by omega]
  have hlt : ¬ 0x060 ≤ bLAY core := by omega
  have hx : crossHeld s (bLAY core) = false := by
    have h1 : ¬ bLAY core ≤ 0x018 := by omega
    have h2 : ¬ bLAY core ≤ 0x028 := by omega
    simp [crossHeld, h1, h2]
  have hopen : regOpen s (bLAY core) off = true := by simp [regOpen, hisl, hlt, hrun]
  simp [regAccess, hact, hreach, hopen, hx]

theorem rField_rSet_same {blk off lo len v : Nat} (s : Sled) (hv : v < 2 ^ 64) :
    rField (rSet blk off v s) blk off lo len = bitsOf v lo len := by
  rw [rField, rGet_rSet_same, Nat.mod_eq_of_lt hv]

/-- A field of a register beside the one that is set. -/
theorem rField_rSetField_ne {blk off lo len v b o : Nat} (s : Sled) (ho : o < 0x100000) (hoff : off < 0x100000)
    (h : (b, o) ≠ (blk, off)) (lo' len' : Nat) : rField (rSetField blk off lo len v s) b o lo' len' = rField s b o lo' len' := by
  rw [rField, rSetField, rGet_rSet_ne _ _ ho hoff h, rField]

/-! ### A queue's configuration -/

/-- Fields that lie beside each other in a word. -/
theorem sum_fields {a b c d e : Nat} (ha : a < 2 ^ 19) (hb : b < 2 ^ 4) (hc : c < 2 ^ 4) (hd : d < 2 ^ 1) (he : e < 2 ^
    1) :
    bitsOf (a * 2 ^ 6 + b * 2 ^ 25 + c * 2 ^ 32 + d * 2 ^ 40 + e * 2 ^ 41) 6 19 = a ∧
      bitsOf (a * 2 ^ 6 + b * 2 ^ 25 + c * 2 ^ 32 + d * 2 ^ 40 + e * 2 ^ 41) 25 4 = b ∧
      bitsOf (a * 2 ^ 6 + b * 2 ^ 25 + c * 2 ^ 32 + d * 2 ^ 40 + e * 2 ^ 41) 32 4 = c ∧
      bitsOf (a * 2 ^ 6 + b * 2 ^ 25 + c * 2 ^ 32 + d * 2 ^ 40 + e * 2 ^ 41) 40 1 = d ∧
      a * 2 ^ 6 + b * 2 ^ 25 + c * 2 ^ 32 + d * 2 ^ 40 + e * 2 ^ 41 < 2 ^ 64 := by
  simp only [bitsOf]
  refine ⟨?_, ?_, ?_, ?_, ?_⟩
  · omega
  · omega
  · omega
  · omega
  · omega

/-- The fields of a vault core's queue configuration, as they are written. -/
theorem onlyFields_qcfg {u : Nat} (hu : u < 8) (v : Nat) :
    bitsOf (onlyFields (qcfgFields u) v) 6 19 = bitsOf v 6 19 ∧ bitsOf (onlyFields (qcfgFields u) v) 25 4 = bitsOf v 25 4 ∧
      bitsOf (onlyFields (qcfgFields u) v) 32 4 = bitsOf v 32 4 ∧ bitsOf (onlyFields (qcfgFields u) v) 40 1 = bitsOf v 40 1 ∧
      onlyFields (qcfgFields u) v < 2 ^ 64 := by
  have hf : onlyFields (qcfgFields u) v = bitsOf v 6 19 * 2 ^ 6 + bitsOf v 25 4 * 2 ^ 25 + bitsOf v 32 4 * 2 ^ 32 +
      bitsOf v 40 1 * 2 ^ 40 + bitsOf v 41 1 * 2 ^ 41 := by
    rw [qcfgFields, if_neg (by omega), onlyFields, List.foldl_cons, List.foldl_cons, List.foldl_cons, List.foldl_cons,
      List.foldl_cons, List.foldl_nil, Nat.zero_add]
  have ha := bitsOf_lt v 6 19
  have hb := bitsOf_lt v 25 4
  have hc := bitsOf_lt v 32 4
  have hd := bitsOf_lt v 40 1
  have he := bitsOf_lt v 41 1
  rw [hf]
  exact sum_fields ha hb hc hd he

theorem fixSize_id {u v : Nat} (hu : u < 8) (h2 : 2 ≤ bitsOf v 25 4) (h12 : bitsOf v 25 4 ≤ 12) : fixSize u v = v := by
  rw [fixSize]
  simp only [if_neg (show u ≠ 8 by omega)]
  rw [if_pos ⟨h2, h12⟩]

theorem bitAt_fixSize {u : Nat} (hu : u < 8) (v : Nat) : bitAt (fixSize u v) 40 = bitAt v 40 := by
  rw [fixSize]
  simp only [if_neg (show u ≠ 8 by omega)]
  split
  · rfl
  · rw [bitAt_eq_testBit, bitAt_eq_testBit, testBit_setBits, if_neg (by omega)]

theorem bitAt_iff_bitsOf (v i : Nat) : bitAt v i = true ↔ bitsOf v i 1 = 1 := by
  rw [bitAt, bitsOf, beq_iff_eq, pow_one]

theorem enBit_vault {u : Nat} (hu : u < 8) : enBit u = 40 := by
  rw [enBit, if_neg (by omega)]

theorem qBlk_vault {u : Nat} (hu : u < 8) : qBlk u = bLAY u := by
  rw [qBlk, if_neg (by omega)]

/-- The entries of a ring whose size is in range. -/
theorem qEntries_of_size {s : Sled} {u q z : Nat} (hu : u < 8) (h : rField s (bLAY u) (0x20 * q) 25 4 = z) (h2 : 2 ≤ z)
    (h12 : z ≤ 12) : qEntries s u q = 2 ^ z := by
  rw [qEntries]
  simp only [if_neg (show u ≠ 8 by omega), h]
  rw [if_pos ⟨h2, h12⟩]

theorem qEntries_le (s : Sled) (u q : Nat) : qEntries s u q ≤ 2 ^ 12 := by
  have h (z : Nat) : (if 2 ≤ z ∧ z ≤ 12 then z else 2) ≤ 12 := by
    split
    case isTrue h => exact h.2
    case isFalse => decide
  exact Nat.pow_le_pow_right (by decide) (h _)

theorem qEntries_pos (s : Sled) (u q : Nat) : 0 < qEntries s u q := Nat.two_pow_pos _

theorem qTen_lt (s : Sled) (u q : Nat) : qTen s u q < 0x1000 := by
  have h : ∀ blk lo, rField s blk (0x20 * q) lo 4 < 2 ^ 4 := fun blk lo => bitsOf_lt ..
  rw [qTen]
  split
  · exact (h _ _).trans (by decide)
  · exact (h _ _).trans (by decide)

/-- The record of a queue names a tenant within the host's functions. -/
theorem tenant_whoQ {s : Sled} {u q t : Nat} (h : (whoQ s u q).tenant = some t) : t < 0x1000 := by
  have hq := qTen_lt s u q
  unfold whoQ at h
  split at h <;> (cases h; exact hq)

/-- What a queue's fault leaves of the registers, but for its own. -/
theorem rGet_logRec_queue {s s' : Sled} {u q blk off : Nat} {r : Rec} (hr : r.tenant = (whoQ s' u q).tenant) (ho : off <
    0x100000)
    (hblk : blk ≠ bHST) (hkpr : blk ≠ bKPR) : rGet (logRec r s) blk off = rGet s blk off :=
  rGet_logRec (fun _ ht => tenant_whoQ (hr.symm.trans ht)) ho hblk hkpr s

section
variable {s : Sled} {u q v : Nat} (hu : u < 8) (hq : q < 24) (hl : lockedReg s (bLAY u) (0x20 * q) = false)
include hu hl

/-- A configuration whose ring fits is taken. -/
theorem qcfgWrite_takes (hen : rField s (bLAY u) (0x20 * q) 40 1 = 0) (h2 : 2 ≤ bitsOf v 25 4) (h12 : bitsOf v 25 4 ≤
    12)
    (hfit : bitsOf v 6 19 * 64 + 64 * 2 ^ bitsOf v 25 4 ≤ scratchSize) :
    qcfgWrite u q v s = rSet (bLAY u) (0x20 * q) (onlyFields (qcfgFields u) v) s := by
  obtain ⟨h6, h25, -, -, hlt⟩ := onlyFields_qcfg hu v
  have hfix : fixSize u (onlyFields (qcfgFields u) v) = onlyFields (qcfgFields u) v :=
    fixSize_id hu (h25.symm ▸ h2) (h25.symm ▸ h12)
  have hbase : rField (rSet (bLAY u) (0x20 * q) (onlyFields (qcfgFields u) v) s) (bLAY u) (0x20 * q) 6 19 = bitsOf v 6 19 := by
    rw [rField_rSet_same _ hlt, h6]
  have hent := qEntries_of_size (s := rSet (bLAY u) (0x20 * q) (onlyFields (qcfgFields u) v) s) (q := q) hu
    ((rField_rSet_same _ hlt).trans h25) h2 h12
  rw [qcfgWrite]
  simp only [hfix, qBlk_vault hu, enBit_vault hu, hl, hen, hbase, hent, Bool.false_eq_true, if_false]
  rw [if_neg (by simp), if_neg (by simp [Nat.not_lt.2 hfit])]

/-- One whose ring does not lie in the scratchpad is not enabled. -/
theorem qcfgWrite_refuses (hen : rField s (bLAY u) (0x20 * q) 40 1 = 0) (hv : bitAt v 40 = true) (h2 : 2 ≤ bitsOf v 25
    4)
    (h12 : bitsOf v 25 4 ≤ 12) (hbig : scratchSize < bitsOf v 6 19 * 64 + 64 * 2 ^ bitsOf v 25 4) :
    ∃ w : Sled, qcfgWrite u q v s = logRec (recWho w 0xB001 (whoQ w u q))
      (rSetField (bLAY u) (0x10 + 0x20 * q) 16 1 1 (rSetField (bLAY u) (0x20 * q) 40 1 0 w)) := by
  obtain ⟨h6, h25, -, h40, hlt⟩ := onlyFields_qcfg hu v
  have hfix : fixSize u (onlyFields (qcfgFields u) v) = onlyFields (qcfgFields u) v :=
    fixSize_id hu (h25.symm ▸ h2) (h25.symm ▸ h12)
  have hbit : bitAt (onlyFields (qcfgFields u) v) 40 = true :=
    (bitAt_iff_bitsOf _ _).2 (h40.trans ((bitAt_iff_bitsOf _ _).1 hv))
  have hbase : rField (rSet (bLAY u) (0x20 * q) (onlyFields (qcfgFields u) v) s) (bLAY u) (0x20 * q) 6 19 = bitsOf v 6 19 := by
    rw [rField_rSet_same _ hlt, h6]
  have hent := qEntries_of_size (s := rSet (bLAY u) (0x20 * q) (onlyFields (qcfgFields u) v) s) (q := q) hu
    ((rField_rSet_same _ hlt).trans h25) h2 h12
  refine ⟨rSet (bLAY u) (0x20 * q) (onlyFields (qcfgFields u) v) s, ?_⟩
  rw [qcfgWrite]
  simp only [hfix, qBlk_vault hu, enBit_vault hu, hl, hen, hbase, hent, hbit, Bool.false_eq_true, if_false]
  rw [if_neg (by simp), if_pos (by simp [hu, hbig])]

/-- While the queue is enabled its configuration stays. -/
theorem qcfgWrite_ignored (hen : rField s (bLAY u) (0x20 * q) 40 1 = 1) (hv : bitAt v 40 = true) :
    qcfgWrite u q v s = s := by
  obtain ⟨-, -, -, h40, -⟩ := onlyFields_qcfg hu v
  have hbit : bitAt (fixSize u (onlyFields (qcfgFields u) v)) 40 = true := by
    rw [bitAt_fixSize hu]
    exact (bitAt_iff_bitsOf _ _).2 (h40.trans ((bitAt_iff_bitsOf _ _).1 hv))
  rw [qcfgWrite]
  simp only [qBlk_vault hu, enBit_vault hu, hl, hen, hbit, Bool.false_eq_true, if_false, decide_true, Bool.and_self, if_true]

end

/-! ### Fetch -/

theorem qBlk_ne (u : QUnit) : qBlk u.unit ≠ bHST ∧ qBlk u.unit ≠ bKPR := by
  cases u with
  | vc c q =>
    have hc := c.isLt
    have hblk : qBlk (QUnit.vc c q).unit = 0x40 + c.val := qBlk_vault hc
    rw [hblk, bHST, bKPR]
    omega
  | ste q =>
    have hblk : qBlk (QUnit.ste q).unit = bSTE := rfl
    rw [hblk]
    decide

theorem num_lt (u : QUnit) : u.num < 24 := by
  cases u with
  | vc c q => exact q.isLt
  | ste q => exact q.isLt.trans (by decide)

/-- The frame of a change of a unit's descriptors. -/
theorem setDescs_frame (u : Nat) (l : List Desc) (s : Sled) :
    setDescs u l s = { s with vc := (setDescs u l s).vc, ste := (setDescs u l s).ste } := by
  unfold setDescs
  split <;> rfl

theorem descs_congr {s t : Sled} (hv : t.vc = s.vc) (hs : t.ste = s.ste) (u : Nat) : descs t u = descs s u := by
  rw [descs, hv, hs, descs]

/-- The descriptors that a unit keeps past the fault of one of them. -/
def faultKeep (u : Nat) (d : Desc) (s : Sled) : List Desc :=
  (descs s u).filter fun e => e.id ≠ d.id && (e.q ≠ d.q || e.stage ≠ 0 || e.id < d.id)

/-- The ring entry of the last descriptor of a queue that a fault leaves running. -/
def faultEntry (u : Nat) (d : Desc) (s : Sled) : Nat :=
  let last := (faultKeep u d s).foldl (fun a e => if e.q = d.q && d.id < e.id then max a e.id else a) d.id
  ((match (descs s u).find? fun e => e.id = last with
    | some e => e.addr
    | none => d.addr) - qBase s u d.q) / 64

/-- A queue's registers at a fault: HEAD past entry `i`, and ERR set. -/
def errSet (u q i : Nat) (s : Sled) : Sled :=
  rSetField (qBlk u) (0x10 + 0x20 * q) 16 1 1 (rSetField (qBlk u) (0x10 + 0x20 * q) 0 12 ((i + 1) % qEntries s u q) s)

/-- The waits and the places in line of a faulted descriptor are gone. -/
def faultUnlisted (u : Nat) (d : Desc) (s : Sled) : Sled :=
  let s := { s with waits := s.waits.filter fun w => w.who ≠ whoQ s u d.q || w.mod ≠ none }
  if u < 8 then
    { s with vc := fset s.vc {} u { fget s.vc {} u with
        staging := if (fget s.vc {} u).staging = some d.id then none else (fget s.vc {} u).staging
        stagingQ := (fget s.vc {} u).stagingQ.filter (· ≠ d.id) } }
  else { s with ste := { s.ste with evictQ := s.ste.evictQ.filter (· ≠ d.id) } }

/-- What a fault has done before its record is logged. -/
def faultStopped (u : Nat) (d : Desc) (s : Sled) : Sled :=
  faultUnlisted u d (errSet u d.q (faultEntry u d s) (setDescs u (faultKeep u d s) s))

/-- The record of a fault. -/
def faultRec (u : Nat) (d : Desc) (code a2 : Nat) (s : Sled) : Rec :=
  let r := recWho s code (whoQ s u d.q)
  let r := if u = 8 then { recAddr false d.addr (moduleId s) r with arg2 := a2 }
    else { r with arg1 := d.addr - 0x8000000000 - u * 0x1800000, arg2 := a2 }
  if u = 8 && 0x6000 ≤ code && code < 0x7000 then { r with object := bitsOf (dField d 0x18 4) 0 20 } else r

theorem faultRec_tenant (u : Nat) (d : Desc) (code a2 : Nat) (s : Sled) :
    (faultRec u d code a2 s).tenant = (whoQ s u d.q).tenant := by
  unfold faultRec
  split_ifs <;> rfl

/-- A fault stops its queue and logs a record that names the queue. -/
theorem descFault_eq (u : Nat) (d : Desc) (code a2 : Nat) (s : Sled) :
    descFault u d code a2 s = logRec (faultRec u d code a2 (faultStopped u d s)) (faultStopped u d s) := rfl

theorem faultUnlisted_frame (u : Nat) (d : Desc) (s : Sled) :
    faultUnlisted u d s = { s with
      waits := (faultUnlisted u d s).waits, vc := (faultUnlisted u d s).vc, ste := (faultUnlisted u d s).ste } := by
  unfold faultUnlisted
  split
  · rfl
  · rfl

theorem descs_faultUnlisted {u : Nat} (hu : u ≤ 8) (d : Desc) (s : Sled) :
    descs (faultUnlisted u d s) u = descs s u := by
  unfold faultUnlisted descs
  by_cases h : u = 8
  · subst h
    rfl
  · rw [if_neg h, if_neg h, if_pos (by omega)]
    dsimp only
    rw [fget_fset_same]

/-- What a descriptor's fault leaves: its queue in error, without it. -/
theorem descFault_keeps {u : Nat} (hu : u ≤ 8) {d : Desc} (hq : d.q < 24) (hblk : qBlk u ≠ bHST ∧ qBlk u ≠ bKPR) (code
    a2 : Nat)
    (s : Sled) : qErr (descFault u d code a2 s) u d.q = true ∧ (∀ e ∈ descs (descFault u d code a2 s) u, e.id ≠ d.id) ∧
      (descFault u d code a2 s).stall = s.stall := by
  rw [descFault_eq]
  have hr := faultRec_tenant u d code a2 (faultStopped u d s)
  generalize faultRec u d code a2 (faultStopped u d s) = r at hr
  have hframe := faultUnlisted_frame u d (errSet u d.q (faultEntry u d s) (setDescs u (faultKeep u d s) s))
  refine ⟨?_, fun e he => ?_, ?_⟩
  · have hregs : (faultStopped u d s).regs = (errSet u d.q (faultEntry u d s) (setDescs u (faultKeep u d s) s)).regs := by
      rw [faultStopped, hframe]
    rw [qErr, rField, rGet_logRec_queue hr (by omega) hblk.1 hblk.2, rGet_congr hregs, ← rField, errSet,
      rField_rSetField_same _ _ _ _ _ _ (by decide)]
    rfl
  · rw [descs_congr (logRec_vc ..) (logRec_ste ..), faultStopped, descs_faultUnlisted hu, errSet,
      descs_congr ((rSetField_vc ..).trans (rSetField_vc ..)) ((rSetField_ste ..).trans (rSetField_ste ..)), descs_setDescs] at he
    have h := (List.mem_filter.1 he).2
    simp only [Bool.and_eq_true, decide_eq_true_eq] at h
    exact h.1
  · rw [logRec_stall, faultStopped, hframe]
    change (errSet u d.q (faultEntry u d s) (setDescs u (faultKeep u d s) s)).stall = s.stall
    rw [errSet, rSetField_stall, rSetField_stall, setDescs_frame]

/-- The queue's unit, its entry at HEAD and what stands there, before a fetch. -/
abbrev Fetched (s : Sled) (u : QUnit) (head : Nat) (b : List (Byte × Bool)) (d : Desc) : Prop :=
  unitRuns s u.unit = true ∧ rField s (qBlk u.unit) (0x20 * u.num) (enBit u.unit) 1 = 1 ∧ qErr s u.unit u.num = false ∧
  ringCount s u.unit u.num ≠ 0 ∧ (u.unit < 8 → bitAt (vcMask s (qTen s u.unit u.num)) u.unit = true) ∧
  head = rField s (qBlk u.unit) (0x10 + 0x20 * u.num) 0 12 % qEntries s u.unit u.num ∧
  readLocal (qBase s u.unit u.num + 64 * head) 64 s = ((b, true), s) ∧ anyPoison b = false ∧
  d = { id := s.seq, q := u.num, addr := qBase s u.unit u.num + 64 * head
        bytes := BitVec.ofNat 512 (leNat (b.map (·.1))) }

/-- The state with descriptor `d` taken from its ring. -/
def taken (u : QUnit) (head : Nat) (d : Desc) (s : Sled) : Sled :=
  rSetField (qBlk u.unit) (0x10 + 0x20 * u.num) 0 12 ((head + 1) % qEntries s u.unit u.num)
    (setDescs u.unit (descs s u.unit ++ [d]) { s with seq := s.seq + 1 })

theorem fetchQ_takes {s : Sled} {u : QUnit} {head : Nat} {b : List (Byte × Bool)} {d : Desc} (h : Fetched s u head b d)
    :
    fxDescriptorFetch u s = if checkDesc u.unit u.num d = 0 then taken u head d s
      else descFault u.unit d (checkDesc u.unit u.num d) (if u.unit < 8 ∧ d.opc = 3 then tdArg u.unit (dField d 0x18 8) else 0)
        (taken u head d s) := by
  obtain ⟨hrun, hen, herr, hring, hmask, hhead, hread, hpo, hd⟩ := h
  have hmask' : (decide (u.unit < 8) && !bitAt (vcMask s (qTen s u.unit u.num)) u.unit) = false := by
    by_cases hu : u.unit < 8
    · simp [hmask hu]
    · simp [hu]
  have hgo : (!unitRuns s u.unit || decide (rField s (qBlk u.unit) (0x20 * u.num) (enBit u.unit) 1 = 0) || qErr s u.unit u.num ||
      decide (ringCount s u.unit u.num = 0)) = false := by simp [hrun, hen, herr, hring]
  rw [fxDescriptorFetch, fetchQ]
  simp only [hgo, hmask', ← hhead, hread, hpo, Bool.false_eq_true, if_false, Bool.not_true, ← hd]
  rfl

theorem unit_le (u : QUnit) : u.unit ≤ 8 := by
  cases u with
  | vc c q => exact Nat.le_of_lt c.isLt
  | ste q => exact Nat.le_refl 8

theorem taken_keeps {s : Sled} {u : QUnit} {head : Nat} {d : Desc} {t : Sled} (ht : taken u head d s = t) :
    descs t u.unit = descs s u.unit ++ [d] ∧ t.seq = s.seq + 1 ∧
      rField t (qBlk u.unit) (0x10 + 0x20 * u.num) 0 12 = (head + 1) % qEntries s u.unit u.num ∧
      t = { s with seq := t.seq, regs := t.regs, vc := t.vc, ste := t.ste } := by
  have hn := Nat.mod_lt (head + 1) (qEntries_pos s u.unit u.num)
  have hn' := qEntries_le s u.unit u.num
  have hf := setDescs_frame u.unit (descs s u.unit ++ [d]) { s with seq := s.seq + 1 }
  have hd := descs_setDescs u.unit (descs s u.unit ++ [d]) { s with seq := s.seq + 1 }
  unfold taken at ht
  generalize setDescs u.unit (descs s u.unit ++ [d]) { s with seq := s.seq + 1 } = w at hf hd ht
  generalize w.vc = a, w.ste = b at hf
  subst ht
  refine ⟨(descs_congr (rSetField_vc ..) (rSetField_ste ..) _).trans hd, ?_, ?_, ?_⟩
  · rw [rSetField_seq, hf]
  · rw [rField_rSetField_same _ _ _ _ _ _ (by decide)]
    exact Nat.mod_eq_of_lt (hn.trans_le hn')
  · subst hf
    rfl

/-- Settles O26: what each write does to its register, and what a fetch leaves. -/
theorem queueRegistersAndDescriptorFetch : Obligations.QueueRegistersAndDescriptorFetch := by
  unfold Obligations.QueueRegistersAndDescriptorFetch
  refine ⟨?_, ?_, ?_, ?_, ?_, ?_, ?_, ?_⟩
  · intro s a core q v hact hreach hrun hl hen h2 h12 hfit
    have hq := q.isLt
    obtain ⟨h6, h25, h32, h40, hlt⟩ := onlyFields_qcfg core.isLt v.toNat
    have hfx : fxLayQcfgWrite a core q v.toNat s.sled = rSet (bLAY core) (0x20 * q.val) (onlyFields (qcfgFields core) v.toNat) s.sled := by
      rw [fxLayQcfgWrite, regAccess_lay core.isLt hact hreach hrun, qcfgWrite_takes core.isLt hl hen h2 h12 hfit]
    have hf (lo len : Nat) := rField_rSet_same (blk := bLAY core) (off := 0x20 * q.val) (lo := lo) (len := len) s.sled hlt
    refine ⟨_, lift_next hfx, rfl, (hf 6 19).trans h6, qEntries_of_size core.isLt ((hf 25 4).trans h25) h2 h12, ?_,
      (hf 40 1).trans h40, rfl, fun blk off ho hne => rGet_rSet_ne _ _ ho (by omega) hne⟩
    rw [qTen, if_neg (by omega)]
    exact (hf 32 4).trans h32
  · intro s a core q v hact hreach hrun hl hen hv
    have hfx : fxLayQcfgWrite a core q v.toNat s.sled = s.sled := by
      rw [fxLayQcfgWrite, regAccess_lay core.isLt hact hreach hrun, qcfgWrite_ignored core.isLt hl hen]
      rwa [bitAt_eq_testBit]
    exact lift_next hfx
  · intro s a core q v hact hreach hrun hl hen hv h2 h12 hbig
    have hq := q.isLt
    have hblk : bLAY core ≠ bHST ∧ bLAY core ≠ bKPR := by
      have := core.isLt
      simp only [bLAY, bHST, bKPR]
      omega
    obtain ⟨w, hw⟩ := qcfgWrite_refuses (s := s.sled) (v := v.toNat) core.isLt hl hen (by rwa [bitAt_eq_testBit]) h2 h12 hbig
    have hfx : fxLayQcfgWrite a core q v.toNat s.sled = _ :=
      (regAccess_lay core.isLt hact hreach hrun ..).trans hw
    refine ⟨_, lift_next hfx, rfl, ?_, ?_⟩
    · dsimp only
      rw [qErr, qBlk_vault core.isLt, rField, rGet_logRec_queue rfl (by omega) hblk.1 hblk.2, ← rField,
        rField_rSetField_same _ _ _ _ _ _ (by decide)]
      rfl
    · dsimp only
      rw [rField, rGet_logRec_queue rfl (by omega) hblk.1 hblk.2, ← rField,
        rField_rSetField_ne _ (by omega) (by omega) (by simp only [ne_eq, Prod.mk.injEq]; omega),
        rField_rSetField_same _ _ _ _ _ _ (by decide)]
      rfl
  · intro s a core q n hact hreach hrun hl hquiet
    have hfx : fxLayQtailDoorbell a core q n.toNat s.sled = rSetField (bLAY core) (0x08 + 0x20 * q.val) 0 12 n.toNat s.sled := by
      rw [fxLayQtailDoorbell, regAccess_lay core.isLt hact hreach hrun, tailWrite, if_neg (by simp [hquiet]),
        qBlk_vault core.isLt, swField_of_unlocked hl]
    exact lift_next hfx
  · intro s a core q hact hreach hrun
    have hfx : fxLayQstatErrClear a core q s.sled = rSetField (bLAY core) (0x10 + 0x20 * q.val) 16 1 0 s.sled := by
      rw [fxLayQstatErrClear, regAccess_lay core.isLt hact hreach hrun, errClear, qBlk_vault core.isLt]
    refine ⟨_, lift_next hfx, rfl, ?_, rField_rSetField_other _ (by decide) (by decide), rSetField_frame ..⟩
    rw [qErr, qBlk_vault core.isLt, rField_rSetField_same _ _ _ _ _ _ (by decide)]
    rfl
  · intro s u head b d hrun hen herr hring hmask hhead hread hpo hd hcheck
    have hfx := fetchQ_takes ⟨hrun, hen, herr, hring, hmask, hhead, hread, hpo, hd⟩
    rw [if_pos hcheck] at hfx
    obtain ⟨hdescs, hseq, hfield, hframe⟩ := taken_keeps (s := s.sled) (u := u) (head := head) (d := d) rfl
    refine ⟨_, liftHold_next hfx ?_, rfl, hdescs, hseq, hfield, hframe⟩
    rw [hframe]
  · intro s u head b d hrun hen herr hring hmask hhead hread hpo hd hcheck
    have hfx := fetchQ_takes ⟨hrun, hen, herr, hring, hmask, hhead, hread, hpo, hd⟩
    rw [if_neg hcheck] at hfx
    have hdq : d.q = u.num := by rw [hd]
    have hid : d.id = s.sled.seq := by rw [hd]
    obtain ⟨-, -, -, hframe⟩ := taken_keeps (s := s.sled) (u := u) (head := head) (d := d) rfl
    obtain ⟨hqerr, hgone, hstall⟩ := descFault_keeps (unit_le u) (d := d) (hdq ▸ num_lt u) (qBlk_ne u) (checkDesc u.unit u.num d)
      (if u.unit < 8 ∧ d.opc = 3 then tdArg u.unit (dField d 0x18 8) else 0) (taken u head d s.sled)
    have hmem : (taken u head d s.sled).mem = s.sled.mem ∧ (taken u head d s.sled).stall = s.sled.stall := by
      generalize taken u head d s.sled = w at hframe
      generalize w.seq = x, w.regs = y, w.vc = z, w.ste = z' at hframe
      subst hframe
      exact ⟨rfl, rfl⟩
    refine ⟨_, liftHold_next hfx (hstall.trans hmem.2), rfl, hdq ▸ hqerr, hid ▸ hgone, (descFault_mem ..).trans hmem.1⟩
  · intro s u herr
    have hfx : fxDescriptorFetch u s.sled = s.sled := by
      rw [fxDescriptorFetch, fetchQ]
      simp only [herr, Bool.or_true, Bool.true_or, if_true]
    exact liftHold_next hfx rfl

end Sys2Proof.Machine

/-! ## Descriptors start, wait and complete (O27: spec/10, R186 to R188; spec/12, R232) -/
namespace Sys2Proof.Machine
open Sys2Proof

/-! ### Start -/

theorem mem_startDesc {u : Nat} {d e : Desc} {s : Sled} :
    e ∈ descs (startDesc u d s) u ↔ ∃ x ∈ descs s u, (if x.id = d.id then
      { d with stage := 1, order := s.seq, startAt := s.now, curves := if u = 8 ∧ d.opc = 0x61 then s.ste.curves else [] }
      else x) = e := by
  rw [startDesc, descs_setDescs, List.mem_map]

/-- The engine's note of the queue that it serves. -/
def served (u : Nat) (d : Desc) (s : Sled) : Sled :=
  if u = 8 ∨ d.q < 16 then s
  else
    let v := fget s.vc {} u
    { s with vc := fset s.vc {} u (if d.q < 20 then { v with rrMe := d.q - 16 } else { v with rrVe := d.q - 20 }) }

theorem doStart_eq (u : Nat) (d : Desc) (s : Sled) : doStart u d s = served u d (startDesc u d s) := rfl

theorem descs_served (u : Nat) (d : Desc) (s : Sled) : descs (served u d s) u = descs s u := by
  unfold served descs
  by_cases h : u = 8
  · rw [if_pos h, if_pos h, if_pos (.inl h)]
  · rw [if_neg h, if_neg h]
    split
    · rfl
    · dsimp only
      rw [fget_fset_same]
      split <;> rfl

theorem served_frame (u : Nat) (d : Desc) (s : Sled) : served u d s = { s with vc := (served u d s).vc } := by
  unfold served
  split
  · rfl
  · rfl

theorem startDesc_frame (u : Nat) (d : Desc) (s : Sled) :
    startDesc u d s = { s with seq := s.seq + 1, vc := (startDesc u d s).vc, ste := (startDesc u d s).ste } :=
  setDescs_frame u _ { s with seq := s.seq + 1 }

/-- What a start leaves beside the unit's descriptors. -/
theorem doStart_frame (u : Nat) (d : Desc) (s : Sled) :
    doStart u d s = { s with seq := s.seq + 1, vc := (doStart u d s).vc, ste := (doStart u d s).ste } := by
  have hstart := startDesc_frame u d s
  rw [doStart_eq]
  generalize startDesc u d s = w at hstart ⊢
  have hserved := served_frame u d w
  generalize (served u d w).vc = a at hserved
  rw [hserved]
  generalize w.vc = b, w.ste = c at hstart
  subst hstart
  rfl

/-- A descriptor that waits on nothing starts. -/
theorem startQ_starts {s : Sled} {u q : Nat} {d : Desc} (hd : headDesc s u q = some d) (hrun : unitRuns s u = true)
    (hw : d.waits = false) (hs : startable s u d = true) (hroom : engineRoom s u d = true) (hq : d.q = q) :
    startQ u q s = doStart u d s := by
  have hs' := hs
  simp only [startable, Bool.and_eq_true, hq, Bool.not_eq_true'] at hs'
  obtain ⟨⟨herr, -⟩, hfence⟩ := hs'
  have hf : (bitAt d.flags 0 && (descs s u).any fun e => e.q = q && e.id < d.id) = false := by
    cases hb : bitAt d.flags 0 with
    | false => rfl
    | true => simpa [hb] using hfence
  rw [startQ]
  simp only [hd, hrun, herr, hf, hw, hs, hroom, Bool.not_true, Bool.or_false, Bool.false_eq_true, if_false, Bool.false_and,
    decide_true, Bool.and_self, if_true]

/-- A wait whose condition does not hold enters the list, with what its first poll read. -/
theorem beginWait_enters {who : Who} {k : WaitKind} {i : Nat} {target : Int} {s : Sled}
    (hnone : ({ who := who, kind := k, idx := i, target := target, start := s.now } : Wait)
      ∉ s.waits) (hcheck : objCheck s who (k.obj = 1) i = none) (hmet : waitMet s k i target = false) :
    beginWait who k i target s = { s with waits := s.waits ++ [{ who := who, kind := k, idx := i, target := target, start := s.now
                                                                 lastVal := waitSlot s k i }] } := by
  have hkeep (w v : Wait) (h : w ∉ s.waits) : s.waits.map (fun x => if x = w then v else x) = s.waits := by
    refine (List.map_congr_left fun x hx => if_neg ?_).trans (List.map_id _)
    rintro rfl
    exact h hx
  have hcheck' (l : List Wait) : objCheck { s with waits := l } who (k.obj = 1) i = none := hcheck
  have hmet' (l : List Wait) : waitMet { s with waits := l } k i target = false := hmet
  rw [beginWait, pollWait]
  simp only [hcheck', hmet', Bool.false_eq_true, if_false, List.map_append, hkeep _ _ hnone, List.map_cons, List.map_nil, if_true]
  rfl

/-- One that waits enters the store's list of waits. -/
theorem startQ_waits {s : Sled} {u q : Nat} {d : Desc} (hd : headDesc s u q = some d) (hrun : unitRuns s u = true)
    (herr : qErr s u q = false) (hfence : bitAt d.flags 0 = false) (hw : d.waits = true) (hready : d.ready = false)
    (hnone : ∀ x ∈ s.waits, x.who ≠ whoQ s u q) (hcheck : objCheck s (whoQ s u q) false d.waitId = none)
    (hmet : waitMet s .counter d.waitId d.waitVal = false) :
    startQ u q s = { s with waits := s.waits ++ [{ who := whoQ s u q, kind := .counter, idx := d.waitId, target := d.waitVal
                                                   start := s.now, lastVal := ctrSlot (getCtr s d.waitId) }] } := by
  have hany : (s.waits.any fun w => w.who = whoQ s u q) = false :=
    List.any_eq_false.2 fun x hx => by simpa using hnone x hx
  have henter := beginWait_enters (who := whoQ s u q) (k := .counter) (target := d.waitVal) (fun hmem => hnone _ hmem rfl) hcheck hmet
  have hhead (l : List Wait) : headDesc { s with waits := l } u q = some d := hd
  have hstart (l : List Wait) : startable { s with waits := l } u d = false := by
    simp [startable, hw, hready]
  rw [startQ]
  simp only [hd, hrun, herr, hfence, hw, hready, hany, henter, hhead, hstart, Bool.not_true, Bool.not_false, Bool.or_self,
    Bool.false_and, Bool.and_false, Bool.and_self, Bool.false_eq_true, if_false, if_true]
  rfl

/-! ### Completion -/

/-- A descriptor that has done its operation signals, where its buffer is another's. -/
theorem complete_signals {s : Sled} {u : QUnit} {k : Nat} {d : Desc} (hd : (started s u.unit u.num)[k]? = some d)
    (hrun : unitRuns s u.unit = true) (hnoc : islRuns s iNOC = true) (hstage : d.stage = 2) (hout : descOut s d.id = false)
    (hstg : u.unit < 8 → (fget s.vc {} u.unit).staging ≠ some d.id) :
    fxDescriptorComplete u k s = signalDesc u.unit d s := by
  have hrel : releaseStaging u.unit d.id s = s := by
    rw [releaseStaging, if_neg]
    simp only [Bool.and_eq_true, decide_eq_true_eq, not_and]
    exact hstg
  rw [fxDescriptorComplete]
  simp only [hd, hrun, hnoc, hstage, hout, decide_true, Bool.not_false, Bool.and_self, if_true, hrel]

/-- Settles O27: start, wait and completion of a queue's descriptors. -/
theorem descriptorsStartWaitAndComplete : Obligations.DescriptorsStartWaitAndComplete := by
  unfold Obligations.DescriptorsStartWaitAndComplete
  refine ⟨?_, ?_, ?_, ?_⟩
  · intro s u d hd hrun hw hs hroom hq
    have hframe := doStart_frame u.unit d s.sled
    have hdescs : descs (doStart u.unit d s.sled) u.unit = descs (startDesc u.unit d s.sled) u.unit := descs_served ..
    refine ⟨_, lift_next (startQ_starts hd hrun hw hs hroom hq), rfl, fun e he hid => ?_, fun e hid => ?_, ?_, ?_⟩
    · obtain ⟨x, -, rfl⟩ := mem_startDesc.1 (hdescs ▸ he)
      split at hid
      case isTrue hx =>
        rw [if_pos hx]
        exact ⟨rfl, rfl, rfl⟩
      case isFalse hx => exact absurd hid hx
    · dsimp only
      rw [hdescs, mem_startDesc]
      refine ⟨fun ⟨x, hx, he⟩ => ?_, fun he => ⟨e, he, if_neg hid⟩⟩
      split at he
      case isTrue => exact absurd (he ▸ rfl) hid
      case isFalse => exact he ▸ hx
    · dsimp only
      rw [hframe]
    · dsimp only
      generalize doStart u.unit d s.sled = w at hframe
      have hseq : w.seq = s.sled.seq + 1 := by rw [hframe]
      rw [hseq]
      exact hframe
  · intro s u d w hd hrun herr hfence hw hready hq hnone hcheck hmet hwait
    rw [hwait]
    exact lift_next (startQ_waits hd hrun herr hfence hw hready hnone hcheck hmet)
  · intro s u k d hd hrun hnoc hstage hout hsig hstg
    refine lift_next ((complete_signals hd hrun hnoc hstage hout hstg).trans ?_)
    rw [signalDesc]
    simp only [hsig, Bool.not_false, if_true]
  · intro s v u k d hd hrun hnoc hstage hout hsig hremote hstg hctr
    refine lift_next ((complete_signals hd hrun hnoc hstage hout hstg).trans ?_)
    rw [signalDesc]
    simp only [hsig, hremote, hctr, Bool.not_true, Bool.false_and, Bool.false_eq_true, if_false]

end Sys2Proof.Machine

/-! ## The sync store's objects, answers and waits: one rule per operation (spec/12) -/
namespace Sys2Proof.Machine
open Sys2Proof

/-! ### Objects -/

@[simp] theorem getCtr_setCtr_same (i : Nat) (c : Ctr) (s : Sled) : getCtr (setCtr i c s) i = c := fget_fset_same ..

theorem getCtr_setCtr_other {i j : Nat} (h : j ≠ i) (c : Ctr) (s : Sled) : getCtr (setCtr i c s) j = getCtr s j :=
  fget_fset_other_default _ _ _ _ h

theorem getSem_setSem_other {i j : Nat} (h : j ≠ i) (c : Sem) (s : Sled) : getSem (setSem i c s) j = getSem s j :=
  fget_fset_other_default _ _ _ _ h

theorem getCtr_congr {s t : Sled} (h : t.ctr = s.ctr) (i : Nat) : getCtr t i = getCtr s i := by
  rw [getCtr, h, getCtr]

theorem objProgress_frame (kind i : Nat) (s : Sled) :
    objProgress kind i s = { s with dld := (objProgress kind i s).dld } := by
  rw [objProgress]
  refine foldl_keeps (P := fun t => t = { s with dld := t.dld }) (fun t w _ ht => ?_) rfl
  generalize (if w.kind = .counter then 0 else 1) = n
  split
  · split
    · generalize t.dld = a at ht
      subst ht
      rfl
    · exact ht
  · exact ht

theorem stallSe_frame (w : Who) (s : Sled) : stallSe w s = { s with vc := (stallSe w s).vc } := by
  unfold stallSe
  split <;> rfl

theorem wakeSe_frame (w : Who) (s : Sled) : wakeSe w s = { s with vc := (wakeSe w s).vc } := by
  unfold wakeSe
  split <;> rfl

/-- An answer leaves with its waiter's ID, and its scalar engine goes on. -/
theorem returnVal_eq (w : Who) (v : Nat) (s : Sled) : returnVal w v s = { s with
    outs := s.outs ++ [.value (waiterId s w) v], vc := (returnVal w v s).vc } := by
  have h := wakeSe_frame w (emit (.value (waiterId s w) v) s)
  exact h

/-- The value an AMO or a wait answers does not depend on what its requester's engine does meanwhile. -/
theorem waiterId_congr {s t : Sled} (h : t.plat = s.plat) (w : Who) : waiterId t w = waiterId s w := by
  rw [waiterId, moduleId, h, waiterId, moduleId]

/-! ### Records of the store -/

theorem logSyncAt_eq (m code : Nat) (w : Who) (kind i a1 a2 : Nat) (s : Sled) :
    logSyncAt m code w kind i a1 a2 s = logRec (syncRec s m code w kind i a1 a2) (if code = 0x1001 then bump bSYN 0x300 s
      else if code = 0x1002 then bump bSYN 0x308 s else if code = 0x1008 then bump bSYN 0x320 s else s) := rfl

theorem logSync_frame (code : Nat) (w : Who) (kind i a1 a2 : Nat) (s : Sled) : logSync code w kind i a1 a2 s = { s with
    kpr := (logSync code w kind i a1 a2 s).kpr, regs := (logSync code w kind i a1 a2 s).regs
    hst := (logSync code w kind i a1 a2 s).hst, outs := (logSync code w kind i a1 a2 s).outs } := by
  rw [logSync, logSyncAt_eq]
  generalize syncRec s (moduleId s) code w kind i a1 a2 = r
  generalize hv : (if code = 0x1001 then bump bSYN 0x300 s
      else if code = 0x1002 then bump bSYN 0x308 s else if code = 0x1008 then bump bSYN 0x320 s else s) = v
  have hv' : v = { s with regs := v.regs } := by
    subst hv
    split_ifs <;> first | exact bumpN_frame .. | rfl
  have hf := logRec_frame r v
  generalize logRec r v = u at hf ⊢
  generalize u.kpr = a, u.regs = b, u.hst = c, u.outs = d at hf
  generalize v.regs = e at hv'
  subst hv'
  exact hf

/-! ### A counter that may be signalled -/

section
variable {w : Who} {i inc : Nat} {s : Sled}

/-- An add within the counter's range. -/
theorem ctrAdd_inRange (h : (getCtr s i).value + inc < 2 ^ 48) :
    ctrAdd w i inc s = setCtr i { getCtr s i with value := (getCtr s i).value + inc } (objProgress 0 i s) := by
  have hle : (getCtr s i).value + inc ≤ ctrTop := by
    rw [ctrTop]
    omega
  rw [ctrAdd]
  exact if_pos hle

/-- One beyond it saturates the counter. -/
theorem ctrAdd_saturates (h : 2 ^ 48 ≤ (getCtr s i).value + inc) {t : Sled} (ht : ctrAdd w i inc s = t) :
    getCtr t i = { getCtr s i with value := 2 ^ 48 - 1, sat := true } ∧ (∀ j, j ≠ i → getCtr t j = getCtr s j) ∧
      t.sem = s.sem ∧ t.mem = s.mem := by
  have hgt : ¬ (getCtr s i).value + inc ≤ ctrTop := by
    rw [ctrTop]
    omega
  have hp := objProgress_frame 0 i s
  generalize hu : setCtr i { getCtr s i with value := ctrTop, sat := true } (objProgress 0 i s) = u
  have hui : getCtr u i = { getCtr s i with value := ctrTop, sat := true } := hu ▸ getCtr_setCtr_same ..
  have huj (j : Nat) (hj : j ≠ i) : getCtr u j = getCtr s j := by
    rw [← hu, getCtr_setCtr_other hj]
    exact getCtr_congr (by rw [hp]) j
  have hus : u.sem = s.sem ∧ u.mem = s.mem := by
    rw [← hu]
    generalize objProgress 0 i s = v at hp
    generalize v.dld = a at hp
    subst hp
    exact ⟨rfl, rfl⟩
  have htu : t.ctr = u.ctr ∧ t.sem = u.sem ∧ t.mem = u.mem := by
    rw [ctrAdd] at ht
    simp only [if_neg hgt, hu] at ht
    subst ht
    split
    · exact ⟨rfl, rfl, rfl⟩
    · rw [logSync_frame]
      exact ⟨rfl, rfl, rfl⟩
  exact ⟨(getCtr_congr htu.1 i).trans hui, fun j hj => (getCtr_congr htu.1 j).trans (huj j hj), htu.2.1.trans hus.1,
    htu.2.2.trans hus.2⟩

theorem ctrSignal_acts (h0 : inc ≠ 0) (hlt : inc < 2 ^ 32) (hcheck : objCheck s w false i = none) :
    ctrSignal w i inc s = (none, ctrAdd w i inc s) := by
  rw [ctrSignal, if_neg (by omega), hcheck]

theorem ctrSignal_refused {code : Nat} (h0 : inc ≠ 0) (hlt : inc < 2 ^ 32) (hcheck : objCheck s w false i = some code) :
    ctrSignal w i inc s = (some code, logSync code w 0 i inc 0 s) := by
  rw [ctrSignal, if_neg (by omega), hcheck]

theorem ctrSignal_badOperand (h : inc = 0 ∨ 2 ^ 32 ≤ inc) :
    ctrSignal w i inc s = (some 0x1008, logSync 0x1008 w 0 i inc 0 s) := by
  rw [ctrSignal, if_pos h]

end

end Sys2Proof.Machine

/-! ## Counter signals (O32: spec/12, R225, R227, R228, R236 to R238) -/
namespace Sys2Proof.Machine
open Sys2Proof

/-- COUNTER_SIGNAL of 8 bytes on an object of this sled. -/
theorem exec_counterSignal_here {s : State} {a : Agent} {m : BitVec 8} (hsync : canSync s.sled a = true)
    (hmod : m.toNat = moduleId s.sled) (hnoc : islRuns s.sled iNOC = true) (i : BitVec 14) (x : Word) :
    exec (.counterSignal a m i true x) s =
      .next { s with sled := (ctrSignal (whoAgent s.sled a) i.toNat x.toNat s.sled).2 } := by
  refine lift_next ?_
  rw [fxCounterSignal, syncCmd_here hsync hmod hnoc]
  rfl

/-- COUNTER_AMOADD whose add is applied answers the slot before it. -/
theorem exec_counterAmoadd_applied {s u : State} {a : Agent} {m : BitVec 8} (hsync : canSync s.sled a = true)
    (hmod : m.toNat = moduleId s.sled) (hnoc : islRuns s.sled iNOC = true) {i : BitVec 14} {x : Word}
    (h : ctrSignal (whoAgent s.sled a) i.toNat x.toNat s.sled = (none, u.sled)) :
    exec (.counterAmoadd a m i x) s =
      .next { s with sled := returnVal (whoAgent s.sled a) (ctrSlot (getCtr s.sled i.toNat)) u.sled } := by
  refine lift_next ?_
  rw [fxCounterAmoadd, syncCmd_here hsync hmod hnoc]
  simp only [h]

/-- Who passes the check on an object of a tenant. -/
theorem objCheck_none_iff {s : Sled} {w : Who} {sem : Bool} {i tn : Nat} (hw : w.tenant = some tn)
    (hvalid : (objHead s sem i).2.2.1 = true) (hres : rescueObj sem i = false) : objCheck s w sem i = none ↔
      ((objHead s sem i).1 = tn ∨ bitAt (objHead s sem i).2.1 tn = true) ∧ (objHead s sem i).2.2.2 = false := by
  rw [objCheck, hw]
  generalize objHead s sem i = h at hvalid ⊢
  obtain ⟨owner, mask, valid, lost⟩ := h
  change valid = true at hvalid
  dsimp only
  subst hvalid
  rw [hres]
  by_cases ho : owner = tn
  · subst ho
    cases lost <;> simp
  · cases hb : bitAt mask tn <;> cases lost <;> simp [ho, Ne.symm ho]

/-- Settles O32: a signal that may act adds and saturates, and one that may not is logged. -/
theorem counterSignalsAddAndSaturate : Obligations.CounterSignalsAddAndSaturate := by
  unfold Obligations.CounterSignalsAddAndSaturate
  refine ⟨?_, ?_, ?_, ?_, fun s w sem i tn => objCheck_none_iff⟩
  · intro s a m i x hsync hmod hnoc h0 hlt hcheck hrange
    have hadd := ctrSignal_acts h0 hlt hcheck
    rw [ctrAdd_inRange hrange] at hadd
    have hp := objProgress_frame 0 i.toNat s.sled
    have hframe : ∀ c, setCtr i.toNat c (objProgress 0 i.toNat s.sled) = { s.sled with
        ctr := (setCtr i.toNat c (objProgress 0 i.toNat s.sled)).ctr
        dld := (setCtr i.toNat c (objProgress 0 i.toNat s.sled)).dld } := fun c => by
      generalize objProgress 0 i.toNat s.sled = v at hp ⊢
      generalize v.dld = b at hp
      subst hp
      rfl
    have hother (c : Ctr) (j : Nat) (hj : j ≠ i.toNat) :
        getCtr (setCtr i.toNat c (objProgress 0 i.toNat s.sled)) j = getCtr s.sled j := by
      rw [getCtr_setCtr_other hj]
      exact getCtr_congr (by rw [hp]) j
    specialize hframe { getCtr s.sled i.toNat with value := (getCtr s.sled i.toNat).value + x.toNat }
    specialize hother { getCtr s.sled i.toNat with value := (getCtr s.sled i.toNat).value + x.toNat }
    have hsame := getCtr_setCtr_same i.toNat { getCtr s.sled i.toNat with value := (getCtr s.sled i.toNat).value + x.toNat }
      (objProgress 0 i.toNat s.sled)
    generalize setCtr i.toNat { getCtr s.sled i.toNat with value := (getCtr s.sled i.toNat).value + x.toNat }
      (objProgress 0 i.toNat s.sled) = u at hadd hframe hother hsame
    refine ⟨⟨_, exec_counterSignal_here hsync hmod hnoc i x, rfl, ?_⟩,
      _, exec_counterAmoadd_applied (u := { s with sled := u }) hsync hmod hnoc hadd, rfl, ?_⟩
    · rw [hadd]
      exact ⟨hsame, hother, hframe⟩
    · have hret := returnVal_eq (whoAgent s.sled a) (ctrSlot (getCtr s.sled i.toNat)) u
      rw [waiterId_congr (s := s.sled) (by rw [hframe])] at hret
      have houts : u.outs = s.sled.outs := by rw [hframe]
      dsimp only
      generalize returnVal (whoAgent s.sled a) (ctrSlot (getCtr s.sled i.toNat)) u = v at hret ⊢
      rw [houts] at hret
      generalize v.vc = b at hret
      refine ⟨?_, by rw [hret], ?_⟩
      · exact (getCtr_congr (by rw [hret]) _).trans hsame
      · generalize u.ctr = c, u.dld = d at hframe
        subst hframe
        rw [hret]
  · intro s a m i x hsync hmod hnoc h0 hlt hcheck hrange
    refine ⟨_, exec_counterSignal_here hsync hmod hnoc i x, rfl, ?_⟩
    rw [ctrSignal_acts h0 hlt hcheck]
    exact ctrAdd_saturates hrange rfl
  · intro s a m i x code hsync hmod hnoc h0 hlt hcheck
    rw [exec_counterSignal_here hsync hmod hnoc, ctrSignal_refused h0 hlt hcheck]
  · intro s a m i x hsync hmod hnoc hbad
    rw [exec_counterSignal_here hsync hmod hnoc, ctrSignal_badOperand hbad]

end Sys2Proof.Machine

/-! ## Semaphore adds, reads and peer masks (O34: spec/12, R225, R230, R238) -/
namespace Sys2Proof.Machine
open Sys2Proof

/-- An add within a semaphore's range: the semaphore, the others, and what else changes. -/
theorem semAdded_keeps (i : Nat) (c : Sem) (s : Sled) {t : Sled} (ht : setSem i c (objProgress 1 i s) = t) :
    getSem t i = c ∧ (∀ j, j ≠ i → getSem t j = getSem s j) ∧ t = { s with sem := t.sem, dld := t.dld } := by
  have hp := objProgress_frame 1 i s
  refine ⟨ht ▸ getSem_setSem_same .., fun j hj => ?_, ?_⟩
  · rw [← ht, getSem_setSem_other hj]
    exact getSem_congr (by rw [hp]) j
  · generalize objProgress 1 i s = v at hp ht
    generalize v.dld = b at hp
    subst hp
    subst ht
    rfl

/-- The load of an object that may be read. -/
theorem loadSlot_reads {w : Who} {sem : Bool} {i : Nat} {s : Sled} (h : objCheck s w sem i = none) (v : Nat) :
    loadSlot w sem i v s = returnVal w v s := by
  rw [loadSlot, h]

theorem loadSlot_refused {w : Who} {sem : Bool} {i code : Nat} {s : Sled} (h : objCheck s w sem i = some code) (v : Nat)
    :
    loadSlot w sem i v s = returnVal w (loadFail code (logSync code w (b2n sem) i 0 0 s)).1
      (loadFail code (logSync code w (b2n sem) i 0 0 s)).2 := by
  rw [loadSlot, h]

section
variable {s : State} {a : Agent} {m : BitVec 8} (hsync : canSync s.sled a = true) (hmod : m.toNat = moduleId s.sled)
  (hnoc : islRuns s.sled iNOC = true)
include hsync hmod hnoc

theorem exec_counterRead_here (i : BitVec 14) : exec (.counterRead a m i true) s = .next { s with
    sled := loadSlot (whoAgent s.sled a) false i.toNat (ctrSlot (getCtr s.sled i.toNat) % 2 ^ 64) s.sled } := by
  refine lift_next ?_
  rw [fxCounterRead, syncCmd_here hsync hmod hnoc]
  rfl

theorem exec_semaphoreRead_here (j : BitVec 16) : exec (.semaphoreRead a m j true) s = .next { s with
    sled := loadSlot (whoAgent s.sled a) true j.toNat (semSlot (getSem s.sled j.toNat) % 2 ^ 64) s.sled } := by
  refine lift_next ?_
  rw [fxSemaphoreRead, syncCmd_here hsync hmod hnoc]
  rfl

theorem exec_peerMaskRead_here {sem : Bool} {i : BitVec 16} (hi : sem = false → i.toNat < 16384)
    (hcheck : objCheck s.sled (whoAgent s.sled a) sem i.toNat = none) : exec (.peerMaskRead a ⟨m, sem⟩ i) s = .next { s with
      sled := returnVal (whoAgent s.sled a) (objHead s.sled sem i.toNat).2.1 s.sled } := by
  have hex : ¬ ((!sem) = true ∧ 16384 ≤ i.toNat) := by
    rintro ⟨hs, hle⟩
    exact absurd (hi (by simpa using hs)) (by omega)
  refine lift_next ?_
  rw [fxPeerMaskRead, if_neg hex, syncCmd_here hsync hmod hnoc, hcheck]
  cases sem <;> rfl

/-- A write of a peer mask, by who may write one. -/
theorem exec_peerMaskWrite_here {sem : Bool} {i : BitVec 16} (mask : BitVec 16) (hi : sem = false → i.toNat < 16384) :
    exec (.peerMaskWrite a ⟨m, sem⟩ i mask) s = .next { s with
      sled := if (whoAgent s.sled a).tenant ≠ none then
          logSync 0x1008 (whoAgent s.sled a) (2 + b2n sem) i.toNat mask.toNat 0 s.sled
        else if sem then setSem i.toNat { getSem s.sled i.toNat with mask := mask.toNat } s.sled
        else setCtr i.toNat { getCtr s.sled i.toNat with mask := mask.toNat } s.sled } := by
  have hex : ¬ ((!sem) = true ∧ 16384 ≤ i.toNat) := by
    rintro ⟨hs, hle⟩
    exact absurd (hi (by simpa using hs)) (by omega)
  refine lift_next ?_
  rw [fxPeerMaskWrite, if_neg hex, syncCmd_here hsync hmod hnoc]

end

theorem objHead_setSem (i : Nat) (c : Sem) (s : Sled) :
    objHead (setSem i c s) true i = (c.owner, c.mask, c.valid, c.lost) := by
  rw [objHead, if_pos rfl, getSem_setSem_same]

theorem objHead_setCtr (i : Nat) (c : Ctr) (s : Sled) :
    objHead (setCtr i c s) false i = (c.owner, c.mask, c.valid, c.lost) := by
  rw [objHead, if_neg Bool.false_ne_true, getCtr_setCtr_same]

/-- Settles O34: adds in range, reads and their refusals, and the peer masks. -/
theorem semaphoreAddsReadsAndMasks : Obligations.SemaphoreAddsReadsAndMasks := by
  unfold Obligations.SemaphoreAddsReadsAndMasks
  refine ⟨?_, ?_, ?_⟩
  · intro s a m i x hsync hmod hnoc hx hcheck hlo hhi
    have hne : sNat 32 x.toNat ≠ 0 := sNat_ne_zero (fun h => hx (BitVec.eq_of_toNat_eq h)) x.isLt
    have hadd := semAdd_inRange hne hcheck hlo hhi
    obtain ⟨hsame, hother, hframe⟩ := semAdded_keeps i.toNat
      { getSem s.sled i.toNat with count := (getSem s.sled i.toNat).count + sNat 32 x.toNat } s.sled rfl
    generalize setSem i.toNat { getSem s.sled i.toNat with count := (getSem s.sled i.toNat).count + sNat 32 x.toNat }
      (objProgress 1 i.toNat s.sled) = u at hadd hsame hother hframe
    refine ⟨⟨_, exec_semaphoreAdd_here hsync hmod hnoc i hx, rfl, ?_⟩,
      _, exec_semaphoreAmoadd_applied hsync hmod hnoc hadd, rfl, ?_, ?_⟩
    · rw [hadd]
      exact ⟨hsame, hother, hframe⟩
    · rw [getSem_congr (returnVal_sem ..), hsame]
    · rw [returnVal_eq, waiterId_congr (s := s.sled) (by rw [hframe]), show u.outs = s.sled.outs by rw [hframe]]
  · intro s a m i j hsync hmod hnoc
    refine ⟨fun hcheck => ?_, fun hcheck => ?_, fun code hcheck => ⟨fun hcode => ?_, fun hcode => ?_⟩⟩
    · rw [exec_counterRead_here hsync hmod hnoc, loadSlot_reads hcheck]
    · rw [exec_semaphoreRead_here hsync hmod hnoc, loadSlot_reads hcheck]
    · rw [exec_counterRead_here hsync hmod hnoc, loadSlot_refused hcheck, loadFail, if_neg hcode]
      rfl
    · rw [exec_counterRead_here hsync hmod hnoc, loadSlot_refused hcheck, loadFail, if_pos hcode]
      rfl
  · intro s a m sem i mask hsync hmod hi hnoc
    refine ⟨exec_peerMaskRead_here hsync hmod hnoc hi, fun ht => ?_, fun ht => ?_⟩
    · refine ⟨_, exec_peerMaskWrite_here hsync hmod hnoc mask hi, rfl, ?_⟩
      rw [if_neg (by simp [ht])]
      cases sem with
      | true => exact ⟨objHead_setSem .., rfl⟩
      | false => exact ⟨objHead_setCtr .., rfl⟩
    · rw [exec_peerMaskWrite_here hsync hmod hnoc mask hi, if_pos ht]

end Sys2Proof.Machine

/-! ## Waits begin, poll and end (O35: spec/12, R217, R225, R227, R232 to R234) -/
namespace Sys2Proof.Machine
open Sys2Proof

/-! ### A wait that is met -/

theorem isQueue_whoAgent (s : Sled) (a : Agent) : isQueue (whoAgent s a) = false := by
  cases a <;> rfl

/-- What a met wait of no queue answers: the slot, or a take's count before it. -/
def metValue (k : WaitKind) (i : Nat) (s : Sled) : Nat :=
  if k = .semTake then iNat 32 (getSem s i).count else waitSlot s k i

/-- The store with a wait taken and off the list. -/
def waitTaken (w : Wait) (s : Sled) : Sled :=
  { takeSem w.kind w.idx w.target s with waits := (takeSem w.kind w.idx w.target s).waits.filter (· ≠ w) }

theorem meetWait_answers {w : Wait} (h : isQueue w.who = false) (s : Sled) :
    meetWait w s = returnVal w.who (metValue w.kind w.idx s) (waitTaken w s) := by
  rw [meetWait]
  simp only [h, Bool.not_false, if_true]
  rfl

theorem takeSem_frame (k : WaitKind) (i : Nat) (n : Int) (s : Sled) :
    takeSem k i n s = { s with sem := (takeSem k i n s).sem, dld := (takeSem k i n s).dld } := by
  cases k with
  | counter => rfl
  | semWait => rfl
  | semTake => exact (semAdded_keeps i _ s rfl).2.2

theorem takeSem_id {k : WaitKind} (h : k ≠ .semTake) (i : Nat) (n : Int) (s : Sled) : takeSem k i n s = s := by
  cases k with
  | counter => rfl
  | semWait => rfl
  | semTake => exact absurd rfl h

/-- A wait polled where its condition holds. -/
theorem pollWait_met {w : Wait} {s : Sled} (hcheck : objCheck s w.who (w.kind.obj = 1) w.idx = none)
    (hmet : waitMet s w.kind w.idx w.target = true) : pollWait w s = meetWait w s := by
  rw [pollWait, hcheck]
  simp only [hmet, if_true]

/-- One polled where it does not keeps what it read. -/
theorem pollWait_unmet {w : Wait} {s : Sled} (hcheck : objCheck s w.who (w.kind.obj = 1) w.idx = none)
    (hmet : waitMet s w.kind w.idx w.target = false) : pollWait w s = { s with
      waits := s.waits.map fun x => if x = w then { w with lastVal := waitSlot s w.kind w.idx } else x } := by
  rw [pollWait, hcheck]
  simp only [hmet, Bool.false_eq_true, if_false]

/-! ### A wait of an agent begins -/

/-- What a wait that is met at its first poll leaves. -/
structure MetAtOnce (who : Who) (k : WaitKind) (i : Nat) (target : Int) (s t : Sled) : Prop where
  waits : t.waits = s.waits
  outs : t.outs = s.outs ++ [.value (waiterId s who) (metValue k i s)]
  sem : t.sem = (takeSem k i target s).sem
  dld : k ≠ .semTake → t.dld = s.dld
  frame : t = { s with waits := t.waits, outs := t.outs, vc := t.vc, sem := t.sem, dld := t.dld }

theorem filter_append_self {l : List Wait} {w : Wait} (h : w ∉ l) : (l ++ [w]).filter (· ≠ w) = l := by
  rw [List.filter_append, List.filter_eq_self.2 (fun x hx => by simpa using fun (he : x = w) => h (he ▸ hx)),
    List.filter_cons_of_neg (by simp), List.filter_nil, List.append_nil]

/-- What the take subtracts does not depend on the list of waits. -/
theorem takeSem_sem_congr (k : WaitKind) (i : Nat) (n : Int) {s t : Sled} (h : t.sem = s.sem) :
    (takeSem k i n t).sem = (takeSem k i n s).sem := by
  have hs (s : Sled) (c : Sem) : (setSem i c (objProgress 1 i s)).sem = fset s.sem (semDef i) i c := by
    rw [objProgress_frame]
    rfl
  cases k with
  | counter => exact h
  | semWait => exact h
  | semTake => rw [takeSem, takeSem, hs, hs, getSem_congr h, h]

theorem beginWait_met {who : Who} {k : WaitKind} {i : Nat} {target : Int} {s : Sled} (hq : isQueue who = false)
    (hnone : ∀ y ∈ s.waits, y.who ≠ who) (hcheck : objCheck s who (k.obj = 1) i = none) (hmet : waitMet s k i target = true) :
    MetAtOnce who k i target s (beginWait who k i target s) := by
  have hnew (w : Wait) (hw : w.who = who) : w ∉ s.waits := fun hmem => hnone w hmem hw
  generalize hw : ({ who := who, kind := k, idx := i, target := target, start := s.now } : Wait) = w
  have hfields : w.who = who ∧ w.kind = k ∧ w.idx = i ∧ w.target = target := by
    subst hw
    exact ⟨rfl, rfl, rfl, rfl⟩
  obtain ⟨hwho, hk, hi, htgt⟩ := hfields
  have hbegin : beginWait who k i target s = meetWait w { s with waits := s.waits ++ [w] } := by
    rw [beginWait, hw]
    subst hwho hk hi htgt
    exact pollWait_met hcheck hmet
  rw [hbegin, meetWait_answers (hwho ▸ hq), hwho, hk, hi]
  have htake := takeSem_frame k i target { s with waits := s.waits ++ [w] }
  have hsem := takeSem_sem_congr k i target (s := s) (t := { s with waits := s.waits ++ [w] }) rfl
  have hval : metValue k i { s with waits := s.waits ++ [w] } = metValue k i s := by
    cases k <;> rfl
  have htaken : waitTaken w { s with waits := s.waits ++ [w] } =
      { s with sem := (takeSem k i target s).sem, dld := (takeSem k i target { s with waits := s.waits ++ [w] }).dld } := by
    rw [waitTaken, hk, hi, htgt, ← hsem]
    generalize takeSem k i target { s with waits := s.waits ++ [w] } = u at htake ⊢
    generalize u.sem = a, u.dld = b at htake ⊢
    subst htake
    dsimp only
    rw [filter_append_self (hnew w hwho)]
  rw [htaken, hval]
  have hdld : k ≠ .semTake → (takeSem k i target { s with waits := s.waits ++ [w] }).dld = s.dld := fun hk => by
    rw [takeSem_id hk]
  generalize (takeSem k i target { s with waits := s.waits ++ [w] }).dld = d at hdld ⊢
  generalize hv : metValue k i s = v
  have hret := returnVal_eq who v { s with sem := (takeSem k i target s).sem, dld := d }
  rw [waiterId_congr (s := s) (t := { s with sem := (takeSem k i target s).sem, dld := d }) rfl] at hret
  generalize returnVal who v { s with sem := (takeSem k i target s).sem, dld := d } = t at hret ⊢
  generalize t.vc = a at hret
  generalize hb : (takeSem k i target s).sem = b at hret
  subst hret
  exact ⟨rfl, by rw [hv], hb.symm, hdld, rfl⟩

/-- The wait of an agent, its engine stalled meanwhile, where its condition holds. -/
theorem stalledWait_met {who : Who} {k : WaitKind} {i : Nat} {target : Int} {s : Sled} (hq : isQueue who = false)
    (hnone : ∀ y ∈ s.waits, y.who ≠ who) (hcheck : objCheck s who (k.obj = 1) i = none) (hmet : waitMet s k i target = true) :
    MetAtOnce who k i target s (beginWait who k i target (stallSe who s)) := by
  have hstall := stallSe_frame who s
  generalize stallSe who s = u at hstall ⊢
  generalize u.vc = a at hstall
  subst hstall
  obtain ⟨hwaits, houts, hsem, hdld, hframe⟩ := beginWait_met (s := { s with vc := a }) hq hnone hcheck hmet
  generalize beginWait who k i target { s with vc := a } = t at hwaits houts hsem hdld hframe ⊢
  refine ⟨hwaits, ?_, hsem.trans (takeSem_sem_congr k i target rfl), hdld, ?_⟩
  · rw [houts, waiterId_congr (s := s) (t := { s with vc := a }) rfl]
    cases k <;> rfl
  · generalize t.waits = b, t.outs = c, t.sem = d, t.dld = e, t.vc = f at hframe ⊢
    subst hframe
    rfl

/-- And where it does not: the wait is pending. -/
theorem stalledWait_pends {who : Who} {k : WaitKind} {i : Nat} {target : Int} {s : Sled}
    (hnone : ∀ y ∈ s.waits, y.who ≠ who) (hcheck : objCheck s who (k.obj = 1) i = none) (hmet : waitMet s k i target = false)
    {t : Sled} (ht : beginWait who k i target (stallSe who s) = t) :
    t.waits = s.waits ++ [{ who := who, kind := k, idx := i, target := target, start := s.now, lastVal := waitSlot s k i }] ∧
      t = { s with waits := t.waits, vc := t.vc } := by
  have hstall := stallSe_frame who s
  generalize stallSe who s = u at hstall ht
  generalize u.vc = a at hstall
  subst hstall
  have henter := beginWait_enters (s := { s with vc := a }) (fun hmem => hnone _ hmem rfl) hcheck hmet
  rw [henter] at ht
  subst ht
  have hslot : waitSlot { s with vc := a } k i = waitSlot s k i := by
    cases k <;> rfl
  exact ⟨by rw [hslot], rfl⟩

section
variable {s : State} {a : Agent} {m : BitVec 8} (hsync : canSync s.sled a = true) (hmod : m.toNat = moduleId s.sled)
  (hnoc : islRuns s.sled iNOC = true) (hvf : ∀ k, a ≠ .vf k)
include hsync hmod hnoc hvf

/-- A core's wait on an object of this sled. -/
theorem coreWait_here (k : WaitKind) (i x : Nat) (bad : Bool) (target : Int) :
    coreWait a m.toNat k i x bad target s.sled = if bad then
        returnVal (whoAgent s.sled a) (failed (waitSlot s.sled k i)) (logSync 0x1008 (whoAgent s.sled a) k.obj i x 0 s.sled)
      else beginWait (whoAgent s.sled a) k i target (stallSe (whoAgent s.sled a) s.sled) := by
  cases a with
  | vf k => exact absurd rfl (hvf k)
  | pf => simp [canSync] at hsync
  | cc _ | keeper | se _ => rw [coreWait, syncCmd_here hsync hmod hnoc]

theorem exec_counterWait_here (i : BitVec 14) (x : Word) : exec (.counterWait a m i x) s = .next { s with
    sled := if 2 ^ 48 ≤ x.toNat then
        returnVal (whoAgent s.sled a) (failed (ctrSlot (getCtr s.sled i.toNat)))
          (logSync 0x1008 (whoAgent s.sled a) 0 i.toNat x.toNat 0 s.sled)
      else beginWait (whoAgent s.sled a) .counter i.toNat x.toNat (stallSe (whoAgent s.sled a) s.sled) } := by
  refine lift_next ?_
  rw [fxCounterWait, coreWait_here hsync hmod hnoc hvf]
  simp only [decide_eq_true_eq]
  rfl

theorem exec_semaphoreWait_here (i : BitVec 16) {n : Word} (hn : n.toNat < 2 ^ 31) : exec (.semaphoreWait a m i n) s =
    .next { s with sled := beginWait (whoAgent s.sled a) .semWait i.toNat n.toNat (stallSe (whoAgent s.sled a) s.sled) } := by
  have hok : semOperandOk n.toNat = true := by
    have h0 : bitsOf n.toNat 32 32 = 0 := by
      rw [bitsOf, Nat.div_eq_of_lt (by omega), Nat.zero_mod]
    rw [semOperandOk, h0]
    rfl
  refine lift_next ?_
  rw [fxSemaphoreWait, coreWait_here hsync hmod hnoc hvf, hok, sNat_of_lt hn]
  rfl

end

/-! ### Pending waits -/

/-- An event of any function leaves the registers below the host port's. -/
theorem rGet_vfEvent_below {blk off : Nat} (ho : off < 0x100000) (hb : blk < bHST) (t b : Nat) (s : Sled) :
    rGet (vfEvent t b s) blk off = rGet s blk off := by
  have hne : regKey blk off ≠ regKey bHST (0x100 + 8 * (t + 1)) := by
    simp only [regKey, bHST] at hb ⊢
    omega
  simp only [vfEvent]
  split
  · rfl
  · split
    · rfl
    · rw [rGet_congr (msixSend_regs_eq ..)]
      exact rGet_rSet_other _ _ _ _ hne

/-- Logging leaves the registers below the host port's, but for the keeper's. -/
theorem rGet_logRec_below {blk off : Nat} (ho : off < 0x100000) (hb : blk < bHST) (hk : blk ≠ bKPR) (r : Rec) (s : Sled)
    :
    rGet (logRec r s) blk off = rGet s blk off := by
  have hcount : (recCount r s).regs = s.regs := by
    unfold recCount
    split <;> rfl
  rw [logRec, recPlace]
  split
  · have halert : (recAlert (recStamp s r) (recEnter (recStamp s r) (recCount r s))).regs = (recCount r s).regs := by
      unfold recAlert
      split <;> rfl
    rw [recTell]
    split
    · rw [rGet_vfEvent_below ho hb, rGet_congr halert, rGet_congr hcount]
    · rw [rGet_congr halert, rGet_congr hcount]
  · rw [dropRec, bump, bumpN, rGet_rSet_ne _ _ ho (by decide) fun h => hk (Prod.mk.inj h).1]
    exact rGet_congr hcount ..

/-- A wait of no queue that fails. -/
theorem failWait_answers {w : Wait} (hq : isQueue w.who = false) (code : Nat) (s : Sled) :
    failWait w code s = returnVal w.who (failed w.lastVal)
      (logSyncAt (w.mod.getD (moduleId s)) code w.who w.kind.obj w.idx (iNat 32 w.target) w.lastVal
        { s with waits := s.waits.filter (· ≠ w) }) := by
  rw [failWait]
  simp only [hq, Bool.not_false, if_true]
  rfl

theorem returnVal_frame (w : Who) (v : Nat) (s : Sled) :
    returnVal w v s = { s with outs := (returnVal w v s).outs, vc := (returnVal w v s).vc } := by
  have h := returnVal_eq w v s
  generalize returnVal w v s = t at h ⊢
  generalize t.vc = a at h ⊢
  subst h
  rfl

/-- What a wait that times out leaves. -/
theorem failWait_timedOut {w : Wait} {s t : Sled} (hq : isQueue w.who = false) (ht : failWait w 0x1001 s = t) :
    t.waits = s.waits.filter (fun y => decide (y ≠ w)) ∧ t.ctr = s.ctr ∧ t.sem = s.sem ∧
      Out.value (waiterId s w.who) (failed w.lastVal) ∈ t.outs ∧
      rGet t bSYN 0x300 = min (rGet s bSYN 0x300 + 1) (if kt3 s then 0xFFFF else 0xFFFFFFFF) := by
  rw [failWait_answers hq, logSyncAt_eq, if_pos rfl] at ht
  have hbump := bumpN_frame bSYN 0x300 1 { s with waits := s.waits.filter (· ≠ w) }
  have hcount := rGet_bumpN bSYN 0x300 1 { s with waits := s.waits.filter (· ≠ w) }
  rw [bump] at ht
  generalize bumpN bSYN 0x300 1 { s with waits := s.waits.filter (· ≠ w) } = u at hbump hcount ht
  generalize syncRec _ _ _ _ _ _ _ _ = r at ht
  have hlog := logRec_frame r u
  have hreg := rGet_logRec_below (off := 0x300) (by decide) (show bSYN < bHST by decide) (by decide) r u
  generalize logRec r u = v at hlog hreg ht
  have hret := returnVal_eq w.who (failed w.lastVal) v
  have hplat : v.plat = s.plat := by
    have hu : u.plat = s.plat := by rw [hbump]
    rw [hlog]
    exact hu
  rw [ht, waiterId_congr hplat] at hret
  have hv : v.waits = s.waits.filter (· ≠ w) ∧ v.ctr = s.ctr ∧ v.sem = s.sem := by
    generalize v.kpr = a, v.regs = b, v.hst = c, v.outs = d at hlog
    generalize u.regs = e at hbump
    subst hlog
    subst hbump
    exact ⟨rfl, rfl, rfl⟩
  obtain ⟨hw, hc, hs⟩ := hv
  refine ⟨by rw [hret]; exact hw, by rw [hret]; exact hc, by rw [hret]; exact hs, ?_, ?_⟩
  · rw [hret]
    exact List.mem_append_right _ List.mem_cons_self
  · have hregs : t.regs = v.regs := by rw [hret]
    rw [rGet_congr hregs, hreg, hcount]
    rfl

/-- The wait of no queue whose condition holds, at a poll or at its time limit. -/
theorem meetWait_agent {w : Wait} {s : Sled} (hq : isQueue w.who = false) (hse : w.who.kind ≠ 3) (hk : w.kind ≠
    .semTake) :
    meetWait w s = { s with waits := s.waits.filter (fun y => decide (y ≠ w))
                            outs := s.outs ++ [.value (waiterId s w.who) (waitSlot s w.kind w.idx)] } := by
  have htaken : waitTaken w s = { s with waits := s.waits.filter (fun y => decide (y ≠ w)) } := by
    rw [waitTaken, takeSem_id hk]
  rw [meetWait_answers hq, htaken, metValue, if_neg hk, returnVal, wakeSe, if_neg hse]
  rfl

theorem exec_waitPoll_local {s : State} {k : Fin 256} {w : Wait} (hk : s.sled.waits[k.val]? = some w) (hmod : w.mod =
    none) :
    exec (.waitPoll k) s = .next { s with sled := pollWait w s.sled } := by
  refine lift_next ?_
  rw [fxWaitPoll, hk]
  simp only [hmod]

/-- Settles O35: a wait's first poll, its later ones and its time limit. -/
theorem waitsEndEnterPollAndTimeOut : Obligations.WaitsEndEnterPollAndTimeOut := by
  unfold Obligations.WaitsEndEnterPollAndTimeOut
  refine ⟨?_, ?_, ?_, ?_, ?_, ?_, ?_⟩
  · intro s a m i x hsync hvf hmod hnoc hx hcheck hnone
    have hex := exec_counterWait_here hsync hmod hnoc hvf i x
    rw [if_neg (by omega)] at hex
    refine ⟨fun hmet => ?_, fun hmet => ?_⟩
    · obtain ⟨hwaits, houts, hsem, hdld, hframe⟩ :=
        stalledWait_met (k := .counter) (isQueue_whoAgent s.sled a) hnone hcheck hmet
      refine ⟨_, hex, rfl, hwaits, houts, ?_⟩
      have hsem : _ = s.sled.sem := hsem
      have hdld := hdld (by decide)
      rw [hsem, hdld] at hframe
      exact hframe
    · exact ⟨_, hex, rfl, stalledWait_pends (k := .counter) hnone hcheck hmet rfl⟩
  · intro s a m i x hsync hvf hmod hnoc hx
    have hex := exec_counterWait_here hsync hmod hnoc hvf i x
    rwa [if_pos hx] at hex
  · intro s a m i n hsync hvf hmod hnoc hpos hn hcheck hnone
    have htake := exec_semaphoreTake_here hsync hmod hnoc hvf i hpos hn
    have hwait := exec_semaphoreWait_here hsync hmod hnoc hvf i hn
    refine ⟨fun hle => ⟨⟨_, htake, rfl, ?_⟩, _, hwait, rfl, ?_⟩, fun hlt => ⟨⟨_, htake, rfl, ?_⟩, _, hwait, rfl, ?_⟩⟩
    · obtain ⟨hwaits, houts, hsem, -, -⟩ := stalledWait_met (k := .semTake) (target := n.toNat) (isQueue_whoAgent s.sled a) hnone
        hcheck (decide_eq_true hle)
      obtain ⟨hsame, hother, -⟩ := semAdded_keeps i.toNat { getSem s.sled i.toNat with
        count := (getSem s.sled i.toNat).count - n.toNat } s.sled rfl
      exact ⟨hwaits, (getSem_congr hsem _).trans hsame, fun j hj => (getSem_congr hsem _).trans (hother j hj), houts⟩
    · obtain ⟨hwaits, houts, hsem, -, -⟩ := stalledWait_met (k := .semWait) (target := n.toNat) (isQueue_whoAgent s.sled a) hnone
        hcheck (decide_eq_true hle)
      exact ⟨hwaits, hsem, houts⟩
    · obtain ⟨hwaits, hframe⟩ := stalledWait_pends (k := .semTake) (target := n.toNat) hnone hcheck
        (decide_eq_false (not_le.2 hlt)) rfl
      exact ⟨by rw [hframe], hwaits⟩
    · obtain ⟨hwaits, hframe⟩ := stalledWait_pends (k := .semWait) (target := n.toNat) hnone hcheck
        (decide_eq_false (not_le.2 hlt)) rfl
      exact ⟨by rw [hframe], hwaits⟩
  · intro s k w hk hmod hcheck hmet
    rw [exec_waitPoll_local hk hmod, pollWait_unmet hcheck hmet]
  · intro s k w hk hmod hq hse hkind hcheck hmet
    refine ⟨?_, lift_next ?_⟩
    · rw [exec_waitPoll_local hk hmod, pollWait_met hcheck hmet, meetWait_agent hq hse hkind]
    · rw [fxWaitTimeout, hk]
      simp only [hmod, hcheck, hmet, and_self, if_true]
      exact meetWait_agent hq hse hkind
  · intro s k w hk hmod hq hmet
    have hfx : fxWaitTimeout k.val s.sled = failWait w 0x1001 s.sled := by
      rw [fxWaitTimeout, hk]
      simp only [hmet, Bool.false_eq_true, and_false, if_false]
    exact ⟨_, lift_next hfx, rfl, failWait_timedOut hq rfl⟩
  · intro s k hk
    refine ⟨lift_next ?_, lift_next ?_⟩
    · rw [fxWaitPoll, hk]
    · rw [fxWaitTimeout, hk]

end Sys2Proof.Machine

/-! ## A wait of another sled's agent (O36: spec/12, R242)

The detector scans the waits that agents of its own sled hold. The clause on a tenant that only waits asks that the
*object* is local (`Wait.mod`), and not that the *waiter* is (`Who.mod`): for a waiter of another module, whose tenant
number this sled's queues do not carry, the scan finds no wait of the tenant and clears the count. -/
namespace Sys2Proof.Machine
open Sys2Proof

/-- A wait on a counter of this sled by a vault core of module 1, for tenant 0. -/
def foreignWait : Wait :=
  { who := { kind := 3, tenant := some 0, island := iVC 0, mod := some 1 }
    kind := .counter, idx := 0, target := 1, start := 0 }

/-- That wait is the only one, and tenant 0 has been found blocked in two scans of the three of SYN_DLD_CFG. -/
def foreignSled : Sled :=
  { isl := [(iCTL, { state := 2 })], clearing := false, waits := [foreignWait], dld := [(0, { blocked := 2 })] }

/-- The third scan starts the count anew. -/
theorem dld_deadlockScan_foreignSled : fget (fxDeadlockScan foreignSled).dld {} 0 = {} := by decide +kernel

/-- Refutes O36: `foreignSled` meets every hypothesis of the clause on a tenant that only waits, and is not reported. -/
theorem not_administrationAndDeadlockReport : ¬ Obligations.AdministrationAndDeadlockReport := by
  rintro ⟨-, -, -, -, -, hreport, -⟩
  obtain ⟨t, ht, -, hdld, -⟩ := hreport ⟨foreignSled, []⟩ 0 foreignWait (by decide +kernel) rfl rfl rfl (by decide)
    (by decide) (by decide) (by decide +kernel) (by decide +kernel) (by decide)
  obtain rfl : (⟨fxDeadlockScan foreignSled, []⟩ : State) = t := Host.Outcome.next.inj ht
  exact absurd (dld_deadlockScan_foreignSled.symm.trans hdld) (by decide)

end Sys2Proof.Machine

/-! ## The layout unit (O30: spec/13)

A move whose units are local and follow one another is gathered into one run (`luGo_gather`), which is written as a
whole at its end: a contiguous one-axis tensor is such a move (`unitAt_line`). -/
namespace Sys2Proof.Machine
open Sys2Proof

/-! ### A contiguous line of bytes -/

/-- A plain side of one axis of bytes. -/
def lineSide (base : Nat) : Side :=
  { mode := 0, space := 0, table := 0, base := base, stride := [1], origin := [0], porigin := [0], pshape := [0], clean := true }

/-- The move of `n` bytes from one address to another. -/
def lineTensor (n src dst : Nat) : Tensor :=
  { ndim := 1, esize := 1, custom := false, ccount := 0, perm := [0], ctable := 0, ext := [n], clean := true
    src := lineSide src, dst := lineSide dst }

theorem sideAddr_lineSide (b i : Nat) : sideAddr (lineSide b) [i] = ((b + i : Nat) : Int) := by
  simp [sideAddr, lineSide]

theorem unitCount_lineTensor (n a b : Nat) : unitCount (lineTensor n a b) = n := by
  simp [unitCount, lineTensor, prodN]

theorem elemIx_lineTensor {n i : Nat} (a b : Nat) (h : i < n) : elemIx (lineTensor n a b) i = ([i], [i]) := by
  simp [elemIx, lineTensor, lineSide, Tensor.dext, mixed, nth, Nat.mod_eq_of_lt h]

/-- First byte and end of a line. -/
theorem sideExtent_lineSide {x : Tensor} (b : Nat) {n : Nat} (hx : x.esize = 1) (hn : 0 < n) :
    sideExtent x (lineSide b) [n] = (((b : Nat) : Int), ((b + n : Nat) : Int)) := by
  have hlo : sideAddr (lineSide b) (lineSide b).origin = ((b : Nat) : Int) := sideAddr_lineSide b 0
  have hlen : (([n].zip (lineSide b).stride).foldl (fun a p => a + (p.1 - 1) * p.2) 0) + x.esize = n := by
    simp only [lineSide, List.zip_cons_cons, List.zip_nil_left, List.foldl_cons, List.foldl_nil, hx]
    omega
  simp only [sideExtent, hlo, hlen]
  rfl

theorem dext_lineTensor (n a b : Nat) : (lineTensor n a b).dext = [n] := rfl

/-- Two lines apart need no staging (R254). -/
theorem staged_lineTensor {n a b : Nat} (h : a + n ≤ b ∨ b + n ≤ a) (hn : 0 < n) :
    staged (lineTensor n a b) = false := by
  have ha : sideExtent (lineTensor n a b) (lineTensor n a b).src (lineTensor n a b).ext = _ := sideExtent_lineSide a rfl hn
  have hb : sideExtent (lineTensor n a b) (lineTensor n a b).dst (lineTensor n a b).dext = _ := sideExtent_lineSide b rfl hn
  have hnone : ¬ max (a : Int) b < min ((a + n : Nat) : Int) ((b + n : Nat) : Int) := by omega
  have hov : overlap (lineTensor n a b) = (0, 0) := by
    rw [overlap]
    split
    · rfl
    · rw [ha, hb]
      exact if_neg hnone
  rw [staged, hov]
  rfl

/-- Where byte `i` of a line lies. -/
theorem unitAt_line {s : Sled} {tenant n a b i : Nat} (os od : OwnerTab) (tab : List (List Nat)) (entry : Bool → Nat →
    Nat × Bool)
    (hi : i < n) (hoka : rowOk s tenant (a + i) 1 = true) (hokb : rowOk s tenant (b + i) 1 = true) :
    unitAt tenant (lineTensor n a b) os od tab entry i s = .inr (some { src := .at_ (a + i), dst := b + i, len := 1 }) := by
  have hix : unitIx (lineTensor n a b) i = some ([i], [i]) := by
    rw [unitIx, elemIx_lineTensor a b hi]
    rfl
  have hloc (x : Nat) (isDst : Bool) (ot : OwnerTab) (e : Nat → Nat × Bool) :
      locate (lineTensor n a b) (lineSide x) isDst ot e [i] s = .inl (x + i) := by
    rw [locate, if_neg (show (lineSide x).mode ≠ 2 from Nat.zero_ne_add_one 1), sideAddr_lineSide]
    rfl
  rw [unitAt, if_neg (by simp [lineTensor])]
  simp only [hix, show (lineTensor n a b).src = lineSide a from rfl, show (lineTensor n a b).dst = lineSide b from rfl, hloc]
  exact if_pos (Bool.and_eq_true_iff.2 ⟨hoka, hokb⟩)
/-! ### Gathering a run -/

/-- A run gathered from address `b` on. -/
def gathered (b : Nat) (l : List Byte) : LuOut := if l.isEmpty then (0, []) else (b, cleanBytes l)

/-- A unit of this sled's bytes joins the run before it. -/
theorem luGo_gather {c : LuCtx} {d : Desc} {n a b : Nat} {old : List Byte} {x : Byte} {r : LuRun} {s : Sled}
    (hhere : luHere s c.core d.id = true) (hcustom : c.x.custom = false) (hsrc : c.x.src.mode ≠ 2) (hdst : c.x.dst.mode ≠ 2)
    (hunit : unitAt c.tenant c.x c.os c.od c.tab (entOf r) (unitCount c.x - (n + 1)) s =
      .inr (some { src := .at_ a, dst := b + old.length, len := 1 }))
    (hloc : a / 2 ^ 40 = moduleId s) (hstage : c.stage = []) (hread : readLocal (a % 2 ^ 40) 1 s = (([(x, false)], true), s))
    (hundef : r.undef = []) :
    luGo c d (n + 1) (gathered b old) none r s = luGo c d n (gathered b (old ++ [x])) none r s := by
  have hent : luEntries c d.id (whoQ s c.core d.q) (unitCount c.x - (n + 1)) r s = some (r, s) := by
    rw [luEntries, hcustom]
    cases hix : unitIx c.x (unitCount c.x - (n + 1)) with
    | none => simp
    | some p => simp [luEntry, hsrc, hdst]
  have hmark (y : Nat) : luMark { d with lu := some r } y [(x, false)] = [(x, false)] :=
    markUndefined_none (p := fun i => r.undef.any fun x => x.1 ≤ y + i && y + i < x.1 + x.2) _ _ fun i _ => by
      rw [hundef]
      rfl
  have hlocal : (a / 2 ^ 40 != moduleId s) = false := by rw [hloc]; exact bne_self_eq_false _
  rw [luGo]
  simp only [hhere, hent, hunit, hlocal, hstage, List.getD_nil, hread, hmark, -Nat.reducePow]
  cases old with
  | nil => rfl
  | cons y l =>
    have hclean : anyPoison [(x, false)] = false := rfl
    simp [gathered, cleanBytes, hclean]

theorem memRead_succ_last (m : List Host.Cell) (a n : Nat) :
    memRead m a (n + 1) = memRead m a n ++ [memGet m (a + n)] := by
  induction n generalizing a with
  | zero => rfl
  | succ n ih => rw [memRead, ih, memRead, List.cons_append, Nat.add_right_comm, Nat.add_assoc]

/-- A line in the own scratchpad is gathered byte by byte. -/
theorem luGo_line {c : LuCtx} {d : Desc} {core n m a b : Nat} {r : LuRun} {s : Sled} (hcore : core < 8)
    (hruns : islRuns s (iVC core) = true) (hx : c.x = lineTensor n (m * 2 ^ 40 + a) (m * 2 ^ 40 + b)) (hm : m = moduleId s)
    (hown : ownScratch core a n) (hclear : s.clearing = false) (hecc : s.ecc = []) (hhere : luHere s c.core d.id = true)
    (hstage : c.stage = []) (hundef : r.undef = [])
    (hok : ∀ i < n, rowOk s c.tenant (m * 2 ^ 40 + a + i) 1 = true ∧ rowOk s c.tenant (m * 2 ^ 40 + b + i) 1 = true)
    (j : Nat) (hj : j ≤ n) :
    luGo c d j (gathered (m * 2 ^ 40 + b) (memRead s.mem (2 ^ 40 + a) (n - j))) none r s =
      luGo c d 0 (gathered (m * 2 ^ 40 + b) (memRead s.mem (2 ^ 40 + a) n)) none r s := by
  induction j with
  | zero => rfl
  | succ j ih =>
    have hlt := ownScratch_lt hcore hown
    have hi : n - (j + 1) < n := by omega
    have hcount : unitCount c.x = n := by rw [hx, unitCount_lineTensor]
    have hread := readLocal_scratch (s := s) (a := a + (n - (j + 1))) (n := 1) hcore hruns
      ⟨by have := hown.1; omega, by have := hown.2; omega⟩ hclear hecc
    have hunit := unitAt_line c.os c.od c.tab (entOf r) hi (hok _ hi).1 (hok _ hi).2
    rw [← hx] at hunit
    have hsplit : memRead s.mem (2 ^ 40 + a) (n - (j + 1)) ++ [memGet s.mem (2 ^ 40 + (a + (n - (j + 1))))] =
        memRead s.mem (2 ^ 40 + a) (n - j) := by
      rw [show n - j = n - (j + 1) + 1 by omega, memRead_succ_last, Nat.add_assoc]
    rw [← ih (by omega), ← hsplit]
    refine luGo_gather (a := m * 2 ^ 40 + a + (n - (j + 1))) hhere (by rw [hx]; rfl) (by rw [hx]; exact Nat.zero_ne_add_one 1)
      (by rw [hx]; exact Nat.zero_ne_add_one 1) ?_ (by omega) hstage ?_ hundef
    · rwa [hcount, length_memRead]
    · rw [show (m * 2 ^ 40 + a + (n - (j + 1))) % 2 ^ 40 = a + (n - (j + 1)) by omega, hread]
      rfl

/-! ### The end of a move -/

/-- Nothing lands where nothing was read. -/
theorem landOrdered_none {s : Sled} {id : Nat} (h : hasReads s id = false) (all : Bool) (n : Nat) :
    landOrdered id all n s = s := by
  have hreads : readsOf s id = [] := by simpa [hasReads] using h
  cases n with
  | zero => rfl
  | succ n =>
    rw [landOrdered]
    split
    · rfl
    · simp only [hreads, landGroup, List.take_nil, ite_self]

theorem setLu_vault {u : Nat} (hu : u < 8) (id : Nat) (r : LuRun) (s : Sled) :
    ∃ v, setLu u id r s = { s with vc := v } := by
  rw [setLu, setDescs, if_neg (by omega)]
  exact ⟨_, rfl⟩

/-- What the end of a move does to the sled that its last run left. -/
theorem luEnd_done {c : LuCtx} {d : Desc} (hcore : c.core < 8) (r : LuRun) {s : Sled} (hhere : luHere s c.core d.id =
    true)
    (hreads : hasReads s d.id = false) :
    ∃ r', luGo.luEnd c d r s = opDone c.core d.id (setLu c.core d.id r' s) := by
  refine ⟨{ { r with next := unitCount c.x, fin := true } with next := unitCount c.x }, ?_⟩
  obtain ⟨v, hv⟩ := setLu_vault hcore d.id { { r with next := unitCount c.x, fin := true } with next := unitCount c.x } s
  have hnone : hasReads (setLu c.core d.id { { r with next := unitCount c.x, fin := true } with next := unitCount c.x } s) d.id
      = false := by
    rw [hv]
    exact hreads
  rw [luGo.luEnd, if_pos hhere, luLand, luPause, if_pos hhere, landOrdered_none hnone]

theorem rowOk_free (s : Sled) (f t g n : Nat) : rowOk { s with free := f } t g n = rowOk s t g n := rfl

/-- The move of a line within the own scratchpad: its bytes are written as one run. -/
theorem luBegin_line {s t : Sled} {core n a b : Nat} {d : Desc} {r : LuRun} (hcore : core < 8)
    (hruns : islRuns s (iVC core) = true) (hmem : d ∈ descs s core) (hreads : hasReads s d.id = false)
    (hx : r.tensor = lineTensor n (moduleId s * 2 ^ 40 + a) (moduleId s * 2 ^ 40 + b)) (hn : 0 < n)
    (hap : a + n ≤ b ∨ b + n ≤ a) (howna : ownScratch core a n) (hownb : ownScratch core b n) (hclear : s.clearing = false)
    (hecc : s.ecc = [])
    (hok : ∀ i < n, rowOk s (qTen s core d.q) (moduleId s * 2 ^ 40 + a + i) 1 = true ∧
      rowOk s (qTen s core d.q) (moduleId s * 2 ^ 40 + b + i) 1 = true)
    (ht : writeLocal b (cleanBytes (memRead s.mem (2 ^ 40 + a) n))
      (progress (qTen s core d.q) { s with free := s.free + 1 }) = t)
    (hkeep : t.vc = s.vc ∧ t.ste = s.ste ∧ t.fab = s.fab) :
    ∃ r', luBegin core d r s = opDone core d.id (setLu core d.id r' t) := by
  obtain ⟨hvc, hste, hfab⟩ := hkeep
  have hb := ownScratch_lt hcore hownb
  have hhere : luHere s core d.id = true := List.any_eq_true.2 ⟨d, hmem, decide_eq_true rfl⟩
  have hheret : luHere t core d.id = true := by rw [luHere, descs_congr hvc hste]; exact hhere
  have hreadst : hasReads t d.id = false := by rw [hasReads, readsOf, allOut, hfab]; exact hreads
  have hstaged : staged (luCtx core d r s).x = false := by
    rw [show (luCtx core d r s).x = r.tensor from rfl, hx]
    exact staged_lineTensor (by omega) hn
  have hundef : luUndef (luCtx core d r s) s = [] := by
    rw [luUndef, show (luCtx core d r s).x = r.tensor from rfl, hx]
    exact if_pos ⟨Nat.zero_ne_add_one 1, Nat.zero_ne_add_one 1, rfl, rfl⟩
  have hokc : ∀ i < n, rowOk { s with free := s.free + 1 } (luCtx core d r s).tenant (moduleId s * 2 ^ 40 + a + i) 1 = true ∧
      rowOk { s with free := s.free + 1 } (luCtx core d r s).tenant (moduleId s * 2 ^ 40 + b + i) 1 = true := by
    intro i hi
    obtain ⟨ha, hb⟩ := hok i hi
    exact ⟨(rowOk_free s _ _ _ _).trans ha, (rowOk_free s _ _ _ _).trans hb⟩
  have hline := luGo_line (c := luCtx core d r s) (m := moduleId s) (a := a) (b := b) (d := d) (core := core) (s := { s with free := s.free + 1 })
    (r := { r with seed := s.free, undef := luUndef (luCtx core d r s) s }) hcore hruns hx rfl howna hclear hecc hhere rfl hundef
    hokc n le_rfl
  rw [Nat.sub_self] at hline
  obtain ⟨r', hend⟩ := luEnd_done (c := luCtx core d r s) (d := d) hcore
    { r with seed := s.free, undef := luUndef (luCtx core d r s) s } hheret hreadst
  refine ⟨r', ?_⟩
  have hwrite : luWrite (luCtx core d r s) d false (gathered (moduleId s * 2 ^ 40 + b) (memRead s.mem (2 ^ 40 + a) n))
      { s with free := s.free + 1 } = t := by
    have hne : (memRead s.mem (2 ^ 40 + a) n).isEmpty = false := by
      rw [List.isEmpty_eq_false_iff, ← List.length_pos_iff, length_memRead]
      exact hn
    have hwait : (luCtx core d r s).wait = false := by
      rw [show (luCtx core d r s).wait = (staged (luCtx core d r s).x && _) from rfl, hstaged, Bool.false_and]
    have hempty : (cleanBytes (memRead s.mem (2 ^ 40 + a) n)).isEmpty = false := by rw [cleanBytes, List.isEmpty_map, hne]
    have hwait' : (false || (luCtx core d r s).wait || hasReads { s with free := s.free + 1 } d.id) = false := by
      rw [hwait]
      exact hreads
    rw [gathered, hne, if_neg Bool.false_ne_true, luWrite, if_neg (by rw [hempty]; exact Bool.false_ne_true),
      if_neg (by rw [hwait']; exact Bool.false_ne_true), writeGlobal, global_div (by omega), global_mod (by omega)]
    exact (if_pos rfl).trans ht
  have hcount : unitCount (luCtx core d r s).x = n := by
    rw [show (luCtx core d r s).x = r.tensor from rfl, hx, unitCount_lineTensor]
  rw [luBegin]
  simp only [hstaged, Bool.false_and, Bool.false_eq_true, if_false]
  rw [hcount]
  refine hline.trans ?_
  rw [luGo, hwrite]
  exact hend

/-! ### The obligation -/

theorem queue_of_runsDesc {s : Sled} {core q k op : Nat} {d : Desc} (h : runsDesc s core q k d op) : d.q = q := by
  have hq := (List.mem_filter.1 (List.mem_of_getElem? h.1)).2
  simp only [Bool.and_eq_true, decide_eq_true_eq] at hq
  exact hq.1

/-- A fault of a vault core's descriptor takes no time of a channel. -/
theorem stall_descFault_vault {s t : Sled} {core : CoreId} {q : Fin 16} {d : Desc} (hq : d.q = q) {code a2 : Nat}
    (ht : descFault core d code a2 s = t) : t.stall = s.stall := by
  have hu : core.val ≤ 8 := Nat.le_of_lt core.isLt
  have hblk : qBlk core.val ≠ bHST ∧ qBlk core.val ≠ bKPR := by
    have hlay := qBlk_vault core.isLt
    exact ⟨by rw [hlay, bLAY, bHST]; omega, by rw [hlay, bLAY, bKPR]; omega⟩
  rw [← ht]
  exact (descFault_keeps hu (by omega) hblk code a2 s).2.2

theorem layoutStart_unreachable {s : Sled} {core : Nat} {d : Desc}
    (h : reachOk s (qTen s core d.q) (dField d 0x18 8) 384 = false) : layoutStart core d s = (.inl 0xB003, s) := by
  rw [layoutStart]
  simp only [h, Bool.not_false, if_true]

/-- Where a descriptor enters the list of waiters for the staging buffer. -/
theorem insWaiter_split (core : Nat) (s : Sled) (d : Desc) (l : List Nat) :
    ∃ a b, l = a ++ b ∧ insWaiter core s d l = a ++ d.id :: b ∧ (∀ i ∈ a, startOrder s core i ≤ d.order) ∧
      ∀ i, b.head? = some i → d.order < startOrder s core i := by
  induction l with
  | nil => exact ⟨[], [], rfl, rfl, by simp, by simp⟩
  | cons i l ih =>
    have heq : insWaiter core s d (i :: l) =
        if d.order < startOrder s core i then d.id :: i :: l else i :: insWaiter core s d l := rfl
    by_cases h : d.order < startOrder s core i
    · refine ⟨[], i :: l, rfl, by rw [heq, if_pos h]; rfl, by simp, fun j hj => ?_⟩
      obtain rfl : i = j := by simpa using hj
      exact h
    · obtain ⟨a, b, hl, hins, hle, hlt⟩ := ih
      refine ⟨i :: a, b, by rw [hl]; rfl, by rw [heq, if_neg h, hins]; rfl, fun j hj => ?_, hlt⟩
      obtain rfl | hj := List.mem_cons.1 hj
      · omega
      · exact hle j hj

theorem startOrder_setLu (core id : Nat) (r : LuRun) (s : Sled) (i : Nat) :
    startOrder (setLu core id r s) core i = startOrder s core i := by
  rw [startOrder, setLu, descs_setDescs, List.find?_map, startOrder]
  have hid : ((fun e : Desc => decide (e.id = i)) ∘ fun e => if e.id = id then { e with lu := some r } else e) =
      fun e => decide (e.id = i) := by
    funext e
    simp only [Function.comp]
    split <;> rfl
  rw [hid]
  cases (descs s core).find? fun e => decide (e.id = i) with
  | none => rfl
  | some e =>
    simp only [Option.map_some]
    split <;> rfl

/-- The kept progress of a descriptor. -/
theorem lu_setLu {core id : Nat} {r : LuRun} {s : Sled} {e : Desc} (h : e ∈ descs (setLu core id r s) core) (hid : e.id
    = id) :
    e.lu = some r := by
  rw [setLu, descs_setDescs, List.mem_map] at h
  obtain ⟨x, -, rfl⟩ := h
  split at hid
  next hx => rw [if_pos hx]
  next hx => exact absurd hid hx

/-- LAYOUT's start where the descriptor does not wait. -/
theorem fxLayout_start {s : Sled} {core q k : Nat} {d : Desc} (hd : runsDesc s core q k d 0x03) (hlu : d.lu = none)
    (hq : (fget s.vc {} core).stagingQ.contains d.id = false) :
    (reachOk s (qTen s core d.q) (dField d 0x18 8) 384 = false →
      fxLayout core q k s = descFault core d 0xB003 (tdArg core (dField d 0x18 8)) s) ∧
    ∀ r, layoutStart core d s = (.inr r, s) →
      (staged r.tensor = false → fxLayout core q k s = luBegin core d r s) ∧
      (staged r.tensor = true → ¬ ((fget s.vc {} core).staging = none ∧ (fget s.vc {} core).stagingQ = []) →
        fxLayout core q k s = { setLu core d.id r s with
          vc := fset (setLu core d.id r s).vc {} core { fget (setLu core d.id r s).vc {} core with
            stagingQ := insWaiter core (setLu core d.id r s) d (fget (setLu core d.id r s).vc {} core).stagingQ } }) := by
  rw [fxLayout, onStarted_run hd]
  simp only [hq, Bool.false_eq_true, if_false, hlu]
  refine ⟨fun h => by rw [layoutStart_unreachable h], fun r h => ?_⟩
  rw [h]
  refine ⟨fun hs => ?_, fun hs hbusy => ?_⟩
  · simp only [hs, Bool.not_false, if_true]
  · simp only [hs, Bool.not_true, Bool.false_eq_true, if_false, hbusy]

/-- A tensor's move waits behind the buffer's holder. -/
theorem fxLayout_waits {s t : Sled} {core q k : Nat} {d : Desc} {r : LuRun} (hd : runsDesc s core q k d 0x03) (hlu :
    d.lu = none)
    (hq : (fget s.vc {} core).stagingQ.contains d.id = false) (hstart : layoutStart core d s = (.inr r, s))
    (hs : staged r.tensor = true) (hbusy : ¬ ((fget s.vc {} core).staging = none ∧ (fget s.vc {} core).stagingQ = []))
    (ht : fxLayout core q k s = t) :
    ∃ a b, (fget s.vc {} core).stagingQ = a ++ b ∧ (fget t.vc {} core).stagingQ = a ++ d.id :: b ∧
      (∀ i ∈ a, startOrder s core i ≤ d.order) ∧ (∀ i, b.head? = some i → d.order < startOrder s core i) ∧
      (∀ e ∈ descs t core, e.id = d.id → e.lu = some r) ∧
      (fget t.vc {} core).staging = (fget s.vc {} core).staging ∧ t = { s with vc := t.vc } := by
  have hcore : core < 8 := hd.2.2.2.2
  have hset : setLu core d.id r s = { s with vc := fset s.vc {} core { fget s.vc {} core with
      descs := (descs s core).map fun e => if e.id = d.id then { e with lu := some r } else e } } := by
    rw [setLu, setDescs, if_neg (by omega)]
  have hv : fget (setLu core d.id r s).vc {} core = { fget s.vc {} core with
      descs := (descs s core).map fun e => if e.id = d.id then { e with lu := some r } else e } := by
    rw [hset]
    exact fget_fset_same ..
  rw [((fxLayout_start hd hlu hq).2 r hstart).2 hs hbusy] at ht
  obtain ⟨a, b, hl, hins, hle, hlt⟩ := insWaiter_split core (setLu core d.id r s) d (fget s.vc {} core).stagingQ
  have hord := startOrder_setLu core d.id r s
  have hlu' := fun e (he : e ∈ descs (setLu core d.id r s) core) => lu_setLu he
  have hvt : fget t.vc {} core = { fget (setLu core d.id r s).vc {} core with
      stagingQ := insWaiter core (setLu core d.id r s) d (fget (setLu core d.id r s).vc {} core).stagingQ } := by
    rw [← ht]
    exact fget_fset_same ..
  refine ⟨a, b, hl, ?_, fun i hi => hord i ▸ hle i hi, fun i hi => hord i ▸ hlt i hi, fun e he => hlu' e ?_, ?_, ?_⟩
  · rw [hvt, hv]
    exact hins
  · have hdescs : descs t core = descs (setLu core d.id r s) core := by
      rw [descs, if_neg (by omega), hvt, descs, if_neg (by omega)]
    rwa [hdescs] at he
  · rw [hvt, hv]
  · rw [← ht, hset]

/-- A core whose waiters for the staging buffer are `rest`. -/
def withStagingQ (core : Nat) (rest : List Nat) (s : Sled) : Sled :=
  { s with vc := fset s.vc {} core { fget s.vc {} core with stagingQ := rest } }

theorem descs_withStagingQ {core : Nat} (hcore : core < 8) (rest : List Nat) (s : Sled) :
    descs (withStagingQ core rest s) core = descs s core := by
  rw [descs, if_neg (by omega), descs, if_neg (by omega)]
  simp only [withStagingQ, fget_fset_same]

/-- A waiter that is gone leaves the list. -/
theorem fxLayoutStagingGrant_gone {s : Sled} {core id : Nat} {rest : List Nat} (hcore : core < 8)
    (hfree : (fget s.vc {} core).staging = none) (hq : (fget s.vc {} core).stagingQ = id :: rest)
    (hfind : (descs s core).find? (fun e => decide (e.id = id)) = none) :
    fxLayoutStagingGrant core s = withStagingQ core rest s := by
  rw [← descs_withStagingQ hcore rest] at hfind
  rw [fxLayoutStagingGrant]
  simp only [withStagingQ] at hfind
  split
  next hq' =>
    obtain ⟨rfl, rfl⟩ := List.cons_eq_cons.1 (hq'.symm.trans hq)
    simp only [hfind, withStagingQ]
  next hne => exact absurd hq (hne _ _ hfree)

/-- The buffer is given to the oldest waiter. -/
theorem fxLayoutStagingGrant_takes {s : Sled} {core id : Nat} {d : Desc} {r : LuRun} {rest : List Nat} (hcore : core <
    8)
    (hfree : (fget s.vc {} core).staging = none) (hq : (fget s.vc {} core).stagingQ = id :: rest)
    (hfind : (descs s core).find? (fun e => decide (e.id = id)) = some d) (hlu : d.lu = some r) :
    fxLayoutStagingGrant core s = luBegin core d r (holdStaging core id (withStagingQ core rest s)) := by
  rw [← descs_withStagingQ hcore rest] at hfind
  rw [fxLayoutStagingGrant]
  simp only [withStagingQ] at hfind
  split
  next hq' =>
    obtain ⟨rfl, rfl⟩ := List.cons_eq_cons.1 (hq'.symm.trans hq)
    simp only [hfind, hlu, withStagingQ]
  next hne => exact absurd hq (hne _ _ hfree)

/-- Settles O30: LAYOUT's fault, wait, grant and contiguous move. -/
theorem layoutCopiesWaitsAndIsGranted : Obligations.LayoutCopiesWaitsAndIsGranted := by
  unfold Obligations.LayoutCopiesWaitsAndIsGranted
  refine ⟨?fault, ?waits, ?waiting, ?stray, ?grant, ?copy⟩
  case fault =>
    intro s core q k d hd hlu hq hreach
    exact liftHold_next ((fxLayout_start hd hlu hq).1 hreach) (stall_descFault_vault (queue_of_runsDesc hd) rfl)
  case waits =>
    intro s core q k d r hd hlu hq hstart hs hbusy
    have hbusy' : ¬ ((fget s.sled.vc {} core).staging = none ∧ (fget s.sled.vc {} core).stagingQ = []) := fun h => by
      obtain hb | hb := hbusy
      · exact hb h.1
      · exact hb h.2
    obtain ⟨a, b, hl, hins, hle, hlt, hdone, hstaging, hframe⟩ := fxLayout_waits hd hlu hq hstart hs hbusy' rfl
    exact ⟨_, a, b, liftHold_next rfl (by rw [hframe]), rfl, hl, hins, hle, hlt, hdone, hstaging, hframe⟩
  case waiting =>
    intro s core q k d hd hq
    refine liftHold_next (f := fxLayout core q k) (u := s.sled) ?_ rfl
    rw [fxLayout, onStarted_run hd]
    simp only [hq, if_true]
  case stray =>
    intro s core id rest hfree hq hnone
    have hfind : (descs s.sled core).find? (fun e => e.id = id) = none := by simpa using hnone
    exact ⟨_, liftHold_next (fxLayoutStagingGrant_gone core.isLt hfree hq hfind) rfl, rfl, fget_fset_same .., rfl⟩
  case grant =>
    intro s core d r rest hfree hq hfind hlu
    have hfx := fxLayoutStagingGrant_takes core.isLt hfree hq hfind hlu
    refine ⟨fun h => liftHold_next hfx h, fun h => liftHold_wait (f := fxLayoutStagingGrant core) ?_⟩
    rwa [hfx]
  case copy =>
    intro s core q k d r n a b hd hlu hreads hq hstart htensor howna hownb hap _ hn _ _ hecc hclear hok
    have hdq := queue_of_runsDesc hd
    have hstaged : staged r.tensor = false := by
      rw [htensor]
      exact staged_lineTensor (by omega) hn
    obtain ⟨m, e, hw, hst⟩ := writeLocal_scratch (s := progress (qTen s.sled core d.q) { s.sled with free := s.sled.free + 1 })
      (l := memRead s.sled.mem (2 ^ 40 + a) n) core.isLt hd.2.1 (by simpa using hownb) hclear (.inl hecc)
    have hecct : e = s.sled.ecc := (hst.1 hecc).trans hecc.symm
    obtain ⟨r', hmove⟩ := luBegin_line (r := r) core.isLt hd.2.1 (mem_descs_of_started hd.1) hreads htensor hn hap howna hownb
      hclear hecc (hdq ▸ hok) hw ⟨rfl, rfl, rfl⟩
    have hfx := (((fxLayout_start hd hlu hq).2 r hstart).1 hstaged).trans hmove
    obtain ⟨v, hv⟩ := setLu_vault core.isLt d.id r'
      { progress (qTen s.sled core d.q) { s.sled with free := s.sled.free + 1 } with mem := m, ecc := e }
    obtain ⟨v', hv'⟩ := opDone_vault core.isLt d.id (setLu core d.id r'
      { progress (qTen s.sled core d.q) { s.sled with free := s.sled.free + 1 } with mem := m, ecc := e })
    rw [hv, hecct] at hv'
    rw [hv, hecct] at hfx
    refine ⟨_, liftHold_next (hfx.trans hv') rfl, rfl, fun y => ?_, fun e he => ?_, rfl⟩
    · refine (hst.get y).trans ?_
      rw [length_memRead]
      split
      next hy =>
        rw [List.getD_eq_getElem _ _ (by simp; omega), getElem_memRead]
        congr 1
        omega
      next => rfl
    · rw [← hv'] at he
      exact stage_opDone he

end Sys2Proof.Machine

/-! ## The scalar engine's cache (O31: spec/10, R204 to R208; spec/11, R215; spec/22, R432)

The cache is a map of lines (`getLine_setLine`); an access within a line that is present meets that line only. -/
namespace Sys2Proof.Machine
open Sys2Proof

/-! ### Lines -/

theorem ffind_ferase {α : Type} (m : FMap α) (k j : Nat) :
    ffind (ferase m k) j = if j = k then none else ffind m j := by
  induction m with
  | nil => simp [ferase]
  | cons p m ih =>
    obtain ⟨a, w⟩ := p
    rw [ferase]
    by_cases ha : a = k
    · rw [if_pos ha, ih]
      by_cases hj : j = k
      · rw [if_pos hj, if_pos hj]
      · rw [if_neg hj, if_neg hj, ffind, if_neg fun h => hj (h.symm.trans ha)]
    · rw [if_neg ha, ffind, ih]
      by_cases hj : j = k
      · rw [if_pos hj, if_pos hj, if_neg (fun h => ha (h.trans hj))]
      · rw [if_neg hj, if_neg hj, ffind]

theorem getLine_setLine (c k : Nat) (x : Option Line) (s : Sled) (j : Nat) :
    getLine (setLine c k x s) c j = if j = k then x else getLine s c j := by
  have hvc : fget (setLine c k x s).vc {} c = { fget s.vc {} c with cache := match x with
      | some l => fput (fget s.vc {} c).cache k l
      | none => ferase (fget s.vc {} c).cache k } := fget_fset_same ..
  rw [getLine, hvc]
  cases x with
  | none => exact ffind_ferase ..
  | some l =>
    by_cases hj : j = k
    · rw [if_pos hj, hj]
      exact ffind_fput_same ..
    · rw [if_neg hj]
      exact ffind_fput_other _ _ hj

theorem setLine_frame (c k : Nat) (x : Option Line) (s : Sled) : setLine c k x s = { s with vc := (setLine c k x s).vc }
    := rfl

theorem getLine_congr {s t : Sled} (h : t.vc = s.vc) (c k : Nat) : getLine t c k = getLine s c k := by
  rw [getLine, h, getLine]

theorem fillLine_present {c k : Nat} {s : Sled} {l : Line} (h : getLine s c k = some l) : fillLine c k s = s := by
  rw [fillLine, h]
  rfl

theorem flushLine_absent {c k : Nat} {s : Sled} (h : getLine s c k = none) : flushLine c k s = s := by rw [flushLine, h]

/-! ### Accesses of this sled -/

theorem seSplit_local {s : Sled} {a : Nat} (h : a < 2 ^ 40) : seSplit s a = some (none, a) := by rw [seSplit, if_pos h]

theorem f3Bytes_le (f3 : Nat) : 0 < f3Bytes f3 ∧ f3Bytes f3 ≤ 8 :=
  ⟨Nat.two_pow_pos _, Nat.pow_le_pow_right (n := 2) (by decide) (show f3 % 4 ≤ 3 by omega)⟩

/-- Neither the sync store nor registers are cached. -/
theorem uncached_regions {c l : Nat} (h : seCached c l = true) : inSync l = false ∧ regSplit l = none := by
  have hl : l < 2 ^ 39 ∨ (0x8000000000 ≤ l ∧ l < 0x800C000000) := by
    rw [seCached, Bool.or_eq_true, decide_eq_true_eq, decide_eq_true_eq] at h
    refine h.imp_right fun h => ?_
    rw [scratchOf] at h
    split at h
    next hin => exact hin
    next => cases h
  refine ⟨?_, ?_⟩
  · rw [inSync, decide_eq_false (by omega), Bool.false_and]
  · rw [regSplit, if_neg (by omega)]

/-- What a load of a cached address does. -/
theorem seLoadOp_cached {s : Sled} {vol : Bool} {c f3 rd a : Nat} (hact : seActs s c = true) (h7 : f3 ≠ 7) (ha : a < 2 ^
    40)
    (hcached : seCached c a = true) :
    seLoadOp vol c f3 rd a s =
      if !seReach s c a (f3Bytes f3) then seAddrFault c a false s
      else if vol then
        uncachedLoad c rd f3 a a (f3Bytes f3) (flushLine c ((a + f3Bytes f3 - 1) / 64) (flushLine c (a / 64) s))
      else seResult c rd f3 a (cacheLoad c 2 a (f3Bytes f3) s).1 (cacheLoad c 2 a (f3Bytes f3) s).2 := by
  rw [seLoadOp, hact, Bool.not_true, if_neg Bool.false_ne_true, if_neg h7]
  simp only [seSplit_local ha, hcached, Bool.not_true, Bool.false_eq_true, if_false]

/-- What a store to a cached address does. -/
theorem seStoreOp_cached {s : Sled} {vol : Bool} {c f3 a v : Nat} (hact : seActs s c = true) (h4 : f3 < 4) (ha : a < 2 ^
    40)
    (hcached : seCached c a = true) :
    seStoreOp vol c f3 a v s =
      if !seReach s c a (f3Bytes f3) then seAddrFault c a true s
      else if vol then
        uncachedStore c a a (f3Bytes f3) v (dropLine c ((a + f3Bytes f3 - 1) / 64)
          (flushLine c ((a + f3Bytes f3 - 1) / 64) (dropLine c (a / 64) (flushLine c (a / 64) s))))
      else cacheStore c 2 a (leBytes (f3Bytes f3) v) s := by
  rw [seStoreOp, hact, Bool.not_true, if_neg Bool.false_ne_true, if_neg (by omega)]
  simp only [seSplit_local ha, hcached, Bool.not_true, Bool.false_eq_true, if_false]

/-! ### Hits -/

theorem fst_lineBytes (l : Line) (o n : Nat) :
    (lineBytes l o n).map (·.1) = (List.range n).map fun i => BitVec.ofNat 8 (bitsOf l.data.toNat (8 * (o + i)) 8) := by
  rw [lineBytes, List.map_map]
  rfl

/-- The bytes of a value, read together. -/
theorem leNat_bitsOf (x o n : Nat) :
    leNat ((List.range n).map fun i => BitVec.ofNat 8 (bitsOf x (8 * (o + i)) 8)) = bitsOf x (8 * o) (8 * n) := by
  induction n generalizing o with
  | zero => simp [leNat, bitsOf, Nat.mod_one]
  | succ n ih =>
    have hlt : bitsOf x (8 * (o + 0)) 8 < 2 ^ 8 := bitsOf_lt ..
    have hmap : (List.range n).map ((fun i => BitVec.ofNat 8 (bitsOf x (8 * (o + i)) 8)) ∘ Nat.succ) =
        (List.range n).map fun i => BitVec.ofNat 8 (bitsOf x (8 * (o + 1 + i)) 8) :=
      List.map_congr_left fun i _ => by simp only [Function.comp, Nat.succ_eq_add_one, Nat.add_assoc, Nat.add_comm 1]
    rw [List.range_succ_eq_map, List.map_cons, List.map_map, hmap, leNat, ih, BitVec.toNat_ofNat, Nat.mod_eq_of_lt hlt,
      show 8 * (n + 1) = 8 + 8 * n by omega, bitsOf_add_len]
    rfl

/-- A load within a line that is present and free of poison. -/
theorem cacheLoad_hit {s : Sled} {c a n : Nat} {l : Line} (hn : 0 < n) (hin : a % 64 + n ≤ 64)
    (hl : getLine s c (a / 64) = some l) : cacheLoad c 2 a n s = (lineBytes l (a % 64) n, s) := by
  have hk : min n (64 - a % 64) = n := by omega
  rw [cacheLoad, if_neg (Nat.ne_of_gt hn)]
  simp only [fillLine_present hl, hl, hk, Nat.sub_self]
  rw [cacheLoad, if_pos rfl, List.append_nil]

theorem seResult_line {s : Sled} {c rd f3 a o : Nat} {l : Line} (hp : l.pois = 0) :
    seResult c rd f3 a (lineBytes l o (f3Bytes f3)) s =
      setX c rd (loadVal f3 (bitsOf l.data.toNat (8 * o) (8 * f3Bytes f3))) s := by
  have hclean : anyPoison (lineBytes l o (f3Bytes f3)) = false := by
    simp [anyPoison, lineBytes, hp, bitAt, bitsOf]
  rw [seResult, hclean, if_neg Bool.false_ne_true, fst_lineBytes, leNat_bitsOf]

theorem stall_setX (c rd v : Nat) (s : Sled) : (setX c rd v s).stall = s.stall := by
  rw [setX]
  split <;> rfl

/-- A store within a line that is present. -/
theorem cacheStore_hit {s : Sled} {c a : Nat} {d : List Byte} {l : Line} (hn : d ≠ []) (hin : a % 64 + d.length ≤ 64)
    (hl : getLine s c (a / 64) = some l) :
    cacheStore c 2 a d s = setLine c (a / 64) (some { l with
      data := BitVec.ofNat 512 (setBits l.data.toNat (8 * (a % 64)) (8 * d.length) (leNat d))
      dirty := l.dirty ||| BitVec.ofNat 64 ((2 ^ d.length - 1) * 2 ^ (a % 64)) }) s := by
  have hk : min d.length (64 - a % 64) = d.length := by omega
  have hne : d.isEmpty = false := by rwa [List.isEmpty_eq_false_iff]
  rw [cacheStore, if_neg (by rw [hne]; exact Bool.false_ne_true)]
  simp only [fillLine_present hl, hl, hk, List.drop_length, List.take_length]
  rfl

theorem toNat_setBits {w lo len : Nat} (x : BitVec w) (v : Nat) (h : lo + len ≤ w) :
    (BitVec.ofNat w (setBits x.toNat lo len v)).toNat = setBits x.toNat lo len v := by
  rw [BitVec.toNat_ofNat, Nat.mod_eq_of_lt (setBits_lt x.isLt h)]

/-- The line after a store: the bytes stored, and the others. -/
theorem storedLine (l : Line) {o n : Nat} (v : Nat) (hin : o + n ≤ 64) :
    bitsOf (BitVec.ofNat 512 (setBits l.data.toNat (8 * o) (8 * n) (leNat (leBytes n v)))).toNat (8 * o) (8 * n) =
      bitsOf v 0 (8 * n) ∧
    ∀ i, i < o ∨ o + n ≤ i →
      bitsOf (BitVec.ofNat 512 (setBits l.data.toNat (8 * o) (8 * n) (leNat (leBytes n v)))).toNat (8 * i) 8 =
        bitsOf l.data.toNat (8 * i) 8 := by
  rw [toNat_setBits l.data _ (by omega)]
  refine ⟨?_, fun i hi => bitsOf_setBits_other _ _ _ _ (by omega)⟩
  rw [bitsOf_setBits_same, leNat_leBytes, show 256 ^ n = 2 ^ (8 * n) by rw [Nat.pow_mul], Nat.mod_mod, bitsOf, Nat.pow_zero,
    Nat.div_one]

/-- The dirty bytes after a store. -/
theorem storedDirty (x : BitVec 64) (o n : Nat) (i : Fin 64) :
    (x ||| BitVec.ofNat 64 ((2 ^ n - 1) * 2 ^ o)).getLsbD i = (x.getLsbD i || decide (o ≤ i.val ∧ i.val < o + n)) := by
  rw [BitVec.getLsbD_or, BitVec.getLsbD_ofNat, decide_eq_true i.isLt, Bool.true_and, ← bitAt_eq_testBit, bitAt_byteMask]

/-! ### Faults -/

theorem stall_seFault (c cause tval : Nat) (s : Sled) : (seFault c cause tval s).stall = s.stall := by
  rw [seFault]
  split
  · rfl
  · have hwaits (u : Sled) (w : List Wait) : ({ u with waits := w } : Sled).stall = u.stall := rfl
    have hvc (u : Sled) (v : FMap Vc) : ({ u with vc := v } : Sled).stall = u.stall := rfl
    exact (hwaits _ _).trans ((rSet_stall ..).trans ((rSet_stall ..).trans (hvc s _)))

theorem stall_seAddrFault (c a : Nat) (store : Bool) (s : Sled) : (seAddrFault c a store s).stall = s.stall := by
  rw [seAddrFault, stall_seFault, logRec_stall]

/-! ### Flushes of the own scratchpad -/

/-- A store by mask into a word of an SRAM without errors. -/
theorem writeWord_mask {w mask : Nat} {d : List Byte} {s : Sled} (hw : w % 32 = 0) (hlo : 2 ^ 40 ≤ w) (hd : d.length =
    32)
    (hclear : s.clearing = false) (hecc : s.ecc = []) :
    ∃ m, writeWord w mask d s = { s with mem := m } ∧
      ∀ x, memGet m x = if h : w ≤ x ∧ x - w < 32 then (if bitAt mask (x - w) then d[x - w] else memGet s.mem x)
        else memGet s.mem x := by
  have hself : w / 32 * 32 = w := by omega
  have hclean : fset s.ecc 0 (w / 32) eClean = s.ecc := by rw [hecc]; rfl
  have hstore : writeWord w mask d s = storeWord w mask d s := by
    simp only [writeWord, heldWrite, writeRaw, hself, if_neg (Nat.not_lt.2 hlo), hclear, Bool.false_eq_true, if_false]
  rw [hstore, storeWord, hself]
  by_cases hfull : mask = 2 ^ 32 - 1
  · refine ⟨memWrite s.mem w d, ?_, fun x => ?_⟩
    · rw [if_pos hfull, hclean]
    · rw [memGet_memWrite]
      simp only [hd]
      split
      next h =>
        have hbit : bitAt mask (x - w) = true := by
          rw [hfull, show 2 ^ 32 - 1 = (2 ^ 32 - 1) * 2 ^ 0 from rfl, bitAt_byteMask]
          exact decide_eq_true ⟨Nat.zero_le _, by omega⟩
        rw [hbit, if_pos rfl]
      next => rfl
  · refine ⟨memWrite s.mem w (mergeBytes mask (memRead s.mem w 32) d), ?_, fun x => ?_⟩
    · rw [if_neg hfull, readRaw_clean (by omega) hecc, hself]
      simp only [hclean]
    · rw [memGet_memWrite]
      simp only [length_mergeBytes, length_memRead]
      split
      next h =>
        rw [getElem_mergeBytes _ _ _ _ (by simpa using h.2) (by omega), getElem_memRead, Nat.add_sub_cancel' h.1]
      next => rfl

/-- What a byte of a line flushed into the own scratchpad leaves in memory. -/
def flushedByte (l : Line) (old : Byte) (i : Nat) : Byte :=
  if bitAt l.dirty.toNat i then BitVec.ofNat 8 (bitsOf l.data.toNat (8 * i) 8) else old

theorem bitAt_bitsOf (x lo len i : Nat) (h : i < len) : bitAt (bitsOf x lo len) i = bitAt x (lo + i) := by
  rw [bitAt_eq_testBit, bitAt_eq_testBit, bitsOf, Nat.testBit_mod_two_pow, decide_eq_true h, Bool.true_and,
    Nat.testBit_div_two_pow, Nat.add_comm]

/-- A field of a field. -/
theorem bitsOf_bitsOf (x lo i : Nat) {len n : Nat} (h : i + n ≤ len) :
    bitsOf (bitsOf x lo len) i n = bitsOf x (lo + i) n := by
  refine Nat.eq_of_testBit_eq fun j => ?_
  simp only [bitsOf, Nat.testBit_mod_two_pow, Nat.testBit_div_two_pow]
  by_cases hj : j < n
  · rw [decide_eq_true hj, decide_eq_true (by omega : j + i < len), Bool.true_and, Bool.true_and, Bool.true_and,
      show j + i + lo = j + (lo + i) by omega]
  · rw [decide_eq_false hj, Bool.false_and, Bool.false_and]

/-- A byte of a number. -/
theorem getElem_leBytes (n x i : Nat) (h : i < (leBytes n x).length) :
    (leBytes n x)[i] = BitVec.ofNat 8 (bitsOf x (8 * i) 8) := by
  induction n generalizing x i with
  | zero => exact absurd h (by simp)
  | succ n ih =>
    cases i with
    | zero => 
      refine BitVec.eq_of_toNat_eq ?_
      simp only [leBytes, List.getElem_cons_zero, bitsOf, Nat.mul_zero, Nat.pow_zero, Nat.div_one, BitVec.toNat_ofNat,
        Nat.mod_mod]
    | succ i =>
      simp only [leBytes, List.getElem_cons_succ]
      rw [ih, bitsOf, bitsOf, Nat.div_div_eq_div_mul, show 8 * (i + 1) = 8 + 8 * i by omega, Nat.pow_add]

/-- Half of a line is flushed into the own scratchpad. -/
theorem flushHalf_own {s : Sled} {core k : Nat} (h : Nat) {l : Line} (hcore : core < 8) (hruns : islRuns s (iVC core) =
    true)
    (hown : ownScratch core (k * 64) 64) (hh : h < 2) (hclear : s.clearing = false) (hecc : s.ecc = []) :
    ∃ m, flushHalf core k h l s = { s with mem := m } ∧
      ∀ x, memGet m x = if 2 ^ 40 + (k * 64 + 32 * h) ≤ x ∧ x < 2 ^ 40 + (k * 64 + 32 * h) + 32 then
        flushedByte l (memGet s.mem x) (x - (2 ^ 40 + k * 64)) else memGet s.mem x := by
  obtain ⟨hlo, hhi⟩ := hown
  have hplace : placeOf s (k * 64 + 32 * h) = some (2 ^ 40 + (k * 64 + 32 * h)) := placeOf_own hcore hruns (by omega) (by omega)
  have hbit (x : Nat) (hx : 2 ^ 40 + (k * 64 + 32 * h) ≤ x ∧ x < 2 ^ 40 + (k * 64 + 32 * h) + 32) :
      bitAt (bitsOf l.dirty.toNat (32 * h) 32) (x - (2 ^ 40 + (k * 64 + 32 * h))) =
        bitAt l.dirty.toNat (x - (2 ^ 40 + k * 64)) := by
    rw [bitAt_bitsOf _ _ _ _ (by omega), show 32 * h + (x - (2 ^ 40 + (k * 64 + 32 * h))) = x - (2 ^ 40 + k * 64) by omega]
  rw [flushHalf]
  by_cases hmask : bitsOf l.dirty.toNat (32 * h) 32 = 0
  · refine ⟨s.mem, if_pos hmask, fun x => ?_⟩
    split
    next hx =>
      have hclean : bitAt l.dirty.toNat (x - (2 ^ 40 + k * 64)) = false := by
        rw [← hbit x hx, hmask]
        simp [bitAt]
      rw [flushedByte, hclean, if_neg Bool.false_ne_true]
    next => rfl
  · rw [if_neg hmask, hplace]
    obtain ⟨m, hm, hget⟩ := writeWord_mask (w := 2 ^ 40 + (k * 64 + 32 * h)) (mask := bitsOf l.dirty.toNat (32 * h) 32)
      (d := leBytes 32 (bitsOf l.data.toNat (256 * h) 256)) (by omega) (by omega) (length_leBytes ..) hclear hecc
    refine ⟨m, hm, fun x => ?_⟩
    rw [hget]
    by_cases hx : 2 ^ 40 + (k * 64 + 32 * h) ≤ x ∧ x < 2 ^ 40 + (k * 64 + 32 * h) + 32
    · rw [dif_pos ⟨hx.1, by omega⟩, if_pos hx, hbit x hx, flushedByte, getElem_leBytes]
      have hbyte : bitsOf (bitsOf l.data.toNat (256 * h) 256) (8 * (x - (2 ^ 40 + (k * 64 + 32 * h)))) 8 =
          bitsOf l.data.toNat (8 * (x - (2 ^ 40 + k * 64))) 8 := by
        rw [bitsOf_bitsOf _ _ _ (by omega), show 256 * h + 8 * (x - (2 ^ 40 + (k * 64 + 32 * h))) =
          8 * (x - (2 ^ 40 + k * 64)) by omega]
      rw [hbyte]
    · rw [dif_neg (by omega), if_neg hx]

/-- A line is flushed into the own scratchpad. -/
theorem flushLine_own {s : Sled} {core k : Nat} {l : Line} (hcore : core < 8) (hruns : islRuns s (iVC core) = true)
    (hown : ownScratch core (k * 64) 64) (hclear : s.clearing = false) (hecc : s.ecc = []) (hl : getLine s core k = some l) :
    ∃ m, flushLine core k s = setLine core k (some { l with dirty := 0 }) { s with mem := m } ∧
      ∀ x, memGet m x = if 2 ^ 40 + k * 64 ≤ x ∧ x < 2 ^ 40 + k * 64 + 64 then
        flushedByte l (memGet s.mem x) (x - (2 ^ 40 + k * 64)) else memGet s.mem x := by
  obtain ⟨m₀, h₀, hget₀⟩ := flushHalf_own (s := s) 0 (l := l) hcore hruns hown (by omega) hclear hecc
  obtain ⟨m₁, h₁, hget₁⟩ := flushHalf_own (s := { s with mem := m₀ }) 1 (l := l) hcore hruns hown (by omega) hclear hecc
  refine ⟨m₁, ?_, fun x => ?_⟩
  · rw [flushLine, hl]
    simp only [h₀, h₁]
  · rw [hget₁]
    by_cases hx₁ : 2 ^ 40 + (k * 64 + 32 * 1) ≤ x ∧ x < 2 ^ 40 + (k * 64 + 32 * 1) + 32
    · rw [if_pos hx₁, if_pos (by omega), hget₀, if_neg (by omega)]
    · rw [if_neg hx₁, hget₀]
      by_cases hx₀ : 2 ^ 40 + (k * 64 + 32 * 0) ≤ x ∧ x < 2 ^ 40 + (k * 64 + 32 * 0) + 32
      · rw [if_pos hx₀, if_pos (by omega)]
      · rw [if_neg hx₀, if_neg (by omega)]

/-! ### Flushes of any line -/

/-- What a write-back may change. -/
def BackFrame (s t : Sled) : Prop :=
  t = { s with mem := t.mem, ecc := t.ecc, kpr := t.kpr, regs := t.regs, hst := t.hst, outs := t.outs }

theorem BackFrame.refl (s : Sled) : BackFrame s s := rfl

theorem BackFrame.trans {s t u : Sled} (h : BackFrame s t) (h' : BackFrame t u) : BackFrame s u := by
  unfold BackFrame at h h'
  generalize t.mem = a, t.ecc = b, t.kpr = c, t.regs = d, t.hst = e, t.outs = f at h
  subst h
  exact h'

theorem backFrame_logRec (r : Rec) (s : Sled) : BackFrame s (logRec r s) := by
  have h := logRec_frame r s
  unfold BackFrame
  generalize logRec r s = t at h ⊢
  generalize t.kpr = a, t.regs = b, t.hst = c, t.outs = d at h
  subst h
  rfl

theorem backFrame_spareTrigger (st r : Nat) (s : Sled) : BackFrame s (spareTrigger st r false s).2 := by
  unfold spareTrigger
  split
  · exact .refl s
  · split
    · exact .refl s
    · split
      · rfl
      · exact backFrame_logRec ..

theorem backFrame_freshUe (c : Coord) (s : Sled) : BackFrame s (freshUe c s) := by
  have hset (blk off v : Nat) : BackFrame s (rSet blk off v s) := rfl
  simp only [freshUe]
  have hlog (v : Nat) := (hset (bMC c.stack) (0x400 + 8 * c.rank) v).trans (backFrame_logRec (recDram 0x3001 c) _)
  split
  · exact (hlog _).trans (backFrame_spareTrigger ..)
  · exact hlog _

theorem backFrame_readRaw (p : Nat) (s : Sled) : BackFrame s (readRaw p s).2 := by
  have hpoison (w : Nat) : BackFrame s (poisonAt w s) := by
    unfold poisonAt
    generalize poisonBytes = l
    rfl
  unfold readRaw
  simp only
  split
  · exact .refl s
  · split
    · exact .refl s
    · split
      · split
        · exact (hpoison _).trans (backFrame_freshUe ..)
        · exact (hpoison _).trans (backFrame_logRec ..)
      · split
        · rfl
        · exact .refl s

theorem backFrame_storeWord (p mask : Nat) (d : List Byte) (s : Sled) : BackFrame s (storeWord p mask d s) := by
  have hmem (u : Sled) (m : List Host.Cell) (e : FMap Nat) : BackFrame u { u with mem := m, ecc := e } := rfl
  have hread := backFrame_readRaw (p / 32 * 32) s
  rw [storeWord]
  split
  · exact hmem ..
  · generalize readRaw (p / 32 * 32) s = x at hread ⊢
    obtain ⟨⟨old, po⟩, u⟩ := x
    cases po
    · exact hread.trans (hmem u _ _)
    · exact hread

/-- A write that need not wait is not put off. -/
theorem backFrame_writeWord {p mask : Nat} {d : List Byte} {s : Sled} (h : heldWrite s (p / 32 * 32) = false) :
    BackFrame s (writeWord p mask d s) := by
  rw [writeWord, h, if_neg Bool.false_ne_true, writeRaw]
  simp only
  split
  next hlow =>
    rw [heldWrite, if_pos hlow, Bool.or_eq_false_iff] at h
    obtain ⟨-, hmirror⟩ := h
    cases hm : mirrorOf s (p / 32 * 32) with
    | some q =>
      simp only
      split
      · exact backFrame_storeWord ..
      · exact (backFrame_storeWord ..).trans (backFrame_storeWord ..)
    | none =>
      rw [hm, Option.isNone_none, Bool.and_true] at hmirror
      simp only [hmirror, Bool.false_eq_true, if_false]
      exact backFrame_storeWord ..
  next => exact backFrame_storeWord ..

theorem backFrame_flushHalf {c k h : Nat} {l : Line} {s : Sled} (hcalm : calm s) :
    BackFrame s (flushHalf c k h l s) := by
  rw [flushHalf]
  split
  · exact .refl s
  · split
    · exact backFrame_writeWord (hcalm _).2
    · have hf := logUnmapped_frame (whoSe s c) (k * 64 + 32 * h) (ownerIsland s (k * 64 + 32 * h)) s
      unfold BackFrame
      generalize logUnmapped _ _ _ s = t at hf ⊢
      generalize t.kpr = a, t.regs = b, t.hst = e, t.outs = d at hf
      subst hf
      rfl

theorem BackFrame.calm {s t : Sled} (h : BackFrame s t) (hs : calm s) : calm t := by
  unfold BackFrame at h
  generalize t.mem = a, t.ecc = b, t.kpr = c, t.regs = d, t.hst = e, t.outs = f at h
  subst h
  exact hs

/-- What flushes of lines keep: the lines that are present, that nothing has to wait, and that nothing did. -/
structure Flushed (c : Nat) (s t : Sled) : Prop where
  lines : ∀ k, (getLine t c k).isSome = (getLine s c k).isSome
  calm : calm t
  stall : t.stall = s.stall

theorem Flushed.trans {c : Nat} {s t u : Sled} (h : Flushed c s t) (h' : Flushed c t u) : Flushed c s u :=
  ⟨fun k => (h'.lines k).trans (h.lines k), h'.calm, h'.stall.trans h.stall⟩

theorem flushed_flushLine {c k : Nat} {s : Sled} (hcalm : calm s) : Flushed c s (flushLine c k s) := by
  rw [flushLine]
  split
  next l hl =>
    have h₀ := backFrame_flushHalf (c := c) (k := k) (h := 0) (l := l) hcalm
    have h₁ := h₀.trans (backFrame_flushHalf (c := c) (k := k) (h := 1) (l := l) (h₀.calm hcalm))
    generalize flushHalf c k 1 l _ = t at h₁ ⊢
    have hvc : t.vc = s.vc := by rw [h₁]
    have hstall : t.stall = s.stall := by rw [h₁]
    refine ⟨fun j => ?_, h₁.calm hcalm, hstall⟩
    rw [getLine_setLine]
    by_cases hj : j = k
    · rw [if_pos hj, hj, hl]
      rfl
    · rw [if_neg hj, getLine_congr hvc]
  next => exact ⟨fun _ => rfl, hcalm, rfl⟩

theorem flushed_foldl {c : Nat} {s : Sled} (hcalm : calm s) (l : List Nat) :
    Flushed c s (l.foldl (fun s k => flushLine c k s) s) := by
  induction l generalizing s with
  | nil => exact ⟨fun _ => rfl, hcalm, rfl⟩
  | cons k l ih => exact (flushed_flushLine hcalm).trans (ih (flushed_flushLine hcalm).calm)

/-- Lines dropped one by one. -/
theorem dropped_foldl (c : Nat) (l : List Nat) (s : Sled) :
    (∀ k, getLine (l.foldl (fun s k => dropLine c k s) s) c k = if k ∈ l then none else getLine s c k) ∧
      l.foldl (fun s k => dropLine c k s) s = { s with vc := (l.foldl (fun s k => dropLine c k s) s).vc } := by
  induction l generalizing s with
  | nil => exact ⟨fun k => by simp, rfl⟩
  | cons x l ih =>
    obtain ⟨hget, hframe⟩ := ih (dropLine c x s)
    rw [List.foldl_cons]
    refine ⟨fun k => ?_, hframe⟩
    rw [hget, dropLine, getLine_setLine]
    by_cases hl : k ∈ l
    · rw [if_pos hl, if_pos (List.mem_cons_of_mem _ hl)]
    · rw [if_neg hl]
      by_cases hx : k = x
      · rw [if_pos hx, if_pos (by rw [hx]; exact List.mem_cons_self)]
      · rw [if_neg hx, if_neg (by simp [hx, hl])]

/-- A line that is not among the cache's keys is absent. -/
theorem ffind_of_not_mem {α : Type} {m : FMap α} {k : Nat} (h : k ∉ m.map (·.1)) : ffind m k = none := by
  induction m with
  | nil => rfl
  | cons p m ih =>
    obtain ⟨a, w⟩ := p
    simp only [List.map_cons, List.mem_cons, not_or] at h
    rw [ffind, if_neg (Ne.symm h.1), ih h.2]

theorem isSome_getLine {s : Sled} {c k : Nat} (h : (getLine s c k).isSome = true) :
    k ∈ (fget s.vc {} c).cache.map (·.1) := by
  by_contra hk
  rw [getLine, ffind_of_not_mem hk] at h
  cases h

/-! ### Start and stop -/

/-- The program's registers after a GO. -/
theorem fxSeGo_fields {s : Sled} {a : Agent} {core tn e : Nat} (hcore : core < 8) (hact : canAct s a = true)
    (hreach : blkReach a (bLAY core) = true) (hruns : islRuns s (iVC core) = true) (htn : tn < 16) (he : e < 2 ^ 40)
    (hlock : lockedReg s (bLAY core) 0x400 = false) :
    ∃ u, u = { s with regs := u.regs } ∧ rField u (bLAY core) 0x400 8 4 = tn ∧ rField u (bLAY core) 0x400 24 40 = e ∧
      fxSeGo a core tn e s =
        if (fget s.vc {} core).seRun then u
        else if e % 2 = 1 then
          rSet (bLAY core) 0x408 (e * 2 ^ 24) (rSet (bLAY core) 0x400 (rGet u (bLAY core) 0x400 ||| 0xC) u)
        else { u with vc := fset s.vc {} core { fget s.vc {} core with seRun := true, seTenant := tn, seWait := false } } := by
  have hlock' : lockedReg (rSetField (bLAY core) 0x400 8 4 tn s) (bLAY core) 0x400 = false := hlock
  have htn' : rField (rSetField (bLAY core) 0x400 24 40 e (rSetField (bLAY core) 0x400 8 4 tn s)) (bLAY core) 0x400 8 4 = tn := by
    rw [rField_rSetField_other _ (by omega) (by omega), rField_rSetField_same _ _ _ _ _ _ (by omega)]
    exact Nat.mod_eq_of_lt htn
  have he' : rField (rSetField (bLAY core) 0x400 24 40 e (rSetField (bLAY core) 0x400 8 4 tn s)) (bLAY core) 0x400 24 40 = e := by
    rw [rField_rSetField_same _ _ _ _ _ _ (by omega)]
    exact Nat.mod_eq_of_lt he
  have hframe : rSetField (bLAY core) 0x400 24 40 e (rSetField (bLAY core) 0x400 8 4 tn s) =
      { s with regs := (rSetField (bLAY core) 0x400 24 40 e (rSetField (bLAY core) 0x400 8 4 tn s)).regs } := rfl
  have hfx : fxSeGo a core tn e s = seGoOp core tn e s := by rw [fxSeGo, regAccess_lay hcore hact hreach hruns]
  rw [seGoOp] at hfx
  simp only [swField_of_unlocked hlock, swField_of_unlocked hlock', htn', he'] at hfx
  generalize rSetField (bLAY core) 0x400 24 40 e (rSetField (bLAY core) 0x400 8 4 tn s) = u at htn' he' hframe hfx
  have hvc : u.vc = s.vc := by rw [hframe]
  rw [hvc] at hfx
  exact ⟨u, hframe, htn', he', hfx⟩

/-- STOPPED and ERR as a fault sets them. -/
theorem stopped_err (x : Nat) : bitsOf ((x ||| 0xC) % 2 ^ 64) 2 2 = 3 := by
  have hor (y : Nat) (hy : y < 4) : y ||| 3 = 3 := by
    interval_cases y <;> rfl
  have hfield : bitsOf ((x ||| 0xC) % 2 ^ 64) 2 2 = bitsOf (x ||| 0xC) 2 2 := by
    rw [show (x ||| 0xC) % 2 ^ 64 = bitsOf (x ||| 0xC) 0 64 by rw [bitsOf, Nat.pow_zero, Nat.div_one], bitsOf_bitsOf _ _ _ (by omega)]
  rw [hfield, bitsOf, Nat.or_div_two_pow, Nat.or_mod_two_pow]
  exact hor _ (Nat.mod_lt _ (by decide))

/-- GO where no program runs, with an even entry. -/
theorem fxSeGo_starts {s t : Sled} {a : Agent} {core tn e : Nat} (hcore : core < 8) (hact : canAct s a = true)
    (hreach : blkReach a (bLAY core) = true) (hruns : islRuns s (iVC core) = true) (htn : tn < 16) (he : e < 2 ^ 40)
    (hlock : lockedReg s (bLAY core) 0x400 = false) (hrun : (fget s.vc {} core).seRun = false) (heven : e % 2 = 0)
    (ht : fxSeGo a core tn e s = t) :
    fget t.vc {} core = { fget s.vc {} core with seRun := true, seTenant := tn, seWait := false } ∧
      rField t (bLAY core) 0x400 8 4 = tn ∧ rField t (bLAY core) 0x400 24 40 = e ∧
      t = { s with vc := t.vc, regs := t.regs } := by
  obtain ⟨u, hu, htn', he', hfx⟩ := fxSeGo_fields hcore hact hreach hruns htn he hlock
  rw [hrun, if_neg Bool.false_ne_true, if_neg (by omega)] at hfx
  have hto := ht.symm.trans hfx
  have hregs : t.regs = u.regs := by rw [hto]
  refine ⟨?_, (rField_congr hregs ..).trans htn', (rField_congr hregs ..).trans he', ?_⟩
  · rw [hto]
    exact fget_fset_same ..
  · generalize u.regs = x at hu
    subst hu
    rw [hto]

/-- GO during a run or with an odd entry. -/
theorem fxSeGo_refused {s t : Sled} {a : Agent} {core tn e : Nat} (hcore : core < 8) (hact : canAct s a = true)
    (hreach : blkReach a (bLAY core) = true) (hruns : islRuns s (iVC core) = true) (htn : tn < 16) (he : e < 2 ^ 40)
    (hlock : lockedReg s (bLAY core) 0x400 = false) (hbad : (fget s.vc {} core).seRun = true ∨ e % 2 = 1)
    (ht : fxSeGo a core tn e s = t) :
    t = { s with regs := t.regs } ∧ ((fget s.vc {} core).seRun = false →
      bitsOf (rGet t (bLAY core) 0x400) 2 2 = 3 ∧ bitsOf (rGet t (bLAY core) 0x408) 24 40 = e) := by
  obtain ⟨u, hu, -, -, hfx⟩ := fxSeGo_fields hcore hact hreach hruns htn he hlock
  cases hrun : (fget s.vc {} core).seRun with
  | true =>
    rw [hrun, if_pos rfl] at hfx
    refine ⟨?_, fun h => Bool.noConfusion h⟩
    rw [← ht, hfx]
    exact hu
  | false =>
    have hodd : e % 2 = 1 := hbad.resolve_left (by rw [hrun]; exact Bool.false_ne_true)
    rw [hrun, if_neg Bool.false_ne_true, if_pos hodd] at hfx
    have hto := ht.symm.trans hfx
    refine ⟨?_, fun _ => ⟨?_, ?_⟩⟩
    · have hset (b o v b' o' v' : Nat) : rSet b o v (rSet b' o' v' u) = { u with regs := (rSet b o v (rSet b' o' v' u)).regs } := rfl
      rw [hset] at hto
      generalize (rSet _ _ _ _).regs = y at hto
      generalize u.regs = x at hu
      subst hu
      rw [hto]
    · rw [hto, rGet_rSet_ne _ _ (by decide) (by decide) (fun h => absurd (Prod.mk.inj h).2 (by decide)), rGet_rSet_same]
      exact stopped_err ..
    · rw [hto, rGet_rSet_same, bitsOf]
      omega

/-- STOP during a run. -/
theorem fxSeStop_stops {s t : Sled} {a : Agent} {core : Nat} (hcore : core < 8) (hact : canAct s a = true)
    (hreach : blkReach a (bLAY core) = true) (hruns : islRuns s (iVC core) = true) (hrun : (fget s.vc {} core).seRun = true)
    (ht : fxSeStop a core s = t) :
    fget t.vc {} core = { fget s.vc {} core with seRun := false, seWait := false } ∧
      bitAt (rGet t (bLAY core) 0x400) 2 = true ∧
      (∀ w ∈ t.waits, ¬(w.who.kind = 3 ∧ w.who.ix = core ∧ w.who.mod = none)) ∧ t.mem = s.mem := by
  rw [fxSeStop, regAccess_lay hcore hact hreach hruns, seStopOp] at ht
  simp only [hrun, Bool.not_true, Bool.false_eq_true, if_false] at ht
  generalize hv : ({ s with vc := fset s.vc {} core { fget s.vc {} core with seRun := false, seWait := false } } : Sled) = v at ht
  have hvc : v.vc = fset s.vc {} core { fget s.vc {} core with seRun := false, seWait := false } := by rw [← hv]
  have hmem : v.mem = s.mem := by rw [← hv]
  rw [← ht]
  refine ⟨?_, ?_, fun w hw => ?_, ?_⟩
  · rw [rSet_vc, show (seDrop core v).vc = v.vc from rfl, hvc, fget_fset_same]
  · rw [rGet_rSet_same, bitAt_eq_testBit, Nat.testBit_mod_two_pow, Nat.testBit_or]
    simp [show Nat.testBit 4 2 = true from rfl]
  · rw [rSet_waits] at hw
    have hkeep := (List.mem_filter.1 hw).2
    rintro ⟨hkind, hix, hmod⟩
    simp [hkind, hix, hmod] at hkeep
  · rw [rSet_mem, show (seDrop core v).mem = v.mem from rfl, hmem]

/-- The one line of an aligned access. -/
theorem line_of_aligned {a f3 : Nat} (h : a % f3Bytes f3 = 0) : (a + f3Bytes f3 - 1) / 64 = a / 64 := by
  have hcases : f3Bytes f3 = 1 ∨ f3Bytes f3 = 2 ∨ f3Bytes f3 = 4 ∨ f3Bytes f3 = 8 := by
    have h4 : f3 % 4 < 4 := Nat.mod_lt _ (by decide)
    rw [f3Bytes]
    interval_cases f3 % 4 <;> decide
  generalize f3Bytes f3 = n at h hcases
  obtain rfl | rfl | rfl | rfl := hcases <;> omega

theorem seReach_setLine (c k : Nat) (x : Option Line) (s : Sled) (l n : Nat) :
    seReach (setLine c k x s) c l n = seReach s c l n := by
  have hv : fget (setLine c k x s).vc {} c = { fget s.vc {} c with cache := (fget (setLine c k x s).vc {} c).cache } := by
    unfold setLine
    simp only [fget_fset_same]
  have hten : (fget (setLine c k x s).vc {} c).seTenant = (fget s.vc {} c).seTenant := by rw [hv]
  rw [seReach, hten]
  rfl

/-- A volatile store within the own scratchpad to a line that is absent. -/
theorem fxSdv_own {s : Sled} {core f3 a d : Nat} (hcore : core < 8) (hact : seActs s core = true) (h4 : f3 < 4)
    (hown : ownScratch core a (f3Bytes f3)) (hreach : seReach s core a (f3Bytes f3) = true) (hal : a % f3Bytes f3 = 0)
    (hecc : s.ecc = []) (hclear : s.clearing = false) (hl : getLine s core (a / 64) = none) :
    ∃ m e v, fxSdv core f3 a d s = { s with mem := m, ecc := e, vc := v } ∧
      Stores s.mem s.ecc (2 ^ 40 + a) (leBytes (f3Bytes f3) d) m e := by
  have hruns : islRuns s (iVC core) = true := by
    rw [seActs, Bool.and_eq_true, Bool.and_eq_true] at hact
    exact hact.1.1
  have hlt := ownScratch_lt hcore hown
  have hscr : scratchOf a = some core := scratchOf_own hcore hown.1 (by have := (f3Bytes_le f3).1; have := hown.2; omega)
  have hcached : seCached core a = true := by rw [seCached, hscr, decide_eq_true rfl, Bool.or_true]
  obtain ⟨hsync, hreg⟩ := uncached_regions hcached
  rw [fxSdv, seStoreOp_cached hact h4 (by omega) hcached, hreach, if_neg (by simp), if_pos rfl, line_of_aligned hal,
    flushLine_absent hl]
  have hreachv : seReach (dropLine core (a / 64) (flushLine core (a / 64) (dropLine core (a / 64) s))) core a (f3Bytes f3) =
      true := by
    rw [flushLine_absent (by rw [dropLine, getLine_setLine, if_pos rfl]), dropLine, seReach_setLine, seReach_setLine,
      hreach]
  obtain ⟨v, hv⟩ : ∃ v, dropLine core (a / 64) (flushLine core (a / 64) (dropLine core (a / 64) s)) = { s with vc := v } := by
    rw [flushLine_absent (by rw [dropLine, getLine_setLine, if_pos rfl])]
    exact ⟨_, rfl⟩
  rw [hv] at hreachv ⊢
  obtain ⟨m, e, hw, hst⟩ := writeLocal_scratch (s := { s with vc := v }) (l := leBytes (f3Bytes f3) d) hcore hruns
    (by rwa [length_leBytes]) hclear (.inl hecc)
  refine ⟨m, e, v, ?_, hst⟩
  rw [uncachedStore, hsync, if_neg Bool.false_ne_true, hreg, Option.isSome_none, if_neg Bool.false_ne_true, if_pos hreachv]
  exact hw

theorem onLine_absent {s : Sled} {c a : Nat} (f : Nat → Sled → Sled) (hact : seActs s c = true) (ha : a < 2 ^ 40)
    (hl : getLine s c (a / 64) = none) : onLine c a f s = s := by
  rw [onLine, hact, lineOf, seSplit_local ha]
  simp only [hl, Option.isSome_none, Bool.not_true, Bool.false_eq_true, if_false]

theorem onLine_present {s : Sled} {c a : Nat} {l : Line} (f : Nat → Sled → Sled) (hact : seActs s c = true) (ha : a < 2
    ^ 40)
    (hl : getLine s c (a / 64) = some l) : onLine c a f s = f (a / 64) s := by
  rw [onLine, hact, lineOf, seSplit_local ha]
  simp only [hl, Option.isSome_some, Bool.not_true, Bool.false_eq_true, if_false, if_true]

/-- Settles O31: the program's start and stop, hits, volatile accesses and the cache instructions. -/
theorem scalarEngineProgramsAndCache : Obligations.ScalarEngineProgramsAndCache := by
  unfold Obligations.ScalarEngineProgramsAndCache
  refine ⟨?go, ?goRefused, ?stop, ?stopIdle, ?load, ?store, ?ldv, ?sdv, ?fault, ?absent, ?inv, ?flush, ?allInv, ?all⟩
  case go =>
    intro s a core tn e hact hreach hruns hlock hrun heven
    exact ⟨_, lift_next rfl, rfl, fxSeGo_starts core.isLt hact hreach hruns tn.isLt e.isLt hlock hrun heven rfl⟩
  case goRefused =>
    intro s a core tn e hact hreach hruns hlock hbad
    exact ⟨_, lift_next rfl, rfl, fxSeGo_refused core.isLt hact hreach hruns tn.isLt e.isLt hlock hbad rfl⟩
  case stop =>
    intro s a core hact hreach hruns hrun
    exact ⟨_, lift_next rfl, rfl, fxSeStop_stops core.isLt hact hreach hruns hrun rfl⟩
  case stopIdle =>
    intro s a core hact hreach hruns hrun
    refine lift_next (f := fxSeStop a core) (u := s.sled) ?_
    rw [fxSeStop, regAccess_lay core.isLt hact hreach hruns, seStopOp]
    simp only [hrun, Bool.not_false, if_true]
  case load =>
    intro s core f3 rd a l hact h7 ha hcached hreach hin hl hp
    refine liftHold_next (f := fxSeLoad core f3.toNat rd.toNat a.toNat) ?_ (stall_setX ..)
    rw [fxSeLoad, seLoadOp_cached hact h7 ha hcached, hreach, if_neg (by simp), if_neg Bool.false_ne_true,
      cacheLoad_hit (f3Bytes_le _).1 hin hl]
    exact seResult_line hp
  case store =>
    intro s core f3 a d l hact h4 ha hcached hreach hin hl
    have hne : leBytes (f3Bytes f3.toNat) d.toNat ≠ [] := by
      rw [← List.length_pos_iff, length_leBytes]
      exact (f3Bytes_le _).1
    have hfx : fxSeStore core f3.toNat a.toNat d.toNat s.sled = setLine core (a.toNat / 64) (some { l with
        data := BitVec.ofNat 512 (setBits l.data.toNat (8 * (a.toNat % 64)) (8 * f3Bytes f3.toNat)
          (leNat (leBytes (f3Bytes f3.toNat) d.toNat)))
        dirty := l.dirty ||| BitVec.ofNat 64 ((2 ^ f3Bytes f3.toNat - 1) * 2 ^ (a.toNat % 64)) }) s.sled := by
      rw [fxSeStore, seStoreOp_cached hact h4 ha hcached, hreach, if_neg (by simp), if_neg Bool.false_ne_true,
        cacheStore_hit hne (by rwa [length_leBytes]) hl, length_leBytes]
    obtain ⟨hsame, hother⟩ := storedLine l (n := f3Bytes f3.toNat) d.toNat hin
    refine ⟨_, liftHold_next hfx rfl, rfl, ⟨_, (getLine_setLine ..).trans (if_pos rfl), rfl, hsame, fun i => ?_, fun i => hother i⟩,
      rfl⟩
    exact storedDirty l.dirty _ _ i
  case ldv =>
    intro s core f3 rd a x ok hact h7 ha hcached hreach hl hl' hread hpois
    refine liftHold_next (f := fxLdv core f3.toNat rd.toNat a.toNat) ?_ (stall_setX ..)
    obtain ⟨hsync, hreg⟩ := uncached_regions hcached
    rw [fxLdv, seLoadOp_cached hact h7 ha hcached, hreach, if_neg (by simp), if_pos rfl, flushLine_absent hl, flushLine_absent hl',
      uncachedLoad, hsync, if_neg Bool.false_ne_true, hreg, Option.isSome_none, if_neg Bool.false_ne_true, if_pos hreach, hread]
    simp only [seResult, hpois, Bool.false_eq_true, if_false]
  case sdv =>
    intro s core f3 a d hact h4 hown hreach hal hecc hclear hl
    obtain ⟨m, e, v, hfx, hst⟩ := fxSdv_own (d := d.toNat) core.isLt hact h4 hown hreach hal hecc hclear hl
    refine ⟨_, liftHold_next hfx rfl, rfl, fun x => (hst.get x).trans ?_, rfl⟩
    rw [length_leBytes]
    split
    next hx =>
      have h8 := (f3Bytes_le f3.toNat).2
      rw [List.getD_eq_getElem _ _ (by rw [length_leBytes]; omega), List.getD_eq_getElem _ _ (by rw [length_leBytes]; omega),
        getElem_leBytes, getElem_leBytes]
    next => rfl
  case fault =>
    intro s core f3 rd a d hact h4 ha hcached hreach
    have h7 : f3.toNat ≠ 7 := by omega
    refine ⟨liftHold_next (f := fxSeLoad core f3.toNat rd.toNat a.toNat) ?_ (stall_seAddrFault ..),
      liftHold_next (f := fxLdv core f3.toNat rd.toNat a.toNat) ?_ (stall_seAddrFault ..),
      liftHold_next (f := fxSeStore core f3.toNat a.toNat d.toNat) ?_ (stall_seAddrFault ..),
      liftHold_next (f := fxSdv core f3.toNat a.toNat d.toNat) ?_ (stall_seAddrFault ..)⟩
    · rw [fxSeLoad, seLoadOp_cached hact h7 ha hcached, hreach]
      rfl
    · rw [fxLdv, seLoadOp_cached hact h7 ha hcached, hreach]
      rfl
    · rw [fxSeStore, seStoreOp_cached hact h4 ha hcached, hreach]
      rfl
    · rw [fxSdv, seStoreOp_cached hact h4 ha hcached, hreach]
      rfl
  case absent =>
    intro s core a hact ha hl
    exact ⟨liftHold_next (f := fxScInv core a.toNat) (onLine_absent _ hact ha hl) rfl,
      liftHold_next (f := fxScFlush core a.toNat) (onLine_absent _ hact ha hl) rfl,
      liftHold_next (f := fxScFlinv core a.toNat) (onLine_absent _ hact ha hl) rfl⟩
  case inv =>
    intro s core a l hact ha hl
    exact ⟨_, liftHold_next (f := fxScInv core a.toNat) (onLine_present _ hact ha hl) rfl, rfl,
      (getLine_setLine ..).trans (if_pos rfl), fun k hk => (getLine_setLine ..).trans (if_neg hk), rfl⟩
  case flush =>
    intro s core a l hact hown hecc hclear hl
    have hruns : islRuns s.sled (iVC core) = true := by
      rw [seActs, Bool.and_eq_true, Bool.and_eq_true] at hact
      exact hact.1.1
    have ha : a.toNat < 2 ^ 40 := by
      have := ownScratch_lt core.isLt hown
      omega
    obtain ⟨m, hfl, hget⟩ := flushLine_own core.isLt hruns hown hclear hecc hl
    have hin (i : Fin 64) : memGet m (2 ^ 40 + a.toNat / 64 * 64 + i.val) = if l.dirty.getLsbD i then
        BitVec.ofNat 8 (bitsOf l.data.toNat (8 * i.val) 8) else memGet s.sled.mem (2 ^ 40 + a.toNat / 64 * 64 + i.val) := by
      rw [hget, if_pos (by omega), Nat.add_sub_cancel_left, flushedByte, bitAt_eq_testBit]
      rfl
    have hflush : fxScFlush core a.toNat s.sled = _ := (onLine_present _ hact ha hl).trans hfl
    have hflinv : fxScFlinv core a.toNat s.sled = _ := (onLine_present _ hact ha hl).trans (congrArg (dropLine core _) hfl)
    refine ⟨⟨_, liftHold_next hflush rfl, rfl, (getLine_setLine ..).trans (if_pos rfl), hin, fun x hx => ?_⟩,
      _, liftHold_next hflinv rfl, rfl, (getLine_setLine ..).trans (if_pos rfl), hin⟩
    exact (hget x).trans (if_neg (by omega))
  case allInv =>
    intro s core hact
    obtain ⟨hget, hframe⟩ := dropped_foldl core ((fget s.sled.vc {} core).cache.map (·.1)) s.sled
    have hfx : fxScAll core 0 s.sled = ((fget s.sled.vc {} core).cache.map (·.1)).foldl (fun s k => dropLine core k s) s.sled := by
      rw [fxScAll, hact]
      rfl
    refine ⟨_, liftHold_next hfx (by rw [hframe]), rfl, fun k => (hget k).trans ?_, hframe⟩
    split
    next => rfl
    next hk => exact ffind_of_not_mem hk
  case all =>
    intro s core hact hcalm
    have hfl := flushed_foldl (c := core) hcalm ((fget s.sled.vc {} core).cache.map (·.1))
    obtain ⟨hget, hframe⟩ := dropped_foldl core ((fget s.sled.vc {} core).cache.map (·.1))
      (((fget s.sled.vc {} core).cache.map (·.1)).foldl (fun s k => flushLine core k s) s.sled)
    have hfx₂ : fxScAll core 2 s.sled = ((fget s.sled.vc {} core).cache.map (·.1)).foldl (fun s k => dropLine core k s)
        (((fget s.sled.vc {} core).cache.map (·.1)).foldl (fun s k => flushLine core k s) s.sled) := by
      rw [fxScAll, hact]
      rfl
    have hfx₁ : fxScAll core 1 s.sled = ((fget s.sled.vc {} core).cache.map (·.1)).foldl (fun s k => flushLine core k s) s.sled := by
      rw [fxScAll, hact]
      rfl
    refine ⟨⟨_, liftHold_next hfx₂ ?_, rfl, fun k => (hget k).trans ?_⟩, _, liftHold_next hfx₁ hfl.stall, rfl, hfl.lines⟩
    · rw [hframe]
      exact hfl.stall
    · split
      next => rfl
      next hk =>
        have hnone : (getLine s.sled core k).isSome = false := by
          rw [getLine, ffind_of_not_mem hk, Option.isSome_none]
        exact Option.isNone_iff_eq_none.1 (by rw [← Option.not_isSome, hfl.lines, hnone]; rfl)

end Sys2Proof.Machine

/-! ## A body of part of a word (O37: spec/14, R274)

SREG's checks at fetch ask for a multiple of 32 channels, and the clause on registration asks for nothing of the
descriptor but that it has started. A body of one channel is 8 bytes: it is merged into a word of its slot, whose old
bytes are read first, and a fresh uncorrectable word among them is logged. -/
namespace Sys2Proof.Machine
open Sys2Proof

/-- The state after a command that need not wait. -/
theorem sled_of_next {f : Sled → Sled} {s : Sled} {p : List Instr} {t : State} (h : liftHold f ⟨s, p⟩ = .next t)
    (hs : (f s).stall = s.stall) : t.sled = f s := by
  rw [liftHold_eq (s := ⟨s, p⟩) hs] at h
  rw [← Host.Outcome.next.inj h]

theorem exec_sreg (q : Fin 16) (k : Fin 8) (s : State) : exec (.sreg q k) s = liftHold (fxSreg q k) s := rfl

/-- Tenant 0 owns the first 32 bytes of DRAM. -/
def partProfile : Ppi :=
  { strayProfile with cfg := { strayProfile.cfg with
      tenants := [{ enabled := true, vcMask := 0, ctrLo := 0, ctrN := 0, semLo := 0, semN := 0, slots := 0
                    regions := [(0, 32)] }] } }

/-- An SREG of one channel of the first kind, its body and HOME at address 0. -/
def partDesc : Desc := { id := 1, q := 0, addr := 0, bytes := BitVec.ofNat 512 (0x60 + 2 ^ (8 * 0x1C)), stage := 1 }

/-- The stream engine and stack 0 run with region 0 valid and one slot for tenant 0; the first word of the first slot is
a fresh uncorrectable one. -/
def partSled : Sled :=
  { rSet bMAP 0 1 (rSet bSTE 0x300 1 {}) with
    isl := [(iMC 0, { state := 2 }), (iSTE, { state := 2 })], clearing := false, chan := [(0, { online := true })]
    prof := some partProfile, ste := { descs := [partDesc] }, ecc := [((2 ^ 40 + slotAddr 0) / 32, eFresh)] }

/-- The registration logs ENG_POISON. -/
theorem coll_sreg_partSled : (fxSreg (0 : Fin 16) (0 : Fin 8) partSled).kpr.coll ≠ partSled.kpr.coll := by
  decide +kernel

/-- Refutes O37: `partSled` meets every hypothesis of the clause on registration, and the collector changes. -/
theorem not_streamsAreRegisteredWithTheirBody : ¬ Obligations.StreamsAreRegisteredWithTheirBody := by
  rintro ⟨hreg, -⟩
  obtain ⟨t, ht, -, -, -, -, -, -, hframe⟩ := hreg ⟨partSled, []⟩ 0 0 partDesc (sregStrm partSled partDesc)
    (List.replicate 8 (0, false)) true (by decide +kernel) rfl (by decide +kernel) (by decide +kernel) (by decide +kernel) 
    (by decide +kernel) (by decide +kernel) (by decide +kernel) rfl
  have hcoll : t.sled.kpr.coll = partSled.kpr.coll := by rw [hframe]
  have hstall : (fxSreg (0 : Fin 16) (0 : Fin 8) partSled).stall = partSled.stall := by decide +kernel
  have hsled := sled_of_next ((exec_sreg ..).symm.trans ht) hstall
  rw [hsled] at hcoll
  exact coll_sreg_partSled hcoll

end Sys2Proof.Machine

/-! ## A descriptor of no queue (O40: spec/14, R279)

The clause on a waiting PAUSE asks nothing of the queue of its descriptor. For a queue number beyond the engine's
sixteen the queue's tenant is read from the register that counts the bodies read from HOME, which bringing the stream
in itself changes: the stream is then another tenant's, and the PAUSE stays. -/
namespace Sys2Proof.Machine
open Sys2Proof

/-- A PAUSE of stream 0 in queue 32, whose configuration would stand at the counter's offset. -/
def queuelessDesc : Desc := { id := 1, q := 32, addr := 0, bytes := 0x64, stage := 1 }

/-- Tenant 1 has swapped stream 0 out, and the PAUSE waits; the counter's upper half holds tenant 1. -/
def queuelessSled : Sled :=
  { rSet bSTE 0x400 (2 ^ 48) {} with
    clearing := false
    ste := { descs := [queuelessDesc], evictQ := [1], streams := [(0, { tenant := 1, kind := 0, c := 0, home := 0 })] } }

/-- Without channels out of service, speed changes and migrations nothing has to wait. -/
theorem calm_of_idle {s : Sled} (hmcs : s.mcs = []) (hchan : s.chan = []) (hclear : s.clearing = false) : calm s := by
  have hrank (st c r : Nat) : rankHeld s st c r = false := by
    rw [rankHeld, getChan, hchan]
    simp [bitAt]
  have hread (st c r : Nat) : unreadable s st c r = false := by
    rw [unreadable, getChan, hchan, hmcs]
    simp [bitAt]
  intro w
  rw [heldRead, heldWrite, hrank, hread, hclear, hmcs]
  simp

theorem exec_streamEvictWaitEnd (s : State) : exec .streamEvictWaitEnd s = liftHold fxStreamEvictWaitEnd s := rfl

/-- The PAUSE is not done. -/
theorem stage_evictWaitEnd_queueless : (fxStreamEvictWaitEnd queuelessSled).ste.descs = [queuelessDesc] := by
  decide +kernel

/-- Refutes O40: `queuelessSled` meets every hypothesis of the clause on a waiting PAUSE, which does not end. -/
theorem not_streamControlOperations : ¬ Obligations.StreamControlOperations := by
  rintro ⟨-, -, -, -, -, hwait, -⟩
  obtain ⟨t, ht, -, -, -, hdone⟩ := hwait ⟨queuelessSled, []⟩ queuelessDesc
    { tenant := 1, kind := 0, c := 0, home := 0 } [] rfl (by decide +kernel) (by decide +kernel) (by decide +kernel)
    (by decide +kernel) (by decide +kernel) rfl (by decide +kernel) (by decide) (calm_of_idle rfl rfl rfl)
  have hstall : (fxStreamEvictWaitEnd queuelessSled).stall = queuelessSled.stall := by decide +kernel
  have hsled := sled_of_next ((exec_streamEvictWaitEnd _).symm.trans ht) hstall
  rw [hsled, stage_evictWaitEnd_queueless] at hdone
  exact absurd (hdone queuelessDesc List.mem_cons_self rfl) (by decide)

end Sys2Proof.Machine

/-! ## Memory accesses that need not wait

What reads and writes of bytes may change where nothing has to wait (`BackFrame`), and that what they leave in an SRAM
depends on the memory alone (`SameSram`). -/
namespace Sys2Proof.Machine
open Sys2Proof

/-! ### Any place -/

theorem backFrame_poisonAt (p : Nat) (s : Sled) : BackFrame s (poisonAt p s) := by
  unfold poisonAt
  generalize poisonBytes = l
  rfl

theorem backFrame_writePoison {p : Nat} {s : Sled} (h : heldWrite s (p / 32 * 32) = false) :
    BackFrame s (writePoison p s) := by
  rw [writePoison, h, if_neg Bool.false_ne_true, poisonRaw]
  split
  · exact (backFrame_poisonAt ..).trans (backFrame_poisonAt ..)
  · exact backFrame_poisonAt ..

theorem backFrame_readWord {p : Nat} {s : Sled} (h : heldRead s (p / 32 * 32) = false) :
    BackFrame s (readWord p s).2 := by
  rw [readWord, h, if_neg Bool.false_ne_true]
  exact backFrame_readRaw ..

theorem BackFrame.held {s t : Sled} (h : BackFrame s t) (w : Nat) :
    heldRead t w = heldRead s w ∧ heldWrite t w = heldWrite s w := by
  unfold BackFrame at h
  generalize t.mem = a, t.ecc = b, t.kpr = c, t.regs = d, t.hst = e, t.outs = f at h
  subst h
  exact ⟨rfl, rfl⟩

theorem backFrame_readBytes {fuel a n : Nat} {s : Sled} (hs : calm s) : BackFrame s (readBytes fuel a n s).2 := by
  induction fuel generalizing a n s with
  | zero => exact .refl s
  | succ fuel ih =>
    rw [readBytes]
    split
    · exact .refl s
    · cases hp : placeOf s a with
      | none => exact ih hs
      | some p =>
        have hw := backFrame_readWord (p := p) (hs _).1
        exact hw.trans (ih (hw.calm hs))

theorem backFrame_writeBytes {fuel a : Nat} {l : List (Byte × Bool)} {s : Sled} (hs : calm s) :
    BackFrame s (writeBytes fuel a l s) := by
  induction fuel generalizing a l s with
  | zero => exact .refl s
  | succ fuel ih =>
    rw [writeBytes]
    split
    · exact .refl s
    · cases hp : placeOf s a with
      | none => exact ih hs
      | some p =>
        dsimp only
        split
        · have hw := backFrame_writePoison (p := p) (hs _).2
          exact hw.trans (ih (hw.calm hs))
        · have hw := backFrame_writeWord (p := p) (mask := (2 ^ min (32 - a % 32) l.length - 1) * 2 ^ (a % 32))
            (d := List.replicate (a % 32) 0 ++ (l.take (min (32 - a % 32) l.length)).map (·.1) ++
              List.replicate (32 - a % 32 - min (32 - a % 32) l.length) 0) (hs _).2
          exact hw.trans (ih (hw.calm hs))

/-! ### SRAM -/

/-- A place at or above the scratchpads is in an SRAM. -/
theorem placeOf_sram {s : Sled} {a p : Nat} (ha : 2 ^ 39 ≤ a) (h : placeOf s a = some p) : p = 2 ^ 40 + a := by
  rw [placeOf, if_neg (by omega)] at h
  split at h
  · split at h
    · exact (Option.some.inj h).symm
    · cases h
  · split at h
    · split at h
      · exact (Option.some.inj h).symm
      · cases h
    · cases h

theorem placeOf_sram_congr {s t : Sled} {a : Nat} (ha : 2 ^ 39 ≤ a) (h : t.isl = s.isl) :
    placeOf t a = placeOf s a := by
  have hruns (i : Nat) : islRuns t i = islRuns s i := by
    rw [islRuns, islState, h]
    rfl
  have hlow : ¬ a < 2 ^ 39 := Nat.not_lt.2 ha
  simp only [placeOf, if_neg hlow, hruns]

/-- Two sleds of one memory whose SRAMs are cleared and run alike. -/
structure SameSram (s t : Sled) : Prop where
  mem : t.mem = s.mem
  ecc : t.ecc = s.ecc
  isl : t.isl = s.isl
  clear : s.clearing = false
  clear' : t.clearing = false

theorem heldWrite_sram {s : Sled} {w : Nat} (hw : 2 ^ 40 ≤ w) (hc : s.clearing = false) : heldWrite s w = false := by
  rw [heldWrite, if_neg (Nat.not_lt.2 hw), hc]

theorem BackFrame.isl {s t : Sled} (h : BackFrame s t) : t.isl = s.isl ∧ t.clearing = s.clearing := by
  rw [h]
  exact ⟨rfl, rfl⟩

/-- What a read of a word of an SRAM leaves. -/
theorem readRaw_sram {p : Nat} {s t : Sled} (hp : 2 ^ 40 ≤ p / 32 * 32) (h : SameSram s t) :
    (readRaw p t).1 = (readRaw p s).1 ∧ (readRaw p t).2.mem = (readRaw p s).2.mem ∧ (readRaw p t).2.ecc = (readRaw p s).2.ecc := by
  have hlow : ¬ p / 32 * 32 < 2 ^ 40 := Nat.not_lt.2 hp
  have hecc : eccAt t (p / 32 * 32) = eccAt s (p / 32 * 32) := by rw [eccAt, h.ecc, eccAt]
  simp only [readRaw, hlow, false_and, if_false, hecc, hp, and_true]
  split
  · exact ⟨rfl, h.mem, h.ecc⟩
  · split
    · refine ⟨rfl, ?_, ?_⟩
      · rw [sramUe, logRec_mem, sramUe, logRec_mem, poisonAt_mem, poisonAt_mem, h.mem]
      · rw [sramUe, logRec_ecc, sramUe, logRec_ecc, poisonAt_ecc, poisonAt_ecc, h.ecc]
    · split
      · exact ⟨by rw [h.mem], h.mem, by rw [h.ecc]⟩
      · exact ⟨by rw [h.mem], h.mem, h.ecc⟩

theorem storeWord_sram {p mask : Nat} {d : List Byte} {s t : Sled} (hp : 2 ^ 40 ≤ p / 32 * 32) (h : SameSram s t) :
    (storeWord p mask d t).mem = (storeWord p mask d s).mem ∧ (storeWord p mask d t).ecc = (storeWord p mask d s).ecc := by
  rw [storeWord, storeWord]
  split
  · exact ⟨by rw [h.mem], by rw [h.ecc]⟩
  · obtain ⟨hv, hm, he⟩ := readRaw_sram (p := p / 32 * 32) (by omega) h
    generalize readRaw (p / 32 * 32) t = y at hv hm he ⊢
    generalize readRaw (p / 32 * 32) s = x at hv hm he ⊢
    obtain ⟨⟨old, po⟩, u⟩ := x
    obtain ⟨v, w⟩ := y
    obtain rfl : v = (old, po) := hv
    cases po
    · dsimp only at hm he ⊢
      rw [hm, he]
      exact ⟨rfl, rfl⟩
    · exact ⟨hm, he⟩

/-- A word of an SRAM is written alike. -/
theorem writeWord_sram {p mask : Nat} {d : List Byte} {s t : Sled} (hp : 2 ^ 40 ≤ p / 32 * 32) (h : SameSram s t) :
    SameSram (writeWord p mask d s) (writeWord p mask d t) := by
  have hs := backFrame_writeWord (mask := mask) (d := d) (heldWrite_sram hp h.clear)
  have ht := backFrame_writeWord (mask := mask) (d := d) (heldWrite_sram hp h.clear')
  have hraw (u : Sled) (hc : u.clearing = false) : writeWord p mask d u = storeWord (p / 32 * 32) mask d u := by
    rw [writeWord, heldWrite_sram hp hc, if_neg Bool.false_ne_true, writeRaw]
    exact if_neg (Nat.not_lt.2 hp)
  obtain ⟨hm, he⟩ := storeWord_sram (p := p / 32 * 32) (mask := mask) (d := d) (by omega) h
  refine ⟨?_, ?_, ?_, hs.isl.2.trans h.clear, ht.isl.2.trans h.clear'⟩
  · rw [hraw _ h.clear, hraw _ h.clear', hm]
  · rw [hraw _ h.clear, hraw _ h.clear', he]
  · rw [ht.isl.1, hs.isl.1, h.isl]

theorem writePoison_sram {p : Nat} {s t : Sled} (hp : 2 ^ 40 ≤ p / 32 * 32) (h : SameSram s t) :
    SameSram (writePoison p s) (writePoison p t) := by
  have hs := backFrame_writePoison (heldWrite_sram hp h.clear)
  have ht := backFrame_writePoison (heldWrite_sram hp h.clear')
  have hraw (u : Sled) (hc : u.clearing = false) : writePoison p u = poisonAt p u := by
    rw [writePoison, heldWrite_sram hp hc, if_neg Bool.false_ne_true, poisonRaw, if_neg (by omega)]
  refine ⟨?_, ?_, ?_, hs.isl.2.trans h.clear, ht.isl.2.trans h.clear'⟩
  · rw [hraw _ h.clear, hraw _ h.clear', poisonAt_mem, poisonAt_mem, h.mem]
  · rw [hraw _ h.clear, hraw _ h.clear', poisonAt_ecc, poisonAt_ecc, h.ecc]
  · rw [ht.isl.1, hs.isl.1, h.isl]

theorem SameSram.refl {s : Sled} (h : s.clearing = false) : SameSram s s := ⟨rfl, rfl, rfl, h, h⟩

/-- Bytes of an SRAM are written alike, and nothing else changes. -/
theorem writeBytes_sram {fuel a : Nat} {l : List (Byte × Bool)} {s t : Sled} (ha : 2 ^ 39 ≤ a) (h : SameSram s t) :
    SameSram (writeBytes fuel a l s) (writeBytes fuel a l t) ∧ BackFrame s (writeBytes fuel a l s) := by
  induction fuel generalizing a l s t with
  | zero => exact ⟨h, .refl s⟩
  | succ fuel ih =>
    rw [writeBytes, writeBytes]
    split
    · exact ⟨h, .refl s⟩
    · rw [placeOf_sram_congr ha h.isl]
      cases hp : placeOf s a with
      | none => exact ih (by omega) h
      | some p =>
        have hplace := placeOf_sram ha hp
        dsimp only
        split
        · obtain ⟨hsame, hframe⟩ := ih (a := a + min (32 - a % 32) l.length) (l := l.drop (min (32 - a % 32) l.length)) (by omega)
            (writePoison_sram (p := p) (by omega) h)
          exact ⟨hsame, (backFrame_writePoison (heldWrite_sram (by omega) h.clear)).trans hframe⟩
        · obtain ⟨hsame, hframe⟩ := ih (a := a + min (32 - a % 32) l.length) (l := l.drop (min (32 - a % 32) l.length)) (by omega)
            (writeWord_sram (p := p) (mask := (2 ^ min (32 - a % 32) l.length - 1) * 2 ^ (a % 32))
              (d := List.replicate (a % 32) 0 ++ (l.take (min (32 - a % 32) l.length)).map (·.1) ++
                List.replicate (32 - a % 32 - min (32 - a % 32) l.length) 0) (by omega) h)
          exact ⟨hsame, (backFrame_writeWord (heldWrite_sram (by omega) h.clear)).trans hframe⟩

/-- A body's bytes are written alike, and nothing but memory changes. -/
theorem writeSlots_sram {slots : List Nat} {b : List (Byte × Bool)} {s t : Sled} (h : SameSram s t) :
    SameSram (writeSlots slots b s) (writeSlots slots b t) ∧ BackFrame s (writeSlots slots b s) := by
  induction slots generalizing b s t with
  | nil => exact ⟨h, .refl s⟩
  | cons i slots ih =>
    obtain ⟨hsame, hframe⟩ := writeBytes_sram (fuel := (b.take 16384).length) (a := slotAddr i) (l := b.take 16384)
      (by rw [slotAddr]; omega) h
    obtain ⟨hsame', hframe'⟩ := ih (b := b.drop 16384) hsame
    exact ⟨hsame', hframe.trans hframe'⟩

end Sys2Proof.Machine

/-! ## STEP (O60: spec/14, R275, R276, R281)

A STEP's reads and writes that need not wait change no stream (`StepKeeps`); its last act advances its own. -/
namespace Sys2Proof.Machine
open Sys2Proof

/-- What a STEP leaves until it ends. -/
structure StepKeeps (s t : Sled) : Prop where
  streams : t.ste.streams = s.ste.streams
  stamp : t.ste.stamp = s.ste.stamp
  ctr : t.ctr = s.ctr
  sem : t.sem = s.sem
  waits : t.waits = s.waits
  vc : t.vc = s.vc
  bank : t.bank = s.bank
  chan : t.chan = s.chan
  fab : t.fab = s.fab
  lnk : t.lnk = s.lnk
  stall : t.stall = s.stall

theorem StepKeeps.trans {s t u : Sled} (h : StepKeeps s t) (h' : StepKeeps t u) : StepKeeps s u :=
  ⟨h'.streams.trans h.streams, h'.stamp.trans h.stamp, h'.ctr.trans h.ctr, h'.sem.trans h.sem, h'.waits.trans h.waits,
    h'.vc.trans h.vc, h'.bank.trans h.bank, h'.chan.trans h.chan, h'.fab.trans h.fab, h'.lnk.trans h.lnk,
    h'.stall.trans h.stall⟩

theorem BackFrame.stepKeeps {s t : Sled} (h : BackFrame s t) : StepKeeps s t := by
  unfold BackFrame at h
  generalize t.mem = a, t.ecc = b, t.kpr = c, t.regs = d, t.hst = e, t.outs = f at h
  subst h
  exact ⟨rfl, rfl, rfl, rfl, rfl, rfl, rfl, rfl, rfl, rfl, rfl⟩

/-- New bookkeeping of the stream engine's descriptors. -/
theorem stepKeeps_setDescs (l : List Desc) (s : Sled) : StepKeeps s (setDescs 8 l s) :=
  ⟨rfl, rfl, rfl, rfl, rfl, rfl, rfl, rfl, rfl, rfl, rfl⟩

theorem stepKeeps_logPoison (id : Nat) (s : Sled) : StepKeeps s (logPoison 8 id s) := by
  rw [logPoison]
  split
  · split
    · exact (BackFrame.refl s).stepKeeps
    · exact (stepKeeps_setDescs _ s).trans (backFrame_logRec ..).stepKeeps
  · exact (BackFrame.refl s).stepKeeps

/-! ### The positions -/

theorem backFrame_readSlots {slots : List Nat} {n : Nat} {s : Sled} (hs : calm s) :
    BackFrame s (readSlots slots n s).2 := by
  induction slots generalizing n s with
  | nil => exact .refl s
  | cons i slots ih =>
    have hread := backFrame_readBytes (fuel := min n 16384) (a := slotAddr i) (n := min n 16384) hs
    exact hread.trans (ih (hread.calm hs))

theorem backFrame_writeSlots {slots : List Nat} {b : List (Byte × Bool)} {s : Sled} (hs : calm s) :
    BackFrame s (writeSlots slots b s) := by
  induction slots generalizing b s with
  | nil => exact .refl s
  | cons i slots ih =>
    have hwrite := backFrame_writeBytes (fuel := (b.take 16384).length) (a := slotAddr i) (l := b.take 16384) hs
    exact hwrite.trans (ih (hwrite.calm hs))

/-- An input row of a position. -/
def stepRow (t : Strm) (d : Desc) (i base : Nat) (s : Sled) : List (FVal × Bool) × Sled :=
  let x := readLocal (base + i * dField d 0x38 4) (t.c * stepInBytes (d.fmt % 16)) s
  ((List.range t.c).map fun ch =>
    let (v, p) := rowElem (8 * stepInBytes (d.fmt % 16)) x.1.1 ch
    (stepIn (d.fmt % 16) v, p), x.2)

/-- The gate row of a position, where the kind has one. -/
def stepGates (t : Strm) (d : Desc) (i : Nat) (s : Sled) : List (FVal × Bool) × Sled :=
  if t.kind = 4 then stepRow t d i (dField d 0x28 8) s else ([], s)

/-- The output row of a position, unless the descriptor asks for none. -/
def stepWrite (d : Desc) (i : Nat) (ys : List (FVal × Bool)) (s : Sled) : Sled :=
  if bitAt d.flags 4 then s
  else writeLocal (dField d 0x30 8 + i * dField d 0x3C 4)
    (ys.flatMap fun (y, p) => (leBytes (stepOut (d.fmt / 16)).bytes (encodeF (stepOut (d.fmt / 16)) y)).map fun b => (b, p)) s

theorem stepRun_succ (t : Strm) (d : Desc) (ps : List (List FVal × Bool)) (n i : Nat) (st : List (List FVal × Bool)) (m
    : StepMet)
    (s : Sled) : ∃ (y : List (List FVal × Bool) × List (FVal × Bool)) (m' : StepMet), stepRun t d ps (n + 1) i st m s =
      stepRun t d ps n (i + 1) y.1 m'
        (stepWrite d i y.2 (stepGates t d i (stepRow t d i (dField d 0x20 8) s).2).2) :=
  ⟨stepPosition t (fget d.curves [] t.pwl) ps st (stepRow t d i (dField d 0x20 8) s).1
    (stepGates t d i (stepRow t d i (dField d 0x20 8) s).2).1, _, rfl⟩

/-- Positions change nothing but memory and what reads of bad words log. -/
theorem backFrame_stepRun {t : Strm} {d : Desc} {ps : List (List FVal × Bool)} {n i : Nat} {st : List (List FVal ×
    Bool)}
    {m : StepMet} {s : Sled} (hs : calm s) : BackFrame s (stepRun t d ps n i st m s).2.2 := by
  have hrow (i base : Nat) {u : Sled} (hu : calm u) : BackFrame u (stepRow t d i base u).2 := backFrame_readBytes hu
  have hgates (i : Nat) {u : Sled} (hu : calm u) : BackFrame u (stepGates t d i u).2 := by
    rw [stepGates]
    split
    · exact hrow _ _ hu
    · exact .refl u
  have hwrite (i : Nat) (ys : List (FVal × Bool)) {u : Sled} (hu : calm u) : BackFrame u (stepWrite d i ys u) := by
    rw [stepWrite]
    split
    · exact .refl u
    · exact backFrame_writeBytes hu
  induction n generalizing i st m s with
  | zero => exact .refl s
  | succ n ih =>
    obtain ⟨y, m', heq⟩ := stepRun_succ t d ps n i st m s
    rw [heq]
    have h₁ := hrow i (dField d 0x20 8) hs
    have h₂ := h₁.trans (hgates i (h₁.calm hs))
    have h₃ := h₂.trans (hwrite i y.2 (h₂.calm hs))
    exact h₃.trans (ih (h₃.calm hs))

/-! ### The end -/

/-- What a STEP that has run its positions leaves of the streams. -/
def stepEnd (d : Desc) (t : Strm) (bad : Bool) (s : Sled) : Sled :=
  opDone 8 d.id (progress t.tenant (putStrm (dStream d)
    { t with pos := t.pos + dField d 0x1C 4, nonfin := t.nonfin || bad, lastStep := s.ste.stamp + 1 }
    { s with ste := { s.ste with stamp := s.ste.stamp + 1 } }))

/-- A STEP's effect is its end on a sled that it has kept. -/
theorem stepEffect_eq {d : Desc} {t : Strm} {s : Sled} (hres : t.resident = true) (hs : calm s) :
    ∃ bad u, stepEffect d t s = stepEnd d t bad u ∧ StepKeeps s u := by
  have hread : BackFrame s (readBody (whoQ s 8 d.q) t s).2 := by
    rw [readBody, if_pos hres]
    exact backFrame_readSlots hs
  rw [stepEffect]
  generalize readBody (whoQ s 8 d.q) t s = r at hread ⊢
  obtain ⟨b, u⟩ := r
  dsimp only at hread ⊢
  have hrun (ps st : List (List FVal × Bool)) : BackFrame u (stepRun t d ps (dField d 0x1C 4) 0 st {} u).2.2 :=
    backFrame_stepRun (hread.calm hs)
  replace hrun := fun ps st => hread.trans (hrun ps st)
  generalize hx : stepRun t d _ (dField d 0x1C 4) 0 _ {} u = x
  replace hrun : BackFrame s x.2.2 := by
    rw [← hx]
    exact hrun ..
  obtain ⟨st, m, v⟩ := x
  dsimp only at hrun ⊢
  have hwrite (l : List (Byte × Bool)) : BackFrame s (writeSlots t.slots l v) := hrun.trans (backFrame_writeSlots (hrun.calm hs))
  generalize hw : writeSlots t.slots _ v = w
  replace hwrite : BackFrame s w := by
    rw [← hw]
    exact hwrite _
  refine ⟨m.bad, _, rfl, ?_⟩
  have hbad : BackFrame w (if (m.bad && !t.nonfin) = true then
      bump bSTE 0x418 (logRec { recWho w 0x6005 (whoQ w 8 d.q) with object := dStream d } w) else w) := by
    split
    · exact (backFrame_logRec ..).trans rfl
    · exact .refl w
  have hkeep := (hwrite.trans hbad).stepKeeps
  split
  · exact hkeep.trans (stepKeeps_logPoison ..)
  · exact hkeep

/-- The stream after a STEP's end, and what stays. -/
theorem stepEnd_advances {d : Desc} {t : Strm} {bad : Bool} {s u v : Sled} (hkeep : StepKeeps s u) (hv : stepEnd d t bad
    u = v) :
    ffind v.ste.streams (dStream d) = some { t with pos := t.pos + dField d 0x1C 4, nonfin := t.nonfin || bad,
                                                    lastStep := s.ste.stamp + 1 } ∧
      (∀ i, i ≠ dStream d → ffind v.ste.streams i = ffind s.ste.streams i) ∧
      (∀ e ∈ v.ste.descs, e.id = d.id → e.stage = 2) ∧ v.stall = s.stall ∧
      v.ctr = s.ctr ∧ v.sem = s.sem ∧ v.waits = s.waits ∧ v.vc = s.vc ∧ v.bank = s.bank ∧ v.chan = s.chan ∧ v.fab = s.fab ∧
      v.lnk = s.lnk := by
  have hstreams : v.ste.streams = fput s.ste.streams (dStream d)
      { t with pos := t.pos + dField d 0x1C 4, nonfin := t.nonfin || bad, lastStep := s.ste.stamp + 1 } := by
    rw [← hkeep.streams, ← hkeep.stamp, ← hv]
    rfl
  refine ⟨by rw [hstreams]; exact ffind_fput_same .., fun i hi => by rw [hstreams]; exact ffind_fput_other _ _ hi,
    fun e he hid => ?_, ?_, ?_, ?_, ?_, ?_, ?_, ?_, ?_, ?_⟩
  · rw [← hv] at he
    exact stage_opDone (u := 8) he hid
  · rw [← hkeep.stall, ← hv]; rfl
  · rw [← hkeep.ctr, ← hv]; rfl
  · rw [← hkeep.sem, ← hv]; rfl
  · rw [← hkeep.waits, ← hv]; rfl
  · rw [← hkeep.vc, ← hv]; rfl
  · rw [← hkeep.bank, ← hv]; rfl
  · rw [← hkeep.chan, ← hv]; rfl
  · rw [← hkeep.fab, ← hv]; rfl
  · rw [← hkeep.lnk, ← hv]; rfl

/-- Settles O60: its accesses need not wait, so that it runs its positions and ends. -/
theorem stepCommandCompletes : Obligations.StepCommandCompletes := by
  unfold Obligations.StepCommandCompletes
  intro s q k d st hd horphan hstrm hten hres hpaused hcurve honly hrows hcalm hecc
  have hearlier : earlierOp s.sled d = false := by
    rw [earlierOp, List.any_eq_false]
    intro e he hall
    simp only [Bool.and_eq_true, decide_eq_true_eq] at hall
    obtain ⟨⟨⟨⟨hid, hstage⟩, -⟩, -⟩, hstream⟩ := hall
    exact honly e he hid hstage hstream
  have hstrm' : strmOf s.sled d = some st := by
    rw [strmOf, horphan, if_neg Bool.false_ne_true, hstrm]
    exact if_pos hten
  have hreach : stepReach s.sled st d = true := by
    rw [stepReach, List.all_eq_true]
    intro i hi
    obtain ⟨hin, hgate, hout⟩ := hrows i (List.mem_range.1 hi)
    simp only [hin, Bool.true_and, Bool.and_eq_true, Bool.or_eq_true, decide_eq_true_eq]
    refine ⟨(Decidable.em (st.kind = 4)).symm.imp id hgate, ?_⟩
    cases hf : bitAt d.flags 4 with
    | true => exact .inl rfl
    | false => exact .inr (hout hf)
  have hbar : stepBar d st s.sled = 0 := by
    have hvalid : (decide (st.kind = 4) && !pwlValid (fget d.curves [] st.pwl)) = false := by
      cases hk : decide (st.kind = 4) with
      | false => rfl
      | true => rw [hcurve (of_decide_eq_true hk)]; rfl
    rw [stepBar, hpaused, hreach]
    simp only [hvalid, Bool.false_eq_true, if_false, Bool.not_true]
  obtain ⟨bad, u, heq, hkeep⟩ := stepEffect_eq (d := d) hres hcalm
  have hfx : fxStep q k s.sled = stepEnd d st bad u := by
    obtain ⟨hk, hruns, hstage, hop⟩ := hd
    rw [fxStep, onStarted, hk]
    simp only [if_true, hruns, hstage, hop, decide_true, Bool.and_self, onStream, hearlier, Bool.false_eq_true, if_false,
      hstrm', hbar, ne_eq, not_true_eq_false, hres, Bool.true_or]
    exact heq
  obtain ⟨hown, hother, hdone, hstall, hctr, hsem, hwaits, hvc, hbank, hchan, hfab, hlnk⟩ := stepEnd_advances hkeep rfl
  exact ⟨_, _, liftHold_next hfx hstall, rfl, hown, rfl, rfl, hres, hpaused, rfl, hother, hdone, hctr, hsem, hwaits, hvc, hbank,
    hchan, hfab, hlnk⟩

end Sys2Proof.Machine

/-! ## Capsules (O39: spec/14, R282 to R286) -/
namespace Sys2Proof.Machine
open Sys2Proof

/-! ### A resident body -/

/-- Bytes of a cleared SRAM without errors are read clean, whether they are mapped or not, and change nothing. -/
theorem readBytes_sram {fuel a n : Nat} {s : Sled} (ha : 2 ^ 39 ≤ a) (hclear : s.clearing = false) (hecc : s.ecc = [])
    (hfuel : n ≤ fuel) : ∃ (l : List Byte) (ok : Bool), readBytes fuel a n s = ((cleanBytes l, ok), s) ∧ l.length = n := by
  induction fuel generalizing a n with
  | zero =>
    obtain rfl : n = 0 := by omega
    exact ⟨[], true, rfl, rfl⟩
  | succ fuel ih =>
    by_cases hn : n = 0
    · subst hn
      exact ⟨[], true, rfl, rfl⟩
    · obtain ⟨l, ok, hrest, hlen⟩ := ih (a := a + min (32 - a % 32) n) (n := n - min (32 - a % 32) n) (by omega) (by omega)
      rw [readBytes, if_neg hn]
      cases hp : placeOf s a with
      | none =>
        refine ⟨List.replicate (min (32 - a % 32) n) 0 ++ l, false, ?_, by simp; omega⟩
        simp only [hrest, cleanBytes, List.map_append, List.map_replicate, Bool.false_and]
      | some p =>
        have hplace := placeOf_sram ha hp
        have hheld : heldRead s (p / 32 * 32) = false := by rw [heldRead, if_neg (by omega), hclear]
        refine ⟨((memRead s.mem (p / 32 * 32) 32).drop (a % 32)).take (min (32 - a % 32) n) ++ l, ok, ?_, by simp; omega⟩
        simp only [readWord, hheld, Bool.false_eq_true, if_false, readRaw_clean (by omega : 2 ^ 40 ≤ p / 32 * 32) hecc, hrest,
          cleanBytes, List.map_append, Bool.true_and]

theorem readSlots_clean {slots : List Nat} {n : Nat} {s : Sled} (hclear : s.clearing = false) (hecc : s.ecc = []) :
    ∃ l : List Byte, readSlots slots n s = (cleanBytes l, s) ∧ l.length = min n (16384 * slots.length) := by
  induction slots generalizing n with
  | nil => exact ⟨[], rfl, by simp⟩
  | cons i slots ih =>
    obtain ⟨l, ok, hread, hlen⟩ := readBytes_sram (fuel := min n 16384) (a := slotAddr i) (n := min n 16384)
      (by rw [slotAddr]; omega) hclear hecc le_rfl
    obtain ⟨l', hrest, hlen'⟩ := ih (n := n - min n 16384)
    refine ⟨l ++ l', ?_, ?_⟩
    · rw [readSlots]
      simp only [readLocal, hread, hrest, cleanBytes, List.map_append]
    · rw [List.length_append, hlen, hlen', List.length_cons]
      omega

/-- The slots of a body hold it. -/
theorem bodyLen_le_slots (t : Strm) : bodyLen t ≤ 16384 * bodySlots t := by
  rw [bodySlots, ceilDiv]
  omega

theorem length_capHeader (s : Sled) (id ver : Nat) (t : Strm) : (capHeader s id ver t).length = 64 := by
  simp [capHeader]

/-- The capsule of a resident stream in a cleared SRAM without errors. -/
theorem capsule_clean {w : Who} {id ver : Nat} {t : Strm} {s : Sled} (hres : t.resident = true) (hslots : t.slots.length
    = bodySlots t)
    (hclear : s.clearing = false) (hecc : s.ecc = []) :
    ∃ l : List Byte, capsule w id ver t s = (cleanBytes l, s) ∧ l.length = 68 + bodyLen t := by
  obtain ⟨b, hread, hlen⟩ := readSlots_clean (slots := t.slots) (n := bodyLen t) hclear hecc
  have hbody : readBody w t s = (cleanBytes b, s) := by rw [readBody, if_pos hres, hread]
  have hfit := bodyLen_le_slots t
  refine ⟨capHeader s id ver t ++ b ++ leBytes 4 (crc32c (capHeader s id ver t ++ b)), ?_, ?_⟩
  · rw [capsule, hbody]
    simp [cleanBytes, Function.comp_def]
  · simp only [List.length_append, length_capHeader, length_leBytes, hlen, hslots]
    omega

/-! ### Export -/

/-- The operation of a started descriptor of the stream engine acts. -/
theorem onStarted_ste {s : Sled} {q k op : Nat} {d : Desc} {f : Desc → Sled → Sled} (h : steDesc s q k d op) :
    onStarted 8 q k op f s = f d s := by
  obtain ⟨hk, hruns, hstage, hop⟩ := h
  simp [onStarted, hk, hruns, hstage, hop]

/-- An operation that no earlier one holds back acts on its resident stream. -/
theorem onStream_resident {s : Sled} {d : Desc} {t : Strm} {r : Bool} {f : Strm → Sled → Sled} (hearlier : earlierOp s d
    = false)
    (hstrm : strmOf s d = some t) (hres : t.resident = true) : onStream d r noBar f s = f t s := by
  rw [onStream, hearlier, if_neg Bool.false_ne_true, hstrm]
  simp only [noBar, ne_eq, not_true_eq_false, if_false, hres, Bool.true_or, if_true]

/-- What an EXPORT to the own sled leaves. -/
def exported (d : Desc) (s : Sled) : Sled := opDone 8 d.id (if bitAt d.flags 4 then endStrm (dStream d) s else s)

theorem exported_streams {d : Desc} {s t : Sled} (ht : exported d s = t) :
    t.mem = s.mem ∧ t.stall = s.stall ∧ (bitAt d.flags 4 = true → ffind t.ste.streams (dStream d) = none) ∧
      (bitAt d.flags 4 = false → t.ste.streams = s.ste.streams) ∧ ∀ e ∈ t.ste.descs, e.id = d.id → e.stage = 2 := by
  have hdone : ∀ e ∈ t.ste.descs, e.id = d.id → e.stage = 2 := fun e he hid => by
    rw [← ht] at he
    exact stage_opDone (u := 8) he hid
  rw [exported] at ht
  cases hf : bitAt d.flags 4 with
  | true =>
    rw [hf, if_pos rfl] at ht
    refine ⟨by rw [← ht]; rfl, by rw [← ht]; rfl, fun _ => ?_, fun h => Bool.noConfusion h, hdone⟩
    have hstreams : t.ste.streams = ferase s.ste.streams (dStream d) := by
      rw [← ht]
      rfl
    rw [hstreams, ffind_ferase, if_pos rfl]
  | false =>
    rw [hf, if_neg Bool.false_ne_true] at ht
    exact ⟨by rw [← ht]; rfl, by rw [← ht]; rfl, fun h => Bool.noConfusion h, fun _ => by rw [← ht]; rfl, hdone⟩

theorem exportEffect_own {s : Sled} {d : Desc} {t : Strm} {dst : Nat} {c : List (Byte × Bool)} (hver : bitAt d.flags 5 =
    false)
    (hdst : dField d 0x20 8 = moduleId s * 2 ^ 40 + dst) (hlt : dst < 2 ^ 40) (hroom : 68 + bodyLen t ≤ dField d 0x28 4)
    (hok : rowOk s t.tenant (dField d 0x20 8) (68 + bodyLen t) = true)
    (hc : capsule (whoQ s 8 d.q) (dStream d) 2 t s = (c, s)) :
    exportEffect d t s = exported d (writeLocal dst c s) := by
  have hshort : ¬ (dField d 0x28 4 < 68 + bodyLen t ∨ (false && !v1Ok t) = true) := by
    rw [Bool.false_and]
    simp only [Bool.false_eq_true, or_false]
    omega
  rw [exportEffect]
  simp only [hver, hshort, if_false, hok, Bool.not_true, Bool.false_eq_true, hc]
  rw [writeGlobal, hdst, global_div hlt, global_mod hlt, if_pos rfl, exported]

/-! ### Registration -/

/-- A body that fits takes the lowest free slots. -/
theorem register_fits {d : Desc} {id : Nat} {t : Strm} {body : List (Byte × Bool)} {s v : Sled} (hclear : s.clearing =
    false)
    (hfit : slotsUsed s t.tenant + bodySlots t ≤ slotQuota s t.tenant) (hv : opDone 8 d.id (register d id t body s) = v) :
    ffind v.ste.streams id = some { t with
        resident := true, slots := freeSlots s (bodySlots t), lastStep := s.ste.stamp + 1 } ∧
      v.mem = (writeSlots (freeSlots s (bodySlots t)) body s).mem ∧ (∀ e ∈ v.ste.descs, e.id = d.id → e.stage = 2) ∧
      v.stall = s.stall := by
  generalize hs' : ({ s with ste := { s.ste with stamp := s.ste.stamp + 1 } } : Sled) = s' at *
  have hused : slotsUsed s' t.tenant + bodySlots t ≤ slotQuota s' t.tenant := by
    rw [← hs']
    exact hfit
  have hslots : freeSlots s' (bodySlots t) = freeSlots s (bodySlots t) := by
    rw [← hs']
    rfl
  have hsame : SameSram s s' := by
    rw [← hs']
    exact ⟨rfl, rfl, rfl, hclear, hclear⟩
  obtain ⟨hsram, -⟩ := writeSlots_sram (slots := freeSlots s (bodySlots t)) (b := body) hsame
  obtain ⟨-, hframe⟩ := writeSlots_sram (slots := freeSlots s (bodySlots t)) (b := body) (SameSram.refl hsame.clear')
  have hverdict (u : Strm) (hu : u.tenant = t.tenant) : slotVerdict s' u.tenant d.id (bodySlots t) = 0 := by
    rw [hu, slotVerdict]
    exact if_pos (by omega)
  have hevict (l : List (Nat × Strm)) : evictUntil (whoQ s' 8 d.q) t.tenant (bodySlots t) l s' = s' := by
    cases l with
    | nil => rfl
    | cons x l => rw [evictUntil, if_pos hused]
  have hreg : register d id t body s = putStrm id { t with
      resident := true, slots := freeSlots s (bodySlots t), lastStep := s.ste.stamp + 1 }
      (writeSlots (freeSlots s (bodySlots t)) body s') := by
    have hstamp : s'.ste.stamp = s.ste.stamp + 1 := by rw [← hs']
    rw [register]
    simp only [hs', hverdict t rfl, if_true, hevict, hslots]
  rw [hreg] at hv
  have hmem : v.mem = (writeSlots (freeSlots s (bodySlots t)) body s').mem := by rw [← hv]; rfl
  have hstall : v.stall = (writeSlots (freeSlots s (bodySlots t)) body s').stall := by rw [← hv]; rfl
  have hstreams : v.ste.streams = fput (writeSlots (freeSlots s (bodySlots t)) body s').ste.streams id { t with
      resident := true, slots := freeSlots s (bodySlots t), lastStep := s.ste.stamp + 1 } := by
    rw [← hv]
    rfl
  refine ⟨?_, hmem.trans hsram.mem, fun e he hid => ?_, ?_⟩
  · rw [hstreams]
    exact ffind_fput_same ..
  · rw [← hv] at he
    exact stage_opDone (u := 8) he hid
  · rw [hstall, hframe.stepKeeps.stall, ← hs']

/-! ### Import -/

theorem fxStrImport_own {s : Sled} {q k n : Nat} {d : Desc} {h l : List (Byte × Bool)} (hd : steDesc s q k d 0x63)
    (hsrc : dField d 0x20 8 / 2 ^ 40 = moduleId s) (hok : rowOk s (qTen s 8 d.q) (dField d 0x20 8) 68 = true)
    (hread : readLocal (dField d 0x20 8 % 2 ^ 40) 64 s = ((h, true), s)) (hstart : capStart (h.map (·.1)) = true)
    (hn : n = 68 + leNat (((h.map (·.1)).drop 0xC).take 4)) (hok' : rowOk s (qTen s 8 d.q) (dField d 0x20 8) n = true)
    (hread' : readLocal (dField d 0x20 8 % 2 ^ 40) n s = ((l, true), s)) :
    fxStrImport q k s = importEffect d l s := by
  rw [fxStrImport, onStarted_ste hd]
  simp only [hsrc, if_true, hok, Bool.not_true, Bool.false_eq_true, if_false, hread, hstart, ← hn, hok', hread']

theorem fxStrImport_badStart {s : Sled} {q k : Nat} {d : Desc} {h : List (Byte × Bool)} {ok : Bool} (hd : steDesc s q k
    d 0x63)
    (hsrc : dField d 0x20 8 / 2 ^ 40 = moduleId s) (hok : rowOk s (qTen s 8 d.q) (dField d 0x20 8) 68 = true)
    (hread : readLocal (dField d 0x20 8 % 2 ^ 40) 64 s = ((h, ok), s)) (hstart : capStart (h.map (·.1)) = false) :
    fxStrImport q k s = descFault 8 d 0x6002 1 (bump bSTE 0x420 s) := by
  rw [fxStrImport, onStarted_ste hd]
  simp only [hsrc, if_true, hok, Bool.not_true, Bool.false_eq_true, if_false, hread, hstart, Bool.not_false]

/-- A fault of a descriptor of the stream engine takes no time of a channel. -/
theorem stall_descFault_ste {s t : Sled} {q : Fin 16} {k op : Nat} {d : Desc} (hd : steDesc s q k d op) {code a2 : Nat}
    {u : Sled}
    (hu : u.stall = s.stall) (ht : descFault 8 d code a2 u = t) : t.stall = s.stall := by
  have hq := (List.mem_filter.1 (List.mem_of_getElem? hd.1)).2
  simp only [Bool.and_eq_true, decide_eq_true_eq] at hq
  obtain ⟨hq, -⟩ := hq
  rw [← ht, (descFault_keeps (u := 8) le_rfl (by omega) (by decide) code a2 u).2.2, hu]

theorem stall_bump (blk off : Nat) (s : Sled) : (bump blk off s).stall = s.stall := rfl

/-- Settles O39: a resident stream's EXPORT, and IMPORT with and without a capsule that passes. -/
theorem capsulesLeaveAndEnter : Obligations.CapsulesLeaveAndEnter := by
  unfold Obligations.CapsulesLeaveAndEnter
  refine ⟨?leaves, ?enters, ?badStart⟩
  case leaves =>
    intro s q k d st core dst hd hearlier hstrm hres hver hdst hown _ hruns hroom hok hecc hclear hslots
    have hlt := ownScratch_lt core.isLt hown
    obtain ⟨l, hc, hlen⟩ := capsule_clean (w := whoQ s.sled 8 d.q) (id := dStream d) (ver := 2) hres hslots hclear hecc
    obtain ⟨m, e, hw, hst⟩ := writeLocal_scratch (s := s.sled) (l := l) core.isLt hruns (by rwa [hlen]) hclear (.inl hecc)
    have hfx : fxStrExport q k s.sled = exported d { s.sled with mem := m, ecc := e } := by
      rw [fxStrExport, onStarted_ste hd, onStream_resident hearlier hstrm hres, exportEffect_own hver hdst (by omega) hroom hok hc, hw]
    obtain ⟨hmem, hstall, hgone, hkept, hdone⟩ := exported_streams (d := d) (s := { s.sled with mem := m, ecc := e }) rfl
    refine ⟨_, liftHold_next hfx hstall, rfl, ?_, fun x hx => ?_, hgone, hkept, hdone⟩
    · rw [hmem, hc, map_fst_cleanBytes, ← hlen]
      exact hst.read
    · rw [hmem]
      exact hst.get_out (by omega)
  case enters =>
    intro s q k d h l st n hd hsrc hok hread hstart hclear hn hok' hread' hst
    have hfx := fxStrImport_own hd hsrc hok hread hstart hn hok' hread'
    subst hst
    refine ⟨fun hreason hhome hbar hfit => ?_, fun hreason => ?_⟩
    · have heff : fxStrImport q k s.sled = opDone 8 d.id (register d (dStream d)
          (capStrm (l.map (·.1)) (qTen s.sled 8 d.q) (dField d 0x28 8) (bitAt (dField d 0x30 1) 1))
          ((l.drop 64).take (bodyLen (capStrm (l.map (·.1)) (qTen s.sled 8 d.q) (dField d 0x28 8)
            (bitAt (dField d 0x30 1) 1)))) s.sled) := by
        rw [hfx, importEffect]
        simp only [hreason, hhome, hbar, ne_eq, not_true_eq_false, if_false, Bool.not_true, Bool.false_eq_true]
      obtain ⟨hstrm, hmem, hdone, hstall⟩ := register_fits hclear hfit rfl
      exact ⟨_, liftHold_next heff hstall, rfl, hstrm, hmem, hdone⟩
    · have heff : fxStrImport q k s.sled = descFault 8 d 0x6002 (capReason s.sled (l.map (·.1))
          (capStrm (l.map (·.1)) (qTen s.sled 8 d.q) (dField d 0x28 8) (bitAt (dField d 0x30 1) 1))) (bump bSTE 0x420 s.sled) := by
        rw [hfx, importEffect]
        simp only [hreason, ne_eq, not_false_eq_true, if_true]
      exact liftHold_next heff (stall_descFault_ste hd (stall_bump ..) rfl)
  case badStart =>
    intro s q k d h ok hd hsrc hok hread hstart
    exact liftHold_next (fxStrImport_badStart hd hsrc hok hread hstart) (stall_descFault_ste hd (stall_bump ..) rfl)

end Sys2Proof.Machine

/-! ## Bring-up of a link (O41: spec/15, R291 to R295, R310, R313) -/
namespace Sys2Proof.Machine
open Sys2Proof

/-! ### A link's state -/

@[simp] theorem getLnk_updLnk_same (l : Nat) (f : Lnk → Lnk) (s : Sled) : getLnk (updLnk l f s) l = f (getLnk s l) :=
  fget_fset_same ..

theorem getLnk_updLnk_other {l m : Nat} (f : Lnk → Lnk) (s : Sled) (h : m ≠ l) : getLnk (updLnk l f s) m = getLnk s m :=
  fget_fset_other _ _ _ h

theorem updLnk_frame (l : Nat) (f : Lnk → Lnk) (s : Sled) : updLnk l f s = { s with lnk := (updLnk l f s).lnk } := rfl

theorem getLnk_congr {s t : Sled} (h : t.lnk = s.lnk) (l : Nat) : getLnk t l = getLnk s l := by rw [getLnk, h, getLnk]

/-- An event of a link that stands in the state in which it occurs. -/
theorem inState_run {s : Sled} {l st : Nat} {k : Lnk} (h : linkIn s l st k) (f : Sled → Sled) :
    inState l st f s = f s := by
  obtain ⟨hon, hk, hst⟩ := h
  rw [inState, whenS, hon, hk, hst]
  simp

/-- A command that updates one link. -/
theorem onlyLink_updLnk {s : State} {l : Nat} {k k' : Lnk} {f : Lnk → Lnk} (hk : getLnk s.sled l = k) (hf : f k = k') :
    onlyLink s { s with sled := updLnk l f s.sled } l k' :=
  ⟨rfl, rfl, by rw [getLnk_updLnk_same, hk, hf], fun _ hm => getLnk_updLnk_other _ _ hm⟩

/-- Two updates of one link are one. -/
theorem updLnk_updLnk {l : Nat} {f g : Lnk → Lnk} {s : Sled} (hf : f (getLnk s l) ≠ {}) (hg : g (f (getLnk s l)) ≠ {}) :
    updLnk l g (updLnk l f s) = updLnk l (fun k => g (f k)) s := by
  have hput (m : FMap Lnk) (a b : Lnk) : fput (fput m l a) l b = fput m l b := by
    induction m with
    | nil => simp [fput]
    | cons p m ih =>
      obtain ⟨i, x⟩ := p
      by_cases hlt : l < i
      · simp [fput, hlt]
      · by_cases heq : l = i
        · simp [fput, heq]
        · simp [fput, hlt, heq, ih]
  have hlnk : fset (fset s.lnk {} l (f (getLnk s l))) {} l (g (f (getLnk s l))) = fset s.lnk {} l (g (f (getLnk s l))) := by
    rw [fset, if_neg hg, fset, if_neg hf, hput, fset, if_neg hg]
  have hget := getLnk_updLnk_same l f s
  rw [updLnk, hget, updLnk, updLnk]
  exact congrArg (fun m => ({ s with lnk := m } : Sled)) hlnk

/-- An access to a link's first register. -/
theorem regAccess_lnk {a : Agent} {s : Sled} {l : LinkId} (hact : canAct s a = true) (hreach : blkReach a (bLNK l) =
    true)
    (hrun : islRuns s (iL l) = true) (f : Sled → Sled) : regAccess a (bLNK l) 0 f s = f s := by
  have hl := l.isLt
  have hisl : blkIsland (bLNK l) = some (iL l) := by
    rw [blkIsland, if_neg (by simp only [bLNK, bGLB, bISL, bTHM, bKPR]; omega), if_neg (by simp only [bLNK, bMAP, bSYN]; omega),
      if_neg (by simp only [bLNK]; omega), if_neg (by simp only [bLNK]; omega), if_neg (by simp only [bLNK]; omega),
      if_neg (by simp only [bLNK, bSTE]; omega), if_pos (by simp only [bLNK]; omega), bLNK, Nat.add_sub_cancel_left]
  have hopen : regOpen s (bLNK l) 0 = true := by
    rw [regOpen, hisl]
    simp [hrun]
  have hheld : crossHeld s (bLNK l) = false := by
    rw [crossHeld, bLNK, decide_eq_false (by omega : ¬ 0x60 + l.val ≤ 0x018), decide_eq_false (by omega : ¬ 0x60 + l.val ≤ 0x028)]
    simp
  simp [regAccess, hact, hreach, hopen, hheld]

/-! ### Training, configuration and authentication -/

theorem wholeHalf_low (x : Nat) : wholeHalf x 0 = decide (x % 16 = 15) := by simp [wholeHalf, bitsOf]

theorem wholeHalf_high {x : Nat} (h : x < 256) : wholeHalf x 1 = decide (x / 16 = 15) := by
  rw [wholeHalf, bitsOf, Nat.mod_eq_of_lt (by omega)]
  rfl

/-- Training with a whole half. -/
theorem fxLinkTrained_half {s : Sled} {l : Nat} {r : LinkTrain} {k : Lnk} (hk : linkIn s l 2 k)
    (h : (wholeHalf r.lanes.toNat 0 || wholeHalf r.lanes.toNat 1) = true) :
    fxLinkTrained l r s = updLnk l (fun x => { x with
      state := 3, narrow := !(wholeHalf r.lanes.toNat 0 && wholeHalf r.lanes.toNat 1)
      half := wholeHalf r.lanes.toNat 1 && !wholeHalf r.lanes.toNat 0 }) (updLnk l (fun x => { x with lock := r.lanes }) s) := by
  rw [fxLinkTrained, inState_run hk]
  simp only [h, if_true]

/-- The link after training with a whole half. -/
theorem linkTrained_half {s : State} {l : LinkId} {r : LinkTrain} {k : Lnk} (hk : linkIn s.sled l 2 k)
    (h : (wholeHalf r.lanes.toNat 0 || wholeHalf r.lanes.toNat 1) = true) :
    ∃ t, exec (.linkTrained l r) s = .next t ∧ onlyLink s t l { k with
      state := 3, lock := r.lanes, narrow := !(wholeHalf r.lanes.toNat 0 && wholeHalf r.lanes.toNat 1)
      half := wholeHalf r.lanes.toNat 1 && !wholeHalf r.lanes.toNat 0 } := by
  refine ⟨_, lift_next (fxLinkTrained_half hk h), rfl, rfl, ?_, fun m hm => ?_⟩
  · rw [getLnk_updLnk_same, getLnk_updLnk_same, hk.2.1]
  · exact (getLnk_updLnk_other _ _ hm).trans (getLnk_updLnk_other _ _ hm)

theorem commonFlit_updLnk (l : Nat) (f : Lnk → Lnk) (s : Sled) (o : LinkOffer) : commonFlit (updLnk l f s) o =
    commonFlit s o := rfl

theorem commonRate_updLnk (l : Nat) (f : Lnk → Lnk) (s : Sled) (o : LinkOffer) : commonRate (updLnk l f s) o =
    commonRate s o := rfl

theorem peerFits_updLnk (l : Nat) (f : Lnk → Lnk) (s : Sled) (c : ProfileCfg) (i p : Nat) :
    peerFits (updLnk l f s) c i p = peerFits s c i p := rfl

theorem getLnk_nextFree (s : Sled) (l : Nat) : getLnk (nextFree s).2 l = getLnk s l := rfl

theorem moduleId_updLnk (l : Nat) (f : Lnk → Lnk) (s : Sled) : moduleId (updLnk l f s) = moduleId s := rfl

/-- Configuration with a peer that fits. -/
theorem fxLinkConfigAgreed_fits {s : Sled} {l : Nat} {o : LinkOffer} {k : Lnk} {p : Ppi} {b r : Bool} (hk : linkIn s l 4
    k)
    (hprof : s.prof = some p) (hb : commonFlit s o = some b) (hr : commonRate s o = some r) (hself : o.peer.toNat ≠ moduleId s)
    (hfits : peerFits s p.cfg l o.peer.toNat = true) :
    fxLinkConfigAgreed l o s = updLnk l (fun x => { x with
      state := 5, flit128 := b, slow := r
      nonce := (nextFree (updLnk l (fun x => { x with peer := o.peer.toNat }) s)).1 % 2 ^ 256, authIn := [], authOut := 0 })
      (nextFree (updLnk l (fun x => { x with peer := o.peer.toNat }) s)).2 := by
  have hprof' : (updLnk l (fun x => { x with peer := o.peer.toNat }) s).prof = some p := hprof
  have hgood : ¬ (o.peer.toNat = moduleId s ∨ (!peerFits s p.cfg l o.peer.toNat) = true) := by
    rw [hfits]
    simpa using hself
  rw [fxLinkConfigAgreed, inState_run hk]
  simp only [hprof', commonFlit_updLnk, commonRate_updLnk, peerFits_updLnk, moduleId_updLnk, hb, hr, hgood, if_false]

/-- Configuration with a peer that does not fit. -/
theorem fxLinkConfigAgreed_fails {s : Sled} {l : Nat} {o : LinkOffer} {k : Lnk} {p : Ppi} (hk : linkIn s l 4 k)
    (hprof : s.prof = some p) (hbad : commonFlit s o = none ∨ commonRate s o = none ∨ o.peer.toNat = moduleId s ∨
      peerFits s p.cfg l o.peer.toNat = false) :
    fxLinkConfigAgreed l o s = linkProtocol l (updLnk l (fun x => { x with peer := o.peer.toNat }) s) := by
  have hprof' : (updLnk l (fun x => { x with peer := o.peer.toNat }) s).prof = some p := hprof
  rw [fxLinkConfigAgreed, inState_run hk]
  simp only [hprof', commonFlit_updLnk, commonRate_updLnk, peerFits_updLnk, moduleId_updLnk]
  cases hb : commonFlit s o with
  | none => rfl
  | some b =>
    cases hr : commonRate s o with
    | none => rfl
    | some r =>
      have hself : o.peer.toNat = moduleId s ∨ (!peerFits s p.cfg l o.peer.toNat) = true := by
        obtain h | h | h | h := hbad
        · rw [hb] at h; cases h
        · rw [hr] at h; cases h
        · exact .inl h
        · exact .inr (by rw [h]; rfl)
      exact if_pos hself

theorem peerListed_iff {s : Sled} {p : Ppi} (hprof : s.prof = some p) (n : Nat) (digest : BitVec 384) :
    peerListed s n digest = true ↔ ∃ g, ffind p.cfg.peers n = some g ∧ (g = 0 ∨ g = digest.toNat) := by
  rw [peerListed, hprof]
  simp only [Option.bind_some]
  cases ffind p.cfg.peers n with
  | none => simp
  | some d => simp

/-- Authentication that passes. -/
theorem fxLinkAuthVerified_passes {s : Sled} {l : Nat} {m : AuthMsg} {k : Lnk} (hk : linkIn s l 5 k) (hkpr : s.kpr.phase
    = .running)
    (hchain : m.chainOk = true) (hsig : m.sigOk = true) (hlist : peerListed s k.peer m.keyDigest = true) :
    fxLinkAuthVerified l m s = linkActive l s := by
  rw [fxLinkAuthVerified, inState_run hk]
  simp only [hkpr, ne_eq, not_true_eq_false, if_false, hchain, hsig, hk.2.1, hlist, Bool.and_self, if_true]

/-- Authentication that fails. -/
theorem fxLinkAuthVerified_fails {s : Sled} {l : Nat} {m : AuthMsg} {k : Lnk} (hk : linkIn s l 5 k) (hkpr : s.kpr.phase
    = .running)
    (hbad : (m.chainOk && m.sigOk && peerListed s k.peer m.keyDigest) = false) :
    fxLinkAuthVerified l m s = updLnk l (fun x => { x with authWait := true }) (linkDown l
      (logLimited (60000 * ms) l { recLink s 0x5004 l with arg1 := k.peer } (bumpLink l 7 1 s))) := by
  rw [fxLinkAuthVerified, inState_run hk]
  simp only [hkpr, ne_eq, not_true_eq_false, if_false, hk.2.1, hbad, Bool.false_eq_true]

/-- A link as it becomes active: sequence numbers and credits anew. -/
def activated (k : Lnk) : Lnk :=
  { k with
    state := 6, auth := true, expect := 0, lastAck := seqMod k - 1, nakOwed := false, nakOut := false
    nextSeq := 0, retry := [], replay := [], nakSeq := none, fails := 0, sent := Vector.replicate 4 0
    got := Vector.replicate 4 0, released := Vector.replicate 4 0, rx := [], tx := Vector.replicate 4 []
    starve := Vector.replicate 4 0, cvc := 0, recovers := [] }

/-- A link that has become active. -/
theorem linkActive_link {s t : Sled} {l : Nat} {k : Lnk} (hk : getLnk s l = k) (ht : linkActive l s = t) :
    getLnk t l = activated k ∧ t.fab.gone = s.fab.gone.filter (fun n => decide (n ≠ k.peer)) ∧
      t = { s with lnk := t.lnk, fab := { s.fab with gone := t.fab.gone } } := by
  subst hk
  have hlnk : t.lnk = (updLnk l activated s).lnk := by
    rw [← ht]
    rfl
  refine ⟨(getLnk_congr hlnk l).trans (getLnk_updLnk_same l activated s), ?_, ?_⟩ <;> rw [← ht] <;> rfl

/-- EN takes its value. -/
theorem fxLnkCtlEnWrite_field {s : Sled} {a : Agent} {l : LinkId} (en : Bool) (hact : canAct s a = true)
    (hreach : blkReach a (bLNK l) = true) (hrun : islRuns s (iL l) = true) (hlock : lockedReg s (bLNK l) 0 = false) :
    rField (rSetField (bLNK l) 0 0 1 (b2n en) s) (bLNK l) 0 0 1 = b2n en ∧
      fxLnkCtlEnWrite a l en s = if b2n en = 1 then rSetField (bLNK l) 0 0 1 (b2n en) s
        else linkEmpty l (setLink l 0 (rSetField (bLNK l) 0 0 1 (b2n en) s)) := by
  have hfield : rField (rSetField (bLNK l) 0 0 1 (b2n en) s) (bLNK l) 0 0 1 = b2n en := by
    rw [rField_rSetField_same _ _ _ _ _ _ (by omega)]
    cases en <;> rfl
  refine ⟨hfield, ?_⟩
  rw [fxLnkCtlEnWrite, regAccess_lnk hact hreach hrun, linkEnable]
  simp only [swField_of_unlocked hlock, hfield]

/-- A link with nothing unacknowledged and nothing to send is emptied. -/
theorem linkEmpty_idle {s : Sled} {l : Nat} (hretry : (getLnk s l).retry = []) (htx : (getLnk s l).tx = Vector.replicate
    4 []) :
    linkEmpty l s = updLnk l (fun k => { k with
      rx := [], retry := [], replay := [], nakSeq := none, fails := 0, nakOwed := false, nakOut := false
      tx := Vector.replicate 4 [], starve := Vector.replicate 4 0, widening := false, widen := false, auth := false }) s := by
  rw [linkEmpty]
  simp only [hretry, htx]
  rfl

/-- Settles O41: the events of bring-up. -/
theorem linkBringUpWalksItsStates : Obligations.LinkBringUpWalksItsStates := by
  unfold Obligations.LinkBringUpWalksItsStates
  refine ⟨?detect, ?found, ?trained, ?aligned, ?config, ?offers, ?auth, ?retry, ?enable⟩
  case detect =>
    intro s l k hk
    exact ⟨_, lift_next (inState_run hk _), onlyLink_updLnk hk.2.1 rfl⟩
  case found =>
    intro s l k hk
    exact ⟨_, lift_next (inState_run hk _), onlyLink_updLnk hk.2.1 rfl⟩
  case trained =>
    intro s l r k hk
    have hlow := wholeHalf_low r.lanes.toNat
    have hhigh := wholeHalf_high r.lanes.isLt
    have hall : r.lanes ≠ 0xFF → ¬ (r.lanes.toNat % 16 = 15 ∧ r.lanes.toNat / 16 = 15) := fun h hh =>
      h (BitVec.eq_of_toNat_eq (by rw [show (0xFF : BitVec 8).toNat = 255 from rfl]; omega))
    refine ⟨fun h => ?_, fun h hne => ?_, fun h hne => ?_, fun h₀ h₁ => ?_⟩
    · have h₀ : wholeHalf r.lanes.toNat 0 = true := by rw [h]; rfl
      have h₁ : wholeHalf r.lanes.toNat 1 = true := by rw [h]; rfl
      have ht := linkTrained_half (s := s) hk (by rw [h₀, h₁]; rfl)
      rwa [h₀, h₁] at ht
    · have h₀ : wholeHalf r.lanes.toNat 0 = true := by rw [hlow, decide_eq_true h]
      have h₁ : wholeHalf r.lanes.toNat 1 = false := by rw [hhigh, decide_eq_false fun h' => hall hne ⟨h, h'⟩]
      have ht := linkTrained_half (s := s) hk (by rw [h₀, h₁]; rfl)
      rwa [h₀, h₁] at ht
    · have h₁ : wholeHalf r.lanes.toNat 1 = true := by rw [hhigh, decide_eq_true h]
      have h₀ : wholeHalf r.lanes.toNat 0 = false := by rw [hlow, decide_eq_false fun h' => hall hne ⟨h', h⟩]
      have ht := linkTrained_half (s := s) hk (by rw [h₀, h₁]; rfl)
      rwa [h₀, h₁] at ht
    · refine lift_next (f := fxLinkTrained l r) ?_
      rw [fxLinkTrained, inState_run hk]
      simp only [hlow, hhigh, h₀, h₁, decide_false, Bool.or_self, Bool.false_eq_true, if_false]
  case aligned =>
    intro s l k hk
    exact ⟨_, lift_next (inState_run hk _), onlyLink_updLnk hk.2.1 rfl⟩
  case config =>
    intro s l o k p hk hprof
    refine ⟨fun b r hb hr hself hfits => ?_, fun hbad => lift_next (fxLinkConfigAgreed_fails hk hprof hbad)⟩
    refine ⟨_, lift_next (fxLinkConfigAgreed_fits hk hprof hb hr hself hfits), rfl, ?_, fun m hm => ?_, rfl⟩
    · rw [getLnk_updLnk_same]
      have hpeer := getLnk_updLnk_same l (fun x => { x with peer := o.peer.toNat }) s.sled
      rw [hk.2.1] at hpeer
      rw [getLnk_nextFree, hpeer]
      rfl
    · rw [getLnk_updLnk_other _ _ hm, getLnk_nextFree, getLnk_updLnk_other _ _ hm]
  case offers =>
    intro s o
    have hown : (ownOffer s).offers300 = true ∧ (ownOffer s).offers200 = true ∧ (ownOffer s).offers256 = !kt3 s := ⟨rfl, rfl, rfl⟩
    obtain ⟨h300, h200, h256⟩ := hown
    refine ⟨?_, ?_, ?_⟩
    · rw [commonRate, h300, h200]
      cases o.offers300 <;> cases o.offers200 <;> decide
    · rw [commonRate, h300, h200]
      cases o.offers300 <;> cases o.offers200 <;> decide
    · rw [commonFlit, h256]
      cases o.offers256 <;> cases kt3 s <;> simp
  case auth =>
    intro s l m k p hk hkpr hprof
    refine ⟨fun g hchain hsig hg hok => ?_, fun hbad => ?_⟩
    · have hlist : peerListed s.sled k.peer m.keyDigest = true := (peerListed_iff hprof ..).2 ⟨g, hg, hok⟩
      obtain ⟨hlink, hgone, hframe⟩ := linkActive_link hk.2.1 (rfl : linkActive l s.sled = _)
      refine ⟨_, lift_next (fxLinkAuthVerified_passes hk hkpr hchain hsig hlist), rfl, hlink, ?_, fun n hn => ?_, hframe⟩
      · rw [hgone]
        simp
      · rw [hgone]
        simp [hn]
    · refine lift_next (fxLinkAuthVerified_fails hk hkpr ?_)
      obtain h | h | h | ⟨g, hg, h₀, hd⟩ := hbad
      · rw [h]; rfl
      · rw [h, Bool.and_false]; rfl
      · have hlist : peerListed s.sled k.peer m.keyDigest = false := Bool.eq_false_iff.2 fun hl => by
          obtain ⟨g, hg, -⟩ := (peerListed_iff hprof ..).1 hl
          rw [h] at hg
          cases hg
        rw [hlist, Bool.and_false]
      · have hlist : peerListed s.sled k.peer m.keyDigest = false := Bool.eq_false_iff.2 fun hl => by
          obtain ⟨g', hg', hok⟩ := (peerListed_iff hprof ..).1 hl
          obtain rfl : g = g' := Option.some.inj (hg.symm.trans hg')
          exact hok.elim h₀ hd
        rw [hlist, Bool.and_false]
  case retry =>
    intro s l k hk
    exact ⟨_, lift_next (inState_run hk _), onlyLink_updLnk hk.2.1 rfl⟩
  case enable =>
    intro s a l hact hreach hrun hlock
    refine ⟨?_, fun hretry htx => ?_⟩
    · obtain ⟨hfield, hfx⟩ := fxLnkCtlEnWrite_field true hact hreach hrun hlock
      exact ⟨_, lift_next (hfx.trans (if_pos rfl)), hfield, rfl⟩
    · obtain ⟨hfield, hfx⟩ := fxLnkCtlEnWrite_field false hact hreach hrun hlock
      have hset : getLnk (setLink l 0 (rSetField (bLNK l) 0 0 1 (b2n false) s.sled)) l = { getLnk s.sled l with state := 0 } :=
        getLnk_updLnk_same ..
      rw [if_neg (by decide), linkEmpty_idle (by rw [hset]; exact hretry) (by rw [hset]; exact htx)] at hfx
      refine ⟨_, lift_next hfx, hfield, ?_, ?_, rfl⟩
      · rw [getLnk_updLnk_same, hset]
      · rw [getLnk_updLnk_same]

end Sys2Proof.Machine

/-! ## RECOVER (O43: spec/15, R306 to R309) -/
namespace Sys2Proof.Machine
open Sys2Proof

theorem linkIn_iL {s : Sled} {l st : Nat} {k : Lnk} (h : linkIn s l st k) : islRuns s (iL l) = true := by
  obtain ⟨hon, -, -⟩ := h
  rw [linkOn, Bool.and_eq_true, Bool.and_eq_true] at hon
  exact hon.1.1

/-- Of an update only its value on the link counts. -/
theorem updLnk_congr {l : Nat} {f g : Lnk → Lnk} {s : Sled} (h : f (getLnk s l) = g (getLnk s l)) :
    updLnk l f s = updLnk l g s := by
  rw [updLnk, h, updLnk]

theorem linkRecover_active {s : Sled} {l : Nat} {k : Lnk} (hk : linkIn s l 6 k) :
    linkRecover l s = updLnk l (fun _ => { k with
      state := 7, nakOwed := false, nakOut := false, replay := [], nakSeq := none, fails := 0 })
      (logRec (recLink s 0x5007 l) (bumpLink l 4 1 s)) := by
  obtain ⟨-, hget, hst⟩ := hk
  have hget' : getLnk (logRec (recLink s 0x5007 l) (bumpLink l 4 1 s)) l = k := by
    rw [getLnk_congr (logRec_lnk ..), bumpLink, getLnk_congr (bumpN_lnk ..), hget]
  rw [linkRecover, hget, if_neg (by simp [hst])]
  exact updLnk_congr (by rw [hget'])

theorem replayAll_none {s : Sled} {l : Nat} (h : (getLnk s l).retry = []) : replayAll l s = s := by
  rw [replayAll, h]
  rfl

/-- A link without unacknowledged flits as it resumes. -/
def resumed (w : Option Bool) (k : Lnk) : Lnk :=
  { k with state := 6, narrow := w.isSome, half := w.getD false, widening := false, widen := false }

theorem linkResume_idle {s : Sled} {l : Nat} (w : Option Bool) (h : (getLnk s l).retry = []) :
    linkResume l w s = updLnk l (resumed w) s := by
  rw [linkResume, replayAll_none (by rw [getLnk_updLnk_same, h])]
  rfl

/-- The end of a check on all lanes. -/
theorem fxRecoverCheckEnd_wide {s : Sled} {l g : Nat} {lock : BitVec 8} {errors : List Nat} {k : Lnk} (hk : linkIn s l 7
    k)
    (hwide : k.narrow = false) (hg : g = healthyLanes s l lock.toNat errors) (v : Sled)
    (hv : updLnk l (fun x => { x with lock := lock }) s = v) :
    fxRecoverCheckEnd l lock errors s =
      if !wholeHalf g 0 && !wholeHalf g 1 then linkDown l v
      else if wholeHalf g 0 && wholeHalf g 1 then
        if 3 ≤ ((k.recovers.filter fun t => s.now < t + 1000 * ms) ++ [s.now]).length then linkDown l v
        else updLnk l (fun x => { x with recovers := (k.recovers.filter fun t => s.now < t + 1000 * ms) ++ [s.now] })
          (linkResume l none v)
      else linkResume l (some (wholeHalf g 1)) (bumpLink l 5 1 (logRec { recLink v 0x5003 l with arg1 := 255 - g } v)) := by
  have hnow : v.now = s.now := by rw [← hv]; rfl
  rw [fxRecoverCheckEnd, inState_run hk]
  simp only [← hg, hk.2.1, hwide, Bool.false_and, Bool.false_eq_true, if_false, hv, hnow]

/-- The end of a check that finds one whole half. -/
theorem recoverCheckEnd_half {s : State} {l : LinkId} {lock : BitVec 8} {e : List (BitVec 24)} {k : Lnk} {g : Nat}
    (hk : linkIn s.sled l 7 k) (hwide : k.narrow = false) (hretry : k.retry = [])
    (hg : g = healthyLanes s.sled l lock.toNat (e.map (·.toNat))) (hhalf : wholeHalf g 0 = !wholeHalf g 1) :
    ∃ t, exec (.recoverCheckEnd l lock e) s = .next t ∧ getLnk t.sled l = { k with
      state := 6, lock := lock, narrow := true, half := wholeHalf g 1, widening := false, widen := false } := by
  have hfx := fxRecoverCheckEnd_wide hk hwide hg _ rfl
  have hlink := getLnk_updLnk_same l (fun x => { x with lock := lock }) s.sled
  rw [hk.2.1] at hlink
  generalize updLnk l (fun x => { x with lock := lock }) s.sled = v at hfx hlink
  have hv : getLnk (bumpLink l 5 1 (logRec { recLink v 0x5003 l with arg1 := 255 - g } v)) l = { k with lock := lock } := by
    rw [bumpLink, getLnk_congr (bumpN_lnk ..), getLnk_congr (logRec_lnk ..), hlink]
  generalize bumpLink l 5 1 (logRec { recLink v 0x5003 l with arg1 := 255 - g } v) = w at hfx hv
  rw [hhalf] at hfx
  have hfx' : fxRecoverCheckEnd l lock (e.map (·.toNat)) s.sled = updLnk l (resumed (some (wholeHalf g 1))) w := by
    rw [hfx, ← linkResume_idle _ (by rw [hv, hretry])]
    cases wholeHalf g 1 <;> rfl
  exact ⟨_, lift_next hfx', (getLnk_updLnk_same ..).trans (by rw [hv]; rfl)⟩

/-- The end of a check that finds every lane. -/
theorem recoverCheckEnd_whole {s : State} {l : LinkId} {lock : BitVec 8} {e : List (BitVec 24)} {k : Lnk} {g : Nat}
    (hk : linkIn s.sled l 7 k) (hwide : k.narrow = false) (hretry : k.retry = [])
    (hg : g = healthyLanes s.sled l lock.toNat (e.map (·.toNat))) (h₀ : wholeHalf g 0 = true) (h₁ : wholeHalf g 1 = true)
    (hfew : (k.recovers.filter fun x => s.sled.now < x + 1000 * ms).length < 2) :
    ∃ t, exec (.recoverCheckEnd l lock e) s = .next t ∧ onlyLink s t l { k with
      state := 6, lock := lock, narrow := false, half := false, widening := false, widen := false
      recovers := (k.recovers.filter fun x => s.sled.now < x + 1000 * ms) ++ [s.sled.now] } := by
  have hfx := fxRecoverCheckEnd_wide hk hwide hg _ rfl
  have hlink := getLnk_updLnk_same l (fun x => { x with lock := lock }) s.sled
  rw [hk.2.1] at hlink
  have hlen : ¬ 3 ≤ ((k.recovers.filter fun t => s.sled.now < t + 1000 * ms) ++ [s.sled.now]).length := by
    rw [List.length_append, List.length_singleton]
    omega
  rw [h₀, h₁, if_neg (show ¬ (!true && !true) = true by decide), if_pos (show (true && true) = true from rfl), if_neg hlen,
    linkResume_idle none (by rw [hlink, hretry])] at hfx
  refine ⟨_, lift_next hfx, rfl, rfl, ?_, fun m hm => ?_⟩
  · rw [getLnk_updLnk_same, getLnk_updLnk_same, hlink]
    rfl
  · exact (getLnk_updLnk_other _ _ hm).trans ((getLnk_updLnk_other _ _ hm).trans (getLnk_updLnk_other _ _ hm))

/-- A link as it goes down. -/
def downed (k : Lnk) : Lnk :=
  { k with
    rx := [], retry := [], replay := [], nakSeq := none, fails := 0, nakOwed := false, nakOut := false
    tx := Vector.replicate 4 [], starve := Vector.replicate 4 0, widening := false, widen := false, auth := false }

theorem linkDown_idle {s : Sled} {l : LinkId} {k : Lnk} (hk : getLnk s l = k) (hretry : k.retry = [])
    (htx : k.tx = Vector.replicate 4 []) :
    linkDown l s = updLnk l (fun _ => downed { k with state := 8 })
      (bumpLink l 6 1 (logRec { recLink s 0x5001 l with arg1 := k.peer } s)) := by
  have hu : getLnk (bumpLink l 6 1 (logRec { recLink s 0x5001 l with arg1 := k.peer } s)) l = k := by
    rw [bumpLink, getLnk_congr (bumpN_lnk ..), getLnk_congr (logRec_lnk ..), hk]
  have hdown : linkDown l s = linkEmpty l (setLink l 8 (bumpLink l 6 1 (logRec { recLink s 0x5001 l with arg1 := k.peer } s))) := by
    rw [← hk]
    rfl
  rw [hdown]
  generalize bumpLink l 6 1 (logRec { recLink s 0x5001 l with arg1 := k.peer } s) = u at hu
  have hset : getLnk (setLink l 8 u) l = { k with state := 8 } := by
    rw [setLink, getLnk_updLnk_same, hu]
  have hne (x : Lnk) (hx : x.state = 8) : x ≠ {} := fun h => by
    rw [h] at hx
    exact absurd hx (by decide)
  rw [linkEmpty_idle (by rw [hset]; exact hretry) (by rw [hset]; exact htx), setLink,
    updLnk_updLnk (hne _ rfl) (hne _ rfl)]
  exact updLnk_congr (by rw [hu]; rfl)

/-- Settles O43: how RECOVER begins and ends. -/
theorem recoverResumesNarrowsOrGoesDown : Obligations.RecoverResumesNarrowsOrGoesDown := by
  unfold Obligations.RecoverResumesNarrowsOrGoesDown
  refine ⟨?retrain, ?recover, ?laneLoss, ?errors, ?check, ?timeout, ?lockLoss, ?down, ?widen⟩
  case retrain =>
    intro s a l k hk hact hreach
    refine lift_next (f := fxLnkRetrain a l) ?_
    rw [fxLnkRetrain, regAccess_lnk hact hreach (linkIn_iL hk), linkRetrain, if_pos hk.1]
  case recover =>
    intro s l k hk
    exact linkRecover_active hk
  case laneLoss =>
    intro s l i k hk
    have hfx : fxLaneLockLoss l i s.sled = if laneUsed k i then
        linkRecover l (updLnk l (fun x => { x with lock := x.lock &&& ~~~((1 : BitVec 8) <<< i.val) }) s.sled)
        else updLnk l (fun x => { x with lock := x.lock &&& ~~~((1 : BitVec 8) <<< i.val) }) s.sled := by
      rw [fxLaneLockLoss, inState_run hk]
      simp only [hk.2.1]
    refine ⟨fun h => lift_next (hfx.trans (if_pos h)), fun h => lift_next (hfx.trans (if_neg ?_))⟩
    rw [h]
    exact Bool.false_ne_true
  case errors =>
    intro s l i n k hk
    have hfx : fxLaneErrorWindow l i n.toNat s.sled = if laneUsed k i && decide (rField s.sled (bLNK l) 0x10 0 24 < n.toNat) then
        linkRecover l s.sled else s.sled := by
      rw [fxLaneErrorWindow, inState_run hk]
      simp only [hk.2.1]
    refine ⟨fun h hn => lift_next (hfx.trans (if_pos ?_)), fun h => lift_next (u := s.sled) (hfx.trans (if_neg ?_))⟩
    · rw [h, decide_eq_true hn]
      rfl
    · obtain h | h := h
      · rw [h]
        exact Bool.false_ne_true
      · rw [decide_eq_false (Nat.not_lt.2 h), Bool.and_false]
        exact Bool.false_ne_true
  case check =>
    intro s l lock e k g hk hwide hretry hg
    refine ⟨recoverCheckEnd_whole hk hwide hretry hg, fun h₀ h₁ => ?_, fun h₀ h₁ => ?_, fun h₀ h₁ => ?_⟩
    · have ht := recoverCheckEnd_half hk hwide hretry hg (by rw [h₀, h₁]; rfl)
      rwa [h₁] at ht
    · have ht := recoverCheckEnd_half hk hwide hretry hg (by rw [h₀, h₁]; rfl)
      rwa [h₁] at ht
    · have hfx := fxRecoverCheckEnd_wide hk hwide hg _ rfl
      rw [h₀, h₁] at hfx
      exact lift_next hfx
  case timeout =>
    intro s l k hk
    exact lift_next (inState_run hk _)
  case lockLoss =>
    intro s l k hk
    refine lift_next (f := fxLinkLockLoss l) ?_
    obtain ⟨hon, hget, hst⟩ := hk
    rw [fxLinkLockLoss, hget, hst, hon]
    rfl
  case down =>
    intro s l k hk hretry htx
    refine (linkDown_idle hk hretry htx).trans (updLnk_congr ?_)
    show downed { k with state := 8 } = _
    rw [downed, ← hretry, ← htx]
  case widen =>
    intro s l k hk hnarrow hauto
    have htick : fxAutoWidenTick l s.sled = updLnk l (fun x => { x with widening := true }) s.sled := by
      rw [fxAutoWidenTick, inState_run hk]
      simp only [hk.2.1, hnarrow, hauto, decide_true, Bool.and_self, if_true]
    refine ⟨⟨_, lift_next htick, onlyLink_updLnk hk.2.1 rfl⟩, fun hwidening => lift_next (f := fxAutoWidenPass l) ?_⟩
    rw [fxAutoWidenPass, inState_run hk]
    simp only [hk.2.1, hnarrow, hwidening, hauto, decide_true, Bool.and_self, if_true]

end Sys2Proof.Machine

/-! ## O44: requests at their destination

What a message for this module does where its source is known (`arrive_here`), and that answers are put on links
alone (`respond_lnk`). -/
namespace Sys2Proof.Machine
open Sys2Proof

/-- A message for this module from a source that is not gone acts. -/
theorem arrive_here {s : Sled} {l : LinkId} {m : MsgIn} (h : arrives s l m) (kind : Nat) (f : Sled → Sled) :
    arrive l kind m f s = f s := by
  obtain ⟨hlive, hdest, hsrc⟩ := h
  have hgone : (s.fab.gone.filter fun x => x ≠ m.src.toNat) = s.fab.gone :=
    List.filter_eq_self.2 fun x hx => decide_eq_true fun he => hsrc (he ▸ hx)
  rw [arrive, hlive, if_neg (by decide)]
  simp only [hgone]
  exact if_pos hdest

/-- Answers change links alone. -/
theorem respond_lnk (kind : Nat) (m : MsgIn) (arg : Nat) (d : List Byte) (pois : Nat) (inner : Option (Nat × MsgIn))
    (s : Sled) : ∃ k, respond kind m arg d pois inner s = { s with lnk := k } := by
  unfold respond
  dsimp only
  split
  · exact ⟨_, rfl⟩
  · split
    · exact ⟨_, rfl⟩
    · split
      · exact ⟨_, rfl⟩
      · exact ⟨_, rfl⟩

theorem stall_respond (kind : Nat) (m : MsgIn) (arg : Nat) (d : List Byte) (pois : Nat) (inner : Option (Nat × MsgIn))
    (s : Sled) : (respond kind m arg d pois inner s).stall = s.stall := by
  obtain ⟨k, hk⟩ := respond_lnk kind m arg d pois inner s
  rw [hk]

theorem stall_readAnswers (n : Nat) (m : MsgIn) (off : Nat) (l : List (Byte × Bool)) (s : Sled) :
    (readAnswers n m off l s).stall = s.stall := by
  induction n generalizing off l s with
  | zero => rfl
  | succ n ih =>
    rw [readAnswers]
    split
    · rfl
    · exact (ih ..).trans (stall_respond ..)

/-- A read's bytes that fit one message leave in one. -/
theorem readAnswers_single {s : Sled} {m : MsgIn} {b : List (Byte × Bool)} (n : Nat) (hb : 0 < b.length)
    (h16 : b.length % 16 = 0) (hlim : b.length ≤ msgLimit s m.src.toNat) :
    readAnswers (n + 2) m 0 b s =
      respond 4 m (b.length * 65536) (b.map (·.1)) (poisMask m.addr.toNat b) none s := by
  have hne : b.isEmpty = false := by
    rw [List.isEmpty_eq_false_iff]
    exact List.ne_nil_of_length_pos hb
  rw [readAnswers, hne, if_neg (by decide)]
  simp only [Nat.min_eq_left hlim, List.take_length, List.drop_length, h16, Nat.sub_zero, Nat.mod_self,
    List.replicate_zero, List.append_nil, Nat.add_zero, Nat.zero_add]
  rw [readAnswers, List.isEmpty_nil, if_pos rfl]

/-- WRITE at its destination, with its bytes counted. -/
theorem fxFabWriteHere_counted {s : Sled} {m : MsgIn} (h0 : 0 < m.arg.toNat % 256) (hlen : m.arg.toNat % 256 ≤
    m.data.length) :
    fxFabWriteHere m s = if fabReach s m (m.arg.toNat % 256) then
        respond 5 m 0 [] 0 none (if m.addr.toNat < 2 ^ 39
          then progress m.tenant.val (writeLocal m.addr.toNat (msgBytes m (m.arg.toNat % 256)) s)
          else writeLocal m.addr.toNat (msgBytes m (m.arg.toNat % 256)) s)
      else refuseMsg 0x500B m s := by
  have hn : (if bitsOf m.arg.toNat 0 8 = 0 then m.data.length else min m.data.length (bitsOf m.arg.toNat 0 8)) =
      m.arg.toNat % 256 := by
    rw [show bitsOf m.arg.toNat 0 8 = m.arg.toNat % 256 from congrArg (· % 256) (Nat.div_one _),
      if_neg (by omega), Nat.min_eq_right hlen]
  rw [fxFabWriteHere]
  simp only [hn]

/-- The sync store's counter at a slot address. -/
theorem slot_offset {a i : Nat} (h : a = 0x8100000000 + 8 * i) :
    (a - 0x8100000000) / 8 = i ∧ (a - 0x8100000000) % 8 = 0 := by
  omega

/-- SIGNAL at a counter's slot. -/
theorem fabSignal_slot {s : State} {l : LinkId} {m : MsgIn} {i : Nat} (h : arrives s.sled l m) (hi : i < 2 ^ 14)
    (ha : m.addr.toNat = 0x8100000000 + 8 * i) {c : Option Nat} {v : Sled}
    (hv : ctrSignal (whoFabric l m) i (m.arg.toNat % 2 ^ 32) s.sled = (c, v)) :
    fxFabSignal l m s.sled = c.elim (respond 8 m 0 [] 0 none v) fun code => refuseMsg code m v := by
  obtain ⟨hdiv, hmod⟩ := slot_offset ha
  rw [fxFabSignal, arrive_here h]
  refine (if_pos ⟨by omega, by omega, hmod⟩).trans ?_
  rw [hdiv, hv]
  cases c <;> rfl

/-- A read of a counter's slot. -/
theorem syncAccess_load {s : Sled} {w : Who} {i x : Nat} (hi : i < 2 ^ 14) (hobj : objCheck s w false i = none) :
    syncAccess w (8 * i) 1 x s = (.inl (ctrSlot (getCtr s i)), s) := by
  have hlow : 8 * i < 0x20000 := by omega
  rw [syncAccess]
  simp only [if_pos hlow, if_neg (show ¬ 1 = 0 by decide), if_true, Nat.mul_div_cancel_left i (show 0 < 8 by decide), hobj]

/-- Settles O44: what requests do at their destination, and how they are answered. -/
theorem fabricRequestsActAndAreAnswered : Obligations.FabricRequestsActAndAreAnswered := by
  unfold Obligations.FabricRequestsActAndAreAnswered
  refine ⟨?write, ?read, ?badRead, ?answers, ?reduce, ?signal, ?load, ?outside, ?route⟩
  case write =>
    intro s l m h h0 hlen hcalm
    have hfx : fxFabWrite l m s.sled = fxFabWriteHere m s.sled := by rw [fxFabWrite, arrive_here h]
    rw [fxFabWriteHere_counted h0 hlen] at hfx
    have hstall : (writeLocal m.addr.toNat (msgBytes m (m.arg.toNat % 256)) s.sled).stall = s.sled.stall := by
      have hb := backFrame_writeBytes (fuel := (msgBytes m (m.arg.toNat % 256)).length) (a := m.addr.toNat)
        (l := msgBytes m (m.arg.toNat % 256)) hcalm
      rw [writeLocal, hb]
    refine ⟨fun hreach => ?_, fun hreach => ?_⟩
    · rw [if_pos hreach] at hfx
      refine ⟨fun hlow => ?_, fun hhigh => ?_⟩
      · rw [if_pos hlow] at hfx
        exact liftHold_next hfx ((stall_respond ..).trans hstall)
      · rw [if_neg (Nat.not_lt.2 hhigh)] at hfx
        exact liftHold_next hfx ((stall_respond ..).trans hstall)
    · rw [if_neg (by rw [hreach]; decide)] at hfx
      exact liftHold_next hfx (stall_respond ..)
  case read =>
    intro s l m b ok v h h1 h2 hreach hread hstall
    have hfx : fxFabRead l m s.sled = readAnswers m.arg.toNat m 0 b v := by
      rw [fxFabRead, arrive_here h, if_pos ⟨h1, h2, hreach⟩]
      simp only [hread]
    exact liftHold_next hfx ((stall_readAnswers ..).trans hstall)
  case badRead =>
    intro s l m h hbad
    have hfx : fxFabRead l m s.sled = refuseMsg 0x500B m s.sled := by
      rw [fxFabRead, arrive_here h, if_neg]
      rintro ⟨h1, h2, h3⟩
      rw [h3] at hbad
      exact hbad.elim (by omega) fun hb => hb.elim (by omega) (by decide)
    exact liftHold_next hfx (stall_respond ..)
  case answers =>
    intro s m n b hb h16 hlim
    exact readAnswers_single n hb h16 hlim
  case reduce =>
    intro s l m f n p v h hf hn h0 hlen hnf haf hreach hlow hred hstall
    have hfx : fxFabricReduce l m s.sled = respond 5 m (b2n p) [] 0 none (progress m.tenant v) := by
      have hfmt : (if bitAt m.arg.toNat 0 then fp32 else bf16) = f := by
        rw [hf, bitAt]
        simp
      have hcnt : bitsOf m.arg.toNat 8 8 = n := hn.symm
      rw [fxFabricReduce, arrive_here h]
      have hcond : fabReach s.sled m n = true ∧ m.addr.toNat % f.bytes = 0 ∧ n % f.bytes = 0 := ⟨hreach, haf, hnf⟩
      simp only [hfmt, hcnt, if_neg (Nat.ne_of_gt h0), Nat.min_eq_right hlen, hred, if_pos hlow, if_pos hcond]
    exact liftHold_next hfx ((stall_respond ..).trans hstall)
  case signal =>
    intro s l m i h hi ha
    exact ⟨fun v hv => lift_next (fabSignal_slot h hi ha hv), fun c v hv => lift_next (fabSignal_slot h hi ha hv)⟩
  case load =>
    intro s l m i h hi ha hacc hobj
    have hoff : m.addr.toNat - 0x8100000000 = 8 * i := by omega
    have hbits : bitsOf m.arg.toNat 0 4 = 1 := by rw [bitsOf, Nat.pow_zero, Nat.div_one]; exact hacc
    refine lift_next (f := fxSyncOp l m) ?_
    rw [fxSyncOp, arrive_here h, if_pos (by omega), hoff, hbits, syncAccess_load hi hobj]
  case outside =>
    intro s l m h hout
    refine lift_next (f := fxSyncOp l m) ?_
    rw [fxSyncOp, arrive_here h, if_neg (by omega)]
    rfl
  case route =>
    intro s kind arg pois m d r hr hvalid hlive hsrc hkind
    subst hr
    have hvc : Fin.ofNat 4 (vcOfKind kind) = 1 := by
      rcases List.mem_cons.1 hkind with rfl | hkind
      · rfl
      rcases List.mem_cons.1 hkind with rfl | hkind
      · rfl
      rw [List.mem_singleton.1 hkind]
      rfl
    rw [respond]
    simp only [hvalid, hlive, hsrc, Bool.not_true, Bool.false_eq_true, if_false, decide_false, Bool.not_false, Bool.and_self,
      if_true, pushTx, withHops, hvc]
    rfl

end Sys2Proof.Machine

/-! ## O45: forwarding, and the answers to requests -/
namespace Sys2Proof.Machine
open Sys2Proof

/-- A request for another module from a source that is not gone goes to the forwarder. -/
theorem arrive_forward {s : Sled} {l : LinkId} {kind : Nat} {m : MsgIn} {f : Sled → Sled} (hlive : linkLive s l = true)
    (hdest : m.dest.toNat ≠ moduleId s) (hsrc : m.src.toNat ∉ s.fab.gone) :
    arrive l kind m f s = forward l kind m none s := by
  have hgone : (s.fab.gone.filter fun x => x ≠ m.src.toNat) = s.fab.gone :=
    List.filter_eq_self.2 fun x hx => decide_eq_true fun he => hsrc (he ▸ hx)
  rw [arrive, hlive, if_neg (by decide)]
  simp only [hgone]
  exact if_neg hdest

/-- A request within its hop budget goes on, on its primary link. -/
theorem forward_request {s : Sled} {l kind : Nat} {m : MsgIn} (hkind : kind ∈ [1, 2, 3])
    (hvalid : (routeTo s m.dest.toNat).pValid = true) (hhops : (routeTo s m.dest.toNat).distP < m.hleft.toNat) :
    forward l kind m none s = if linkLive s (routeTo s m.dest.toNat).pri
      then pushTx (routeTo s m.dest.toNat).pri { kind := kind, h := { m with hleft := m.hleft - 1 } } s
      else unreachMsg false kind m s := by
  have hvc : ¬ (vcOfKind kind = 1 ∨ vcOfKind kind = 3) := by
    rw [vcOfKind, if_pos hkind]
    decide
  rw [forward]
  simp only [hvalid, Bool.not_true, Bool.false_eq_true, if_false,
    if_neg (show ¬ m.hleft.toNat - 1 < (routeTo s m.dest.toNat).distP by omega), if_neg hvc]

/-- A message whose hops are spent returns. -/
theorem forward_spent {s : Sled} {l kind : Nat} {m : MsgIn}
    (hvalid : (routeTo s m.dest.toNat).pValid = true) (hhops : m.hleft.toNat ≤ (routeTo s m.dest.toNat).distP)
    (hdist : 0 < (routeTo s m.dest.toNat).distP) :
    forward l kind m none s = unreachMsg false kind m (logRec { mkRec 0x500A (iL l) with
      object := l + (getLnk s l).peer * 256, tenant := some m.tenant.val } s) := by
  rw [forward]
  simp only [hvalid, Bool.not_true, Bool.false_eq_true, if_false,
    if_pos (show m.hleft.toNat - 1 < (routeTo s m.dest.toNat).distP by omega)]

theorem ackPrimary_fab (n : Nat) (s : Sled) : ∃ f, ackPrimary n s = { s with fab := f } := by
  rw [ackPrimary]
  split
  · exact ⟨_, rfl⟩
  · exact ⟨_, rfl⟩

theorem stall_ackPrimary (n : Nat) (s : Sled) : (ackPrimary n s).stall = s.stall := by
  obtain ⟨f, hf⟩ := ackPrimary_fab n s
  rw [hf]

/-- A load's answer does not depend on what its request has gathered. -/
theorem contDone_seLoad {o e : Outst} {c rd f3 : Nat} (hcont : o.cont = .seLoad c rd f3) (he : e.cont = .seLoad c rd f3)
    (hmsg : e.msg = o.msg) (m : MsgIn) (s : Sled) : contDone e m s = contDone o m s := by
  simp only [contDone, he, hcont, hmsg]

/-- A request with what one answer of `n` bytes at offset `off` brings it. -/
def withAnswer (o : Outst) (m : MsgIn) (off n : Nat) : Outst :=
  { o with buf := fput o.buf off (msgBytes { m with addr := o.msg.h.addr + BitVec.ofNat 40 off } n), rem := o.rem - n }

/-- READ_DATA that brings new bytes. -/
theorem fxReadData_fresh {s : Sled} {l : LinkId} {m : MsgIn} {o : Outst} {n : Nat} (h : arrives s l m)
    (ho : answer m s = some o) (hn : n = min (m.arg.toNat / 65536 % 65536) m.data.length)
    (hfresh : ffind o.buf (m.arg.toNat % 65536) = none) :
    (n < o.rem → fxReadData l m s = { ackPrimary o.dest s with fab := { (ackPrimary o.dest s).fab with
      out := fput (ackPrimary o.dest s).fab.out m.tag.toNat (withAnswer o m (m.arg.toNat % 65536) n) } }) ∧
    (o.rem ≤ n → ∀ c rd f3, o.cont = .seLoad c rd f3 →
      fxReadData l m s = contDone o m (closeTag m.tag.toNat (ackPrimary o.dest s))) := by
  have hoff : bitsOf m.arg.toNat 0 16 = m.arg.toNat % 65536 := congrArg (· % 65536) (Nat.div_one _)
  have hcount : min (bitsOf m.arg.toNat 16 16) m.data.length = n := hn.symm
  rw [fxReadData, arrive_here h]
  simp only [ho, hoff, hcount, hfresh, Option.isNone_none, if_true]
  refine ⟨fun hlt => if_pos (Nat.sub_pos_of_lt hlt), fun hle c rd f3 hcont => ?_⟩
  rw [if_neg (by omega)]
  simp only [hcont]
  refine contDone_seLoad (o := o) hcont ?_ ?_ m _
  · rfl
  · rfl

/-- Settles O45: forwarding, and how answers end requests. -/
theorem fabricForwardsAndAnswersCompleteOrFail : Obligations.FabricForwardsAndAnswersCompleteOrFail := by
  unfold Obligations.FabricForwardsAndAnswersCompleteOrFail
  refine ⟨?forward, ?answers, ?ack, ?part, ?load, ?value, ?write, ?failed⟩
  case forward =>
    intro s l kind m f r hlive hdest hsrc hr hvalid hkind
    subst hr
    rw [arrive_forward hlive hdest hsrc]
    refine ⟨fun hhops hpri => ?_, fun hhops hpri => ?_, fun hhops hdist => forward_spent hvalid hhops hdist⟩
    · exact (forward_request hkind hvalid hhops).trans (if_pos hpri)
    · exact (forward_request hkind hvalid hhops).trans (if_neg (by rw [hpri]; decide))
  case answers =>
    intro s l m o h ho v
    have hrefuse : fxRefuse l m s.sled = contFail (m.arg.toNat % 65536) o v := by
      rw [fxRefuse, arrive_here h]
      simp only [ho]
      rw [show bitsOf m.arg.toNat 0 16 = m.arg.toNat % 65536 from congrArg (· % 65536) (Nat.div_one _)]
    have hresp : fxSyncResp l m s.sled = contDone o m v := by
      rw [fxSyncResp, arrive_here h]
      simp only [ho]
      rfl
    have hack : fxWriteAck l m s.sled = contDone o m v := by
      rw [fxWriteAck, arrive_here h]
      simp only [ho]
      rfl
    refine ⟨lift_next (f := fxRefuse l m) hrefuse, fun hstall => ⟨liftHold_next hresp hstall, liftHold_next hack hstall,
      fun c rd f3 hcont hbuf hrem => ?_⟩⟩
    have hnone : ffind o.buf (m.arg.toNat % 65536) = none := by rw [hbuf]; rfl
    exact liftHold_next ((fxReadData_fresh h ho rfl hnone).2 hrem c rd f3 hcont) hstall
  case ack =>
    intro s n
    exact ⟨fun h => if_pos h, fun h => if_neg h⟩
  case part =>
    intro s l m o id dst len h ho hcont hnone hrem hlen n b e u
    have hmin : n = min (m.arg.toNat / 65536 % 65536) m.data.length := (Nat.min_eq_left hlen).symm
    exact liftHold_next ((fxReadData_fresh h ho hmin hnone).1 hrem) (stall_ackPrimary ..)
  case load =>
    intro s o m c rd f3 hcont hpois hrd
    refine ⟨_, rfl, ?_⟩
    have hdone : contDone o m s = { setX c rd (loadVal f3 (leNat m.data)) s with
        vc := fset (setX c rd (loadVal f3 (leNat m.data)) s).vc {} c
          { fget (setX c rd (loadVal f3 (leNat m.data)) s).vc {} c with seWait := false } } := by
      simp only [contDone, hcont, hpois]
      rw [if_neg (by decide)]
    rw [hdone, setX, if_neg hrd]
    refine ⟨?_, ?_, rfl⟩
    · rw [fget_fset_same]
    · rw [fget_fset_same]
  case value =>
    intro s o m w hcont
    rw [contDone, hcont]
  case write =>
    intro s o m id hcont harg
    have hbit : bitAt m.arg.toNat 0 = false := by
      rw [bitAt]
      simp [harg]
    simp only [contDone, hcont]
    cases findDesc s id with
    | none => rfl
    | some p =>
      obtain ⟨u, d⟩ := p
      simp only [hbit, Bool.and_false, Bool.false_eq_true, if_false]
  case failed =>
    intro s o code id u d hcont hdesc hopc
    simp only [contFail, hcont, hdesc]
    exact if_neg (by rw [Bool.and_eq_true, decide_eq_true_eq, decide_eq_true_eq]; exact fun h => hopc h.2)

end Sys2Proof.Machine

/-! ## O46: rerouting, unanswered requests and modules that are gone -/
namespace Sys2Proof.Machine
open Sys2Proof

/-- A returned request at its source: it fails as possibly delivered, or takes the other route. -/
theorem fxUnreach_request {s : Sled} {l : LinkId} {m i : MsgIn} {k : Nat} {o : Outst} (h : arrives s l m)
    (hk : k ∈ [1, 2, 3, 6, 7]) (ho : ffind s.fab.out i.tag.toNat = some o) :
    fxUnreach l m k i s = if bitAt m.arg.toNat 0 && !idempotent o.msg then contFail 0x5009 o (closeTag i.tag.toNat s)
      else reroute i.tag.toNat o (if i.dest.toNat ∈ s.fab.onAlt then s else { s with fab := { s.fab with
        backoff := fput s.fab.backoff i.dest.toNat (if fget s.fab.backoff 0 i.dest.toNat = 0 then 1000
          else min 100000 (2 * fget s.fab.backoff 0 i.dest.toNat)) } }) := by
  obtain ⟨hlive, hdest, hsrc⟩ := h
  have hgone : (s.fab.gone.filter fun x => x ≠ m.src.toNat) = s.fab.gone :=
    List.filter_eq_self.2 fun x hx => decide_eq_true fun he => hsrc (he ▸ hx)
  have hresp : ¬ k ∈ [4, 5, 8, 9] := by
    intro hr
    simp only [List.mem_cons, List.not_mem_nil, or_false] at hk hr
    omega
  rw [fxUnreach, hlive, if_neg (by decide)]
  simp only [hgone]
  refine (if_neg fun hne => hne hdest).trans ?_
  simp only [if_neg hresp, ho]

theorem outTo_congr {s t : Sled} (h : t.fab.out = s.fab.out) (n : Nat) : outTo t n = outTo s n := by
  rw [outTo, outTo, h]

/-- A request with nothing before it leaves at once. -/
theorem sendOrHold_free {s : Sled} {l hops tag : Nat} {o : Outst} (hout : outTo s o.dest = [])
    (hheld : fget s.fab.held [] o.dest = []) : sendOrHold l hops tag o s = sendVia l hops tag o s := by
  rw [sendOrHold, mayLeave, hheld, hout]
  exact if_pos rfl

/-- A request moves to a live alternate route. -/
theorem reroute_sends {s : Sled} {tag : Nat} {o : Outst} (hvalid : (routeTo s o.dest).aValid = true)
    (hlink : (getLnk s (routeTo s o.dest).alt).state = 6) (hout : outTo (closeTag tag s) o.dest = [])
    (hheld : fget (closeTag tag s).fab.held [] o.dest = []) (halt : o.dest ∉ s.fab.onAlt) :
    reroute tag o s = sendVia (routeTo s o.dest).alt (routeTo s o.dest).distA tag o
      { closeTag tag s with fab := { (closeTag tag s).fab with onAlt := s.fab.onAlt ++ [o.dest] } } := by
  have hcond : ((routeTo s o.dest).aValid &&
      decide ((getLnk (closeTag tag s) (routeTo s o.dest).alt).state = 6)) = true := by
    rw [Bool.and_eq_true, decide_eq_true_eq]
    exact ⟨hvalid, hlink⟩
  rw [reroute]
  simp only [hcond, Bool.not_true, Bool.false_eq_true, if_false]
  rw [if_neg (show ¬ o.dest ∈ (closeTag tag s).fab.onAlt from halt)]
  exact sendOrHold_free hout hheld

/-- A module that is not yet gone and that nothing is outstanding to or waits for. -/
theorem moduleGone_idle {s : Sled} {i n : Nat} (hgone : n ∉ s.fab.gone) (hout : outTo s n = [])
    (hheld : fget s.fab.held [] n = []) (hwaits : ∀ w ∈ s.waits, w.mod ≠ some n) :
    moduleGone i n s = { logRec { mkRec 0x500C i with object := n * 256, arg1 := n } s with fab := { s.fab with
      gone := s.fab.gone ++ [n], out := s.fab.out.filter fun o => o.2.dest ≠ n || o.2.whole
      held := ferase s.fab.held n } } := by
  have hnone : (s.waits.filter fun w => w.mod = some n) = [] :=
    List.filter_eq_nil_iff.2 fun w hw => by rw [decide_eq_true_eq]; exact hwaits w hw
  rw [moduleGone, if_neg hgone]
  generalize hu : logRec { mkRec 0x500C i with object := n * 256, arg1 := n } s = u
  have hfab : u.fab = s.fab := by rw [← hu, logRec_fab]
  have hwait : u.waits = s.waits := by rw [← hu, logRec_waits]
  have houtu {v : Sled} (hv : v.fab.out = s.fab.out) : outTo v n = [] := (outTo_congr hv n).trans hout
  simp only [houtu, hfab, hheld, hwait, List.append_nil, List.foldl_nil, hnone]

/-- Settles O46: rerouting, time limits, modules gone, held messages and reserved kinds. -/
theorem fabricReroutesAndDeclaresModulesGone : Obligations.FabricReroutesAndDeclaresModulesGone := by
  unfold Obligations.FabricReroutesAndDeclaresModulesGone
  refine ⟨?possibly, ?resend, ?reroute, ?noRoute, ?timeout, ?leave, ?unreached, ?again, ?gone, ?change, ?back, ?reserved⟩
  case possibly =>
    intro s l m i k o h hk ho hbit hidem
    refine lift_next (f := fxUnreach l m k.toNat i) ((fxUnreach_request h hk ho).trans (if_pos ?_))
    rw [hidem, bitAt]
    simp [hbit]
  case resend =>
    intro s l m i k o h hk ho hfree
    have hcond : ¬ (bitAt m.arg.toNat 0 && !idempotent o.msg) = true := by
      rw [Bool.and_eq_true, bitAt]
      rintro ⟨hb, hi⟩
      rcases hfree with hf | hf
      · simp [hf] at hb
      · simp [hf] at hi
    have hfx := (fxUnreach_request h hk ho).trans (if_neg hcond)
    refine ⟨fun halt => ?_, fun halt => ?_⟩
    · rw [if_pos halt] at hfx
      exact lift_next (f := fxUnreach l m k.toNat i) hfx
    · rw [if_neg halt] at hfx
      exact lift_next (f := fxUnreach l m k.toNat i) hfx
  case reroute =>
    intro s tag o r hr hvalid hlink hout hheld halt
    subst hr
    refine ⟨_, reroute_sends hvalid hlink hout hheld halt, rfl, ffind_fput_same .., rfl, rfl⟩
  case noRoute =>
    intro s tag o h
    rw [reroute]
    simp only [h, Bool.false_and, Bool.not_false, if_true]
  case timeout =>
    intro s tag o ho hwhole
    refine lift_next (f := fxFabricRequestTimeout tag) ?_
    rw [fxFabricRequestTimeout, ho]
    simp only [hwhole, Bool.false_eq_true, if_false]
  case leave =>
    intro s l m h
    exact lift_next (f := fxLeave l m) (arrive_here h ..)
  case unreached =>
    intro s n hn hvalid
    refine lift_next (f := fxModuleGoneTimeout n) ?_
    rw [fxModuleGoneTimeout, if_neg]
    rw [hvalid]
    exact fun h => h.elim hn (by decide)
  case again =>
    intro s i n h
    exact if_pos h
  case gone =>
    intro s i n hgone hout hheld hwaits
    exact ⟨_, moduleGone_idle hgone hout hheld hwaits, rfl, logRec_waits .., logRec_mem .., logRec_lnk .., logRec_ctr ..,
      logRec_sem ..⟩
  case change =>
    intro s n tag o r hr hheld hout halt hlive hdest u
    subst hr
    have hfx : fxRouteChangeSend n s.sled = sendActive tag o u := by
      rw [fxRouteChangeSend]
      simp only [hheld, hout, List.isEmpty_cons, List.isEmpty_nil, Bool.false_eq_true, Bool.not_true, or_self, if_false,
        List.foldl_cons, List.foldl_nil]
      rfl
    refine lift_next (f := fxRouteChangeSend n) (hfx.trans ?_)
    rw [sendActive, hdest, if_neg (show ¬ n.toNat ∈ u.fab.onAlt from halt)]
    refine (if_pos (show linkLive u (routeTo u n.toNat).pri = true from hlive)).trans ?_
    refine sendOrHold_free (by rw [hdest]; exact hout) ?_
    rw [hdest]
    exact fget_ferase_same ..
  case back =>
    intro s n halt hstate
    refine ⟨_, lift_next (f := fxRouteReturnTimer n) (if_pos ⟨halt, hstate⟩), ?_, rfl⟩
    exact fun h => of_decide_eq_true (List.mem_filter.1 h).2 rfl
  case reserved =>
    intro s l k v m hlive hsrc hk u
    have hgone : (s.sled.fab.gone.filter fun x => x ≠ m.src.toNat) = s.sled.fab.gone :=
      List.filter_eq_self.2 fun x hx => decide_eq_true fun he => hsrc (he ▸ hx)
    have hkind : k.toNat = 0 ∨ 0xC ≤ k.toNat := hk.imp (fun h => by rw [h]; rfl) id
    have hfx : fxReservedKindMessage l k.toNat v m s.sled =
        if v.val = 0 ∨ v.val = 2 then refuseMsg 0x500B m u else u := by
      rw [fxReservedKindMessage, hlive, if_neg (by rw [Bool.not_true, decide_eq_true hkind]; decide)]
      simp only [hgone]
      rfl
    refine ⟨fun hv => lift_next (f := fxReservedKindMessage l k.toNat v m) (hfx.trans (if_pos ?_)),
      fun hv => lift_next (f := fxReservedKindMessage l k.toNat v m) (hfx.trans (if_neg ?_))⟩
    · rcases hv with rfl | rfl
      · exact .inl rfl
      · exact .inr rfl
    · rcases hv with rfl | rfl
      · decide
      · decide

end Sys2Proof.Machine

/-! ## O47: memory requests, atomic operations and function-level resets of the host port -/
namespace Sys2Proof.Machine
open Sys2Proof

/-! ### Reach, and what errors change -/

/-- A tenant's reach is the profile's. -/
theorem tenantReach_congr {s t : Sled} (h : t.prof = s.prof) (k a n : Nat) :
    tenantReach t k a n = tenantReach s k a n := by
  have hend (x : Nat) : reachEnd t k x = reachEnd s k x := by
    rw [reachEnd, reachEnd, vcMask, vcMask, tenantCfg, tenantCfg, h]
  have hgo (fuel x : Nat) : tenantReach.go t k a n fuel x = tenantReach.go s k a n fuel x := by
    induction fuel generalizing x with
    | zero => rfl
    | succ fuel ih => simp only [tenantReach.go, hend, ih]
  exact hgo ..

/-- What logging changes leaves what is mapped. -/
theorem allMapped_congr {s t : Sled} (hplat : t.plat = s.plat) (hisl : t.isl = s.isl) (hchan : t.chan = s.chan)
    (hregs : ∀ blk off, blk < bMC 0 → off < 0x100000 → rGet t blk off = rGet s blk off) (a n : Nat) :
    allMapped t a n = allMapped s a n := by
  have hkt3 : kt3 t = kt3 s := by rw [kt3, kt3, hplat, hregs bGLB 0x20 (by decide) (by decide)]
  have hmasks : masks t = masks s := by
    rw [masks, masks, hkt3]
    have hlist : ((List.range 13).map fun i => bitsOf (rGet t bMAP (0x80 + 8 * i)) 0 40) =
        (List.range 13).map fun i => bitsOf (rGet s bMAP (0x80 + 8 * i)) 0 40 :=
      List.map_congr_left fun i hi => by rw [hregs bMAP _ (by decide) (by have := List.mem_range.1 hi; omega)]
    rw [hlist]
  have htrans (x : Nat) : translate t x = translate s x := translate_congr hmasks
    (fun m hm => by rw [region, region, hregs bMAP _ (by decide) (by omega)]) hchan x
  have hruns (i : Nat) : islRuns t i = islRuns s i := by rw [islRuns, islRuns, islState, islState, hisl]
  have hplace (x : Nat) : (placeOf t x).isSome = (placeOf s x).isSome := by
    simp only [placeOf, htrans, hruns]
    split
    · cases translate s x with
      | none => rfl
      | some p => by_cases h : islRuns s (iMC p.1.stack) = true <;> simp [h]
    · rfl
  simp only [allMapped, hplace]

theorem backFrame_bump (blk off : Nat) (s : Sled) : BackFrame s (bump blk off s) := rfl

theorem backFrame_logLimited (period key : Nat) (r : Rec) (s : Sled) : BackFrame s (logLimited period key r s) := by
  have hrate (m : FMap Nat) : BackFrame s { s with kpr := { s.kpr with rate := m } } := rfl
  unfold logLimited
  dsimp only
  split
  · split
    · exact .refl s
    · exact (hrate _).trans (backFrame_logRec ..)
  · exact (hrate _).trans (backFrame_logRec ..)

theorem rGet_logLimited_below {blk off : Nat} (ho : off < 0x100000) (hb : blk < bHST) (hk : blk ≠ bKPR) (period key :
    Nat)
    (r : Rec) (s : Sled) : rGet (logLimited period key r s) blk off = rGet s blk off := by
  unfold logLimited
  dsimp only
  split
  · split
    · rfl
    · exact rGet_logRec_below ho hb hk ..
  · exact rGet_logRec_below ho hb hk ..

theorem msixSend_aer (fn vec : Nat) (s : Sled) : (msixSend fn vec s).hst.aer = s.hst.aer := by
  unfold msixSend
  dsimp only
  split
  · rfl
  · split <;> rfl

theorem vfEvent_aer (t b : Nat) (s : Sled) : (vfEvent t b s).hst.aer = s.hst.aer := by
  unfold vfEvent
  dsimp only
  split
  · rfl
  · split
    · rfl
    · exact msixSend_aer ..

/-- Logging leaves the port's error bits. -/
theorem logRec_aer (r : Rec) (s : Sled) : (logRec r s).hst.aer = s.hst.aer := by
  have hcount : (recCount r s).hst = s.hst := by
    unfold recCount
    split <;> rfl
  have halert (u : Sled) : (recAlert (recStamp s r) u).hst = u.hst := by
    unfold recAlert
    split <;> rfl
  unfold logRec recPlace
  split
  · have htell : (recAlert (recStamp s r) (recEnter (recStamp s r) (recCount r s))).hst.aer = s.hst.aer := by
      rw [halert, ← hcount]
      rfl
    rw [recTell]
    split
    · exact (vfEvent_aer ..).trans htell
    · exact htell
  · rw [← hcount]
    rfl

theorem logLimited_aer (period key : Nat) (r : Rec) (s : Sled) : (logLimited period key r s).hst.aer = s.hst.aer := by
  unfold logLimited
  dsimp only
  split
  · split
    · rfl
    · exact logRec_aer ..
  · exact logRec_aer ..

theorem backFrame_poisonIn (fn : Nat) (s : Sled) : BackFrame s (poisonIn fn s) := by
  have haer (u : Sled) : BackFrame u (aerSet fn 2 u) := rfl
  exact (backFrame_bump bHST 0x208 s).trans ((backFrame_logLimited ..).trans (haer _))

theorem poisonIn_prof (fn : Nat) (s : Sled) : (poisonIn fn s).prof = s.prof := by
  rw [backFrame_poisonIn fn s]

theorem allMapped_poisonIn (fn a n : Nat) (s : Sled) : allMapped (poisonIn fn s) a n = allMapped s a n := by
  have hframe := backFrame_poisonIn fn s
  refine allMapped_congr ?_ ?_ ?_ ?_ a n
  · rw [hframe]
  · rw [hframe]
  · rw [hframe]
  · intro blk off hb ho
    have hbelow : blk < 0x10 := hb
    have hlim := rGet_logLimited_below ho (show blk < bHST from Nat.lt_trans hbelow (by decide))
      (Nat.ne_of_lt (Nat.lt_trans hbelow (by decide))) ms fn (recWho s 0x8002 (hostWho s fn)) (bump bHST 0x208 s)
    exact hlim.trans (rGet_rSet_ne _ _ ho (by decide) fun h =>
      absurd (Prod.mk.inj h).1 (Nat.ne_of_lt (Nat.lt_trans hbelow (by decide))))

/-- A refused access changes counters, records and error bits only. -/
theorem backFrame_reachFault (fn addr : Nat) (p : Bool) (s : Sled) : BackFrame s (reachFault fn addr p s) := by
  have haer (u : Sled) : BackFrame u (hostFail fn 4 p u) := by
    unfold hostFail
    dsimp only
    split <;> rfl
  exact (backFrame_bump bHST 0x200 s).trans ((backFrame_logLimited ..).trans (haer _))

theorem reachFault_aer (fn addr : Nat) (p : Bool) (s : Sled) :
    (reachFault fn addr p s).hst.aer = fset s.hst.aer 0 fn (setBit (fget s.hst.aer 0 fn) 1 true) := by
  have hfail (u : Sled) : (hostFail fn 4 p u).hst.aer = fset u.hst.aer 0 fn (setBit (fget u.hst.aer 0 fn) 1 true) := by
    unfold hostFail
    dsimp only
    split <;> rfl
  rw [reachFault, hfail, logLimited_aer]
  rfl

theorem BackFrame.stall {s t : Sled} (h : BackFrame s t) : t.stall = s.stall := by
  rw [h]

/-! ### The windows -/

theorem syncOff_outside {fn off n : Nat} {s : Sled} (h : off < 0x8100000000 ∨ 0x8100200000 < off + n) :
    syncOff fn .bar2 s off n = none := if_neg (by omega)

theorem syncOff_slot {fn off n o : Nat} {s : Sled} (hfn : fn ≠ 0) (ho : off = 0x8100000000 + o) (hn : o + n ≤ 0x200000)
    :
    syncOff fn .bar2 s off n = some o := by
  rw [syncOff, if_pos (by omega), ho, Nat.add_sub_cancel_left]

theorem hostHole_mapped {fn off n : Nat} {s : Sled} (h : allMapped s off n = true) : hostHole fn off n s = s := if_pos h

/-- A write to a virtual function's BAR 2 outside the sync store. -/
theorem hostWrite_bar2 {s : Sled} {fn k off : Nat} {d : List Byte} (hfree : hostFree s fn) (hfn : fn = k + 1)
    (hout : off < 0x8100000000 ∨ 0x8100200000 < off + d.length) (hlen : d.length ≤ 512) (ep : Bool) {u : Sled}
    (hu : (if ep then poisonIn fn s else s) = u) :
    (tenantReach u k off d.length = true → allMapped u off d.length = true →
      fxHostMemoryWrite fn .bar2 off d ep s =
        if off < 2 ^ 39 then progress k (writeLocal off (d.map fun x => (x, ep)) u)
        else writeLocal off (d.map fun x => (x, ep)) u) ∧
    (tenantReach u k off d.length = false → fxHostMemoryWrite fn .bar2 off d ep s = reachFault fn off true u) := by
  obtain ⟨hup, hstop⟩ := hfree
  have hk : fn - 1 = k := by omega
  have hfx : fxHostMemoryWrite fn .bar2 off d ep s = if tenantReach u k off d.length then
      (if off < 2 ^ 39 then progress k (writeLocal off (d.map fun x => (x, ep)) (hostHole fn off d.length u))
        else writeLocal off (d.map fun x => (x, ep)) (hostHole fn off d.length u))
      else reachFault fn off true u := by
    rw [fxHostMemoryWrite, hup, if_neg (by decide), if_neg (show ¬ maxPayload < d.length from Nat.not_lt.2 hlen)]
    simp only [hstop, hu, syncOff_outside hout, if_neg (show ¬ fn = 0 by omega), hk]
  refine ⟨fun hreach hmap => ?_, fun hreach => ?_⟩
  · rw [hfx, if_pos hreach, hostHole_mapped hmap]
  · rw [hfx, if_neg (by rw [hreach]; decide)]

/-- A read of a virtual function's BAR 2 outside the sync store. -/
theorem hostRead_bar2 {s : Sled} {fn k off n : Nat} (hfree : hostFree s fn) (hfn : fn = k + 1)
    (hout : off < 0x8100000000 ∨ 0x8100200000 < off + n) :
    (tenantReach s k off n = true → allMapped s off n = true → ∀ b ok v, readLocal off n s = ((b, ok), v) →
      fxHostMemoryRead fn .bar2 off n s =
        complete fn 0 (anyPoison b) (b.map (·.1)) (if anyPoison b then bump bHST 0x210 v else v)) ∧
    (tenantReach s k off n = false → fxHostMemoryRead fn .bar2 off n s = reachFault fn off false s) := by
  obtain ⟨hup, hstop⟩ := hfree
  have hk : fn - 1 = k := by omega
  have hpf : (decide (fn = 0) && decide (Bar.bar2 = .bar0)) = false := by rw [Bool.and_eq_false_iff]; exact .inr rfl
  have hfx : fxHostMemoryRead fn .bar2 off n s = if tenantReach s k off n then
      complete fn 0 (anyPoison (readLocal off n (hostHole fn off n s)).1.1)
        ((readLocal off n (hostHole fn off n s)).1.1.map (·.1))
        (if anyPoison (readLocal off n (hostHole fn off n s)).1.1
          then bump bHST 0x210 (readLocal off n (hostHole fn off n s)).2 else (readLocal off n (hostHole fn off n s)).2)
      else reachFault fn off false s := by
    rw [fxHostMemoryRead, hup, if_neg (by decide)]
    simp only [hpf, hstop, syncOff_outside hout, if_neg (show ¬ fn = 0 by omega), hk]
  refine ⟨fun hreach hmap b ok v hread => ?_, fun hreach => ?_⟩
  · rw [hfx, if_pos hreach, hostHole_mapped hmap, hread]
  · rw [hfx, if_neg (by rw [hreach]; decide)]

/-! ### The sync store -/

theorem hostSync_runs {s : Sled} (hnoc : islRuns s iNOC = true) (fn off acc x : Nat) :
    hostSync fn off acc x s = syncAccess (hostWho s fn) off acc x s := if_pos hnoc

/-- A counter's slot that its check keeps from the reader. -/
theorem syncAccess_load_refused {s : Sled} {w : Who} {i x c : Nat} (hi : i < 2 ^ 14) (hobj : objCheck s w false i = some
    c) :
    syncAccess w (8 * i) 1 x s = (.inr c, logSync c w 0 i x 0 s) := by
  have hlow : 8 * i < 0x20000 := by omega
  rw [syncAccess]
  simp only [if_pos hlow, if_neg (show ¬ 1 = 0 by decide), if_true, Nat.mul_div_cancel_left i (show 0 < 8 by decide), hobj]
  rfl

/-- An add to a counter's slot: the slot as it was, or the code of the signal. -/
theorem syncAccess_add {s v : Sled} {w : Who} {i x : Nat} {c : Option Nat} (hi : i < 2 ^ 14)
    (hsig : ctrSignal w i x s = (c, v)) :
    syncAccess w (8 * i) 4 x s = (c.elim (.inl (ctrSlot (getCtr s i))) .inr, v) := by
  have hlow : 8 * i < 0x20000 := by omega
  rw [syncAccess]
  simp only [if_pos hlow, if_neg (show ¬ 4 = 0 by decide), if_neg (show ¬ 4 = 1 by decide),
    Nat.mul_div_cancel_left i (show 0 < 8 by decide),
    if_neg (show ¬ 4 = 2 by decide), hsig]
  cases c <;> rfl

/-- One attempt at a take window. -/
theorem syncAccess_take {s : Sled} {w : Who} {i x : Nat} (hi : i < 2 ^ 16) (h1 : 1 ≤ x) (h2 : x ≤ 0x7FFFFFFF)
    (hobj : objCheck s w true i = none) :
    syncAccess w (0x140000 + 8 * i) 6 x s = (.inl (iNat 32 (getSem s i).count),
      if (x : Int) ≤ (getSem s i).count then takeSem .semTake i x s else s) := by
  have hidx : (0x140000 + 8 * i - 0x140000) / 8 = i := by omega
  rw [syncAccess, if_neg (by omega), if_neg (by omega), if_neg (by omega), if_neg (by omega)]
  refine (if_pos (by omega)).trans ((if_pos ⟨rfl, h1, h2⟩).trans ?_)
  simp only [hidx, hobj]

/-- An atomic operation on the sync store. -/
theorem hostAtomic_slot {s v : Sled} {fn off n acc x o : Nat} {r : Nat ⊕ Nat} {swap : Bool} (hfree : hostFree s fn)
    (hoff : syncOff fn .bar2 s off n = some o) (hnoc : islRuns s iNOC = true)
    (hwin : swap = true → ¬ ((0x20000 ≤ o ∧ o < 0x40000) ∨ (0xC0000 ≤ o ∧ o < 0x140000))) (halign : o % n = 0)
    (hsync : syncAccess (hostWho s fn) o acc x s = (r, v)) :
    (∀ y, r = .inl y → hostAtomic fn .bar2 off n acc x swap s = complete fn 0 false (leBytes n y) v) ∧
    (∀ c, r = .inr c → c ≠ 0x1005 → c ≠ 0x1006 → hostAtomic fn .bar2 off n acc x swap s = hostFail fn 4 false v) := by
  obtain ⟨hup, hstop⟩ := hfree
  have hswap : ¬ (swap = true ∧ ((0x20000 ≤ o ∧ o < 0x40000) ∨ (0xC0000 ≤ o ∧ o < 0x140000))) := fun h => hwin h.1 h.2
  rw [hostAtomic, hup, if_neg (by decide)]
  simp only [hstop, hoff, if_neg hswap, if_pos halign, hostSync_runs hnoc, hsync]
  refine ⟨fun y hy => ?_, fun c hc h5 h6 => ?_⟩
  · subst hy
    rfl
  · subst hc
    exact if_neg fun h => h.elim h5 h6

/-- An atomic operation on BAR 0. -/
theorem hostAtomic_bar0 {s : Sled} {fn : Nat} (hfree : hostFree s fn) (off n acc x : Nat) (swap : Bool) :
    hostAtomic fn .bar0 off n acc x swap s = hostFail fn 1 false s := by
  obtain ⟨hup, hstop⟩ := hfree
  rw [hostAtomic, hup, if_neg (by decide)]
  simp only [hstop, syncOff]
  exact if_neg fun h => absurd h.1 (by decide)

/-- A read of a slot of the sync store. -/
theorem hostRead_slot {s : Sled} {fn off o n : Nat} (hfree : hostFree s fn) (hoff : syncOff fn .bar2 s off n = some o) :
    fxHostMemoryRead fn .bar2 off n s = hostSyncRead fn o n s := by
  obtain ⟨hup, hstop⟩ := hfree
  have hpf : (decide (fn = 0) && decide (Bar.bar2 = .bar0)) = false := by rw [Bool.and_eq_false_iff]; exact .inr rfl
  rw [fxHostMemoryRead, hup, if_neg (by decide)]
  simp only [hpf, hstop, hoff]

/-- A read of a whole slot. -/
theorem hostSyncRead_slot {s v : Sled} {fn o : Nat} {r : Nat ⊕ Nat} (halign : o % 8 = 0) (hnoc : islRuns s iNOC = true)
    (hsync : syncAccess (hostWho s fn) o 1 0 s = (r, v)) :
    (∀ y, r = .inl y → hostSyncRead fn o 8 s = complete fn 0 false (leBytes 8 y) v) ∧
    (r = .inr 0x1002 → hostSyncRead fn o 8 s = complete fn 0 false (leBytes 8 0) v) := by
  have hacc : hostAcc false o 8 = 1 := by
    rw [hostAcc, if_neg (by omega)]
    rfl
  rw [hostSyncRead, hacc, hostSync_runs hnoc, hsync]
  refine ⟨fun y hy => ?_, fun hc => ?_⟩
  · subst hy
    rfl
  · subst hc
    rfl

/-! ### Requests that stop before a window -/

theorem hostStop_absent {s : Sled} {fn : Nat} (h : s.hst.retry = true ∨ bitAt s.hst.d3 fn = true) (p : Bool) :
    hostStop s fn p = some 1 := if_pos h

theorem hostStop_tier {s : Sled} {fn : Nat} (hretry : s.hst.retry = false) (hd3 : bitAt s.hst.d3 fn = false)
    (htier : s.kpr.tier ≠ 2) : hostStop s fn false = some 4 := by
  rw [hostStop, if_neg (by rw [hretry, hd3]; decide)]
  exact if_pos ⟨htier, rfl⟩

theorem hostWrite_stopped {s : Sled} {fn c : Nat} (hup : portUp s = true) (hstop : hostStop s fn false = some c) (b :
    Bar)
    (off : Nat) {d : List Byte} (hlen : d.length ≤ 512) (ep : Bool) :
    fxHostMemoryWrite fn b off d ep s = hostFail fn c true s := by
  rw [fxHostMemoryWrite, hup, if_neg (by decide), if_neg (show ¬ maxPayload < d.length from Nat.not_lt.2 hlen)]
  simp only [hstop]

theorem hostWrite_long {s : Sled} (hup : portUp s = true) (fn : Nat) (b : Bar) (off : Nat) {d : List Byte}
    (hlen : 512 < d.length) (ep : Bool) : fxHostMemoryWrite fn b off d ep s = hostFail fn 1 true s := by
  rw [fxHostMemoryWrite, hup, if_neg (by decide)]
  exact if_pos hlen

/-- PF 0 has no window but BAR 0 outside the expander. -/
theorem syncOff_pf {s : Sled} {b : Bar} (hmode : hostMode s ≠ 1) (hb : b ≠ .bar0) (off n : Nat) :
    syncOff 0 b s off n = none := by
  cases b with
  | bar0 => exact absurd rfl hb
  | bar2 => rw [syncOff, if_neg fun h => h.1 rfl]
  | bar4 => rw [syncOff, if_neg fun h => hmode h.2.1]

/-! ### Function-level resets -/

theorem rGet_foldl_zero (l : List Nat) (hl : ∀ n ∈ l, n < 16) (s : Sled) {n : Nat} (hn : n < 16)
    (h : n ∈ l ∨ rGet s bHST (0x10 + 8 * n) = 0) :
    rGet (l.foldl (fun s n => rSet bHST (0x10 + 8 * n) 0 s) s) bHST (0x10 + 8 * n) = 0 := by
  induction l generalizing s with
  | nil => exact h.resolve_left List.not_mem_nil
  | cons m l ih =>
    refine ih (fun x hx => hl x (List.mem_cons_of_mem _ hx)) _ ?_
    have hm := hl m List.mem_cons_self
    by_cases hnm : n = m
    · exact .inr (by rw [hnm, rGet_rSet_same, Nat.zero_mod])
    · refine h.elim (fun hmem => .inl ((List.mem_cons.1 hmem).resolve_left hnm)) fun hz => .inr ?_
      rw [rGet_rSet_ne _ _ (by omega) (by omega) fun he => hnm (by have := (Prod.mk.inj he).2; omega)]
      exact hz

theorem foldl_rSet_frame (l : List Nat) (s : Sled) : ∃ r,
    l.foldl (fun s n => rSet bHST (0x10 + 8 * n) 0 s) s = { s with regs := r } := by
  induction l generalizing s with
  | nil => exact ⟨_, rfl⟩
  | cons m l ih =>
    obtain ⟨r, hr⟩ := ih (rSet bHST (0x10 + 8 * m) 0 s)
    exact ⟨r, hr⟩

theorem getWatch_fdrop (s : Sled) (k j w : Nat) (hw : w < 32) :
    fget (fdrop s.hst.watch fun i _ => i / 32 = k) {} (j * 32 + w) = if j = k then {} else getWatch s j w := by
  have hidx : (j * 32 + w) / 32 = j := by omega
  rw [fget_fdrop, hidx]
  by_cases h : j = k
  · simp [h]
  · simp [h, getWatch]

/-- The first word of PF 0's BAR 0. -/
theorem bar0Bytes_status (s : Sled) : bar0Bytes 0 8 0 8 s = (leBytes 8 (hostStatus s), s) := by
  have hrest : bar0Bytes 0 7 8 0 s = ([], s) := rfl
  have hword : bar0Word 0 0 s = (hostStatus s, s) := rfl
  rw [bar0Bytes, if_neg (by decide)]
  simp only [Nat.zero_div, Nat.zero_mul, hword, Nat.zero_mod, Nat.sub_zero, Nat.min_self, Nat.sub_self, Nat.zero_add, hrest,
    List.drop_zero, List.append_nil]
  rw [List.take_of_length_le (Nat.le_of_eq (length_leBytes ..))]

/-- The port's configuration as a reset of PF 0 clears it. -/
def pfCleared (s : Sled) : Sled := { s with hst := { s.hst with msixOn := 0, vfEn := 0, d3 := 0, aer := [] } }

/-- A reset of PF 0 leaves every BAR base 0, and nothing else changes. -/
theorem fxFlrPf_cleared {s : Sled} (hup : portUp s = true) (hretry : s.hst.retry = false) :
    ∃ r, fxFlrPf s = { pfCleared s with regs := r } ∧ rGet { pfCleared s with regs := r } bHST 8 = 0 ∧
      ∀ n, n < 16 → rGet { pfCleared s with regs := r } bHST (0x10 + 8 * n) = 0 := by
  have hfx : fxFlrPf s = rSet bHST 8 0 ((List.range 16).foldl (fun s n => rSet bHST (0x10 + 8 * n) 0 s) (pfCleared s)) :=
    if_neg (by rw [hup, hretry]; decide)
  obtain ⟨r, hr⟩ := foldl_rSet_frame (List.range 16) (pfCleared s)
  have hzero (n : Nat) (hn : n < 16) : rGet { pfCleared s with regs := r } bHST (0x10 + 8 * n) = 0 := by
    rw [← hr]
    exact rGet_foldl_zero _ (fun m hm => List.mem_range.1 hm) _ hn (.inl (List.mem_range.2 hn))
  rw [hr] at hfx
  refine ⟨_, hfx, rGet_rSet_same .., fun n hn => ?_⟩
  exact (rGet_rSet_ne _ _ (by omega) (by decide) fun h => by have := (Prod.mk.inj h).2; omega).trans (hzero n hn)

/-- Settles O47: memory requests, atomic operations, resets and configuration requests of the host port. -/
theorem hostRequestsAtomicsAndResets : Obligations.HostRequestsAtomicsAndResets := by
  unfold Obligations.HostRequestsAtomicsAndResets
  refine ⟨?write, ?read, ?slot, ?pf, ?stopped, ?status, ?fault, ?add, ?take, ?cas, ?flrVf, ?flrPf, ?config, ?vfEnable⟩
  case write =>
    intro s fn k off d hfree hfn hout hlen hcalm
    refine ⟨fun hreach hmap => ?_, fun hreach =>
      liftHold_next ((hostWrite_bar2 hfree hfn hout hlen false rfl).2 hreach) (backFrame_reachFault ..).stall⟩
    intro moved
    refine ⟨?_, ?_⟩
    · refine liftHold_next ((hostWrite_bar2 hfree hfn hout hlen false rfl).1 hreach hmap) ?_
      have hw : (writeLocal off.toNat (d.map fun x => (x, false)) s.sled).stall = s.sled.stall :=
        (backFrame_writeBytes hcalm).stall
      dsimp only [moved]
      split
      · exact hw
      · exact hw
    · have hpoison := backFrame_poisonIn fn s.sled
      have hfx := (hostWrite_bar2 hfree hfn hout hlen true rfl).1
        ((tenantReach_congr (poisonIn_prof ..) ..).trans hreach) ((allMapped_poisonIn ..).trans hmap)
      refine liftHold_next hfx ?_
      have hw : (writeLocal off.toNat (d.map fun x => (x, true)) (poisonIn fn s.sled)).stall = s.sled.stall :=
        (hpoison.trans (backFrame_writeBytes (hpoison.calm hcalm))).stall
      dsimp only [moved]
      split
      · exact hw
      · exact hw
  case read =>
    intro s fn k off n b ok v hfree hfn hout
    have hread := hostRead_bar2 hfree hfn hout
    refine ⟨fun hreach hmap hr hstall => ?_, fun hreach =>
      liftHold_next (hread.2 hreach) (backFrame_reachFault ..).stall⟩
    have hfx := hread.1 hreach hmap b ok v hr
    refine ⟨fun hp => ?_, fun hp => ?_⟩
    · rw [hp] at hfx
      exact liftHold_next hfx hstall
    · rw [hp] at hfx
      exact liftHold_next hfx hstall
  case slot =>
    intro s fn off i hfree hfn hnoc hi hoff
    have hslot := hostRead_slot hfree (syncOff_slot (n := 8) hfn hoff (by omega))
    refine ⟨fun hobj => ?_, fun hobj => ?_⟩
    · have hread := (hostSyncRead_slot (Nat.mul_mod_right 8 i) hnoc (syncAccess_load (x := 0) hi hobj)).1 _ rfl
      exact liftHold_next (hslot.trans hread) rfl
    · have hread := (hostSyncRead_slot (Nat.mul_mod_right 8 i) hnoc (syncAccess_load_refused (x := 0) hi hobj)).2 rfl
      exact liftHold_next (hslot.trans hread) (logRec_stall ..)
  case pf =>
    intro s b off d n hfree hmode hb
    obtain ⟨hup, hstop⟩ := hfree
    refine ⟨?_, ?_⟩
    · refine liftHold_next (f := fxHostMemoryWrite 0 b off.toNat d false) (u := aerSet 0 0 s.sled) ?_ rfl
      by_cases hlen : 512 < d.length
      · exact hostWrite_long hup 0 b _ hlen false
      · rw [fxHostMemoryWrite, hup, if_neg (by decide), if_neg (show ¬ maxPayload < d.length from hlen)]
        simp only [hstop, Bool.false_eq_true, if_false, syncOff_pf hmode hb]
        cases b with
        | bar0 => exact absurd rfl hb
        | bar2 => rfl
        | bar4 => rfl
    · refine liftHold_next (f := fxHostMemoryRead 0 b off.toNat n) (u := emit (.cpl 0 1 false []) (aerSet 0 0 s.sled)) ?_ rfl
      rw [fxHostMemoryRead.eq_def, hup, if_neg (by decide)]
      simp only [decide_eq_false hb, Bool.and_false, hstop, syncOff_pf hmode hb]
      cases b with
      | bar0 => exact absurd rfl hb
      | bar2 => rfl
      | bar4 => rfl
  case stopped =>
    intro s fn b off d e hup
    refine ⟨fun h => ?_, fun hretry hd3 hlen htier => ?_⟩
    · refine liftHold_next (f := fxHostMemoryWrite fn b off.toNat d e) (u := aerSet fn 0 s.sled) ?_ rfl
      by_cases hlen : 512 < d.length
      · exact hostWrite_long hup fn b _ hlen e
      · have hstop := hostStop_absent (s := s.sled) (fn := fn) (h.imp id fun h => h.resolve_right hlen) false
        exact hostWrite_stopped hup hstop b _ (Nat.not_lt.1 hlen) e
    · exact liftHold_next (f := fxHostMemoryWrite fn b off.toNat d e) (u := aerSet fn 1 s.sled)
        (hostWrite_stopped hup (hostStop_tier hretry hd3 htier) b _ hlen e) rfl
  case status =>
    intro s fn hup hretry hd3 hfn
    subst hfn
    refine liftHold_next (f := fxHostMemoryRead 0 .bar0 0 8)
      (u := emit (.cpl 0 0 false (leBytes 8 (hostStatus s.sled))) s.sled) ?_ rfl
    have hstop : hostStop s.sled 0 true = none := by
      rw [hostStop, hretry, hd3]
      simp
    simp only [fxHostMemoryRead, hup, Bool.not_true, Bool.false_eq_true, if_false, decide_true, Bool.and_self, hstop, syncOff,
      bar0Bytes_status]
    exact if_neg (show ¬ bar0Size 0 < 0 + 8 by decide)
  case fault =>
    intro s fn addr p
    have hframe := backFrame_reachFault fn addr p s
    refine ⟨_, rfl, ?_, ?_, ?_, reachFault_aer ..⟩
    · simp only [reachFault, hostFail_mem, logLimited_mem, bump_mem]
    · rw [hframe]
    · rw [hframe]
  case add =>
    intro s fn off x i hfree hfn hnoc hi hoff
    have hslot := syncOff_slot (s := s.sled) (n := 8) hfn hoff (by omega)
    refine ⟨fun v hv => ?_, fun c v hv h5 h6 => ?_⟩
    · exact lift_next (f := fxFetchadd fn .bar2 off.toNat true x.toNat) ((hostAtomic_slot hfree hslot hnoc
        (swap := false) (fun h => absurd h Bool.false_ne_true) (Nat.mul_mod_right 8 i) (syncAccess_add hi hv)).1 _ rfl)
    · exact lift_next (f := fxFetchadd fn .bar2 off.toNat true x.toNat) ((hostAtomic_slot hfree hslot hnoc
        (swap := false) (fun h => absurd h Bool.false_ne_true) (Nat.mul_mod_right 8 i) (syncAccess_add hi hv)).2 c rfl h5 h6)
  case take =>
    intro s fn off x i hfree hfn hnoc hi hoff h1 h2 hobj
    have hslot := syncOff_slot (s := s.sled) (n := 8) (off := off.toNat) (o := 0x140000 + 8 * i) hfn (by omega) (by omega)
    have hfx := (hostAtomic_slot hfree hslot hnoc (fun _ => by omega) (by omega)
      (syncAccess_take hi h1 h2 hobj) (swap := true)).1 _ rfl
    refine ⟨fun hle => ?_, fun hlt => ?_⟩
    · rw [if_pos hle] at hfx
      exact lift_next (f := fxSwap fn .bar2 off.toNat true x.toNat) hfx
    · rw [if_neg (by omega)] at hfx
      exact lift_next (f := fxSwap fn .bar2 off.toNat true x.toNat) hfx
  case cas =>
    intro s fn b off w x y hfree
    refine ⟨lift_next (f := fxCas fn) ?_, fun hb => ?_⟩
    · obtain ⟨hup, hstop⟩ := hfree
      rw [fxCas, hup, if_neg (by decide), hstop]
      rfl
    · subst hb
      refine ⟨lift_next (f := fxFetchadd fn .bar0 off.toNat w x.toNat) ?_,
        lift_next (f := fxSwap fn .bar0 off.toNat w x.toNat) ?_⟩
      · rw [fxFetchadd]
        split
        · exact hostAtomic_bar0 hfree ..
        · exact hostAtomic_bar0 hfree ..
      · rw [fxSwap]
        split
        · exact hostAtomic_bar0 hfree ..
        · exact hostAtomic_bar0 hfree ..
  case flrVf =>
    intro s k hup hretry hvf
    have hfx : fxFlrVf k s.sled = { tenantResetBegin k false s.sled with hst := { (tenantResetBegin k false s.sled).hst with
        watch := fdrop (tenantResetBegin k false s.sled).hst.watch fun i _ => i / 32 = k
        msix := fdrop (tenantResetBegin k false s.sled).hst.msix fun i _ => i / 32 = k + 1
        msixOn := setBit (tenantResetBegin k false s.sled).hst.msixOn (k + 1) false
        d3 := setBit (tenantResetBegin k false s.sled).hst.d3 (k + 1) false } } :=
      if_neg (by rw [hup, hretry, hvf]; decide)
    refine ⟨_, lift_next (f := fxFlrVf k) hfx, rfl, fun w hw => ?_, fun v hv => ?_, ?_, fun j w hj hw => ?_, rfl⟩
    · exact (getWatch_fdrop _ k k w hw).trans (if_pos rfl)
    · have hidx : msixKey (k.val + 1) v / 32 = k.val + 1 := by rw [msixKey]; omega
      exact (fget_fdrop _ (fun i => decide (i / 32 = k.val + 1)) ({} : Msix) _).trans (if_pos (decide_eq_true hidx))
    · exact bitAt_setBit_same ..
    · exact (getWatch_fdrop _ k j w hw).trans (if_neg hj)
  case flrPf =>
    intro s hup hretry
    obtain ⟨r, hfx, hcmd, hbars⟩ := fxFlrPf_cleared hup hretry
    exact ⟨_, lift_next (f := fxFlrPf) hfx, rfl, rfl, hbars, hcmd, rfl⟩
  case config =>
    intro s fn op hup
    refine ⟨fun hretry => ?_, fun hretry hhere => ?_, fun f d3 hretry hhere hf => ?_⟩
    · refine lift_next (f := fxHostConfigRequest fn op) ?_
      rw [fxHostConfigRequest.eq_def, hup, if_neg (by decide), if_pos hretry]
      rfl
    · refine lift_next (f := fxHostConfigRequest fn op) ?_
      rw [fxHostConfigRequest.eq_def, hup, if_neg (by decide), if_neg (by rw [hretry]; decide), if_pos (by rw [hhere]; rfl)]
      rfl
    · refine lift_next (f := fxHostConfigRequest fn (.power f d3)) ?_
      rw [fxHostConfigRequest.eq_def, hup, if_neg (by decide), if_neg (by rw [hretry]; decide), if_neg (by rw [hhere]; decide)]
      exact if_neg (by rw [hf]; decide)
  case vfEnable =>
    intro s n hup hretry hmode hn
    have hfx : fxHostConfigRequest 0 (.vfEnable n) s.sled =
        complete 0 0 false [] { s.sled with hst := { s.sled.hst with vfEn := 2 ^ n.val - 1 } } := by
      rw [fxHostConfigRequest.eq_def, hup, if_neg (by decide), if_neg (by rw [hretry]; decide), if_neg (show ¬ (!fnHere s.sled 0) = true from Bool.false_ne_true)]
      refine (if_neg (by omega)).trans ?_
      simp only [if_neg (Nat.ne_of_gt hn)]
    exact ⟨_, lift_next (f := fxHostConfigRequest 0 (.vfEnable n)) hfx, rfl, rfl, rfl⟩

end Sys2Proof.Machine

/-! ## O48: watches, raw doorbells, the port's link and the memory expander -/
namespace Sys2Proof.Machine
open Sys2Proof

theorem getWatch_setWatch (k w : Nat) (x : Watch) (s : Sled) : getWatch (setWatch k w x s) k w = x := fget_fset_same ..

/-- An armed watch reads its counter. -/
theorem watchRead_armed {k w : Nat} {x : Watch} {s : Sled} (hx : getWatch s k w = x) (harm : x.arm = true)
    (hnoc : islRuns s iNOC = true) :
    watchRead k w s = if (objCheck s (hostWho s (k + 1)) false x.counter).isSome
      then setWatch k w { x with err := true, arm := false } s
      else if x.target ≤ (getCtr s x.counter).value
        then msixSend (k + 1) (w + 1) (setWatch k w { x with fired := true, arm := false } s)
        else s := by
  rw [watchRead, hx]
  simp only [harm, hnoc, Bool.not_true, Bool.false_eq_true, or_self, if_false]

/-- The host sets a watch and arms it. -/
theorem fxWatchArm_armed {k w c x : Nat} {s : Sled} (hfree : hostFree s (k + 1)) :
    fxWatchArm k w c x true s =
      watchRead k w (setWatch k w { getWatch s k w with counter := c, target := x, arm := true } s) := by
  obtain ⟨hup, hstop⟩ := hfree
  rw [fxWatchArm, hup, if_neg (by decide), hstop]

theorem bcsEnqueue_stall (st q : Nat) (p : Prog) (s : Sled) : (bcsEnqueue st q p s).stall = s.stall := by
  unfold bcsEnqueue
  dsimp only
  split
  · rfl
  · split
    · exact logRec_stall ..
    · rfl

/-- Two writes that need not wait do not wait. -/
theorem stall_twoWrites {s : Sled} (hcalm : calm s) (a b : Nat) (l m : List (Byte × Bool)) :
    (writeLocal b m (writeLocal a l s)).stall = s.stall := by
  have hfirst : BackFrame s (writeLocal a l s) := backFrame_writeBytes hcalm
  exact (hfirst.trans (backFrame_writeBytes (hfirst.calm hcalm))).stall

/-- A line written whole. -/
theorem fxCxlMemRequest_whole {s : Sled} {h a : Nat} {d : List Byte} (hfree : hostFree s 0) (hmode : hostMode s = 1)
    (ha : hdmLocal s (h / 64 * 64) = some a) (hmap : allMapped s a 64 = true) (hd : d.length = 64) :
    fxCxlMemRequest h (some (2 ^ 64 - 1, d)) false s = complete 0 0 false [] (progress 0
      (writeLocal (a + 32) ((d.drop 32).map fun x => (x, false)) (writeLocal a ((d.take 32).map fun x => (x, false)) s))) := by
  obtain ⟨hup, hstop⟩ := hfree
  have hlow : bitsOf (2 ^ 64 - 1) 0 32 = 2 ^ 32 - 1 := by decide
  have hhigh : bitsOf (2 ^ 64 - 1) 32 32 = 2 ^ 32 - 1 := by decide
  have hhalf (b : Nat) (e : List Byte) (u : Sled) : cxlHalf b (2 ^ 32 - 1) e false u = writeLocal b (cleanBytes e) u := by
    rw [cxlHalf, if_neg (by decide), if_neg (by decide), if_pos rfl]
  have htail : (d.drop 32).take 32 = d.drop 32 := List.take_of_length_le (by rw [List.length_drop]; omega)
  rw [fxCxlMemRequest, hup, hmode, if_neg (by decide)]
  simp only [hstop, ha, hostHole_mapped hmap, Bool.false_eq_true, if_false]
  rw [show List.range 2 = [0, 1] from rfl, List.foldl_cons, List.foldl_cons, List.foldl_nil, Nat.mul_zero, Nat.mul_one, hlow,
    hhigh, hhalf, hhalf, htail, List.drop_zero]
  rfl

/-- Settles O48: watches, raw doorbells, link events and the memory expander. -/
theorem watchesDoorbellsLinkAndExpander : Obligations.WatchesDoorbellsLinkAndExpander := by
  unfold Obligations.WatchesDoorbellsLinkAndExpander
  refine ⟨?arm, ?poll, ?doorbell, ?linkUp, ?linkDown, ?line, ?mailbox⟩
  case arm =>
    intro s k w c x hfree hnoc a
    have hfx : fxWatchArm k w c.toNat x.toNat true s.sled = watchRead k w (setWatch k w a s.sled) := fxWatchArm_armed hfree
    have hread := watchRead_armed (s := setWatch k w a s.sled) (getWatch_setWatch ..) rfl hnoc
    refine ⟨fun hobj => ?_, fun code hobj => ?_⟩
    · have hnone : objCheck (setWatch k w a s.sled) (hostWho (setWatch k w a s.sled) (k + 1)) false a.counter = none := hobj
      rw [hnone, if_neg (show ¬ (none : Option Nat).isSome = true from Bool.false_ne_true)] at hread
      exact ⟨fun hmet => lift_next (f := fxWatchArm k w c.toNat x.toNat true) (hfx.trans (hread.trans (if_pos hmet))),
        fun hlow => lift_next (f := fxWatchArm k w c.toNat x.toNat true)
          (hfx.trans (hread.trans (if_neg (Nat.not_le.2 hlow))))⟩
    · have hsome : objCheck (setWatch k w a s.sled) (hostWho (setWatch k w a s.sled) (k + 1)) false a.counter = some code :=
        hobj
      rw [hsome, if_pos (show (some code).isSome = true from rfl)] at hread
      exact lift_next (f := fxWatchArm k w c.toNat x.toNat true) (hfx.trans hread)
  case poll =>
    intro s k w hhst hnoc
    have hfx : fxWatchPoll k w s.sled = watchRead k w s.sled := if_pos hhst
    refine ⟨fun harm => ?_, fun harm hobj hmet => ?_⟩
    · refine (lift_next (f := fxWatchPoll k w) (hfx.trans ?_) : exec (.watchPoll k w) s = .next { s with sled := s.sled })
      rw [watchRead]
      simp only [harm, Bool.not_false, true_or, if_true]
    · refine lift_next (f := fxWatchPoll k w) (hfx.trans ((watchRead_armed rfl harm hnoc).trans ?_))
      rw [hobj]
      exact if_pos hmet
  case doorbell =>
    intro s k st v hfree hmode hruns hcross
    obtain ⟨hup, hstop⟩ := hfree
    have hqueue : (fget s.sled.bcs {} st).queues.toList.getD 3 [] = (fget s.sled.bcs {} st).queues[3] := by
      rw [List.getD_eq_getElem _ _ (by rw [Vector.length_toList]; decide), Vector.getElem_toList]
    refine ⟨fun hlen => ?_, ?_⟩
    · refine liftHold_next (f := fxRawDoorbell k st v.toNat) ?_ (bcsEnqueue_stall ..)
      rw [fxRawDoorbell, hup, if_neg (by decide), hstop]
      have hfull : decide (16 ≤ (fget s.sled.bcs {} st).queues[3].length) = false := decide_eq_false (Nat.not_le.2 hlen)
      simp only [rawBell, hmode, hruns, hcross, hqueue, hfull]
      rfl
    · have hfx : fxRawDoorbellStatusRead k st s.sled = complete (k + 1) 0 false
          (leBytes 8 ((fget s.sled.bcs {} st).queues[3].length + 256 * b2n (s.sled.hst.qfull.contains (k.val * 8 + st.val))))
          { s.sled with hst := { s.sled.hst with qfull := s.sled.hst.qfull.filter (· ≠ k.val * 8 + st.val) } } := by
        rw [fxRawDoorbellStatusRead, hup, if_neg (by decide), hstop]
        simp only [rawStatus, hmode, hqueue]
        rfl
      refine ⟨_, lift_next (f := fxRawDoorbellStatusRead k st) hfx, rfl, fun h => ?_, rfl, rfl⟩
      exact of_decide_eq_true (List.mem_filter.1 h).2 rfl
  case linkUp =>
    intro s v w f hruns hup hperst hq
    refine lift_next (f := fxHostLinkUp v w f) ?_
    rw [fxHostLinkUp, hruns, hup, hperst, hq]
    exact if_neg (by decide)
  case linkDown =>
    intro s hup
    exact ⟨lift_next (f := fxHostLinkDown) (if_neg (by rw [hup]; decide)),
      lift_next (f := fxLtssmRecoveryEntry) (if_pos hup)⟩
  case line =>
    intro s h a hfree hmode ha hmap
    refine ⟨fun b ok v hread hstall hclean => ?_, fun d hd hcalm => ?_⟩
    · obtain ⟨hup, hstop⟩ := hfree
      refine liftHold_next (f := fxCxlMemRequest h.toNat none false) ?_ hstall
      rw [fxCxlMemRequest, hup, hmode, if_neg (by decide)]
      simp only [hstop, ha, hostHole_mapped hmap, hread, hclean]
      rfl
    · exact liftHold_next (fxCxlMemRequest_whole hfree hmode ha hmap hd) (stall_twoWrites hcalm ..)
  case mailbox =>
    intro s n x hfree hmode
    obtain ⟨hup, hstop⟩ := hfree
    have hfx (c : MboxCmd) (u : Sled) (hu : fxCxlMailboxCommand c s.sled = u) :
        exec (.cxlMailboxCommand c) s = .next { s with sled := u } := lift_next hu
    refine ⟨hfx _ _ ?_, hfx _ _ ?_, hfx _ _ ?_⟩
    · rw [fxCxlMailboxCommand.eq_def, hup, hmode, if_neg (by decide), hstop]
      rfl
    · rw [fxCxlMailboxCommand.eq_def, hup, hmode, if_neg (by decide), hstop]
      rfl
    · rw [fxCxlMailboxCommand.eq_def, hup, hmode, if_neg (by decide), hstop]
      rfl

end Sys2Proof.Machine

/-! ## O49: records on their way to the keeper, and its watchdog -/
namespace Sys2Proof.Machine
open Sys2Proof

/-- Nothing lost is nothing to report. -/
theorem reportLost_none {s : Sled} (h : s.kpr.lost = 0) : reportLost s = s := if_pos (.inl h)

/-- A record as it leaves the collector of island `i`, of which `l` remains. -/
def recTaken (i : Nat) (l : List Rec) (s : Sled) : Sled := { s with kpr := { s.kpr with coll := fset s.kpr.coll [] i l } }

/-- A record that has entered the ring and the queue of the event log. -/
def recRung (r : Rec) (s : Sled) : Sled :=
  { s with
    fl := { s.fl with logSeq := s.fl.logSeq + 1 }
    kpr := { s.kpr with ring := s.kpr.ring ++ [(s.fl.logSeq, r)], ops := s.kpr.ops ++ [.logEntry s.fl.logSeq r] } }

/-- What the keeper does with the oldest record of an island. -/
theorem fxKeeperRecordMove_cons {s : Sled} {i : Nat} {r : Rec} {l : List Rec} (hrun : s.kpr.phase = .running)
    (hcoll : fget s.kpr.coll [] i = r :: l) :
    fxKeeperRecordMove i s = if 1024 ≤ s.kpr.ring.length then dropRec r (recTaken i l s)
      else if r.sev < 2 then reportLost (recRung r (recTaken i l s))
      else if 256 ≤ s.kpr.ctlq.length then dropCtl (recRung r (recTaken i l s))
      else reportLost { recRung r (recTaken i l s) with kpr := { (recRung r (recTaken i l s)).kpr with
        ctlq := s.kpr.ctlq ++ [r] } } := by
  rw [fxKeeperRecordMove, hcoll]
  exact if_neg fun h => h hrun

/-- The keeper as its restart begins: log entries stay in its queue. -/
theorem keeperRestartBegin_running {s : Sled} (hrun : s.kpr.phase = .running) :
    ∃ p, (keeperRestartBegin s).kpr.phase = .restarting ∧ (keeperRestartBegin s).kpr.session = none ∧
      (keeperRestartBegin s).kpr.coll = s.kpr.coll ∧
      (∀ n x, FlashOp.logEntry n x ∈ s.kpr.ops → FlashOp.logEntry n x ∈ (keeperRestartBegin s).kpr.ops) ∧
      keeperRestartBegin s = { s with plat := p, kpr := (keeperRestartBegin s).kpr } := by
  have hgo : ¬ (s.kpr.phase ≠ .running ∧ s.kpr.phase ≠ .recovery) := fun h => h.1 hrun
  rw [keeperRestartBegin, if_neg hgo]
  exact ⟨_, rfl, rfl, rfl, fun n x hx => List.mem_filter.2 ⟨hx, rfl⟩, rfl⟩

/-- Settles O49: the way of records to the keeper, and its watchdog. -/
theorem recordsReachTheKeepersRing : Obligations.RecordsReachTheKeepersRing := by
  unfold Obligations.RecordsReachTheKeepersRing
  refine ⟨?move, ?full, ?watchdog⟩
  case move =>
    intro s i r l hrun hcoll hring hlost
    have hfx := fxKeeperRecordMove_cons hrun hcoll
    rw [if_neg (Nat.not_le.2 hring)] at hfx
    refine ⟨fun hsev => ?_, fun hsev hq => ?_, fun hsev hq => ?_⟩
    · rw [if_pos hsev] at hfx
      exact ⟨_, lift_next (f := fxKeeperRecordMove i) (hfx.trans (reportLost_none hlost)), rfl, fget_fset_same .., fun j hj => fget_fset_other _ _ _ hj, rfl,
        rfl, rfl, rfl, rfl⟩
    · rw [if_neg (Nat.not_lt.2 hsev), if_neg (Nat.not_le.2 hq)] at hfx
      exact ⟨_, lift_next (f := fxKeeperRecordMove i) (hfx.trans (reportLost_none hlost)), rfl, fget_fset_same .., rfl, rfl⟩
    · rw [if_neg (Nat.not_lt.2 hsev), if_pos hq] at hfx
      exact ⟨_, lift_next (f := fxKeeperRecordMove i) hfx, rfl, rfl, rfl, congrArg (· + 1) hlost⟩
  case full =>
    intro s i r l hrun hcoll hring
    have hfx := fxKeeperRecordMove_cons hrun hcoll
    rw [if_pos hring] at hfx
    exact ⟨_, lift_next (f := fxKeeperRecordMove i) hfx, rfl, fget_fset_same .., rfl, rfl, rfl⟩
  case watchdog =>
    intro s l hrun hlate hcoll hlen
    have hroom : (fget s.sled.kpr.coll [] (mkRec 0xA001 0).island).length < 16 := by
      rw [show (mkRec 0xA001 0).island = 0 from rfl, hcoll]
      exact hlen
    have hfx : fxKeeperWatchdog s.sled = keeperRestartBegin (logRec (mkRec 0xA001 0) s.sled) :=
      if_neg fun h => h.elim (fun h => h hrun) (by omega)
    have hlogs := (logsOnly_logRec (mkRec 0xA001 0) s.sled).rest
    have hphase : (logRec (mkRec 0xA001 0) s.sled).kpr.phase = .running := (congrArg (·.kpr.phase) hlogs).trans hrun
    have hops : (logRec (mkRec 0xA001 0) s.sled).kpr.ops = s.sled.kpr.ops := congrArg (·.kpr.ops) hlogs
    have hentry : fget (logRec (mkRec 0xA001 0) s.sled).kpr.coll [] 0 = l ++ [recStamp s.sled (mkRec 0xA001 0)] :=
      (logRec_coll _ _ hroom).trans (congrArg (· ++ _) hcoll)
    obtain ⟨p, hstart, hsession, hkeep, hlog, hframe⟩ := keeperRestartBegin_running hphase
    refine ⟨_, recStamp s.sled (mkRec 0xA001 0), lift_next (f := fxKeeperWatchdog) hfx, rfl, hstart, hsession, ?_, rfl,
      fun n x hx => hlog n x (by rw [hops]; exact hx), ?_, ?_, ?_⟩
    · rw [hkeep]
      exact hentry
    · rw [hframe]
      exact logRec_mem ..
    · rw [hframe]
      exact logRec_fl ..
    · rw [hframe]
      exact logRec_isl ..

end Sys2Proof.Machine

/-! ## O50: the sparing of a rank -/
namespace Sys2Proof.Machine
open Sys2Proof

/-! ### Requests of an unreadable rank complete -/

/-- What requests that complete at once change: memory and records, the queues, and the writes held for a migration. -/
def Resolves (s t : Sled) : Prop :=
  t = { s with mem := t.mem, ecc := t.ecc, kpr := t.kpr, regs := t.regs, hst := t.hst, outs := t.outs, chan := t.chan
               mcs := t.mcs } ∧
  ∀ x, (fget t.mcs {} x).mig = (fget s.mcs {} x).mig

theorem Resolves.refl (s : Sled) : Resolves s s := ⟨rfl, fun _ => rfl⟩

theorem Resolves.trans {s t u : Sled} (h : Resolves s t) (h' : Resolves t u) : Resolves s u := by
  obtain ⟨ht, hm⟩ := h
  obtain ⟨hu, hm'⟩ := h'
  refine ⟨?_, fun x => (hm' x).trans (hm x)⟩
  rw [ht] at hu
  exact hu

theorem Resolves.stall {s t : Sled} (h : Resolves s t) : t.stall = s.stall := by rw [h.1]

theorem Resolves.bank {s t : Sled} (h : Resolves s t) : t.bank = s.bank := by rw [h.1]

theorem BackFrame.resolves {s t : Sled} (h : BackFrame s t) : Resolves s t := by
  have hmcs : t.mcs = s.mcs := by rw [h]
  have hchan : t.chan = s.chan := by rw [h]
  refine ⟨?_, fun x => by rw [hmcs]⟩
  rw [hmcs, hchan]
  exact h

theorem resolves_updChan (st c : Nat) (f : Chan → Chan) (s : Sled) : Resolves s (updChan st c f s) := ⟨rfl, fun _ => rfl⟩

theorem resolves_writeRaw (p mask : Nat) (d : List Byte) (s : Sled) : Resolves s (writeRaw p mask d s) := by
  have hstore (q : Nat) (u : Sled) : Resolves u (storeWord q mask d u) := (backFrame_storeWord ..).resolves
  unfold writeRaw
  dsimp only
  split
  · split
    · split
      · exact hstore ..
      · exact (hstore ..).trans (hstore ..)
    · split
      · refine ⟨rfl, fun x => ?_⟩
        by_cases hx : x = (coordOf (p / 32 * 32)).stack
        · rw [hx, fget_updMcs_same]
        · rw [fget_updMcs_other _ _ hx]
      · exact hstore ..
  · exact hstore ..

theorem resolves_answerReq (r : Req) (s : Sled) : Resolves s (answerReq r s) := by
  cases hwr : r.wr with
  | none =>
    have h := (backFrame_readRaw r.phys s).resolves
    rw [answerReq, doData, hwr]
    exact h.trans ⟨rfl, fun _ => rfl⟩
  | some w =>
    rw [answerReq, doData, hwr]
    dsimp only
    split
    · exact .refl s
    · exact resolves_writeRaw ..

theorem resolves_resolveDead (st c r : Nat) (s : Sled) : Resolves s (resolveDead st c r s) :=
  List.foldlRecOn _ (fun s q => answerReq q s) (resolves_updChan ..) fun t ht q _ => ht.trans (resolves_answerReq q t)

/-- The unreadable channels of a rank are logged, and their requests complete. -/
theorem resolves_deadChannels (st r : Nat) (l : List Nat) (s : Sled) :
    Resolves s (l.foldl (fun s c =>
      resolveDead st c r (logRec { mkRec 0x300C (iMC st) with object := r * 16 + c * 64 + st * 1024 } s)) s) :=
  List.foldlRecOn _ _ (.refl s) fun t ht c _ =>
    ht.trans ((backFrame_logRec ..).resolves.trans (resolves_resolveDead st c r _))

/-! ### GO -/

/-- The stack as its migration starts. -/
def migStarted (st r k dead : Nat) (s : Sled) : Sled :=
  { updMcs st (fun m => { m with mig := some { rank := r, spare := k, dead := dead } })
      (rSetField (bMC st) offSpare 0 5 (r + 4 * k + 16) s) with
    kpr := { s.kpr with pendingMig := s.kpr.pendingMig.filter fun p => !(p.1 = st && p.2.1 = r) } }

theorem spareGo_starts {s : Sled} {st r k : Nat} (hlock : lockedReg s (bMC st) offSpare = false)
    (hnone : (fget s.mcs {} st).mig = none) (hrun : migsRun s < 4) (hfree : spareFree s k = true) (hself : st ≠ 8 ∨ r ≠ k) :
    spareGo st r k s = (maskList 16 (deadMask s st r)).foldl (fun s c =>
      resolveDead st c r (logRec { mkRec 0x300C (iMC st) with object := r * 16 + c * 64 + st * 1024 } s))
      (migStarted st r k (deadMask s st r) s) := by
  have hgo : ¬ ((fget s.mcs {} st).mig.isSome = true ∨ 4 ≤ migsRun s ∨ (!spareFree s k) = true ∨ (st = 8 ∧ r = k)) := by
    rw [hnone, hfree]
    rintro (h | h | h | ⟨h, h'⟩)
    · exact Bool.false_ne_true h
    · omega
    · exact Bool.false_ne_true h
    · exact hself.elim (fun hs => hs h) fun hs => hs h'
  rw [spareGo, hlock, if_neg Bool.false_ne_true, if_neg hgo]
  rfl

/-- GO that starts nothing changes nothing. -/
theorem spareGo_ignored {s : Sled} {st r k : Nat} (hlock : lockedReg s (bMC st) offSpare = false)
    (h : (fget s.mcs {} st).mig.isSome = true ∨ 4 ≤ migsRun s ∨ spareFree s k = false) : spareGo st r k s = s := by
  rw [spareGo, hlock, if_neg Bool.false_ne_true, if_pos]
  rcases h with h | h | h
  · exact .inl h
  · exact .inr (.inl h)
  · exact .inr (.inr (.inl (by rw [h]; rfl)))

theorem migStarted_mcs (st r k dead : Nat) (s : Sled) :
    (fget (migStarted st r k dead s).mcs {} st).mig = some { rank := r, spare := k, dead := dead } ∧
    ∀ x, x ≠ st → fget (migStarted st r k dead s).mcs {} x = fget s.mcs {} x := by
  refine ⟨?_, fun x hx => fget_fset_other _ _ _ hx⟩
  rw [migStarted, fget_updMcs_same]

theorem migStarted_keeps (st r k dead : Nat) (s : Sled) : (migStarted st r k dead s).mem = s.mem ∧
    (migStarted st r k dead s).chan = s.chan ∧ (migStarted st r k dead s).bank = s.bank ∧
    (migStarted st r k dead s).stall = s.stall := by
  simp only [migStarted, updMcs_mem, updMcs_chan, updMcs_bank, updMcs_stall, rSetField_mem, rSetField_chan, rSetField_bank,
    rSetField_stall, and_self]

/-! ### The end of a migration -/

/-- The write of GO = 0 to a migration that is done. -/
theorem fxSpareEnd_done {s : Sled} {st : Nat} {m : Mig} (hm : (fget s.mcs {} st).mig = some m) (hstate : m.state = 3)
    (habort : m.abort = false) (hending : m.ending = false) (hruns : islRuns s (iMC st) = true)
    (hcross : crossHeld s (bMC st) = false) (hlock : lockedReg s (bMC st) offSpare = false) :
    fxSpareEnd st s = logRec (mkRec 0x300A (iMC st)) (if m.committed then migEnd st s
      else updMcs st (fun x => { x with mig := some { m with ending := true } }) s) := by
  rw [fxSpareEnd, hruns, hcross, if_neg (by decide), if_neg (by decide)]
  simp only [spareGo0, hlock, hm, hstate, habort, hending, Bool.false_eq_true, if_false, Bool.false_or, decide_true,
    Bool.true_and, Bool.not_false, if_true]

/-! ### The spare map -/

theorem spareEnt_setSpareReg (k : Nat) (e : SpareEnt) (he : e.stack < 8 ∧ e.rank < 4) (s : Sled) :
    spareEnt (setSpareReg k (some e) s) k = some e ∧
      ∀ j, j ≠ k → spareEnt (setSpareReg k (some e) s) j = spareEnt s j := by
  obtain ⟨hs, hr⟩ := he
  refine ⟨?_, fun j hj => ?_⟩
  · have hget : rGet (setSpareReg k (some e) s) bKPR (8 + 8 * k) = 1 + e.stack * 2 + e.rank * 16 := by
      rw [setSpareReg, rGet_rSet_same]
      exact Nat.mod_eq_of_lt (by omega)
    have hbit : bitAt (1 + e.stack * 2 + e.rank * 16) 0 = true := by
      rw [bitAt]
      simp
      omega
    have hstack : bitsOf (1 + e.stack * 2 + e.rank * 16) 1 3 = e.stack := by
      rw [bitsOf]
      omega
    have hrank : bitsOf (1 + e.stack * 2 + e.rank * 16) 4 2 = e.rank := by
      rw [bitsOf]
      omega
    simp only [spareEnt, hget, hbit, if_true, hstack, hrank]
  · have hne : regKey bKPR (8 + 8 * j) ≠ regKey bKPR (8 + 8 * k) := by
      unfold regKey
      omega
    rw [spareEnt, spareEnt, setSpareReg, rGet_rSet_other _ _ _ _ hne]

/-- The end of a migration leaves the spare map. -/
theorem spareEnt_migEnd {st : Nat} (hst : st < 9) (s : Sled) (k : Nat) : spareEnt (migEnd st s) k = spareEnt s k := by
  have hne : regKey bKPR (8 + 8 * k) ≠ regKey (bMC st) offSpare := by
    unfold regKey bKPR bMC offSpare
    omega
  rw [spareEnt, spareEnt, migEnd, rSetField, rGet_rSet_other _ _ _ _ hne]
  rfl

theorem spareMap_congr {s t : Sled} (h : ∀ k, spareEnt t k = spareEnt s k) : spareMap t = spareMap s := by
  rw [spareMap, spareMap]
  simp only [h]

/-- The map and its flash record with a new entry. -/
def mapEntered (k : Nat) (e : SpareEnt) (s : Sled) : Sled :=
  { setSpareReg k (some e) s with fl := { s.fl with spares := s.fl.spares.write (spareMap (setSpareReg k (some e) s)) } }

/-- A migration whose map entry is committed. -/
theorem fxSpareMapCommit_done {s : Sled} {st : Nat} {m : Mig} (hm : (fget s.mcs {} st).mig = some m) (hstate : m.state =
    3)
    (habort : m.abort = false) (hnew : m.committed = false) (hrun : s.kpr.phase = .running) (hst : st ≠ 8) :
    fxSpareMapCommit st s = if m.ending
      then migEnd st (updMcs st (fun x => { x with mig := x.mig.map fun g => { g with committed := true } })
        (mapEntered m.spare { stack := st, rank := m.rank } s))
      else updMcs st (fun x => { x with mig := x.mig.map fun g => { g with committed := true } })
        (mapEntered m.spare { stack := st, rank := m.rank } s) := by
  rw [fxSpareMapCommit, hm]
  simp only [hstate, habort, hnew, hrun, if_neg hst, ne_eq, not_true, Bool.false_eq_true, or_self, if_false]
  rfl


/-! ### Copying a row -/

/-- Words copied one after the other, each a pair of the place it comes from and the place it goes to. -/
def copyAll (l : List (Nat × Nat)) (m : List Host.Cell) : List Host.Cell :=
  l.foldl (fun m p => memWrite m p.2 (memRead m p.1 32)) m

/-- The memory after a copy of words to places that hold none of the words read. -/
theorem memGet_copyAll {l : List (Nat × Nat)} (hread : ∀ p ∈ l, ∀ q ∈ l, q.2 + 32 ≤ p.1 ∨ p.1 + 32 ≤ q.2)
    (hrise : l.Pairwise fun p q => p.2 + 32 ≤ q.2) (m : List Host.Cell) :
    (∀ p ∈ l, ∀ x, x < 32 → memGet (copyAll l m) (p.2 + x) = memGet m (p.1 + x)) ∧
    ∀ a, (∀ p ∈ l, a < p.2 ∨ p.2 + 32 ≤ a) → memGet (copyAll l m) a = memGet m a := by
  induction l generalizing m with
  | nil => exact ⟨fun p hp => absurd hp List.not_mem_nil, fun a _ => rfl⟩
  | cons p l ih =>
    obtain ⟨hafter, hl⟩ := List.pairwise_cons.1 hrise
    obtain ⟨hin, hout⟩ := ih (fun x hx y hy => hread x (List.mem_cons_of_mem _ hx) y (List.mem_cons_of_mem _ hy)) hl
      (memWrite m p.2 (memRead m p.1 32))
    have hkeep (a : Nat) (ha : a < p.2 ∨ p.2 + 32 ≤ a) : memGet (memWrite m p.2 (memRead m p.1 32)) a = memGet m a :=
      memGet_memWrite_out _ _ _ (by rw [length_memRead]; exact ha)
    have hput (x : Nat) (hx : x < 32) : memGet (memWrite m p.2 (memRead m p.1 32)) (p.2 + x) = memGet m (p.1 + x) := by
      rw [memGet_memWrite_in _ _ _ _ (by rw [length_memRead]; exact hx), getElem_memRead]
    refine ⟨fun q hq x hx => ?_, fun a ha => ?_⟩
    · rcases List.mem_cons.1 hq with rfl | hq
      · refine (hout (q.2 + x) fun y hy => ?_).trans (hput x hx)
        have := hafter y hy
        omega
      · refine (hin q hq x hx).trans (hkeep _ ?_)
        have := hread q (List.mem_cons_of_mem _ hq) p List.mem_cons_self
        omega
    · exact (hout a fun q hq => ha q (List.mem_cons_of_mem _ hq)).trans (hkeep a (ha p List.mem_cons_self))

/-- A word without an error is copied. -/
theorem copyWord_clean {s : Sled} (hecc : s.ecc = []) {dst : Nat} (hdst : dst % 32 = 0) (src : Nat) :
    copyWord false src dst s = { s with mem := memWrite s.mem dst (memRead s.mem src 32) } := by
  have hclean : eccAt s src = 0 := by rw [eccAt, hecc]; rfl
  have hset : fset s.ecc 0 (dst / 32) eClean = s.ecc := by rw [hecc]; rfl
  rw [copyWord, if_neg Bool.false_ne_true, hclean, if_neg (by decide), if_neg (by decide), storeWord]
  refine (if_pos rfl).trans ?_
  rw [show dst / 32 * 32 = dst by omega, hset]

theorem foldl_copyWord {l : List (Nat × Nat)} (hl : ∀ p ∈ l, p.2 % 32 = 0) {s : Sled} (hecc : s.ecc = []) :
    l.foldl (fun s p => copyWord false p.1 p.2 s) s = { s with mem := copyAll l s.mem } := by
  induction l generalizing s with
  | nil => rfl
  | cons p l ih =>
    rw [List.foldl_cons, copyWord_clean hecc (hl p List.mem_cons_self)]
    exact ih (fun q hq => hl q (List.mem_cons_of_mem _ hq)) (s := { s with mem := memWrite s.mem p.2 (memRead s.mem p.1 32) })
      hecc

/-- The words of a row in the sixteen banks of a rank, and their places in the spare. -/
def rowWords (st c r k row : Nat) : List (Nat × Nat) :=
  (List.range 16).flatMap fun b => (List.range 32).map fun i =>
    (rankBank st c r b * 2 ^ 26 + row * 1024 + 32 * i, rankBank 8 c k b * 2 ^ 26 + row * 1024 + 32 * i)

theorem mem_rowWords {st c r k row : Nat} {p : Nat × Nat} : p ∈ rowWords st c r k row ↔ ∃ b i, b < 16 ∧ i < 32 ∧
    p = (rankBank st c r b * 2 ^ 26 + row * 1024 + 32 * i, rankBank 8 c k b * 2 ^ 26 + row * 1024 + 32 * i) := by
  simp only [rowWords, List.mem_flatMap, List.mem_map, List.mem_range]
  constructor
  · rintro ⟨b, hb, i, hi, rfl⟩
    exact ⟨b, i, hb, hi, rfl⟩
  · rintro ⟨b, i, hb, hi, rfl⟩
    exact ⟨b, hb, i, hi, rfl⟩

/-- Banks of different ranks differ. -/
theorem rankBank_ne {st st' c c' r r' b b' : Nat} (hc : c < 16) (hc' : c' < 16) (hr : r < 4) (hr' : r' < 4) (hb : b <
    16)
    (hb' : b' < 16) (h : st ≠ st' ∨ c ≠ c' ∨ r ≠ r' ∨ b ≠ b') : rankBank st c r b ≠ rankBank st' c' r' b' := by
  unfold rankBank
  omega

/-- Rows of different banks do not meet. -/
theorem rows_apart {x y row i j : Nat} (hxy : x ≠ y) (hrow : row < 65536) (hi : i < 32) (hj : j < 32) :
    x * 2 ^ 26 + row * 1024 + 32 * i + 32 ≤ y * 2 ^ 26 + row * 1024 + 32 * j ∨
      y * 2 ^ 26 + row * 1024 + 32 * j + 32 ≤ x * 2 ^ 26 + row * 1024 + 32 * i := by
  omega

theorem outside_word {a y i : Nat} (h : a < y ∨ y + 1024 ≤ a) (hi : i < 32) : a < y + 32 * i ∨ y + 32 * i + 32 ≤ a := by
  omega

theorem rowWords_rise (st c r k row : Nat) : (rowWords st c r k row).Pairwise fun p q => p.2 + 32 ≤ q.2 := by
  refine List.pairwise_flatMap.2 ⟨fun b _ => ?_, ?_⟩
  · exact List.pairwise_map.2 (List.pairwise_lt_range.imp fun {i j} h => by dsimp only; omega)
  · refine List.pairwise_lt_range.imp fun {b b'} h p hp q hq => ?_
    obtain ⟨i, hi, rfl⟩ := List.mem_map.1 hp
    obtain ⟨j, hj, rfl⟩ := List.mem_map.1 hq
    have hi' := List.mem_range.1 hi
    dsimp only
    unfold rankBank
    omega

/-- The memory after a row has been copied in every bank. -/
theorem memGet_rowCopied {st c r k row : Nat} (hc : c < 16) (hr : r < 4) (hk : k < 4) (hself : st ≠ 8 ∨ r ≠ k)
    (hrow : row < 65536) (m : List Host.Cell) :
    (∀ b x, b < 16 → x < 1024 → memGet (copyAll (rowWords st c r k row) m) (rankBank 8 c k b * 2 ^ 26 + row * 1024 + x) =
      memGet m (rankBank st c r b * 2 ^ 26 + row * 1024 + x)) ∧
    (∀ a, (∀ b, b < 16 → a < rankBank 8 c k b * 2 ^ 26 + row * 1024 ∨ rankBank 8 c k b * 2 ^ 26 + row * 1024 + 1024 ≤ a) →
      memGet (copyAll (rowWords st c r k row) m) a = memGet m a) := by
  have hread : ∀ p ∈ rowWords st c r k row, ∀ q ∈ rowWords st c r k row, q.2 + 32 ≤ p.1 ∨ p.1 + 32 ≤ q.2 := by
    intro p hp q hq
    obtain ⟨b, i, hb, hi, rfl⟩ := mem_rowWords.1 hp
    obtain ⟨b', i', hb', hi', rfl⟩ := mem_rowWords.1 hq
    exact rows_apart (rankBank_ne hc hc hk hr hb' hb (by omega)) hrow hi' hi
  obtain ⟨hin, hout⟩ := memGet_copyAll hread (rowWords_rise ..) m
  refine ⟨fun b x hb hx => ?_, fun a ha => hout a fun p hp => ?_⟩
  · have hword := hin _ (mem_rowWords.2 ⟨b, x / 32, hb, by omega, rfl⟩) (x % 32) (Nat.mod_lt _ (by decide))
    have hsum (y : Nat) : y + 32 * (x / 32) + x % 32 = y + x := by omega
    rw [hsum, hsum] at hword
    exact hword
  · obtain ⟨b, i, hb, hi, rfl⟩ := mem_rowWords.1 hp
    exact outside_word (ha b hb) hi

/-- A row copied in every bank: its words, the watermark and the times. -/
def rowCopied (st c row : Nat) (m : Mig) (s : Sled) : Sled :=
  updMcs st (fun x => { x with mig := x.mig.map fun g =>
    { g with wm := fset g.wm 0 c (row + 1), part := fset g.part 0 c 0
             waits := (List.range 16).foldl (fun w b => fset w 0 (c * 16 + b) 0) g.waits
             next := fset g.next 0 c (chTime s st c + 2048 * slotLen (binOf s st)) } })
    { s with mem := copyAll (rowWords st c m.rank m.spare row) s.mem }

/-- The copy is complete with the last row of every channel. -/
def copyEnded (g : Mig) : Mig :=
  if g.state = 1 ∧ (List.range 16).all (fun c => fget g.wm 0 c = 65536) = true then { g with state := 2 } else g

theorem copyBanks_row {s : Sled} {st c row : Nat} {m : Mig} {p : Nat → Bool} (hm : (fget s.mcs {} st).mig = some m)
    (hrow : row = fget m.wm 0 c) (hdead : m.dead = 0) (hpart : fget m.part 0 c = 0) (hecc : s.ecc = [])
    (hp : ∀ b, b < 16 → p b = true) :
    copyBanks st c p s = updMcs st (fun x => { x with mig := x.mig.map copyEnded })
      (flushHeld st (fun d => d.chan = c && d.rank = m.rank && d.row = row && (List.range 16).contains d.bank)
        (rowCopied st c row m s)) := by
  have htodo : ((List.range 16).filter fun b => !bitAt 0 b && p b) = List.range 16 :=
    List.filter_eq_self.2 fun b hb => by
      rw [hp b (List.mem_range.1 hb), Bool.and_true, bitAt]
      simp
  have hdeadc : bitAt m.dead c = false := by
    rw [hdead, bitAt]
    simp
  have hmask : ((List.range 16).foldl (fun x b => setBit x b true) 0) = 2 ^ 16 - 1 := by decide
  have hfold : (List.range 16).foldl (fun s b => (List.range 32).foldl (fun s k =>
        copyWord false (rankBank st c m.rank b * 2 ^ 26 + row * 1024 + 32 * k)
          (rankBank 8 c m.spare b * 2 ^ 26 + row * 1024 + 32 * k) s) s) s =
      { s with mem := copyAll (rowWords st c m.rank m.spare row) s.mem } := by
    rw [← foldl_copyWord (fun q hq => ?_) hecc, rowWords, List.foldl_flatMap]
    · simp only [List.foldl_map]
    · obtain ⟨b, i, -, -, rfl⟩ := mem_rowWords.1 hq
      dsimp only
      omega
  rw [copyBanks, hm]
  simp only [← hrow, hdeadc, hpart, htodo, hfold, hmask, if_true, List.length_range, Nat.reduceMul]
  have hbin (l : List Host.Cell) : binOf { s with mem := l } st = binOf s st := rfl
  simp only [hbin]
  rw [rowCopied]
  generalize copyAll (rowWords st c m.rank m.spare row) s.mem = l
  rfl


/-- With no writes held there is nothing to flush. -/
theorem flushHeld_none {s : Sled} {st : Nat} (h : (fget s.mcs {} st).held = []) (p : Coord → Bool) :
    flushHeld st p s = updMcs st (fun m => { m with held := m.held.filter fun h => !p (coordOf h.1) }) s := by
  rw [flushHeld, h]
  rfl

/-- A row below the last leaves the copy incomplete. -/
theorem copyEnded_incomplete {g : Mig} {c : Nat} (hc : c < 16) (hrow : fget g.wm 0 c < 65536) : copyEnded g = g := by
  refine if_neg fun h => ?_
  have hall := List.all_eq_true.1 h.2 c (List.mem_range.2 hc)
  exact absurd (of_decide_eq_true hall) (Nat.ne_of_lt hrow)

/-- The stack's migration and the memory after a row has been copied. -/
theorem copyBanks_row_result {s : Sled} {st c row : Nat} {m : Mig} {p : Nat → Bool} (hm : (fget s.mcs {} st).mig = some
    m)
    (hrow : row = fget m.wm 0 c) (hdead : m.dead = 0) (hpart : fget m.part 0 c = 0) (hecc : s.ecc = [])
    (hheld : (fget s.mcs {} st).held = []) (hp : ∀ b, b < 16 → p b = true) (hc : c < 16) (hlast : row < 65535) :
    (copyBanks st c p s).mem = copyAll (rowWords st c m.rank m.spare row) s.mem ∧ (copyBanks st c p s).bank = s.bank ∧
    (fget (copyBanks st c p s).mcs {} st).mig = some { m with
      wm := fset m.wm 0 c (row + 1)
      part := fset m.part 0 c 0
      waits := (List.range 16).foldl (fun w b => fset w 0 (c * 16 + b) 0) m.waits
      next := fset m.next 0 c (chTime s st c + 2048 * slotLen (binOf s st)) } := by
  have hheld' : (fget (rowCopied st c row m s).mcs {} st).held = [] := by
    rw [rowCopied, fget_updMcs_same]
    exact hheld
  rw [copyBanks_row hm hrow hdead hpart hecc hp, flushHeld_none hheld']
  refine ⟨by rw [updMcs_mem, updMcs_mem, rowCopied, updMcs_mem], by rw [updMcs_bank, updMcs_bank, rowCopied, updMcs_bank], ?_⟩
  rw [fget_updMcs_same, fget_updMcs_same, rowCopied, fget_updMcs_same]
  dsimp only
  rw [hm, Option.map_some, Option.map_some, copyEnded_incomplete hc]
  dsimp only
  rw [fget_fset_same]
  omega

/-- Banks without a program row do not wait. -/
theorem fxMigrationCopyRow_free {s : Sled} {st c : Nat} {m : Mig} (hruns : copyRuns s st c = true)
    (hm : (fget s.mcs {} st).mig = some m)
    (hfree : ∀ b, b < 16 → inWindow (getBank s (rankBank st c m.rank b)) = false) :
    fxMigrationCopyRow st c s = copyBanks st c (fun b => !copyWaits s st c b) s ∧
      ∀ b, b < 16 → (!copyWaits s st c b) = true := by
  have hwait (b : Nat) (hb : b < 16) : copyWaits s st c b = false := by
    rw [copyWaits, hm]
    dsimp only
    rw [hfree b hb, Bool.and_false]
  have hnote : (List.range 16).foldl (fun s b => noteWait st c b s) s = s :=
    List.foldlRecOn (motive := (· = s)) _ _ rfl fun t ht b hb => by
      rw [ht, noteWait, hwait b (List.mem_range.1 hb)]
      rfl
  refine ⟨?_, fun b hb => by rw [hwait b hb]; rfl⟩
  rw [fxMigrationCopyRow, if_pos hruns, hnote]

/-! ### Cutover -/

/-- Banks that have moved: each of the list stands where it goes to and has left where it was; the others stay. -/
def Moved (src dst : Nat × Nat → Nat) (l : List (Nat × Nat)) (s t : Sled) : Prop :=
  (∀ i ∈ l, getBank t (dst i) = getBank s (src i) ∧ getBank t (src i) = {}) ∧
  ∀ k, (∀ i ∈ l, k ≠ src i ∧ k ≠ dst i) → getBank t k = getBank s k

/-- Moves that do not meet follow one another. -/
theorem Moved.append {src dst : Nat × Nat → Nat} {l l' : List (Nat × Nat)} {s t u : Sled} (h : Moved src dst l s t)
    (h' : Moved src dst l' t u)
    (hapart : ∀ i ∈ l, ∀ j ∈ l', src i ≠ src j ∧ src i ≠ dst j ∧ dst i ≠ src j ∧ dst i ≠ dst j) :
    Moved src dst (l ++ l') s u := by
  obtain ⟨hin, hout⟩ := h
  obtain ⟨hin', hout'⟩ := h'
  refine ⟨fun i hi => ?_, fun k hk => ?_⟩
  · rcases List.mem_append.1 hi with hi | hi
    · have hsrc := hout' (src i) fun j hj => ⟨(hapart i hi j hj).1, (hapart i hi j hj).2.1⟩
      have hdst := hout' (dst i) fun j hj => ⟨(hapart i hi j hj).2.2.1, (hapart i hi j hj).2.2.2⟩
      exact ⟨hdst.trans (hin i hi).1, hsrc.trans (hin i hi).2⟩
    · have hsrc := hout (src i) fun j hj => ⟨(hapart j hj i hi).1.symm, (hapart j hj i hi).2.2.1.symm⟩
      exact ⟨(hin' i hi).1.trans hsrc, (hin' i hi).2⟩
  · exact (hout' k fun j hj => hk j (List.mem_append.2 (.inr hj))).trans
      (hout k fun i hi => hk i (List.mem_append.2 (.inl hi)))

theorem Moved.congr {src dst : Nat × Nat → Nat} {l : List (Nat × Nat)} {s t u : Sled} (h : Moved src dst l s t)
    (hu : u.bank = t.bank) : Moved src dst l s u := by
  have hget (k : Nat) : getBank u k = getBank t k := by rw [getBank, getBank, hu]
  exact ⟨fun i hi => by rw [hget, hget]; exact h.1 i hi, fun k hk => (hget k).trans (h.2 k hk)⟩

/-- What a cutover may change apart from the migration itself. -/
def CutFrame (s t : Sled) : Prop := t = { s with bank := t.bank, btm := t.btm, chan := t.chan }

theorem CutFrame.trans {s t u : Sled} (h : CutFrame s t) (h' : CutFrame t u) : CutFrame s u := by
  unfold CutFrame at h h'
  rw [h] at h'
  exact h'

/-- Bank `src` moves to `dst`. -/
def bankSet (src dst : Nat) (s : Sled) : Sled :=
  setTm dst (getTm s src) (setTm src {} (setBank dst (getBank s src) (setBank src {} s)))

/-- The bank `b` of channel `c` moves to the spare. -/
def cutBank (st c : Nat) (m : Mig) (s : Sled) (b : Nat) : Sled :=
  mustReopen (rankBank 8 c m.spare b) (bankSet (rankBank st c m.rank b) (rankBank 8 c m.spare b) s)

theorem setTm_bank (k : Nat) (b : BankTm) (s : Sled) : (setTm k b s).bank = s.bank := rfl

theorem getBank_bankSet {src dst : Nat} (hne : src ≠ dst) (s : Sled) :
    getBank (bankSet src dst s) dst = getBank s src ∧ getBank (bankSet src dst s) src = {} ∧
      ∀ k, k ≠ src ∧ k ≠ dst → getBank (bankSet src dst s) k = getBank s k := by
  have hbank : (bankSet src dst s).bank = (setBank dst (getBank s src) (setBank src {} s)).bank := by
    rw [bankSet, setTm_bank, setTm_bank]
  have hget (k : Nat) : getBank (bankSet src dst s) k = getBank (setBank dst (getBank s src) (setBank src {} s)) k :=
    congrArg (fget · ({} : BankU) k) hbank
  refine ⟨?_, ?_, fun k hk => ?_⟩
  · rw [hget, getBank_setBank_same]
  · rw [hget, getBank_setBank_other hne, getBank_setBank_same]
  · rw [hget, getBank_setBank_other hk.2, getBank_setBank_other hk.1]

theorem bankSet_frame (src dst : Nat) (s : Sled) : CutFrame s (bankSet src dst s) := by
  have hbank (k : Nat) (b : BankU) (u : Sled) : CutFrame u (setBank k b u) := rfl
  have htm (k : Nat) (b : BankTm) (u : Sled) : CutFrame u (setTm k b u) := rfl
  exact (hbank ..).trans ((hbank ..).trans ((htm ..).trans (htm ..)))

theorem mustReopen_bank (k : Nat) (s : Sled) : (mustReopen k s).bank = s.bank ∧ CutFrame s (mustReopen k s) := by
  unfold mustReopen
  split
  · exact ⟨rfl, rfl⟩
  · exact ⟨rfl, rfl⟩

theorem cutBank_moves {st c b : Nat} {m : Mig} (hne : rankBank st c m.rank b ≠ rankBank 8 c m.spare b) (s : Sled) :
    Moved (fun i => rankBank st i.1 m.rank i.2) (fun i => rankBank 8 i.1 m.spare i.2) [(c, b)] s (cutBank st c m s b) ∧
      CutFrame s (cutBank st c m s b) := by
  obtain ⟨hbank, hframe⟩ := mustReopen_bank (rankBank 8 c m.spare b)
    (bankSet (rankBank st c m.rank b) (rankBank 8 c m.spare b) s)
  obtain ⟨hdst, hsrc, hout⟩ := getBank_bankSet hne s
  refine ⟨Moved.congr (t := bankSet (rankBank st c m.rank b) (rankBank 8 c m.spare b) s) ⟨fun i hi => ?_, fun k hk => ?_⟩
    hbank, (bankSet_frame ..).trans hframe⟩
  · rw [List.mem_singleton.1 hi]
    dsimp only
    exact ⟨hdst, hsrc⟩
  · have hkc : k ≠ rankBank st c m.rank b ∧ k ≠ rankBank 8 c m.spare b := hk (c, b) (List.mem_singleton.2 rfl)
    exact hout k hkc

/-- The banks of a channel move. -/
theorem cutBanks_move {st c : Nat} {m : Mig} (hc : c < 16) (hr : m.rank < 4) (hk : m.spare < 4)
    (hself : st ≠ 8 ∨ m.rank ≠ m.spare) (s : Sled) {n : Nat} (hn : n ≤ 16) :
    Moved (fun i => rankBank st i.1 m.rank i.2) (fun i => rankBank 8 i.1 m.spare i.2) ((List.range n).map fun b => (c, b)) s
        ((List.range n).foldl (cutBank st c m) s) ∧
      CutFrame s ((List.range n).foldl (cutBank st c m) s) := by
  induction n with
  | zero => exact ⟨⟨fun i hi => absurd hi List.not_mem_nil, fun k _ => rfl⟩, rfl⟩
  | succ n ih =>
    obtain ⟨hmoved, hframe⟩ := ih (Nat.le_of_succ_le hn)
    obtain ⟨hone, hframe'⟩ := cutBank_moves (st := st) (c := c) (b := n) (m := m)
      (rankBank_ne hc hc hr hk (by omega) (by omega) (by omega)) ((List.range n).foldl (cutBank st c m) s)
    rw [List.range_succ, List.map_append, List.foldl_append]
    refine ⟨hmoved.append hone fun i hi j hj => ?_, hframe.trans hframe'⟩
    obtain ⟨b, hb, rfl⟩ := List.mem_map.1 hi
    have hlt := List.mem_range.1 hb
    obtain rfl : j = (c, n) := List.mem_singleton.1 hj
    refine ⟨rankBank_ne hc hc hr hr (by omega) (by omega) (by omega),
      rankBank_ne hc hc hr hk (by omega) (by omega) (by omega),
      rankBank_ne hc hc hk hr (by omega) (by omega) (by omega),
      rankBank_ne hc hc hk hk (by omega) (by omega) (by omega)⟩

/-- A channel cuts over. -/
theorem cutChannel_moves {st c : Nat} {m : Mig} (hc : c < 16) (hr : m.rank < 4) (hk : m.spare < 4)
    (hself : st ≠ 8 ∨ m.rank ≠ m.spare) (hdead : m.dead = 0) (s : Sled) :
    Moved (fun i => rankBank st i.1 m.rank i.2) (fun i => rankBank 8 i.1 m.spare i.2)
        ((List.range 16).map fun b => (c, b)) s (cutChannel st c m s) ∧
      CutFrame s (cutChannel st c m s) := by
  have hdeadc : bitAt m.dead c = false := by
    rw [hdead, bitAt]
    simp
  obtain ⟨hmoved, hframe⟩ := cutBanks_move hc hr hk hself s (Nat.le_refl 16)
  have hbank : (cutChannel st c m s).bank = ((List.range 16).foldl (cutBank st c m) s).bank ∧
      CutFrame ((List.range 16).foldl (cutBank st c m) s) (cutChannel st c m s) := by
    have hfold : (List.range 16).foldl (fun s b =>
        mustReopen (rankBank 8 c m.spare b) (setTm (rankBank 8 c m.spare b) (getTm s (rankBank st c m.rank b))
          (setTm (rankBank st c m.rank b) {} (setBank (rankBank 8 c m.spare b)
            (if bitAt m.dead c = true then bankFlag (getBank s (rankBank st c m.rank b))
              else getBank s (rankBank st c m.rank b)) (setBank (rankBank st c m.rank b) {} s))))) s =
        (List.range 16).foldl (cutBank st c m) s := by
      rw [hdeadc]
      rfl
    rw [cutChannel]
    dsimp only
    rw [hfold]
    generalize (List.range 16).foldl (cutBank st c m) s = u
    split
    · exact ⟨rfl, rfl⟩
    · exact ⟨rfl, rfl⟩
  exact ⟨hmoved.congr hbank.1, hframe.trans hbank.2⟩

/-- The channels of a stack cut over. -/
theorem cutChannels_move {st : Nat} {m : Mig} (hr : m.rank < 4) (hk : m.spare < 4)
    (hself : st ≠ 8 ∨ m.rank ≠ m.spare) (hdead : m.dead = 0) (s : Sled) {n : Nat} (hn : n ≤ 16) :
    Moved (fun i => rankBank st i.1 m.rank i.2) (fun i => rankBank 8 i.1 m.spare i.2)
        ((List.range n).flatMap fun c => (List.range 16).map fun b => (c, b)) s
        ((List.range n).foldl (fun s c => cutChannel st c m s) s) ∧
      CutFrame s ((List.range n).foldl (fun s c => cutChannel st c m s) s) := by
  induction n with
  | zero => exact ⟨⟨fun i hi => absurd hi List.not_mem_nil, fun k _ => rfl⟩, rfl⟩
  | succ n ih =>
    obtain ⟨hmoved, hframe⟩ := ih (Nat.le_of_succ_le hn)
    obtain ⟨hone, hframe'⟩ := cutChannel_moves (st := st) (c := n) (by omega) hr hk hself hdead
      ((List.range n).foldl (fun s c => cutChannel st c m s) s)
    rw [List.range_succ (n := n), List.flatMap_append, List.foldl_append]
    refine ⟨hmoved.append (by rw [List.flatMap_singleton]; exact hone) fun i hi j hj => ?_, hframe.trans hframe'⟩
    rw [List.flatMap_singleton] at hj
    obtain ⟨c, hc, hi⟩ := List.mem_flatMap.1 hi
    obtain ⟨b, hb, rfl⟩ := List.mem_map.1 hi
    obtain ⟨b', hb', rfl⟩ := List.mem_map.1 hj
    have hcn := List.mem_range.1 hc
    have hb := List.mem_range.1 hb
    have hb' := List.mem_range.1 hb'
    exact ⟨rankBank_ne (by omega) (by omega) hr hr hb hb' (.inr (.inl (Nat.ne_of_lt hcn))),
      rankBank_ne (by omega) (by omega) hr hk hb hb' (.inr (.inl (Nat.ne_of_lt hcn))),
      rankBank_ne (by omega) (by omega) hk hr hb hb' (.inr (.inl (Nat.ne_of_lt hcn))),
      rankBank_ne (by omega) (by omega) hk hk hb hb' (.inr (.inl (Nat.ne_of_lt hcn)))⟩

/-- The sled whose banks have cut over, before the spare's counter is signalled. -/
def cutDone (st : Nat) (m : Mig) (s : Sled) : Sled :=
  updMcs st (fun x => { x with mig := x.mig.map fun g => { g with state := 3 } })
    ((List.range 16).foldl (fun s c => cutChannel st c m s) (flushHeld st (fun d => d.rank = m.rank) s))

theorem fxMigrationCutover_done {s : Sled} {st : Nat} {m : Mig} (hm : (fget s.mcs {} st).mig = some m)
    (hstate : m.state = 2) (habort : m.abort = false) (hst : islRuns s (iMC st) = true) (h8 : islRuns s (iMC 8) = true) :
    fxMigrationCutover st s = ctrAdd { kind := 8, island := iMC st } (16328 + m.spare) 1 (cutDone st m s) := by
  rw [fxMigrationCutover, hm]
  exact if_neg (by rw [hstate, habort, hst, h8]; decide)

theorem logSync_ctr (code : Nat) (w : Who) (kind i a1 a2 : Nat) (s : Sled) :
    (logSync code w kind i a1 a2 s).ctr = s.ctr := by
  rw [logSync_frame]

/-- The counter that a signal adds one to; banks, memory and migrations stay. -/
theorem ctrAdd_one (w : Who) (i : Nat) (s : Sled) : (getCtr (ctrAdd w i 1 s) i).value = min ctrTop ((getCtr s i).value +
    1) ∧
    (ctrAdd w i 1 s).bank = s.bank ∧ (ctrAdd w i 1 s).mem = s.mem ∧ (ctrAdd w i 1 s).ecc = s.ecc ∧
    (ctrAdd w i 1 s).mcs = s.mcs := by
  have hp := objProgress_frame 0 i s
  have hset (c : Ctr) : (setCtr i c (objProgress 0 i s)).bank = s.bank ∧ (setCtr i c (objProgress 0 i s)).mem = s.mem ∧
      (setCtr i c (objProgress 0 i s)).ecc = s.ecc ∧ (setCtr i c (objProgress 0 i s)).mcs = s.mcs := by
    rw [hp]
    exact ⟨rfl, rfl, rfl, rfl⟩
  unfold ctrAdd
  dsimp only
  split
  next hle =>
    refine ⟨?_, hset _⟩
    rw [getCtr_setCtr_same]
    exact (Nat.min_eq_right hle).symm
  next hgt =>
    have hmin : min ctrTop ((getCtr s i).value + 1) = ctrTop := Nat.min_eq_left (by omega)
    obtain ⟨hbank, hmem, hecc, hmcs⟩ := hset { getCtr s i with value := ctrTop, sat := true }
    rw [hmin]
    split
    · refine ⟨?_, hbank, hmem, hecc, hmcs⟩
      rw [getCtr_congr (bump_ctr ..), getCtr_setCtr_same]
    · refine ⟨?_, (logRec_bank ..).trans hbank, (logRec_mem ..).trans hmem, (logRec_ecc ..).trans hecc,
        (logRec_mcs ..).trans hmcs⟩
      rw [getCtr_congr (logSync_ctr ..), getCtr_setCtr_same]

theorem getBank_updMcs (st : Nat) (f : Mcs → Mcs) (s : Sled) (k : Nat) : getBank (updMcs st f s) k = getBank s k := rfl

/-- The banks, the memory and the stack's migration after the cutover. -/
theorem cutDone_result {s : Sled} {st : Nat} {m : Mig} (hm : (fget s.mcs {} st).mig = some m) (hr : m.rank < 4)
    (hk : m.spare < 4) (hself : st ≠ 8 ∨ m.rank ≠ m.spare) (hdead : m.dead = 0) (hheld : (fget s.mcs {} st).held = []) :
    (∀ c b, c < 16 → b < 16 →
      getBank (cutDone st m s) (rankBank 8 c m.spare b) = getBank s (rankBank st c m.rank b) ∧
      getBank (cutDone st m s) (rankBank st c m.rank b) = {}) ∧
    (fget (cutDone st m s).mcs {} st).mig = some { m with state := 3 } ∧ (cutDone st m s).mem = s.mem ∧
    (cutDone st m s).ecc = s.ecc ∧ (cutDone st m s).ctr = s.ctr := by
  obtain ⟨hmoved, hframe⟩ := cutChannels_move hr hk hself hdead (flushHeld st (fun d => d.rank = m.rank) s) (Nat.le_refl 16)
  have hflush := flushHeld_none hheld fun d => d.rank = m.rank
  rw [cutDone]
  generalize (List.range 16).foldl (fun s c => cutChannel st c m s) (flushHeld st (fun d => d.rank = m.rank) s) = u
    at hmoved hframe
  rw [hflush] at hmoved hframe
  refine ⟨fun c b hc hb => ?_, ?_, ?_, ?_, ?_⟩
  · have hmem : (c, b) ∈ (List.range 16).flatMap fun c => (List.range 16).map fun b => (c, b) :=
      List.mem_flatMap.2 ⟨c, List.mem_range.2 hc, List.mem_map.2 ⟨b, List.mem_range.2 hb, rfl⟩⟩
    obtain ⟨hdst, hsrc⟩ := hmoved.1 (c, b) hmem
    rw [getBank_updMcs] at hdst
    rw [getBank_updMcs, getBank_updMcs]
    exact ⟨hdst, hsrc⟩
  · have hmcs : (fget u.mcs {} st).mig = some m := by
      rw [hframe]
      dsimp only
      rw [fget_updMcs_same]
      exact hm
    rw [fget_updMcs_same]
    dsimp only
    rw [hmcs]
    rfl
  · rw [updMcs_mem, hframe]
    rfl
  · rw [updMcs_ecc, hframe]
    rfl
  · rw [updMcs_ctr, hframe]
    rfl

/-- GO of a migration that may start. -/
theorem fxSpareGo_starts {s : Sled} {st r k : Nat} (hst : islRuns s (iMC st) = true) (h8 : islRuns s (iMC 8) = true)
    (hcross : crossHeld s (bMC st) = false) (hlock : lockedReg s (bMC st) offSpare = false)
    (hnone : (fget s.mcs {} st).mig = none) (hrun : migsRun s < 4) (hfree : spareFree s k = true) (hself : st ≠ 8 ∨ r ≠ k) :
    ∃ t, fxSpareGo st r k s = t ∧ t.stall = s.stall ∧
      (fget t.mcs {} st).mig = some { rank := r, spare := k, dead := deadMask s st r } ∧ t.bank = s.bank ∧
      (deadMask s st r = 0 → (∀ x, x ≠ st → fget t.mcs {} x = fget s.mcs {} x) ∧ t.mem = s.mem ∧ t.chan = s.chan) := by
  have hgo := spareGo_starts hlock hnone hrun hfree hself
  have hres := resolves_deadChannels st r (maskList 16 (deadMask s st r)) (migStarted st r k (deadMask s st r) s)
  obtain ⟨hmem, hchan, hbank, hstall⟩ := migStarted_keeps st r k (deadMask s st r) s
  obtain ⟨hmig, hother⟩ := migStarted_mcs st r k (deadMask s st r) s
  rw [← hgo] at hres
  have hmig' := (hres.2 st).trans hmig
  have hfx : fxSpareGo st r k s = logRec { mkRec 0x3009 (iMC st) with arg1 := k } (spareGo st r k s) := by
    rw [fxSpareGo, hst, h8, hcross, if_neg (by decide), if_neg (by decide)]
    dsimp only
    rw [hnone, hmig']
    exact if_pos rfl
  refine ⟨_, hfx, (logRec_stall ..).trans (hres.stall.trans hstall), ?_, (logRec_bank ..).trans (hres.bank.trans hbank), fun hdead => ?_⟩
  · rw [logRec_mcs]
    exact hmig'
  · have hgo' : spareGo st r k s = migStarted st r k (deadMask s st r) s := by
      rw [hgo, show maskList 16 (deadMask s st r) = [] by rw [hdead]; decide, List.foldl_nil]
    rw [logRec_mem, logRec_chan, logRec_mcs, hgo']
    exact ⟨hother, hmem, hchan⟩

theorem exec_spareGo_ignored {s : State} {st : StackId} {r : RankId} {k : Fin 4}
    (hlock : lockedReg s.sled (bMC st) offSpare = false)
    (h : (fget s.sled.mcs {} st).mig.isSome = true ∨ 4 ≤ migsRun s.sled ∨ spareFree s.sled k = false) :
    exec (.spareGo st r k) s = .next s := by
  have hgo := spareGo_ignored (r := r) hlock h
  have hexec : exec (.spareGo st r k) s = liftHold (fxSpareGo st r k) s := rfl
  have hcases : fxSpareGo st r k s.sled = s.sled ∨ fxSpareGo st r k s.sled = setStall s.sled := by
    unfold fxSpareGo
    split
    · exact .inl rfl
    · split
      · exact .inr rfl
      · dsimp only
        rw [hgo]
        refine .inl (if_neg ?_)
        rw [Bool.and_eq_true, Option.isNone_iff_eq_none, Option.isSome_iff_ne_none]
        exact fun hn => hn.2 hn.1
  rw [hexec]
  rcases hcases with hfx | hfx
  · exact liftHold_next (u := s.sled) hfx rfl
  · by_cases hs : s.sled.stall = true
    · have hsame : setStall s.sled = s.sled := by
        rw [setStall, ← hs]
      exact liftHold_next (u := s.sled) (hfx.trans hsame) rfl
    · exact liftHold_wait (by rw [hfx]; exact fun h => hs h.symm)

/-- A row that is copied in every bank. -/
theorem fxMigrationCopyRow_result {s : Sled} {st c row : Nat} {m : Mig} (hruns : copyRuns s st c = true)
    (hm : (fget s.mcs {} st).mig = some m) (hrow : row = fget m.wm 0 c) (hdead : m.dead = 0) (hc : c < 16) (hr : m.rank < 4)
    (hk : m.spare < 4) (hself : st ≠ 8 ∨ m.rank ≠ m.spare) (hpart : fget m.part 0 c = 0) (hecc : s.ecc = [])
    (hheld : (fget s.mcs {} st).held = [])
    (hfree : ∀ b, b < 16 → inWindow (getBank s (rankBank st c m.rank b)) = false) (hlast : row < 65535) :
    (∀ b x, b < 16 → x < 1024 → memGet (fxMigrationCopyRow st c s).mem (rankBank 8 c m.spare b * 2 ^ 26 + row * 1024 + x) =
      memGet s.mem (rankBank st c m.rank b * 2 ^ 26 + row * 1024 + x)) ∧
    (∀ a, (∀ b, b < 16 → a < rankBank 8 c m.spare b * 2 ^ 26 + row * 1024 ∨
        rankBank 8 c m.spare b * 2 ^ 26 + row * 1024 + 1024 ≤ a) →
      memGet (fxMigrationCopyRow st c s).mem a = memGet s.mem a) ∧
    (fget (fxMigrationCopyRow st c s).mcs {} st).mig = some { m with
      wm := fset m.wm 0 c (row + 1)
      part := fset m.part 0 c 0
      waits := (List.range 16).foldl (fun w b => fset w 0 (c * 16 + b) 0) m.waits
      next := fset m.next 0 c (chTime s st c + 2048 * slotLen (binOf s st)) } ∧
    (fxMigrationCopyRow st c s).bank = s.bank := by
  obtain ⟨hfx, hp⟩ := fxMigrationCopyRow_free hruns hm hfree
  obtain ⟨hmem, hbank, hmig⟩ := copyBanks_row_result hm hrow hdead hpart hecc hheld hp hc hlast
  obtain ⟨hin, hout⟩ := memGet_rowCopied (st := st) hc hr hk hself (show row < 65536 by omega) s.mem
  rw [hfx, hmem]
  exact ⟨hin, hout, hmig, hbank⟩

theorem migEnd_mig (st : Nat) (s : Sled) : (fget (migEnd st s).mcs {} st).mig = none :=
  congrArg Mcs.mig (fget_updMcs_same st (fun x => { x with mig := none }) s)

theorem migEnd_fl (st : Nat) (s : Sled) : (migEnd st s).fl = s.fl := by
  rw [migEnd, rSetField_fl, updMcs_fl]

/-- The spare map and its record after the commit. -/
theorem mapEntered_result {s : Sled} {k : Nat} {e : SpareEnt} (he : e.stack < 8 ∧ e.rank < 4) {t : Sled}
    (ht : ∀ j, spareEnt t j = spareEnt (mapEntered k e s) j) (hfl : t.fl = (mapEntered k e s).fl) :
    spareEnt t k = some e ∧ (∀ j, j ≠ k → spareEnt t j = spareEnt s j) ∧
      t.fl = { s.fl with spares := s.fl.spares.write (spareMap t) } := by
  obtain ⟨hent, hother⟩ := spareEnt_setSpareReg k e he s
  have hmap (j : Nat) : spareEnt (mapEntered k e s) j = spareEnt (setSpareReg k (some e) s) j := rfl
  refine ⟨(ht k).trans hent, fun j hj => (ht j).trans (hother j hj), ?_⟩
  rw [hfl, spareMap_congr fun j => (ht j).trans (hmap j)]
  rfl

/-- A cutover without dead banks on an empty hold list puts the banks of the rank on its spare and signals. -/
theorem fxMigrationCutover_result {s : Sled} {st : StackId} {m : Mig} (hm : (fget s.mcs {} st).mig = some m)
    (hstate : m.state = 2) (habort : m.abort = false) (hst : islRuns s (iMC st) = true) (h8 : islRuns s (iMC 8) = true)
    (hheld : (fget s.mcs {} st).held = []) (hr : m.rank < 4) (hk : m.spare < 4) (hself : st.val ≠ 8 ∨ m.rank ≠ m.spare)
    (hdead : m.dead = 0) :
    (fget (fxMigrationCutover st s).mcs {} st).mig = some { m with state := 3 } ∧
    (∀ c b, c < 16 → b < 16 →
      getBank (fxMigrationCutover st s) (rankBank 8 c m.spare b) = getBank s (rankBank st c m.rank b) ∧
      getBank (fxMigrationCutover st s) (rankBank st c m.rank b) = {}) ∧
    (getCtr (fxMigrationCutover st s) (16328 + m.spare)).value = min ctrTop ((getCtr s (16328 + m.spare)).value + 1) ∧
    (fxMigrationCutover st s).mem = s.mem ∧ (fxMigrationCutover st s).ecc = s.ecc := by
  rw [fxMigrationCutover_done hm hstate habort hst h8]
  obtain ⟨hbanks, hmig, hmem, hecc, hctr⟩ := cutDone_result hm hr hk hself hdead hheld
  obtain ⟨hvalue, hbank, hmem', hecc', hmcs⟩ := ctrAdd_one { kind := 8, island := iMC st } (16328 + m.spare) (cutDone st m s)
  rw [getCtr_congr hctr] at hvalue
  refine ⟨by rw [hmcs, hmig], fun c b hc hb => ?_, hvalue, hmem'.trans hmem, hecc'.trans hecc⟩
  rw [getBank_congr hbank, getBank_congr hbank]
  exact hbanks c b hc hb

/-- A commit enters the pair in the spare map and in flash, and ends a migration that waits for it. -/
theorem fxSpareMapCommit_result {s : Sled} {st : StackId} {m : Mig} (hm : (fget s.mcs {} st).mig = some m)
    (hstate : m.state = 3) (habort : m.abort = false) (hnew : m.committed = false) (hrun : s.kpr.phase = .running)
    (hst : st.val ≠ 8) (hr : m.rank < 4) (hk : m.spare < 4) :
    spareEnt (fxSpareMapCommit st s) m.spare = some { stack := st, rank := m.rank } ∧
    (∀ k, k ≠ m.spare → spareEnt (fxSpareMapCommit st s) k = spareEnt s k) ∧
    (fxSpareMapCommit st s).fl = { s.fl with spares := s.fl.spares.write (spareMap (fxSpareMapCommit st s)) } ∧
    (m.ending = false → (fget (fxSpareMapCommit st s).mcs {} st).mig = some { m with committed := true }) ∧
    (m.ending = true → (fget (fxSpareMapCommit st s).mcs {} st).mig = none) ∧ (fxSpareMapCommit st s).mem = s.mem := by
  have hfx := fxSpareMapCommit_done hm hstate habort hnew hrun hst
  have hmig : (fget (mapEntered m.spare { stack := st, rank := m.rank } s).mcs {} st).mig = some m := hm
  have hent (u : Sled) (hu : ∀ j, spareEnt u j = spareEnt (mapEntered m.spare { stack := st, rank := m.rank } s) j)
      (hfl : u.fl = (mapEntered m.spare { stack := st, rank := m.rank } s).fl) :=
    mapEntered_result (e := { stack := st, rank := m.rank }) ⟨show st.val < 8 by omega, hr⟩ hu hfl
  rcases Bool.eq_false_or_eq_true m.ending with hend | hend
  · rw [hend, if_pos rfl] at hfx
    rw [hfx]
    obtain ⟨hown, hother, hfl⟩ := hent _ (fun j => spareEnt_migEnd st.isLt _ j) (migEnd_fl ..)
    exact ⟨hown, hother, hfl, fun h => absurd (hend.symm.trans h).symm Bool.false_ne_true, fun _ => migEnd_mig .., migEnd_mem ..⟩
  · rw [hend, if_neg Bool.false_ne_true] at hfx
    rw [hfx]
    obtain ⟨hown, hother, hfl⟩ := hent _ (fun j => rfl) rfl
    refine ⟨hown, hother, hfl, fun _ => ?_, fun h => absurd (hend.symm.trans h) Bool.false_ne_true, rfl⟩
    rw [fget_updMcs_same]
    dsimp only
    rw [hmig]
    rfl

/-- Settles O50: how a rank's migration starts, copies, cuts over, is committed and ends. -/
theorem sparingMovesARankToItsSpare : Obligations.SparingMovesARankToItsSpare := by
  unfold Obligations.SparingMovesARankToItsSpare
  refine ⟨?go, ?ignored, ?copy, ?rowBreak, ?cutover, ?commit, ?finish⟩
  case go =>
    intro s st r k hst h8 hcross hlock hnone hrun hfree hself
    obtain ⟨t, hfx, hstall, hmig, hbank, hclean⟩ := fxSpareGo_starts hst h8 hcross hlock hnone hrun hfree hself
    exact ⟨_, liftHold_next hfx hstall, rfl, hmig, hbank, hclean⟩
  case ignored =>
    intro s st r k hlock h
    exact exec_spareGo_ignored hlock h
  case copy =>
    intro s st c m row hruns hm hrow hdead hr hk hself hpart hecc hheld hfree hlast
    obtain ⟨hin, hout, hmig, hbank⟩ :=
      fxMigrationCopyRow_result hruns hm hrow hdead c.isLt hr hk hself hpart hecc hheld hfree hlast
    exact ⟨_, lift_next (f := fxMigrationCopyRow st c) rfl, rfl, hin, hout, hmig, hbank⟩
  case rowBreak =>
    intro s st c b m hruns hm hwaits hpart
    have hunc : uncopied s.sled st c b = true := by
      rw [uncopied, hm]
      dsimp only
      rw [hpart]
      rfl
    have hsrc : sourceBank s.sled st c b = rankBank st c m.rank b := by rw [sourceBank, hm]
    have hfx : fxMigrationRowBreak st c b s.sled = if waitOver s.sled st c b
        then mustReopen (rankBank st c m.rank b) (bumpMc st c 10 (copyBanks st c (fun x => x = b) s.sled)) else s.sled := by
      rw [fxMigrationRowBreak, hruns, hwaits, hunc, hsrc]
      rfl
    refine ⟨fun h => lift_next (f := fxMigrationRowBreak st c b) (hfx.trans (if_pos h)), fun h => ?_⟩
    exact lift_next (f := fxMigrationRowBreak st c b) (u := s.sled) (hfx.trans (if_neg (by rw [h]; exact Bool.false_ne_true)))
  case cutover =>
    intro s st m hm hstate habort hst h8 hheld hr hk hself hdead
    exact ⟨_, lift_next (f := fxMigrationCutover st) rfl, rfl,
      fxMigrationCutover_result hm hstate habort hst h8 hheld hr hk hself hdead⟩
  case commit =>
    intro s st m hm hstate habort hnew hrun hst hr hk
    exact ⟨_, lift_next (f := fxSpareMapCommit st) rfl, rfl, fxSpareMapCommit_result hm hstate habort hnew hrun hst hr hk⟩
  case finish =>
    intro s st m hm hstate habort hending hst hcross hlock
    have hfx := fxSpareEnd_done hm hstate habort hending hst hcross hlock
    refine ⟨fun hcommit => ?_, fun hcommit => ?_⟩
    · exact liftHold_next (hfx.trans (congrArg (logRec _) (if_pos hcommit))) (logRec_stall ..)
    · have hnot : ¬ m.committed = true := fun h => absurd (hcommit.symm.trans h) Bool.false_ne_true
      exact liftHold_next (hfx.trans (congrArg (logRec _) (if_neg hnot))) (logRec_stall ..)

end Sys2Proof.Machine

/-! ## O51: the rescue mover, and the watch over the control cores' heartbeats -/
namespace Sys2Proof.Machine
open Sys2Proof

/-! ### The rescue mover -/

/-- The registers of a descriptor with its operands stored. -/
def rdmaSet (o src dst len : Nat) (fill sig : Bool) (s : Sled) : Sled :=
  rSetField bKPR (o + 16) 34 1 (b2n sig) (rSetField bKPR (o + 16) 33 1 (b2n fill) (rSetField bKPR (o + 16) 0 25 len
    (rSetField bKPR (o + 8) 0 40 dst (rSetField bKPR o 0 40 src s))))

/-- Only registers differ. -/
def RegsOnly (s t : Sled) : Prop := t = { s with regs := t.regs }

theorem RegsOnly.trans {s t u : Sled} (h : RegsOnly s t) (h' : RegsOnly t u) : RegsOnly s u := by
  unfold RegsOnly at h h'
  rw [h] at h'
  exact h'

theorem regsOnly_rSetField (blk off lo len v : Nat) (s : Sled) : RegsOnly s (rSetField blk off lo len v s) := rfl

theorem regsOnly_rdmaSet (o src dst len : Nat) (fill sig : Bool) (s : Sled) : RegsOnly s (rdmaSet o src dst len fill sig
    s) :=
  (regsOnly_rSetField ..).trans ((regsOnly_rSetField ..).trans ((regsOnly_rSetField ..).trans ((regsOnly_rSetField ..).trans
    (regsOnly_rSetField ..))))

theorem rGet_rSetField_ne {blk off lo len v o : Nat} (s : Sled) (h : o ≠ off) :
    rGet (rSetField blk off lo len v s) blk o = rGet s blk o :=
  rGet_rSet_other _ _ _ _ fun hk => h (by unfold regKey at hk; omega)

theorem bitAt_setBits_bool (x i : Nat) (b : Bool) : bitAt (setBits x i 1 (b2n b)) i = b := by
  rw [← setBit_eq_setBits, bitAt_setBit_same]

/-- What the operands read as. -/
theorem rdmaSet_fields {o src dst len : Nat} (hsrc : src < 2 ^ 40) (hdst : dst < 2 ^ 40) (hlen : len < 2 ^ 25) (fill sig
    : Bool)
    (s : Sled) :
    bitsOf (rGet (rdmaSet o src dst len fill sig s) bKPR o) 0 40 = src ∧
    bitsOf (rGet (rdmaSet o src dst len fill sig s) bKPR (o + 8)) 0 40 = dst ∧
    bitsOf (rGet (rdmaSet o src dst len fill sig s) bKPR (o + 16)) 0 25 = len ∧
    bitAt (rGet (rdmaSet o src dst len fill sig s) bKPR (o + 16)) 33 = fill ∧
    bitAt (rGet (rdmaSet o src dst len fill sig s) bKPR (o + 16)) 34 = sig := by
  have h16 : o + 16 ≠ o ∧ o + 8 ≠ o ∧ o + 8 ≠ o + 16 := by omega
  obtain ⟨h1, h2, h3⟩ := h16
  refine ⟨?_, ?_, ?_, ?_, ?_⟩
  · rw [rdmaSet, rGet_rSetField_ne _ h1.symm, rGet_rSetField_ne _ h1.symm, rGet_rSetField_ne _ h1.symm,
      rGet_rSetField_ne _ h2.symm, rGet_rSetField _ _ _ _ _ _ (by decide), bitsOf_setBits_same, Nat.mod_eq_of_lt hsrc]
  · rw [rdmaSet, rGet_rSetField_ne _ h3, rGet_rSetField_ne _ h3, rGet_rSetField_ne _ h3,
      rGet_rSetField _ _ _ _ _ _ (by decide), bitsOf_setBits_same, Nat.mod_eq_of_lt hdst]
  · rw [rdmaSet, rGet_rSetField _ _ _ _ _ _ (by decide), bitsOf_setBits_other _ _ _ _ (by decide),
      rGet_rSetField _ _ _ _ _ _ (by decide), bitsOf_setBits_other _ _ _ _ (by decide),
      rGet_rSetField _ _ _ _ _ _ (by decide), bitsOf_setBits_same, Nat.mod_eq_of_lt hlen]
  · rw [rdmaSet, rGet_rSetField _ _ _ _ _ _ (by decide), bitAt_setBits_other _ _ _ _ (by decide),
      rGet_rSetField _ _ _ _ _ _ (by decide), bitAt_setBits_bool]
  · rw [rdmaSet, rGet_rSetField _ _ _ _ _ _ (by decide), bitAt_setBits_bool]

/-- GO of a descriptor that is not moving. -/
theorem fxRescueDmaGo_unlocked {s : Sled} {n src dst len : Nat} {fill sig : Bool} (hrun : s.kpr.phase = .running)
    (hnoc : islRuns s iNOC = true) (h0 : lockedReg s bKPR (offRdma n) = false)
    (h8 : lockedReg s bKPR (offRdma n + 8) = false) (h16 : lockedReg s bKPR (offRdma n + 16) = false) :
    fxRescueDmaGo n src dst len fill sig s = rdmaGo n (rdmaSet (offRdma n) src dst (max 1 len) fill sig s) := by
  have hlock (blk off lo w v : Nat) (u : Sled) (b o : Nat) : lockedReg (rSetField blk off lo w v u) b o = lockedReg u b o := rfl
  rw [fxRescueDmaGo, if_neg (by rw [hrun, hnoc]; decide)]
  dsimp only
  simp only [swField_of_unlocked, hlock, h0, h8, h16]
  rfl

/-- The write of GO. -/
theorem rdmaGo_set {s : Sled} {n src dst len : Nat} (hidle : ∀ d ∈ s.kpr.rdma, d.n ≠ n) (hsrc : src < 2 ^ 40)
    (hdst : dst < 2 ^ 40) (hlen : len < 2 ^ 25) (fill sig : Bool) :
    rdmaGo n (rdmaSet (offRdma n) src dst len fill sig s) =
      if 2 ^ 24 < len then rSetField bKPR (offRdma n + 16) 37 1 1 (rdmaSet (offRdma n) src dst len fill sig s)
      else { rdmaSet (offRdma n) src dst len fill sig s with kpr := { s.kpr with
        rdma := s.kpr.rdma ++ [{ n := n, src := src, dst := dst, len := len, fill, sig }] } } := by
  obtain ⟨fsrc, fdst, flen, ffill, fsig⟩ := rdmaSet_fields (o := offRdma n) hsrc hdst hlen fill sig s
  have hkpr : (rdmaSet (offRdma n) src dst len fill sig s).kpr = s.kpr := by rw [regsOnly_rdmaSet (offRdma n) src dst len fill sig s]
  have hnot : ¬ (rdmaSet (offRdma n) src dst len fill sig s).kpr.rdma.any (fun d => d.n = n) = true := by
    rw [hkpr, List.any_eq_true]
    rintro ⟨d, hd, hn⟩
    exact hidle d hd (of_decide_eq_true hn)
  rw [rdmaGo, if_neg hnot]
  simp only [fsrc, fdst, flen, ffill, fsig, hkpr]

theorem ctrAdd_stall (w : Who) (i inc : Nat) (s : Sled) : (ctrAdd w i inc s).stall = s.stall := by
  have hset (c : Ctr) : (setCtr i c (objProgress 0 i s)).stall = s.stall := by
    rw [objProgress_frame 0 i s]
    rfl
  unfold ctrAdd
  dsimp only
  split
  · exact hset _
  · split
    · exact (bump_stall ..).trans (hset _)
    · rw [logSync_frame]
      exact hset { getCtr s i with value := ctrTop, sat := true }

/-! ### Heartbeats -/

theorem heartbeat_stopped {s : Sled} {i : Nat} (h : s.ccRunning.getLsbD i = false) : heartbeat i s = s := by
  rw [heartbeat, h]
  rfl

/-- With one core running, the check is that core's. -/
theorem heartbeats_one {s : Sled} {i : Nat} (hi : i < 4) (hskip : ∀ j, j < 4 → j ≠ i → heartbeat j s = s)
    (hrest : ∀ j, j < 4 → j ≠ i → heartbeat j (heartbeat i s) = heartbeat i s) :
    (List.range 4).foldl (fun s i => heartbeat i s) s = heartbeat i s := by
  have hlist : (List.range 4).foldl (fun s i => heartbeat i s) s = heartbeat 3 (heartbeat 2 (heartbeat 1 (heartbeat 0 s))) := rfl
  rw [hlist]
  interval_cases i
  · rw [hrest 1 (by decide) (by decide), hrest 2 (by decide) (by decide), hrest 3 (by decide) (by decide)]
  · rw [hskip 0 (by decide) (by decide), hrest 2 (by decide) (by decide), hrest 3 (by decide) (by decide)]
  · rw [hskip 0 (by decide) (by decide), hskip 1 (by decide) (by decide), hrest 3 (by decide) (by decide)]
  · rw [hskip 0 (by decide) (by decide), hskip 1 (by decide) (by decide), hskip 2 (by decide) (by decide)]

/-- The other cores do not run. -/
theorem others_stopped {s : Sled} {i : Fin 4} (hrun : s.ccRunning = 1 <<< i.val) {j : Nat} (hj : j < 4) (hne : j ≠
    i.val) :
    s.ccRunning.getLsbD j = false := by
  have hone : ∀ i j : Fin 4, j.val ≠ i.val → ((1 <<< i.val : Nat) : BitVec 4).getLsbD j = false := by decide
  rw [hrun]
  exact hone i ⟨j, hj⟩ hne

/-- Control core 0 hangs for the first time, without the driver lock. -/
theorem coreHangs_first {s : Sled} {h : Hb} (hh : fget s.kpr.hb {} 0 = h) (hhangs : h.hangs = [])
    (hlock : (getSem s 65281).count ≠ 1) {u v : Sled}
    (hu : u = bump bKPR 0x108 (logRec (recWho s 0xB005 (whoAgent s (.cc 0))) s))
    (hv : v = { u with kpr := { u.kpr with hb := fput u.kpr.hb 0 { h with since := s.now, hangs := [s.now] } } }) :
    coreHangs 0 s = setCause 6 3 8 (coreResetBegin 8 false v) := by
  have hlogs := (logsOnly_logRec (recWho s 0xB005 (whoAgent s (.cc 0))) s).rest
  have hhb : u.kpr.hb = s.kpr.hb := by
    rw [hu]
    exact congrArg (·.kpr.hb) hlogs
  have hnow : u.now = s.now := by
    rw [hu]
    exact logRec_now ..
  have hsem : ¬ (getSem u 65281).count = ((0 : Nat) : Int) + 1 := by
    rw [getSem_congr (show u.sem = s.sem by rw [hu]; exact logRec_sem ..)]
    exact hlock
  have hu' : bump bKPR 0x108 (logRec (recWho s 0xB005 (whoAgent s (.cc (Fin.ofNat 4 0)))) s) = u := hu.symm
  rw [coreHangs, hu']
  simp only [if_neg hsem, hhb, hh, hhangs, List.filter_nil]
  have hput : fput s.kpr.hb 0 { h with since := s.now, hangs := [s.now] } =
      fput s.kpr.hb 0 { h with since := u.now, hangs := [u.now] } := by rw [hnow]
  rw [hv, hhb, hput]
  exact if_neg (show ¬ 3 ≤ [u.now].length from by rw [List.length_singleton]; decide)

/-- After its reset no control core runs that did not run before. -/
theorem coreResetBegin_running {s : Sled} (hrun : s.ccRunning = 1) {j : Nat} (hj : j ≠ 0) :
    (coreResetBegin 8 false s).ccRunning.getLsbD j = false := by
  have hone : (1 : BitVec 4).getLsbD j = false := by
    by_cases h4 : j < 4
    · have hall : ∀ j : Fin 4, j.val ≠ 0 → (1 : BitVec 4).getLsbD j = false := by decide
      exact hall ⟨j, h4⟩ hj
    · exact BitVec.getLsbD_of_ge _ _ (Nat.not_lt.1 h4)
  rw [coreResetBegin]
  split
  · rw [hrun]
    exact hone
  · split
    · exact absurd ‹8 < 8› (Nat.lt_irrefl 8)
    · split
      · rw [hrun]
        exact hone
      · have hzero : BitVec.ofNat 4 (setBit (1 : BitVec 4).toNat (8 - 8) false) = 0 := by decide
        have hset : (clearX 8 (ccDrop (8 - 8) s)).ccRunning = 1 := hrun
        dsimp only
        rw [hset, hzero]
        exact BitVec.getLsbD_zero

/-- Settles O51: the rescue mover and the heartbeat check. -/
theorem rescueMoverAndHeartbeats : Obligations.RescueMoverAndHeartbeats := by
  unfold Obligations.RescueMoverAndHeartbeats
  refine ⟨?go, ?done, ?alive, ?hang⟩
  case go =>
    intro s n a b len fill sig hrun hnoc h0 h8 h16 hidle hpos
    have hmax : max 1 len.toNat = len.toNat := Nat.max_eq_right hpos
    have hfx : fxRescueDmaGo n a.toNat b.toNat len.toNat fill sig s.sled = _ :=
      (fxRescueDmaGo_unlocked hrun hnoc h0 h8 h16).trans
        (rdmaGo_set hidle a.isLt b.isLt (by rw [hmax]; exact len.isLt) fill sig)
    rw [hmax] at hfx
    have hregs := regsOnly_rdmaSet (offRdma n) a.toNat b.toNat len.toNat fill sig s.sled
    refine ⟨fun hle => ?_, fun hgt => ?_⟩
    · rw [if_neg (Nat.not_lt.2 hle)] at hfx
      refine ⟨_, lift_next (f := fxRescueDmaGo n a.toNat b.toNat len.toNat fill sig) hfx, rfl, ?_⟩
      rw [hregs]
    · rw [if_pos hgt] at hfx
      refine ⟨_, lift_next (f := fxRescueDmaGo n a.toNat b.toNat len.toNat fill sig) hfx, ?_, ?_⟩
      · exact rField_rSetField_same _ _ _ _ _ _ (by decide)
      · exact congrArg (fun u => ({ s with sled := u } : State)) (hregs.trans (regsOnly_rSetField ..))
  case done =>
    intro s n d u w hd hnoc hu hstall
    have hstop : (!islRuns s.sled iNOC) = false := by rw [hnoc]; rfl
    refine ⟨fun hr => ?_, fun x hr => ?_⟩
    · have hfx : fxRescueDmaDone n s.sled = if d.sig
          then ctrAdd (whoRdma n) (16320 + n) 1 (bump bKPR 0x110 (rSetField bKPR (offRdma n + 16) 36 1 1 w))
          else bump bKPR 0x110 (rSetField bKPR (offRdma n + 16) 36 1 1 w) := by
        rw [fxRescueDmaDone, hd]
        simp only [hstop, Bool.false_eq_true, if_false, ← hu, hr]
      intro v
      refine ⟨fun hsig => ?_, fun hsig => ?_⟩
      · exact liftHold_next (hfx.trans (if_neg (by rw [hsig]; exact Bool.false_ne_true)))
          ((bump_stall ..).trans ((rSetField_stall ..).trans hstall))
      · exact liftHold_next (hfx.trans (if_pos hsig)) ((ctrAdd_stall ..).trans ((bump_stall ..).trans
          ((rSetField_stall ..).trans hstall)))
    · have hfx : fxRescueDmaDone n s.sled = logRec (recAddr false x (moduleId (rSetField bKPR (offRdma n + 16) 37 1 1 w))
          (recWho (rSetField bKPR (offRdma n + 16) 37 1 1 w) 0xA005 (whoRdma n))) (rSetField bKPR (offRdma n + 16) 37 1 1 w) := by
        rw [fxRescueDmaDone, hd]
        simp only [hstop, Bool.false_eq_true, if_false, ← hu, hr]
      exact liftHold_next hfx ((logRec_stall ..).trans ((rSetField_stall ..).trans hstall))
  case alive =>
    intro s i h v hrun hnoc hctl hone hh hv
    have hfx : fxHeartbeatCheck s.sled = (List.range 4).foldl (fun s i => heartbeat i s) s.sled := if_pos ⟨hrun, hnoc, hctl⟩
    have hstop (j : Nat) (hj : j < 4) (hne : j ≠ i.val) : heartbeat j s.sled = s.sled :=
      heartbeat_stopped (others_stopped hone hj hne)
    have hbit : s.sled.ccRunning.getLsbD i = true := by
      have hall : ∀ i : Fin 4, ((1 <<< i.val : Nat) : BitVec 4).getLsbD i = true := by decide
      rw [hone]
      exact hall i
    have hbeat : heartbeat i s.sled = if v ≠ h.last
        then { s.sled with kpr := { s.sled.kpr with hb := fput s.sled.kpr.hb i { h with last := v, since := s.sled.now } } }
        else if h.since + 200 * ms ≤ s.sled.now then coreHangs i s.sled else s.sled := by
      rw [heartbeat, if_neg (by rw [hbit]; decide), ← hh, ← hv]
    refine ⟨fun hne => ?_, fun he hlate => ?_⟩
    · rw [if_pos hne] at hbeat
      refine lift_next (f := fxHeartbeatCheck) (hfx.trans ((heartbeats_one i.isLt hstop fun j hj hji => ?_).trans hbeat))
      rw [hbeat]
      exact heartbeat_stopped (others_stopped (s := s.sled) hone hj hji)
    · rw [if_neg (fun hne => hne he), if_neg (by omega)] at hbeat
      refine lift_next (f := fxHeartbeatCheck) (u := s.sled)
        (hfx.trans ((heartbeats_one i.isLt hstop fun j hj hji => ?_).trans hbeat))
      rw [hbeat]
      exact hstop j hj hji
  case hang =>
    intro s h hrun hnoc hctl hone hh hv hlate hhangs hsem u v
    have hfx : fxHeartbeatCheck s.sled = (List.range 4).foldl (fun s i => heartbeat i s) s.sled := if_pos ⟨hrun, hnoc, hctl⟩
    have hstop (j : Nat) (hj : j < 4) (hne : j ≠ 0) : heartbeat j s.sled = s.sled :=
      heartbeat_stopped (others_stopped (i := 0) hone hj hne)
    have hbeat : heartbeat 0 s.sled = setCause 6 3 8 (coreResetBegin 8 false v) := by
      rw [heartbeat, if_neg (by rw [hone]; decide), ← hh]
      exact (if_neg fun hne => hne hv).trans ((if_pos hlate).trans (coreHangs_first hh.symm hhangs hsem rfl rfl))
    refine lift_next (f := fxHeartbeatCheck)
      (hfx.trans ((heartbeats_one (i := 0) (by decide) hstop fun j hj hne => ?_).trans hbeat))
    rw [hbeat]
    have hcc : v.ccRunning = 1 := by
      rw [← hone]
      exact logRec_ccRunning ..
    exact heartbeat_stopped (coreResetBegin_running hcc hne)

end Sys2Proof.Machine

/-! What a link going down leaves of the platform: messages come back to their senders, operations fail, and none of it
touches the rails, the pins or READY (spec/15, R313; spec/16, R318). -/

namespace Sys2Proof.Machine

open Sys2Proof

@[simp] theorem nextFree_plat (s : Sled) : (nextFree s).2.plat = s.plat := rfl

@[simp] theorem updLnk_plat (l : Nat) (f : Lnk → Lnk) (s : Sled) : (updLnk l f s).plat = s.plat := rfl

@[simp] theorem closeTag_plat (tag : Nat) (s : Sled) : (closeTag tag s).plat = s.plat := rfl

@[simp] theorem pushTx_plat (l : Nat) (m : Msg) (s : Sled) : (pushTx l m s).plat = s.plat := rfl

@[simp] theorem respond_plat (kind : Nat) (m : MsgIn) (arg : Nat) (data : List Byte) (pois : Nat)
    (inner : Option (Nat × MsgIn)) (s : Sled) : (respond kind m arg data pois inner s).plat = s.plat := by
  simp [respond, apply_ite Sled.plat]

@[simp] theorem unreachMsg_plat (possibly : Bool) (kind : Nat) (m : MsgIn) (s : Sled) :
    (unreachMsg possibly kind m s).plat = s.plat := by
  simp [unreachMsg, apply_ite Sled.plat]

@[simp] theorem descFault_plat (u : Nat) (d : Desc) (code a2 : Nat) (s : Sled) :
    (descFault u d code a2 s).plat = s.plat := by
  simp -implicitDefEqProofs [descFault, apply_ite Sled.plat]

@[simp] theorem logRemoteSync_plat (code : Nat) (w : Who) (o : Outst) (s : Sled) :
    (logRemoteSync code w o s).plat = s.plat :=
  logRec_plat ..

@[simp] theorem loadFail_plat (code : Nat) (s : Sled) : (loadFail code s).2.plat = s.plat := by
  unfold loadFail
  split <;> rfl

@[simp] theorem setX_plat (core rd v : Nat) (s : Sled) : (setX core rd v s).plat = s.plat := by
  simp -implicitDefEqProofs [setX, apply_ite Sled.plat]

@[simp] theorem seFault_plat (c cause tval : Nat) (s : Sled) : (seFault c cause tval s).plat = s.plat := by
  simp -implicitDefEqProofs [seFault, apply_ite Sled.plat]

/-- As for the memory, the search of `findDesc` is kept out of the proof. -/
@[simp] theorem contFail_plat (code : Nat) (o : Outst) (s : Sled) : (contFail code o s).plat = s.plat := by
  unfold contFail
  generalize findDesc = find
  as_aux_lemma =>
    dsimp only
    split
    · split <;> simp -implicitDefEqProofs [apply_ite Sled.plat]
    · split <;> simp -implicitDefEqProofs [apply_ite Sled.plat]
    · split <;> simp -implicitDefEqProofs
    · simp -implicitDefEqProofs [apply_ite Sled.plat]
    · simp -implicitDefEqProofs
    · simp -implicitDefEqProofs
    · simp -implicitDefEqProofs [apply_ite Sled.plat]
    · split <;> simp -implicitDefEqProofs [apply_ite Sled.plat]

@[simp] theorem sendOrHold_plat (l hops tag : Nat) (o : Outst) (s : Sled) :
    (sendOrHold l hops tag o s).plat = s.plat := by
  unfold sendOrHold
  split <;> rfl

@[simp] theorem reroute_plat (tag : Nat) (o : Outst) (s : Sled) : (reroute tag o s).plat = s.plat := by
  simp -implicitDefEqProofs [reroute, apply_ite Sled.plat]

@[simp] theorem linkReturned_plat (m : Msg) (s : Sled) : (linkReturned m s).plat = s.plat := by
  simp only [linkReturned]
  repeat' split
  all_goals simp -implicitDefEqProofs

@[simp] theorem linkUnsent_plat (m : Msg) (s : Sled) : (linkUnsent m s).plat = s.plat := by
  simp only [linkUnsent]
  repeat' split
  all_goals simp -implicitDefEqProofs

@[simp] theorem linkEmpty_plat (l : Nat) (s : Sled) : (linkEmpty l s).plat = s.plat := by
  unfold linkEmpty
  dsimp only
  rw [foldl_proj Sled.plat (fun u m => linkUnsent_plat m u), foldl_proj Sled.plat (fun u m => linkReturned_plat m u),
    updLnk_plat]

@[simp] theorem linkDown_plat (l : Nat) (s : Sled) : (linkDown l s).plat = s.plat := by
  rw [linkDown, linkEmpty_plat, setLink, updLnk_plat, bumpLink, bumpN_plat, logRec_plat]

end Sys2Proof.Machine

/-! Sensors, levels, coolant and the critical shutdown (spec/19, R368-R376, R382, R383; spec/06, R119). A reading changes
its own slot; the shutdown takes the main rails down and falls to watch-only; the end of a round steps the levels and sets
the coolant, and what it logs touches neither. -/

namespace Sys2Proof.Machine

open Sys2Proof

theorem LogsOnly.thm {s t : Sled} (h : LogsOnly s t) : t.thm = s.thm := congrArg (·.thm) h.rest

theorem LogsOnly.railEnable {s t : Sled} (h : LogsOnly s t) : t.kpr.railEnable = s.kpr.railEnable :=
  congrArg (·.kpr.railEnable) h.rest

theorem sensor_congr {s t : Sled} (h : t.thm.sensor = s.thm.sensor) (i : Nat) : sensor t i = sensor s i := by
  rw [sensor, h, sensor]

@[simp] theorem sensor_updSensor_same (i : Nat) (f : Sensor → Sensor) (s : Sled) :
    sensor (updSensor i f s) i = f (sensor s i) := fget_fset_same ..

theorem sensor_updSensor_other {i j : Nat} (h : j ≠ i) (f : Sensor → Sensor) (s : Sled) :
    sensor (updSensor i f s) j = sensor s j := fget_fset_other _ _ _ h

@[simp] theorem sensor_sensorNext (s : Sled) (i : Nat) : sensor (sensorNext s) i = sensor s i := rfl

/-! ## The fall to watch-only of a sled that is powered down -/

theorem logsOnly_vfEvent (t b : Nat) (s : Sled) : LogsOnly s (vfEvent t b s) :=
  .of_coll_eq (by rw [vfEvent_frame]; rfl) (by rw [vfEvent_frame])

/-- Without its main rails no tenant is reset. -/
theorem tenantResetBegin_down {s : Sled} (t : Nat) (b : Bool) (h : s.plat.rails ≠ .up) :
    tenantResetBegin t b s = s := by
  rw [tenantResetBegin, if_pos (by simp [h])]

theorem foldl_tenantResetBegin_down {s : Sled} (h : s.plat.rails ≠ .up) (l : List Nat) :
    l.foldl (fun s t => tenantResetBegin t false s) s = s :=
  List.foldlRecOn (motive := fun u => u = s) l _ rfl fun u hu t _ => by
    rw [hu, tenantResetBegin_down t false h]

/-- With the rails down the fall to watch-only sets the tier, lowers READY and logs, from every tier. -/
theorem logsOnly_watchOnly_down (cause : Nat) {s : Sled} (hrails : s.plat.rails ≠ .up) (hready : s.plat.ready = false) :
    LogsOnly (inWatchOnly s) (watchOnly cause s) := by
  by_cases h1 : s.kpr.tier = 1
  · rw [watchOnly, if_pos h1]
    refine .of_coll_eq ?_ rfl
    rw [withoutLog, withoutLog, inWatchOnly, ← h1, ← hready]
  · have hlog : LogsOnly (inWatchOnly s) (platEvent 2 2 (alertOn (logRec { mkRec 0x9007 0 with arg1 := cause }
        (inWatchOnly (startTrialsFail s))))) :=
      (((logsOnly_startTrialsFail s).congr_inWatchOnly.trans (logsOnly_logRec _ _)).trans
        (logsOnly_alertOn _)).trans (logsOnly_platEvent _ _ _)
    rw [watchOnly, if_neg h1]
    dsimp only
    generalize hu : platEvent 2 2 _ = u
    replace hlog : LogsOnly (inWatchOnly s) u := hu ▸ hlog
    refine .ite ?_ hlog
    have hhost : LogsOnly u
        { u with hst := { u.hst with aer := fset u.hst.aer 0 0 (setBit (fget u.hst.aer 0 0) 3 true) } } :=
      .of_coll_eq rfl rfl
    have hall := (hlog.trans hhost).trans (.foldl (fun s t => logsOnly_vfEvent t 2 s) (List.range 16) _)
    rw [foldl_tenantResetBegin_down]
    · exact hall
    · rw [hall.plat]
      exact hrails

/-! ## The critical shutdown -/

/-- The links in use go down (R383). -/
def linksFall (s : Sled) : Sled :=
  (List.range 16).foldl (fun s l =>
    if linkOn s l && 1 ≤ (getLnk s l).state && (getLnk s l).state ≤ 7 then linkDown l s else s) s

/-- What a critical shutdown sets once the rails are down: its latches, the rail enable, and the pins. -/
def shutDown (s : Sled) : Sled :=
  { s with
    thm := { s.thm with crit := true, critAlert := true, critHold := true }
    kpr := { s.kpr with railEnable := false }
    plat := { s.plat with
      coolant := some 100
      heldPins := s.plat.heldPins.map fun h =>
        { h with faultLow := true, thermLow := true, ledFault := true, coolant := some 100 } } }

theorem linksFall_plat (s : Sled) : (linksFall s).plat = s.plat :=
  foldl_proj Sled.plat (fun u l => by split <;> simp) _ _

theorem critShutdown_fires {s : Sled} (i : Nat) (hcrit : s.thm.crit = false) (hhold : s.thm.critHold = false) :
    critShutdown i s = watchOnly 0x7004 (logRec { mkRec 0x7004 0 with arg1 := i, arg2 := (sensor s i).reading }
      (shutDown (railsDown (linksFall (bump bTHM 0x510 s))))) := by
  unfold critShutdown linksFall shutDown
  exact if_neg (by simp [hcrit, hhold])

/-- A shutdown happens once (R383). -/
theorem critShutdown_once {s : Sled} (i : Nat) (h : s.thm.crit = true ∨ s.thm.critHold = true) : critShutdown i s = s :=
  if_pos h

/-- Rails that go down are not up afterwards. -/
theorem railsDown_not_up (s : Sled) : (railsDown s).plat.rails ≠ .up := by
  obtain ⟨-, -, -, -, -, hplat⟩ := railsDown_facts s
  rw [hplat]
  dsimp only
  split
  · exact Rails.noConfusion
  · next h => exact fun hup => h (.inl hup)

theorem critShutdown_result {s : Sled} (i : Nat) (hcrit : s.thm.crit = false) (hhold : s.thm.critHold = false) :
    (critShutdown i s).thm.crit = true ∧ (critShutdown i s).kpr.railEnable = false ∧
    (critShutdown i s).plat.ready = false ∧ (critShutdown i s).plat.coolant = some 100 ∧
    (critShutdown i s).kpr.tier = 1 ∧
    (s.plat.rails = .up → (critShutdown i s).mem = [] ∧ (critShutdown i s).plat.rails = .falling) := by
  rw [critShutdown_fires i hcrit hhold]
  have hw : (linksFall (bump bTHM 0x510 s)).plat = s.plat := by rw [linksFall_plat, bump_plat]
  generalize linksFall (bump bTHM 0x510 s) = w at hw
  generalize ({ mkRec 0x7004 0 with arg1 := i, arg2 := (sensor s i).reading } : Rec) = r
  obtain ⟨-, -, -, -, -, hplat⟩ := railsDown_facts w
  have hready : (railsDown w).plat.ready = false := by rw [hplat]
  have hlog := logsOnly_logRec r (shutDown (railsDown w))
  have hall : LogsOnly (inWatchOnly (shutDown (railsDown w))) (watchOnly 0x7004 (logRec r (shutDown (railsDown w)))) :=
    hlog.congr_inWatchOnly.trans <| logsOnly_watchOnly_down _
      (by rw [hlog.plat]; exact railsDown_not_up w) (by rw [hlog.plat]; exact hready)
  refine ⟨congrArg Thm.crit hall.thm, hall.railEnable, congrArg Plat.ready hall.plat, congrArg Plat.coolant hall.plat,
    hall.tier, fun hup => ⟨?_, ?_⟩⟩
  · rw [hall.mem]
    exact (railsDown_mem w (.inl (by rw [hw, hup]))).1
  · rw [hall.plat]
    show (railsDown w).plat.rails = .falling
    rw [hplat]
    exact if_pos (.inl (by rw [hw, hup]))

/-! ## Readings -/

section slot

variable {s : Sled} {i : Nat} (haon : aonRuns s = true) (hslot : s.thm.slot = i)

include haon hslot

/-- A slot off the DRAM that is next takes its result. -/
theorem fxSensorSlotRead_result {v : SensorIn} {r : Option Nat} (hdram : dramSlot i = none)
    (hv : slotValue i v = some r) : fxSensorSlotRead i v s = r.elim
      (sensorBreaks i (updSensor i (fun x => { x with stale := false, staleRun := 0 }) (sensorNext s)))
      (fun x => sensorReads i x (sensorNext s)) := by
  rw [fxSensorSlotRead, if_neg (by simp [haon, hslot]), hv]
  cases r <;> simp only [hdram, Option.elim]

/-- A DRAM slot whose dies can be read takes their maximum. -/
theorem fxSensorSlotRead_dies {v : SensorIn} {x : Nat} (h36 : 36 ≤ i) (h72 : i < 72)
    (hruns : islRuns s (iMC ((i - 36) / 4)) = true) (hseen : diesHidden s ((i - 36) / 4) = false)
    (hv : slotValue i v = some (some x)) : fxSensorSlotRead i v s = sensorReads i x (sensorNext s) := by
  have hdram : dramSlot i = some ((i - 36) / 4, (i - 36) % 4) := if_pos ⟨h36, h72⟩
  have hruns' : islRuns (sensorNext s) (iMC ((i - 36) / 4)) = true := hruns
  have hseen' : diesHidden (sensorNext s) ((i - 36) / 4) = false := hseen
  rw [fxSensorSlotRead, if_neg (by simp [haon, hslot]), hv]
  simp only [hdram, hruns', hseen', Bool.not_true, Bool.false_eq_true, if_false]

end slot

theorem dramSlot_low {i : Nat} (h : i < 36) : dramSlot i = none := if_neg (by omega)

theorem setFast_low {i : Nat} (h : i < 36) (on : Bool) (s : Sled) : setFast i on s = s := by
  rw [setFast, dramSlot_low h]

theorem slotValue_conv_low {i : Nat} (h : i < 36) (v : Int) :
    slotValue i (.conv v) = some (if v < -20 ∨ 150 < v then none else some v.toNat) := by
  have htemp : isTemp i = true := by simp [isTemp, show i < 74 by omega]
  rw [slotValue, if_neg (by omega), if_neg (by omega), if_pos htemp]
  split <;> rfl

/-- A valid sensor takes its reading. -/
theorem updSensor_valid {s : Sled} {i : Nat} (hb : (sensor s i).broken = false) (v : Nat) :
    updSensor i (fun x => if x.broken ∧ x.validRun = 0 then { x with validRun := 1, stale := false, staleRun := 0 }
      else { reading := v, broken := false }) s = updSensor i (fun _ => { reading := v }) s := by
  rw [updSensor, hb, if_neg (fun hx => Bool.false_ne_true hx.1), updSensor]

/-- A valid sensor of an engine's slot holds what it read, and shuts the sled down at 112 °C. -/
theorem sensorReads_low {s : Sled} {i : Nat} (h : i < 36) (hb : (sensor s i).broken = false) (v : Nat) :
    sensorReads i v s = if 112 ≤ v then critShutdown i (updSensor i (fun _ => { reading := v }) s)
      else updSensor i (fun _ => { reading := v }) s := by
  have hcrit : critAt i = some 112 := if_pos h
  rw [sensorReads, updSensor_valid hb]
  simp only [setFast_low h, ite_self, hcrit, sensor_updSensor_same, Bool.not_false, Bool.true_and, decide_eq_true_eq]

theorem setFast_rank {i : Nat} (h36 : 36 ≤ i) (h72 : i < 72) (on : Bool) (s : Sled) :
    setFast i on s = updMcs ((i - 36) / 4) (fun m => { m with fast := setBit m.fast ((i - 36) % 4) on }) s := by
  rw [setFast, dramSlot, if_pos ⟨h36, h72⟩]

theorem bitAt_setFast {i : Nat} (h36 : 36 ≤ i) (h72 : i < 72) (on : Bool) (s : Sled) :
    bitAt (fget (setFast i on s).mcs {} ((i - 36) / 4)).fast ((i - 36) % 4) = on := by
  rw [setFast_rank h36 h72, fget_updMcs_same]
  exact bitAt_setBit_same ..

@[simp] theorem setFast_thm (i : Nat) (on : Bool) (s : Sled) : (setFast i on s).thm = s.thm := by
  unfold setFast
  split <;> rfl

/-- The dies of a rank below the critical value set the rank's refresh rate (spec/06, R119). -/
theorem sensorReads_rank {s : Sled} {i : Nat} (h36 : 36 ≤ i) (h72 : i < 72) (hb : (sensor s i).broken = false)
    (hkt3 : kt3 s = false) {v : Nat} (hv : v < 105) :
    sensor (sensorReads i v s) i = { reading := v } ∧
    (85 < v → bitAt (fget (sensorReads i v s).mcs {} ((i - 36) / 4)).fast ((i - 36) % 4) = true) ∧
    (v ≤ 82 → bitAt (fget (sensorReads i v s).mcs {} ((i - 36) / 4)).fast ((i - 36) % 4) = false) ∧
    (82 < v → v ≤ 85 → (sensorReads i v s).mcs = s.mcs) ∧ (sensorReads i v s).mem = s.mem := by
  have hcrit : critAt i = some 105 := by rw [critAt, if_neg (by omega), if_pos h72]
  have hk (f : Sensor → Sensor) : kt3 (updSensor i f s) = false := hkt3
  have hread : sensorReads i v s = if 85 < v then setFast i true (updSensor i (fun _ => { reading := v }) s)
      else if v ≤ 82 then setFast i false (updSensor i (fun _ => { reading := v }) s)
      else updSensor i (fun _ => { reading := v }) s := by
    rw [sensorReads, updSensor_valid hb]
    simp only [hk, Bool.false_eq_true, if_false, hcrit, sensor_updSensor_same, Bool.not_false, and_true,
      decide_eq_false (show ¬ 105 ≤ v by omega), Bool.and_false]
  have hsens (on : Bool) : sensor (setFast i on (updSensor i (fun _ => { reading := v }) s)) i = { reading := v } :=
    (sensor_congr (congrArg Thm.sensor (setFast_thm ..)) i).trans (sensor_updSensor_same ..)
  rw [hread]
  by_cases hhi : 85 < v
  · rw [if_pos hhi]
    exact ⟨hsens true, fun _ => bitAt_setFast h36 h72 .., by omega, by omega, setFast_mem ..⟩
  · rw [if_neg hhi]
    by_cases hlo : v ≤ 82
    · rw [if_pos hlo]
      exact ⟨hsens false, by omega, fun _ => bitAt_setFast h36 h72 .., by omega, setFast_mem ..⟩
    · rw [if_neg hlo]
      exact ⟨sensor_updSensor_same .., by omega, by omega, fun _ _ => rfl, rfl⟩

/-- The largest of four die readings. -/
theorem slotValue_dies {i : Nat} {a b c d : BitVec 7} (h36 : 36 ≤ i) (h72 : i < 72) (ha : a ≠ 127) (hb : b ≠ 127)
    (hc : c ≠ 127) (hd : d ≠ 127) :
    slotValue i (.dies a b c d) = some (some (max (max a.toNat b.toNat) (max c.toNat d.toNat))) := by
  have hne {x : BitVec 7} (h : x ≠ 127) : ¬ 127 = x.toNat := fun h' => h (BitVec.eq_of_toNat_eq h'.symm)
  rw [slotValue, if_pos ⟨h36, h72⟩]
  simp [hne ha, hne hb, hne hc, hne hd, max_assoc]

/-- A slot without a valid reading reads 127, and the transition is logged and counted (R371). -/
theorem sensorBreaks_first {s : Sled} {i : Nat} (h : i < 36) (hb : (sensor s i).broken = false) :
    (sensor (sensorBreaks i s) i).reading = 127 ∧ (sensor (sensorBreaks i s) i).broken = true ∧
    (∀ j, j ≠ i → sensor (sensorBreaks i s) j = sensor s j) ∧ (sensorBreaks i s).thm.slot = s.thm.slot ∧
    (sensorBreaks i s).mem = s.mem := by
  have hbreak : sensorBreaks i s = bump bTHM 0x500 (logRec (mkRec 0x7001 0)
      (updSensor i (fun x => { x with reading := 127, broken := true, validRun := 0 }) s)) := by
    unfold sensorBreaks
    simp only [hb, setFast_low h, Bool.false_eq_true, if_false]
  rw [hbreak]
  have hlog := (logsOnly_logRec (mkRec 0x7001 0)
    (updSensor i (fun x => { x with reading := 127, broken := true, validRun := 0 }) s)).trans (logsOnly_bump bTHM 0x500 _)
  have hsens := sensor_congr (congrArg Thm.sensor hlog.thm)
  simp only [hsens, hlog.thm, hlog.mem, sensor_updSensor_same, true_and]
  exact ⟨fun j hj => sensor_updSensor_other hj .., rfl, rfl⟩

/-- Three outcomes of an engine slot's reading: taken, broken, and critical. -/
theorem fxSensorSlotRead_low {s : Sled} {i : Nat} {v : Int} (haon : aonRuns s = true) (hslot : s.thm.slot = i)
    (h : i < 36) (hb : (sensor s i).broken = false) :
    (-20 ≤ v → v < 112 → fxSensorSlotRead i (.conv v) s = updSensor i (fun _ => { reading := v.toNat }) (sensorNext s)) ∧
    ((v < -20 ∨ 150 < v) → fxSensorSlotRead i (.conv v) s =
      sensorBreaks i (updSensor i (fun x => { x with stale := false, staleRun := 0 }) (sensorNext s))) ∧
    (112 ≤ v → v ≤ 150 → fxSensorSlotRead i (.conv v) s =
      critShutdown i (updSensor i (fun _ => { reading := v.toNat }) (sensorNext s))) := by
  have hread := fxSensorSlotRead_result haon hslot (dramSlot_low h) (slotValue_conv_low h v)
  have hb' : (sensor (sensorNext s) i).broken = false := hb
  refine ⟨fun hlo hhi => ?_, fun hout => ?_, fun hlo hhi => ?_⟩
  · rw [if_neg (by omega), Option.elim_some, sensorReads_low h hb', if_neg (by omega)] at hread
    exact hread
  · rw [if_pos hout, Option.elim_none] at hread
    exact hread
  · rw [if_neg (by omega), Option.elim_some, sensorReads_low h hb', if_pos (by omega)] at hread
    exact hread

/-! ## The end of a round -/

/-- Every reading of a slot depends on its sensor and on `THM_LIMIT` alone. -/
theorem hotSlot_congr {s t : Sled} (hs : t.thm.sensor = s.thm.sensor) (hl : rGet t bTHM 0x400 = rGet s bTHM 0x400)
    (i : Nat) : hotSlot t i = hotSlot s i := by
  have hthr : throttleAt t i = throttleAt s i := by simp only [throttleAt, rField, hl]
  rw [hotSlot, hthr, sensor_congr hs, hotSlot]

theorem coolantDuty_congr {s t : Sled} (hc : t.thm.crit = s.thm.crit) (hs : t.thm.sensor = s.thm.sensor)
    (hl : rGet t bTHM 0x400 = rGet s bTHM 0x400) : coolantDuty t = coolantDuty s := by
  have hhot : hotSlot t = hotSlot s := funext (hotSlot_congr hs hl)
  have hsens : sensor t = sensor s := funext (sensor_congr hs)
  rw [coolantDuty, hc, hhot, hsens, coolantDuty]

/-- A fold of steps that each keep a register keeps it. -/
theorem rGet_foldl {α : Type} {f : Sled → α → Sled} {blk off : Nat}
    (h : ∀ s x, rGet (f s x) blk off = rGet s blk off) (l : List α) (s : Sled) :
    rGet (l.foldl f s) blk off = rGet s blk off :=
  foldl_proj (fun u => rGet u blk off) h l s

theorem rGet_logRec_limit (code island : Nat) (s : Sled) :
    rGet (logRec (mkRec code island) s) bTHM 0x400 = rGet s bTHM 0x400 :=
  rGet_logRec (fun _ h => (Option.some_ne_none _ h.symm).elim) (by decide) (by decide) (by decide) s

theorem rGet_bump_limit (s : Sled) : rGet (bump bTHM 0x508 s) bTHM 0x400 = rGet s bTHM 0x400 :=
  rGet_rSet_ne _ _ (by decide) (by decide) (by decide)

theorem rGet_withLevels_limit (f : Sled → Sled) (s : Sled) :
    rGet (withLevels f s) bTHM 0x400 = rGet (f s) bTHM 0x400 := by
  rw [withLevels]
  refine (rGet_foldl (fun u st => ?_) _ _).trans (rGet_foldl (fun u j => ?_) _ _)
  · split
    · exact rGet_logRec_limit ..
    · rfl
  · split
    · exact (rGet_bump_limit _).trans (rGet_logRec_limit ..)
    · rfl

/-- The coolant conditions that hold, with the rounds of low flow that count for one of them. -/
def coolJudged (s : Sled) : Thm :=
  { s.thm with
    lowFlow := min 2 (if (sensor s 74).reading < 15 then s.thm.lowFlow + 1 else 0)
    cool := coolConds s (if (sensor s 74).reading < 15 then s.thm.lowFlow + 1 else 0) }

theorem rGet_coolRound_limit (s : Sled) : rGet (coolRound s) bTHM 0x400 = rGet s bTHM 0x400 := by
  rw [coolRound]
  refine rGet_foldl (fun u k => ?_) _ _
  by_cases hk : (bitAt (coolJudged s).cool k && !bitAt s.thm.cool k) = true
  · exact (congrArg (rGet · bTHM 0x400) (if_pos hk)).trans (rGet_logRec_limit ..)
  · exact congrArg (rGet · bTHM 0x400) (if_neg hk)

theorem logsOnly_coolRound (s : Sled) : LogsOnly { s with thm := coolJudged s } (coolRound s) :=
  .foldl (fun _ _ => .ite (logsOnly_logRec _ _) (.refl _)) _ _

/-- The slots that stand above a threshold are noted and reported. -/
theorem logsOnly_crossings (s : Sled) :
    ∃ w f, LogsOnly { s with thm := { s.thm with warn := w, fatal := f } } (crossings s) :=
  ⟨_, _, .foldl (fun _ _ => .ite (logsOnly_platEvent _ _ _) (.refl _)) _ _⟩

/-- A round that has ended, before the keeper's part (R368, R383). -/
def roundOver (s : Sled) : Sled :=
  { s with thm := { s.thm with
    slot := 0, round := s.thm.round + 1, firstRound := true
    critAlert := s.thm.critAlert && (List.range 100).any (hotSlot s) } }

theorem fxHousekeepingRoundEnd_runs {s : Sled} (haon : aonRuns s = true) (hslot : s.thm.slot = 100)
    (hrun : s.kpr.phase = .running) :
    fxHousekeepingRoundEnd s = crossings { coolRound (withLevels stepLevels (roundOver s)) with
      plat := { (coolRound (withLevels stepLevels (roundOver s))).plat with
        coolant := some (coolantDuty (coolRound (withLevels stepLevels (roundOver s)))) } } := by
  have hdue : ¬ ((!aonRuns s) = true ∨ s.thm.slot ≠ 100) := by simp [haon, hslot]
  rw [fxHousekeepingRoundEnd, if_neg hdue]
  exact if_neg (not_not.mpr hrun)

/-- What a round's end leaves of the sensors, the power step and the memory, and the coolant it sets. -/
theorem fxHousekeepingRoundEnd_result {s : Sled} (haon : aonRuns s = true) (hslot : s.thm.slot = 100)
    (hrun : s.kpr.phase = .running) :
    (fxHousekeepingRoundEnd s).thm.slot = 0 ∧ (fxHousekeepingRoundEnd s).thm.round = s.thm.round + 1 ∧
    (fxHousekeepingRoundEnd s).thm.sensor = s.thm.sensor ∧
    (fxHousekeepingRoundEnd s).plat.coolant = some (coolantDuty s) ∧ (fxHousekeepingRoundEnd s).mem = s.mem ∧
    (fxHousekeepingRoundEnd s).thm.step = s.thm.step := by
  rw [fxHousekeepingRoundEnd_runs haon hslot hrun]
  have hlev := logsOnly_withLevels stepLevels (roundOver s)
  have hlim : rGet (withLevels stepLevels (roundOver s)) bTHM 0x400 = rGet s bTHM 0x400 := rGet_withLevels_limit _ _
  generalize withLevels stepLevels (roundOver s) = w at hlev hlim
  have hcool := logsOnly_coolRound w
  have hlim' := (rGet_coolRound_limit w).trans hlim
  generalize coolRound w = c at hcool hlim'
  have hthm : c.thm = coolJudged w := hcool.thm
  have hduty : coolantDuty c = coolantDuty s :=
    coolantDuty_congr (by rw [hthm, coolJudged, hlev.thm]; rfl) (by rw [hthm, coolJudged, hlev.thm]; rfl) hlim'
  obtain ⟨warn, fatal, hcross⟩ :=
    logsOnly_crossings { c with plat := { c.plat with coolant := some (coolantDuty c) } }
  rw [hcross.thm, hcross.plat, hcross.mem, hduty]
  dsimp only
  rw [hthm, coolJudged, hlev.thm, hcool.mem]
  exact ⟨rfl, rfl, rfl, rfl, hlev.mem, rfl⟩

/-! ## THM_LIMIT -/

theorem regAccess_thm {a : Agent} {s : Sled} (hact : canAct s a = true) (hreach : blkReach a bTHM = true)
    (hrun : islRuns s 0 = true) (off : Nat) (f : Sled → Sled) : regAccess a bTHM off f s = f s := by
  have hopen : regOpen s bTHM off = true := by simp [regOpen, blkIsland, bTHM, bGLB, bISL, hrun]
  have hheld : crossHeld s bTHM = false := rfl
  simp [regAccess, hact, hreach, hopen, hheld]

/-- The three bytes that `THM_LIMIT` takes. -/
theorem rField_thmLimit {s : Sled} {v : Nat} (hv : v < 2 ^ 24) (hlock : lockedReg s bTHM 0x400 = false) :
    rField (thmLimit v s) bTHM 0x400 0 8 = max 80 (min 100 (v % 256)) ∧
    rField (thmLimit v s) bTHM 0x400 8 8 = max 76 (min 96 (v / 256 % 256)) ∧
    rField (thmLimit v s) bTHM 0x400 16 8 = max 90 (min 110 (v / 65536)) := by
  have hx : limitVal 100 (bitsOf v 0 8) = max 80 (min 100 (v % 256)) := by simp [limitVal, bitsOf]
  have hy : limitVal 96 (bitsOf v 8 8) = max 76 (min 96 (v / 256 % 256)) := rfl
  have hz : limitVal 110 (bitsOf v 16 8) = max 90 (min 110 (v / 65536)) := by
    have : bitsOf v 16 8 = v / 65536 := Nat.mod_eq_of_lt (by omega)
    rw [limitVal, this]
  rw [thmLimit, hlock, if_neg Bool.false_ne_true, hx, hy, hz]
  simp only [rField, rGet_rSet_same, bitsOf]
  omega

/-- Settles O52: a reading takes its slot, a critical one ends in the shutdown, a round's end steps and sets. -/
theorem sensorsSetLevelsCoolantAndShutdown : Obligations.SensorsSetLevelsCoolantAndShutdown := by
  unfold Obligations.SensorsSetLevelsCoolantAndShutdown
  refine ⟨?reading, ?dies, ?comparator, ?once, ?roundEnd, ?steps, ?limit⟩
  case reading =>
    intro s i v haon hslot h36 hb
    obtain ⟨htaken, hbroken, hcritical⟩ := fxSensorSlotRead_low (v := v) haon hslot h36 hb
    refine ⟨fun hlo hhi => ?_, fun hout => ?_, fun hlo hhi hcrit hhold => ?_⟩
    · refine ⟨_, lift_next (f := fxSensorSlotRead i (.conv v)) (htaken hlo hhi), rfl, sensor_updSensor_same .., fun j hj => ?_, ?_⟩
      · exact sensor_updSensor_other hj ..
      · rw [← hslot]
        rfl
    · obtain ⟨hreading, hbroke, hother, hnext, hmem⟩ := sensorBreaks_first
        (s := updSensor i (fun x => { x with stale := false, staleRun := 0 }) (sensorNext s.sled)) h36
        (by rw [sensor_updSensor_same]; exact hb)
      refine ⟨_, lift_next (f := fxSensorSlotRead i (.conv v)) (hbroken hout), rfl, hreading, hbroke, fun j hj => ?_, ?_, hmem⟩
      · exact (hother j hj).trans (sensor_updSensor_other hj ..)
      · exact hnext.trans (congrArg (· + 1) hslot)
    · obtain ⟨hc, -, hready, -⟩ := critShutdown_result (s := updSensor i (fun _ => { reading := v.toNat }) (sensorNext s.sled))
        i hcrit hhold
      exact ⟨_, lift_next (f := fxSensorSlotRead i (.conv v)) (hcritical hlo hhi), hc, hready⟩
  case dies =>
    intro s i a b c d m haon hslot h36 h72 hruns hseen hb ha hb' hc hd hm hlt hkt3
    have hread := fxSensorSlotRead_dies haon hslot h36 h72 hruns hseen
      ((slotValue_dies h36 h72 ha hb' hc hd).trans (congrArg (some ∘ some) hm.symm))
    obtain ⟨hsens, hfast, hslow, hkeep, hmem⟩ := sensorReads_rank (s := sensorNext s.sled) h36 h72 hb hkt3 hlt
    exact ⟨_, lift_next (f := fxSensorSlotRead i (.dies a b c d)) hread, rfl, hsens, hfast, hslow, hkeep, hmem⟩
  case comparator =>
    intro s i haon hcrit hhold
    obtain ⟨hc, hrail, hready, hcool, htier, hdown⟩ := critShutdown_result (s := s.sled) i hcrit hhold
    exact ⟨_, lift_next (f := fxCriticalComparator i) (if_pos haon), rfl, hc, hrail, hready, hcool, htier, hdown⟩
  case once =>
    intro s i h
    refine lift_next (f := fxCriticalComparator i) (u := s.sled) ?_
    rw [fxCriticalComparator, critShutdown_once _ h, ite_self]
  case roundEnd =>
    intro s haon hslot hrun
    obtain ⟨hs, hr, hsens, hcool, hmem, hstep⟩ := fxHousekeepingRoundEnd_result haon hslot hrun
    exact ⟨_, lift_next (f := fxHousekeepingRoundEnd) rfl, rfl, hs, hr, hsens,
      fun j hj => fget_eng_fxHousekeepingRoundEnd haon hslot hrun hj,
      fun st hst => fget_pause_fxHousekeepingRoundEnd haon hslot hrun hst, hcool, hmem, hstep⟩
  case steps =>
    intro s l n _
    refine ⟨fun h => ?_, fun h => ?_⟩
    · rw [stepLevel, if_pos (List.any_eq_true.mpr h)]
    · have hany : ¬ l.any (hotSlot s) = true := fun hany =>
        have ⟨i, hi, hhot⟩ := List.any_eq_true.mp hany
        Bool.false_ne_true ((h i hi).1.symm.trans hhot)
      rw [stepLevel, if_neg hany, if_pos (List.all_eq_true.mpr fun i hi => (h i hi).2)]
  case limit =>
    intro s a v hact hreach hrun hlock
    obtain ⟨hx, hy, hz⟩ := rField_thmLimit v.isLt hlock
    refine ⟨_, lift_next (f := fxThmLimitWrite a v.toNat) (regAccess_thm hact hreach hrun _ _), hx, hy, hz, ?_⟩
    rw [thmLimit, hlock]
    rfl

end Sys2Proof.Machine

/-! Power (spec/19, R376, R378, R380, R381; spec/02, R43). A change of the power step only logs besides; a range change
touches nothing but its own sequence, the range and the shown demand. -/

namespace Sys2Proof.Machine

open Sys2Proof

theorem LogsOnly.isl {s t : Sled} (h : LogsOnly s t) : t.isl = s.isl := congrArg (·.isl) h.rest

/-! ## Samples and the power step -/

/-- A power step is set, and what it makes pause is logged. -/
theorem logsOnly_setStep (n : Nat) (s : Sled) :
    LogsOnly { s with thm := { s.thm with step := n } } (setStep n s) :=
  have hlev := logsOnly_withLevels (fun s => { s with thm := { s.thm with step := n } }) s
  .ite (hlev.trans (logsOnly_logRec _ _)) hlev

/-- A sample is put before the ones held, of which the newest 100 stay (R380). -/
def sampled (w : Nat) (s : Sled) : Sled := { s with thm := { s.thm with samples := (w :: s.thm.samples).take 100 } }

theorem fxPowerSample_few {s : Sled} {w : Nat} (haon : aonRuns s = true) (h : s.thm.samples.length < 9) :
    fxPowerSample w s = { s with thm := { s.thm with samples := w :: s.thm.samples } } := by
  have hall : (w :: s.thm.samples).take 100 = w :: s.thm.samples :=
    List.take_of_length_le (by rw [List.length_cons]; omega)
  have hten : ((w :: s.thm.samples).take 10).length ≠ 10 := by
    rw [List.length_take, List.length_cons]
    omega
  rw [fxPowerSample, if_neg (by simp [haon])]
  dsimp only
  rw [hall, if_neg fun h => hten h.1]

theorem fxPowerSample_over {s : Sled} {w : Nat} (haon : aonRuns s = true) (h : 9 ≤ s.thm.samples.length)
    (hsum : 18000 < (w :: s.thm.samples.take 9).foldl (· + ·) 0) :
    fxPowerSample w s = setStep 16 (sampled w s) := by
  have hten : ((w :: s.thm.samples).take 100).take 10 = w :: s.thm.samples.take 9 := by
    rw [List.take_take]
    rfl
  have hlen : (w :: s.thm.samples.take 9).length = 10 := by
    rw [List.length_cons, List.length_take]
    omega
  rw [fxPowerSample, if_neg (by simp [haon])]
  dsimp only
  rw [hten, if_pos ⟨hlen, hsum⟩, sampled]

/-! ## The range change -/

/-- Whether the range is to change is noted in the sequence alone. -/
theorem rangeCheck_frame (s : Sled) :
    rangeCheck s = { s with plat := { s.plat with rangeSeq := (rangeCheck s).plat.rangeSeq } } := by
  unfold rangeCheck
  split
  · split
    · rfl
    · split <;> rfl
  · rfl

@[simp] theorem rangeCheck_demand (s : Sled) : (rangeCheck s).plat.demand = s.plat.demand := by rw [rangeCheck_frame]

@[simp] theorem rangeCheck_thm (s : Sled) : (rangeCheck s).thm = s.thm := by rw [rangeCheck_frame]

/-! ## The loop -/

/-- What the pins show of a new average: a range change keeps it for its end (R43). -/
def shownDemand (p : Nat) (a : Plat) : Plat :=
  match a.demand, a.rangeSeq with
  | some _, some q => { a with rangeSeq := some { q with newest := p } }
  | some _, none => { a with demand := some p }
  | none, _ => a

theorem shownDemand_idle {p : Nat} {a : Plat} (h : a.rangeSeq = none) (hd : a.demand.isSome = true) :
    (shownDemand p a).demand = some p := by
  obtain ⟨d, hd⟩ := Option.isSome_iff_exists.mp hd
  simp only [shownDemand, hd, h]

theorem shownDemand_changing {p : Nat} {a : Plat} (h : a.rangeSeq.isSome = true) :
    (shownDemand p a).demand = a.demand := by
  obtain ⟨q, hq⟩ := Option.isSome_iff_exists.mp h
  cases hd : a.demand <;> simp only [shownDemand, hd, hq]

/-- A loop period averages, moves the step and shows the demand. -/
theorem fxPowerLoopTick_runs {s : Sled} (haon : aonRuns s = true) (hrun : s.kpr.phase = .running)
    (hne : s.thm.samples ≠ []) : ∃ t : Sled, t = setStep (nextStep16 s (mean s.thm.samples)).1
        { s with thm := { s.thm with
          pavg := mean s.thm.samples, rises := (nextStep16 s (mean s.thm.samples)).2 } } ∧
      fxPowerLoopTick s = rangeCheck { t with plat := shownDemand (mean s.thm.samples) t.plat } := by
  have hp : (if s.thm.samples.isEmpty then 0 else mean s.thm.samples) = mean s.thm.samples :=
    if_neg (by simpa using hne)
  refine ⟨_, rfl, ?_⟩
  rw [fxPowerLoopTick, if_neg (by simp [haon, hrun])]
  dsimp only
  rw [hp]
  rfl

theorem fxPowerLoopTick_result {s : Sled} (haon : aonRuns s = true) (hrun : s.kpr.phase = .running)
    (hne : s.thm.samples ≠ []) {p : Nat} (hp : p = mean s.thm.samples) :
    (fxPowerLoopTick s).thm.pavg = p ∧ (fxPowerLoopTick s).thm.step = (nextStep16 s p).1 ∧
    (fxPowerLoopTick s).thm.rises = (nextStep16 s p).2 ∧ (fxPowerLoopTick s).thm.samples = s.thm.samples ∧
    (fxPowerLoopTick s).mem = s.mem ∧
    (s.plat.rangeSeq = none → s.plat.demand.isSome = true → (fxPowerLoopTick s).plat.demand = some p) ∧
    (s.plat.rangeSeq.isSome = true → (fxPowerLoopTick s).plat.demand = s.plat.demand) := by
  subst hp
  obtain ⟨t, ht, htick⟩ := fxPowerLoopTick_runs haon hrun hne
  have hlog := logsOnly_setStep (nextStep16 s (mean s.thm.samples)).1
    { s with thm := { s.thm with pavg := mean s.thm.samples, rises := (nextStep16 s (mean s.thm.samples)).2 } }
  rw [← ht] at hlog
  rw [htick, rangeCheck_thm, rangeCheck_mem, rangeCheck_demand]
  dsimp only
  rw [hlog.thm, hlog.mem, hlog.plat]
  exact ⟨rfl, rfl, rfl, rfl, rfl, shownDemand_idle, shownDemand_changing⟩

section step

variable {s : Sled} {p : Nat} (hprof : s.prof.isSome = true)

include hprof

/-- Above the cap the step rises by one in the first ten periods (R378). -/
theorem nextStep16_rises (hcap : capOf s < p) (hrises : s.thm.rises < 10) :
    nextStep16 s p = (min 16 (s.thm.step + 1), s.thm.rises + 1) := by
  simp only [nextStep16, Option.not_isSome_iff_eq_none.not.mp (not_not.mpr hprof), Option.isNone_iff_eq_none, if_false]
  rw [if_pos (by simp [hcap]), if_neg (by omega)]

/-- Between 95 % of the cap and the cap, with no condition of heat, the step stays. -/
theorem nextStep16_holds (hcap : p ≤ capOf s) (hlow : 95 * capOf s ≤ 100 * p)
    (hhot : loopSlots.any (hotSlot s) = false) (hcool : s.thm.cool = 0) : nextStep16 s p = (s.thm.step, 0) := by
  simp only [nextStep16, Option.not_isSome_iff_eq_none.not.mp (not_not.mpr hprof), Option.isNone_iff_eq_none, if_false]
  rw [if_neg (by simp [hcap, hhot, hcool]), if_neg (by simp [hlow])]

end step

/-- Settles O54: samples, the loop's step and demand, the range change, and a pause period. -/
theorem powerLoopSetsStepDemandAndPauses : Obligations.PowerLoopSetsStepDemandAndPauses := by
  unfold Obligations.PowerLoopSetsStepDemandAndPauses
  refine ⟨?sample, ?tick, ?step, ?range, ?pause⟩
  case sample =>
    intro s w haon
    refine ⟨fun h => ⟨_, lift_next (f := fxPowerSample w.toNat) (fxPowerSample_few haon h), rfl⟩, fun h hsum => ?_⟩
    have hlog := logsOnly_setStep 16 (sampled w.toNat s.sled)
    exact ⟨_, lift_next (f := fxPowerSample w.toNat) (fxPowerSample_over haon h hsum), rfl,
      congrArg Thm.step hlog.thm, congrArg Thm.samples hlog.thm, hlog.mem, hlog.plat, hlog.isl⟩
  case tick =>
    intro s p haon hrun hne hp
    exact ⟨_, lift_next (f := fxPowerLoopTick) rfl, rfl, fxPowerLoopTick_result haon hrun hne hp⟩
  case step =>
    intro s p hprof
    exact ⟨nextStep16_rises hprof, nextStep16_holds hprof⟩
  case range =>
    intro s q hq hrun
    refine ⟨fun hsw => lift_next (f := fxPwrRangeStep) ?_, fun hsw => ?_⟩
    · simp only [fxPwrRangeStep, hq]
      rw [if_neg (by simp [hsw, hrun])]
    · refine ⟨_, lift_next (f := fxPwrRangeResume) (u := rangeCheck { s.sled with plat := { s.sled.plat with
        demand := some q.newest, rangeSeq := none } }) ?_, rfl, rangeCheck_demand _, ?_, ?_⟩
      · simp only [fxPwrRangeResume, hq]
        rw [if_neg (by simp [hsw, hrun])]
      · dsimp only
        rw [rangeCheck_frame]
      · exact rangeCheck_frame _
  case pause =>
    intro s st c hst
    exact lift_next (f := fxPausePeriodStart st c) (if_neg (by simp [hst]))

end Sys2Proof.Machine

/-! The keeper's own events, MCTP control and SPDM (spec/20, R386, R388, R389, R393, R395, R399). Every message protocol
has one rule for a request it serves and one for a request it refuses; a record of two copies reads as last written. -/

namespace Sys2Proof

/-- A record reads as it was last written (spec/20, R387). -/
@[simp] theorem TwoCopy.cur_write {α : Type} (v : α) (t : TwoCopy α) : (t.write v).cur = some v := by
  obtain ⟨a, b⟩ := t
  cases a with
  | none => cases b <;> simp [TwoCopy.write, TwoCopy.cur]
  | some x =>
    cases b with
    | none => simp [TwoCopy.write, TwoCopy.cur]
    | some y => by_cases h : x.1 < y.1 <;> simp [TwoCopy.write, TwoCopy.cur, h]

end Sys2Proof

namespace Sys2Proof.Machine

open Sys2Proof

/-! ## Flash operations (R388, R397) -/

/-- An entry of the event log goes before every piece of an update. -/
theorem nextOp_of_logEntry {l : List FlashOp} {n : Nat} {r : Rec} (h : FlashOp.logEntry n r ∈ l) :
    ∃ m q k, nextOp l = some (.logEntry m q, k) := by
  induction l with
  | nil => nomatch h
  | cons o l ih =>
    cases o with
    | logEntry m q => exact ⟨m, q, l, rfl⟩
    | updatePiece c b =>
      obtain ⟨m, q, k, hk⟩ := ih (List.mem_of_ne_of_mem FlashOp.noConfusion h)
      exact ⟨m, q, .updatePiece c b :: k, by rw [nextOp, hk]⟩

theorem logPut_plat (e : LogEnt) (s : Sled) : (logPut e s).plat = s.plat := by
  unfold logPut
  dsimp only
  split
  · exact logRec_plat ..
  · rfl

theorem fxFlashOperationDone_logEntry {s : Sled} {n : Nat} {r : Rec} {l : List FlashOp} (hrun : s.kpr.phase = .running)
    (hq : s.plat.quiesce = .none) (hop : nextOp s.kpr.ops = some (.logEntry n r, l)) :
    fxFlashOperationDone s = logWrite n r { s with kpr := { s.kpr with ops := l } } := by
  have hplat : (logWrite n r { s with kpr := { s.kpr with ops := l } }).plat = s.plat := logPut_plat ..
  rw [fxFlashOperationDone, if_neg (by simp [hrun])]
  simp only [hop]
  exact quiescePower_of_ne (by rw [hplat, hq]; exact Quiesce.noConfusion)

/-! ## Trials and restart (R386, R399) -/

theorem trials_setTrials (m : FMap Nat) (s : Sled) : trials (setTrials m s) = m := by
  rw [trials, setTrials, TwoCopy.cur_write]
  rfl

/-- A keeper image that has run for 10 s is committed: its trial ends, and its floor rises to it. -/
theorem keeperTrial_committed {s : Sled} (sec : Nat) (hon : ffind (trials s) 1 = some s.kpr.slot) :
    ffind (trials (trialCommit 1 s.kpr.slot sec s)) 1 = none ∧
    floorOf (trialCommit 1 s.kpr.slot sec s) 0 = max (floorOf s 0) sec ∧
    floorOf (trialCommit 1 s.kpr.slot sec s) 1 = floorOf s 1 ∧
    trialCommit 1 s.kpr.slot sec s = { s with fl := { s.fl with
      trial := (trialCommit 1 s.kpr.slot sec s).fl.trial, floors := (trialCommit 1 s.kpr.slot sec s).fl.floors } } := by
  have htrial : onTrial s 1 s.kpr.slot = true := decide_eq_true hon
  have hcommit : trialCommit 1 s.kpr.slot sec s = { setTrials (ferase (ferase (trials s) 1) 0x1001) s with
      fl := { (setTrials (ferase (ferase (trials s) 1) 0x1001) s).fl with
        floors := s.fl.floors.write [max (floorOf s 0) sec, floorOf s 1, floorOf s 2] } } := by
    rw [trialCommit, htrial]
    rfl
  rw [hcommit]
  refine ⟨?_, ?_, ?_, rfl⟩
  · show ffind (trials (setTrials (ferase (ferase (trials s) 1) 0x1001) s)) 1 = none
    rw [trials_setTrials, ffind_ferase, if_neg (by decide), ffind_ferase, if_pos rfl]
  · rw [floorOf, TwoCopy.cur_write]
    rfl
  · rw [floorOf, TwoCopy.cur_write]
    rfl

theorem fxKeeperTrialCommit_due {s : Sled} {i : FwImage} (hrun : s.kpr.phase = .running)
    (himg : ffind s.fl.keeper (keeperAt s.kpr.slot) = some i) (hdue : s.kpr.startedAt + 10000 * ms ≤ s.now) :
    fxKeeperTrialCommit s = trialCommit 1 s.kpr.slot i.secVersion s := by
  rw [fxKeeperTrialCommit, if_neg (by simp [hrun, hdue]), himg]
  rfl

/-- A quiesce that begins changes the platform's state and logs. -/
theorem logsOnly_quiesceBegin (s : Sled) : ∃ a, LogsOnly { s with plat := a } (quiesceBegin s) := by
  unfold quiesceBegin
  split
  · exact ⟨s.plat, .refl s⟩
  · exact ⟨_, ((logsOnly_alertOn _).trans (.foldl (fun s t => logsOnly_vfEvent t 1 s) _ _)).trans (logsOnly_platEvent ..)⟩

theorem quiesceBegin_kpr_phase (s : Sled) :
    (quiesceBegin s).kpr.phase = s.kpr.phase ∧ (quiesceBegin s).kpr.slot = s.kpr.slot := by
  obtain ⟨a, hlog⟩ := logsOnly_quiesceBegin s
  exact ⟨congrArg (·.kpr.phase) hlog.rest, congrArg (·.kpr.slot) hlog.rest⟩

/-- The image of a slot runs. -/
theorem keeperRuns_phase (k : Nat) (s : Sled) :
    (keeperRuns k s).kpr.phase = .running ∧ (keeperRuns k s).kpr.slot = k := by
  rw [keeperRuns]
  obtain ⟨hphase, hslot⟩ := quiesceBegin_kpr_phase (s := _)
  rw [hphase, hslot]
  split
  · exact ⟨congrArg (·.kpr.phase) (logsOnly_logRec ..).rest, congrArg (·.kpr.slot) (logsOnly_logRec ..).rest⟩
  · exact ⟨rfl, rfl⟩

theorem fxKeeperRestartComplete_runs {s : Sled} {k : Nat} (hre : s.kpr.phase = .restarting)
    (hcool : s.plat.coolant.isSome = true) (hslot : keeperSlot (keeperTrial s) = some k) :
    fxKeeperRestartComplete s = keeperRuns k { keeperTrial s with kpr := { (keeperTrial s).kpr with
      hb := (keeperTrial s).kpr.hb.map fun (h : Nat × Hb) => (h.1, { h.2 with since := (keeperTrial s).now }) } } := by
  rw [fxKeeperRestartComplete, if_neg (not_not.mpr hre), if_neg (by simp [Option.isSome_iff_ne_none.mp hcool])]
  simp only [hslot]

/-! ## MCTP control messages (R389) -/

section requests

variable {s u : Sled} {x : Transport} (hasked : asked s x)

include hasked

/-- A control message that comes over SMBus or I3C is answered on its transport. -/
theorem mctp_answered {cmd code : Nat} {body : List Byte} {f : Sled → (Nat × List Byte) × Sled} (hport : x.port ≠ .doe)
    (hf : f s = ((code, body), u)) : mctp x cmd f s = emit (.resp x 0 cmd code body) u := by
  rw [mctp, if_neg (by simp [hasked.2, hport]), hf]
  rfl

/-! ## SPDM (R395) -/

theorem spdm_served {cmd : Nat} {body : List Byte} {f : Sled → Option (List Byte × Sled)} (hf : f s = some (body, u)) :
    spdm x cmd f s = emit (.resp x 5 cmd 0 body) u := by
  rw [spdm, if_neg (by simp [hasked.2, hasked.1]), hf]
  rfl

theorem spdm_refused {cmd : Nat} {f : Sled → Option (List Byte × Sled)} (hf : f s = none) :
    spdm x cmd f s = emit (.resp x 5 cmd 1 []) (logRec (mkRec 0xA004 0) s) := by
  rw [spdm, if_neg (by simp [hasked.2, hasked.1]), hf]
  rfl

end requests

/-- The requests of an SPDM session that has agreed on its algorithms. -/
theorem spdm_agreed {s : State} {x : Transport} (hasked : asked s.sled x) (h : s.sled.kpr.mgmt.spdm = 3) :
    exec (.getDigests x) s = .next { s with sled := emit (.resp x 5 0x81 0 (Config.protocolBody 0x881)) s.sled } ∧
    (∀ o l : BitVec 16, exec (.getCertificate x 0 o l) s = .next { s with
      sled := emit (.resp x 5 0x82 0 (((Config.protocolBody 0x882).drop o.toNat).take l.toNat)) s.sled }) ∧
    (∀ c : BitVec 256, exec (.challenge x 0 c) s = .next { s with
      sled := emit (.resp x 5 0x83 0 (signed (leBytes 32 c.toNat ++ Config.protocolBody 0x881))) s.sled }) ∧
    (∀ (i : BitVec 8) (c : BitVec 256), 1 ≤ i.toNat → i.toNat ≤ 6 →
      exec (.getMeasurements x i c) s = .next { s with
        sled := emit (.resp x 5 0xE0 0 (measurement s.sled i.toNat ++
          signed (leBytes 32 c.toNat ++ measurement s.sled i.toNat))) s.sled }) ∧
    (∀ (i : BitVec 8) (c : BitVec 256), 6 < i.toNat → i ≠ 0xFF →
      exec (.getMeasurements x i c) s = .next { s with
        sled := emit (.resp x 5 0xE0 1 []) (logRec (mkRec 0xA004 0) s.sled) }) := by
  refine ⟨?_, fun o l => ?_, fun c => ?_, fun i c h1 h6 => ?_, fun i c h6 hff => ?_⟩
  · exact lift_next (f := fxGetDigests x) (spdm_served hasked (if_pos h))
  · exact lift_next (f := fxGetCertificate x 0 o.toNat l.toNat) (spdm_served hasked (if_pos ⟨h, rfl⟩))
  · exact lift_next (f := fxChallenge x 0 c.toNat) (spdm_served hasked (if_pos ⟨h, rfl⟩))
  · refine lift_next (f := fxGetMeasurements x i.toNat c.toNat) (spdm_served hasked ?_)
    rw [if_neg (by omega)]
    dsimp only
    rw [if_neg (by omega), if_neg (by omega)]
  · have hall : i.toNat ≠ 0xFF := fun h => hff (BitVec.eq_of_toNat_eq h)
    exact lift_next (f := fxGetMeasurements x i.toNat c.toNat) (spdm_refused hasked (if_pos (.inr ⟨h6, hall⟩)))

/-- Settles O56: the keeper's events by their conditions, the messages by the two rules of their protocol. -/
theorem keeperEventsControlMessagesAndSpdm : Obligations.KeeperEventsControlMessagesAndSpdm := by
  unfold Obligations.KeeperEventsControlMessagesAndSpdm
  refine ⟨?flash, fun l n r => nextOp_of_logEntry, ?append, ?alert, ?commit, ?restart, ?mctp, ?entdaa, ?spdm⟩
  case flash =>
    intro s n r l hrun hq hop
    exact lift_next (f := fxFlashOperationDone) (fxFlashOperationDone_logEntry hrun hq hop)
  case append =>
    intro s n r h
    refine ⟨_, logPut_append _ _ h, rfl, rfl, rfl⟩
  case alert =>
    intro s halert hrun haon
    exact lift_next (f := fxSmbusAlertResponse) (if_pos (by simp [halert, hrun, haon]))
  case commit =>
    intro s i hrun himg hon hdue
    obtain ⟨htrial, hfloor, hother, hframe⟩ := keeperTrial_committed i.secVersion hon
    refine ⟨_, lift_next (f := fxKeeperTrialCommit) (fxKeeperTrialCommit_due hrun himg hdue), rfl, htrial, hfloor, hother, ?_, ?_⟩
    · exact congrArg Sled.fl hframe
    · dsimp only
      rw [hframe]
  case restart =>
    intro s k hre hcool hslot
    obtain ⟨hphase, hk⟩ := keeperRuns_phase k { keeperTrial s.sled with kpr := { (keeperTrial s.sled).kpr with
      hb := (keeperTrial s.sled).kpr.hb.map fun (h : Nat × Hb) => (h.1, { h.2 with since := (keeperTrial s.sled).now }) } }
    exact ⟨_, lift_next (f := fxKeeperRestartComplete) (fxKeeperRestartComplete_runs hre hcool hslot), rfl, hphase, hk,
      (keeperRuns_mem ..).trans (keeperTrial_mem ..)⟩
  case mctp =>
    intro s x hasked hport
    refine ⟨fun e h0 hff => ?_, ?_, ?_, ?_, ?_⟩
    · have hne : ¬ (e.toNat = 0 ∨ e.toNat = 0xFF) := fun h =>
        h.elim (fun h => h0 (BitVec.eq_of_toNat_eq h)) (fun h => hff (BitVec.eq_of_toNat_eq h))
      exact lift_next (f := fxSetEndpointId x e.toNat) (mctp_answered hasked hport (if_neg hne))
    · exact lift_next (f := fxGetEndpointId x) (mctp_answered hasked hport rfl)
    · exact lift_next (f := fxGetMctpVersionSupport x) (mctp_answered hasked hport rfl)
    · exact lift_next (f := fxGetMessageTypeSupport x) (mctp_answered hasked hport rfl)
    · exact lift_next (f := fxGetVendorDefinedMsgSupport x) (mctp_answered hasked hport rfl)
  case entdaa =>
    intro s a haon
    exact lift_next (f := fxEntdaa a.toNat) (if_pos haon)
  case spdm =>
    intro s x n hasked hn
    refine ⟨?_, fun h1 => ?_, fun h1 => ?_, fun h2 => ?_, fun a b hab => ?_, fun h3 => spdm_agreed hasked (hn.trans h3), fun h3 => ?_⟩
    · exact lift_next (f := fxGetVersion x) (spdm_served hasked rfl)
    · exact lift_next (f := fxGetCapabilities x) (spdm_served hasked (if_pos (hn.trans h1)))
    · exact lift_next (f := fxGetCapabilities x) (spdm_refused hasked (if_neg (hn ▸ h1)))
    · exact lift_next (f := fxNegotiateAlgorithms x true true) (spdm_served hasked (if_pos (by simp [hn, h2])))
    · exact lift_next (f := fxNegotiateAlgorithms x a b) (spdm_refused hasked (if_neg (by rcases hab with rfl | rfl <;> simp)))
    · exact lift_next (f := fxGetDigests x) (spdm_refused hasked (if_neg (hn ▸ h3)))

end Sys2Proof.Machine

/-! PLDM: monitoring and the firmware update (spec/20, R394, R398-R400, Tables 20-4, 20-7). One rule answers every
request that the keeper serves; the end of an update's last piece either applies the image or logs it. -/

namespace Sys2Proof.Machine

open Sys2Proof

/-! ## The directory after a write -/

theorem dirFields_dirBytes_rtSlot {d : Dir} (h : d.rtSlot < 256) : (dirFields (dirBytes d)).rtSlot = d.rtSlot := by
  obtain ⟨rest, hrest⟩ : ∃ rest, dirBytes d =
      (leBytes 4 0x4E5A4449 ++ leBytes 4 d.seq ++ leBytes 1 d.kprSlot) ++ (leBytes 1 d.rtSlot ++ rest) :=
    ⟨_, by simp only [dirBytes, dirBody, List.append_assoc]; rfl⟩
  have hlen : (leBytes 4 0x4E5A4449 ++ leBytes 4 d.seq ++ leBytes 1 d.kprSlot).length = 9 := by simp
  show byteField (dirBytes d) 9 1 = d.rtSlot
  rw [hrest, byteField_skip _ _ hlen, byteField_head _ (length_leBytes ..), leNat_leBytes_of_lt h]

/-! ## Requests (R394, R398) -/

section requests

variable {s u : Sled} {x : Transport} (hasked : asked s x)

include hasked

/-- A running keeper serves every PLDM request. -/
theorem pldm_served {type cmd code : Nat} {body : List Byte} {f : Sled → (Nat × List Byte) × Sled}
    (hf : f s = ((code, body), u)) : pldm x type cmd f s = emit (.resp x 1 (type * 256 + cmd) code body) u := by
  rw [pldm, if_neg (by simp [hasked.2]), if_neg (by simp [hasked.1]), hf]
  rfl

/-- A PDR of a temperature sensor carries its two thresholds. -/
theorem fxGetPdr_temperature {h : Nat} (h1 : 1 ≤ h) (h36 : h ≤ 36) : fxGetPdr x h s =
    emit (.resp x 1 0x251 0 (leBytes 2 h ++ (leBytes 2 (rField s bTHM 0x400 0 8) ++ leBytes 2 112) ++
      Config.protocolBody 0x251)) s := by
  have hthr : throttleAt s (h - 1) = some (rField s bTHM 0x400 0 8) := if_pos (by omega)
  have hcrit : critAt (h - 1) = some 112 := if_pos (by omega)
  refine pldm_served hasked ?_
  rw [if_pos (.inl (by omega))]
  dsimp only
  rw [if_pos (by omega), hthr, hcrit]
  rfl

/-- A piece that arrives waits for its flash operation; the keeper asks for the next or reports the transfer's end. -/
theorem fxRequestFirmwareData_taken {e : Session} {n k : Nat} (he : s.kpr.session = some e) (hph : e.phase = 2)
    (hk : min n (e.size - e.asked) = k) (hpos : k ≠ 0) : fxRequestFirmwareData x n s =
      emit (if e.asked + k = e.size then .event 4 0 else .event 7 (e.asked + k))
        (setSession { e with asked := e.asked + k }
          { s with kpr := { s.kpr with ops := s.kpr.ops ++ [.updatePiece e.comp k] } }) := by
  rw [fxRequestFirmwareData]
  simp only [he, hk]
  rw [if_neg (by simp [hasked.2, hph, hpos])]

end requests

/-- No piece of an update waits any more. -/
theorem updatePiece_not_mem_dropPieces (c n : Nat) (s : Sled) : FlashOp.updatePiece c n ∉ (dropPieces s).kpr.ops := by
  simp [dropPieces]

/-! ## Monitoring (R394) -/

theorem pldm_monitoring {s : State} {x : Transport} (hasked : asked s.sled x) :
    exec (.getTid x) s = .next { s with sled := emit (.resp x 1 2 0 (leBytes 1 s.sled.kpr.mgmt.tid)) s.sled } ∧
    (∀ d : BitVec 8, d ≠ 0 → d ≠ 0xFF → exec (.setTid x d) s = .next { s with
      sled := emit (.resp x 1 1 0 []) { s.sled with kpr := { s.sled.kpr with
        mgmt := { s.sled.kpr.mgmt with tid := d.toNat } } } }) ∧
    exec (.getPldmVersion x) s = .next { s with sled := emit (.resp x 1 3 0 (Config.protocolBody 0x103)) s.sled } ∧
    exec (.getPldmTypes x) s = .next { s with sled := emit (.resp x 1 4 0 (leBytes 8 0x25)) s.sled } ∧
    exec (.getPldmCommands x 0) s = .next { s with sled := emit (.resp x 1 5 0 (leBytes 32 0x3E)) s.sled } ∧
    exec (.getPdrRepositoryInfo x) s = .next { s with
      sled := emit (.resp x 1 0x250 0 (leBytes 4 100 ++ Config.protocolBody 0x250)) s.sled } := by
  refine ⟨?_, fun d h0 hff => ?_, ?_, ?_, ?_, ?_⟩
  · exact lift_next (f := fxGetTid x) (pldm_served hasked rfl)
  · have hne : ¬ (d.toNat = 0 ∨ d.toNat = 0xFF) := fun h =>
      h.elim (fun h => h0 (BitVec.eq_of_toNat_eq h)) (fun h => hff (BitVec.eq_of_toNat_eq h))
    exact lift_next (f := fxSetTid x d.toNat) (pldm_served hasked (if_neg hne))
  · exact lift_next (f := fxGetPldmVersion x) (pldm_served hasked rfl)
  · exact lift_next (f := fxGetPldmTypes x) (pldm_served hasked rfl)
  · exact lift_next (f := fxGetPldmCommands x 0) (pldm_served hasked rfl)
  · exact lift_next (f := fxGetPdrRepositoryInfo x) (pldm_served hasked rfl)

theorem pldm_sensors {s : State} {x : Transport} (hasked : asked s.sled x) :
    (∀ h : BitVec 32, 1 ≤ h.toNat → h.toNat ≤ 36 → exec (.getPdr x h) s = .next { s with
      sled := emit (.resp x 1 0x251 0 (leBytes 2 h.toNat ++ (leBytes 2 (rField s.sled bTHM 0x400 0 8) ++ leBytes 2 112) ++
        Config.protocolBody 0x251)) s.sled }) ∧
    (∀ i : BitVec 16, 1 ≤ i.toNat → i.toNat ≤ 97 → exec (.getSensorReading x i) s = .next { s with
      sled := emit (.resp x 1 0x211 0 (leBytes 1 (if (sensor s.sled (i.toNat - 1)).broken then 4 else 0) ++
        leBytes 2 (sensor s.sled (i.toNat - 1)).reading)) s.sled }) ∧
    exec (.getStateSensorReadings x 200) s = .next { s with
      sled := emit (.resp x 1 0x221 0 (leBytes 1 0 ++
        leBytes 1 (if s.sled.kpr.tier = 2 then 1 else if s.sled.kpr.tier = 1 then 2 else 0))) s.sled } ∧
    (∀ e : BitVec 8, exec (.setEventReceiver x true e) s = .next { s with
      sled := emit (.resp x 1 0x204 0 []) { s.sled with kpr := { s.sled.kpr with
        mgmt := { s.sled.kpr.mgmt with eventRx := some e.toNat } } } }) := by
  refine ⟨fun h h1 h36 => ?_, fun i h1 h97 => ?_, ?_, fun e => ?_⟩
  · exact lift_next (f := fxGetPdr x h.toNat) (fxGetPdr_temperature hasked h1 h36)
  · exact lift_next (f := fxGetSensorReading x i.toNat) (pldm_served hasked (if_pos ⟨h1, h97⟩))
  · exact lift_next (f := fxGetStateSensorReadings x 200) (pldm_served hasked rfl)
  · exact lift_next (f := fxSetEventReceiver x true e.toNat) (pldm_served hasked rfl)

/-- Activation without a keeper image ends the session, and a staged key store comes into force (Table 20-7). -/
theorem fxActivateFirmware_ends {s : Sled} {x : Transport} {e : Session} (hasked : asked s x)
    (he : s.kpr.session = some e) (hph : e.phase = 1) (hdone : e.done ≠ []) (hkpr : 1 ∉ e.done) :
    ∃ fl, fxActivateFirmware x s = { emit (.resp x 1 0x51A 0 []) s with
        fl := fl, kpr := { s.kpr with session := none } } ∧
      (∀ ks, e.staged = some ks → fl.keys.cur = some ks) ∧ (e.staged = none → fl = s.fl) := by
  have hrefuse : ¬ (e.phase ≠ 1 ∨ e.done = []) := by simp [hph, hdone]
  rw [fxActivateFirmware]
  simp only [he]
  rw [if_neg hrefuse, if_neg (by simp [hasked.2])]
  simp only [List.contains_eq_mem, hkpr, decide_false, Bool.false_eq_true, if_false]
  cases hst : e.staged with
  | none => exact ⟨s.fl, rfl, fun ks h => (Option.some_ne_none ks h.symm).elim, fun _ => rfl⟩
  | some ks =>
    refine ⟨{ s.fl with keys := s.fl.keys.write ks }, rfl, fun ks' h => ?_, fun h => (Option.some_ne_none ks h).elim⟩
    rw [← Option.some.inj h]
    exact TwoCopy.cur_write ..

/-! ## A session (R398) -/

section session

variable {s : State} {x : Transport} {e : Session} (hasked : asked s.sled x) (he : s.sled.kpr.session = some e)

include hasked he

/-- Steps 2 and 3 of an update: the component table, and the component to be written. -/
theorem pldm_components :
    (∀ c : Component, e.phase ≠ 2 → updAllowed s.sled (compId c) = true →
      exec (.passComponentTable x c) s = .next { s with
        sled := emit (.resp x 1 0x513 0 []) (setSession { e with phase := 1, comps := compId c :: e.comps } s.sled) }) ∧
    (∀ (c : Component) (n : BitVec 32) (img : UpdImage), e.phase = 1 → compId c ∈ e.comps → n ≠ 0 →
      updAllowed s.sled (compId c) = true → exec (.updateComponent x c n img) s = .next { s with
        sled := emit (.resp x 1 0x514 0 []) (emit (.event 7 0) (setSession { e with
          phase := 2, comp := compId c, size := n.toNat, img := some img, asked := 0, written := 0 } s.sled)) }) := by
  refine ⟨fun c hph hall => ?_, fun c n img hph hmem hn hall => ?_⟩
  · refine lift_next (f := fxPassComponentTable x c) (pldm_served hasked ?_)
    simp only [he]
    rw [if_neg (by simp [hph, hall])]
    rfl
  · have hn' : n.toNat ≠ 0 := fun h => hn (BitVec.eq_of_toNat_eq h)
    refine lift_next (f := fxUpdateComponent x c n.toNat img) (pldm_served hasked ?_)
    simp only [he]
    rw [if_neg (by simp [hph, hall, hn', hmem])]
    rfl

theorem pldm_pieces :
    (∀ n : Fin 1025, e.phase = 2 → 0 < n.val → e.asked + n.val < e.size →
      exec (.requestFirmwareData x n) s = .next { s with
        sled := emit (.event 7 (e.asked + n.val)) (setSession { e with asked := e.asked + n.val } { s.sled with
          kpr := { s.sled.kpr with ops := s.sled.kpr.ops ++ [.updatePiece e.comp n.val] } }) }) ∧
    (∀ n : Fin 1025, e.phase = 2 → e.asked < e.size → e.size ≤ e.asked + n.val →
      exec (.requestFirmwareData x n) s = .next { s with
        sled := emit (.event 4 0) (setSession { e with asked := e.size } { s.sled with
          kpr := { s.sled.kpr with ops := s.sled.kpr.ops ++ [.updatePiece e.comp (e.size - e.asked)] } }) }) := by
  refine ⟨fun n hph hpos hmore => ?_, fun n hph hless hend => ?_⟩
  · refine lift_next (f := fxRequestFirmwareData x n.val) ?_
    rw [fxRequestFirmwareData_taken hasked he hph (k := n.val) (by omega) (by omega), if_neg (by omega)]
  · refine lift_next (f := fxRequestFirmwareData x n.val) ?_
    rw [fxRequestFirmwareData_taken hasked he hph (k := e.size - e.asked) (by omega) (by omega), if_pos (by omega),
      show e.asked + (e.size - e.asked) = e.size by omega]

/-- An update is cancelled: its pieces are dropped, and flash stays. -/
theorem pldm_cancels :
    (e.phase = 2 → ∃ t, exec (.cancelUpdateComponent x) s = .next t ∧ t.pending = s.pending ∧
      t.sled.kpr.session = some { e with phase := 1, img := none } ∧ (∀ c n, FlashOp.updatePiece c n ∉ t.sled.kpr.ops) ∧
      t.sled.fl = s.sled.fl) ∧
    (∃ t, exec (.cancelUpdate x) s = .next t ∧ t.pending = s.pending ∧ t.sled.kpr.session = none ∧
      (∀ c n, FlashOp.updatePiece c n ∉ t.sled.kpr.ops) ∧ t.sled.fl = s.sled.fl) := by
  refine ⟨fun hph => ?_, ?_⟩
  · have hserved : fxCancelUpdateComponent x s.sled = emit (.resp x 1 0x51C 0 [])
        (dropPieces (setSession { e with phase := 1, img := none } s.sled)) := by
      refine pldm_served hasked ?_
      simp only [he]
      exact if_pos hph
    exact ⟨_, lift_next (f := fxCancelUpdateComponent x) hserved, rfl, rfl,
      fun c n => updatePiece_not_mem_dropPieces c n (setSession { e with phase := 1, img := none } s.sled), rfl⟩
  · have hserved : fxCancelUpdate x s.sled = emit (.resp x 1 0x51D 0 [])
        (dropPieces { s.sled with kpr := { s.sled.kpr with session := none } }) :=
      pldm_served hasked (if_neg (by simp [he]))
    exact ⟨_, lift_next (f := fxCancelUpdate x) hserved, rfl, rfl,
      fun c n => updatePiece_not_mem_dropPieces c n { s.sled with kpr := { s.sled.kpr with session := none } }, rfl⟩

theorem pldm_activates (hph : e.phase = 1) (hdone : e.done ≠ []) (hkpr : 1 ∉ e.done) :
    ∃ t, exec (.activateFirmware x) s = .next t ∧ t.pending = s.pending ∧
      t.sled.kpr.session = none ∧ t.sled.outs = s.sled.outs ++ [.resp x 1 0x51A 0 []] ∧
      (∀ ks, e.staged = some ks → t.sled.fl.keys.cur = some ks) ∧ (e.staged = none → t.sled.fl = s.sled.fl) := by
  obtain ⟨fl, hfx, hkeys, hsame⟩ := fxActivateFirmware_ends hasked he hph hdone hkpr
  exact ⟨_, lift_next (f := fxActivateFirmware x) hfx, rfl, rfl, rfl, hkeys, hsame⟩

end session

/-! ## The end of the last piece (R398-R400) -/

/-- A record of no tenant sends nothing. -/
theorem logRec_outs {r : Rec} (h : r.tenant = none) (s : Sled) : (logRec r s).outs = s.outs := by
  have hcount : (recCount r s).outs = s.outs := by
    unfold recCount
    split <;> rfl
  rw [logRec, recPlace]
  split
  · have halert : (recAlert (recStamp s r) (recEnter (recStamp s r) (recCount r s))).outs = (recCount r s).outs := by
      unfold recAlert
      split <;> rfl
    have htenant : (recStamp s r).tenant = none := h
    rw [recTell, htenant]
    exact halert.trans hcount
  · exact hcount

theorem updVerify_setSession (x : Session) (s : Sled) (c : Nat) (img : UpdImage) :
    updVerify (setSession x s) c img = updVerify s c img := by
  cases img <;> rfl

section lastPiece

variable {s : Sled} {e : Session} {img : UpdImage} {n : Nat} (he : s.kpr.session = some e) (himg : e.img = some img)
  (hpos : 0 < e.written) (hend : e.size ≤ e.written + n)

include he himg hpos hend

theorem pieceDone_last : pieceDone n s =
    if updVerify s e.comp img && e.size ≤ slotSize e.comp then
      emit (.event 6 0) (updApply e.comp img { e with written := e.written + n }
        (emit (.event 5 0) (setSession { e with written := e.written + n } s)))
    else logRec (mkRec 0xA002 0) (emit (.event 5 1)
      (setSession { e with written := e.written + n, phase := 1, img := none } s)) := by
  rw [pieceDone]
  simp only [he]
  rw [if_neg (by omega), if_neg (by omega)]
  simp only [himg, updVerify_setSession]
  rfl

/-- An image that fails its checks is logged and applied nowhere (R400). -/
theorem pieceDone_fails (hbad : updVerify s e.comp img = false ∨ slotSize e.comp < e.size) :
    (pieceDone n s).outs = s.outs ++ [.event 5 1] ∧ (pieceDone n s).fl = s.fl ∧
    (pieceDone n s).kpr.session = some { e with written := e.written + n, phase := 1, img := none } := by
  have hnot : ¬ (updVerify s e.comp img && decide (e.size ≤ slotSize e.comp)) = true := by
    rcases hbad with h | h
    · simp [h]
    · simp [Nat.not_le.mpr h]
  rw [pieceDone_last he himg hpos hend, if_neg hnot]
  refine ⟨logRec_outs rfl _, logRec_fl .., ?_⟩
  exact congrArg (·.kpr.session) (logsOnly_logRec ..).rest

/-- An image that passes its checks is applied, and the keeper reports the two steps' ends. -/
theorem pieceDone_applies {c : Nat} (hc : e.comp = c) (hgood : updVerify s c img = true) (hsize : e.size ≤ slotSize c) :
    pieceDone n s = emit (.event 6 0) (updApply c img { e with written := e.written + n }
      (emit (.event 5 0) (setSession { e with written := e.written + n } s))) := by
  subst hc
  rw [pieceDone_last he himg hpos hend, if_pos (by simp [hgood, hsize])]

end lastPiece

/-- The inactive runtime slot holds an image. -/
def runtimeStored (i : FwImage) (s : Sled) : Sled :=
  { s with fl := { s.fl with runtime := fput s.fl.runtime (runtimeAt (updTarget s 2)) i } }

/-- A verified runtime image stands in the slot that the next start takes, on trial (R398, R399). -/
theorem updApply_runtime {s : Sled} (i : FwImage) (x : Session) (hseq : (dirOf s).seq + 1 < 2 ^ 32) :
    (updApply 2 (.fw i) x s).outs = s.outs ∧ ffind (updApply 2 (.fw i) x s).fl.runtime (runtimeAt (updTarget s 2)) = some i ∧
    dirGet (updApply 2 (.fw i) x s) 2 = updTarget s 2 ∧
    ffind (trials (updApply 2 (.fw i) x s)) 2 = some (updTarget s 2) ∧
    (updApply 2 (.fw i) x s).fl.keeper = s.fl.keeper := by
  have hslot : updTarget s 2 < 256 := by
    rw [updTarget]
    omega
  have hwrite : ∃ f : Dir → Dir, (∀ d, (f d).rtSlot = updTarget s 2) ∧ updApply 2 (.fw i) x s =
      setSession { x with phase := 1, img := none, done := 2 :: x.done }
        (setTrials (fput (trials (dirWrite f (runtimeStored i s))) 2 (updTarget s 2)) (dirWrite f (runtimeStored i s))) :=
    ⟨_, fun d => rfl, rfl⟩
  obtain ⟨f, hf, happly⟩ := hwrite
  obtain ⟨a, b, hframe⟩ := dirWrite_frame f (runtimeStored i s)
  have hdir := dirOf_dirWrite (f := f) (s := runtimeStored i s) hseq
  have hrt : (dirOf (dirWrite f (runtimeStored i s))).rtSlot = updTarget s 2 := by
    rw [hdir, dirFields_dirBytes_rtSlot]
    · exact hf _
    · exact (hf _).symm ▸ hslot
  rw [happly]
  have houts : (dirWrite f (runtimeStored i s)).outs = s.outs := by rw [hframe]; rfl
  have hkeeper : (dirWrite f (runtimeStored i s)).fl.keeper = s.fl.keeper := by rw [hframe]; rfl
  refine ⟨houts, ?_, hrt, ?_, hkeeper⟩
  · show ffind (dirWrite f (runtimeStored i s)).fl.runtime _ = some i
    rw [hframe]
    exact ffind_fput_same ..
  · show ffind (trials (setTrials _ _)) 2 = _
    rw [trials_setTrials, ffind_fput_same]

/-- Settles O57: requests by the one rule of their protocol, the last piece by its image's checks. -/
theorem pldmMonitorsAndUpdatesFirmware : Obligations.PldmMonitorsAndUpdatesFirmware := by
  unfold Obligations.PldmMonitorsAndUpdatesFirmware
  refine ⟨?requests, ?session, ?lastPiece, ?target⟩
  case requests =>
    intro s x hasked
    obtain ⟨hgetTid, hsetTid, hversion, htypes, hcommands, hinfo⟩ := pldm_monitoring hasked
    obtain ⟨hpdr, hreading, hstate, hevents⟩ := pldm_sensors hasked
    refine ⟨hgetTid, hsetTid, hversion, htypes, hcommands, hinfo, hpdr, hreading, hstate, hevents, ?_, ?_,
      fun hnone hopen => ⟨?_, ?_⟩, fun hlock => ?_⟩
    · exact lift_next (f := fxQueryDeviceIdentifiers x) (pldm_served hasked rfl)
    · exact lift_next (f := fxGetFirmwareParameters x) (pldm_served hasked rfl)
    · exact lift_next (f := fxRequestUpdate x) (pldm_served hasked (if_neg (by simp [hnone, hopen])))
    · refine lift_next (f := fxPldmGetStatus x) (pldm_served hasked ?_)
      simp only [hnone]
      rfl
    · exact lift_next (f := fxRequestUpdate x) (pldm_served hasked (if_pos (.inl hlock)))
  case session =>
    intro s x e hasked he
    obtain ⟨htable, hcomponent⟩ := pldm_components hasked he
    obtain ⟨hpiece, hlast⟩ := pldm_pieces hasked he
    obtain ⟨hcancelOne, hcancel⟩ := pldm_cancels hasked he
    exact ⟨htable, hcomponent, hpiece, hlast, hcancelOne, hcancel, pldm_activates hasked he⟩
  case lastPiece =>
    intro s e img n he himg hpos hend
    refine ⟨fun hbad => ⟨_, rfl, pieceDone_fails he himg hpos hend hbad⟩, fun i hi hcomp hver hsize hseq => ⟨_, rfl, ?_⟩⟩
    subst hi
    obtain ⟨houts, hstored, hdir, htrial, hkeeper⟩ := updApply_runtime (s := emit (.event 5 0)
      (setSession { e with written := e.written + n } s)) i { e with written := e.written + n } hseq
    rw [pieceDone_applies he himg hpos hend hcomp hver hsize]
    refine ⟨?_, hstored, hdir, htrial, hkeeper⟩
    exact (congrArg (· ++ [Out.event 6 0]) houts).trans (List.append_assoc ..)
  case target =>
    intro s
    refine ⟨fun hnone => ?_, fun hsome => ?_⟩
    · simp [updTarget, updUsed, hnone]
    · have htarget : updTarget s 2 = 1 - s.kpr.rtSlot := by simp [updTarget, updUsed, hsome]
      exact ⟨htarget, fun h => by omega⟩

end Sys2Proof.Machine

/-! The input stage and the main rails (spec/03, R46-R51). An opening commits one record; the rails go up and down in
their seven steps, of which only the last state is seen; a fault ends in watch-only with the rails falling. -/

namespace Sys2Proof.Machine

open Sys2Proof

/-! ## The input stage -/

/-- The entry that the keeper commits on hold-up (R48). -/
def holdEntry (s : Sled) (code : Nat) : LogEnt :=
  { seq := s.fl.logSeq, boot := s.fl.boot, mod := moduleId s, hold := true, record := recStamp s (mkRec code 0) }

theorem holdEntry_congr {s t : Sled} (hfl : t.fl = s.fl) (hnow : t.now = s.now) (hstrap : t.plat.strap = s.plat.strap)
    (hreset : t.plat.resetAt = s.plat.resetAt) (code : Nat) : holdEntry t code = holdEntry s code := by
  rw [holdEntry, hfl, moduleId, hstrap, recStamp, hnow, hreset, holdEntry, moduleId, recStamp]

/-- A commit that opens no sector appends its entry and leaves the platform. -/
theorem holdCommit_appends {s : Sled} (code : Nat) (hrun : s.kpr.phase = .running) (hlog : s.fl.logSeq % 1023 ≠ 1) :
    (holdCommit (mkRec code 0) s).plat = s.plat ∧
    (holdCommit (mkRec code 0) s).fl.log = s.fl.log ++ [holdEntry s code] ∧
    (holdCommit (mkRec code 0) s).fl.logSeq = s.fl.logSeq + 1 := by
  rw [holdCommit_facts _ _ hrun hlog]
  exact ⟨rfl, rfl, rfl⟩

/-- The sled as the opening of the stage leaves it before the commit, which counts a severe record (R47). -/
def stageOpened (ov : Bool) (code : Nat) (s : Sled) : Sled :=
  let s := railsDown { s with plat := { s.plat with supply := .holdUp ov } }
  { s with
    plat := { s.plat with rails := .off, railUp := 0 }
    kpr := { s.kpr with outstanding := s.kpr.outstanding + (if code = 0x7011 ∧ s.kpr.phase = .running then 1 else 0) } }

theorem stageOpened_facts (ov : Bool) (code : Nat) (s : Sled) :
    (stageOpened ov code s).fl = s.fl ∧ (stageOpened ov code s).now = s.now ∧
    (stageOpened ov code s).kpr.phase = s.kpr.phase ∧ ∃ c r, (stageOpened ov code s).plat = { s.plat with
      supply := .holdUp ov, ready := false, rails := .off, railUp := 0, coreReset := c, tenantReset := r } := by
  obtain ⟨hfl, hnow, -, hphase, -, hplat⟩ := railsDown_facts { s with plat := { s.plat with supply := .holdUp ov } }
  unfold stageOpened
  generalize railsDown { s with plat := { s.plat with supply := .holdUp ov } } = u at hfl hnow hphase hplat
  refine ⟨hfl, hnow, hphase, u.plat.coreReset, u.plat.tenantReset, ?_⟩
  dsimp only
  rw [hplat]

theorem stageOpens_on {s : Sled} (ov : Bool) (code : Nat) (hon : s.plat.supply = .on) :
    stageOpens ov code s = holdCommit (mkRec code 0) (stageOpened ov code s) := by
  rw [stageOpens, if_pos hon, stageOpened]
  dsimp only
  split <;> rfl

/-- The stage opens: the sled is on hold-up with its rails off, and the keeper commits the record. -/
theorem stageOpens_result {s : Sled} (ov : Bool) (code : Nat) (hon : s.plat.supply = .on)
    (hrun : s.kpr.phase = .running) (hlog : s.fl.logSeq % 1023 ≠ 1) :
    (stageOpens ov code s).plat.supply = .holdUp ov ∧ (stageOpens ov code s).plat.rails = .off ∧
    (stageOpens ov code s).plat.ready = false ∧ (stageOpens ov code s).fl.log = s.fl.log ++ [holdEntry s code] ∧
    (stageOpens ov code s).fl.logSeq = s.fl.logSeq + 1 := by
  obtain ⟨hfl, hnow, hphase, c, r, hplat⟩ := stageOpened_facts ov code s
  obtain ⟨hheld, happended, hseq⟩ := holdCommit_appends code (hphase.trans hrun) (by rw [hfl]; exact hlog)
  have hentry : holdEntry (stageOpened ov code s) code = holdEntry s code :=
    holdEntry_congr hfl hnow (by rw [hplat]) (by rw [hplat]) code
  rw [stageOpens_on ov code hon, hheld, happended, hseq, hfl, hentry, hplat]
  exact ⟨rfl, rfl, rfl, rfl, rfl⟩

/-- Power-on leaves the sled fresh with its always-on rails in regulation; MOD_RESET_N decides on the islands (R61). -/
theorem fxPowerOnReset_fresh {s : Sled} (h : s.plat.supply = .precharge) : ∃ i, fxPowerOnReset s =
    { freshSled s with isl := i, plat := { (freshSled s).plat with supply := .on, aonUp := 3 } } := by
  rw [fxPowerOnReset, if_neg (not_not.mpr h)]
  dsimp only
  split
  · exact ⟨[], rfl⟩
  · exact ⟨_, rfl⟩

/-- A low input that the running keeper sees is logged and limits the cap (R47). -/
theorem fxInputLowTimeout_running {s : Sled} (hon : s.plat.supply = .on) (hrun : s.kpr.phase = .running)
    (hlow : s.plat.inputLow = false) (hrange : s.plat.rangeHigh = none) :
    fxInputLowTimeout s = { logRec (mkRec 0x7010 0) s with plat := { s.plat with inputLow := true } } := by
  rw [fxInputLowTimeout, if_neg (by simp [hon, hlow]), if_neg (not_not.mpr hrun), logRec_plat, rangeCheck]
  simp only [hrange]

theorem capOf_inputLow {s : Sled} {p : Ppi} (hp : s.prof = some p) (hlow : s.plat.inputLow = true) :
    capOf s ≤ 1000 := by
  simp only [capOf, hp, hlow, if_true]
  exact Nat.min_le_left ..

/-! ## The main rails -/

/-- Seven rises from none are all seven rails. -/
theorem seven_railRise {s : Sled} (h : s.plat.rails = .rising) :
    seven railRise { s with plat := { s.plat with railUp := 0 } } = { s with plat := { s.plat with railUp := 7 } } := by
  have hstep (n : Nat) (hn : n < 7) : railRise { s with plat := { s.plat with railUp := n } } =
      { s with plat := { s.plat with railUp := n + 1 } } := if_pos ⟨h, hn⟩
  simp only [seven, List.range, List.range.loop, List.foldl]
  rw [hstep 0, hstep 1, hstep 2, hstep 3, hstep 4, hstep 5, hstep 6] <;> decide

/-- The falls of the rails change only how many are up. -/
theorem seven_railFall (s : Sled) : ∃ n, seven railFall s = { s with plat := { s.plat with railUp := n } } := by
  refine List.foldlRecOn (motive := fun t => ∃ n, t = { s with plat := { s.plat with railUp := n } }) _ _
    ⟨s.plat.railUp, rfl⟩ fun t ht _ _ => ?_
  obtain ⟨n, rfl⟩ := ht
  unfold railFall
  split
  · exact ⟨n - 1, rfl⟩
  · exact ⟨n, rfl⟩

/-- An island leaves reset with the rails, but for one that is unused and for HST under PERST_N. -/
def islandRises (s : Sled) (i : Nat) : Sled :=
  if islState s i = 0 ∨ (i = iHST ∧ s.plat.perst) then s else setIsl i 2 s

/-- The islands of a list of different ones that leave reset, and what else stays. -/
theorem foldl_islandRises (l : List Nat) (s : Sled) :
    (l.foldl islandRises s) = { s with isl := (l.foldl islandRises s).isl } ∧
    ∀ j, islState (l.foldl islandRises s) j =
      if j ∉ l ∨ islState s j = 0 ∨ (j = iHST ∧ s.plat.perst = true) then islState s j else 2 := by
  induction l generalizing s with
  | nil => exact ⟨rfl, fun j => by simp⟩
  | cons i l ih =>
    obtain ⟨hframe, hstate⟩ := ih (islandRises s i)
    rw [List.foldl_cons]
    by_cases hstay : islState s i = 0 ∨ (i = iHST ∧ s.plat.perst)
    · have hs : islandRises s i = s := if_pos hstay
      rw [hs] at hframe hstate ⊢
      refine ⟨hframe, fun j => ?_⟩
      rw [hstate j]
      by_cases hj : j = i
      · subst hj
        rw [if_pos (.inr hstay), if_pos (.inr hstay)]
      · simp [hj]
    · have hs : islandRises s i = setIsl i 2 s := if_neg hstay
      rw [hs] at hframe hstate ⊢
      refine ⟨hframe.trans rfl, fun j => ?_⟩
      rw [hstate j]
      by_cases hj : j = i
      · subst hj
        have hleaves : ¬ (j ∉ j :: l ∨ islState s j = 0 ∨ (j = iHST ∧ s.plat.perst = true)) := by simpa using hstay
        rw [if_neg hleaves]
        simp only [islState_setIsl, ite_self]
      · simp only [islState_setIsl_other i 2 s hj, List.mem_cons, hj, false_or]
        rfl

/-- The rails come into regulation one after another, and the islands leave reset (R49). -/
theorem fxMainRailsInRegulation_rises {s : Sled} (h : s.plat.rails = .rising) : fxMainRailsInRegulation s =
    ((List.range 37).map (· + 1)).foldl islandRises { s with plat := { s.plat with rails := .up, railUp := 7 } } := by
  rw [fxMainRailsInRegulation, if_neg (not_not.mpr h), List.foldl_map]
  dsimp only
  rw [seven_railRise h]
  rfl

theorem fxMainRailsInRegulation_result {s : Sled} (h : s.plat.rails = .rising) :
    (fxMainRailsInRegulation s = { s with
      plat := { s.plat with rails := .up, railUp := 7 }, isl := (fxMainRailsInRegulation s).isl }) ∧
    ∀ i, i < 38 → islState (fxMainRailsInRegulation s) i =
      if i = 0 ∨ islState s i = 0 ∨ (i = iHST ∧ s.plat.perst = true) then islState s i else 2 := by
  obtain ⟨hframe, hstate⟩ := foldl_islandRises ((List.range 37).map (· + 1))
    { s with plat := { s.plat with rails := .up, railUp := 7 } }
  rw [fxMainRailsInRegulation_rises h]
  refine ⟨hframe, fun i hi => (hstate i).trans ?_⟩
  have hmem : i ∉ (List.range 37).map (· + 1) ↔ i = 0 := by
    rw [List.mem_map]
    refine ⟨fun hn => ?_, fun h0 => ?_⟩
    · by_contra h0
      exact hn ⟨i - 1, List.mem_range.mpr (by omega), by omega⟩
    · rintro ⟨k, -, hk⟩
      omega
  simp only [hmem]
  rfl

/-- A fault of a rail takes all of them down and leaves the sled in watch-only (R50). -/
theorem fxMainRailFault_up {s : Sled} (rail : Nat) (h : s.plat.rails = .up) :
    (fxMainRailFault rail s).plat.rails = .falling ∧ (fxMainRailFault rail s).plat.railFault = true ∧
    (fxMainRailFault rail s).plat.ready = false ∧ (fxMainRailFault rail s).kpr.tier = 1 ∧
    (fxMainRailFault rail s).mem = [] := by
  have hfault : fxMainRailFault rail s = watchOnly 0x7012
      { logRec { mkRec 0x7012 0 with arg1 := rail + 1 } (railsDown s) with
        plat := { (logRec { mkRec 0x7012 0 with arg1 := rail + 1 } (railsDown s)).plat with railFault := true } } := by
    rw [fxMainRailFault, if_neg (by simp [h])]
    dsimp only
    rw [if_neg (by simp [h])]
  obtain ⟨-, -, -, -, -, hplat⟩ := railsDown_facts s
  rw [if_pos (.inl h)] at hplat
  have hmem := (railsDown_mem s (.inl h)).1
  rw [hfault, logRec_plat, hplat]
  generalize ({ mkRec 0x7012 0 with arg1 := rail + 1 } : Rec) = r
  have hlog := logsOnly_watchOnly_down 0x7012 (s := { logRec r (railsDown s) with plat := { s.plat with
    ready := false, rails := .falling, coreReset := if s.plat.rails = .up ∨ s.plat.rails = .rising then [] else s.plat.coreReset
    tenantReset := if s.plat.rails = .up ∨ s.plat.rails = .rising then [] else s.plat.tenantReset, railFault := true } })
    Rails.noConfusion rfl
  refine ⟨congrArg Plat.rails hlog.plat, congrArg Plat.railFault hlog.plat, congrArg Plat.ready hlog.plat, hlog.tier, ?_⟩
  exact hlog.mem.trans ((logRec_mem ..).trans hmem)

/-- Settles O4: the stage by its supply state, the rails by their sequence, a fault by the fall to watch-only. -/
theorem inputStageAndMainRailSequence : Obligations.InputStageAndMainRailSequence := by
  unfold Obligations.InputStageAndMainRailSequence
  refine ⟨?precharge, ?powerOn, ?opens, ?lost, ?recloses, ?low, ?recovers, ?enable, ?enableOff, ?regulation, ?fault, ?off,
    ?again⟩
  case precharge =>
    intro s h
    exact lift_next (f := fxInsertionPrecharge) (if_pos h)
  case powerOn =>
    intro s h
    obtain ⟨i, hi⟩ := fxPowerOnReset_fresh h
    exact ⟨_, lift_next (f := fxPowerOnReset) hi, rfl, rfl, rfl, rfl, rfl, rfl, rfl, rfl, rfl, rfl, rfl, rfl, rfl, rfl, rfl,
      rfl, rfl, rfl, rfl, rfl, rfl, rfl, rfl⟩
  case opens =>
    rintro s c code ov (hc | hc) hon hrun hlog <;> obtain ⟨rfl, rfl, rfl⟩ := Prod.mk.injEq .. ▸ hc
    · exact ⟨_, lift_next (f := fxInputFall37v) rfl, rfl, stageOpens_result _ _ hon hrun hlog⟩
    · exact ⟨_, lift_next (f := fxInputRise62v) rfl, rfl, stageOpens_result _ _ hon hrun hlog⟩
  case lost =>
    intro s ov h
    have hlost : fxAlwaysOnSupplyLost s.sled = { freshSled s.sled with
        isl := [], plat := { (freshSled s.sled).plat with supply := if ov then .overV else .unpowered, aonUp := 0 } } := by
      simp only [fxAlwaysOnSupplyLost, h]
    exact ⟨_, lift_next (f := fxAlwaysOnSupplyLost) hlost, rfl, rfl, rfl, rfl, rfl, rfl, rfl⟩
  case recloses =>
    intro s h
    exact ⟨_, lift_next (f := fxInputFall61v) (if_pos (.inl h)), rfl, rfl, rfl, rfl, rfl⟩
  case low =>
    intro s hon hrun hlow hrange hroom
    have hlog := logsOnly_logRec (mkRec 0x7010 0) s.sled
    exact ⟨_, lift_next (f := fxInputLowTimeout) (fxInputLowTimeout_running hon hrun hlow hrange), rfl, rfl,
      logRec_coll _ _ hroom, fun p hp => capOf_inputLow ((logRec_prof ..).trans hp) rfl, hlog.mem, hlog.ctr, logRec_fl ..,
      hlog.isl⟩
  case recovers =>
    intro s hlow hrange
    refine lift_next (f := fxInputLowRecover) ?_
    rw [fxInputLowRecover, if_pos hlow, rangeCheck]
    simp only [hrange]
  case enable =>
    intro s hrun hen hhold hpwr hfault hq hoff
    refine lift_next (f := fxKeeperRailEnable) ?_
    rw [fxKeeperRailEnable, if_neg (by simp [hrun, hen, hhold])]
    exact if_pos (by simp [hpwr, hfault, hq, hoff])
  case enableOff =>
    intro s hrun hen hhold hpwr
    refine lift_next (f := fxKeeperRailEnable) ?_
    rw [fxKeeperRailEnable, if_neg (by simp [hrun, hen, hhold])]
    exact if_neg (by simp [hpwr])
  case regulation =>
    intro s h
    obtain ⟨hframe, hstate⟩ := fxMainRailsInRegulation_result h
    refine ⟨_, lift_next (f := fxMainRailsInRegulation) rfl, rfl, hframe, fun k => ?_, fun i => hstate i i.isLt⟩
    dsimp only
    rw [hframe, railLevel]
    dsimp only
    rw [if_pos k.isLt, if_neg (fun hf => Rails.noConfusion hf.1)]
  case fault =>
    intro s rail h
    exact ⟨_, lift_next (f := fxMainRailFault rail) rfl, rfl, fxMainRailFault_up rail h⟩
  case off =>
    intro s h hpwr
    obtain ⟨n, hfall⟩ := seven_railFall s.sled
    refine lift_next (f := fxMainRailsOff) ?_
    rw [fxMainRailsOff, if_pos h]
    dsimp only
    rw [hfall, railsStart, if_neg (by simp [hpwr])]
  case again =>
    intro s h
    have hagain : fxInsertionPrecharge s.sled = { freshSled s.sled with
        isl := [], plat := { (freshSled s.sled).plat with supply := .precharge, aonUp := 0 } } := by
      rw [fxInsertionPrecharge, if_neg (by simp [h]), if_pos h]
    exact ⟨_, lift_next (f := fxInsertionPrecharge) hagain, rfl, rfl, rfl, rfl, rfl, rfl⟩

end Sys2Proof.Machine

/-! Module reset, PWR_EN and PERST_N (spec/03, R53, R61, Table 3-6). Each is one change of the platform over the sled that
is fresh, powered down, or a cycle on; the registers that a host reset restores are those of its own block. -/

namespace Sys2Proof.Machine

open Sys2Proof

/-! ## Module reset -/

/-- Module reset leaves the sled fresh but for the cause, with its rails off or falling (R61). -/
theorem fxModResetNAssert_on {s : Sled} (hon : s.plat.supply = .on) (hmod : s.plat.modReset = false) :
    fxModResetNAssert s = setCause 2 0 0 { freshSled s with isl := [], plat := { (freshSled s).plat with
      modReset := true, rails := if s.plat.rails = .up ∨ s.plat.rails = .rising then .falling else s.plat.rails
      railUp := s.plat.railUp, inputLow := s.plat.inputLow } } := by
  rw [fxModResetNAssert, hon, if_neg (by simp [hmod])]

theorem rField_setCause (kind trigger id : Nat) (s : Sled) (h : kind < 16) :
    rField (setCause kind trigger id s) bKPR 0 0 4 = kind := by
  rw [rField, setCause, rGet_rSet_same, bitsOf]
  omega

/-- Under module reset every output pin is released. -/
theorem outPins_modReset {s : Sled} (hmod : s.plat.modReset = true) (hheld : s.plat.heldPins = none) :
    outPins s = releasedPins s := by
  have haon : aonOut s = false := by simp [aonOut, hmod]
  rw [outPins, hheld]
  dsimp only
  rw [livePins, haon, if_neg Bool.false_ne_true]

/-- Released, module reset leaves the straps to be sampled and the always-on island running. -/
theorem fxModResetNDeassert_on {s : Sled} (hon : s.plat.supply = .on) (hmod : s.plat.modReset = true) :
    fxModResetNDeassert s = { s with
      isl := fput s.isl 0 { state := 2 }
      plat := { s.plat with modReset := false, sampling := true, windows := 0, resetAt := s.now } } := by
  rw [fxModResetNDeassert, if_neg (by simp [hmod])]
  dsimp only
  rw [if_neg (by simp [hon])]

/-! ## PWR_EN -/

/-- A rail sequence that starts changes the rails alone. -/
theorem railsStart_frame (s : Sled) : ∃ r, railsStart s = { s with plat := { s.plat with rails := r } } := by
  unfold railsStart
  split
  · exact ⟨_, rfl⟩
  · exact ⟨s.plat.rails, rfl⟩

/-- A PWR_EN cycle as it ends, before the straps are judged: the profile is to be started again (R61, R64, R65). -/
def cycleEnded (s : Sled) : Sled :=
  let s := { s with plat := { s.plat with pwrEn := true }, kpr := { s.kpr with bootAt := s.now } }
  let s := if s.kpr.tier = 1 then alertOn s else s
  setCause 3 0 0 { s with
    plat := { s.plat with cycle := false, railFault := false, quiesced := false, quiesce := .none }
    kpr := { s.kpr with tier := 0, chosen := false, booted := false, fallback := false, outstanding := 0
                        digProf := none, digRt := none, bootSlot := s.kpr.slot }
    thm := { s.thm with crit := false }
    hst := { s.hst with retry := true } }

theorem fxPwrEnAssert_cycle {s : Sled} (hpwr : s.plat.pwrEn = false) (hcycle : s.plat.cycle = true) :
    fxPwrEnAssert s = strapTier (railsStart (cycleEnded s)) := by
  rw [fxPwrEnAssert, if_neg (by simp [hpwr])]
  dsimp only
  rw [if_neg (by simp [hcycle])]
  rfl

theorem cycleEnded_facts (s : Sled) :
    (cycleEnded s).plat = { s.plat with pwrEn := true, cycle := false, railFault := false, quiesced := false, quiesce := .none } ∧
    (cycleEnded s).kpr.chosen = false ∧ (cycleEnded s).kpr.tier = 0 ∧ (cycleEnded s).kpr.fallback = false ∧
    (cycleEnded s).kpr.phase = s.kpr.phase ∧ rField (cycleEnded s) bKPR 0 0 4 = 3 ∧ (cycleEnded s).fl = s.fl := by
  refine ⟨?_, rfl, rfl, rfl, ?_, rField_setCause _ _ _ _ (by decide), ?_⟩
  all_goals
    unfold cycleEnded
    dsimp only
    split <;> rfl

/-- Straps that are stable, or unstable in none of the bits that count, leave the tier (spec/02, R37). -/
theorem strapTier_stable {s : Sled} (h : s.plat.unstable = false ∨ s.plat.unstableMask &&& 0x4FF#11 = 0) :
    strapTier s = s := by
  rw [strapTier, if_pos]
  rcases h with h | h
  · exact .inl (by simp [h])
  · exact .inr h

theorem strapTier_unstable {s : Sled} (h : s.plat.unstable = true) (hmask : s.plat.unstableMask &&& 0x4FF#11 ≠ 0) :
    strapTier s = watchOnly 0x9001 s := by
  rw [strapTier, if_neg]
  rintro (hs | hs)
  · simp [h] at hs
  · exact hmask hs

/-- PWR_EN falls without a quiesce: the rails go down and the keeper commits its record (R53). -/
theorem fxPwrEnDeassert_unquiesced {s : Sled} (hpwr : s.plat.pwrEn = true) (hq : s.plat.quiesced = false)
    (hrun : s.kpr.phase = .running) (hlog : s.fl.logSeq % 1023 ≠ 1) :
    (fxPwrEnDeassert s).plat.pwrEn = false ∧ (fxPwrEnDeassert s).plat.ready = false ∧
    (fxPwrEnDeassert s).fl.log = s.fl.log ++ [holdEntry s 0x7013] := by
  obtain ⟨hfl, hnow, -, hphase, -, hplat⟩ := railsDown_facts { s with plat := { s.plat with pwrEn := false, cycle := true } }
  rw [fxPwrEnDeassert, if_neg (by simp [hpwr])]
  dsimp only
  rw [if_neg (by simp [hq])]
  generalize railsDown { s with plat := { s.plat with pwrEn := false, cycle := true } } = u at hfl hnow hphase hplat
  obtain ⟨hheld, happended, -⟩ := holdCommit_appends (s := u) 0x7013 (hphase.trans hrun) (by rw [hfl]; exact hlog)
  have hentry : holdEntry u 0x7013 = holdEntry s 0x7013 := holdEntry_congr hfl hnow (by rw [hplat]) (by rw [hplat]) _
  rw [hheld, happended, hfl, hentry, hplat]
  exact ⟨rfl, rfl, rfl⟩

/-! ## PERST_N -/

/-- A host reset restores registers of its own block only. -/
theorem rGet_narrowRegs_ne {blk b off : Nat} (s : Sled) (ho : off < 0x100000) (h : b ≠ blk) :
    rGet (narrowRegs blk s) b off = rGet s b off := by
  have hkey : regKey b off / 0x100000 = b := by
    rw [regKey]
    omega
  rw [rGet, narrowRegs, restoreBlk]
  dsimp only
  rw [fget_fdrop, hkey, decide_eq_false h, Bool.false_and, if_neg Bool.false_ne_true, rGet]

/-- Settles O5: each event by the sled it leaves, and the cycle by whether its straps are stable. -/
theorem moduleResetPowerEnableAndHostReset : Obligations.ModuleResetPowerEnableAndHostReset := by
  unfold Obligations.ModuleResetPowerEnableAndHostReset
  refine ⟨?assert, ?deassert, ?first, ?cycle, ?unstable, ?quiesced, ?unquiesced, ?perst, ?released⟩
  case assert =>
    intro s hon hmod
    refine ⟨_, lift_next (f := fxModResetNAssert) (fxModResetNAssert_on hon hmod), rfl, rfl, rfl, rfl, rfl, rfl, ?_, ?_,
      rField_setCause _ _ _ _ (by decide), ?_⟩
    · dsimp only [setCause, rSet_plat]
      split
      · exact Rails.noConfusion
      · next h => exact fun hup => h (.inl hup)
    · dsimp only [setCause, rSet_plat]
      split
      · exact Rails.noConfusion
      · next h => exact fun hup => h (.inr hup)
    · rw [outPins_modReset rfl rfl]
      exact ⟨rfl, rfl, rfl⟩
  case deassert =>
    intro s hon hmod
    refine ⟨_, lift_next (f := fxModResetNDeassert) (fxModResetNDeassert_on hon hmod), rfl, rfl, ?_, rfl⟩
    rw [islRuns, islState]
    dsimp only
    rw [fget_fput_same]
    rfl
  case first =>
    intro s hpwr hcycle hen hfault hq hoff
    refine lift_next (f := fxPwrEnAssert) ?_
    rw [fxPwrEnAssert, if_neg (by simp [hpwr])]
    dsimp only
    rw [if_pos (by simp [hcycle])]
    exact if_pos (by simp [hen, hfault, hq, hoff])
  case cycle =>
    intro s hpwr hcycle _ hstable
    obtain ⟨hplat, hchosen, htier, hfall, hphase, hcause, hfl⟩ := cycleEnded_facts s.sled
    obtain ⟨r, hrails⟩ := railsStart_frame (cycleEnded s.sled)
    have hfx : fxPwrEnAssert s.sled = { cycleEnded s.sled with plat := { (cycleEnded s.sled).plat with rails := r } } := by
      rw [fxPwrEnAssert_cycle hpwr hcycle, hrails, strapTier_stable]
      dsimp only
      rw [hplat]
      exact hstable
    refine ⟨_, lift_next (f := fxPwrEnAssert) hfx, rfl, ?_⟩
    dsimp only
    rw [hplat]
    exact ⟨rfl, rfl, rfl, rfl, hchosen, htier, hfall, hphase, hcause, hfl, rfl⟩
  case unstable =>
    intro s hpwr hcycle hun hmask
    obtain ⟨hplat, -, htier, -⟩ := cycleEnded_facts s.sled
    obtain ⟨r, hrails⟩ := railsStart_frame (cycleEnded s.sled)
    have hfx : fxPwrEnAssert s.sled = watchOnly 0x9001 (railsStart (cycleEnded s.sled)) := by
      rw [fxPwrEnAssert_cycle hpwr hcycle, strapTier_unstable] <;> rw [hrails] <;> dsimp only <;> rw [hplat]
      · exact hun
      · exact hmask
    have hlog := logsOnly_watchOnly 0x9001 (railsStart (cycleEnded s.sled)) (by rw [hrails]; exact htier)
    refine ⟨_, lift_next (f := fxPwrEnAssert) hfx, rfl, ?_⟩
    dsimp only
    rw [hlog.plat, hlog.tier, inWatchOnly, hrails]
    dsimp only
    rw [hplat]
    exact ⟨rfl, rfl, rfl, rfl⟩
  case quiesced =>
    intro s hpwr hq hup
    have hfx : fxPwrEnDeassert s.sled = railsDown { s.sled with plat := { s.sled.plat with pwrEn := false, cycle := true } } := by
      rw [fxPwrEnDeassert, if_neg (by simp [hpwr])]
      exact if_pos hq
    obtain ⟨hfl, -, -, hphase, -, hplat⟩ :=
      railsDown_facts { s.sled with plat := { s.sled.plat with pwrEn := false, cycle := true } }
    obtain ⟨hmem, hctr, -⟩ :=
      railsDown_mem { s.sled with plat := { s.sled.plat with pwrEn := false, cycle := true } } (.inl hup)
    refine ⟨_, lift_next (f := fxPwrEnDeassert) hfx, rfl, congrArg Plat.pwrEn hplat, congrArg Plat.ready hplat,
      (congrArg Plat.rails hplat).trans (if_pos (.inl hup)), hmem, hctr, hphase, hfl⟩
  case unquiesced =>
    intro s hpwr hq hrun hlog
    exact ⟨_, lift_next (f := fxPwrEnDeassert) rfl, rfl, fxPwrEnDeassert_unquiesced hpwr hq hrun hlog⟩
  case perst =>
    intro s hruns
    have hfx : fxPerstNAssert s.sled = setIsl iHST 1 (narrowRegs bHST { s.sled with
        plat := { s.sled.plat with perst := true }, hst := { retry := s.sled.hst.retry } }) := if_pos hruns
    refine ⟨_, lift_next (f := fxPerstNAssert) hfx, rfl, islState_setIsl .., rfl, rfl, rfl, fun blk off ho hblk => ?_⟩
    exact rGet_narrowRegs_ne (blk := bHST) { s.sled with
      plat := { s.sled.plat with perst := true }, hst := { retry := s.sled.hst.retry } } ho hblk
  case released =>
    intro s hup hst
    exact lift_next (f := fxPerstNDeassert) (if_pos ⟨hup, hst⟩)

end Sys2Proof.Machine

/-! The keeper's start and the choice of the profile (spec/04, R75-R81; spec/02, R42). What a start hands on is one view of
the sled: logging leaves it, the spare map leaves it, and a quiesce that begins changes one field of it. -/

namespace Sys2Proof.Machine

open Sys2Proof

/-! ## What a start of the keeper hands on -/

/-- The keeper's phase, slot and tier, the platform, flash, memory and the islands. -/
def startView (s : Sled) : KprPhase × Nat × Nat × Plat × Flash × List Host.Cell × FMap Isl :=
  (s.kpr.phase, s.kpr.slot, s.kpr.tier, s.plat, s.fl, s.mem, s.isl)

theorem startView_logRec (r : Rec) (s : Sled) : startView (logRec r s) = startView s := by
  have hlog := logsOnly_logRec r s
  have hphase : (logRec r s).kpr.phase = s.kpr.phase := congrArg (·.kpr.phase) hlog.rest
  have hslot : (logRec r s).kpr.slot = s.kpr.slot := congrArg (·.kpr.slot) hlog.rest
  rw [startView, hphase, hslot, hlog.tier, hlog.plat, logRec_fl, hlog.mem, hlog.isl, startView]

theorem startView_loadSpareMap (s : Sled) : startView (loadSpareMap s) = startView s :=
  foldl_proj startView (f := fun u k => setSpareReg k (ffind (s.fl.spares.cur.getD []) k) u) (fun _ _ => rfl) _ _

/-- A quiesce begins where REMOVE_REQ_N asks for it, and leaves what a start hands on but for READY. -/
theorem startView_quiesceBegin (s : Sled) : ∃ q r, startView (quiesceBegin s) =
      startView { s with plat := { s.plat with quiesce := q, ready := r } } ∧
    (s.plat.removeReq = true → s.plat.quiesce = .none → s.kpr.phase = .running → q = .draining) := by
  by_cases hbegins : s.plat.removeReq = true ∧ s.plat.quiesce = .none ∧ s.kpr.phase = .running
  · obtain ⟨hreq, hq, hrun⟩ := hbegins
    obtain ⟨r, h, o, hframe⟩ := quiesceBegin_frame hreq hq hrun
    refine ⟨.draining, false, ?_, fun _ _ _ => rfl⟩
    rw [hframe]
    rfl
  · have hidle : quiesceBegin s = s := by
      rw [quiesceBegin, if_pos]
      by_contra hn
      simp only [not_or, Bool.not_eq_true', Bool.not_eq_false, ne_eq, not_not] at hn
      exact hbegins hn
    refine ⟨s.plat.quiesce, s.plat.ready, by rw [hidle], fun hreq hq hrun => absurd ⟨hreq, hq, hrun⟩ hbegins⟩

/-- What a running image hands on. -/
structure StartedFrom (s : Sled) (k : Nat) (t : Sled) : Prop where
  phase : t.kpr.phase = .running
  slot : t.kpr.slot = k
  tier : t.kpr.tier = s.kpr.tier
  coolant : t.plat.coolant = s.plat.coolant
  boot : t.fl.boot = s.fl.boot
  mem : t.mem = s.mem
  isl : t.isl = s.isl
  unstable : t.plat.unstable = s.plat.unstable
  quiesce : s.plat.removeReq = true → s.plat.quiesce = .none → t.plat.quiesce = .draining

theorem StartedFrom.congr {s t u : Sled} {k : Nat} (h : StartedFrom s k t) (hv : startView u = startView t) :
    StartedFrom s k u := by
  obtain ⟨hphase, hslot, htier, hplat, hfl, hmem, hisl⟩ : u.kpr.phase = t.kpr.phase ∧ u.kpr.slot = t.kpr.slot ∧
      u.kpr.tier = t.kpr.tier ∧ u.plat = t.plat ∧ u.fl = t.fl ∧ u.mem = t.mem ∧ u.isl = t.isl := by
    simpa only [startView, Prod.mk.injEq] using hv
  exact {
    phase := hphase.trans h.phase
    slot := hslot.trans h.slot
    tier := htier.trans h.tier
    coolant := by rw [hplat, h.coolant]
    boot := by rw [hfl, h.boot]
    mem := hmem.trans h.mem
    isl := hisl.trans h.isl
    unstable := by rw [hplat, h.unstable]
    quiesce := by rw [hplat]; exact h.quiesce }

/-- A keeper's image that runs, before it looks at REMOVE_REQ_N. -/
theorem startedFrom_keeperRuns (k : Nat) (s : Sled) : StartedFrom s k (keeperRuns k s) := by
  obtain ⟨w, n, low, hruns, hw⟩ : ∃ w n low, keeperRuns k s = quiesceBegin w ∧ startView w =
      (.running, k, s.kpr.tier, { s.plat with heldPins := none, lowOwed := low }, { s.fl with logSeq := n }, s.mem, s.isl) := by
    rw [keeperRuns]
    dsimp only
    split
    · exact ⟨_, _, false, rfl, startView_logRec ..⟩
    · exact ⟨_, _, s.plat.lowOwed, rfl, rfl⟩
  obtain ⟨hphase, hslot, htier, hplat, hfl, hmem, hisl⟩ : w.kpr.phase = .running ∧ w.kpr.slot = k ∧
      w.kpr.tier = s.kpr.tier ∧ w.plat = { s.plat with heldPins := none, lowOwed := low } ∧
      w.fl = { s.fl with logSeq := n } ∧ w.mem = s.mem ∧ w.isl = s.isl := by
    simpa only [startView, Prod.mk.injEq] using hw
  obtain ⟨q, r, hview, hq⟩ := startView_quiesceBegin w
  rw [hruns]
  refine StartedFrom.congr (t := { w with plat := { w.plat with quiesce := q, ready := r } }) ?_ hview
  exact {
    phase := hphase
    slot := hslot
    tier := htier
    coolant := by dsimp only; rw [hplat]
    boot := by dsimp only; rw [hfl]
    mem := hmem
    isl := hisl
    unstable := by dsimp only; rw [hplat]
    quiesce := fun hreq hnone => hq (by rw [hplat]; exact hreq) (by rw [hplat]; exact hnone) hphase }

/-- The ROM without a trial of the keeper's starts the image that verifies (Table 4-6, step 1). -/
theorem fxKeeperRomStart_runs {s : Sled} {k : Nat} (hrom : s.kpr.phase = .rom) (hon : s.plat.supply = .on)
    (hmod : s.plat.modReset = false) (hsam : s.plat.sampling = false) (hread : s.fl.readable = true)
    (hslot : keeperSlot s = some k) (htrial : onTrial s 1 (dirOf s).kprSlot = false) (hun : s.plat.unstable = false) :
    StartedFrom { s with fl := { s.fl with boot := s.fl.boot + 1 }, plat := { s.plat with coolant := some 100 } } k
      (fxKeeperRomStart s) := by
  have hkeep : keeperTrial s = s := if_neg (by rw [htrial]; exact Bool.false_ne_true)
  rw [fxKeeperRomStart, if_neg (by simp [hrom, hon, hmod, hsam]), if_neg (by simp [hread]), hkeep]
  simp only [hslot]
  generalize hbase : ({ s with
    fl := { s.fl with boot := s.fl.boot + 1 }
    kpr := { s.kpr with bootAt := max s.kpr.bootAt s.plat.resetAt, bootSlot := k }
    plat := { s.plat with coolant := some 100 } } : Sled) = b
  have hstart : StartedFrom b k (loadSpareMap (keeperRuns k b)) :=
    (startedFrom_keeperRuns k b).congr (startView_loadSpareMap _)
  have hlogged : StartedFrom b k (if (dirCur (loadSpareMap (keeperRuns k b))).isNone = true
      then logRec (mkRec 0x9002 0) (loadSpareMap (keeperRuns k b)) else loadSpareMap (keeperRuns k b)) := by
    split
    · exact hstart.congr (startView_logRec ..)
    · exact hstart
  generalize (if (dirCur (loadSpareMap (keeperRuns k b))).isNone = true
      then logRec (mkRec 0x9002 0) (loadSpareMap (keeperRuns k b)) else loadSpareMap (keeperRuns k b)) = u at hlogged ⊢
  have hstable : (!u.plat.unstable) = true := by
    rw [hlogged.unstable, ← hbase]
    exact Bool.not_eq_true' _ ▸ hun
  rw [if_pos hstable]
  subst hbase
  exact { hlogged with }

/-! ## Profiles (R75-R79) -/

/-- A PPI is read from flash alone. -/
theorem readPpi_congr {s t : Sled} (h : t.fl = s.fl) (n : Nat) : readPpi t n = readPpi s n :=
  show readPpi { fl := t.fl } n = readPpi { fl := s.fl } n by rw [h]

/-- The sled with a profile started, before what is unused or unknown in it is treated. -/
def profileStarted (n c : Nat) (p : Ppi) (s : Sled) : Sled :=
  { s with
    prof := some p
    kpr := { s.kpr with prof := n, copy := c, chosen := true, digProf := some (Config.digest p.id) } }

/-- A PPI of known sections and no unused island changes nothing else. -/
theorem startProfile_known {n c : Nat} {p : Ppi} (hsec : ∀ x ∈ p.sections, 1 ≤ x ∧ x ≤ 6) (hun : p.cfg.unused = 0)
    (s : Sled) : startProfile n c p s = profileStarted n c p s := by
  have hnone : p.sections.filter (fun t => t = 0 ∨ 6 < t) = [] := by
    rw [List.filter_eq_nil_iff]
    intro x hx
    have := hsec x hx
    simp only [decide_eq_true_eq]
    omega
  have hall : maskList 38 0 = [] := by decide
  rw [startProfile, hnone, hun, hall]
  rfl

theorem startProfile_result (n c : Nat) (p : Ppi) (s : Sled) :
    (startProfile n c p s).prof = some p ∧ (startProfile n c p s).kpr.prof = n ∧
    (startProfile n c p s).kpr.fallback = s.kpr.fallback ∧ (startProfile n c p s).kpr.chosen = true ∧
    (startProfile n c p s).fl = s.fl ∧ (startProfile n c p s).mem = s.mem := by
  have hlog := LogsOnly.foldl (f := fun s t => logRec { mkRec 0x900A 0 with arg1 := t } s)
    (fun s t => logsOnly_logRec _ s) (p.sections.filter fun t => t = 0 ∨ 6 < t) (profileStarted n c p s)
  have hfl := foldl_proj Sled.fl (f := fun s t => logRec { mkRec 0x900A 0 with arg1 := t } s)
    (fun s t => logRec_fl _ s) (p.sections.filter fun t => t = 0 ∨ 6 < t) (profileStarted n c p s)
  have hisl (u : Sled) : ∃ i : FMap Isl, (maskList 38 p.cfg.unused).foldl (fun s i => if i = 0 then s else setIsl i 0 s) u =
      { u with isl := i } := by
    refine List.foldlRecOn (motive := fun t => ∃ i : FMap Isl, t = { u with isl := i }) _ _ ⟨u.isl, rfl⟩ fun t ht j _ => ?_
    obtain ⟨i, rfl⟩ := ht
    split
    · exact ⟨i, rfl⟩
    · exact ⟨_, rfl⟩
  have hstart : startProfile n c p s = (maskList 38 p.cfg.unused).foldl (fun s i => if i = 0 then s else setIsl i 0 s)
      ((p.sections.filter fun t => t = 0 ∨ 6 < t).foldl (fun s t => logRec { mkRec 0x900A 0 with arg1 := t } s)
        (profileStarted n c p s)) := rfl
  rw [hstart]
  generalize (p.sections.filter fun t => t = 0 ∨ 6 < t).foldl (fun s t => logRec { mkRec 0x900A 0 with arg1 := t } s)
    (profileStarted n c p s) = u at hlog hfl
  obtain ⟨i, hi⟩ := hisl u
  rw [hi]
  exact ⟨congrArg (·.prof) hlog.rest, congrArg (·.kpr.prof) hlog.rest, congrArg (·.kpr.fallback) hlog.rest,
    congrArg (·.kpr.chosen) hlog.rest, hfl, hlog.mem⟩

/-- A copy that is not on trial is only logged when it fails (R75). -/
theorem ppiBad_logs {s : Sled} {n c : Nat} (r : Nat) (h : onTrial s (0x10 + n) c = false) :
    ppiBad n c r s = logRec { mkRec 0x9003 0 with arg1 := n, arg2 := r } s := by
  have htrial : onTrial (logRec { mkRec 0x9003 0 with arg1 := n, arg2 := r } s) (0x10 + n) c = false := by
    rw [onTrial, trials, logRec_fl]
    exact h
  rw [ppiBad, trialFail, htrial]
  rfl

section select

variable {s : Sled} (hrun : s.kpr.phase = .running) (hnew : s.kpr.chosen = false) (hsam : s.plat.sampling = false)

include hrun hnew hsam

/-- A start whose PPI passes its checks starts that profile (R77). -/
theorem fxProfileSelect_ok {n c : Nat} {p : Ppi} {t : Sled} (htier : t.kpr.tier ≠ 1) (hwant : profileWanted s = n)
    (htake : takeOverride s = t) (hread : readPpi t n = (c, .ok p)) (hsec : ∀ x ∈ p.sections, 1 ≤ x ∧ x ≤ 6)
    (hun : p.cfg.unused = 0) : fxProfileSelect s = profileStarted n c p t := by
  rw [fxProfileSelect, if_neg (by simp [hrun, hnew, hsam]), hwant, htake]
  dsimp only
  rw [if_neg htier, hread]
  exact startProfile_known hsec hun t

/-- A PPI that fails its checks leads to profile 0, which is logged as the fallback (R78). -/
theorem fxProfileSelect_fallback {n c c0 r : Nat} {p : Ppi} (htier : s.kpr.tier ≠ 1) (hwant : profileWanted s = n)
    (htake : takeOverride s = s) (hn : n ≠ 0) (hread : readPpi s n = (c, .error r))
    (htrial : onTrial s (0x10 + n) c = false) (hread0 : readPpi s 0 = (c0, .ok p)) :
    (fxProfileSelect s).prof = some p ∧ (fxProfileSelect s).kpr.prof = 0 ∧ (fxProfileSelect s).kpr.fallback = true ∧
    (fxProfileSelect s).kpr.chosen = true ∧ (fxProfileSelect s).fl = s.fl ∧ (fxProfileSelect s).mem = s.mem := by
  have hselect : ∃ u : Sled, u.fl = s.fl ∧ u.mem = s.mem ∧
      fxProfileSelect s = startProfile 0 c0 p { u with kpr := { u.kpr with fallback := true } } := by
    have hagain : readPpi (logRec { mkRec 0x9003 0 with arg1 := n, arg2 := r } s) 0 = (c0, .ok p) :=
      (readPpi_congr (logRec_fl ..) 0).trans hread0
    refine ⟨logRec { mkRec 0x9004 0 with arg1 := n } (logRec { mkRec 0x9003 0 with arg1 := n, arg2 := r } s),
      (logRec_fl ..).trans (logRec_fl ..), (logRec_mem ..).trans (logRec_mem ..), ?_⟩
    rw [fxProfileSelect, if_neg (by simp [hrun, hnew, hsam]), hwant, htake]
    dsimp only
    rw [if_neg htier, hread]
    dsimp only
    rw [if_neg hn, ppiBad_logs r htrial, hagain]
  obtain ⟨u, hfl, hmem, hstart⟩ := hselect
  obtain ⟨hprof, hnum, hfall, hchosen, hkeptFl, hkeptMem⟩ :=
    startProfile_result 0 c0 p { u with kpr := { u.kpr with fallback := true } }
  rw [hstart]
  exact ⟨hprof, hnum, hfall, hchosen, hkeptFl.trans hfl, hkeptMem.trans hmem⟩

end select

/-- Settles O7: the ROM by what flash holds, the profile by the override, the straps and the PPI's checks. -/
theorem keeperStartsAndChoosesTheProfile : Obligations.KeeperStartsAndChoosesTheProfile := by
  unfold Obligations.KeeperStartsAndChoosesTheProfile
  refine ⟨?recovery, ?runs, ?override, ?straps, ?fallback, ?watch, ?demand⟩
  case recovery =>
    intro s hrom hon hmod hsam hread
    refine lift_next (f := fxKeeperRomStart) ?_
    rw [fxKeeperRomStart, if_neg (by simp [hrom, hon, hmod, hsam]), if_pos (by simp [hread]), keeperRecovers]
  case runs =>
    intro s k hrom hon hmod hsam hread hslot htrial hun
    have h := fxKeeperRomStart_runs hrom hon hmod hsam hread hslot htrial hun
    exact ⟨_, lift_next (f := fxKeeperRomStart) rfl, rfl, h.phase, h.slot, h.coolant, h.boot, h.tier, h.mem, h.isl, h.quiesce⟩
  case override =>
    intro s n c p hrun hnew hsam htier hcur hread hsec hun
    have hwant : profileWanted s.sled = n := by simp only [profileWanted, hcur]
    have htake : takeOverride s.sled = { s.sled with fl := { s.sled.fl with override := s.sled.fl.override.write none } } := by
      simp only [takeOverride, hcur]
    exact lift_next (f := fxProfileSelect) (fxProfileSelect_ok hrun hnew hsam
      (t := { s.sled with fl := { s.sled.fl with override := s.sled.fl.override.write none } }) htier hwant htake hread hsec hun)
  case straps =>
    intro s c p hrun hnew hsam htier hcur hstable hread hsec hun
    have htake : takeOverride s.sled = s.sled := by simp only [takeOverride, hcur]
    have hwant : profileWanted s.sled = bitsOf s.sled.plat.strap.toNat 8 2 := by
      simp only [profileWanted, hcur]
      rw [if_neg]
      rintro ⟨h, hmask⟩
      exact hstable.elim (fun hs => Bool.false_ne_true (hs.symm.trans h)) hmask
    exact lift_next (f := fxProfileSelect) (fxProfileSelect_ok hrun hnew hsam htier hwant htake hread hsec hun)
  case fallback =>
    intro s n c c0 r p hrun hnew hsam htier hcur hun hn hn0 hread htrial hread0
    have htake : takeOverride s.sled = s.sled := by simp only [takeOverride, hcur]
    have hwant : profileWanted s.sled = n := by
      simp only [profileWanted, hcur]
      rw [if_neg (by simp [hun]), hn]
    exact ⟨_, lift_next (f := fxProfileSelect) rfl, rfl,
      fxProfileSelect_fallback hrun hnew hsam htier hwant htake hn0 hread htrial hread0⟩
  case watch =>
    intro s n hrun hnew hsam htier hcur
    have htake : takeOverride s.sled = { s.sled with fl := { s.sled.fl with override := s.sled.fl.override.write none } } := by
      simp only [takeOverride, hcur]
    refine lift_next (f := fxProfileSelect) ?_
    rw [fxProfileSelect, if_neg (by simp [hrun, hnew, hsam]), htake]
    exact if_pos htier
  case demand =>
    intro s w hrun hdem hchosen
    refine lift_next (f := fxFirstPwrDemandWrite w.toNat) ?_
    rw [fxFirstPwrDemandWrite, if_neg (by simp [hrun, hdem, hchosen]), rangeWant]

end Sys2Proof.Machine
